-- ==== Sys2Proof/Word.lean ====
section
/-! DEFINITION. The word types, and the table type that holds sparse state. -/

namespace Sys2Proof

/-- One byte of memory, of a frame or of an image. -/
abbrev Byte := BitVec 8

/-- A 64-bit register or scalar (R78). -/
abbrev Word := BitVec 64

/-- Sparse data by number: pairs in rising order of their number. -/
abbrev Table (α : Type) := List (Nat × α)

end Sys2Proof
end

