-- ==== Sys2Proof/Syntax.lean ====
section
/-! DEFINITION. The commands: one constructor for each row of spec/opcode_table.json, with the row's operands. -/

namespace Sys2Proof

/-- The fields of a thread instruction (R77), less its opcode, which the constructor names. -/
structure TField where
  thr  : BitVec 6
  ty   : BitVec 4
  mod  : BitVec 6
  dst  : BitVec 10
  srcA : BitVec 10
  srcB : BitVec 10
  srcC : BitVec 10
  imm  : BitVec 64
  deriving DecidableEq, Repr

/-- A submission command less its Op (R215, R216). -/
structure SubCmd where
  flags   : BitVec 8
  stream  : BitVec 16
  client  : BitVec 8
  rsv0    : BitVec 24
  effStep : BitVec 32
  cookie  : BitVec 32
  arg0    : BitVec 64
  arg1    : BitVec 64
  arg2    : BitVec 64
  arg3    : BitVec 64
  rsv1    : BitVec 128
  deriving DecidableEq, Repr

/-- A submission entry as read from the Submission Ring, with the tokens of an APPEND (R215, R217). -/
structure SubEntry where
  op     : BitVec 8
  cmd    : SubCmd
  tokens : List (BitVec 32)
  deriving DecidableEq, Repr

/-- A frame with a good Crc as a link delivers it (R169, R170), with the symbols that the FEC corrected in it (R181). -/
structure Frame where
  cls         : BitVec 2
  kind        : BitVec 6
  units       : BitVec 6
  rsvA        : BitVec 1
  dup         : Bool
  seq         : BitVec 16
  ackSeq      : BitVec 16
  src         : BitVec 12
  dst         : BitVec 12
  ttl         : BitVec 4
  rsvB        : BitVec 4
  tag         : BitVec 16
  stamp       : BitVec 32
  arg         : BitVec 64
  payload     : List Byte
  creditClass : BitVec 2
  creditUnits : BitVec 10
  corrected   : Nat
  deriving DecidableEq, Repr

/-- The next entry of a Submission Ring as the device reads it from host memory, with the tokens of an APPEND (R215, R217). -/
structure SubRead where
  entry  : BitVec 512
  tokens : List (BitVec 32)
  deriving DecidableEq, Repr

/-- The link that delivers a control block, with the symbols that the FEC corrected in the block's codeword (R168, R181). -/
structure BlockRx where
  link : Fin 8
  corr : Nat
  deriving DecidableEq, Repr

/-- A frame of a time exchange, taken `since` ns after its first block left the FEC decoder (R303). -/
structure TimeRx where
  fr    : Frame
  since : Nat
  deriving DecidableEq, Repr

/-- What the parameter exchange of a training or retrain brings (R183, step 5). -/
structure LinkParams where
  chip    : BitVec 12
  role    : BitVec 3
  width   : BitVec 3
  freeU   : Nat
  freeS   : Nat
  freeB   : Nat
  nextSeq : BitVec 16
  deriving DecidableEq, Repr

/-- One estimator sample (R276, R294), in µW: the draw at full duty `d`, the static draw `stat`, the ballast draw at
full density `bfull`, the calibrated estimate `cal`, and the ungated core cycles that each partition's TPs ran or stalled
in a tile. -/
structure Sample where
  d     : Nat
  stat  : Nat
  bfull : Nat
  cal   : Nat
  busy  : List Nat
  deriving DecidableEq, Repr

/-- The answer of the VDD_CORE regulator in one PMBus slot (R355, R356): `none` is a NACK. `vout` is a new VOUT value
that the Regulator holds [mV]. -/
structure PmbAnswer where
  word : Option (BitVec 16)
  vout : Option Nat
  deriving DecidableEq, Repr

/-- The flash as Loading reads it (R316, R321): whether SFDP answered, and the bytes at the primary and golden addresses. -/
structure Flash where
  sfdp    : Bool
  primary : List Byte
  golden  : List Byte
  deriving DecidableEq, Repr

/-- The port that makes a register access (R394, R425): the physical function, a virtual function, the SMBus target, the
console, the Crown. -/
inductive Port where
  | pf
  | vf (p : Fin 8)
  | smbus
  | console
  | crown
  deriving DecidableEq, Repr

/-- A block whose operations queue (R91). -/
inductive BlockId where
  | selector
  | separator
  | churn
  | culture
  | walker (c : Fin 8)
  deriving DecidableEq, Repr

/-- A direction of change in a ramp domain (R286). -/
inductive Dir where
  | rise
  | descent
  deriving DecidableEq, Repr

/-- A ring neighbour. -/
inductive Side where
  | fwd
  | bwd
  deriving DecidableEq, Repr

/-- Which register of a ring's setup pair is written (R214, R399). -/
inductive RingReg where
  | base
  | size
  deriving DecidableEq, Repr

/-- Which of the two UART format registers is written (R341). -/
inductive UartReg where
  | ctrl
  | baud
  deriving DecidableEq, Repr

/-- One command for each row of the table of operations and events. -/
inductive Instr where
  -- thread instructions (R83)
  | nop    (tp : Fin 128) (f : TField)
  | tend   (tp : Fin 128) (f : TField)
  | tbr    (tp : Fin 128) (f : TField)
  | loop   (tp : Fin 128) (f : TField)
  | brk    (tp : Fin 128) (f : TField)
  | idle   (tp : Fin 128) (f : TField)
  | csync  (tp : Fin 128) (f : TField)
  | rdv    (tp : Fin 128) (f : TField)
  | ffence (tp : Fin 128) (f : TField)
  | spec   (tp : Fin 128) (f : TField)
  | mov    (tp : Fin 128) (f : TField)
  | vbc    (tp : Fin 128) (f : TField)
  | vins   (tp : Fin 128) (f : TField)
  | vext   (tp : Fin 128) (f : TField)
  | movi   (tp : Fin 128) (f : TField)
  | ld     (tp : Fin 128) (f : TField)
  | st     (tp : Fin 128) (f : TField)
  | mld    (tp : Fin 128) (f : TField)
  | mst    (tp : Fin 128) (f : TField)
  | mma    (tp : Fin 128) (f : TField)
  | valu   (tp : Fin 128) (f : TField)
  | vcvt   (tp : Fin 128) (f : TField)
  | vact   (tp : Fin 128) (f : TField)
  | vcmp   (tp : Fin 128) (f : TField)
  | vperm  (tp : Fin 128) (f : TField)
  | vred   (tp : Fin 128) (f : TField)
  | vscan  (tp : Fin 128) (f : TField)
  | salu   (tp : Fin 128) (f : TField)
  | sel    (tp : Fin 128) (f : TField)
  | dsp    (tp : Fin 128) (f : TField)
  | grw    (tp : Fin 128) (f : TField)
  | cmb    (tp : Fin 128) (f : TField)
  | cul    (tp : Fin 128) (f : TField)
  | ldx    (tp : Fin 128) (f : TField)
  -- block operations
  | blockQueueStart (b : BlockId)
  | selectorComplete
  | separatorComplete
  | balanceLogWrite
  | groupWalkerComplete (c : Fin 8)
  | churnComplete
  | cultureComplete
  | loaderDescriptorComplete (ch : Fin 16)
  | loaderReject (ch : Fin 16)
  | hbmAccessComplete (req : Nat)
  | remoteAccessTimeout (tag : BitVec 16)
  -- tiles, stops and ticks
  | tileBegin (tp : Fin 128) (slot : Fin 64) (waited : Nat)
  | ceilingOverrun (tp : Fin 128)
  | slipLimitCrossed (tp : Fin 128)
  | rendezvousOverrun (tp : Fin 128)
  | collectiveComplete (slot : Fin 64) (prog : BitVec 16)
  | collectiveFailed (slot : Fin 64) (prog : BitVec 16)
  | stopRelease (slot : Fin 64)
  | digestTimeout (slot : Fin 64)
  | beatTick
  | swingTick
  | hbmRefresh
  -- streams
  | doorbell (p : Fin 8) (idx : BitVec 32)
  | submissionRead (p : Fin 8) (e : SubRead)
  | openStream (p : Fin 8) (c : SubCmd)
  | appendTokens (p : Fin 8) (c : SubCmd) (tokens : List (BitVec 32))
  | pauseStream (p : Fin 8) (c : SubCmd)
  | resumeStream (p : Fin 8) (c : SubCmd)
  | cancelStream (p : Fin 8) (c : SubCmd)
  | rewardStream (p : Fin 8) (c : SubCmd)
  | nopCommand (p : Fin 8) (c : SubCmd)
  | stepBuild (p : Fin 8)
  | stepStart (p : Fin 8)
  | stmCqhead (p : Fin 8) (idx : BitVec 32)
  | submissionRingSetup (p : Fin 8) (r : RingReg) (v : BitVec 64)
  | completionRingSetup (p : Fin 8) (r : RingReg) (v : BitVec 64)
  | partitionReset (p : Fin 8)
  | lockLeaseExpiry (p : Fin 8) (stream : BitVec 12)
  -- jobs
  | install (slot : Fin 64)
  | start (slot : Fin 64)
  | preempt (slot : Fin 64)
  | remove (slot : Fin 64)
  | restart (slot : Fin 64)
  | jobReady (slot : Fin 64)
  | ringSwitch (p : Fin 8)
  | saveComplete (p : Fin 8)
  | restoreComplete (p : Fin 8)
  -- the Regulator
  | estimatorSample (x : Sample)
  | pwrShedNFall
  | pwrShedNRise
  | shedRequest (v : BitVec 32)
  | sensorConversion (temps : List (BitVec 16))
  | thermalHoldEnd
  | capWrite (v : BitVec 32)
  | startInstant
  | rampSyncRise
  -- ramp credits
  | rampWindow
  | leaseEnd (d : Dir) (id : BitVec 12)
  | reclaim (d : Dir) (chip : BitVec 12) (id : BitVec 12)
  | request (l : Fin 8) (fr : Frame)
  | grant (l : Fin 8) (fr : Frame)
  | queued (l : Fin 8) (fr : Frame)
  | returnCredits (l : Fin 8) (fr : Frame)
  | announce (l : Fin 8) (fr : Frame)
  | report (l : Fin 8) (fr : Frame)
  | beacon (l : Fin 8) (fr : Frame)
  | beaconSend
  | backupTakeover
  | poolFreezeEnd
  | requestResend (d : Dir)
  | pmbusSlot (slotB : Bool) (a : PmbAnswer)
  -- the Escapement
  | timeExchangeStart (l : Fin 8)
  | timeExchangeRequest (l : Fin 8) (fr : Frame) (since : Nat)
  | timeExchangeResponse (l : Fin 8) (x : TimeRx)
  | timeExchangeAbandon (l : Fin 8) (id : BitVec 8)
  | rateUpdate
  | holdoverEntry
  | parentChange
  | beatInEdge
  | beatInLost
  | rootFreeTimeout
  | lockTimeout
  -- links: blocks and errors
  | ack (x : BlockRx) (ackSeq : BitVec 16) (u : BitVec 16) (c : BitVec 16) (b : BitVec 16)
  | nak (x : BlockRx) (expected : BitVec 16)
  | alignmentMarker (x : BlockRx) (laneMap : BitVec 8) (counter : BitVec 64)
  | retrainRequest (x : BlockRx) (what : BitVec 8)
  | reservedControlBlock (x : BlockRx) (type : BitVec 8)
  | uncorrectableCodeword (l : Fin 8) (inFrame : Bool)
  | frameCrcFailure (l : Fin 8)
  -- links: frames
  | frameDiscard (l : Fin 8) (fr : Frame)
  | collectiveData (l : Fin 8) (fr : Frame)
  | remoteWrite (l : Fin 8) (fr : Frame)
  | remoteReadRequest (l : Fin 8) (fr : Frame)
  | remoteReadResponse (l : Fin 8) (fr : Frame)
  | remoteRefusal (l : Fin 8) (fr : Frame)
  | bulkCopy (l : Fin 8) (fr : Frame)
  | heartbeat (l : Fin 8) (fr : Frame)
  | routingDigest (l : Fin 8) (fr : Frame)
  | keeperMessage (l : Fin 8) (fr : Frame)
  | fenceNotice (l : Fin 8) (fr : Frame)
  | restoreDoneNotice (l : Fin 8) (fr : Frame)
  -- links: the transmitter and the states
  | frameBoundary (l : Fin 8)
  | replayTimeout (l : Fin 8)
  | errorLimit (l : Fin 8)
  | errorWindow (l : Fin 8)
  | trainingComplete (l : Fin 8) (lanes : BitVec 4) (p : LinkParams)
  | trainingFailed (l : Fin 8) (stepNo : BitVec 8)
  | fastRetrainComplete (l : Fin 8) (p : LinkParams)
  | fastRetrainTimeout (l : Fin 8)
  | failedRetry (l : Fin 8)
  | lossOfSignal (l : Fin 8) (lane : Fin 4)
  | lossOfBlockLock (l : Fin 8)
  | fastRetrain (l : Fin 8)
  | fullTraining (l : Fin 8)
  | heartbeatSuspect (n : Side)
  | heartbeatFailed (n : Side)
  | mirrorCheck
  -- Keeper operations at their swing
  | routeSet
  | ringSet
  | poolSet
  | keeperReward
  | fenceChip
  | unfenceChip
  | remapSlice
  | keeperSend (v : BitVec 32)
  | loaded (v : BitVec 32)
  -- scrubbing, fault and event registers
  | scrubPass
  | vatScrub
  | faultClear (v : BitVec 64)
  | eventRingHead (idx : BitVec 32)
  | eventRingSetup (r : RingReg) (v : BitVec 64)
  | eventRingEnable (v : BitVec 32)
  -- Culture registers
  | culSnreq (fn : Fin 9) (v : BitVec 64)
  | culSnrel (fn : Fin 9) (v : BitVec 64)
  | leaseExpired (id : BitVec 16)
  | culResumestep (v : BitVec 64)
  -- the UART
  | uartDataRead (port : Port)
  | uartDataWrite (port : Port) (v : BitVec 32)
  | uartStatRead (port : Port)
  | attnClear (port : Port) (v : BitVec 32)
  | uartFormatWrite (port : Port) (r : UartReg) (v : BitVec 32)
  | uartBrktx (port : Port) (v : BitVec 32)
  | breakTxEnd
  | characterReceived (data : List (Bool × Bool × Bool)) (parity : Bool × Bool × Bool) (stop : Bool × Bool × Bool)
  | characterSent
  | breakDetect
  | breakEnd (cycles : Nat)
  | managementReset
  | managementResetAssert
  -- the console
  | consoleRead (off : BitVec 32)
  | consoleWrite (off : BitVec 32) (v : BitVec 64)
  | consoleStatus
  | consoleReport
  -- the SMBus target
  | smbusSerial
  | smbusStatus
  | smbusTelemetry
  | smbusFaultSummary
  | smbusShedWrite (data : BitVec 8) (pec : Option (BitVec 8))
  | smbusShedRead
  | smbusOffsetWrite (data : BitVec 32) (pec : Option (BitVec 8))
  | smbusRegisterRead
  | smbusUnknownCommand (code : BitVec 8)
  | alertResponse
  | smbusTimeout (code : Option (BitVec 8))
  -- JTAG
  | tapReset
  | extest (cells : List Bool)
  | idcode
  | samplePreload (sampled : List Bool) (preload : List Bool)
  | clamp
  | highz
  | extestPulse (cells : List Bool)
  | extestTrain (cells : List Bool)
  | otpProg (off : BitVec 9) (bits : BitVec 8)
  | debug (write : Bool) (addr : BitVec 36) (v : BitVec 64)
  | bypass
  -- boot, pins, power
  | porRelease (spiVsel : Bool) (smbAddr : BitVec 2) (vddio33 : Bool)
  | porAssert
  | handover (flash : Flash) (voutMode : BitVec 8)
  | hbmInitComplete (stack : Fin 2) (failed : Option (BitVec 8))
  | enterRunning
  | perstNRelease
  | perstNAssert
  | pmeTurnOff
  | wake
  | dormantExit
  | flr (fn : Fin 9)
  | thermtrip
  | refclkLoss
  | hbmTemperatureRead (t0 : BitVec 16) (t1 : BitVec 16)
  -- host accesses
  | bar2Write (req : BitVec 16) (addr : BitVec 36) (data : List Byte)
  | bar2Read (req : BitVec 16) (addr : BitVec 36) (len : Nat)
  | bar0UnsupportedAccess (req : BitVec 16) (off : BitVec 32) (len : BitVec 32) (write : Bool)
  | registerWrite (port : Port) (off : BitVec 32) (wide : Bool) (v : BitVec 64)
  | vddAonFall
  | vddAonRise
  | d3hot
  | pcieLinkUp (gen : BitVec 3) (width : BitVec 5)
  deriving DecidableEq, Repr

end Sys2Proof
end

