-- ==== Sys2Proof/Decode.lean ====
section
/-! DEFINITION. Decoding of a command from the bits of the opcode table. The table of this block gives its rows no bits: a
command is named, and its operands are those of `Instr`. -/

namespace Sys2Proof

/-- The command that a word spells by the table's bits. No row has bits, so no word spells one. -/
def decodeTableWord (_nbits _w : Nat) : Option Instr := none

end Sys2Proof
end

