-- ==== Sys2Proof/Machine/Bytes.lean ====
section
/-! DEFINITION. Byte strings: little-endian numbers (R5), bit fields, tables, CRCs, SHA-256 and HMAC. -/

namespace Sys2Proof.Machine

/-! ### Numbers and bytes -/

/-- The number that bytes hold, least significant first (R5). -/
def leNat : List Byte → Nat
  | [] => 0
  | b :: bs => b.toNat + 256 * leNat bs

/-- The low `n` bytes of a number, least significant first (R5). -/
def leBytes : Nat → Nat → List Byte
  | 0, _ => []
  | n + 1, v => BitVec.ofNat 8 v :: leBytes n (v / 256)

/-- Bits [lo + w − 1 : lo] of a number. -/
def bits (v lo w : Nat) : Nat := (v >>> lo) % 2 ^ w

/-- Bit i of a number. -/
def bitAt (v i : Nat) : Bool := v.testBit i

/-- 1 for true. -/
def b2n (b : Bool) : Nat := if b then 1 else 0

/-- The number of `w` bits as a signed value. -/
def signed (w v : Nat) : Int := if v < 2 ^ (w - 1) then (v : Int) else (v : Int) - (2 ^ w : Nat)

/-- An integer modulo 2^w. -/
def wrapInt (w : Nat) (v : Int) : Nat := (v % ((2 ^ w : Nat) : Int)).toNat

/-- ceil(a / b). -/
def cdiv (a b : Nat) : Nat := (a + b - 1) / b

/-- a rounded up to a multiple of n. -/
def alignUp (a n : Nat) : Nat := cdiv a n * n

/-- Sequence comparison: a is newer than b in w bits (R177, R286, R302). -/
def newer (w a b : Nat) : Bool :=
  let d := (a + 2 ^ w - b % 2 ^ w) % 2 ^ w
  0 < d && d < 2 ^ (w - 1)

/-- (n − e) mod 2^32 < 2^31: step e is due at step n (R217). -/
def stepDue (n e : Nat) : Bool := (n + 2 ^ 32 - e % 2 ^ 32) % 2 ^ 32 < 2 ^ 31

/-- Bytes of a string of characters below 256. -/
def strBytes (s : String) : List Byte := s.toList.map fun c => BitVec.ofNat 8 c.toNat

/-- Hexadecimal digit, upper case. -/
def hexDigit (n : Nat) : Byte :=
  if n < 10 then BitVec.ofNat 8 (48 + n) else BitVec.ofNat 8 (55 + n)

/-- `n` hexadecimal digits of a number, most significant first. -/
def hexDigits : Nat → Nat → List Byte
  | 0, _ => []
  | n + 1, v => hexDigit (v / 16 ^ n % 16) :: hexDigits n v

/-- Hexadecimal digits of a number without leading zeros. -/
def hexShort (v : Nat) : List Byte := hexDigits (max 1 (cdiv (v.log2 + b2n (v != 0)) 4)) v

/-- Decimal digits, by fuel. -/
def decDigits : Nat → Nat → List Byte
  | 0, _ => []
  | k + 1, v =>
    if v < 10 then [BitVec.ofNat 8 (48 + v)] else decDigits k (v / 10) ++ [BitVec.ofNat 8 (48 + v % 10)]

/-- A list of numbers from `a`, `n` of them. -/
def upFrom : Nat → Nat → List Nat
  | _, 0 => []
  | a, n + 1 => a :: upFrom (a + 1) n

/-- `List.mapM` for `Option`, written out so that it computes by the list alone. -/
def optMap {α β : Type} (f : α → Option β) : List α → Option (List β)
  | [] => some []
  | x :: xs =>
    match f x with
    | none => none
    | some y => match optMap f xs with
      | none => none
      | some ys => some (y :: ys)

/-- Insertion by a strict order; equal elements keep their order. -/
def insertBy {α : Type} (lt : α → α → Bool) (x : α) : List α → List α
  | [] => [x]
  | y :: ys => if lt x y then x :: y :: ys else y :: insertBy lt x ys

/-- Stable insertion sort. -/
def sortBy {α : Type} (lt : α → α → Bool) (xs : List α) : List α :=
  xs.foldl (fun acc x => insertBy lt x acc) []

/-- The sum of a list. -/
def sumNat : List Nat → Nat
  | [] => 0
  | x :: xs => x + sumNat xs

/-- The largest of a list, 0 when it is empty. -/
def maxNat : List Nat → Nat
  | [] => 0
  | x :: xs => max x (maxNat xs)

/-! ### Tables -/

/-- The value under a number, `d` where none is listed. -/
def tget {α : Type} (d : α) : Table α → Nat → α
  | [], _ => d
  | (k', v) :: t, k => if k' = k then v else tget d t k

/-- The table without a number's entries. -/
def tdel {α : Type} : Table α → Nat → Table α
  | [], _ => []
  | (k', v) :: t, k => if k' = k then tdel t k else (k', v) :: tdel t k

/-- Insertion in rising order of numbers. -/
def tins {α : Type} (k : Nat) (v : α) : Table α → Table α
  | [] => [(k, v)]
  | (k', v') :: t => if k < k' then (k, v) :: (k', v') :: t else (k', v') :: tins k v t

/-- The table with a number's value replaced. -/
def tput {α : Type} (t : Table α) (k : Nat) (v : α) : Table α := tins k v (tdel t k)

/-- The table with a number's value changed by a function. -/
def tmod {α : Type} (d : α) (t : Table α) (k : Nat) (f : α → α) : Table α := tput t k (f (tget d t k))

/-! ### Byte memory in canonical form -/

/-- One byte of a memory: 0 where nothing is listed (log 6). -/
def memGet (m : Table Byte) (a : Nat) : Byte := tget 0 m a

/-- A memory with one byte written; a zero byte is not listed. -/
def memPut (m : Table Byte) (a : Nat) (b : Byte) : Table Byte :=
  if b = 0 then tdel m a else tput m a b

/-- `n` bytes from an address up. -/
def memRead (m : Table Byte) (a : Nat) : Nat → List Byte
  | 0 => []
  | n + 1 => memGet m a :: memRead m (a + 1) n

/-- Bytes written from an address up. -/
def memWrite (m : Table Byte) (a : Nat) : List Byte → Table Byte
  | [] => m
  | b :: bs => memWrite (memPut m a b) (a + 1) bs

/-- An `n`-byte number in memory. -/
def memNat (m : Table Byte) (a n : Nat) : Nat := leNat (memRead m a n)

/-- An `n`-byte number written. -/
def memPutNat (m : Table Byte) (a n v : Nat) : Table Byte := memWrite m a (leBytes n v)

/-- The canonical form: addresses strictly rising from a bound, and no zero byte listed. -/
def memWfFrom : Nat → Table Byte → Bool
  | _, [] => true
  | lo, (a, b) :: m => decide (lo ≤ a) && (b != 0) && memWfFrom (a + 1) m

/-- The canonical form of a memory. -/
def Memory.wf (m : Table Byte) : Bool := memWfFrom 0 m

/-! ### CRCs -/

/-- `n` steps of a reflected CRC register. -/
def crcRefl (poly : Nat) : Nat → Nat → Nat
  | 0, c => c
  | n + 1, c => crcRefl poly n (if c % 2 = 1 then (c / 2).xor poly else c / 2)

/-- A reflected CRC register over bytes. -/
def crcReflBytes (poly : Nat) : Nat → List Byte → Nat
  | c, [] => c
  | c, b :: bs => crcReflBytes poly (crcRefl poly 8 (c.xor b.toNat)) bs

/-- CRC-32C (R39, R170, R208). -/
def crc32c (bs : List Byte) : Nat := (crcReflBytes 0x82F63B78 0xFFFFFFFF bs).xor 0xFFFFFFFF

/-- CRC-64 with the ECMA-182 polynomial, reflected (R202). -/
def crc64 (bs : List Byte) : Nat :=
  (crcReflBytes 0xC96C5795D7870F42 0xFFFFFFFFFFFFFFFF bs).xor 0xFFFFFFFFFFFFFFFF

/-- `n` steps of the CRC-8 register x^8 + x^2 + x + 1 (R324). -/
def crc8Steps : Nat → Nat → Nat
  | 0, c => c
  | n + 1, c => crc8Steps n (if c ≥ 128 then ((c * 2) % 256).xor 7 else c * 2)

/-- CRC-8 of records and of the SMBus PEC (R324, R352). -/
def crc8 (bs : List Byte) : Nat := bs.foldl (fun c b => crc8Steps 8 (c.xor b.toNat)) 0

/-! ### SHA-256 and HMAC (R375) -/

/-- The first 64 primes: every composite below 312 has a factor of at most 17. -/
def shaPrimes : List Nat := (upFrom 2 310).filter fun n => [2, 3, 5, 7, 11, 13, 17].all fun d => n == d || n % d != 0

/-- The k-th root of a number rounded down, from bit `i` of the root downwards, added to the bits found so far. -/
def rootBits (k v : Nat) : Nat → Nat → Nat
  | 0, r => r
  | i + 1, r => rootBits k v i (if (r + 2 ^ i) ^ k ≤ v then r + 2 ^ i else r)

/-- The first 32 bits after the point of the k-th root of a prime below 312. -/
def rootFrac (k p : Nat) : Nat := rootBits k (p * 2 ^ (32 * k)) 37 0 % 2 ^ 32

/-- A 32-bit word turned right. -/
def turn (n x : Nat) : Nat := x / 2 ^ n + x % 2 ^ n * 2 ^ (32 - n)

/-- The exclusive or of a word turned three ways. -/
def turns (i j k x : Nat) : Nat := ((turn i x).xor (turn j x)).xor (turn k x)

/-- The schedule of a block, newest word first, lengthened by `n` words. -/
def shaSchedule : Nat → List Nat → List Nat
  | 0, w => w
  | n + 1, w =>
    let old := w.getD 14 0
    let new := w.getD 1 0
    let grow := (((turn 7 old).xor (turn 18 old)).xor (old / 8)) + (((turn 17 new).xor (turn 19 new)).xor (new / 1024))
    shaSchedule n ((grow + w.getD 6 0 + w.getD 15 0) % 2 ^ 32 :: w)

/-- One step of the compression of eight words with a word of the schedule and its constant added. -/
def shaStep : List Nat → Nat → List Nat
  | [a, b, c, d, e, f, g, h], x =>
    let pick := (e.land f).xor ((2 ^ 32 - 1 - e).land g)
    let most := ((a.land b).xor (a.land c)).xor (b.land c)
    let t := h + turns 6 11 25 e + pick + x
    [(t + turns 2 13 22 a + most) % 2 ^ 32, a, b, c, (d + t) % 2 ^ 32, e, f, g]
  | v, _ => v

/-- Big-endian words of bytes. -/
def beWords (n : Nat) (bs : List Byte) : List Nat := (upFrom 0 n).map fun i => leNat ((bs.drop (4 * i)).take 4).reverse

/-- A block of 64 bytes taken into the eight words of the hash. -/
def shaBlock (h : List Nat) (blk : List Byte) : List Nat :=
  let w := (shaSchedule 48 (beWords 16 blk).reverse).reverse
  let v := (List.zipWith (fun x p => x + rootFrac 3 p) w shaPrimes).foldl shaStep h
  List.zipWith (fun x y => (x + y) % 2 ^ 32) h v

/-- The `n` blocks of a padded message taken into the hash. -/
def shaBlocks : Nat → List Byte → List Nat → List Nat
  | 0, _, h => h
  | n + 1, bs, h => shaBlocks n (bs.drop 64) (shaBlock h (bs.take 64))

/-- SHA-256: it begins with the square roots of the first eight primes, and its constants are the cube roots of all 64. -/
def sha256 (bs : List Byte) : List Byte :=
  let padded := bs ++ 0x80 :: List.replicate ((119 - bs.length % 64) % 64) 0 ++ (leBytes 8 (8 * bs.length)).reverse
  (shaBlocks (padded.length / 64) padded ((shaPrimes.take 8).map (rootFrac 2))).flatMap fun x => (leBytes 4 x).reverse

/-- HMAC-SHA-256 with a key of at most 64 bytes (R375). -/
def hmacSha256 (key msg : List Byte) : List Byte :=
  let k := key ++ List.replicate (64 - key.length) 0
  sha256 (k.map (· ^^^ 0x5c) ++ sha256 (k.map (· ^^^ 0x36) ++ msg))

end Sys2Proof.Machine
end

