-- ==== Sys2Proof/Machine/Catalogue.lean ====
section
/-! DEFINITION. The catalogue of configuration fields (R335): IDs, lengths, permitted values, defaults and clamp rules. -/

namespace Sys2Proof.Machine

/-- The two clamp rules of R327, and no rule where every value is permitted. -/
inductive ClampRule where
  | c
  | d
  | any
  deriving DecidableEq, Repr

/-- A catalogue field. The permitted values are the multiples of `step` from `lo` to `hi`, or 0 as well when `zero` is
set, or the listed ones when `list` is not empty. -/
structure Field where
  id   : Nat
  path : String
  len  : Nat
  lo   : Nat
  hi   : Nat
  step : Nat := 1
  zero : Bool := false
  list : List Nat := []
  dflt : Nat
  rule : ClampRule
  deriving DecidableEq, Repr

/-- The last 64 B line of HBM (R58). -/
def hbmLastLine : Nat := 0xBFFFFFFC0

/-- The identity to links groups (R335). -/
def catalogueA : List Field :=
  [ { id := 0x0101, path := "identity.chip_id", len := 2, lo := 0, hi := 0xFFE, dflt := 0, rule := .d },
    { id := 0x0201, path := "clocks.avs_enable", len := 1, lo := 0, hi := 1, dflt := 1, rule := .d },
    { id := 0x0202, path := "clocks.vdd_core_min", len := 2, lo := 650, hi := 850, step := 5, dflt := 650, rule := .c },
    { id := 0x0203, path := "clocks.vdd_core_max", len := 2, lo := 650, hi := 850, step := 5, dflt := 850, rule := .c },
    { id := 0x0301, path := "hbm.scrub_period", len := 2, lo := 10, hi := 10000, zero := true, dflt := 1000, rule := .c },
    { id := 0x0302, path := "hbm.zero_fill", len := 1, lo := 0, hi := 1, dflt := 0, rule := .d },
    { id := 0x0401, path := "links.max_width", len := 1, lo := 1, hi := 4, list := [1, 2, 4], dflt := 4, rule := .c },
    { id := 0x0402, path := "links.error_limit", len := 1, lo := 1, hi := 255, dflt := 8, rule := .c },
    { id := 0x0410, path := "links.0.role", len := 1, lo := 0, hi := 4, dflt := 0, rule := .d },
    { id := 0x0411, path := "links.1.role", len := 1, lo := 0, hi := 4, dflt := 0, rule := .d },
    { id := 0x0412, path := "links.2.role", len := 1, lo := 0, hi := 4, dflt := 0, rule := .d },
    { id := 0x0413, path := "links.3.role", len := 1, lo := 0, hi := 4, dflt := 0, rule := .d },
    { id := 0x0414, path := "links.4.role", len := 1, lo := 0, hi := 4, dflt := 0, rule := .d },
    { id := 0x0415, path := "links.5.role", len := 1, lo := 0, hi := 4, dflt := 0, rule := .d },
    { id := 0x0416, path := "links.6.role", len := 1, lo := 0, hi := 4, dflt := 0, rule := .d },
    { id := 0x0417, path := "links.7.role", len := 1, lo := 0, hi := 4, dflt := 0, rule := .d },
    { id := 0x0501, path := "routes.block", len := 0, lo := 0, hi := 0, dflt := 0, rule := .any } ]

/-- The ring and partitions groups (R335). -/
def catalogueB : List Field :=
  [ { id := 0x0601, path := "ring.size", len := 1, lo := 2, hi := 64, zero := true, dflt := 0, rule := .d },
    { id := 0x0602, path := "ring.slice_index", len := 1, lo := 0, hi := 63, dflt := 0, rule := .d },
    { id := 0x0603, path := "ring.forward_chip", len := 2, lo := 0, hi := 0xFFF, dflt := 0xFFF, rule := .d },
    { id := 0x0604, path := "ring.backward_chip", len := 2, lo := 0, hi := 0xFFF, dflt := 0xFFF, rule := .d },
    { id := 0x0605, path := "ring.mirror_enable", len := 1, lo := 0, hi := 1, dflt := 0, rule := .d },
    { id := 0x0606, path := "ring.slice_base", len := 8, lo := 0, hi := hbmLastLine, step := 64, dflt := 0, rule := .d },
    { id := 0x0607, path := "ring.slice_bytes", len := 8, lo := 0, hi := 0xFFFFFFFFFFFFFFC0, step := 64, dflt := 0, rule := .d },
    { id := 0x0608, path := "ring.mirror_base", len := 8, lo := 0, hi := hbmLastLine, step := 64, dflt := 0, rule := .d },
    { id := 0x0701, path := "partitions.mode", len := 1, lo := 0, hi := 1, dflt := 0, rule := .d },
    { id := 0x0702, path := "partitions.vat_swizzle_shift", len := 1, lo := 12, hi := 18, zero := true, dflt := 12, rule := .d },
    { id := 0x0703, path := "partitions.stop_interval", len := 1, lo := 1, hi := 32, dflt := 16, rule := .c },
    { id := 0x0704, path := "partitions.quantum", len := 4, lo := 16, hi := 1000000, dflt := 1000, rule := .c },
    { id := 0x0705, path := "partitions.interleave_max", len := 1, lo := 1, hi := 8, dflt := 4, rule := .c },
    { id := 0x0706, path := "partitions.ring_quantum_steps", len := 2, lo := 1, hi := 65535, dflt := 64, rule := .c },
    { id := 0x0707, path := "partitions.ring_switch_swings", len := 1, lo := 1, hi := 255, dflt := 4, rule := .c },
    { id := 0x0710, path := "partitions.0.clusters", len := 1, lo := 0, hi := 255, dflt := 0xFF, rule := .d },
    { id := 0x0711, path := "partitions.1.clusters", len := 1, lo := 0, hi := 255, dflt := 0, rule := .d },
    { id := 0x0712, path := "partitions.2.clusters", len := 1, lo := 0, hi := 255, dflt := 0, rule := .d },
    { id := 0x0713, path := "partitions.3.clusters", len := 1, lo := 0, hi := 255, dflt := 0, rule := .d },
    { id := 0x0714, path := "partitions.4.clusters", len := 1, lo := 0, hi := 255, dflt := 0, rule := .d },
    { id := 0x0715, path := "partitions.5.clusters", len := 1, lo := 0, hi := 255, dflt := 0, rule := .d },
    { id := 0x0716, path := "partitions.6.clusters", len := 1, lo := 0, hi := 255, dflt := 0, rule := .d },
    { id := 0x0717, path := "partitions.7.clusters", len := 1, lo := 0, hi := 255, dflt := 0, rule := .d },
    { id := 0x0718, path := "partitions.0.profile", len := 1, lo := 0, hi := 1, dflt := 0, rule := .d },
    { id := 0x0719, path := "partitions.1.profile", len := 1, lo := 0, hi := 1, dflt := 0, rule := .d },
    { id := 0x071A, path := "partitions.2.profile", len := 1, lo := 0, hi := 1, dflt := 0, rule := .d },
    { id := 0x071B, path := "partitions.3.profile", len := 1, lo := 0, hi := 1, dflt := 0, rule := .d },
    { id := 0x071C, path := "partitions.4.profile", len := 1, lo := 0, hi := 1, dflt := 0, rule := .d },
    { id := 0x071D, path := "partitions.5.profile", len := 1, lo := 0, hi := 1, dflt := 0, rule := .d },
    { id := 0x071E, path := "partitions.6.profile", len := 1, lo := 0, hi := 1, dflt := 0, rule := .d },
    { id := 0x071F, path := "partitions.7.profile", len := 1, lo := 0, hi := 1, dflt := 0, rule := .d } ]

/-- The serving to escapement groups (R335). -/
def catalogueC : List Field :=
  [ { id := 0x0801, path := "serving.prefill_chunk", len := 2, lo := 128, hi := 8192, step := 128, dflt := 1024, rule := .c },
    { id := 0x0802, path := "serving.prefill_cap", len := 2, lo := 0, hi := 16384, step := 128, dflt := 4096, rule := .c },
    { id := 0x0803, path := "serving.stream_lock_lease", len := 2, lo := 1, hi := 10000, dflt := 1000, rule := .c },
    { id := 0x0804, path := "serving.balance_log_base", len := 8, lo := 0, hi := hbmLastLine, step := 64, dflt := 0, rule := .d },
    { id := 0x0805, path := "serving.balance_log_lines", len := 4, lo := 0, hi := 16777216, dflt := 0, rule := .c },
    { id := 0x0901, path := "regulator.envelope", len := 1, lo := 75, hi := 240, dflt := 240, rule := .c },
    { id := 0x0902, path := "regulator.ramp_up_limit", len := 1, lo := 1, hi := 200, dflt := 20, rule := .c },
    { id := 0x0903, path := "regulator.ramp_down_limit", len := 1, lo := 1, hi := 200, dflt := 20, rule := .c },
    { id := 0x0904, path := "regulator.policy", len := 1, lo := 0, hi := 1, dflt := 0, rule := .d },
    { id := 0x0905, path := "regulator.flat_floor", len := 1, lo := 35, hi := 240, dflt := 150, rule := .c },
    { id := 0x0906, path := "regulator.flat_band", len := 1, lo := 1, hi := 50, dflt := 10, rule := .c },
    { id := 0x0907, path := "regulator.stagger_modulus", len := 2, lo := 1, hi := 4096, dflt := 64, rule := .c },
    { id := 0x0908, path := "regulator.stagger_step", len := 2, lo := 0, hi := 1000, dflt := 10, rule := .c },
    { id := 0x0909, path := "regulator.thermal_limit", len := 1, lo := 85, hi := 110, dflt := 105, rule := .c },
    { id := 0x0A01, path := "ramp.domain", len := 1, lo := 0, hi := 255, dflt := 0, rule := .d },
    { id := 0x0A02, path := "ramp.pool_chip", len := 2, lo := 0, hi := 0xFFF, dflt := 0xFFF, rule := .d },
    { id := 0x0A03, path := "ramp.backup_chip", len := 2, lo := 0, hi := 0xFFF, dflt := 0xFFF, rule := .d },
    { id := 0x0A04, path := "ramp.window", len := 2, lo := 10, hi := 10000, dflt := 1000, rule := .c },
    { id := 0x0A05, path := "ramp.rise_pool", len := 4, lo := 0, hi := 1048575, dflt := 0, rule := .c },
    { id := 0x0A06, path := "ramp.descent_pool", len := 4, lo := 0, hi := 1048575, dflt := 0, rule := .c },
    { id := 0x0A07, path := "ramp.free_allowance", len := 1, lo := 0, hi := 16, dflt := 1, rule := .c },
    { id := 0x0A08, path := "ramp.max_request", len := 1, lo := 1, hi := 240, dflt := 240, rule := .c },
    { id := 0x0B01, path := "escapement.root_chip", len := 2, lo := 0, hi := 0xFFF, dflt := 0xFFF, rule := .d },
    { id := 0x0B02, path := "escapement.beat_in_enable", len := 1, lo := 0, hi := 1, dflt := 0, rule := .d },
    { id := 0x0B03, path := "escapement.beat_out_mode", len := 1, lo := 0, hi := 3, dflt := 0, rule := .d },
    { id := 0x0B04, path := "escapement.lock_timeout", len := 2, lo := 100, hi := 60000, dflt := 5000, rule := .c } ]

/-- The mgmt to security groups (R335). -/
def catalogueD : List Field :=
  [ { id := 0x0C01, path := "mgmt.uart_baud", len := 4, lo := 9600, hi := 3000000, dflt := 115200, rule := .c },
    { id := 0x0C02, path := "mgmt.uart_format", len := 1, lo := 0, hi := 31,
      list := [0, 1, 2, 3, 4, 5, 6, 7, 8, 9, 16, 17, 18, 19, 20, 21, 22, 23, 24, 25], dflt := 0, rule := .d },
    { id := 0x0C03, path := "mgmt.uart_owner", len := 1, lo := 0, hi := 1, dflt := 0, rule := .d },
    { id := 0x0C04, path := "mgmt.uart_break_reset", len := 1, lo := 0, hi := 1, dflt := 0, rule := .d },
    { id := 0x0C05, path := "mgmt.smbus_pec", len := 1, lo := 0, hi := 1, dflt := 0, rule := .d },
    { id := 0x0C06, path := "mgmt.pmbus_core_addr", len := 1, lo := 0x08, hi := 0x77, dflt := 0x40, rule := .d },
    { id := 0x0D01, path := "pcie.max_gen", len := 1, lo := 1, hi := 5, dflt := 5, rule := .c },
    { id := 0x0D02, path := "pcie.max_width", len := 1, lo := 4, hi := 16, list := [4, 8, 16], dflt := 16, rule := .c },
    { id := 0x0D03, path := "pcie.sriov_enable", len := 1, lo := 0, hi := 1, dflt := 0, rule := .d },
    { id := 0x0D04, path := "pcie.subsystem_id", len := 2, lo := 0, hi := 0xFFFF, dflt := 0, rule := .any },
    { id := 0x0E01, path := "faults.fault_n_level", len := 1, lo := 0, hi := 1, dflt := 1, rule := .d },
    { id := 0x0F01, path := "culture.feedback_seed", len := 8, lo := 0, hi := 0xFFFFFFFFFFFFFFFF, dflt := 0, rule := .any },
    { id := 0x0F02, path := "culture.snapshot_lease", len := 2, lo := 1, hi := 60000, dflt := 100, rule := .c },
    { id := 0x1001, path := "security.jtag_debug", len := 1, lo := 0, hi := 1, dflt := 1, rule := .d },
    { id := 0x1002, path := "security.bar2_debug", len := 1, lo := 0, hi := 1, dflt := 1, rule := .d } ]

/-- Every catalogue field in ascending ID (R335). -/
def catalogue : List Field := catalogueA ++ (catalogueB ++ (catalogueC ++ catalogueD))

/-- A field by ID in a list of fields. -/
def findField (id : Nat) : List Field → Option Field
  | [] => none
  | f :: fs => if f.id = id then some f else findField id fs

/-- The default of a field, 0 for an ID that is not in the catalogue. -/
def fieldDefault (id : Nat) : Nat :=
  match findField id catalogue with
  | some f => f.dflt
  | none => 0

/-- Is a value permitted for a field. -/
def fieldPermits (f : Field) (v : Nat) : Bool :=
  if f.list.isEmpty then
    (f.zero && v == 0) || (decide (f.lo ≤ v) && decide (v ≤ f.hi) && v % f.step == 0)
  else f.list.contains v

/-- The next permitted value at or below a value inside the range (R327). -/
def fieldFloor (f : Field) (v : Nat) : Nat :=
  if f.list.isEmpty then (if v < f.lo then 0 else v / f.step * f.step)
  else maxNat (f.list.filter (· ≤ v))

/-- The least permitted value of a field. -/
def fieldMin (f : Field) : Nat := if f.zero then 0 else f.lo

/-- Range checking and clamping (R327): the applied value, and whether it changed. -/
def fieldClamp (f : Field) (v : Nat) : Nat × Bool :=
  match f.rule with
  | .any => (v, false)
  | .d => if fieldPermits f v then (v, false) else (f.dflt, true)
  | .c =>
    let w := if v < fieldMin f then fieldMin f else if f.hi < v then f.hi else fieldFloor f v
    (w, w != v)

end Sys2Proof.Machine
end

