-- ==== Sys2Proof/Machine/Float.lean ====
section
/-! DEFINITION. Numbers in the element types of R79: exact values, one rounding (R81, R86), exp and sigmoid (R114),
and the fixed-point formats of R258. -/

namespace Sys2Proof.Machine

/-! ### Element types (R79) -/

/-- The element types of R79 that have lanes. -/
inductive ElTy where
  | e4m3
  | e5m2
  | bf16
  | fp16
  | fp32
  | i8
  | i32
  deriving DecidableEq, Repr

/-- The element type of a Type code. -/
def elTy (code : Nat) : Option ElTy :=
  match code with
  | 1 => some .e4m3
  | 2 => some .e5m2
  | 3 => some .bf16
  | 4 => some .fp16
  | 5 => some .fp32
  | 6 => some .i8
  | 7 => some .i32
  | _ => none

/-- Size of an element in bytes. -/
def elSize : ElTy → Nat
  | .e4m3 | .e5m2 | .i8 => 1
  | .bf16 | .fp16 => 2
  | .fp32 | .i32 => 4

/-- Lanes of a 64 B operand (R79). -/
def elLanes (t : ElTy) : Nat := 64 / elSize t

/-- Width of an element in bits. -/
def elBits (t : ElTy) : Nat := 8 * elSize t

/-- The integer types. -/
def elIsInt : ElTy → Bool
  | .i8 | .i32 => true
  | _ => false

/-- Fraction bits of a floating-point type. -/
def elMan : ElTy → Nat
  | .e4m3 => 3
  | .e5m2 => 2
  | .bf16 => 7
  | .fp16 => 10
  | _ => 23

/-- Exponent bits of a floating-point type. -/
def elExp : ElTy → Nat
  | .e4m3 => 4
  | .e5m2 => 5
  | .fp16 => 5
  | _ => 8

/-- Exponent bias of a floating-point type. -/
def elBias (t : ElTy) : Nat := 2 ^ (elExp t - 1) - 1

/-! ### Exact values -/

/-- A floating-point value: not a number, an infinity, or (−1)^neg × m × 2^e, exactly. -/
inductive FVal where
  | nan
  | inf (neg : Bool)
  | fin (neg : Bool) (m : Nat) (e : Int)
  deriving DecidableEq, Repr

/-- The value of a bit pattern of a floating-point type (R5). -/
def fpDecode (t : ElTy) (v : Nat) : FVal :=
  let mb := elMan t
  let eb := elExp t
  let neg := bitAt v (mb + eb)
  let ex := bits v mb eb
  let fr := bits v 0 mb
  if ex = 2 ^ eb - 1 ∧ t ≠ .e4m3 then (if fr = 0 then .inf neg else .nan)
  else if ex = 2 ^ eb - 1 ∧ fr = 2 ^ mb - 1 then .nan
  else if ex = 0 then .fin neg fr (1 - elBias t - mb)
  else .fin neg (2 ^ mb + fr) ((ex : Int) - elBias t - mb)

/-- The canonical quiet NaN of a type (R86). -/
def fpNan : ElTy → Nat
  | .e4m3 => 0x7F
  | .e5m2 => 0x7E
  | .bf16 => 0x7FC0
  | .fp16 => 0x7E00
  | _ => 0x7FC00000

/-- The pattern of infinity, or of the largest finite value where infinity saturates (R86). -/
def fpInf (t : ElTy) : Nat :=
  if t = .e4m3 then 0x7E else (2 ^ elExp t - 1) * 2 ^ elMan t

/-- The pattern that a finite value beyond the range takes: saturation in FP8, infinity elsewhere (R86). -/
def fpOver (t : ElTy) : Nat :=
  if t = .e4m3 then 0x7E else if t = .e5m2 then 0x7B else fpInf t

/-- The largest finite pattern. -/
def fpMax (t : ElTy) : Nat := if t = .e4m3 then 0x7E else fpInf t - 1

/-- m / 2^k rounded to the nearest integer, ties to even. -/
def roundShift (m k : Nat) : Nat :=
  let q := m >>> k
  let r := m % 2 ^ k
  if k = 0 then m
  else if 2 * r > 2 ^ k ∨ (2 * r = 2 ^ k ∧ q % 2 = 1) then q + 1 else q

/-- The magnitude m × 2^e rounded once into a type, to nearest even, without its sign. -/
def fpRoundMag (t : ElTy) (m : Nat) (e : Int) : Nat :=
  if m = 0 then 0
  else
    let emin : Int := 1 - elBias t
    let top : Int := (m.log2 : Int) + e
    let q : Int := max top emin - elMan t
    let mant := if q ≤ e then m <<< (e - q).toNat else roundShift m (q - e).toNat
    let pat := ((q - (emin - elMan t)).toNat <<< elMan t) + mant
    if pat > fpMax t then fpOver t else pat

/-- A value rounded once into a type (R86). -/
def fpEncode (t : ElTy) (x : FVal) : Nat :=
  let sgn := 2 ^ (elMan t + elExp t)
  match x with
  | .nan => fpNan t
  | .inf neg => b2n neg * sgn + fpInf t
  | .fin neg m e => b2n neg * sgn + fpRoundMag t m e

/-- The sign of a value. -/
def fvNeg : FVal → Bool
  | .nan => false
  | .inf n => n
  | .fin n _ _ => n

/-- The value with its sign changed. -/
def fvMinus : FVal → FVal
  | .nan => .nan
  | .inf n => .inf (!n)
  | .fin n m e => .fin (!n) m e

/-- The magnitude of a value. -/
def fvAbs : FVal → FVal
  | .nan => .nan
  | .inf _ => .inf false
  | .fin _ m e => .fin false m e

/-- The exact product. -/
def fvMul : FVal → FVal → FVal
  | .nan, _ => .nan
  | _, .nan => .nan
  | .inf a, .inf b => .inf (a != b)
  | .inf a, .fin b m _ => if m = 0 then .nan else .inf (a != b)
  | .fin a m _, .inf b => if m = 0 then .nan else .inf (a != b)
  | .fin a m e, .fin b n f => .fin (a != b) (m * n) (e + f)

/-- The signed integer of a finite value at a lower exponent. -/
def fvInt (neg : Bool) (m : Nat) (e lo : Int) : Int :=
  let v : Int := ((m <<< (e - lo).toNat : Nat) : Int)
  if neg then -v else v

/-- The exact sum; an exact zero is −0 only when both terms are negative. -/
def fvAdd : FVal → FVal → FVal
  | .nan, _ => .nan
  | _, .nan => .nan
  | .inf a, .inf b => if a = b then .inf a else .nan
  | .inf a, .fin _ _ _ => .inf a
  | .fin _ _ _, .inf b => .inf b
  | .fin a m e, .fin b n f =>
    let lo := min e f
    let v := fvInt a m e lo + fvInt b n f lo
    if v = 0 then .fin (a && b) 0 lo else .fin (decide (v < 0)) v.natAbs lo

/-- The quotient, exact enough that one rounding of it rounds the true quotient once: 128 further bits and a sticky bit. -/
def fvDiv : FVal → FVal → FVal
  | .nan, _ => .nan
  | _, .nan => .nan
  | .inf _, .inf _ => .nan
  | .inf a, .fin b _ _ => .inf (a != b)
  | .fin a _ _, .inf b => .fin (a != b) 0 0
  | .fin a m e, .fin b n f =>
    if n = 0 then (if m = 0 then .nan else .inf (a != b))
    else
      let k := 128 + n.log2
      let q := (m <<< k) / n
      let s := if (m <<< k) % n = 0 then 0 else 1
      .fin (a != b) (2 * q + s) (e - f - k - 1)

/-- Exact comparison of two values that are not NaN: −0 equals +0. -/
def fvLt : FVal → FVal → Bool
  | .nan, _ => false
  | _, .nan => false
  | .inf a, .inf b => a && !b
  | .inf a, .fin _ _ _ => a
  | .fin _ _ _, .inf b => !b
  | .fin a m e, .fin b n f =>
    let lo := min e f
    decide (fvInt a m e lo < fvInt b n f lo)

/-- Equality of two values that are not NaN: −0 equals +0. -/
def fvEq (x y : FVal) : Bool :=
  match x, y with
  | .nan, _ => false
  | _, .nan => false
  | _, _ => !fvLt x y && !fvLt y x

/-- Is the value NaN. -/
def fvIsNan : FVal → Bool
  | .nan => true
  | _ => false

/-- Is the value NaN or infinite. -/
def fvNonFinite : FVal → Bool
  | .fin _ _ _ => false
  | _ => true

/-! ### FP32 operations on patterns, rounded once (R86) -/

/-- The value of an FP32 pattern. -/
def f32 (v : Nat) : FVal := fpDecode .fp32 v

/-- FP32 addition. -/
def f32Add (a b : Nat) : Nat := fpEncode .fp32 (fvAdd (f32 a) (f32 b))

/-- FP32 subtraction. -/
def f32Sub (a b : Nat) : Nat := fpEncode .fp32 (fvAdd (f32 a) (fvMinus (f32 b)))

/-- FP32 multiplication. -/
def f32Mul (a b : Nat) : Nat := fpEncode .fp32 (fvMul (f32 a) (f32 b))

/-- FP32 division. -/
def f32Div (a b : Nat) : Nat := fpEncode .fp32 (fvDiv (f32 a) (f32 b))

/-- FP32 fused multiply-add, rounded once. -/
def f32Fma (a b c : Nat) : Nat := fpEncode .fp32 (fvAdd (fvMul (f32 a) (f32 b)) (f32 c))

/-- The FP32 pattern of a natural number. -/
def f32Nat (n : Nat) : Nat := fpEncode .fp32 (.fin false n 0)

/-- x is less than y as FP32. -/
def f32Lt (x y : Nat) : Bool := fvLt (f32 x) (f32 y)

/-- Is an FP32 pattern −∞. -/
def f32IsNegInf (x : Nat) : Bool := x == 0xFF800000

/-! ### Maximum and minimum (R86) -/

/-- −0 before +0, then by value: the order in which max and min compare. -/
def fvOrdLt (x y : FVal) : Bool :=
  fvLt x y || (fvEq x y && fvNeg x && !fvNeg y)

/-- The maximum of two patterns of a floating-point type; NaN passes over, equal operands give the first. -/
def fpMaxPat (t : ElTy) (a b : Nat) : Nat :=
  let x := fpDecode t a
  let y := fpDecode t b
  match fvIsNan x, fvIsNan y with
  | true, true => fpNan t
  | true, false => b
  | false, true => a
  | false, false => if fvOrdLt x y then b else a

/-- The minimum of two patterns, in the same way. -/
def fpMinPat (t : ElTy) (a b : Nat) : Nat :=
  let x := fpDecode t a
  let y := fpDecode t b
  match fvIsNan x, fvIsNan y with
  | true, true => fpNan t
  | true, false => b
  | false, true => a
  | false, false => if fvOrdLt y x then b else a

/-! ### Conversions (R86, R102) -/

/-- A value rounded to the nearest integer, ties to even. -/
def fvToInt (neg : Bool) (m : Nat) (e : Int) : Int :=
  let v := if 0 ≤ e then m <<< e.toNat else roundShift m (-e).toNat
  if neg then -(v : Int) else (v : Int)

/-- An integer kept within w signed bits. -/
def satInt (w : Nat) (v : Int) : Int :=
  max (-(2 ^ (w - 1) : Nat)) (min v ((2 ^ (w - 1) : Nat) - 1))

/-- A value converted to an integer type: nearest even, saturated, NaN to 0. -/
def fvToIntTy (w : Nat) (x : FVal) : Nat :=
  match x with
  | .nan => 0
  | .inf neg => wrapInt w (if neg then -(2 ^ (w - 1) : Nat) else (2 ^ (w - 1) : Nat) - 1)
  | .fin neg m e => wrapInt w (satInt w (fvToInt neg m e))

/-- The exact value of an element of any type. -/
def elValue (t : ElTy) (v : Nat) : FVal :=
  if elIsInt t then
    let i := signed (elBits t) v
    .fin (decide (i < 0)) i.natAbs 0
  else fpDecode t v

/-- A value converted once into an element type. -/
def elOfValue (t : ElTy) (x : FVal) : Nat :=
  if elIsInt t then fvToIntTy (elBits t) x else fpEncode t x

/-- VCVT of one element: equal types copy the bits (R86). -/
def elCvt (src dst : ElTy) (v : Nat) : Nat :=
  if src = dst then v else elOfValue dst (elValue src v)

/-! ### exp and sigmoid (R114)

The exact result is irrational for every argument but 0, so it lies at no midpoint. It is computed to about 250 bits and
rounded once (log 10). -/

/-- Fraction bits of the fixed-point work. -/
def expBits : Nat := 256

/-- floor(ln 2 × 2^256). -/
def ln2Fix : Nat := 0xb17217f7d1cf79abc9e3b39803f2f6af40f343267298b62d8a0d175b8baafa2b

/-- Taylor terms of e^r, from term number n on, in fixed point. -/
def expTerms (r : Nat) : Nat → Nat → Nat → Nat
  | 0, _, _ => 0
  | k + 1, n, term => term + expTerms r k (n + 1) (((term * r) >>> expBits) / n)

/-- e^x for x = m × 2^e with sign, as a mantissa with 256 fraction bits and a power of two. The magnitude of x is below 512. -/
def expFix (neg : Bool) (m : Nat) (e : Int) : Nat × Int :=
  let sh : Int := e + expBits
  let mag : Nat := if 0 ≤ sh then m <<< sh.toNat else m >>> (-sh).toNat
  let x : Int := if neg then -(mag : Int) else (mag : Int)
  let k : Int := x / (ln2Fix : Int)
  let r : Nat := (x - k * (ln2Fix : Int)).toNat
  (expTerms r 70 1 (2 ^ expBits), k)

/-- The magnitude m × 2^e is at least 512. -/
def fvHuge (m : Nat) (e : Int) : Bool := decide (m ≠ 0) && decide ((m.log2 : Int) + e ≥ 9)

/-- exp of an FP32 pattern (R114). -/
def f32Exp (v : Nat) : Nat :=
  match f32 v with
  | .nan => fpNan .fp32
  | .inf neg => if neg then 0 else fpInf .fp32
  | .fin neg m e =>
    if fvHuge m e then (if neg then 0 else fpInf .fp32)
    else
      let (f, k) := expFix neg m e
      fpEncode .fp32 (.fin false f (k - expBits))

/-- sigmoid of an FP32 pattern (R114). -/
def f32Sigmoid (v : Nat) : Nat :=
  match f32 v with
  | .nan => fpNan .fp32
  | .inf neg => if neg then 0 else 0x3F800000
  | .fin neg m e =>
    if fvHuge m e then (if neg then 0 else 0x3F800000)
    else
      let (f, k) := expFix true m e
      let t := if 0 ≤ k then f <<< k.toNat else f >>> (-k).toNat
      if neg then fpEncode .fp32 (.fin false ((f <<< expBits) / (2 ^ expBits + t)) (k - expBits))
      else fpEncode .fp32 (.fin false (2 ^ (2 * expBits) / (2 ^ expBits + t)) (-expBits))

/-- SiLU: x × sigmoid(x), the product rounded once (R86). -/
def f32Silu (x : Nat) : Nat := f32Mul x (f32Sigmoid x)

/-- The FP32 value nearest 0.797_884_6 (R86). -/
def geluC1 : Nat := 0x3F4C422A

/-- The FP32 value nearest 0.044_715 (R86). -/
def geluC2 : Nat := 0x3D372713

/-- GELU by the sequence of R86, each step rounded once. -/
def f32Gelu (x : Nat) : Nat :=
  let x3 := f32Mul (f32Mul x x) x
  let u := f32Mul geluC1 (f32Add x (f32Mul geluC2 x3))
  let g := f32Sigmoid (f32Mul 0x40000000 u)
  let t := f32Add 0x3F800000 (f32Sub (f32Mul 0x40000000 g) 0x3F800000)
  f32Mul (f32Mul 0x3F000000 x) t

/-- ReLU on a pattern (R86). -/
def fpRelu (t : ElTy) (v : Nat) : Nat :=
  match fpDecode t v with
  | .nan => fpNan t
  | x => if fvLt (.fin false 0 0) x then v else 0

/-! ### Fixed point (R258) -/

/-- num / den rounded to the nearest integer, ties to even. -/
def roundDiv (num : Int) (den : Nat) : Int :=
  let q := num / (den : Int)
  let r := num % (den : Int)
  if 2 * r > den ∨ (2 * r = den ∧ q % 2 = 1) then q + 1 else q

/-- A value with `f` fraction bits, kept exactly, rounded to `g` fraction bits and saturated to 32 bits; the flag says
whether it saturated. -/
def rndFix (g : Nat) (v : Int) (f : Nat) : Int × Bool :=
  let r := if f ≤ g then v * (2 ^ (g - f) : Nat) else roundDiv v (2 ^ (f - g))
  let s := satInt 32 r
  (s, s != r)

/-- A floating-point value in a fixed-point format of `g` fraction bits; NaN gives 0 and counts (R258). -/
def fixOfFp (g : Nat) (x : FVal) : Int × Bool :=
  match x with
  | .nan => (0, true)
  | .inf neg => (if neg then -(2 ^ 31 : Nat) else (2 ^ 31 : Nat) - 1, true)
  | .fin neg m e =>
    let e' := e + g
    let v : Int := if 0 ≤ e' then ((m <<< e'.toNat : Nat) : Int) else (roundShift m (-e').toNat : Int)
    let v := if neg then -v else v
    let s := satInt 32 v
    (s, s != v)

/-- A fixed-point value of `g` fraction bits as an exact floating-point value. -/
def fpOfFix (g : Nat) (v : Int) : FVal := .fin (decide (v < 0)) v.natAbs (-(g : Int))

end Sys2Proof.Machine
end

