-- ==== Sys2Proof/Config.lean ====
section
/-! DEFINITION. What one part fixes and the spec leaves open: constants without a body, so that nothing can be proved of
their values (log 3). -/

namespace Sys2Proof.Config

/-- The n-th free byte: contents that the spec calls undefined (R149, R162, R243). -/
opaque freeByte : Nat → Byte

/-- Silicon revision, IDCODE [31:28] and CRN_ID [15:12] (R358, R399). -/
opaque revision : BitVec 4

/-- Erelhan's manufacturer code, IDCODE [11:1]; it stands in the BSDL file (R358). -/
opaque manufacturer : BitVec 11

/-- The Dormant draw in µW (R415, R417). -/
opaque dormantDraw : Nat

/-- The draw in µW that load step k of the 12 removes, k from 1 (R417). -/
opaque loadStepDraw : Nat → Nat

/-- Whether the partner of a link is Locked, as a root in Free finds it (R310): the spec does not say how the root learns it;
n counts the questions (log 3). -/
opaque partnerLocked : Nat → Bool

/-- The parity bit sent and expected for a parity code that mgmt.uart_format does not name, by code and character (R340: open). -/
opaque parityOther : Nat → Nat → Bool

/-- Whether chips of the ring that are not this chip's neighbours found a digest mismatch, or point at one chip (R206, R207): the
spec does not say how a chip that matched both neighbours learns it; n counts the questions (log 39). -/
opaque elsewhere : Nat → Bool

end Sys2Proof.Config
end

