-- ==== Sys2Proof/Machine/State.lean ====
section
/-! DEFINITION. The state of the device, as plain data, and its value at reset. INVENTORY.md lists every field with the
rule that names it. Sparse state is a `Table` whose unlisted entries hold the structure's own defaults. -/

namespace Sys2Proof.Machine

/-- Why a command ends the run of the model. No command raises it: every fault that the spec describes is a state that the
device takes (an event, a stopped partition, a faulted job, a stopped clock), so the model goes on. Safe. -/
inductive Fault where
  /-- Raised by no meaning. -/
  | unused
  deriving DecidableEq, Repr

/-- Why a command has no meaning. -/
inductive Refusal where
  /-- Raised by a row of the table that has no meaning yet. Safe. -/
  | notModelled (mnemonic : String)
  deriving DecidableEq, Repr

/-! ### Clocks, package, PCIe -/

/-- Fleet time (R300, R301, R312). -/
structure Clock where
  fleet     : Nat := 0
  frac      : Nat := 0
  ratePpb   : Int := 0
  beats     : Nat := 0
  swings    : Nat := 0
  beatAt    : Nat := 0
  swingAt   : Nat := 0
  deriving DecidableEq, Repr

/-- The states of R315. -/
inductive DevState where
  | loading
  | starting
  | running
  | holding
  | dormant
  deriving DecidableEq, Repr

/-- Supplies, pins and the life cycle (R309 to R320, R407 to R421). -/
structure Power where
  vddAon        : Bool := true
  porN          : Bool := false
  perstN        : Bool := false
  pwrShedN      : Bool := true
  rampSyncHeld  : Bool := true
  rampSyncNet   : Bool := false
  state         : DevState := .loading
  handedOver    : Bool := false
  handoverUs    : Nat := 0
  thermtrip     : Bool := false
  refclkLost    : Bool := false
  d3hot         : Bool := false
  pmeAcked      : Bool := false
  entering      : Bool := false
  descent       : Option Nat := none
  woke          : Bool := false
  loadsOff      : Nat := 0
  wakePending   : Bool := false
  wakeDue       : Option Nat := none
  mgmtResetDue  : Option Nat := none
  spiOk         : Bool := true
  smbAddr       : Nat := 0
  otpLoaded     : Bool := false
  otpCopy       : Table Byte := []
  factoryOk     : Bool := false
  keyValid      : Bool := false
  hbmFail       : Bool := false
  lockPassed    : Bool := false
  lockDue       : Option Nat := none
  summaryPosted : Bool := false
  deriving DecidableEq, Repr

/-- A completion that PCIe sends (R60, R364, R393). -/
structure Completion where
  data        : List Byte
  poisoned    : Bool
  unsupported : Bool
  deriving DecidableEq, Repr

/-- The PCIe endpoint (R317, R397, R399, R419). -/
structure Pcie where
  up       : Bool := false
  training : Bool := false
  rrs      : Bool := false
  gen      : Nat := 0
  width    : Nat := 0
  poison   : Nat := 0
  aerUr    : Nat := 0
  aerUnc   : Nat := 0
  last     : Option Completion := none
  msix     : Table Nat := []
  deriving DecidableEq, Repr

/-! ### Configuration report -/

/-- What the report of R331 to R334 holds. -/
structure CfgReport where
  table     : List Byte := []
  source    : Nat := 0
  primary   : Nat := 0
  golden    : Nat := 0
  endStatus : Nat := 0
  counts    : List Nat := []
  extra     : Nat := 0
  lost      : Nat := 0
  records   : Nat := 0
  lines     : List (List Byte) := []
  deriving DecidableEq, Repr

/-! ### Memory and its check bits -/

/-- Lines and tables whose check bits hold an error (R363, R364). -/
structure Ecc where
  badLines  : List Nat := []
  softLines : List Nat := []
  badTables : List Nat := []
  deriving DecidableEq, Repr

/-- One HBM stack (R318, R399, R422). -/
structure Stack where
  inited     : Bool := false
  failed     : Bool := false
  zeroFilled : Bool := false
  deferred   : Nat := 0
  hot        : Bool := false
  deriving DecidableEq, Repr

/-- An HBM request with deferred lines: its tile, by serial and header index, the claim entry that it counts against, its lines
not served yet on each pseudo-channel, the cycle at which it completes undeferred, and, once its last line is served, the
cycle at which it completes (R34, R35). `chan` is the Loader channel whose descriptor made it. -/
structure HbmReq where
  id    : Nat
  tp    : Nat
  slot  : Nat
  keys  : List Nat
  tile  : Nat
  hdr   : Nat
  claim : Nat
  late  : List (Nat × Nat)
  store : Bool
  lines : Nat
  least : Nat
  due   : Option Nat
  chan  : Option Nat
  deriving DecidableEq, Repr

/-- The HBM controllers (R33 to R35, R365): the lines of this beat by tile serial and pseudo-channel, and by tile; the lines
that a refresh window carried into this beat, by pseudo-channel; the start of the refresh timer, the group of the latest window
and its start, in nanoseconds since por_n. -/
structure Hbm where
  stack0    : Stack := {}
  stack1    : Stack := {}
  refreshes : Nat := 0
  refFrom   : Option Nat := none
  refGroup  : Nat := 0
  refAt     : Nat := 0
  carry     : Table Nat := []
  use       : Table Nat := []
  useAll    : Table Nat := []
  deferred  : List HbmReq := []
  nextReq   : Nat := 0
  nextTile  : Nat := 0
  scrubFrom : Nat := 0
  scrubs    : Nat := 0
  vatScrubs : Nat := 0
  deriving DecidableEq, Repr

/-! ### The Vat banks -/

/-- A thread access whose lines the Vat banks have not all served: `lo` and `size` are its bytes, `into` the debug address that a
read fills, `bytes` what a store writes. `next` is the first line not served, wanted from core cycle `want`; `served` are
the cycles in which that line and those after it are served; `lat` is the way to the bank and the way back. Cycles count
from fleet time 0; `base` is cycle 0 of the job's step (R30, R63, R66). -/
structure VatAcc where
  slot   : Nat
  tp     : Nat
  base   : Nat
  own    : Bool
  lat    : Nat
  lo     : Nat
  size   : Nat
  into   : Option Nat
  bytes  : List Byte
  keys   : List Nat
  next   : Nat
  want   : Nat
  served : List Nat
  deriving DecidableEq, Repr

/-! ### Events and faults -/

/-- An event as a block posts it, with the fleet time of its posting (R20, R21, R425). -/
structure Ev where
  time    : Nat
  src     : Nat
  code    : Nat
  sev     : Nat
  plane   : Nat
  payload : List Byte
  deriving DecidableEq, Repr

/-- The event collector and its ring (R21, R399). -/
structure EvSt where
  queue   : List Ev := []
  base    : Nat := 0
  size    : Nat := 0
  head    : Nat := 0
  tail    : Nat := 0
  drop    : Nat := 0
  enable  : Bool := false
  irq     : Bool := false
  seq     : Nat := 0
  phase   : Bool := true
  lastIrq : Option Nat := none
  irqOwed : Bool := false
  deriving DecidableEq, Repr

/-- One entry of the fence list (R370, R380). -/
structure Fenced where
  chip   : Nat
  reason : Nat
  deriving DecidableEq, Repr

/-- A Keeper message as accepted (R374). -/
structure Keeper where
  counter : Nat
  swing   : Nat
  op      : Nat
  body    : List Byte
  deriving DecidableEq, Repr

/-- The restore of a slice (R378 to R380). -/
structure Remap where
  state  : Nat := 0
  source : Bool := false
  target : Bool := false
  needLd : Bool := false
  bytes  : Nat := 0
  peer   : Nat := 0
  op2    : Bool := false
  loaded : Bool := false
  left   : List (Nat × Nat × Nat) := []
  copied : List Nat := []
  deriving DecidableEq, Repr

/-- The Fault Unit (R362 to R381). -/
structure Flt where
  flags     : Nat := 0
  faults    : Nat := 0
  fatals    : Nat := 0
  first     : Nat := 0
  latest    : Nat := 0
  eccCor    : Nat := 0
  eccUnc    : Nat := 0
  scrubLate : Nat := 0
  logCnt    : Nat := 0
  logTail   : Nat := 128
  log       : Table (List Byte) := []
  kfloor    : Nat := 0
  krefused  : Nat := 0
  fences    : List Fenced := []
  ksend     : Table Nat := []
  counters  : List Nat := []
  waiting   : List Keeper := []
  remap     : Remap := {}
  selfFence : Bool := false
  chipClass : Bool := false
  deriving DecidableEq, Repr

/-! ### The Movement image (R39 to R45, R125, R133, R146, R150, R194) -/

/-- A track entry (R41). -/
structure TrackEntry where
  start : Nat
  tile  : Nat
  last  : Bool
  deriving DecidableEq, Repr

/-- A tile header (R42). -/
structure TileHdr where
  codeOff  : Nat
  codeLen  : Nat
  ceiling  : Nat
  claim    : Nat
  layer    : Nat
  rvWindow : Nat
  cost     : Nat
  mask     : Nat
  deriving DecidableEq, Repr

/-- A stop record (R43). -/
structure StopRec where
  cycle    : Nat
  stopId   : Nat
  manifest : Nat
  swing    : Bool
  stepEnd  : Bool
  deriving DecidableEq, Repr

/-- A stop manifest: ranges as local address and lines (R44). -/
structure Manifest where
  stopId : Nat
  live   : Nat
  ranges : List (Nat × Nat)
  deriving DecidableEq, Repr

/-- A claim table entry (R45). -/
structure Claim where
  hbmLines   : Nat := 0
  perPc      : Nat := 0
  sBytes     : List Nat := []
  loaderMask : Nat := 0
  deriving DecidableEq, Repr

/-- A layer descriptor (R125). -/
structure LayerDesc where
  index       : Nat := 0
  kind        : Nat := 0
  selMode     : Nat := 0
  gating      : Nat := 0
  k           : Nat := 0
  threshMax   : Nat := 0
  overflow    : Nat := 0
  experts     : Nat := 0
  shared      : Nat := 0
  flags       : Nat := 0
  capacity    : Nat := 0
  dmUnits     : Nat := 0
  threshold   : Nat := 0
  gateScale   : Nat := 0
  reserved    : Nat := 0
  scoreLayout : Nat := 0
  biasBase    : Nat := 0
  routerBase  : Nat := 0
  cultureBase : Nat := 0
  pairBase    : Nat := 0
  deriving DecidableEq, Repr

/-- A separation header (R133). -/
structure SepHdr where
  layer      : Nat
  tagBase    : Nat
  weightBase : Nat
  listBase   : Nat
  expBase    : Nat
  tokBase    : Nat
  shListBase : Nat
  shTagBase  : Nat
  deriving DecidableEq, Repr

/-- A group table entry (R146). -/
structure GroupEntry where
  shared   : Bool := false
  expert   : Nat := 0
  layer    : Nat := 0
  kind     : Nat := 0
  tpMask   : Nat := 0
  type     : Nat := 0
  rows     : Nat := 0
  kb       : Nat := 0
  nb       : Nat := 0
  rowStart : Nat := 0
  act      : Nat := 0
  w1       : Nat := 0
  w2       : Nat := 0
  w3       : Nat := 0
  mid      : Nat := 0
  out      : Nat := 0
  deriving DecidableEq, Repr

/-- A combine descriptor (R150). -/
structure Combine where
  layer    : Nat
  outType  : Nat
  addRes   : Bool
  outLay   : Nat
  resLay   : Nat
  deriving DecidableEq, Repr

/-- A collective program (R194). -/
structure Coll where
  kind     : Nat := 0
  type     : Nat := 0
  layer    : Nat := 0
  rowBytes : Nat := 0
  claimFwd : Nat := 0
  claimBwd : Nat := 0
  src      : Nat := 0
  dst      : Nat := 0
  recv     : Nat := 0
  deriving DecidableEq, Repr

/-- An admitted Movement (R39). -/
structure Movement where
  grade        : Nat := 0
  faultPolicy  : Bool := false
  ringJob      : Bool := false
  clusterMask  : Nat := 0
  slipLimit    : Nat := 0
  stepBudget   : Nat := 0
  layerCount   : Nat := 0
  stepCycles   : Nat := 0
  ringSize     : Nat := 0
  stopInterval : Nat := 0
  blockWait    : List Nat := []
  tracks       : Table (List TrackEntry) := []
  tiles        : List TileHdr := []
  stops        : List StopRec := []
  manifests    : List Manifest := []
  claims       : List Claim := []
  layers       : List LayerDesc := []
  seps         : List SepHdr := []
  entries      : List GroupEntry := []
  combines     : List Combine := []
  code         : List Nat := []
  colls        : List Coll := []
  deriving DecidableEq, Repr

/-! ### Thread processors (R55, R73 to R94) -/

/-- One TBR arm or LOOP body that is running (R92 to R94). -/
structure Nest where
  isLoop    : Bool
  issue     : Nat
  start     : Nat
  stop      : Nat
  after     : Nat
  bound     : Nat
  nMax      : Nat
  iter      : Nat
  iterStart : Nat
  counted   : Bool
  dst       : Option Nat
  thr       : Nat
  codeAt    : Nat
  deriving DecidableEq, Repr

/-- A queued MMA: when it runs, its accumulator, and the operand-buffer line ranges that it reads (R81, R82). -/
structure MmaRun where
  start : Nat
  done  : Nat
  acc   : Nat
  reads : List (Nat × Nat)
  deriving DecidableEq, Repr

/-- The tile that a TP runs: job, header index, serial number (its partition in [2:0]), begin cycle, unmoved ceiling end (below 0 when a rendezvous
charged more than was left), and the slip in force when the moved ceiling end passed, once it overruns (R48 to R52). -/
structure TileRun where
  slot    : Nat
  tile    : Nat
  id      : Nat
  began   : Nat
  ceilEnd : Int
  overAt  : Option Nat := none
  deriving DecidableEq, Repr

/-- What a TP waits for, beside timed results. -/
inductive Waiting where
  | rdv (prog : Nat) (fleet : Nat) (cycle : Nat) (thr : Nat)
  | csync (id : Nat) (arrived : Nat) (mask : Nat) (thr : Nat)
  deriving DecidableEq, Repr

/-- A thread processor. Its registers, frame, operand buffer and accumulators lie in `mem` at their debug addresses. `freeAt` is the
core cycle, counted from fleet time 0, at which its latest tile ended (R243). -/
structure Tp where
  tile     : Option TileRun := none
  pc       : Nat := 0
  nest     : List Nest := []
  next     : Nat := 0
  ready    : Table Nat := []
  settled  : Nat := 0
  vatDone  : Nat := 0
  accReady : Table Nat := []
  mmas     : List MmaRun := []
  arriving : List Nat := []
  statuses : List Nat := []
  wait     : Option Waiting := none
  stalled  : Option Nat := none
  lastJob  : Option Nat := none
  freeAt   : Nat := 0
  deriving DecidableEq, Repr

/-- A cluster's counters (R399). -/
structure Cluster where
  overruns : Nat := 0
  faults   : Nat := 0
  deriving DecidableEq, Repr

/-! ### Jobs, partitions, runs (R232 to R254) -/

/-- A collective of a run: armed from the stop before its tile, running from its RDV (R196 to R199); `base` is the slip in
force when its window passed (R50, R51); `held` are the frames taken before the chip's own RDV, which it has still to send on
(R196). -/
structure CollRun where
  armed   : Bool := false
  running : Bool := false
  tp      : Nat := 0
  from_   : Nat := 0
  window  : Nat := 0
  recvF   : Nat := 0
  recvB   : Nat := 0
  base    : Option Nat := none
  done    : Bool := false
  held    : List Frame := []
  deriving DecidableEq, Repr

/-- The step of a job as it runs: cycles are ungated core cycles from the step's start, slip included (R17, R51). `origin` is
the fleet time of cycle 0, moved by the waits in which Movement time stands (R43). Stores and block operations are noted
with their TP, the tile that issued them and their end; CSYNCs with their ID, TP and cycle. -/
structure Run where
  active    : Bool := false
  startNs   : Nat := 0
  origin    : Nat := 0
  live      : Nat := 0
  cycle     : Nat := 0
  slip      : Nat := 0
  stopIx    : Nat := 0
  cursor    : Table Nat := []
  dspDone   : List Nat := []
  grwDone   : List (Nat × Nat) := []
  digest    : Table (List Byte) := []
  colls     : Table CollRun := []
  stores    : List (Nat × Nat × Nat) := []
  blockEnds : List (Nat × Nat × Nat) := []
  syncs     : List (Nat × Nat × Nat) := []
  digestDue : Option Nat := none
  hbmBytes  : Nat := 0
  linkBytes : Nat := 0
  engine    : Nat := 0
  energy    : Nat := 0
  atStop    : Bool := false
  deriving DecidableEq, Repr

/-- A job slot (R234 to R241). -/
structure Job where
  ctl      : Nat := 0
  mov      : Nat := 0
  save     : Nat := 0
  arg      : Nat := 0
  thr      : Nat := 0
  ranges   : Table (Nat × Nat) := []
  state    : Nat := 0
  status   : Nat := 0
  vt       : Nat := 0
  vtRem    : Nat := 0
  engine   : Nat := 0
  switched : Nat := 0
  pre      : Nat := 0
  preWrap  : Bool := false
  movement : Option Movement := none
  stepNo   : Nat := 0
  attempt  : Nat := 0
  startSw  : Option Nat := none
  preempt  : Bool := false
  preStep  : Option Nat := none
  saved    : Option (List (Nat × Nat)) := none
  granted  : Bool := false
  asking   : Bool := false
  readyAt  : Nat := 0
  waitNs   : Nat := 0
  prePend  : Nat := 0
  blocked  : Bool := false
  run      : Run := {}
  deriving DecidableEq, Repr

/-- A switch in progress (R245, R249): stage 0 waits for T(n + 1), stage 1 saves, stage 2 restores; `due` is T(n + 1) of a
ring switch; `left` are the HBM lines that the transfer under way has still to be served, by pseudo-channel. -/
structure Switch where
  outSlot  : Option Nat
  inSlot   : Option Nat
  stage    : Nat
  lines    : Nat
  due      : Option Nat
  left     : Option (List (Nat × Nat)) := none
  deriving DecidableEq, Repr

/-- A partition as the Share Scheduler holds it (R233). `view`, `routes` and `roles` are the data plane's own view of the ring
(size, slice, forward chip, backward chip), of the route table and of the link roles, renewed at stops (R12, R24). `charged`
is the core cycle, counted from fleet time 0, up to which the run's engine time is charged (R240). -/
structure Part where
  mask     : Nat := 0
  enabled  : Bool := false
  profile  : Nat := 0
  running  : Option Nat := none
  runFrom  : Nat := 0
  runSteps : Nat := 0
  sw       : Option Switch := none
  view     : List Nat := []
  routes   : Table Nat := []
  roles    : List Nat := []
  began    : Bool := false
  charged  : Nat := 0
  throttled : Bool := false
  excess   : Bool := false
  full     : Nat := 0
  busy     : Nat := 0
  beatCy   : Nat := 0
  deriving DecidableEq, Repr

/-- An account (R252, R294). -/
structure Account where
  engine  : Nat := 0
  hbm     : Nat := 0
  link    : Nat := 0
  energy  : Nat := 0
  carryNj : Nat := 0
  wait    : Nat := 0
  pre     : Nat := 0
  preWrap : Bool := false
  tokens  : Nat := 0
  deriving DecidableEq, Repr

/-! ### Streams (R211 to R231) -/

/-- A Stream Table entry (R211). -/
structure Stream where
  state     : Nat := 0
  replay    : Bool := false
  cqLost    : Bool := false
  locked    : Bool := false
  endReason : Nat := 0
  part      : Nat := 0
  client    : Nat := 0
  pos       : Nat := 0
  prompt    : Nat := 0
  commit    : Nat := 0
  lastTok   : Nat := 0
  newCount  : Nat := 0
  maxNew    : Nat := 0
  maxPos    : Nat := 0
  kvBase    : Nat := 0
  prBase    : Nat := 0
  stopIds   : Nat := 0
  lockEpoch : Nat := 0
  admitSeq  : Nat := 0
  deriving DecidableEq, Repr

/-- One token of a built step (R224). -/
structure Row where
  stream : Nat
  kv     : Nat
  emit   : Bool
  decode : Bool
  first  : Bool
  pos    : Nat
  token  : Nat
  client : Nat
  deriving DecidableEq, Repr

/-- A built step: its rows, and the lease of its locks (R222, R229). -/
structure Built where
  rows    : List Row
  stepNo  : Nat
  lockNs  : Nat
  startNs : Nat
  deriving DecidableEq, Repr

/-- A partition's rings and serving state (R214, R217, R219). A pending entry carries whether it was late when read. -/
structure Stm where
  sqBase  : Nat := 0
  sqSize  : Nat := 0
  sqTail  : Nat := 0
  sqHead  : Nat := 0
  cqBase  : Nat := 0
  cqSize  : Nat := 0
  cqHead  : Nat := 0
  cqTail  : Nat := 0
  step    : Nat := 0
  nextSw  : Nat := 0
  srBase  : Nat := 0
  streams : Nat := 0
  pepoch  : Nat := 0
  cqDrop  : Nat := 0
  sqErr   : Nat := 0
  enable  : Bool := false
  irq     : Bool := false
  pend    : List (SubEntry × Bool) := []
  cqSeq   : Nat := 0
  cqPhase : Bool := true
  admits   : Nat := 0
  built   : Option Built := none
  ends    : List (Nat × Nat × Bool × Nat) := []
  building : Bool := false
  idle    : Bool := false
  deriving DecidableEq, Repr

/-! ### Block operations (R90, R91, R103 to R110) -/

/-- An operation of a block, running or queued: `dst` is the debug address of its status word, `tile` the header index of the
tile that issued it, `issued` its issue cycle, `tps` the TPs whose matrix state it uses (R149). -/
structure BlockOp where
  slot    : Nat
  tp      : Nat
  thr     : Nat
  tile    : Nat
  issued  : Nat
  tps     : List Nat
  dst     : Option Nat
  layer   : Nat
  first   : Nat
  count   : Nat
  bias    : Nat
  stepNo  : Nat
  attempt : Nat
  cost    : Nat
  began   : Option Nat
  deriving DecidableEq, Repr

/-- A Loader descriptor that runs on a channel; `code` is its rejection, 0 for none (R107 to R110). `claim` is the claim
entry of the tile that issued it, `tile` that tile's serial and `hdr` its header index (R34). -/
structure LoadOp where
  slot  : Nat
  tp    : Nat
  thr   : Nat
  dst   : Option Nat
  desc  : Nat
  code  : Nat
  mode  : Nat
  began : Nat
  cost  : Nat
  claim : Nat
  tile  : Nat
  hdr   : Nat
  /-- Lines that it asks for in a beat, the charges still to come, and the latest completion of those that were deferred (R34,
  R35, R105). -/
  q     : Nat
  lines : List (Nat × Nat)
  held  : Option Nat
  deriving DecidableEq, Repr

/-- The Selector's counters of a layer, kept for its DSP (R124, R138). -/
structure SelStat where
  stepNo   : Nat
  attempt  : Nat
  wanted   : List Nat
  accepted : List Nat
  spilled  : List Nat
  skipped  : List Nat
  dropped  : List Nat
  live     : Nat
  dead     : List Nat
  accTotal : Nat
  dropTotal : Nat
  bad      : Nat
  deriving DecidableEq, Repr

/-- The blocks' queues, the core cycle at which each block's latest operation ended, and the Separator's and Churn's registers
(R91, R129, R145, R165, R399). -/
structure Blocks where
  queues    : Table (List BlockOp) := []
  freeAt    : Table Nat := []
  channels  : Table (Option LoadOp) := []
  rejects   : Nat := 0
  selBad    : Nat := 0
  selDead   : Nat := 0
  selStats  : Table SelStat := []
  blogWr    : Nat := 0
  blogSeq   : Nat := 0
  blogLost  : Nat := 0
  blogQ     : List (List Byte) := []
  pairDrop  : Nat := 0
  combines  : Nat := 0
  consErr   : Nat := 0
  nonFinite : Nat := 0
  deriving DecidableEq, Repr

/-- A snapshot lease (R272). -/
structure SnapLease where
  id    : Nat
  fn    : Nat
  block : Nat
  buf   : Nat
  due   : Nat
  deriving DecidableEq, Repr

/-- A reward held or applied (R268): layers first to last, value in Q15.16. -/
structure Reward where
  step  : Nat
  first : Nat
  last  : Nat
  value : Int
  deriving DecidableEq, Repr

/-- Culture's progress on a layer that is not committed yet, by parameter block address (R260, R262). -/
structure CulProg where
  slot      : Nat := 0
  part      : Nat := 0
  layer     : Nat := 0
  recorded  : Option Nat := none
  pausing   : Bool := false
  resumed   : Bool := false
  foldDone  : Bool := false
  foldStep  : List Nat := []
  foldAt    : Nat := 0
  foldAtOk  : Nat := 0
  rounds    : Table Int := []
  carry     : Int := 0
  carryPend : Option Int := none
  lastStep  : Option Nat := none
  snapAt    : Nat := 0
  snapBuf   : Nat := 0
  snapPub   : Nat := 0
  latest    : Option Nat := none
  satPosted : Option Nat := none
  deriving DecidableEq, Repr

/-- The Culture (R255 to R274). -/
structure Cul where
  updates  : Nat := 0
  sat      : Nat := 0
  pauses   : Nat := 0
  rewLate  : Nat := 0
  snStat   : Table Nat := []
  snAddr   : Table Nat := []
  leases   : List SnapLease := []
  nextId   : Nat := 0
  resumeAt : Nat := 0
  armed    : Table Nat := []
  keeper   : Table (List Reward) := []
  applied  : Table (List Reward) := []
  prog     : Table CulProg := []
  deriving DecidableEq, Repr

/-! ### Links (R166 to R192) -/

/-- The link states of R182. -/
inductive LinkState where
  | off
  | train
  | up
  | fastRetrain
  | failed
  deriving DecidableEq, Repr

/-- A frame to send, with the link whose buffer it still fills (R174), and, for a response of a time exchange, the instant at which its
request came (R303). -/
structure TxFrame where
  fr   : Frame
  from_ : Option Nat := none
  asked : Option Nat := none
  deriving DecidableEq, Repr

/-- An item that a transmitter puts on the wire: a frame with its bytes, or a control block (R168 to R170). -/
inductive Wire where
  | frame (fr : Frame) (bytes : List Byte)
  | idle
  | ack (seq u s b : Nat)
  | nak (seq : Nat)
  | marker (laneMap codewords : Nat)
  | retrain (what : Nat)
  deriving DecidableEq, Repr

/-- A link (R174 to R191). `wire` holds what its latest command put on the wire, `blocks` and `marks` the blocks and the alignment
markers sent; `inU`, `inS` and `inB` are the units that its receive buffers hold; `gap` says that frames are discarded until the
expected one comes; `told` and `heard` are the parameters of the latest exchange. -/
structure Link where
  state    : LinkState := .off
  width    : Nat := 0
  lanes    : Nat := 0
  role     : Nat := 0
  partner  : Nat := 0
  errs     : Nat := 0
  winFrom  : Nat := 0
  uncorr   : Nat := 0
  corrSym  : Nat := 0
  crcErr   : Nat := 0
  replays  : Nat := 0
  fastRt   : Nat := 0
  fullRt   : Nat := 0
  txU      : Nat := 0
  txS      : Nat := 0
  txB      : Nat := 0
  rxU      : Nat := 0
  rxS      : Nat := 0
  rxB      : Nat := 0
  sExcess  : Nat := 0
  uExcess  : Nat := 0
  dupDrop  : Nat := 0
  staleDrop : Nat := 0
  badKind  : Nat := 0
  crU      : Nat := 0
  crS      : Nat := 0
  crB      : Nat := 0
  owedU    : Nat := 0
  owedS    : Nat := 0
  owedB    : Nat := 0
  txSeq    : Nat := 0
  rxSeq    : Nat := 0
  ackOwed  : Bool := false
  nakAt    : Option Nat := none
  nakOwed  : Bool := false
  qU       : List TxFrame := []
  qS       : List TxFrame := []
  qB       : List TxFrame := []
  unacked  : List Frame := []
  replayQ  : List Frame := []
  ackAt    : Nat := 0
  beat     : Nat := 0
  uBeat    : Nat := 0
  sBeat    : Nat := 0
  uHeld    : Bool := false
  sHeld    : Bool := false
  lastFast : Option Nat := none
  everUp   : Bool := false
  mismatch : Bool := false
  laneMap  : Nat := 0
  codeword : Nat := 0
  gap      : Bool := false
  inU      : Nat := 0
  inS      : Nat := 0
  inB      : Nat := 0
  told     : Option LinkParams := none
  heard    : Option LinkParams := none
  blocks   : Nat := 0
  marks    : Nat := 0
  wire     : List Wire := []
  deriving DecidableEq, Repr

/-- A remote access that is not complete (R71, R72). -/
structure Remote where
  tag   : Nat
  slot  : Nat
  tp    : Nat
  thr   : Nat
  chip  : Nat
  addr  : Nat
  keys  : List Nat
  into  : Option Nat
  size  : Nat
  from_ : Nat
  deriving DecidableEq, Repr

/-- Link state of the whole chip: USeq per destination, the Dup filter, remote accesses (R72, R180); the frames of this chip that
were discarded with their link before they were acknowledged, by kind and Tag (R186). -/
structure Net where
  useq    : Table Nat := []
  filter  : List (Nat × Nat × Nat) := []
  remotes : List Remote := []
  nextTag : Nat := 0
  dropped : List (Nat × Nat) := []
  deriving DecidableEq, Repr

/-- What the chip holds of one ring neighbour (R190, R203, R207). -/
structure Neighbour where
  misses  : Nat := 0
  suspect : Bool := false
  failed  : Bool := false
  seen    : Bool := false
  arg     : Nat := 0
  digest  : Option Nat := none
  verdict : Option Nat := none
  deriving DecidableEq, Repr

/-- The ring engine (R202 to R210). `fenceFail`: a fence came while a ring job ran, and its later collectives fail (R370). -/
structure RingSt where
  fwd      : Neighbour := {}
  bwd      : Neighbour := {}
  digest   : Nat := 0
  digStat  : Nat := 0
  mismatches : Nat := 0
  collFail : Nat := 0
  collDrop : Nat := 0
  mirCrc   : Nat := 0
  verdict  : Option Nat := none
  deciding : Option Nat := none
  retryJob : Option Nat := none
  fenceFail : Bool := false
  deriving DecidableEq, Repr

/-! ### The Escapement (R303 to R313) -/

/-- The states of R307. -/
inductive EscState where
  | free
  | acquire
  | locked
  | holdover
  deriving DecidableEq, Repr

/-- The Escapement: what it measures on each link, its parent, its discipline, and the beat_in edges. -/
structure Esc where
  state     : EscState := .free
  root      : Bool := false
  adopted   : Bool := false
  parent    : Option Nat := none
  offset    : Table (Option Int) := []
  delay     : Table Int := []
  delays    : Table (List Int) := []
  pending   : Table (List (Nat × Nat)) := []
  nextEx    : Nat := 0
  stepped   : Bool := false
  results   : List Int := []
  good      : Nat := 0
  big       : Nat := 0
  lastUse   : Nat := 0
  parentOff : Option Int := none
  freeAt    : Nat := 0
  holdAt    : Nat := 0
  holdovers : Nat := 0
  edge      : Option Nat := none
  edgeOff   : Int := 0
  edgeValid : Bool := false
  lastValid : Option Nat := none
  invalid   : Nat := 0
  lost      : Bool := false
  deriving DecidableEq, Repr

/-! ### The Regulator (R275 to R296) -/

/-- A ramp lease that the chip holds (R285). -/
structure RampLease where
  dir   : Dir
  id    : Nat
  watts : Nat
  spent : Nat
  due   : Nat
  pool  : Nat
  epoch : Nat
  deriving DecidableEq, Repr

/-- A lease that the pool has out (R288). -/
structure PoolLease where
  dir   : Dir
  chip  : Nat
  id    : Nat
  watts : Nat
  due   : Nat
  deriving DecidableEq, Repr

/-- A request in the pool's queue (R287). -/
structure PoolReq where
  dir   : Dir
  chip  : Nat
  id    : Nat
  watts : Nat
  told  : Bool
  deriving DecidableEq, Repr

/-- A request that the chip has made (R287, R290). -/
structure RampReq where
  id     : Nat
  watts  : Nat
  sentNs : Nat
  queued : Bool
  deriving DecidableEq, Repr

/-- The pool chip's part (R288, R289): `active` while it holds a lease table, `closed` once a Keeper message names another
pool. -/
structure Pool where
  active    : Bool := false
  closed    : Bool := false
  frozen    : Bool := false
  freezeEnd : Nat := 0
  leases    : List PoolLease := []
  queue     : List PoolReq := []
  reported  : List Nat := []
  reportW   : Nat := 0
  deriving DecidableEq, Repr

/-- The Regulator (R276 to R296). Power is in µW; energy is in nJ with its carry in pJ. -/
structure Rgl where
  duty      : Nat := 64
  ballast   : Bool := false
  density   : Nat := 0
  p         : Nat := 0
  cal       : Nat := 0
  pin       : Nat := 0
  cap       : Option Nat := none
  energy    : Nat := 0
  energyPj  : Nat := 0
  ballastE  : Nat := 0
  ballastPj : Nat := 0
  shedCnt   : Nat := 0
  shedReq   : Bool := false
  thermal   : Bool := false
  coolFrom  : Option Nat := none
  shedding  : Bool := false
  shedOver  : Nat := 0
  freezeUntil : Nat := 0
  stale     : Nat := 0
  reclaimed : Nat := 0
  slopeBrk  : Nat := 0
  shortfall : Option Nat := none
  waitTs    : Bool := false
  heldDraw  : Nat := 0
  syncAt    : Option Nat := none
  ts        : Option Nat := none
  sampleAt  : Nat := 0
  freeRise  : Nat := 0
  freeDesc  : Nat := 0
  leases    : List RampLease := []
  reqRise   : Option RampReq := none
  reqDesc   : Option RampReq := none
  nextLease : Nat := 0
  epoch     : Nat := 0
  poolChip  : Option Nat := none
  pool      : Pool := {}
  beaconAt  : Nat := 0
  gainHeld  : Bool := false
  deriving DecidableEq, Repr

/-- Telemetry (R385, R399). -/
structure Tel where
  tempMax : Nat := 0
  bound   : Table Nat := []
  deriving DecidableEq, Repr

/-! ### Management ports (R338 to R361) -/

/-- An RX FIFO entry (R341). -/
structure RxEntry where
  ch     : Nat
  brk    : Bool
  frame  : Bool
  parity : Bool
  deriving DecidableEq, Repr

/-- The UART (R340 to R349). Flags: [0] ParityErr, [1] FrameErr, [2] Overrun, [3] BreakDet. -/
structure Uart where
  ctrl     : Nat := 0
  baud     : Nat := 1736
  txCtrl   : Nat := 0
  txBaud   : Nat := 1736
  rxCtrl   : Nat := 0
  rxBaud   : Nat := 1736
  fmtNs    : Nat := 0
  flags    : Nat := 0
  rsq      : Nat := 0
  attn     : Bool := false
  tx       : List Nat := []
  rx       : List RxEntry := []
  sending  : Option Nat := none
  line     : List Bool := []
  brkTx    : Option Nat := none
  brkNow   : Bool := false
  rxHigh   : Bool := false
  inBreak  : Bool := false
  brkFrom  : Nat := 0
  brkLen   : Nat := 0
  rxLost   : Nat := 0
  lostEv   : Nat := 0
  lostEvNs : Option Nat := none
  reported : Bool := false
  lastRead : Nat := 0
  waitIdle : Bool := false
  deriving DecidableEq, Repr

/-- The console (R338, R339). -/
structure Console where
  line    : List Byte := []
  bad     : List Bool := []
  command : Option (List Byte) := none
  out     : List Byte := []
  reply   : List Byte := []
  deriving DecidableEq, Repr

/-- The SMBus target (R350 to R353, R357). -/
structure Smb where
  alertLow : Bool := false
  err      : Nat := 0
  offset   : Nat := 0
  reply    : List Byte := []
  nack     : Bool := false
  deriving DecidableEq, Repr

/-- The PMBus host (R354 to R357). -/
structure Pmb where
  vin      : Nat := 0
  iin      : Nat := 0
  iout     : Nat := 0
  status   : Nat := 0
  vout     : Nat := 0
  fail     : Nat := 0
  mode     : Nat := 0
  avsOff   : Bool := false
  inRow    : Nat := 0
  lost     : Bool := false
  rotation : Nat := 0
  wroteB   : Bool := false
  want     : Option Nat := none
  redo     : Bool := false
  word     : Nat := 0
  nextA    : Nat := 0
  nextB    : Nat := 0
  deriving DecidableEq, Repr

/-- The instruction that the TAP holds (R358). -/
inductive TapInstr where
  | extest
  | idcode
  | samplePreload
  | clamp
  | highz
  | extestPulse
  | extestTrain
  | otpProg
  | debug
  | bypass
  deriving DecidableEq, Repr

/-- The TAP (R358 to R360). -/
structure Tap where
  ir     : TapInstr := .idcode
  cells  : List Bool := []
  sample : List Bool := []
  data   : Nat := 0
  hiZ    : Bool := false
  deriving DecidableEq, Repr

/-! ### The whole state -/

/-- The device and its queue of commands. -/
structure State where
  pending : List Instr := []
  freeCtr : Nat := 0
  upNs    : Nat := 0
  clk     : Clock := {}
  pwr     : Power := {}
  pcie    : Pcie := {}
  hostMem : Table Byte := []
  otp     : Table Byte := []
  cfg     : Table Nat := []
  rep     : CfgReport := {}
  routes  : Table Nat := []
  mem     : Table Byte := []
  ecc     : Ecc := {}
  hbm     : Hbm := {}
  vat     : List VatAcc := []
  ev      : EvSt := {}
  flt     : Flt := {}
  parts   : Table Part := []
  stms    : Table Stm := []
  jobs    : Table Job := []
  accts   : Table Account := []
  tps     : Table Tp := []
  cls     : Table Cluster := []
  blk     : Blocks := {}
  cul     : Cul := {}
  streams : Table Stream := []
  links   : Table Link := []
  net     : Net := {}
  ring    : RingSt := {}
  esc     : Esc := {}
  rgl     : Rgl := {}
  tel     : Tel := {}
  uart    : Uart := {}
  con     : Console := {}
  smb     : Smb := {}
  pmb     : Pmb := {}
  tap     : Tap := {}
  deriving DecidableEq, Repr

/-- The fuses of the part that the model names: an XZ816-16 with serial 0, no key and no repair, its FactoryCrc good
(DESIGN CHOICE, log 5; R319). -/
def otpReset : Table Byte :=
  [(0x008, 0x10), (0x1FC, 0x21), (0x1FD, 0x34), (0x1FE, 0xad), (0x1FF, 0xbc)]

/-- The device with its supplies up and por_n low: every register at its reset value (R396, log 4). -/
def State.reset : State := { otp := otpReset }

end Sys2Proof.Machine
end

