-- ==== Sys2Proof/Machine/Ops.lean ====
section
/-! DEFINITION. The named operations over the state: configuration, time, events, memory, check bits, free values. -/

namespace Sys2Proof.Machine

/-- What a meaning answers. -/
abbrev Out := Host.Outcome State Fault Refusal

/-! ### Entries of tables -/

/-- TP t. -/
def getTp (s : State) (t : Nat) : Tp := tget {} s.tps t

/-- TP t changed. -/
def modTp (t : Nat) (f : Tp → Tp) (s : State) : State := { s with tps := tmod {} s.tps t f }

/-- Job slot j. -/
def getJob (s : State) (j : Nat) : Job := tget {} s.jobs j

/-- Job slot j changed. -/
def modJob (j : Nat) (f : Job → Job) (s : State) : State := { s with jobs := tmod {} s.jobs j f }

/-- The run of job j changed. -/
def modRun (j : Nat) (f : Run → Run) (s : State) : State := modJob j (fun x => { x with run := f x.run }) s

/-- Partition p. -/
def getPart (s : State) (p : Nat) : Part := tget {} s.parts p

/-- Partition p changed. -/
def modPart (p : Nat) (f : Part → Part) (s : State) : State := { s with parts := tmod {} s.parts p f }

/-- Rings and serving state of partition p. -/
def getStm (s : State) (p : Nat) : Stm := tget {} s.stms p

/-- Rings and serving state of partition p changed. -/
def modStm (p : Nat) (f : Stm → Stm) (s : State) : State := { s with stms := tmod {} s.stms p f }

/-- Stream entry i. -/
def getStream (s : State) (i : Nat) : Stream := tget {} s.streams i

/-- Stream entry i changed. -/
def modStream (i : Nat) (f : Stream → Stream) (s : State) : State := { s with streams := tmod {} s.streams i f }

/-- Link n. -/
def getLink (s : State) (n : Nat) : Link := tget {} s.links n

/-- Link n changed. -/
def modLink (n : Nat) (f : Link → Link) (s : State) : State := { s with links := tmod {} s.links n f }

/-- Account a changed. -/
def modAcct (a : Nat) (f : Account → Account) (s : State) : State := { s with accts := tmod {} s.accts a f }

/-- Counters of cluster c changed. -/
def modCl (c : Nat) (f : Cluster → Cluster) (s : State) : State := { s with cls := tmod {} s.cls c f }

/-! ### Configuration and grade -/

/-- The value of configuration field `id`: as handed over, or changed by the Keeper, or the default (R330, R377, R396). -/
def cfgVal (s : State) (id : Nat) : Nat := tget (fieldDefault id) s.cfg id

/-- A configuration field replaced. -/
def setCfg (id v : Nat) (s : State) : State := { s with cfg := tput s.cfg id v }

/-- identity.chip_id. -/
def chipId (s : State) : Nat := cfgVal s 0x0101

/-- CORE clock in tenths of a GHz: the grade code of the OTP, the lower clock where FactoryCrc fails (R2, R319, R320). -/
def gradeOf (s : State) : Nat := if memGet s.otp 8 = 0x0C || (s.pwr.otpLoaded && !s.pwr.factoryOk) then 12 else 16

/-- Nanoseconds in core cycles (R28). -/
def coreOfNs (s : State) (ns : Nat) : Nat := cdiv (ns * gradeOf s) 10

/-- Core cycles of one beat (R28). -/
def beatCycles (s : State) : Nat := 100 * gradeOf s

/-- The far-load bound in core cycles (R28, R29). -/
def farCycles (s : State) : Nat := coreOfNs s 2000

/-- Core cycles in nanoseconds, rounded up. -/
def nsOfCore (s : State) (c : Nat) : Nat := cdiv (c * 10) (gradeOf s)

/-- Is the sharing mode partitioned (R232). -/
def partitioned (s : State) : Bool := cfgVal s 0x0701 == 1

/-- The cluster of TP t (R55). -/
def clusterOf (t : Nat) : Nat := t / 16

/-- The core clocks run: no thermtrip, no refclk loss, not Dormant (R413, R417, R421). -/
def coreRuns (s : State) : Bool :=
  s.pwr.porN && !s.pwr.thermtrip && !s.pwr.refclkLost && s.pwr.state != .dormant && s.pwr.loadsOff == 0

/-- The management plane serves its ports: VDD_AON and por_n high and no thermtrip (R407, R421). -/
def mgmtRuns (s : State) : Bool := s.pwr.vddAon && s.pwr.porN && !s.pwr.thermtrip

/-! ### Time -/

/-- Fleet time brought up to `t`, and the time since por_n release with it; time never goes back. -/
def advanceTo (t : Nat) (s : State) : State :=
  if t ≤ s.clk.fleet then s
  else { s with clk := { s.clk with fleet := t, frac := 0 }, upNs := s.upNs + (t - s.clk.fleet) }

/-- Fleet time brought up to an instant that may be unset. -/
def advanceOpt (t : Option Nat) (s : State) : State :=
  match t with
  | some x => advanceTo x s
  | none => s

/-- A length of time that passes. -/
def passNs (d : Nat) (s : State) : State := advanceTo (s.clk.fleet + d) s

/-- The time since por_n release brought up to `t`, and fleet time with it from the handover on (R330). -/
def passUp (t : Nat) (s : State) : State :=
  if s.pwr.handedOver then passNs (t - s.upNs) s else { s with upNs := max s.upNs t }

/-- An act on a plane that Loading holds in reset: it does nothing there (R315). -/
def unheld (f : State → State) (s : State) : State := if s.pwr.state == .loading then s else f s

/-- An act of the ESC domain, whose clock does not run in Dormant (R299). -/
def onEsc (f : State → State) (s : State) : State := if s.pwr.state == .dormant then s else f s

/-- The next multiple of `m` after fleet time. -/
def nextMultiple (m t : Nat) : Nat := (t / m + 1) * m

/-- The next boundary at a multiple of `m`, where `last` is the one before: the latest that fleet time has reached unseen, else
the next to come (R301). -/
def nextBoundary (m last t : Nat) : Nat := if last < t / m * m then t / m * m else nextMultiple m t

/-! ### Events (R20 to R22, R366, R368, R399) -/

/-- The plane of an event of a source (R20, R192, R391). -/
def srcPlane (src code : Nat) : Nat :=
  if src ≤ 0x01 then 2
  else if src ≤ 0x06 then 1
  else if src ≤ 0x08 then 0
  else if src = 0x0A then 0
  else if src ≤ 0x0C then 1
  else if src ≤ 0x0E then 2
  else if src = 0x0F then 0
  else if src ≤ 0x17 then (if (6 ≤ code && code ≤ 8) || 0x0A ≤ code then 1 else 0)
  else 0

/-- A block posts an event. -/
def post (src code sev : Nat) (payload : List Byte) (s : State) : State :=
  { s with ev.queue := s.ev.queue ++ [⟨s.clk.fleet, src, code, sev, srcPlane src code, payload⟩] }

/-- An event posted when a condition holds. -/
def postIf (c : Bool) (src code sev : Nat) (payload : List Byte) (s : State) : State :=
  if c then post src code sev payload s else s

/-- The 32 B of an entry (R20): phase, severity and plane, source, code, Seq, stamp, payload. -/
def evBytes (e : Ev) (seq stamp : Nat) (phase : Bool) : List Byte :=
  BitVec.ofNat 8 (b2n phase + 16 * e.sev + 64 * e.plane) :: BitVec.ofNat 8 e.src :: leBytes 2 e.code ++ leBytes 4 seq ++
    leBytes 8 stamp ++ (e.payload ++ List.replicate 16 0).take 16

/-- A fault or fatal event in the Fault Unit's summary and log; alert_n falls (R22, R353, R366, R368). -/
def logEvent (e : Ev) (s : State) : State :=
  if e.sev < 2 then s
  else
    let f := s.flt
    let at_ := if f.logCnt < 128 then f.logCnt else f.logTail
    let tail := if f.logCnt < 128 then f.logTail else if f.logTail = 255 then 128 else f.logTail + 1
    { s with
      flt := { f with
        flags := f.flags ||| (if e.sev = 2 then 1 else 2)
        faults := if e.sev = 2 then min (f.faults + 1) (2 ^ 32 - 1) else f.faults
        fatals := if e.sev = 3 then min (f.fatals + 1) (2 ^ 32 - 1) else f.fatals
        first := if e.sev = 3 && f.fatals == 0 then e.src * 65536 + e.code else f.first
        latest := e.time
        logCnt := f.logCnt + 1
        logTail := tail
        log := tput f.log at_ (evBytes e s.ev.seq e.time false) }
      smb.alertLow := true }

/-- Entries of the Event Ring (R399). -/
def evSize (s : State) : Nat := 2 ^ s.ev.size

/-- The ring's part of one acceptance (R20, R21): the entry written, or dropped; its Seq consumed. -/
def ringEvent (e : Ev) (s : State) : State :=
  let n := evSize s
  let v := s.ev
  if v.enable && (v.tail + 1) % n != v.head then
    let t := (v.tail + 1) % n
    { s with
      hostMem := memWrite s.hostMem (v.base + 32 * v.tail) (evBytes e v.seq e.time v.phase)
      ev := { v with tail := t, phase := if t = 0 then !v.phase else v.phase, seq := (v.seq + 1) % 2 ^ 32
                     irqOwed := v.irqOwed || v.irq } }
  else { s with ev := { v with drop := v.drop + 1, seq := (v.seq + 1) % 2 ^ 32 } }

/-- The collector accepts one posting. -/
def acceptEvent (s : State) (e : Ev) : State := ringEvent e (logEvent e s)

/-- MSI-X vector `v` of the physical function raised. -/
def raiseMsix (v : Nat) (s : State) : State := { s with pcie.msix := tmod 0 s.pcie.msix v (· + 1) }

/-- The interrupt of the Event Ring, at most once per µs (R399). -/
def evInterrupt (s : State) : State :=
  let free := match s.ev.lastIrq with
    | none => true
    | some t => decide (t + 1000 ≤ s.clk.fleet)
  if s.ev.irqOwed && free then
    raiseMsix 8 { s with ev := { s.ev with irqOwed := false, lastIrq := some s.clk.fleet } }
  else s

/-- The collector takes the postings of the command in order of time, those of one time in ascending Source order (R21); each
command has esc cycles of its own (log 81). -/
def collect (s : State) : State :=
  evInterrupt ((sortBy (fun a b : Ev => decide (a.time < b.time) || (a.time == b.time && decide (a.src < b.src))) s.ev.queue).foldl
    acceptEvent { s with ev.queue := [] })

/-- A command's answer: its effect, then the collector; the queue is the step's alone. -/
def run (f : State → State) (s : State) : Out := .next { collect (f s) with pending := s.pending }

/-- The answer of a command that reaches neither the local space nor the thread processors. -/
def runCtl (f : State → State) (s : State) : Out :=
  .next { collect (f s) with pending := s.pending, mem := s.mem, tps := s.tps }

/-! ### Payload values (R425) -/

/-- A value of one byte. -/
def pl1 (v : Nat) : List Byte := leBytes 1 v

/-- A value of two bytes. -/
def pl2 (v : Nat) : List Byte := leBytes 2 v

/-- A value of four bytes. -/
def pl4 (v : Nat) : List Byte := leBytes 4 v

/-- A value of eight bytes. -/
def pl8 (v : Nat) : List Byte := leBytes 8 v

/-- A value of `n` bytes that may not exist: all ones then (R425). -/
def plOpt (n : Nat) (v : Option Nat) : List Byte :=
  match v with
  | some x => leBytes n x
  | none => leBytes n (2 ^ (8 * n) - 1)

/-! ### Free values (log 3) -/

/-- `n` free bytes; the counter moves past them. -/
def freeBytes (s : State) (n : Nat) : List Byte := (upFrom s.freeCtr n).map Config.freeByte

/-- The counter past `n` free bytes. -/
def skipFree (n : Nat) (s : State) : State := { s with freeCtr := s.freeCtr + n }

/-! ### The local space (R58 to R64) -/

/-- The populated region that holds an address: its kind (0 HBM, 1 Vat, 2 thread store, 3 matrix state, 4 register space)
and its end (R58, R65). -/
def regionOf (a : Nat) : Option (Nat × Nat) :=
  if a < 0xC_0000_0000 then some (0, 0xC_0000_0000)
  else if a < 0xC_0800_0000 then
    let base := a / 0x0100_0000 * 0x0100_0000
    if a - base < 0xC0_0000 then some (1, base + 0xC0_0000) else none
  else if 0xD_0000_0000 ≤ a && a < 0xD_0200_0000 then some (2, a / 0x4_0000 * 0x4_0000 + 0x4_0000)
  else if 0xD_0200_0000 ≤ a && a < 0xD_0280_0000 then
    let base := a / 0x1_0000 * 0x1_0000
    if a - base < 0xC000 then some (3, base + 0xC000) else none
  else if 0xF_C000_0000 ≤ a && a < 0xF_C400_0000 then some (4, 0xF_C400_0000)
  else none

/-- The kind of the one populated region that holds `n` bytes from `a` (R65). -/
def regionKind (a n : Nat) : Option Nat :=
  match regionOf a with
  | some (k, e) => if a + n ≤ e then some k else none
  | none => none

/-- Bytes wholly in HBM. -/
def inHbm (a n : Nat) : Bool := regionKind a n == some 0

/-- The cluster whose Vat holds an address. -/
def vatCluster (a : Nat) : Nat := (a - 0xC_0000_0000) / 0x0100_0000

/-- Bytes wholly in the populated Vat of one cluster. -/
def inVat (a n : Nat) : Bool := regionKind a n == some 1

/-- First address of the Vat of cluster c. -/
def vatBase (c : Nat) : Nat := 0xC_0000_0000 + c * 0x0100_0000

/-- Bank and row of a Vat line at offset `off` under swizzle shift `sh` (R61). -/
def vatBankRow (sh off : Nat) : Nat × Nat :=
  ((bits off 6 6).xor (if sh = 0 then 0 else bits off sh 6), bits off 12 12)

/-- The pseudo-channel of an HBM address (R64). -/
def hbmChannel (a : Nat) : Nat :=
  let g := a / 2048
  ((((bits g 0 6).xor (bits g 6 6)).xor (bits g 12 6)).xor (bits g 18 6)).xor (bits g 24 1)

/-- The byte of an HBM address within its pseudo-channel (R64). -/
def hbmOffset (a : Nat) : Nat := bits a 17 19 * 2048 + bits a 0 11

/-- The refresh group of a pseudo-channel (R33). -/
def refreshGroup (q : Nat) : Nat := q % 16

/-- The chip ID and the local address of a global address (R59). -/
def globalChip (g : Nat) : Nat := bits g 36 12

/-- The local address of a global address (R59). -/
def globalLocal (g : Nat) : Nat := bits g 0 36

/-- Is a chip ID the local chip (R59). -/
def isLocalChip (s : State) (c : Nat) : Bool := c == 0xFFF || c == chipId s

/-- Debug address of the thread state of thread `i` on TP `t` (R56, R58). -/
def threadBase (t i : Nat) : Nat := 0xD_0000_0000 + t * 0x4_0000 + i * 0x1000

/-- Debug address of the matrix state of TP `t` (R58, R80). -/
def matrixBase (t : Nat) : Nat := 0xD_0200_0000 + t * 0x1_0000

/-- Debug address of operand-buffer line `b` of TP `t` (R80). -/
def bufferLine (t b : Nat) : Nat := matrixBase t + 64 * b

/-- Debug address of accumulator line `a` of TP `t` (R80). -/
def accLine (t a : Nat) : Nat := matrixBase t + 0x8000 + 64 * a

/-- Debug address of scalar register `n` (R56). -/
def scalarAddr (t i n : Nat) : Nat := threadBase t i + 0x800 + 8 * n

/-! ### Access ranges -/

/-- The end of the first listed range that holds an address. -/
def rangeEnd (rs : List (Nat × Nat)) (a : Nat) : Option Nat :=
  match rs with
  | [] => none
  | (b, n) :: t => if b ≤ a && a < b + n then some (b + n) else rangeEnd t a

/-- Do the ranges hold every byte from `a` to `e`; the first number bounds the hops from range to range. -/
def coverTo (rs : List (Nat × Nat)) : Nat → Nat → Nat → Bool
  | 0, a, e => decide (e ≤ a)
  | k + 1, a, e =>
    if e ≤ a then true
    else match rangeEnd rs a with
      | some x => coverTo rs k x e
      | none => false

/-- Every byte of an access lies in some range (R65, reason 2). -/
def covered (rs : List (Nat × Nat)) (a n : Nat) : Bool := coverTo rs rs.length a (a + n)

/-- Do two byte ranges share a byte. -/
def overlap (a n b m : Nat) : Bool := decide (0 < n) && decide (0 < m) && decide (a < b + m) && decide (b < a + n)

/-- The used access ranges of a job (R234). -/
def jobRanges (j : Job) : List (Nat × Nat) := (j.ranges.map (·.2)).filter fun r => r.2 != 0

/-! ### Memory and check bits -/

/-- Bytes of the local space written. -/
def putMem (a : Nat) (bs : List Byte) (s : State) : State := { s with mem := memWrite s.mem a bs }

/-- A number of `n` bytes of the local space written. -/
def putMemNat (a n v : Nat) (s : State) : State := putMem a (leBytes n v) s

/-- Are check bits bad in a line that an access of `n` bytes touches (R363). -/
def lineBad (s : State) (a n : Nat) : Bool :=
  s.ecc.badLines.any fun l => decide (a / 64 ≤ l) && decide (l ≤ (a + n - 1) / 64)

/-- Lines with a correctable error that an access touches (R363). -/
def softCount (s : State) (a n : Nat) : Nat :=
  (s.ecc.softLines.filter fun l => decide (a / 64 ≤ l) && decide (l ≤ (a + n - 1) / 64)).length

/-- The first address of a bad line that an access touches. -/
def badAddr (s : State) (a n : Nat) : Nat :=
  match s.ecc.badLines.find? fun l => decide (a / 64 ≤ l) && decide (l ≤ (a + n - 1) / 64) with
  | some l => 64 * l
  | none => a

/-- The corrected reads of an access counted (R363). -/
def countSoft (a n : Nat) (s : State) : State := { s with flt.eccCor := s.flt.eccCor + softCount s a n }

/-- New check bits for the lines that a write covers wholly (R60, R364). -/
def healLines (a n : Nat) (s : State) : State :=
  let keep := fun l => !(decide (a ≤ 64 * l) && decide (64 * l + 64 ≤ a + n))
  { s with ecc := { s.ecc with badLines := s.ecc.badLines.filter keep, softLines := s.ecc.softLines.filter keep } }

/-- A write that the part makes: bytes and check bits. -/
def storeMem (a : Nat) (bs : List Byte) (s : State) : State := putMem a bs (healLines a bs.length s)

/-- The bytes of a region of memory zeroed. -/
def clearMem (a n : Nat) (s : State) : State :=
  { s with mem := s.mem.filter fun x => !(decide (a ≤ x.1) && decide (x.1 < a + n)) }

/-- An uncorrectable read counted and reported (R364, R366, R381). -/
def eccEvent (sev a reader : Nat) (s : State) : State :=
  post 0x0B 1 sev (pl8 a ++ pl1 reader)
    { s with flt := { s.flt with eccUnc := s.flt.eccUnc + 1, flags := s.flt.flags ||| 16 } }

/-! ### Numbers that saturate or wrap -/

/-- One more, modulo 2^32. -/
def inc32 (n : Nat) : Nat := (n + 1) % 2 ^ 32

/-- A saturating count of 32 bits. -/
def sat32 (n : Nat) : Nat := min n (2 ^ 32 - 1)

end Sys2Proof.Machine
end

