-- ==== Sys2Proof/Machine/Code.lean ====
section
/-! DEFINITION. Instruction words (R77, R83): their fields, the opcodes, and the thread instruction that a word holds. -/

namespace Sys2Proof.Machine

/-- The opcode of an instruction word (R77). -/
def wordOp (w : Nat) : Nat := bits w 120 8

/-- The Imm of an instruction word (R77). -/
def wordImm (w : Nat) : Nat := bits w 0 64

/-- The fields of an instruction word but its opcode (R77). -/
def wordFields (w : Nat) : TField :=
  { thr := BitVec.ofNat 6 (bits w 114 6), ty := BitVec.ofNat 4 (bits w 110 4), mod := BitVec.ofNat 6 (bits w 104 6)
    dst := BitVec.ofNat 10 (bits w 94 10), srcA := BitVec.ofNat 10 (bits w 84 10), srcB := BitVec.ofNat 10 (bits w 74 10)
    srcC := BitVec.ofNat 10 (bits w 64 10), imm := BitVec.ofNat 64 (wordImm w) }

/-- The opcodes of R83, each with the instruction that it names. -/
def opcodes : List (Nat × (Fin 128 → TField → Instr)) :=
  [(0x00, .nop), (0x01, .tend), (0x02, .tbr), (0x03, .loop), (0x04, .brk), (0x05, .idle), (0x06, .csync), (0x07, .rdv),
    (0x08, .ffence), (0x09, .spec), (0x10, .mov), (0x11, .vbc), (0x12, .vins), (0x13, .vext), (0x14, .movi)] ++
  [(0x18, .ld), (0x19, .st), (0x1A, .mld), (0x1B, .mst), (0x20, .mma), (0x24, .valu), (0x25, .vcvt), (0x26, .vact),
    (0x27, .vcmp), (0x28, .vperm), (0x2C, .vred), (0x2D, .vscan), (0x30, .salu), (0x38, .sel), (0x39, .dsp), (0x3A, .grw)] ++
  [(0x3B, .cmb), (0x3C, .cul), (0x3D, .ldx)]

/-- Is an opcode defined (R83, R95 reason 1). -/
def opcodeDefined (op : Nat) : Bool := opcodes.any fun x => x.1 == op

/-- The instruction that a word holds for TP t; none where its opcode is undefined (R77, R83). -/
def wordInstr (t : Fin 128) (w : Nat) : Option Instr :=
  (opcodes.find? fun x => x.1 == wordOp w).map fun x => x.2 t (wordFields w)

/-- The programs that RDV instructions of some words name (R83). -/
def rdvPrograms (ws : List Nat) : List Nat := (ws.filter fun w => wordOp w == 7).map fun w => bits (wordImm w) 0 16

/-- The instruction words of a tile (R42). -/
def tileCode (m : Movement) (h : TileHdr) : List Nat := (m.code.drop (h.codeOff / 16)).take h.codeLen

end Sys2Proof.Machine
end

