-- ==== Sys2Proof/Machine/LinkOps.lean ====
section
/-! DEFINITION. The shared operations of the Tuind links (R166 to R192): frames, routes, queues, sequence and
acknowledgement, credits, link states and errors. -/

namespace Sys2Proof.Machine

/-! ### Frames (R169 to R172) -/

/-- The short beat stamp (R301). -/
def beatStamp (s : State) : Nat := s.clk.fleet / 1000 % 2 ^ 32

/-- Payload bytes padded to whole units of 64 B. -/
def padUnits (bs : List Byte) : List Byte := bs ++ List.replicate ((64 - bs.length % 64) % 64) 0

/-- A frame as its origin queues it (R169); sequence, ack and credits are set when it is sent. -/
def mkFrame (s : State) (cls kind dst arg tag : Nat) (payload : List Byte) : Frame :=
  { cls := BitVec.ofNat 2 cls, kind := BitVec.ofNat 6 kind, units := BitVec.ofNat 6 ((padUnits payload).length / 64),
    rsvA := 0, dup := false, seq := 0, ackSeq := 0, src := BitVec.ofNat 12 (chipId s), dst := BitVec.ofNat 12 dst,
    ttl := 15, rsvB := 0, tag := BitVec.ofNat 16 tag, stamp := BitVec.ofNat 32 (beatStamp s), arg := BitVec.ofNat 64 arg,
    payload := padUnits payload, creditClass := 3, creditUnits := 0, corrected := 0 }

/-- Bytes of a frame on the wire: header, units and trailer (R169, R170). -/
def frameBytes (f : Frame) : Nat := 32 + 64 * f.units.toNat

/-- The header as a number of 192 bits (R169). -/
def headerNum (f : Frame) : Nat :=
  f.cls.toNat + f.kind.toNat * 2 ^ 2 + f.units.toNat * 2 ^ 8 + f.rsvA.toNat * 2 ^ 14 + b2n f.dup * 2 ^ 15 + f.seq.toNat * 2 ^ 16 +
    f.ackSeq.toNat * 2 ^ 32 + f.src.toNat * 2 ^ 48 + f.dst.toNat * 2 ^ 60 + f.ttl.toNat * 2 ^ 72 + f.rsvB.toNat * 2 ^ 76 +
    f.tag.toNat * 2 ^ 80 + f.stamp.toNat * 2 ^ 96 + f.arg.toNat * 2 ^ 128

/-- The trailer without its Crc: CreditClass and CreditUnits (R170). -/
def trailerNum (f : Frame) : Nat := f.creditUnits.toNat * 2 ^ 20 + f.creditClass.toNat * 2 ^ 30

/-- Header, payload and trailer bits [31:0]: what the Crc covers (R170). -/
def crcBytes (f : Frame) : List Byte := leBytes 24 (headerNum f) ++ f.payload ++ leBytes 4 (trailerNum f)

/-- The bytes of a frame, its Crc last (R169, R170). -/
def frameWire (f : Frame) : List Byte := crcBytes f ++ leBytes 4 (crc32c (crcBytes f))

/-- The units of the receive buffer of a class (R174). -/
def bufferUnits (cls : Nat) : Nat := if cls = 0 then 16 else if cls = 1 then 512 else 256

/-- Credits that a frame uses (R174). -/
def frameCredits (f : Frame) : Nat := 1 + f.units.toNat

/-- The class of a kind and its least and largest number of units (R171). -/
def kindRange (k : Nat) : Option (Nat × Nat × Nat) :=
  match k with
  | 0x01 => some (1, 1, 32)
  | 0x08 => some (2, 1, 32)
  | 0x09 => some (2, 0, 0)
  | 0x0A => some (2, 1, 32)
  | 0x0B => some (2, 0, 0)
  | 0x0C => some (2, 1, 32)
  | 0x10 => some (0, 0, 0)
  | 0x11 => some (0, 0, 0)
  | 0x12 => some (0, 0, 0)
  | 0x13 => some (0, 0, 1)
  | 0x14 => some (0, 1, 1)
  | 0x15 => some (0, 0, 0)
  | _ => none

/-- Is the content of a frame one that R172 does not discard. -/
def frameKindOk (f : Frame) : Bool :=
  match kindRange f.kind.toNat with
  | some (c, lo, hi) => f.cls.toNat == c && decide (lo ≤ f.units.toNat) && decide (f.units.toNat ≤ hi)
  | none => false

/-! ### Sending -/

/-- A link that carries frames (R182). -/
def linkUp (s : State) (n : Nat) : Bool := (getLink s n).state == .up

/-- The link for a U or B frame to a chip by a route table (R189): primary if Up, else alternate if Up, else the primary, where it
waits. None without a valid entry; the entry of the own ID is ignored (R188). -/
def routeVia (rt : Table Nat) (s : State) (d : Nat) : Option Nat :=
  let e := tget 0 rt d
  if !bitAt e 31 || d == chipId s then none
  else if linkUp s (bits e 0 3) then some (bits e 0 3)
  else if bitAt e 30 && linkUp s (bits e 3 3) then some (bits e 3 3)
  else some (bits e 0 3)

/-- The link for a U or B frame to a chip (R189). -/
def routeLink (s : State) (d : Nat) : Option Nat := routeVia s.routes s d

/-- The alternate link for a chip, when the table has one that is Up and is not `n` (R185, R186). -/
def altLink (s : State) (d n : Nat) : Option Nat :=
  let e := tget 0 s.routes d
  let p := bits e 0 3
  let a := bits e 3 3
  if !bitAt e 31 then none
  else if p != n && linkUp s p then some p
  else if bitAt e 30 && a != n && linkUp s a then some a
  else none

/-- The alternate link that the table gives for a chip, when it is Up and is not `n` (R185). -/
def dupLink (s : State) (d n : Nat) : Option Nat :=
  let e := tget 0 s.routes d
  let a := bits e 3 3
  if bitAt e 31 && bitAt e 30 && a != n && linkUp s a then some a else none

/-- A frame put at the end of its class's queue on a link; one that comes in a beat in which its class is held waits too, and is
counted (R37, R173). -/
def enqueue (n : Nat) (t : TxFrame) (s : State) : State :=
  modLink n (fun l =>
    if t.fr.cls = 0 then { l with qU := l.qU ++ [t], uExcess := if l.uHeld then l.uExcess + 1 else l.uExcess }
    else if t.fr.cls = 1 then
      { l with qS := l.qS ++ [t], sExcess := if l.sHeld then l.sExcess + 64 * t.fr.units.toNat else l.sExcess }
    else { l with qB := l.qB ++ [t] }) s

/-- A frame that uses the link to its partner alone (R303). -/
def staysOn (f : Frame) : Bool := f.kind == 0x12

/-- A frame that no entry routes: counted and reported (R189, R192). -/
def frameDiscard (n reason : Nat) (f : Frame) (s : State) : State :=
  post (0x10 + n) 9 1 (pl1 reason ++ pl2 f.src.toNat ++ pl2 f.dst.toNat ++ pl1 f.kind.toNat) s

/-- A U or B frame of this chip queued on its route by a table; without an entry it is discarded at LK0 (R189). -/
def sendVia (rt : Table Nat) (f : Frame) (s : State) : State :=
  match routeVia rt s f.dst.toNat with
  | some n => enqueue n { fr := f } s
  | none => frameDiscard 0 3 f (modLink 0 (fun l => { l with staleDrop := l.staleDrop + 1 }) s)

/-- A U or B frame of this chip queued on its route (R189). -/
def sendRouted (f : Frame) (s : State) : State := sendVia s.routes f s

/-- The next USeq to a destination (R180). -/
def nextUSeq (s : State) (d : Nat) : Nat := tget 0 s.net.useq d

/-- A class U frame to a chip, numbered (R180) and routed. -/
def sendU (kind dst arg : Nat) (payload : List Byte) (s : State) : State :=
  sendRouted (mkFrame s 0 kind dst arg (nextUSeq s dst) payload)
    { s with net.useq := tput s.net.useq dst ((nextUSeq s dst + 1) % 65536) }

/-- A class U frame to the partner of a link, on that link alone (R303, R372). -/
def sendUOn (n kind arg : Nat) (s : State) : State :=
  let d := (getLink s n).partner
  enqueue n { fr := mkFrame s 0 kind d arg (nextUSeq s d) [] }
    { s with net.useq := tput s.net.useq d ((nextUSeq s d + 1) % 65536) }

/-- An answer to the partner of a link, on that link alone, to a request of an instant; it carries the time since then (R303). -/
def answerOn (n kind arg asked : Nat) (s : State) : State :=
  let d := (getLink s n).partner
  enqueue n { fr := mkFrame s 0 kind d arg (nextUSeq s d) [], asked := some asked }
    { s with net.useq := tput s.net.useq d ((nextUSeq s d + 1) % 65536) }

/-- A class B frame to a chip. -/
def sendB (kind dst arg tag : Nat) (payload : List Byte) (s : State) : State :=
  sendRouted (mkFrame s 2 kind dst arg tag payload) s

/-- The link with a role, if one has it. -/
def linkOfRole (s : State) (role : Nat) : Option Nat := (upFrom 0 8).find? fun n => (getLink s n).role == role

/-! ### Acknowledgement and credits (R174, R177, R178) -/

/-- The Arg of a fence notice (R372). -/
def fenceArg (op reason hops origin chip : Nat) : Nat :=
  op * 2 ^ 60 + reason * 2 ^ 56 + hops % 256 * 2 ^ 48 + origin * 2 ^ 36 + chip

/-- A bulk copy frame of this chip. -/
def ownBulk (s : State) (f : Frame) : Bool := f.kind == 0x0C && f.src.toNat == chipId s

/-- Bulk copy frames of this chip are queued or not acknowledged. -/
def bulkOut (s : State) : Bool :=
  s.links.any fun x => (x.2.qB.any fun t => ownBulk s t.fr) || x.2.unacked.any (ownBulk s) || x.2.replayQ.any (ownBulk s)

/-- At the last acknowledgement of a restore its source reports it and tells the target (R209, R378). -/
def checkRemap (s : State) : State :=
  let r := s.flt.remap
  if r.source && r.state == 1 && r.left.isEmpty && !bulkOut s then
    sendU 0x15 r.peer (fenceArg 2 0 0 (chipId s) r.peer) []
      (post 0x10 0x16 0 (pl2 r.peer ++ pl8 r.bytes) { s with flt.remap.state := 2 })
  else s

/-- Frames up to AckSeq leave the replay buffer; an advance is timed. -/
def takeAck (n ack : Nat) (s : State) : State :=
  let l := getLink s n
  let rest := l.unacked.dropWhile fun f => !newer 16 f.seq.toNat ack
  let again := l.replayQ.filter fun f => newer 16 f.seq.toNat ack
  checkRemap <| modLink n (fun l => { l with
    unacked := rest, replayQ := again, ackAt := if rest.length < l.unacked.length then s.clk.fleet else l.ackAt }) s

/-- Credits that the partner returns. -/
def addCredits (n u c b : Nat) (s : State) : State :=
  modLink n (fun l => { l with crU := l.crU + u, crS := l.crS + c, crB := l.crB + b }) s

/-- The credits in a frame's trailer (R170). -/
def trailerCredits (n : Nat) (f : Frame) (s : State) : State :=
  let k := f.creditUnits.toNat
  if f.creditClass = 0 then addCredits n k 0 0 s
  else if f.creditClass = 1 then addCredits n 0 k 0 s
  else if f.creditClass = 2 then addCredits n 0 0 k s
  else s

/-- A frame leaves the receive buffer of a link, and its credits are owed to the partner (R174). -/
def oweCredits (n : Nat) (f : Frame) (s : State) : State :=
  let k := frameCredits f
  modLink n (fun l =>
    if f.cls = 0 then { l with owedU := l.owedU + k, inU := l.inU - k }
    else if f.cls = 1 then { l with owedS := l.owedS + k, inS := l.inS - k }
    else { l with owedB := l.owedB + k, inB := l.inB - k }) s

/-- Frames that waited to be sent are discarded: those that came from another link leave its buffer (R174). -/
def freeFrames (ts : List TxFrame) (s : State) : State :=
  ts.foldl (fun s t => match t.from_ with
    | some m => oweCredits m t.fr s
    | none => s) s

/-- Frames of this chip that are discarded before they were acknowledged (R186). -/
def noteDropped (fs : List Frame) (s : State) : State :=
  { s with net.dropped := s.net.dropped ++ (fs.filter fun f => f.src.toNat == chipId s).map fun f => (f.kind.toNat, f.tag.toNat) }

/-! ### Errors and states (R181 to R185) -/

/-- One link error (R181). -/
def linkError (n : Nat) (s : State) : State := modLink n (fun l => { l with errs := l.errs + 1 }) s

/-- A Nak owed, unless one went within 2 µs (R178). -/
def oweNak (n : Nat) (s : State) : State :=
  let l := getLink s n
  let free := match l.nakAt with
    | none => true
    | some t => decide (t + 2000 ≤ s.clk.fleet)
  if free then modLink n (fun l => { l with nakOwed := true, nakAt := some s.clk.fleet }) s else s

/-- The number of a link state (R182). -/
def linkStateNum : LinkState → Nat
  | .off => 0
  | .train => 1
  | .up => 2
  | .fastRetrain => 3
  | .failed => 4

/-- The width code of LK_STATE (R191). -/
def widthCode (w : Nat) : Nat := if w = 4 then 3 else w

/-- Outputs and lanes are in boundary-scan mode (R358, R359). -/
def boundary (s : State) : Bool :=
  match s.tap.ir with
  | .extest | .clamp | .highz | .extestPulse | .extestTrain => true
  | _ => false

/-- A link enters a state and reports the change (R182, R192). The width of the event is the code of LK_STATE (DESIGN CHOICE,
log 85). -/
def setLinkState (n : Nat) (x : LinkState) (s : State) : State :=
  let l := getLink s n
  if l.state = x then s
  else post (0x10 + n) 1 0 (pl1 (linkStateNum l.state) ++ pl1 (linkStateNum x) ++ pl1 (widthCode l.width))
    (modLink n (fun l => { l with state := x, errs := if x = .up then 0 else l.errs }) s)

/-- U and B frames of a link that no longer carries frames go to Up alternate links; the others stay (R186, R303). -/
def moveToAlternates (n : Nat) (s : State) : State :=
  let l := getLink s n
  let goes := fun t : TxFrame => !staysOn t.fr && (altLink s t.fr.dst.toNat n).isSome
  let out := l.qU.filter goes ++ l.qB.filter goes
  out.foldl (fun s t => match altLink s t.fr.dst.toNat n with
      | some m => enqueue m t s
      | none => s)
    (modLink n (fun l => { l with qU := l.qU.filter fun t => !goes t, qB := l.qB.filter fun t => !goes t }) s)

/-- The link leaves Up for a fast retrain; on its own decision it tells the partner first (R182). -/
def beginFast (n : Nat) (own : Bool) (s : State) : State :=
  moveToAlternates n (setLinkState n .fastRetrain
    (modLink n (fun l => { l with fastRt := l.fastRt + 1
                                  wire := if own then l.wire ++ [.retrain 1] else l.wire }) s))

/-- The link enters Train (R182, R183); from Up on its own decision it tells the partner first. -/
def enterTrain (n : Nat) (own : Bool) (s : State) : State :=
  let tell := own && (getLink s n).state == .up
  moveToAlternates n (setLinkState n .train
    (modLink n (fun l => { l with wire := if tell then l.wire ++ [.retrain 2] else l.wire }) s))

/-- A full training after boot, which is counted (R182, R191). -/
def beginTrain (n : Nat) (own : Bool) (s : State) : State :=
  enterTrain n own (modLink n (fun l => { l with fullRt := l.fullRt + 1 }) s)

/-- A command begins that may put items on a link's wire. -/
def quiet (n : Nat) (s : State) : State := modLink n (fun l => { l with wire := [] }) s

/-- The link enters Off: nothing that it held to send is left (R182, R417). -/
def linkOff (n : Nat) (s : State) : State :=
  let l := getLink s n
  let lost := l.unacked ++ (l.qS ++ l.qB).map (·.fr)
  setLinkState n .off (modLink n (fun l => { l with
    width := 0, lanes := 0, qU := [], qS := [], qB := [], unacked := [], replayQ := [], ackOwed := false, nakOwed := false,
    owedU := 0, owedS := 0, owedB := 0 }) (noteDropped lost (freeFrames (l.qU ++ l.qS ++ l.qB) s)))

/-- The link enters Failed: unacknowledged U frames go to alternates with Dup set, or wait; S and B frames, and time exchanges, are
discarded (R186, R303). The step of the event takes 1 B (DESIGN CHOICE, log 85). -/
def linkFailed (n stepNo : Nat) (s : State) : State :=
  let l := getLink s n
  let us := (l.unacked.filter fun f => f.cls == 0 && !staysOn f).map fun f => { f with dup := true }
  let wait := (us.filter fun f => (altLink s f.dst.toNat n).isNone).map fun f => { fr := f : TxFrame }
  let s1 := us.foldl (fun s f => match altLink s f.dst.toNat n with
      | some m => enqueue m { fr := f } s
      | none => s) s
  let lost := (l.unacked.filter fun f => f.cls != 0) ++ (l.qS ++ l.qB).map (·.fr)
  let s2 := modLink n (fun l => { l with unacked := [], replayQ := [], qS := [], qB := [], qU := wait ++ l.qU.filter fun t => !staysOn t.fr })
    (noteDropped lost (freeFrames (l.qS ++ l.qB) s1))
  let s3 := post (0x10 + n) 4 2 (pl1 stepNo) { s2 with flt.flags := s2.flt.flags ||| 256 }
  setLinkState n .failed s3

/-! ### Receiving (R172, R178, R180, R189) -/

/-- The Dup filter less its entries older than 1 ms (R180). -/
def liveFilter (s : State) : List (Nat × Nat × Nat) := s.net.filter.filter fun e => decide (s.clk.fleet ≤ e.2.2 + 1000000)

/-- A frame accepted in sequence: counted, acknowledged, held in its buffer, its ack and credits taken (R174, R178). -/
def acceptSeq (n : Nat) (f : Frame) (s : State) : State :=
  let k := frameBytes f
  trailerCredits n f (takeAck n f.ackSeq.toNat (modLink n (fun l => { l with
    rxSeq := (l.rxSeq + 1) % 65536, ackOwed := true, gap := false
    rxU := if f.cls = 0 then l.rxU + k else l.rxU
    rxS := if f.cls = 1 then l.rxS + k else l.rxS
    rxB := if f.cls = 2 then l.rxB + k else l.rxB
    inU := if f.cls = 0 then l.inU + frameCredits f else l.inU
    inS := if f.cls = 1 then l.inS + frameCredits f else l.inS
    inB := if f.cls = 2 then l.inB + frameCredits f else l.inB }) s))

/-- The content of a frame goes to this chip: the filters of class U, then its delivery (R180). -/
def deliver (n : Nat) (f : Frame) (d : State → State) (s : State) : State :=
  let s1 := oweCredits n f s
  let age := (beatStamp s + 2 ^ 32 - f.stamp.toNat) % 2 ^ 32
  if f.cls != 0 then d s1
  else if 1000 < age && age < 2 ^ 31 then modLink n (fun l => { l with staleDrop := l.staleDrop + 1 }) s1
  else if !f.dup then d s1
  else if (liveFilter s).any fun e => e.1 == f.src.toNat && e.2.1 == f.tag.toNat then
    modLink n (fun l => { l with dupDrop := l.dupDrop + 1 }) s1
  else
    let fl := liveFilter s
    d { s1 with net.filter := (if 64 ≤ fl.length then fl.drop 1 else fl) ++ [(f.src.toNat, f.tag.toNat, s.clk.fleet)] }

/-- A frame for another chip: Ttl, route, queue (R189). A time exchange is never forwarded (R303); it is discarded as unroutable
(DESIGN CHOICE, log 85). -/
def forward (n : Nat) (f : Frame) (s : State) : State :=
  let drop := fun r => frameDiscard n r f (oweCredits n f (modLink n (fun l => { l with staleDrop := l.staleDrop + 1 }) s))
  if f.ttl = 0 then drop 2
  else if f.cls = 1 || staysOn f then drop 3
  else match routeLink s f.dst.toNat with
    | some m => enqueue m { fr := { f with ttl := f.ttl - 1 }, from_ := some n } s
    | none => drop 3

/-- Symbols that the FEC corrected (R181). -/
def countSymbols (n k : Nat) (s : State) : State := modLink n (fun l => { l with corrSym := l.corrSym + k }) s

/-- A sequence gap: one link error, however many frames are then discarded (R178, R181). -/
def openGap (n : Nat) (s : State) : State :=
  if (getLink s n).gap then s else linkError n (modLink n (fun l => { l with gap := true }) s)

/-- The frame as the link takes it: sequence check, then R172, then this chip or another. `kind` is the kind that the
command names; `d` delivers the content. -/
def receive (l : Fin 8) (f : Frame) (kind : Nat) (d : State → State) (s : State) : State :=
  let n := l.val
  let lk := getLink s n
  let s0 := countSymbols n f.corrected s
  if lk.state != .up then s
  else if f.seq.toNat = lk.rxSeq then
    let s1 := acceptSeq n f s0
    if !frameKindOk f || f.kind.toNat != kind then
      frameDiscard n 1 f (oweCredits n f (modLink n (fun l => { l with badKind := l.badKind + 1 }) s1))
    else if f.dst.toNat = chipId s then deliver n f d s1
    else forward n f s1
  else if newer 16 f.seq.toNat lk.rxSeq then oweNak n (openGap n s0)
  else modLink n (fun l => { l with ackOwed := true }) s0

end Sys2Proof.Machine
end

