-- ==== Sys2Proof/Machine/Operands.lean ====
section
/-! DEFINITION. The operand forms of thread instructions (R77, R78): classes, debug addresses, reads and writes of
registers, frame lines and accumulator lines, and the lanes of a line (R79). -/

namespace Sys2Proof.Machine

/-- The class of an operand field (R78). -/
def opClass (o : BitVec 10) : Nat := o.toNat / 256

/-- The index of an operand field (R78). -/
def opIndex (o : BitVec 10) : Nat := o.toNat % 256

/-- 0x0FF: no operand (R78). -/
def noOperand (o : BitVec 10) : Bool := o == 0x0FF

/-- What an instruction accepts in an operand field (R78, R83). -/
inductive Kind where
  /-- The field is not used. -/
  | unused
  /-- A scalar register. -/
  | sc
  /-- A scalar register or no operand. -/
  | scOpt
  /-- A vector register, frame line or accumulator line. -/
  | wide
  /-- Any of them. -/
  | data
  /-- An accumulator line. -/
  | accLine
  /-- The first line of an accumulator: a0, a64, a128, a192. -/
  | acc
  deriving DecidableEq, Repr

/-- A scalar register within range. -/
def isScalar (o : BitVec 10) : Bool := opClass o == 0 && decide (opIndex o < 64)

/-- A 64 B operand within range. -/
def isWide (o : BitVec 10) : Bool :=
  (opClass o == 1 && decide (opIndex o < 32)) || (opClass o == 2 && decide (opIndex o < 24)) || opClass o == 3

/-- Does a field hold what its kind accepts (R78, R95 reason 4). -/
def kindOk (k : Kind) (o : BitVec 10) : Bool :=
  match k with
  | .unused => true
  | .sc => isScalar o
  | .scOpt => isScalar o || noOperand o
  | .wide => isWide o
  | .data => isScalar o || isWide o
  | .accLine => opClass o == 3
  | .acc => opClass o == 3 && opIndex o % 64 == 0

/-- The debug address of an operand of thread `i` on TP `t` (R56, R58, R80). -/
def opAddr (t i : Nat) (o : BitVec 10) : Nat :=
  match opClass o with
  | 0 => scalarAddr t i (opIndex o)
  | 1 => threadBase t i + 64 * opIndex o
  | 2 => threadBase t i + 0xA00 + 64 * opIndex o
  | _ => accLine t (opIndex o)

/-- The operand's size in bytes (R78). -/
def opSize (o : BitVec 10) : Nat := if opClass o = 0 then 8 else 64

/-- Does a used field name an operand. -/
def named (k : Kind) (o : BitVec 10) : Bool := k != .unused && !noOperand o

/-- A used frame line adds one issue cycle (R78). -/
def frameCost (k : Kind) (o : BitVec 10) : Nat := b2n (named k o && opClass o == 2)

/-- A scalar register of thread `i` on TP `t`. -/
def readScalar (s : State) (t i : Nat) (o : BitVec 10) : Nat := memNat s.mem (opAddr t i o) 8

/-- The bytes of an operand. -/
def readOp (s : State) (t i : Nat) (o : BitVec 10) : List Byte := memRead s.mem (opAddr t i o) (opSize o)

/-- The number that an operand holds. -/
def readNum (s : State) (t i : Nat) (o : BitVec 10) : Nat := leNat (readOp s t i o)

/-- An operand written with a number, in its size. -/
def writeNum (t i : Nat) (o : BitVec 10) (v : Nat) (s : State) : State :=
  putMem (opAddr t i o) (leBytes (opSize o) v) s

/-- An optional scalar written. -/
def writeOpt (t i : Nat) (o : BitVec 10) (v : Nat) (s : State) : State :=
  if noOperand o then s else writeNum t i o v s

/-! ### Lanes (R79) -/

/-- The `n` lanes of `w` bits of a number. -/
def lanesOf (w n v : Nat) : List Nat := (upFrom 0 n).map fun i => bits v (w * i) w

/-- The number that lanes of `w` bits make. -/
def ofLanes (w : Nat) : List Nat → Nat
  | [] => 0
  | x :: xs => x % 2 ^ w + 2 ^ w * ofLanes w xs

/-- The lanes of a 64 B line in an element type. -/
def lineLanes (t : ElTy) (v : Nat) : List Nat := lanesOf (elBits t) (elLanes t) v

/-- A 64 B line from lanes of an element type. -/
def lineOf (t : ElTy) (xs : List Nat) : Nat := ofLanes (elBits t) xs

/-- A mask whose bit i is set where a list holds true at i. -/
def maskOf : List Bool → Nat
  | [] => 0
  | b :: bs => b2n b + 2 * maskOf bs

/-- The numbers below `n` whose bit is set in a mask. -/
def maskBits (n m : Nat) : List Nat := (upFrom 0 n).filter fun i => bitAt m i

end Sys2Proof.Machine
end

