-- ==== Sys2Proof/Machine/VatOps.lean ====
section
/-! DEFINITION. The banks of the Vats (R30, R61, R63, R66, R85): the cycles in which the lines of thread accesses are served, and
what a served line reads or writes. -/

namespace Sys2Proof.Machine

/-- Core cycles from fleet time 0 to cycle 0 of a job's step (log 79). -/
def runBase (s : State) (j : Nat) : Nat := coreOfNs s (getJob s j).run.origin

/-- The cycle of a job's step that fleet time has reached (R17, R28). -/
def cycleNow (s : State) (j : Nat) : Nat := coreOfNs s (s.clk.fleet - (getJob s j).run.origin)

/-- The later of the cycle that fleet time has reached and the furthest cycle at which a job's step stands. -/
def cycleAt (s : State) (j : Nat) : Nat := max (cycleNow s j) (getJob s j).run.cycle

/-- The bank of a Vat line among all banks of the chip (R61, R62). -/
def bankOf (s : State) (a : Nat) : Nat :=
  64 * vatCluster a + (vatBankRow (cfgVal s 0x0702) ((a - 0xC_0000_0000) % 0x0100_0000)).1

/-- The lines of an access. -/
def vatLines (a : VatAcc) : Nat := (a.lo + a.size - 1) / 64 + 1 - a.lo / 64

/-- The address of line `j` of an access. -/
def vatLineAddr (a : VatAcc) (j : Nat) : Nat := 64 * (a.lo / 64 + j)

/-- The cycle in which an access has the next line to be served. -/
def vatHead (a : VatAcc) : Nat := a.served.head?.getD a.want

/-- Which of two accesses that want one bank in one cycle is served first (R63): own cluster before other clusters, then the
lower TP. -/
def vatRank (a b : VatAcc) : Bool :=
  if a.own == b.own then decide (a.tp < b.tp) else a.own

/-- The first of some numbered things by a strict order, the lower number where the order does not tell. -/
def firstBy {α : Type} (lt : α → α → Bool) : List (α × Nat) → Option (α × Nat)
  | [] => none
  | x :: xs => match firstBy lt xs with
    | none => some x
    | some y => if lt y.1 x.1 then some y else some x

/-- The service cycles of all lines not served yet (R30, R63): cycle by cycle each bank serves the first access that wants it;
an access that is not served asks again in the next cycle, its later lines with it. The first number bounds the rounds;
`taken` are the banks given so far with their cycles; each access comes with the cycle in which it asks. -/
def arbitrate (s : State) : Nat → List (Nat × Nat) → List (VatAcc × Nat) → List VatAcc
  | 0, _, xs => xs.map (·.1)
  | k + 1, taken, xs =>
    let asks := xs.zipIdx.filter fun x => decide (x.1.1.next + x.1.1.served.length < vatLines x.1.1)
    match firstBy (fun x y : VatAcc × Nat => decide (x.2 < y.2) || (x.2 == y.2 && vatRank x.1 y.1)) asks with
    | none => xs.map (·.1)
    | some ((a, w), i) =>
      let b := bankOf s (vatLineAddr a (a.next + a.served.length))
      if taken.contains (b, w) then arbitrate s k taken (xs.set i (a, w + 1))
      else arbitrate s k ((b, w) :: taken) (xs.set i ({ a with served := a.served ++ [w] }, w + 1))

/-- The lines that some accesses still wait for. -/
def vatLeft (xs : List VatAcc) : Nat := sumNat (xs.map fun a => vatLines a - a.next)

/-- The service cycles of the accesses in flight found again. -/
def schedule (s : State) (xs : List VatAcc) : List VatAcc :=
  let n := vatLeft xs
  arbitrate s (n * (n + 1) + 1) [] (xs.map fun a => ({ a with served := [] }, a.want))

/-- The cycle of its job's step at which an access completes: its last line and the way back (R63, R85). -/
def vatDoneAt (a : VatAcc) : Nat := a.served.getLast?.getD a.want + a.lat - a.base

/-- What the TP of an access waits for renewed: results, settled results, Vat stores (R73, R76). -/
def noteVat (s : State) (a : VatAcc) : State :=
  let at_ := vatDoneAt a
  modTp a.tp (fun tp => match a.into with
    | none => { tp with vatDone := max tp.vatDone at_ }
    | some d => { tp with
      ready := a.keys.foldl (fun r k => tput r k at_) tp.ready
      settled := if matrixBase a.tp ≤ d && d < accLine a.tp 0 then tp.settled else max tp.settled at_ }) s

/-- An access goes to its banks: the cycles of all accesses in flight are found again. -/
def enterVat (a : VatAcc) (s : State) : State :=
  let xs := schedule s (s.vat ++ [a])
  xs.foldl noteVat { s with vat := xs }

/-- One line served (R66): a read takes the line as it stands, a store changes its own bytes of it. -/
def serveLine (a : VatAcc) (s : State) : State :=
  let line := vatLineAddr a a.next
  let x := max a.lo line
  let n := min (a.lo + a.size) (line + 64) - x
  match a.into with
  | some d => putMem (d + (x - a.lo)) (memRead s.mem x n) s
  | none => storeMem x ((a.bytes.drop (x - a.lo)).take n) s

/-- An access after its next line, gone when that was the last. -/
def afterLine (a : VatAcc) : List VatAcc :=
  match a.served with
  | w :: x :: rest => [{ a with next := a.next + 1, want := w + 1, served := x :: rest }]
  | _ => []

/-- Lines served in the order of their cycles, as far as `ok` lets them; the first number bounds them (R66). -/
def serveVat (ok : VatAcc → Bool) : Nat → State → State
  | 0, s => s
  | k + 1, s =>
    match firstBy (fun x y : VatAcc => decide (vatHead x < vatHead y) || (vatHead x == vatHead y && vatRank x y))
        (s.vat.zipIdx.filter fun x => ok x.1) with
    | none => s
    | some (a, i) =>
      serveVat ok k (serveLine a { s with vat := s.vat.take i ++ afterLine a ++ s.vat.drop (i + 1) })

/-- The lines whose cycle has come are served. -/
def serveTo (cycle : Nat) (s : State) : State := serveVat (fun a => decide (vatHead a ≤ cycle)) (vatLeft s.vat) s

/-- All lines of a job's accesses are served: what has been issued completes. -/
def serveJob (j : Nat) (s : State) : State := serveVat (fun a => a.slot == j) (vatLeft s.vat) s

/-- All lines are served: an agent that is not timed in core cycles comes after them. -/
def serveAll (s : State) : State := serveVat (fun _ => true) (vatLeft s.vat) s

end Sys2Proof.Machine
end

