-- ==== Sys2Proof/Machine/JobOps.lean ====
section
/-! DEFINITION. The shared operations over jobs: virtual time, accounting, the end of a step, faults, switches (R232 to
R254), and what a fault of class job or chip does (R53, R362, R371). -/

namespace Sys2Proof.Machine

/-! ### Job fields (R234) -/

/-- The partition of a job. -/
def jobPart (j : Job) : Nat := bits j.ctl 0 3

/-- The shares of a job. -/
def jobShares (j : Job) : Nat := bits j.ctl 8 11

/-- Is a job a ring job. -/
def jobRing (j : Job) : Bool := bitAt j.ctl 24

/-- Is a job a serving job. -/
def jobServing (j : Job) : Bool := bitAt j.ctl 25

/-- The client of a job. -/
def jobClient (j : Job) : Nat := bits j.ctl 32 8

/-- The SwitchClaim index of a job. -/
def jobClaim (j : Job) : Nat := bits j.ctl 40 16

/-- The Movement of a job, an empty one when none is admitted. -/
def jobMov (j : Job) : Movement := j.movement.getD {}

/-- The slots that hold jobs, ascending. -/
def residents (s : State) : List Nat := (s.jobs.filter fun x => x.2.state != 0).map (·.1)

/-- The slots of partition p's jobs, ascending. -/
def partJobs (s : State) (p : Nat) : List Nat := (residents s).filter fun j => jobPart (getJob s j) == p

/-- The serving job of a partition, if it holds one. -/
def servingJob (s : State) (p : Nat) : Option Nat := (partJobs s p).find? fun j => jobServing (getJob s j)

/-- Is a partition a ring partition (R233). -/
def ringPart (s : State) (p : Nat) : Bool := (partJobs s p).any fun j => jobRing (getJob s j)

/-- Do a job's steps start at the start swings of its partition (R221, R233): those of a ring partition, once its first is set. -/
def onSwings (s : State) (j : Nat) : Bool :=
  let x := getJob s j
  jobRing x || (ringPart s (jobPart x) && (getStm s (jobPart x)).nextSw != 0)

/-- The ring partition of the chip, if there is one. -/
def theRingPart (s : State) : Option Nat := (upFrom 0 8).find? fun p => ringPart s p

/-- Is a job Running. -/
def isRunning (s : State) (j : Nat) : Bool := (getJob s j).state == 3

/-- TPs of a cluster mask. -/
def tpsOfMask (m : Nat) : List Nat := (upFrom 0 128).filter fun t => bitAt m (clusterOf t)

/-- The number of TPs of a partition. -/
def partTps (s : State) (p : Nat) : Nat := 16 * (maskBits 8 (getPart s p).mask).length

/-- Does a TP run a tile of a job. -/
def tpRuns (j : Nat) (t : Tp) : Bool :=
  match t.tile with
  | some r => r.slot == j
  | none => false

/-- The step number of a job (R239). -/
def jobStep (s : State) (j : Nat) : Nat :=
  let x := getJob s j
  if jobServing x then (getStm s (jobPart x)).step else x.stepNo

/-- The rows of a serving job's built step. -/
def builtRows (s : State) (p : Nat) : List Row :=
  match (getStm s p).built with
  | some b => b.rows
  | none => []

/-! ### Accounting (R240, R241, R252, R253) -/

/-- A quantity split among the accounts that a job's step serves (R253). -/
def splitQty (s : State) (j q : Nat) : List (Nat × Nat) :=
  let x := getJob s j
  if jobServing x then
    let rows := builtRows s (jobPart x)
    let live := rows.length
    if live = 0 then [(0, q)]
    else
      let clients := (upFrom 0 256).filter fun c => rows.any fun r => r.client == c
      let parts := clients.map fun c => (c + 1, q * (rows.filter fun r => r.client == c).length / live)
      (0, q - sumNat (parts.map (·.2))) :: parts
  else [(jobClient x + 1, q)]

/-- A quantity added to the accounts of a job by a function that adds. -/
def chargeQty (j q : Nat) (add : Nat → Account → Account) (s : State) : State :=
  (splitQty s j q).foldl (fun s x => modAcct x.1 (add x.2) s) s

/-- Energy in nJ added to an account, whole µJ and carry (R294). -/
def addEnergy (nj : Nat) (a : Account) : Account :=
  { a with energy := a.energy + (a.carryNj + nj) / 1000, carryNj := (a.carryNj + nj) % 1000 }

/-- One pre-emption more, modulo 2^32 with Wrapped (R252). -/
def addPre (n : Nat) (a : Account) : Account :=
  { a with pre := (a.pre + n) % 2 ^ 32, preWrap := a.preWrap || decide (2 ^ 32 ≤ a.pre + n) }

/-- The accounts that a pre-emption before a step is charged to: each client with rows, or the job's client (R253). -/
def preAccounts (s : State) (j : Nat) : List Nat :=
  let x := getJob s j
  if jobServing x then
    (upFrom 0 256).filterMap fun c => if (builtRows s (jobPart x)).any fun r => r.client == c then some (c + 1) else none
  else [jobClient x + 1]

/-- Virtual time charged (R241). -/
def chargeVt (x : Nat) (j : Job) : Job :=
  let t := x * 1024 + j.vtRem
  let sh := max 1 (jobShares j)
  { j with vt := j.vt + t / sh, vtRem := t % sh, engine := j.engine + x }

/-- Engine time of a job: to its virtual time at once, and kept for the accounts until the step ends. -/
def chargeEngine (j x : Nat) (s : State) : State :=
  modJob j (fun y => { chargeVt x y with run := { y.run with engine := y.run.engine + x } }) s

/-- The quantities of a step charged at its end, by the profile of the partition (R252, R253, R294). -/
def chargeStep (j : Nat) (committed : Bool) (s : State) : State :=
  let x := getJob s j
  let p := jobPart x
  let pt := getPart s p
  let s1 := chargeQty j x.run.engine (fun q a => { a with engine := a.engine + q }) s
  let s2 :=
    if pt.profile = 0 then
      chargeQty j (x.run.energy % 1000) addEnergy
        (chargeQty j (x.run.energy / 1000) (fun q => addEnergy (1000 * q))
          (chargeQty j x.run.linkBytes (fun q a => { a with link := a.link + q })
            (chargeQty j x.run.hbmBytes (fun q a => { a with hbm := a.hbm + q }) s1)))
    else
      let s3 := chargeQty j x.waitNs (fun q a => { a with wait := a.wait + q }) s1
      let s4 := (preAccounts s j).foldl (fun s a => modAcct a (addPre x.prePend) s) s3
      let s5 := if committed then
          (if jobServing x then
            (upFrom 0 256).foldl (fun s c =>
              let n := ((builtRows s p).filter fun r => r.client == c).length
              if n = 0 then s else modAcct (c + 1) (fun a => { a with tokens := a.tokens + n }) s) s4
           else modAcct (jobClient x + 1) (fun a => { a with tokens := a.tokens + x.run.live }) s4)
        else s4
      modAcct 0 (addEnergy x.run.energy) s5
  modJob j (fun y => { y with
    waitNs := 0, prePend := 0, run := { y.run with engine := 0, energy := 0, hbmBytes := 0, linkBytes := 0 } }) s2

/-- One pre-emption suffered by a job (R242, R248, R252). -/
def countPre (j : Nat) (s : State) : State :=
  modJob j (fun x => { x with
    pre := (x.pre + 1) % 2 ^ 32, preWrap := x.preWrap || x.pre == 2 ^ 32 - 1, prePend := x.prePend + 1 }) s

/-- The resource report of a partition's step (R385). -/
def telBound (p : Nat) (s : State) : State :=
  let pt := getPart s p
  let busy := min pt.busy 65535
  let full := min pt.full 65535
  let v := busy * 2 ^ 48 + full * 2 ^ 32 + 8 * b2n pt.throttled + 4 * b2n pt.excess +
    2 * b2n (decide (0 < busy) && decide (full ≤ busy)) + b2n (decide (busy < full))
  modPart p (fun y => { y with throttled := false, excess := false, full := 0, busy := 0 })
    { s with tel.bound := tput s.tel.bound p v }

/-! ### Ready, Running and the choice (R241, R242) -/

/-- The order of R241: least virtual time, then lower slot. -/
def vtLess (s : State) (a b : Nat) : Bool :=
  let x := (getJob s a).vt
  let y := (getJob s b).vt
  decide (x < y) || (x == y && decide (a < b))

/-- The Ready and Running jobs of a partition that can be chosen: no Ready ring job while R251 holds it back, or on a chip that
has fenced itself (R371). -/
def candidates (s : State) (p : Nat) : List Nat :=
  (partJobs s p).filter fun j =>
    let x := getJob s j
    (x.state == 2 && !x.blocked && !(jobRing x && s.flt.selfFence)) || x.state == 3

/-- The job that R241 chooses. -/
def chooseJob (s : State) (p : Nat) : Option Nat := (sortBy (vtLess s) (candidates s p)).head?

/-- A job becomes Ready; from Installed its virtual time is raised to the least of the partition's (R241). -/
def makeReady (j : Nat) (raise : Bool) (s : State) : State :=
  let p := jobPart (getJob s j)
  let others := (partJobs s p).filter fun k => k != j && ((getJob s k).state == 2 || (getJob s k).state == 3)
  let least := match (sortBy (vtLess s) others).head? with
    | some o => (getJob s o).vt
    | none => 0
  modJob j (fun x => { x with
    state := 2, vt := if raise then max x.vt least else x.vt, readyAt := s.clk.fleet, startSw := none, blocked := false
    preempt := false, preStep := none }) s

/-- The release cycle of the latest stop of a job's step, slip included; 0 before the first. -/
def lastStop (x : Job) : Nat :=
  if x.run.stopIx = 0 then 0 else (((jobMov x).stops[x.run.stopIx - 1]?).map (·.cycle)).getD 0 + x.run.slip

/-- A Ready job becomes Running; its wait is counted (R252), and the Movement time of a step under way goes on from its latest
stop (R242, R245). -/
def makeRunning (j : Nat) (s : State) : State :=
  modJob j (fun x => { x with
    state := 3, waitNs := x.waitNs + (s.clk.fleet - x.readyAt), asking := false
    run := if x.run.active then { x.run with origin := s.clk.fleet - nsOfCore s (lastStop x) } else x.run }) s

/-- The grants of R242: Ready jobs that ask, in the order of R241, up to the limit; none after a chip-class error (R362). -/
def grantUnits : Nat → State → State
  | 0, s => s
  | k + 1, s =>
    let run := ((candidates s 0).filter (isRunning s)).length
    let ask := (candidates s 0).filter fun j => let x := getJob s j; x.state == 2 && x.asking
    match (sortBy (vtLess s) ask).head? with
    | some j => if run < cfgVal s 0x0705 && !s.flt.chipClass then grantUnits k (modJob j (fun x => { x with granted := true }) (makeRunning j s)) else s
    | none => s

/-- In interleaved mode a Ready job asks for its next unit (R242). -/
def askUnit (j : Nat) (s : State) : State := grantUnits 8 (modJob j (fun x => { x with asking := true, granted := false }) s)

/-! ### Stopping the work of a job (R53, R91) -/

/-- The matrix state of TPs left undefined: free bytes (R149). -/
def freeMatrix (ts : List Nat) (s : State) : State :=
  ts.foldl (fun s t => skipFree 0xC000 (putMem (matrixBase t) (freeBytes s 0xC000) s)) s

/-- A thread processor that runs nothing and waits for nothing. -/
def haltTp (t : Tp) : Tp :=
  { t with tile := none, nest := [], ready := [], settled := 0, vatDone := 0, accReady := [], mmas := [], arriving := [],
           statuses := [], wait := none, stalled := none }

/-- The TPs that run tiles of a job stop. -/
def haltJob (j : Nat) (s : State) : State :=
  { s with tps := s.tps.map fun x => (x.1, if tpRuns j x.2 then haltTp x.2 else x.2) }

/-- The TPs whose matrix state a job's running Group Walker operations use (R149). -/
def walkedTps (s : State) (j : Nat) : List Nat :=
  s.blk.queues.flatMap fun q => (q.2.filter fun o => o.slot == j && o.began.isSome).flatMap (·.tps)

/-- A job's queued block operations, deferred requests and remote accesses are dropped (R53, R91); its Vat accesses complete, and
the matrix state under a running Group Walker is left undefined (R149). -/
def dropWork (j : Nat) (s : State) : State :=
  let s1 := freeMatrix (walkedTps s j) (serveJob j s)
  { s1 with
    blk.queues := s1.blk.queues.map fun q => (q.1, q.2.filter fun o => o.slot != j || o.began.isSome)
    hbm.deferred := s1.hbm.deferred.filter fun r => r.slot != j
    net.remotes := s1.net.remotes.filter fun r => r.slot != j }

/-- The Culture progress of a step that does not commit is discarded (R262). -/
def abandonCulture (j : Nat) (s : State) : State :=
  { s with cul.prog := s.cul.prog.map fun x =>
      (x.1, if x.2.slot = j then { x.2 with
        rounds := (x.2.recorded.map (tdel x.2.rounds)).getD x.2.rounds
        recorded := none, pausing := false, resumed := false, foldDone := false, foldAt := x.2.foldAtOk
        foldStep := if bitAt (memNat s.mem (x.1 + 0x70) 8) 2 then x.2.foldStep else []
        carryPend := none, lastStep := none } else x.2) }

/-- The streams of a built step: unlocked, and marked Replay when the step did not commit (R227, R229). -/
def releaseLocks (p : Nat) (replay : Bool) (s : State) : State :=
  let ids := ((getStm s p).built.map fun b => b.rows.map (·.stream)).getD []
  modStm p (fun x => { x with built := none, building := false })
    { s with streams := s.streams.map fun e =>
        (e.1, if ids.contains e.1 then { e.2 with locked := false, lockEpoch := 0, replay := e.2.replay || replay } else e.2) }

/-! ### Runs and switches (R243 to R249) -/

/-- The lines of a manifest that a save copies: those not in HBM (R245). -/
def savedRanges (m : Manifest) : List (Nat × Nat) := m.ranges.filter fun r => !inHbm r.1 (64 * r.2)

/-- Lines of a list of ranges. -/
def rangeLines (rs : List (Nat × Nat)) : Nat := sumNat (rs.map (·.2))

/-- A job's run begins in its partition: no other job's state is left on its TPs' scoreboards. -/
def beginRun (p j : Nat) (s : State) : State :=
  modPart p (fun x => { x with running := some j, runFrom := s.clk.fleet, runSteps := 0, began := false, sw := none })
    (makeRunning j s)

/-- Thread store and matrix state of the TPs of a cluster mask read as 0 (R57, R247). -/
def zeroTps (mask : Nat) (s : State) : State :=
  { s with mem := s.mem.filter fun x =>
      !((decide (0xD_0000_0000 ≤ x.1) && decide (x.1 < 0xD_0200_0000) && bitAt mask (clusterOf ((x.1 - 0xD_0000_0000) / 0x4_0000)))
        || (decide (0xD_0200_0000 ≤ x.1) && decide (x.1 < 0xD_0280_0000) && bitAt mask (clusterOf ((x.1 - 0xD_0200_0000) / 0x1_0000)))) }

/-- The Switch event (R254). -/
def switchEvent (p : Nat) (out inc : Option Nat) (saved restored : Nat) (s : State) : State :=
  post 0x04 2 0 (pl1 p ++ plOpt 1 out ++ plOpt 1 inc ++ pl4 saved ++ pl4 restored) s

/-- The incoming job of a switch: its restore begins, or its run when nothing is saved for it (R245). -/
def bringIn (p : Nat) (out inc : Option Nat) (lines : Nat) (due : Option Nat) (s : State) : State :=
  match inc with
  | none => switchEvent p out none lines 0 (modPart p (fun x => { x with running := none, sw := none }) s)
  | some j =>
    match (getJob s j).saved with
    | some rs =>
      if rs.isEmpty then
        switchEvent p out inc lines 0 (beginRun p j (zeroTps (getPart s p).mask s))
      else modPart p (fun x => { x with running := none, sw := some { outSlot := out, inSlot := inc, stage := 2, lines := lines, due := due } }) s
    | none => switchEvent p out inc lines 0 (beginRun p j (zeroTps (getPart s p).mask s))

/-- Nothing of the partition runs: R241 chooses, and the chosen job's restore or run begins (partitioned mode). After a
chip-class error no partition runs (R362). -/
def startNext (p : Nat) (out : Option Nat) (s : State) : State :=
  if (getPart s p).running.isSome || (getPart s p).sw.isSome || s.flt.chipClass then s
  else match chooseJob s p with
    | some j => if jobRing (getJob s j) && (getStm s p).nextSw == 0 then s else bringIn p out (some j) 0 none s
    | none => s

/-- StepSwings (R221). -/
def stepSwings (s : State) (m : Movement) : Nat := cdiv (m.stepCycles + 64 * m.slipLimit) (16 * beatCycles s) + 1

/-- Engine time of an attempt of a step in a ring partition (R240). -/
def ringEngine (s : State) (j : Nat) : Nat :=
  let x := getJob s j
  partTps s (jobPart x) * stepSwings s (jobMov x) * 16 * beatCycles s

/-- The engine time of an attempt that ends in a ring partition (R240). -/
def chargeAttempt (j : Nat) (s : State) : State :=
  if ringPart s (jobPart (getJob s j)) && (getJob s j).run.active then chargeEngine j (ringEngine s j) s else s

/-- The start swing of the ring job chosen after a ring job's fault in step n, T(n + 1) + ring_switch_swings (R244, R249). -/
def ringSwing (p : Nat) (x : Job) (s : State) : State :=
  modStm p (fun y => { y with nextSw :=
    y.nextSw + (if x.run.active then 16000 * stepSwings s (jobMov x) else 0) + 16000 * cfgVal s 0x0707 }) s

/-- A ring job's fault ended a run, in its step n where it was in one: R241 chooses, and a chosen ring job has its start swing. -/
def ringNext (p j : Nat) (x : Job) (s : State) : State :=
  if (chooseJob s p).any (fun k => jobRing (getJob s k)) then startNext p (some j) (ringSwing p x s) else startNext p (some j) s

/-! ### Faults (R53, R54, R402) -/

/-- An overrun event (R54): severity fault when it is handled as a fault. -/
def overrunEvent (t tile len slip : Nat) (faulted : Bool) (s : State) : State :=
  post (0x20 + clusterOf t) 1 (if faulted then 2 else 1)
    (pl1 t ++ pl4 tile ++ pl4 len ++ pl4 slip ++ pl1 (b2n faulted))
    (modCl (clusterOf t) (fun c => { c with overruns := c.overruns + 1 }) s)

/-- An instruction-fault event (R95). -/
def instrFaultEvent (t thr off reason : Nat) (s : State) : State :=
  post (0x20 + clusterOf t) 4 2 (pl1 t ++ pl1 thr ++ pl4 off ++ pl1 reason)
    (modCl (clusterOf t) (fun c => { c with faults := c.faults + 1 }) s)

/-- An access-fault event (R65). -/
def accessFaultEvent (t thr g reason : Nat) (s : State) : State :=
  post (0x20 + clusterOf t) 3 2 (pl1 t ++ pl1 thr ++ pl8 g ++ pl1 reason)
    (modCl (clusterOf t) (fun c => { c with faults := c.faults + 1 }) s)

/-- The overruns of a job's tiles that still run when the job faults, reported as far as they have slipped (R54). -/
def reportOverruns (j : Nat) (s : State) : State :=
  let r := (getJob s j).run
  s.tps.foldl (fun s x => match x.2.tile with
    | some k => if k.slot = j then (match k.overAt with
        | some base => overrunEvent x.1 k.tile ((r.cycle : Int) - (k.ceilEnd + base)).toNat r.slip false s
        | none => s) else s
    | none => s) s

/-- Is a step of a job under way: the job runs, or, in interleaved mode, waits within its step for its next unit (R90, R91, R242). -/
def stepLives (s : State) (j : Nat) : Bool :=
  let x := getJob s j
  x.state == 3 || (x.state == 2 && x.run.active && !partitioned s)

/-- The digests held are used up, or stale (R203). -/
def clearDigests (s : State) : State :=
  { s with ring := { s.ring with fwd := { s.ring.fwd with digest := none }, bwd := { s.ring.bwd with digest := none } } }

/-- A ring job's step is over: its digests are past, and the Culture is no longer frozen (R203, R206, R210). -/
def endAttempts (s : State) : State :=
  clearDigests { s with ring := { s.ring with digStat := s.ring.digStat % 2 ^ 19 } }

/-- A job's step ends without a commit and the job enters Faulted (R53, R227, R238, R262). -/
def faultJob (j : Nat) (s : State) : State :=
  let x := getJob s j
  if !stepLives s j then s
  else
    let p := jobPart x
    let s := reportOverruns j (modJob j (fun y => { y with
      waitNs := if x.state = 2 then y.waitNs + (s.clk.fleet - x.readyAt) else y.waitNs }) s)
    let s1 := chargeStep j false (chargeAttempt j (if jobRing x then endAttempts s else s))
    let s2 := telBound p (abandonCulture j (dropWork j (haltJob j s1)))
    let s3 := if jobServing x then releaseLocks p true s2 else s2
    let s4 := modJob j (fun y => { y with
      state := 4, run := {}, preempt := false, preStep := none, granted := false, asking := false, saved := none, attempt := 0 }) s3
    if partitioned s then
      let s5 := modPart p (fun y => { y with running := none, sw := none }) s4
      if jobRing x then ringNext p j x s5 else startNext p (some j) s5
    else grantUnits 8 s4

/-- Partition p holds back its Ready ring jobs until a Start or Restart names a StartSwing (R251). -/
def holdRing (p : Nat) (s : State) : State :=
  { s with jobs := s.jobs.map fun x =>
      (x.1, if x.2.state = 2 && jobRing x.2 && jobPart x.2 == p then { x.2 with blocked := true } else x.2) }

/-- The hold of R251 ends, and what a fence left of the run before: the StartSwing of a Start or Restart has come. -/
def freeRing (p : Nat) (s : State) : State :=
  { s with ring.fenceFail := false, jobs := s.jobs.map fun x => (x.1, if jobPart x.2 == p then { x.2 with blocked := false } else x.2) }

/-- A collective of a job fails (R201, R251). -/
def failColl (j prog : Nat) (s : State) : State :=
  let p := jobPart (getJob s j)
  let st := jobStep s j
  faultJob j (holdRing p (post 0x10 0x10 2 (pl4 prog ++ pl4 st)
    { s with ring.collFail := s.ring.collFail + 1, ring.fenceFail := false }))

/-- The running ring job, if one runs. -/
def runningRing (s : State) : Option Nat :=
  (residents s).find? fun j => let x := getJob s j; x.state == 3 && jobRing x

/-- A fence while a ring job runs: a collective in progress fails at once, or else the next that starts (R370, step 2). -/
def failAllColls (s : State) : State :=
  match runningRing s with
  | none => s
  | some j => match (getJob s j).run.colls.find? fun c => c.2.running && !c.2.done with
    | some c => failColl j c.1 s
    | none => { s with ring.fenceFail := true }

/-! ### The ring (R12, R71, R193) -/

/-- The ring as a partition's data plane sees it (R12, R24): size, slice index, forward chip, backward chip. -/
def viewAt (s : State) (p i : Nat) : Nat := ((getPart s p).view[i]?).getD 0

/-- Can a chip be one of a partition's ring (R71, R193): the ring of a chip with up to two others holds just its neighbours; of a
larger ring the chip holds no list of members (log 80). -/
def inRing (s : State) (p c : Nat) : Bool :=
  decide (3 < viewAt s p 0) || c == viewAt s p 2 || c == viewAt s p 3

/-! ### Fencing (R370, R371, R372) -/

/-- The ring neighbours that the Fault Unit and the ring engine use: forward, backward. -/
def neighbours (s : State) : List Nat :=
  if cfgVal s 0x0601 = 0 then [] else [cfgVal s 0x0603, cfgVal s 0x0604]

/-- Is a chip in the fence list. -/
def isFenced (s : State) (c : Nat) : Bool := s.flt.fences.any fun f => f.chip == c

/-- A fence notice to a neighbour, on the link whose partner it is (R372). -/
def sendNotice (chip arg : Nat) (s : State) : State :=
  match (upFrom 0 8).find? fun n => (getLink s n).partner == chip && linkUp s n with
  | some n => sendUOn n 0x15 arg s
  | none => sendU 0x15 chip arg [] s

/-- The chip fences another chip (R370). `hops` is 1 at the origin. -/
def fenceChip (x reason hops origin : Nat) (from_ : Option Nat) (s : State) : State :=
  if isFenced s x || x == chipId s then s
  else
    let fs := s.flt.fences
    let nb := neighbours s
    let s1 := { s with flt := { s.flt with
      fences := (if 16 ≤ fs.length then fs.drop 1 else fs) ++ [⟨x, reason⟩]
      flags := if nb.contains x then s.flt.flags ||| 64 else s.flt.flags } }
    let s2 := failAllColls (post 0x0B 3 1 (pl2 x ++ pl1 reason ++ pl1 hops) s1)
    let whom := (nb.eraseDups).filter fun c => c != x && some c != from_
    if hops + 1 ≤ cfgVal s 0x0601 then
      whom.foldl (fun s c => sendNotice c (fenceArg 1 reason hops origin x) s) s2
    else s2

/-- The chip fences itself (R371). -/
def selfFence (reason : Nat) (s : State) : State :=
  let s0 := { s with flt := { s.flt with selfFence := true, flags := s.flt.flags ||| 32 } }
  let s1 := match runningRing s0 with
    | some j => faultJob j s0
    | none => s0
  (neighbours s).eraseDups.foldl (fun s c => sendNotice c (fenceArg 1 reason 1 (chipId s) (chipId s)) s) s1

/-- A chip-class error (R362, R364, R371, R381). -/
def chipClass (table addr : Nat) (s : State) : State :=
  let s1 := post 0x0B 2 3 (pl1 table ++ pl8 addr) { s with flt.chipClass := true }
  selfFence 3 ((residents s).foldl (fun s j => faultJob j s) s1)

/-- A command that reads control-plane table k (R381): bad check bits there are a chip-class error, met once (R363, R364). -/
def onTable (k : Nat) (f : State → State) (s : State) : State :=
  if s.ecc.badTables.contains k && !s.flt.chipClass then
    f (chipClass k (2 ^ 64 - 1) { s with flt := { s.flt with eccUnc := s.flt.eccUnc + 1, flags := s.flt.flags ||| 16 } })
  else f s

end Sys2Proof.Machine
end

