-- ==== Sys2Proof/Machine/Issue.lean ====
section
/-! DEFINITION. The issue of thread instructions (R73 to R76, R92 to R96): when an instruction issues, what it waits for,
the checks it fails, overruns (R48 to R54), branches and loops, access checks (R65) and HBM claims (R34). -/

namespace Sys2Proof.Machine

/-! ### The tile that a TP runs -/

/-- What an instruction needs to know of its tile. -/
structure TileCtx where
  t    : Nat
  slot : Nat
  tile : TileRun
  job  : Job
  mov  : Movement
  hdr  : TileHdr
  tp   : Tp
  deriving DecidableEq, Repr

/-- The header of a tile index, an empty one outside the section. -/
def tileHdr (m : Movement) (i : Nat) : TileHdr :=
  (m.tiles[i]?).getD { codeOff := 0, codeLen := 0, ceiling := 0, claim := 0, layer := 0xFF, rvWindow := 0, cost := 0, mask := 0 }

/-- The tile of a TP that can issue: it runs a tile, waits in no RDV or CSYNC, and the core clock runs. -/
def tileCtx (s : State) (t : Nat) : Option TileCtx :=
  let tp := getTp s t
  match tp.tile with
  | none => none
  | some r =>
    if tp.wait.isSome || !coreRuns s then none
    else
      let j := getJob s r.slot
      some { t := t, slot := r.slot, tile := r, job := j, mov := jobMov j, hdr := tileHdr (jobMov j) r.tile, tp := tp }

/-- The claim entry of a tile (R45). -/
def tileClaim (c : TileCtx) : Claim := (c.mov.claims[c.hdr.claim]?).getD {}

/-- Slip of the job's step, in core cycles (R51). -/
def ctxSlip (c : TileCtx) : Nat := c.job.run.slip

/-- The code offset that an instruction-fault event gives: that of the instruction in the code section. -/
def codeOffset (c : TileCtx) : Nat := c.hdr.codeOff + 16 * c.tp.pc

/-! ### Overruns (R48 to R54) -/

/-- The slip limit in core cycles (R39, R52). -/
def slipMax (m : Movement) : Nat := 64 * m.slipLimit

/-- The slip at which the tile's ceiling end is measured: that in force when it passed, else the present one (R51). -/
def overBase (c : TileCtx) : Nat := c.tile.overAt.getD (ctxSlip c)

/-- The moved ceiling end (R51). -/
def movedEnd (c : TileCtx) : Int := c.tile.ceilEnd + overBase c

/-- How far a cycle lies past the moved ceiling end of a tile. -/
def overBy (c : TileCtx) (cy : Nat) : Nat := ((cy : Int) - movedEnd c).toNat

/-- The cycle in which an overrun is handled as a fault: the moved ceiling end under the fault policy, the crossing of the
slip limit under the slip policy (R52, R53). -/
def haltCycle (c : TileCtx) : Int :=
  if c.mov.faultPolicy then movedEnd c else movedEnd c + ((slipMax c.mov - overBase c + 1 : Nat) : Int)

/-- A job faults through an overrun of a TP's tile, of a length (R53, R54). -/
def faultTile (t slot tile len slip : Nat) (s : State) : State :=
  faultJob slot (overrunEvent t tile len slip true
    (modTp t (fun tp => { tp with tile := tp.tile.map fun r => { r with overAt := none } }) s))

/-- The overrun of a tile that is handled as a fault (R53, R54). -/
def faultOverrun (c : TileCtx) (s : State) : State :=
  faultTile c.t c.slot c.tile.tile (haltCycle c - movedEnd c).toNat (ctxSlip c) s

/-- Slip raised to cover an overrun of a given length that was measured from slip `base` (R51). -/
def raiseSlip (slot base len : Nat) (s : State) : State :=
  modRun slot (fun r => { r with slip := max r.slip (base + alignUp len 64) }) s

/-! ### What an instruction accepts (R83, R84, R95) -/

/-- What an opcode accepts and how it issues. `mod` is the Mod field. -/
structure OpSpec where
  /-- Mod values that are not reserved. -/
  modOk  : Nat → Bool
  /-- Types permitted, by Mod. -/
  tyOk   : Nat → Nat → Bool
  /-- Operands of Dst, SrcA, SrcB and SrcC, by Mod. -/
  kinds  : Nat → Kind × Kind × Kind × Kind
  /-- Lanes, lines, counts and lengths lie in their ranges (R95, reason 4). -/
  range  : State → TileCtx → TField → Bool := fun _ _ _ => true
  /-- Fails reason 5. -/
  bad5   : TileCtx → TField → Bool := fun _ _ => false
  /-- Fails reason 6. -/
  bad6   : State → TileCtx → TField → Bool := fun _ _ _ => false
  /-- Fails reason 7. -/
  bad7   : State → TileCtx → TField → Bool := fun _ _ _ => false
  /-- The global address, bytes and alignment of its memory access, if it makes one (R65). -/
  access : State → TileCtx → TField → Option (Nat × Nat × Nat) := fun _ _ _ => none
  /-- Debug addresses that it waits for beside its operands (R74, R81, R82). -/
  keys   : State → TileCtx → TField → List Nat := fun _ _ _ => []
  /-- Its Dst line is an accumulator that the MMA queue orders (R81). -/
  queued : Bool := false
  /-- It waits for queued MMAs that read these operand-buffer lines: first and count (R82). -/
  writesBuf : State → TileCtx → TField → Nat × Nat := fun _ _ _ => (0, 0)
  /-- 1 settles results, 2 settles results and Vat stores (R76). -/
  settle : Nat := 0
  /-- Issue cycles beside frame operands, as an arm or body counts them. -/
  cost   : State → TField → Nat := fun _ _ => 1

/-- Reserved Mod values outside a list. -/
def modsIn (l : List Nat) (m : Nat) : Bool := l.contains m

/-- Type 0 only (R84). -/
def tyNone (_ ty : Nat) : Bool := ty == 0

/-- Types 1 to 7 (R84). -/
def tyElems (_ ty : Nat) : Bool := decide (1 ≤ ty) && decide (ty ≤ 7)

/-- Types 0 to 8 (R84). -/
def tyBytes (_ ty : Nat) : Bool := decide (ty ≤ 8)

/-- Types 0 and 8 (R84). -/
def tyInt64 (_ ty : Nat) : Bool := ty == 0 || ty == 8

/-- The operand kinds of a spec for an instruction. -/
def specKinds (o : OpSpec) (f : TField) : List (Kind × BitVec 10) :=
  let k := o.kinds f.mod.toNat
  [(k.1, f.dst), (k.2.1, f.srcA), (k.2.2.1, f.srcB), (k.2.2.2, f.srcC)]

/-- Issue cycles of frame operands (R78). -/
def frameCycles (o : OpSpec) (f : TField) : Nat := sumNat ((specKinds o f).map fun x => frameCost x.1 x.2)

/-- The lowest of reasons 1 to 4 that an instruction fails, 0 for none (R95). -/
def staticReason (o : OpSpec) (s : State) (c : TileCtx) (f : TField) : Nat :=
  if !o.modOk f.mod.toNat then 1
  else if !o.tyOk f.mod.toNat f.ty.toNat then 2
  else if !bitAt c.hdr.mask f.thr.toNat then 3
  else if !((specKinds o f).all fun x => kindOk x.1 x.2) || !o.range s c f then 4
  else 0

/-- Reasons 5 to 7 (R95). -/
def laterReason (o : OpSpec) (s : State) (c : TileCtx) (f : TField) : Nat :=
  if o.bad5 c f then 5 else if o.bad6 s c f then 6 else if o.bad7 s c f then 7 else 0

/-! ### When an instruction issues (R73 to R76, R81, R82) -/

/-- The cycle from which the bytes at a debug address are usable, MMA results included. -/
def readyOf (t : Nat) (tp : Tp) (a : Nat) : Nat :=
  let m := if accLine t 0 ≤ a && a < accLine t 256 then tget 0 tp.accReady ((a - accLine t 0) / 4096) else 0
  max (tget 0 tp.ready a) m

/-- The cycle from which the bytes at a debug address are usable, MMA results left out. -/
def readyOwn (tp : Tp) (a : Nat) : Nat := tget 0 tp.ready a

/-- The debug addresses of an instruction's operands, Dst included (R74). -/
def operandKeys (o : OpSpec) (c : TileCtx) (f : TField) : List Nat :=
  ((specKinds o f).filter fun x => named x.1 x.2).map fun x => opAddr c.t f.thr.toNat x.2

/-- The cycle at which a fifth waiting MMA may issue (R81). -/
def mmaSlot (tp : Tp) (cy : Nat) : Nat :=
  let w := (tp.mmas.filter fun m => decide (cy < m.start)).map (·.start)
  if w.length < 4 then cy else (w[w.length - 4]?).getD cy

/-- Do two line ranges share a line. -/
def linesMeet (a n b m : Nat) : Bool := overlap a n b m

/-- The cycle from which no queued MMA reads operand-buffer lines (R82). -/
def bufFree (tp : Tp) (first n : Nat) : Nat :=
  maxNat ((tp.mmas.filter fun m => m.reads.any fun r => linesMeet r.1 r.2 first n).map (·.done))

/-- The cycle from which the instruction's own operands are usable, none while one is not timed (R74, R75). -/
def operandCycle (o : OpSpec) (c : TileCtx) (f : TField) : Option Nat :=
  let own := operandKeys o c f
  if own.any fun a => c.tp.arriving.contains a || c.tp.statuses.contains a then none
  else some (max c.tp.next (maxNat (own.map fun a => if o.queued then readyOwn c.tp a else readyOf c.t c.tp a)))

/-- The issue cycle, none while the instruction waits for a result that is not timed (R74 to R76). -/
def issueCycle (o : OpSpec) (s : State) (c : TileCtx) (f : TField) : Option Nat :=
  let tp := c.tp
  let own := operandKeys o c f
  let ks := o.keys s c f
  let blocked := (own ++ ks).any fun a => tp.arriving.contains a || tp.statuses.contains a
  let blocked := blocked || (decide (0 < o.settle) && !(tp.arriving.all fun a => decide (matrixBase c.t ≤ a) && decide (a < accLine c.t 0)))
  if blocked then none
  else
    let rd := fun a => if o.queued then readyOwn tp a else readyOf c.t tp a
    let c1 := max tp.next (max (maxNat (own.map rd)) (maxNat (ks.map rd)))
    let c2 := if o.settle = 0 then c1 else max c1 tp.settled
    let c3 := if o.settle = 2 then max c2 tp.vatDone else c2
    let w := o.writesBuf s c f
    let c4 := if w.2 = 0 then c3 else max c3 (bufFree tp w.1 w.2)
    some (if o.queued then mmaSlot tp c4 else c4)

/-- The cycle by which the innermost arm or body must have finished (R92 to R94). -/
def deadline (tp : Tp) : Option Nat := tp.nest.head?.map fun n => n.iterStart + n.bound

/-! ### Branches and loops (R92 to R94) -/

/-- A result of the instruction noted: usable from a cycle, and settled by then (R73, R76). -/
def noteReady (a cy : Nat) (tp : Tp) : Tp := { tp with ready := tput tp.ready a cy, settled := max tp.settled cy }

/-- The iteration index written to a loop's Dst (R93). -/
def writeIndex (t : Nat) (n : Nest) (s : State) : State :=
  match n.dst with
  | none => s
  | some a => modTp t (noteReady a n.iterStart) (putMemNat a 8 n.iter s)

/-- The loop-limit event of a searching loop that ran its iterations (R31, R93). -/
def loopLimit (t : Nat) (n : Nest) (s : State) : State :=
  if n.counted then s
  else post (0x20 + clusterOf t) 2 1 (pl1 t ++ pl1 n.thr ++ pl4 n.codeAt) s

/-- Arms and bodies that end at the code position of a TP are closed; the first number bounds the depth (R92, R93). -/
def closeNests (t : Nat) : Nat → State → State
  | 0, s => s
  | k + 1, s =>
    let tp := getTp s t
    match tp.nest with
    | [] => s
    | n :: rest =>
      if tp.pc != n.stop then s
      else if !n.isLoop then
        closeNests t k (modTp t (fun x => { x with nest := rest, pc := n.after, next := n.issue + 2 + n.bound }) s)
      else if n.iter + 1 < n.nMax && n.start != n.stop then
        let n' := { n with iter := n.iter + 1, iterStart := n.iterStart + n.bound + 1 }
        writeIndex t n' (modTp t (fun x => { x with nest := n' :: rest, pc := n.start, next := n'.iterStart }) s)
      else
        let n' := { n with iter := n.nMax - 1, iterStart := n.issue + 2 + (n.nMax - 1) * (n.bound + 1) }
        let s1 := if n.start = n.stop then writeIndex t n' s else s
        closeNests t k (loopLimit t n
          (modTp t (fun x => { x with nest := rest, pc := n.after, next := n.issue + 2 + n.nMax * (n.bound + 1) }) s1))

/-- The next instruction of a TP is at the next code position and issues from a cycle on. -/
def retire (t cy : Nat) (s : State) : State :=
  closeNests t 5 (modTp t (fun x => { x with pc := x.pc + 1, next := cy }) s)

/-- The furthest cycle at which the run stands. -/
def noteCycle (slot cy : Nat) (s : State) : State := modRun slot (fun r => { r with cycle := max r.cycle cy }) s

/-! ### Access checks (R65) -/

/-- The chip that an access goes to is another one (R59). -/
def isRemote (s : State) (g : Nat) : Bool := !isLocalChip s (globalChip g)

/-- The first failing check of an access of `n` bytes at global address `g`, 0 for none; reasons 6 and 7 come later, but
for a chip that is fenced (R65, R71, R370). -/
def accessReason (s : State) (j : Job) (g n align : Nat) : Nat :=
  let a := globalLocal g
  let remote := !isLocalChip s (globalChip g)
  match regionKind a n with
  | none => 1
  | some k =>
    if 2 ≤ k then 3
    else if a % align != 0 then 4
    else if remote && (!jobRing j || !partitioned s || !bitAt (tget 0 (getPart s (jobPart j)).routes (globalChip g)) 31) then 5
    else if !remote && !covered (jobRanges j) a n then 2
    else if remote && (isFenced s (globalChip g) || !inRing s (jobPart j) (globalChip g)) then 6
    else 0

/-! ### HBM claims (R32 to R35) -/

/-- The lines charged on each pseudo-channel for `n` bytes from an HBM address: at least 8 for a granule touched in part
(R32). The first number bounds the granules. -/
def chargeLines : Nat → Nat → Nat → List (Nat × Nat)
  | 0, _, _ => []
  | k + 1, a, n =>
    if n = 0 then []
    else
      let here := min n (2048 - a % 2048)
      (hbmChannel a, if here = 2048 then 32 else max 8 (cdiv here 64)) :: chargeLines k (a + here) (n - here)

/-- What a charge of lines leaves: lines served and deferred. -/
structure Served where
  use    : Table Nat
  useAll : Table Nat
  late   : List (Nat × Nat)

/-- One pseudo-channel's lines against the claim of the tile with serial number t (R34). -/
def serveOne (cl : Claim) (t : Nat) (v : Served) (x : Nat × Nat) : Served :=
  let u := tget 0 v.use (t * 64 + x.1)
  let ua := tget 0 v.useAll t
  let ok := min x.2 (min (cl.perPc - u) (cl.hbmLines - ua))
  { use := tput v.use (t * 64 + x.1) (u + ok), useAll := tput v.useAll t (ua + ok),
    late := if ok < x.2 then v.late ++ [(x.1, x.2 - ok)] else v.late }

/-- Deferred lines of a job, counted by their stack (HBM_DEFER) and reported (R34). -/
def deferLines (slot : Nat) (late : List (Nat × Nat)) (s : State) : State :=
  let cnt := fun lo => sumNat ((late.filter fun x => decide (lo ≤ x.1) && decide (x.1 < lo + 32)).map (·.2))
  late.foldl (fun s x => post (0x18 + x.1 / 32) 3 1 (pl1 x.1 ++ pl1 slot ++ pl4 x.2) s)
    { s with hbm := { s.hbm with
        stack0 := { s.hbm.stack0 with deferred := s.hbm.stack0.deferred + cnt 0 }
        stack1 := { s.hbm.stack1 with deferred := s.hbm.stack1.deferred + cnt 32 } } }

/-- A request whose deferred lines wait for later beats (R34). -/
def addDeferred (r : HbmReq) (s : State) : State :=
  deferLines r.slot r.late { s with hbm := { s.hbm with
    deferred := s.hbm.deferred ++ [{ r with id := s.hbm.nextReq }], nextReq := s.hbm.nextReq + 1 } }

/-- The cycle at which a request of `n` lines completes when its last deferred line is served in a beat that starts in cycle
`start` (R35). -/
def lateDone (s : State) (start n : Nat) : Nat := start + farCycles s + (n - 1)

/-- HBM lines of a tile charged against its claim; the lines that exceed it are deferred and reported (R34). `keys` are
the debug addresses that wait for the access, `least` the cycle at which it completes undeferred. -/
def chargeHbm (c : TileCtx) (a n least : Nat) (keys : List Nat) (store : Bool) (s : State) : State :=
  let xs := chargeLines (n / 2048 + 2) a n
  let v := xs.foldl (serveOne (tileClaim c) c.tile.id) { use := s.hbm.use, useAll := s.hbm.useAll, late := [] }
  let s1 := modRun c.slot (fun r => { r with hbmBytes := r.hbmBytes + 64 * sumNat (xs.map (·.2)) })
    { s with hbm := { s.hbm with use := v.use, useAll := v.useAll } }
  if v.late = [] then s1
  else modTp c.t (fun tp => { tp with arriving := keys ++ tp.arriving })
    (addDeferred { id := 0, tp := c.t, slot := c.slot, keys := keys, tile := c.tile.id, hdr := c.tile.tile, claim := c.hdr.claim
                   late := v.late, store := store, lines := cdiv n 64, least := least, due := none, chan := none } s1)

/-- Does an access exceed the tile's claim in this beat. -/
def defersHbm (c : TileCtx) (a n : Nat) (s : State) : Bool :=
  !((chargeLines (n / 2048 + 2) a n).foldl (serveOne (tileClaim c) c.tile.id)
    { use := s.hbm.use, useAll := s.hbm.useAll, late := [] }).late.isEmpty

/-- Latency of a local access of `n` lines that meets no conflict: own Vat, other Vat, HBM (R29, R85). -/
def memLatency (s : State) (t a n : Nat) : Nat :=
  if a < 0xC_0000_0000 then farCycles s + (n - 1)
  else if vatCluster a = clusterOf t then 12 + (n - 1)
  else 40 + (n - 1)

/-! ### Issue -/

/-- An instruction that fails stops its TP and faults its job: the instruction fault first, then the access fault, then an
overrun in the same cycle (R95, R96). -/
def failIssue (c : TileCtx) (f : TField) (r : Nat) (acc : Nat × Nat) (halts : Bool) (s : State) : State :=
  let s1 := if r = 0 then s else instrFaultEvent c.t f.thr.toNat (codeOffset c) r s
  let s2 := if acc.2 = 0 then s1 else accessFaultEvent c.t f.thr.toNat acc.1 acc.2 s1
  if halts then faultOverrun c s2 else faultJob c.slot s2

/-- An uncorrectable line that a thread access reads (R364). -/
def failEcc (c : TileCtx) (a n : Nat) (s : State) : State := faultJob c.slot (eccEvent 2 (badAddr s a n) 1 s)

/-- The TP issues past its code without TEND (R95, reason 5): there is no instruction, so no thread (R425). -/
def runOff (c : TileCtx) (s : State) : State :=
  if haltCycle c < c.tp.next then faultOverrun c s
  else
    let s1 := instrFaultEvent c.t 0xFF (codeOffset c) 5 (noteCycle c.slot c.tp.next s)
    if haltCycle c = c.tp.next then faultOverrun c s1 else faultJob c.slot s1

/-- A tile that goes past its moved ceiling end keeps the slip in force there (R51). -/
def passCeiling (c : TileCtx) (cy : Nat) (s : State) : State :=
  if decide (movedEnd c ≤ cy) && c.tile.overAt.isNone then
    modTp c.t (fun tp => { tp with tile := tp.tile.map fun x => { x with overAt := some (ctxSlip c) } }) s
  else s

/-- The instruction waits for a result that is not timed; its thread is noted (R75, R94). -/
def stall (t : Nat) (f : TField) (s : State) : State := modTp t (fun tp => { tp with stalled := some f.thr.toNat }) s

/-- The check of an instruction's memory access: its address and the reason that it fails, 0 for none. An access whose operands
are of no permitted class has no address. -/
def accessCheck (o : OpSpec) (s : State) (c : TileCtx) (f : TField) : Nat × Nat :=
  if (specKinds o f).all fun x => kindOk x.1 x.2 then
    match o.access s c f with
    | some (g, n, al) => (g, accessReason s c.job g n al)
    | none => (0, 0)
  else (0, 0)

/-- The cycle in which an instruction is ready to issue, and the state then: the lines of Vat accesses that are served before its
operands are read have been served (R63, R66, R74 to R76); none while it waits for a result that is not timed. -/
def readied (o : OpSpec) (c : TileCtx) (f : TField) (s : State) : Option (Nat × State) :=
  match operandCycle o c f with
  | none => none
  | some cy1 =>
    let s1 := serveTo (runBase s c.slot + cy1 + 5) s
    match issueCycle o s1 c f with
    | none => none
    | some cy => some (cy, serveTo (runBase s c.slot + cy + 5) s1)

/-- What happens at the issue of an instruction: the cycle, the reason of an instruction fault, and the address and reason of an
access fault, 0 for none. -/
structure IssueEvent where
  cycle  : Nat
  reason : Nat
  access : Nat × Nat

/-- What happens at the issue of an instruction that is ready in a cycle (R94 to R96): it issues, fails a check, or the innermost
arm or body runs out before it, or before it has finished. -/
def issueEvent (o : OpSpec) (c : TileCtx) (f : TField) (ready : Nat) (s : State) : IssueEvent :=
  let st := staticReason o s c f
  let r := if st = 0 then laterReason o s c f else st
  let acc := accessCheck o s c f
  let late := match deadline c.tp with
    | some d => decide (d < ready + o.cost s f + frameCycles o f)
    | none => false
  let stop := max c.tp.next ((deadline c.tp).getD ready)
  let cy := if late && (decide (stop ≤ ready) || (r == 0 && acc.2 == 0)) then stop else ready
  { cycle := cy
    reason := if cy < ready || (r == 0 && late && decide (stop ≤ cy)) then 8 else r
    access := if cy < ready then (0, 0) else acc }

/-- The opcode of the instruction word at a TP's code position is undefined (R83). -/
def opUndefined (c : TileCtx) : Bool :=
  match (tileCode c.mov c.hdr)[c.tp.pc]? with
  | some w => !opcodeDefined (wordOp w)
  | none => false

/-- The issue of the next instruction of a TP. `act` is its effect in its issue cycle, retirement included. A TBR or LOOP waits for the issue
cycles of its arm or body, not for the results of its last instruction (DESIGN CHOICE, log 87). -/
def issue (o : OpSpec) (t : Fin 128) (f : TField) (act : TileCtx → Nat → State → State) (s : State) : State :=
  match tileCtx s t.val with
  | none => s
  | some c =>
    if c.hdr.codeLen ≤ c.tp.pc then runOff c s
    else if opUndefined c then
      if haltCycle c < c.tp.next then faultOverrun c s
      else failIssue c f 1 (0, 0) (haltCycle c == c.tp.next) (noteCycle c.slot c.tp.next s)
    else
      match readied o c f s with
      | none => stall c.t f s
      | some (ready, s1) =>
        let e := issueEvent o c f ready s1
        if haltCycle c < e.cycle then faultOverrun c s1
        else if e.reason != 0 || e.access.2 != 0 || haltCycle c == e.cycle then
          failIssue c f e.reason e.access (haltCycle c == e.cycle) (noteCycle c.slot e.cycle s1)
        else
          act c e.cycle (modTp c.t (fun tp => { tp with stalled := none }) (noteCycle c.slot e.cycle (passCeiling c e.cycle s1)))

/-- The effect of an instruction that writes one result: the operand written, usable after its latency (R73). -/
def result (o : OpSpec) (f : TField) (lat : Nat) (v : TileCtx → State → Nat) (c : TileCtx) (cy : Nat) (s : State) : State :=
  retire c.t (cy + 1 + frameCycles o f)
    (modTp c.t (noteReady (opAddr c.t f.thr.toNat f.dst) (cy + lat)) (writeNum c.t f.thr.toNat f.dst (v c s) s))

end Sys2Proof.Machine
end

