-- ==== Sys2Proof/Machine/RingOps.lean ====
section
/-! DEFINITION. The shared operations of collectives (R26, R193 to R199): blocks, halves, data frames. The Arg of a data
frame is the model's own layout (log 12): [63] direction, 0 forward; [62:48] stage, 0 at the origin; [47:0] byte offset in
the half. -/

namespace Sys2Proof.Machine

/-- The ring as the configuration has it now. -/
def ringNow (s : State) : List Nat := [cfgVal s 0x0601, cfgVal s 0x0602, cfgVal s 0x0603, cfgVal s 0x0604]

/-- A partition's data plane takes the ring, the routes and the link roles as they are now (R12, R24). -/
def takeView (p : Nat) (s : State) : State :=
  modPart p (fun y => { y with view := ringNow s, routes := s.routes, roles := (upFrom 0 8).map fun n => (getLink s n).role }) s

/-- The link with a role, as a partition's data plane has it (R12, R24). -/
def partLink (s : State) (p role : Nat) : Option Nat := (getPart s p).roles.findIdx? fun r => r == role

/-- Tokens of a full block (R26). -/
def blockRows (m : Movement) (n : Nat) : Nat := cdiv m.stepBudget n

/-- First token of block b. -/
def blockStart (m : Movement) (n b : Nat) : Nat := b * blockRows m n

/-- Tokens of block b (R26). -/
def blockLen (m : Movement) (n b : Nat) : Nat := min (blockRows m n) (m.stepBudget - blockStart m n b)

/-- Rows of a half of block b: direction 0 forward, 1 backward (R195). -/
def halfRows (m : Movement) (n b dir : Nat) : Nat :=
  if dir = 0 then cdiv (blockLen m n b) 2 else blockLen m n b - cdiv (blockLen m n b) 2

/-- First row of a half within its block. -/
def halfFirst (m : Movement) (n b dir : Nat) : Nat := if dir = 0 then 0 else cdiv (blockLen m n b) 2

/-- HalfBytes (R195). -/
def halfBytes (m : Movement) (c : Coll) (n : Nat) : Nat := cdiv (blockRows m n) 2 * c.rowBytes

/-- Address of a half in an array of all rows. -/
def halfAddr (m : Movement) (c : Coll) (n b dir base : Nat) : Nat :=
  base + (blockStart m n b + halfFirst m n b dir) * c.rowBytes

/-- The Arg of a data frame (log 12). -/
def collArg (dir stage off : Nat) : Nat := dir * 2 ^ 63 + stage % 2 ^ 15 * 2 ^ 48 + off

/-- The chunks of a length: offset and bytes, at most 32 units each. -/
def chunks (n : Nat) : List (Nat × Nat) := (upFrom 0 (cdiv n 2048)).map fun i => (2048 * i, min 2048 (n - 2048 * i))

/-- One data frame queued on the ring link of its direction (R189, R196, R197). -/
def sendColl (p prog dir stage off : Nat) (data : List Byte) (s : State) : State :=
  match partLink s p (if dir = 0 then 1 else 2) with
  | some n => enqueue n { fr := mkFrame s 1 1 (viewAt s p (if dir = 0 then 2 else 3)) (collArg dir stage off) prog data } s
  | none => s

/-- A half sent from memory as data frames. -/
def sendHalf (p prog dir stage addr n : Nat) (s : State) : State :=
  (chunks n).foldl (fun s x => sendColl p prog dir stage x.1 (memRead s.mem (addr + x.1) x.2) s) s

/-- What a chip sends when its RDV starts a program (R196, R197). -/
def startColl (p prog : Nat) (m : Movement) (c : Coll) (s : State) : State :=
  let n := viewAt s p 0
  let j := viewAt s p 1
  let go := fun dir s =>
    let b := if c.kind = 0 then j else if dir = 0 then (j + n - 1) % n else (j + 1) % n
    sendHalf p prog dir 0 (halfAddr m c n b dir (if c.kind = 0 then c.dst else c.src)) (halfRows m n b dir * c.rowBytes) s
  if n = 0 then s else go 1 (go 0 s)

/-- The block that a chip receives at a stage in a direction (R196, R197). -/
def recvBlock (c : Coll) (n j dir stage : Nat) : Nat :=
  let back := (if c.kind = 0 then 1 else 2) + stage
  if dir = 0 then (j + 2 * n - back % n) % n else (j + back) % n

/-- Bytes that a chip receives in a direction in a whole program. -/
def expectBytes (m : Movement) (c : Coll) (n j dir : Nat) : Nat :=
  sumNat ((upFrom 0 (n - 1)).map fun i => halfRows m n (recvBlock c n j dir i) dir * c.rowBytes)

/-- FP32 words of a byte string. -/
def words32 (bs : List Byte) : List Nat := lanesOf 32 (bs.length / 4) (leNat bs)

/-- Two FP32 byte strings added element by element, the received one first (R197). -/
def addRows (recv own : List Byte) : List Byte :=
  leBytes recv.length (ofLanes 32 (List.zipWith f32Add (words32 recv) (words32 own)))

/-- Direction, stage and offset of a data frame (log 12). -/
def collPlace (f : Frame) : Nat × Nat × Nat := (bits f.arg.toNat 63 1, bits f.arg.toNat 48 15, bits f.arg.toNat 0 48)

/-- A received data frame goes on: as it came, or with this chip's partial added; the last chip of a chain writes the sum at
DstBase (R196, R197). -/
def passColl (j prog : Nat) (m : Movement) (c : Coll) (s : State) (f : Frame) : State :=
  let p := jobPart (getJob s j)
  let n := viewAt s p 0
  let (dir, stage, off) := collPlace f
  let b := recvBlock c n (viewAt s p 1) dir stage
  let last := n - 2 ≤ stage
  if c.kind = 0 then (if last then s else sendColl p prog dir (stage + 1) off f.payload s)
  else
    let src := halfAddr m c n b dir c.src + off
    let sum := addRows f.payload (memRead s.mem src f.payload.length)
    if last then storeMem (c.dst + halfFirst m n b dir * c.rowBytes + off) sum s
    else sendColl p prog dir (stage + 1) off sum (storeMem src sum s)

/-- A data frame's rows written where they are received, and counted (R196, R197). -/
def landColl (j prog : Nat) (m : Movement) (c : Coll) (f : Frame) (s : State) : State :=
  let p := jobPart (getJob s j)
  let n := viewAt s p 0
  let (dir, stage, off) := collPlace f
  let len := f.payload.length
  let land := if c.kind = 0 then halfAddr m c n (recvBlock c n (viewAt s p 1) dir stage) dir c.dst + off
    else c.recv + (2 * dir + stage % 2) * halfBytes m c n + off
  modRun j (fun r => { r with colls := tmod {} r.colls prog (fun x =>
    if dir = 0 then { x with recvF := x.recvF + len } else { x with recvB := x.recvB + len }) }) (storeMem land f.payload s)

/-- A data frame of an armed program: written, and passed on, once the chip's own RDV has sent its own half (R196, R197). -/
def takeColl (j prog : Nat) (m : Movement) (c : Coll) (f : Frame) (s : State) : State :=
  let s1 := landColl j prog m c f s
  if (tget {} (getJob s j).run.colls prog).running then passColl j prog m c s1 f
  else modRun j (fun r => { r with colls := tmod {} r.colls prog fun x => { x with held := x.held ++ [f] } }) s1

/-- A program starts: its own halves are sent, then what was taken before goes on (R196, R197). -/
def enterColl (j prog : Nat) (m : Movement) (c : Coll) (s : State) : State :=
  let held := (tget {} (getJob s j).run.colls prog).held
  held.foldl (passColl j prog m c) (startColl (jobPart (getJob s j)) prog m c
    { modRun j (fun r => { r with colls := tmod {} r.colls prog fun x => { x with held := [] } }) s with
      net.dropped := s.net.dropped.filter fun x => x != (1, prog) })

/-- Does a frame carry data of a program. -/
def carriesColl (prog : Nat) (f : Frame) : Bool := f.cls == 1 && f.kind == 1 && f.tag.toNat == prog

/-- Every frame that the chip sent for a program is acknowledged, and none was discarded with its link (R186, R199). -/
def collAcked (s : State) (prog : Nat) : Bool :=
  !s.net.dropped.contains (1, prog) && s.links.all fun x =>
    !(x.2.qS.any fun t => carriesColl prog t.fr) && !(x.2.unacked.any (carriesColl prog)) && !(x.2.replayQ.any (carriesColl prog))

/-- A program has received all that it is to receive (R199). -/
def collReceived (s : State) (j prog : Nat) : Bool :=
  let x := getJob s j
  let p := jobPart x
  let m := jobMov x
  let c := (m.colls[prog]?).getD {}
  let r := tget {} x.run.colls prog
  let n := viewAt s p 0
  let me := viewAt s p 1
  decide (expectBytes m c n me 0 ≤ r.recvF) && decide (expectBytes m c n me 1 ≤ r.recvB)

/-- A frame received by a command that may meet a bad route table: the table is read when the frame goes on (R189, R364). -/
def routed (l : Fin 8) (f : Frame) (kind : Nat) (d : State → State) (s : State) : State :=
  if linkUp s l.val && f.dst.toNat != chipId s then onTable 2 (receive l f kind d) s else receive l f kind d s

end Sys2Proof.Machine
end

