-- ==== Sys2Proof/Machine/Control.lean ====
section
/-! DEFINITION. NOP to SPEC: tile end, branches, loops, waits, barriers, rendezvous, special values (R76, R83, R87 to R89,
R92, R93). -/

namespace Sys2Proof.Machine

/-- No operands. -/
def noOps (_ : Nat) : Kind × Kind × Kind × Kind := (.unused, .unused, .unused, .unused)

/-- An opcode without operands, of Type 0 and Mod 0. -/
def plainSpec : OpSpec := { modOk := modsIn [0], tyOk := tyNone, kinds := noOps }

/-- NOP: nothing for one cycle (R83). -/
def execNop (t : Fin 128) (f : TField) (s : State) : Out :=
  run (issue plainSpec t f fun c cy s => retire c.t (cy + 1) s) s

/-- The tile ends: overrun and slip (R51, R54), engine time in interleaved mode (R240), the TP free (R49). -/
def endTile (c : TileCtx) (cy : Nat) (s : State) : State :=
  let e := cy + 1
  let len := overBy c e
  if !c.mov.faultPolicy && decide (haltCycle c ≤ e) then faultOverrun c s
  else
    let s1 := if len = 0 then s else
      let s' := raiseSlip c.slot (overBase c) len s
      overrunEvent c.t c.tile.tile len (getJob s' c.slot).run.slip false s'
    let s2 := if partitioned s then s1 else chargeEngine c.slot (64 * c.hdr.ceiling + len) s1
    noteCycle c.slot e (modTp c.t (fun tp => { tp with
      tile := none, pc := 0, nest := [], next := e, freeAt := runBase s c.slot + e }) s2)

/-- TEND: settles, then ends the tile (R76, R83). -/
def execTend (t : Fin 128) (f : TField) (s : State) : Out :=
  run (issue { plainSpec with settle := 2 } t f endTile) s

/-- The code position that an arm or body must not pass (R95, reason 5). -/
def codeLimit (c : TileCtx) : Nat :=
  match c.tp.nest with
  | n :: _ => n.stop
  | [] => c.hdr.codeLen

/-- A construct of `n` instructions after this one that nests too deep or passes its limit (R95, reason 5). -/
def nestBad (c : TileCtx) (n : Nat) : Bool := decide (4 ≤ c.tp.nest.length) || decide (codeLimit c < c.tp.pc + 1 + n)

/-- Then-arm, else-arm and ArmCost of TBR (R92). -/
def tbrArms (f : TField) : Nat × Nat × Nat := (bits f.imm.toNat 0 16, bits f.imm.toNat 16 16, bits f.imm.toNat 32 32)

/-- What TBR accepts. -/
def tbrSpec : OpSpec :=
  { modOk := modsIn [0], tyOk := tyNone, kinds := fun _ => (.unused, .sc, .unused, .unused), settle := 1
    bad5 := fun c f => nestBad c ((tbrArms f).1 + (tbrArms f).2.1)
    cost := fun _ f => 2 + (tbrArms f).2.2 }

/-- TBR: one arm runs, the cost is that of the worse arm (R92). -/
def execTbr (t : Fin 128) (f : TField) (s : State) : Out :=
  run (issue tbrSpec t f fun c cy s =>
    let (a, b, cost) := tbrArms f
    let pc := c.tp.pc
    let taken := readScalar s c.t f.thr.toNat f.srcA != 0
    let start := if taken then pc + 1 else pc + 1 + a
    let n : Nest := { isLoop := false, issue := cy, start := start, stop := if taken then pc + 1 + a else pc + 1 + a + b,
                      after := pc + 1 + a + b, bound := cost, nMax := 0, iter := 0, iterStart := cy + 2, counted := true,
                      dst := none, thr := f.thr.toNat, codeAt := codeOffset c }
    closeNests c.t 5 (modTp c.t (fun tp => { tp with nest := n :: tp.nest, pc := start, next := cy + 2 }) s)) s

/-- Body length, n_max and BodyCost of LOOP (R93). -/
def loopBody (f : TField) : Nat × Nat × Nat := (bits f.imm.toNat 0 16, bits f.imm.toNat 16 16, bits f.imm.toNat 32 32)

/-- What LOOP accepts. -/
def loopSpec : OpSpec :=
  { modOk := modsIn [0, 1], tyOk := tyNone, kinds := fun _ => (.scOpt, .unused, .unused, .unused), settle := 1
    range := fun _ _ f => (loopBody f).2.1 != 0
    bad5 := fun c f => nestBad c (loopBody f).1
    cost := fun _ f => 2 + (loopBody f).2.1 * ((loopBody f).2.2 + 1) }

/-- LOOP: the index is written before each iteration, and the cost is fixed (R93). -/
def execLoop (t : Fin 128) (f : TField) (s : State) : Out :=
  run (issue loopSpec t f fun c cy s =>
    let (len, nMax, cost) := loopBody f
    let pc := c.tp.pc
    let n : Nest := { isLoop := true, issue := cy, start := pc + 1, stop := pc + 1 + len, after := pc + 1 + len, bound := cost,
                      nMax := nMax, iter := 0, iterStart := cy + 2, counted := bitAt f.mod.toNat 0,
                      dst := if noOperand f.dst then none else some (opAddr c.t f.thr.toNat f.dst),
                      thr := f.thr.toNat, codeAt := codeOffset c }
    closeNests c.t 5 (writeIndex c.t n
      (modTp c.t (fun tp => { tp with nest := n :: tp.nest, pc := pc + 1, next := cy + 2 }) s))) s

/-- What BRK accepts: it lies inside a loop (R95, reason 5). -/
def brkSpec : OpSpec :=
  { modOk := modsIn [0], tyOk := tyNone, kinds := fun _ => (.unused, .sc, .unused, .unused), settle := 1
    bad5 := fun c _ => !(c.tp.nest.any fun n => n.isLoop) }

/-- The nests outside the innermost loop, and that loop. -/
def innerLoop : List Nest → Option (Nest × List Nest)
  | [] => none
  | n :: rest => if n.isLoop then some (n, rest) else innerLoop rest

/-- BRK: a non-zero condition ends the innermost loop, which keeps its cost (R93). -/
def execBrk (t : Fin 128) (f : TField) (s : State) : Out :=
  run (issue brkSpec t f fun c cy s =>
    if readScalar s c.t f.thr.toNat f.srcA = 0 then retire c.t (cy + 1) s
    else match innerLoop c.tp.nest with
      | none => s
      | some (n, rest) =>
        closeNests c.t 5 (modTp c.t (fun tp =>
          { tp with nest := rest, pc := n.after, next := n.issue + 2 + n.nMax * (n.bound + 1) }) s)) s

/-- The n of IDLE (R83). -/
def idleN (f : TField) : Nat := bits f.imm.toNat 0 16

/-- IDLE: nothing issues for n cycles (R83). -/
def execIdle (t : Fin 128) (f : TField) (s : State) : Out :=
  run (issue { plainSpec with range := fun _ _ f => idleN f != 0, cost := fun _ f => idleN f } t f
    fun c cy s => retire c.t (cy + idleN f) s) s

/-! ### Barriers and rendezvous -/

/-- A TP that waited goes on at a cycle; it fails reason 8 when its arm or body has run out by then (R94). -/
def resume (t thr cy : Nat) (s : State) : State :=
  let tp := getTp s t
  let s1 := modTp t (fun x => { x with wait := none }) s
  match tp.tile, deadline tp with
  | some r, some d =>
    if d < cy then
      let h := tileHdr (jobMov (getJob s r.slot)) r.tile
      faultJob r.slot (instrFaultEvent t thr (h.codeOff + 16 * tp.pc) 8 s1)
    else retire t cy s1
  | _, _ => retire t cy s1

/-- The TP mask of a CSYNC (R83): SrcA holds its low half, TPs 0 to 63 (DESIGN CHOICE, log 87). -/
def csyncMask (s : State) (t : Nat) (f : TField) : Nat :=
  readScalar s t f.thr.toNat f.srcA + 2 ^ 64 * readScalar s t f.thr.toNat f.srcB

/-- A CSYNC mask includes the issuer and only TPs of its partition (R87). -/
def csyncBad (s : State) (c : TileCtx) (f : TField) : Bool :=
  let m := csyncMask s c.t f
  !bitAt m c.t || !((maskBits 128 m).all fun x => bitAt (getPart s (jobPart c.job)).mask (clusterOf x))

/-- What CSYNC accepts. -/
def csyncSpec : OpSpec :=
  { modOk := modsIn [0], tyOk := tyNone, kinds := fun _ => (.unused, .sc, .sc, .unused), settle := 2, bad7 := csyncBad }

/-- The TPs of a job that wait in a CSYNC with an ID, with their masks and threads. -/
def csyncWaiters (s : State) (j id : Nat) : List (Nat × Nat × Nat) :=
  (upFrom 0 128).filterMap fun t => match (getTp s t).wait with
    | some (.csync i _ mask thr) => if i == id && tpRuns j (getTp s t) then some (t, mask, thr) else none
    | _ => none

/-- The cycles in which TPs of a mask have issued a CSYNC with an ID in the step of a job (R87). -/
def csyncIssues (s : State) (j id mask : Nat) : List (Nat × Nat) :=
  ((getJob s j).run.syncs.filter fun x => x.1 == id && bitAt mask x.2.1).map (·.2)

/-- A TP waits until every TP of its own mask has issued a CSYNC with its ID in the step, and goes on 4 cycles after the latest of
them (R87). -/
def csyncRelease (j id : Nat) (s : State) : State :=
  (csyncWaiters s j id).foldl (fun s w =>
    let xs := csyncIssues s j id w.2.1
    if (maskBits 128 w.2.1).all fun m => xs.any fun x => x.1 == m then resume w.1 w.2.2 (maxNat (xs.map (·.2)) + 4) s else s) s

/-- CSYNC: the crew barrier (R87). -/
def execCsync (t : Fin 128) (f : TField) (s : State) : Out :=
  run (issue csyncSpec t f fun c cy s =>
    let id := bits f.imm.toNat 0 16
    csyncRelease c.slot id (modTp c.t (fun tp => { tp with wait := some (.csync id cy (csyncMask s c.t f) f.thr.toNat) })
      (modRun c.slot (fun r => { r with syncs := r.syncs ++ [(id, c.t, cy)] }) s))) s

/-- What RDV accepts: its tile has a window (R95, reason 5). -/
def rdvSpec : OpSpec := { plainSpec with bad5 := fun c _ => c.hdr.rvWindow == 0 }

/-- RDV: the window is charged at once, and a charge that empties the ceiling counter is an overrun; the program starts and
the stream stalls (R48, R88, R196, R197). With a fenced neighbour, or after a fence in this run, it fails at once (R370). -/
def execRdv (t : Fin 128) (f : TField) (s : State) : Out :=
  run (issue rdvSpec t f fun c cy s =>
    let prog := bits f.imm.toNat 0 16
    let w := c.hdr.rvWindow
    let coll := (c.mov.colls[prog]?).getD {}
    let late := decide (movedEnd c ≤ ((cy + w * beatCycles s : Nat) : Int))
    let s1 := modTp c.t (fun tp => { tp with
      wait := some (.rdv prog s.clk.fleet cy f.thr.toNat)
      tile := tp.tile.map fun r => { r with
        ceilEnd := r.ceilEnd - ((w * beatCycles s : Nat) : Int)
        overAt := if late && r.overAt.isNone then some (ctxSlip c) else r.overAt } }) s
    let s2 := modRun c.slot (fun r => { r with colls := tmod {} r.colls prog (fun x =>
      { x with running := true, tp := c.t, from_ := s.clk.fleet, window := w }) }) s1
    if late && c.mov.faultPolicy then faultOverrun c s1
    else if s.ring.fenceFail || (neighbours s).any (isFenced s) then failColl c.slot prog s2
    else enterColl c.slot prog c.mov coll s2) s

/-- FFENCE: the far-load bound, whatever the wait (R67, R83). -/
def execFfence (t : Fin 128) (f : TField) (s : State) : Out :=
  run (issue { plainSpec with cost := fun s _ => farCycles s } t f fun c cy s => retire c.t (cy + farCycles s) s) s

/-- The special value that Mod selects (R89). A job that is not a ring job reads slice index 0 and ring size 1 on every chip (DESIGN CHOICE,
log 87). -/
def specValue (c : TileCtx) (cy : Nat) (f : TField) (s : State) : Nat :=
  let p := jobPart c.job
  match f.mod.toNat with
  | 0 => c.t
  | 1 => f.thr.toNat
  | 2 => chipId s
  | 3 => if c.mov.ringJob then viewAt s p 1 else 0
  | 4 => if c.mov.ringJob then viewAt s p 0 else 1
  | 5 => c.hdr.layer
  | 6 => cy - ctxSlip c
  | 7 => ctxSlip c
  | _ => jobStep s c.slot

/-- What SPEC accepts. -/
def specSpec : OpSpec :=
  { modOk := fun m => decide (m ≤ 8), tyOk := tyNone, kinds := fun _ => (.sc, .unused, .unused, .unused) }

/-- SPEC: a special value into a scalar (R89). -/
def execSpec (t : Fin 128) (f : TField) (s : State) : Out :=
  run (issue specSpec t f fun c cy s => result specSpec f 1 (fun c s => specValue c cy f s) c cy s) s

end Sys2Proof.Machine
end

