-- ==== Sys2Proof/Machine/Lanes.lean ====
section
/-! DEFINITION. The lane functions of the vector and scalar instructions (R83, R86) and of the matrix engine (R81, R85). -/

namespace Sys2Proof.Machine

/-- The element type of a Type field, FP32 outside R79. -/
def tyOf (f : TField) : ElTy := (elTy f.ty.toNat).getD .fp32

/-- An integer lane modulo its width (R86). -/
def intLane (t : ElTy) (v : Int) : Nat := wrapInt (elBits t) v

/-- A lane as a signed integer. -/
def sgn (t : ElTy) (v : Nat) : Int := signed (elBits t) v

/-- a + b in an element type. -/
def lnAdd (t : ElTy) (a b : Nat) : Nat :=
  if elIsInt t then intLane t (sgn t a + sgn t b) else fpEncode t (fvAdd (fpDecode t a) (fpDecode t b))

/-- a − b in an element type. -/
def lnSub (t : ElTy) (a b : Nat) : Nat :=
  if elIsInt t then intLane t (sgn t a - sgn t b) else fpEncode t (fvAdd (fpDecode t a) (fvMinus (fpDecode t b)))

/-- a × b in an element type. -/
def lnMul (t : ElTy) (a b : Nat) : Nat :=
  if elIsInt t then intLane t (sgn t a * sgn t b) else fpEncode t (fvMul (fpDecode t a) (fpDecode t b))

/-- a × b + c with one rounding. -/
def lnFma (t : ElTy) (a b c : Nat) : Nat :=
  if elIsInt t then intLane t (sgn t a * sgn t b + sgn t c)
  else fpEncode t (fvAdd (fvMul (fpDecode t a) (fpDecode t b)) (fpDecode t c))

/-- The larger of two lanes (R86). -/
def lnMax (t : ElTy) (a b : Nat) : Nat := if elIsInt t then (if sgn t a < sgn t b then b else a) else fpMaxPat t a b

/-- The smaller of two lanes (R86). -/
def lnMin (t : ElTy) (a b : Nat) : Nat := if elIsInt t then (if sgn t b < sgn t a then b else a) else fpMinPat t a b

/-- |a|; the most negative integer stays itself (R86). -/
def lnAbs (t : ElTy) (a : Nat) : Nat :=
  if elIsInt t then intLane t (if sgn t a < 0 then -(sgn t a) else sgn t a) else fpEncode t (fvAbs (fpDecode t a))

/-- −a (R86). -/
def lnNeg (t : ElTy) (a : Nat) : Nat :=
  if elIsInt t then intLane t (-(sgn t a)) else fpEncode t (fvMinus (fpDecode t a))

/-- One lane of VALU: `sel` is the lane's bit of the select mask (R83). -/
def valuLane (t : ElTy) (mod : Nat) (sel : Bool) (a b c : Nat) : Nat :=
  match mod with
  | 0 => lnAdd t a b
  | 1 => lnSub t a b
  | 2 => lnMul t a b
  | 3 => lnMax t a b
  | 4 => lnMin t a b
  | 5 => a &&& b
  | 6 => a ||| b
  | 7 => a.xor b
  | 8 => lnFma t a b c
  | 9 => if sel then a else b
  | 10 => lnAbs t a
  | _ => lnNeg t a

/-- A function on lane numbers and three lines of lanes. -/
def zip3 (f : Nat → Nat → Nat → Nat → Nat) : Nat → List Nat → List Nat → List Nat → List Nat
  | i, a :: as_, b :: bs, c :: cs => f i a b c :: zip3 f (i + 1) as_ bs cs
  | _, _, _, _ => []

/-- VALU on 64 B lines (R83, R86). -/
def valuLine (t : ElTy) (mod mask a b c : Nat) : Nat :=
  lineOf t (zip3 (fun i x y z => valuLane t mod (bitAt mask i) x y z) 0 (lineLanes t a) (lineLanes t b) (lineLanes t c))

/-- VCVT on a 64 B line: equal widths lane by lane, narrowing packed low with zeros above, widening from the low lanes
(R86). -/
def vcvtLine (src dst : ElTy) (a : Nat) : Nat :=
  lineOf dst (((lineLanes src a).take (elLanes dst)).map (elCvt src dst))

/-- One lane of VACT: evaluated in FP32 and rounded once to the type; Mod 0 copies (R86). -/
def vactLane (t : ElTy) (mod v : Nat) : Nat :=
  let x := elCvt t .fp32 v
  match mod with
  | 0 => v
  | 1 => elCvt .fp32 t (f32Silu x)
  | 2 => elCvt .fp32 t (f32Gelu x)
  | 3 => fpRelu t v
  | 4 => elCvt .fp32 t (f32Sigmoid x)
  | _ => elCvt .fp32 t (f32Exp x)

/-- VACT on a 64 B line. -/
def vactLine (t : ElTy) (mod a : Nat) : Nat := lineOf t ((lineLanes t a).map (vactLane t mod))

/-- One lane of VCMP: NaN is false but under ne; −0 equals +0 (R86). -/
def vcmpLane (t : ElTy) (mod a b : Nat) : Bool :=
  let lt := if elIsInt t then decide (sgn t a < sgn t b) else fvLt (fpDecode t a) (fpDecode t b)
  let eq := if elIsInt t then a == b else fvEq (fpDecode t a) (fpDecode t b)
  match mod with
  | 0 => eq
  | 1 => !eq
  | 2 => lt
  | _ => lt || eq

/-- VCMP: the mask of the lanes (R83). -/
def vcmpLine (t : ElTy) (mod a b : Nat) : Nat := maskOf (List.zipWith (vcmpLane t mod) (lineLanes t a) (lineLanes t b))

/-- VPERM: lane i is the lane of `a` that lane i of `b` names, modulo the lane count (R83). -/
def vpermLine (t : ElTy) (a b : Nat) : Nat :=
  lineOf t ((lineLanes t b).map fun i => ((lineLanes t a)[i % elLanes t]?).getD 0)

/-! ### Reductions (R86) -/

/-- Pairs of neighbours combined. -/
def pairUp (f : Nat → Nat → Nat) : List Nat → List Nat
  | a :: b :: t => f a b :: pairUp f t
  | l => l

/-- A pairwise tree; the first number bounds the levels. -/
def treeUp (f : Nat → Nat → Nat) : Nat → List Nat → Nat
  | 0, l => l.headD 0
  | k + 1, l => treeUp f k (pairUp f l)

/-- The sum of the lanes: FP32, or INT32 for integers, as a pairwise tree (R86). -/
def vredSum (t : ElTy) (a : Nat) : Nat :=
  if elIsInt t then treeUp (fun x y => (x + y) % 2 ^ 32) 6 ((lineLanes t a).map fun v => wrapInt 32 (sgn t v))
  else treeUp f32Add 6 ((lineLanes t a).map (elCvt t .fp32))

/-- The largest or smallest lane, NaN lanes passed over (R86). -/
def vredPick (t : ElTy) (f : Nat → Nat → Nat) (a : Nat) : Nat :=
  match lineLanes t a with
  | [] => 0
  | x :: xs => xs.foldl f (f x x)

/-- The lowest index at which `better` finds no rival: NaN counts as minus or plus infinity (R86). -/
def argPick (better : Nat → Nat → Bool) : Nat → Nat → Nat → List Nat → Nat
  | best, _, _, [] => best
  | best, v, i, x :: xs => if better x v then argPick better i x (i + 1) xs else argPick better best v (i + 1) xs

/-- Is lane x greater than lane y, NaN as minus infinity; −0 and +0 are equal here, as in VCMP (DESIGN CHOICE, log 87). -/
def argGt (t : ElTy) (x y : Nat) : Bool :=
  if elIsInt t then decide (sgn t y < sgn t x)
  else
    let u := fpDecode t x
    let v := fpDecode t y
    if fvIsNan u then false else if fvIsNan v then !fvEq u (.inf true) else fvLt v u

/-- Is lane x less than lane y, NaN as plus infinity; −0 and +0 are equal here (DESIGN CHOICE, log 87). -/
def argLt (t : ElTy) (x y : Nat) : Bool :=
  if elIsInt t then decide (sgn t x < sgn t y)
  else
    let u := fpDecode t x
    let v := fpDecode t y
    if fvIsNan u then false else if fvIsNan v then !fvEq u (.inf false) else fvLt u v

/-- VRED (R83, R86). -/
def vredLine (t : ElTy) (mod a : Nat) : Nat :=
  match mod with
  | 0 => vredSum t a
  | 1 => vredPick t (lnMax t) a
  | 2 => vredPick t (lnMin t) a
  | 3 => match lineLanes t a with
    | [] => 0
    | x :: xs => argPick (argGt t) 0 x 1 xs
  | _ => match lineLanes t a with
    | [] => 0
    | x :: xs => argPick (argLt t) 0 x 1 xs

/-- Running values of a prefix. -/
def scanUp (f : Nat → Nat → Nat) : Nat → List Nat → List Nat
  | v, [] => [v]
  | v, x :: xs => v :: scanUp f (f v x) xs

/-- VSCAN: a running value in FP32, or INT32 for integers, each output rounded once, a NaN canonical (R86). -/
def vscanLine (t : ElTy) (mod a : Nat) : Nat :=
  let w := if elIsInt t then ElTy.i32 else ElTy.fp32
  let g := if mod = 0 then lnAdd w else lnMax w
  match (lineLanes t a).map (elCvt t w) with
  | [] => 0
  | x :: xs => lineOf t ((scanUp g (if mod = 0 then x else g x x) xs).map fun v => elOfValue t (elValue w v))

/-! ### Scalars -/

/-- SALU on 64-bit values (R83). -/
def saluOp (mod a b : Nat) : Nat :=
  let sa := signed 64 a
  let sb := signed 64 b
  match mod % 16 with
  | 0 => wrapInt 64 (sa + sb)
  | 1 => wrapInt 64 (sa - sb)
  | 2 => wrapInt 64 (sa * sb)
  | 3 => a &&& b
  | 4 => a ||| b
  | 5 => a.xor b
  | 6 => if 64 ≤ b then 0 else (a <<< b) % 2 ^ 64
  | 7 => if 64 ≤ b then 0 else a >>> b
  | 8 => wrapInt 64 (sa / (2 ^ min b 64 : Nat))
  | 9 => if sb < sa then b else a
  | 10 => if sa < sb then b else a
  | 11 => b2n (a == b)
  | 12 => b2n (decide (sa < sb))
  | _ => b2n (decide (a < b))

/-! ### The matrix engine -/

/-- Σ over k with one rounding to FP32 for each addition, the products exact (R81). -/
def dotFp (ta tb : ElTy) : Nat → List Nat → List Nat → Nat
  | c, a :: as_, b :: bs =>
    dotFp ta tb (fpEncode .fp32 (fvAdd (f32 c) (fvMul (fpDecode ta a) (fpDecode tb b)))) as_ bs
  | c, _, _ => c

/-- INT8 products in INT32, wrapping (R81). -/
def dotInt : Nat → List Nat → List Nat → Nat
  | c, a :: as_, b :: bs => dotInt (wrapInt 32 (signed 32 c + signed 8 a * signed 8 b)) as_ bs
  | c, _, _ => c

/-- Elements of a 32×32 block in row-major order. -/
def blockElems (t : ElTy) (v : Nat) : List Nat := lanesOf (elBits t) 1024 v

/-- Row i of a 32×32 block. -/
def blockRow (xs : List Nat) (i : Nat) : List Nat := (xs.drop (32 * i)).take 32

/-- Column j of a 32×32 block. -/
def blockCol (xs : List Nat) (j : Nat) : List Nat := (upFrom 0 32).map fun k => (xs[32 * k + j]?).getD 0

/-- C + A × B for one 32×32×32 block (R81); the numbers hold the blocks row-major. -/
def mmaBlock (ta tb : ElTy) (a b c : Nat) : Nat :=
  let xs := blockElems ta a
  let ys := blockElems tb b
  let cols := (upFrom 0 32).map (blockCol ys)
  let cs := lanesOf 32 1024 c
  ofLanes 32 (((upFrom 0 32).map fun i =>
    List.zipWith (fun c0 col => if elIsInt ta then dotInt c0 (blockRow xs i) col else dotFp ta tb c0 (blockRow xs i) col)
      (blockRow cs i) cols).flatten)

/-- MST: accumulator values converted to the output type and packed (R84, R85). -/
def mstBytes (t : ElTy) (n : Nat) (acc : List Byte) : List Byte :=
  let src := if elIsInt t then ElTy.i32 else ElTy.fp32
  leBytes (16 * n * elSize t) (ofLanes (elBits t) ((lanesOf 32 (16 * n) (leNat acc)).map (elCvt src t)))

end Sys2Proof.Machine
end

