-- ==== Sys2Proof/Machine/Compute.lean ====
section
/-! DEFINITION. MOV to SALU: moves, vector and scalar arithmetic (R83, R84, R86), and MMA (R81). -/

namespace Sys2Proof.Machine

/-- Dst of a kind and one source of a kind. -/
def kinds2 (d a : Kind) (_ : Nat) : Kind × Kind × Kind × Kind := (d, a, .unused, .unused)

/-- The number in SrcA. -/
def valA (c : TileCtx) (f : TField) (s : State) : Nat := readNum s c.t f.thr.toNat f.srcA

/-- The number in SrcB. -/
def valB (c : TileCtx) (f : TField) (s : State) : Nat := readNum s c.t f.thr.toNat f.srcB

/-- The number in SrcC. -/
def valC (c : TileCtx) (f : TField) (s : State) : Nat := readNum s c.t f.thr.toNat f.srcC

/-- What MOV accepts: two operands of equal size. -/
def movSpec : OpSpec :=
  { modOk := modsIn [0], tyOk := tyBytes, kinds := kinds2 .data .data
    range := fun _ _ f => opSize f.dst == opSize f.srcA }

/-- MOV: copies (R83). -/
def execMov (t : Fin 128) (f : TField) (s : State) : Out :=
  run (issue movSpec t f (result movSpec f (if opClass f.dst == 0 && opClass f.srcA == 0 then 1 else 5)
    fun c s => valA c f s)) s

/-- What VBC accepts. -/
def vbcSpec : OpSpec := { modOk := modsIn [0], tyOk := tyElems, kinds := kinds2 .wide .sc }

/-- VBC: the low element in every lane (R83). -/
def execVbc (t : Fin 128) (f : TField) (s : State) : Out :=
  run (issue vbcSpec t f (result vbcSpec f 5 fun c s =>
    lineOf (tyOf f) (List.replicate (elLanes (tyOf f)) (valA c f s)))) s

/-- The lane that VINS and VEXT name. -/
def laneOf (f : TField) : Nat := bits f.imm.toNat 0 6

/-- The lane lies below the lane count (R95, reason 4). -/
def laneOk (_ : State) (_ : TileCtx) (f : TField) : Bool := decide (laneOf f < elLanes (tyOf f))

/-- What VINS accepts. -/
def vinsSpec : OpSpec := { modOk := modsIn [0], tyOk := tyElems, kinds := kinds2 .wide .sc, range := laneOk }

/-- VINS: one element of Dst replaced (R83). -/
def execVins (t : Fin 128) (f : TField) (s : State) : Out :=
  run (issue vinsSpec t f (result vinsSpec f 5 fun c s =>
    lineOf (tyOf f) ((lineLanes (tyOf f) (readNum s c.t f.thr.toNat f.dst)).set (laneOf f) (valA c f s)))) s

/-- What VEXT accepts. -/
def vextSpec : OpSpec := { modOk := modsIn [0], tyOk := tyElems, kinds := kinds2 .sc .wide, range := laneOk }

/-- VEXT: one element, zero-extended (R83). -/
def execVext (t : Fin 128) (f : TField) (s : State) : Out :=
  run (issue vextSpec t f (result vextSpec f 5 fun c s =>
    bits (valA c f s) (elBits (tyOf f) * laneOf f) (elBits (tyOf f)))) s

/-- What MOVI accepts. -/
def moviSpec : OpSpec := { modOk := modsIn [0], tyOk := tyInt64, kinds := kinds2 .sc .unused }

/-- MOVI: s[Dst] = Imm (R83). -/
def execMovi (t : Fin 128) (f : TField) (s : State) : Out :=
  run (issue moviSpec t f (result moviSpec f 1 fun _ _ => f.imm.toNat)) s

/-- Operands of VALU by Mod (R83). -/
def valuKinds (m : Nat) : Kind × Kind × Kind × Kind :=
  if m = 8 then (.wide, .wide, .wide, .wide)
  else if m = 9 then (.wide, .wide, .wide, .sc)
  else if 10 ≤ m then (.wide, .wide, .unused, .unused)
  else (.wide, .wide, .wide, .unused)

/-- What VALU accepts. -/
def valuSpec : OpSpec := { modOk := fun m => decide (m ≤ 11), tyOk := tyElems, kinds := valuKinds }

/-- VALU: lane-wise arithmetic and logic (R83, R86). -/
def execValu (t : Fin 128) (f : TField) (s : State) : Out :=
  run (issue valuSpec t f (result valuSpec f 5 fun c s =>
    valuLine (tyOf f) f.mod.toNat (valC c f s) (valA c f s) (valB c f s) (valC c f s))) s

/-- What VCVT accepts (R84). -/
def vcvtSpec : OpSpec :=
  { modOk := fun m => decide (m < 16), tyOk := fun m ty => tyElems m ty && tyElems 0 m, kinds := kinds2 .wide .wide }

/-- VCVT: lanes converted from the Type in Mod (R86). -/
def execVcvt (t : Fin 128) (f : TField) (s : State) : Out :=
  run (issue vcvtSpec t f (result vcvtSpec f 5 fun c s =>
    vcvtLine ((elTy f.mod.toNat).getD .fp32) (tyOf f) (valA c f s))) s

/-- What VACT accepts (R84). -/
def vactSpec : OpSpec :=
  { modOk := fun m => decide (m ≤ 5), tyOk := fun m ty => if m = 0 then tyElems m ty else decide (3 ≤ ty) && decide (ty ≤ 5)
    kinds := kinds2 .wide .wide }

/-- VACT: lane-wise activation (R86). -/
def execVact (t : Fin 128) (f : TField) (s : State) : Out :=
  run (issue vactSpec t f (result vactSpec f 5 fun c s => vactLine (tyOf f) f.mod.toNat (valA c f s))) s

/-- What VCMP accepts. -/
def vcmpSpec : OpSpec := { modOk := fun m => decide (m ≤ 3), tyOk := tyElems, kinds := fun _ => (.sc, .wide, .wide, .unused) }

/-- VCMP: the mask of a lane-wise comparison (R83, R86). -/
def execVcmp (t : Fin 128) (f : TField) (s : State) : Out :=
  run (issue vcmpSpec t f (result vcmpSpec f 5 fun c s =>
    vcmpLine (tyOf f) f.mod.toNat (valA c f s) (valB c f s))) s

/-- What VPERM accepts. -/
def vpermSpec : OpSpec := { modOk := modsIn [0], tyOk := tyElems, kinds := fun _ => (.wide, .wide, .wide, .unused) }

/-- VPERM: lanes permuted by an index vector (R83). -/
def execVperm (t : Fin 128) (f : TField) (s : State) : Out :=
  run (issue vpermSpec t f (result vpermSpec f 5 fun c s => vpermLine (tyOf f) (valA c f s) (valB c f s))) s

/-- What VRED accepts. -/
def vredSpec : OpSpec := { modOk := fun m => decide (m ≤ 4), tyOk := tyElems, kinds := kinds2 .sc .wide }

/-- VRED: all lanes to one scalar (R86). -/
def execVred (t : Fin 128) (f : TField) (s : State) : Out :=
  run (issue vredSpec t f (result vredSpec f 7 fun c s => vredLine (tyOf f) f.mod.toNat (valA c f s))) s

/-- What VSCAN accepts (R84). -/
def vscanSpec : OpSpec :=
  { modOk := fun m => decide (m ≤ 1), tyOk := fun _ ty => [3, 4, 5, 7].contains ty, kinds := kinds2 .wide .wide }

/-- VSCAN: inclusive prefix over lanes (R86). -/
def execVscan (t : Fin 128) (f : TField) (s : State) : Out :=
  run (issue vscanSpec t f (result vscanSpec f 9 fun c s => vscanLine (tyOf f) f.mod.toNat (valA c f s))) s

/-- What SALU accepts (R83). -/
def saluSpec : OpSpec :=
  { modOk := fun m => decide (m % 16 ≤ 13) && !bitAt m 4, tyOk := tyInt64
    kinds := fun m => (.sc, .sc, if bitAt m 5 then .unused else .sc, .unused) }

/-- SALU: a 64-bit integer operation (R83). -/
def execSalu (t : Fin 128) (f : TField) (s : State) : Out :=
  run (issue saluSpec t f (result saluSpec f (if f.mod.toNat % 16 = 2 then 3 else 1) fun c s =>
    saluOp f.mod.toNat (valA c f s) (if bitAt f.mod.toNat 5 then f.imm.toNat else valB c f s))) s

/-! ### MMA (R80, R81) -/

/-- First lines of A and B (R83). -/
def mmaFirst (f : TField) : Nat × Nat := (bits f.imm.toNat 0 9, bits f.imm.toNat 16 9)

/-- Type of B: E5M2 when Mod[1] is set (R83). -/
def mmaTyB (f : TField) : ElTy := if bitAt f.mod.toNat 1 then .e5m2 else tyOf f

/-- Lines of an operand block (R80). -/
def blockLines (t : ElTy) : Nat := 16 * elSize t

/-- Debug addresses of the buffer lines that an MMA reads and of its accumulator's lines. -/
def mmaKeys (_ : State) (c : TileCtx) (f : TField) : List Nat :=
  (upFrom (mmaFirst f).1 (blockLines (tyOf f))).map (bufferLine c.t) ++
    (upFrom (mmaFirst f).2 (blockLines (mmaTyB f))).map (bufferLine c.t) ++
    (upFrom (opIndex f.dst) 64).map (accLine c.t)

/-- What MMA accepts (R83, R84, R95). -/
def mmaSpec : OpSpec :=
  { modOk := fun m => decide (m ≤ 3)
    tyOk := fun m ty => [1, 2, 3, 4, 6].contains ty && (!bitAt m 1 || ty == 1)
    kinds := kinds2 .acc .unused
    range := fun _ _ f => decide ((mmaFirst f).1 + blockLines (tyOf f) ≤ 512) && decide ((mmaFirst f).2 + blockLines (mmaTyB f) ≤ 512)
    keys := mmaKeys, queued := true }

/-- MMA: one block queued on the engine; its sum is in the accumulator from its completion (R81). -/
def execMma (t : Fin 128) (f : TField) (s : State) : Out :=
  run (issue mmaSpec t f fun c cy s =>
    let k := opIndex f.dst
    let ta := tyOf f
    let tb := mmaTyB f
    let rd := fun l x => memNat s.mem (bufferLine c.t l) (64 * blockLines x)
    let acc := accLine c.t k
    let c0 := if bitAt f.mod.toNat 0 then 0 else memNat s.mem acc 4096
    let out := mmaBlock ta tb (rd (mmaFirst f).1 ta) (rd (mmaFirst f).2 tb) c0
    let start := max cy (maxNat (c.tp.mmas.map (·.done)))
    let stop := start + (if elSize ta = 1 then 32 else 64)
    let m : MmaRun := { start := start, done := stop, acc := k / 64,
                        reads := [((mmaFirst f).1, blockLines ta), ((mmaFirst f).2, blockLines tb)] }
    retire c.t (cy + 1) (modTp c.t (fun tp => { tp with
      mmas := (tp.mmas.filter fun x => decide (min cy (getPart s (jobPart c.job)).beatCy < x.done)) ++ [m]
      accReady := tput tp.accReady (k / 64) stop, settled := max tp.settled stop }) (putMemNat acc 4096 out s))) s

end Sys2Proof.Machine
end

