-- ==== Sys2Proof/Machine/Layout.lean ====
section
/-! DEFINITION. Layout descriptors (R97 to R99, R426): addresses of elements, byte ranges, validity, and the tests that a
layout lies in Vat or meets a byte range. -/

namespace Sys2Proof.Machine

/-- A layout descriptor as read from its 64 B (R97): dimensions below Rank, innermost first. -/
structure Lay where
  base  : Nat
  type  : Nat
  rank  : Nat
  scale : Nat
  bitsW : Nat
  lo    : Nat
  hi    : Nat
  resv  : Nat
  dims  : List (Nat × Int)
  deriving DecidableEq, Repr

/-- The fields of a descriptor (R97). -/
def parseLay (v : Nat) : Lay :=
  { base := bits v 0 48, type := bits v 48 4, rank := bits v 52 3, scale := bits v 64 48, bitsW := bits v 112 3,
    lo := bits v 115 5, hi := bits v 120 5, resv := bits v 55 9 + bits v 125 3
    dims := (upFrom 0 (min 6 (bits v 52 3))).map fun d => (bits v (64 * d + 168) 24, signed 40 (bits v (64 * d + 128) 40)) }

/-- A layout descriptor in memory. -/
def readLay (s : State) (a : Nat) : Lay := parseLay (memNat s.mem a 64)

/-- An MX type: MXFP4, MXFP8 E4M3, MXFP8 E5M2 (R97). -/
def mxType (t : Nat) : Bool := decide (10 ≤ t) && decide (t ≤ 12)

/-- A defined Type of a layout (R97). -/
def layTypeOk (t : Nat) : Bool := (decide (1 ≤ t) && decide (t ≤ 7)) || mxType t

/-- Element size in bytes; the two MXFP4 elements of a byte count as one byte each here. -/
def laySize (t : Nat) : Nat :=
  match elTy t with
  | some e => elSize e
  | none => 1

/-- The extent of dimension d: 1 at and above Rank (R97). -/
def layExt (l : Lay) (d : Nat) : Nat := ((l.dims[d]?).map (·.1)).getD 1

/-- The stride of dimension d. -/
def layStr (l : Lay) (d : Nat) : Int := ((l.dims[d]?).map (·.2)).getD 0

/-- The element offset of an index (R98). -/
def layElem : List (Nat × Int) → List Nat → Int
  | (_, s) :: ds, i :: is => i * s + layElem ds is
  | _, _ => 0

/-- The byte offset of an element offset (R98). -/
def layByte (t : Nat) (e : Int) : Int := if t = 10 then e / 2 else e * laySize t

/-- The byte offset with the swizzle (R98). -/
def laySwz (l : Lay) (o : Int) : Int :=
  if l.bitsW = 0 then o
  else ((o.toNat.xor (bits o.toNat l.hi l.bitsW <<< l.lo) : Nat) : Int)

/-- The address of the element at an element offset (R98). -/
def layAt (l : Lay) (e : Int) : Nat := ((l.base : Int) + laySwz l (layByte l.type e)).toNat

/-- The address of the element at an index, dimension 0 first (R98). -/
def layAddr (l : Lay) (i : List Nat) : Nat := layAt l (layElem l.dims i)

/-- The address of the scale of an element offset (R98). -/
def layScale (l : Lay) (e : Int) : Nat := ((l.scale : Int) + e / 32).toNat

/-- Least and greatest element offset that dimensions add. -/
def elemSpan : List (Nat × Int) → Int × Int
  | [] => (0, 0)
  | (x, s) :: ds =>
    let (a, b) := elemSpan ds
    let far := ((x : Int) - 1) * s
    (a + min 0 far, b + max 0 far)

/-- First byte and end of the elements of a box, widened to whole swizzle blocks (R107). -/
def boxBytes (l : Lay) (ds : List (Nat × Int)) (e : Int) : Int × Int :=
  let (a, b) := elemSpan ds
  let lo := layByte l.type (e + a)
  let hi := layByte l.type (e + b) + laySize l.type
  if l.bitsW = 0 then (l.base + lo, l.base + hi)
  else
    let blk : Int := (2 ^ (l.hi + l.bitsW) : Nat)
    (l.base + lo / blk * blk, l.base + (hi + blk - 1) / blk * blk)

/-- The byte range of a layout: address, below 0 modulo 2^48, and length (R107). -/
def layRange (l : Lay) : Nat × Nat :=
  let (a, b) := boxBytes l l.dims 0
  ((a % 2 ^ 48).toNat, (b - a).toNat)

/-- The byte range of the scale array of an MX layout: address and length. -/
def scaleRange (l : Lay) : Nat × Nat :=
  let (a, b) := elemSpan l.dims
  (layScale l a, layScale l b + 1 - layScale l a)

/-- Validity of a layout (R97, R99). -/
def layValid (l : Lay) : Bool :=
  layTypeOk l.type && decide (1 ≤ l.rank) && decide (l.rank ≤ 6) && l.resv == 0 && (l.dims.all fun d => d.1 != 0) &&
  (if mxType l.type then
    l.base % 16 == 0 && layStr l 0 == 1 && layExt l 0 % 32 == 0 && l.bitsW == 0 &&
      (l.dims.drop 1).all fun d => decide (0 ≤ d.2) && d.2 % 32 == 0
   else l.scale == 0 && l.base % laySize l.type == 0) &&
  (l.bitsW == 0 ||
    ((l.dims.all fun d => decide (0 ≤ d.2)) && decide (laySize l.type ≤ 2 ^ l.lo) && decide (l.lo + l.bitsW ≤ l.hi) &&
      l.base % 2 ^ (l.hi + l.bitsW) == 0))

/-- Does every element of a box satisfy a test of byte ranges that passes to parts: the whole box at once, or each slice of
its outermost dimension. Dimensions come outermost first. -/
def boxAll (l : Lay) (test : Nat → Nat → Bool) : List (Nat × Int) → Int → Bool
  | [], e => test (layAt l e) (laySize l.type)
  | (x, st) :: ds, e =>
    let r := boxBytes l ((x, st) :: ds) e
    (decide (0 ≤ r.1) && test r.1.toNat (r.2 - r.1).toNat) || ((upFrom 0 x).all fun i => boxAll l test ds (e + i * st))

/-- A layout lies in Vat (R426). -/
def layInVat (l : Lay) : Bool := boxAll l inVat l.dims.reverse 0

/-- No element of a layout shares a byte with a range. -/
def layAvoids (l : Lay) (a n : Nat) : Bool := boxAll l (fun b m => !overlap a n b m) l.dims.reverse 0

/-- No element of a layout shares a byte with an element of another. -/
def layApart (l m : Lay) : Bool := boxAll l (fun b n => layAvoids m b n) l.dims.reverse 0

/-- Every index of the given extents in visiting order, dimension 0 fastest. -/
def allIndices : List Nat → List (List Nat)
  | [] => [[]]
  | x :: xs => (allIndices xs).flatMap fun is => (upFrom 0 x).map fun i => i :: is

/-- The pattern of an element (R98): the low nibble of a byte holds the even MXFP4 element. -/
def layRead (m : Table Byte) (l : Lay) (e : Int) : Nat :=
  if l.type = 10 then bits (memNat m (layAt l e) 1) (if e % 2 = 0 then 0 else 4) 4
  else memNat m (layAt l e) (laySize l.type)

/-- The FP32 element of a layout at an index. -/
def layF32 (m : Table Byte) (l : Lay) (i : List Nat) : Nat := memNat m (layAddr l i) 4

end Sys2Proof.Machine
end

