-- ==== Sys2Proof/Machine/Selector.lean ====
section
/-! DEFINITION. What the Selector computes (R113 to R124, R128 to R132): sanitised scores, keys, selection, capacity, gate
weights, and the pair buffer. -/

namespace Sys2Proof.Machine

/-- An accepted assignment: token, expert, rank, spill flag, gate weight, ranking key. -/
structure Pair where
  t     : Nat
  e     : Nat
  rank  : Nat
  spill : Bool
  w     : Nat
  r     : Nat
  deriving DecidableEq, Repr

/-- Minus infinity in FP32. -/
def negInf : Nat := 0xFF800000

/-- A score as the Selector takes it, and whether it counts (R113). -/
def sanitise (z : Nat) : Nat × Bool :=
  match f32 z with
  | .nan => (negInf, true)
  | .inf false => (0x7F7FFFFF, true)
  | _ => (z, false)

/-- A bias as the Selector takes it, and whether it counts (R116). -/
def cleanBias (b : Nat) : Nat × Bool := if fvNonFinite (f32 b) then (0, true) else (b, false)

/-- The normalised scores of a token (R115). -/
def normalise (gating : Nat) (z : List Nat) : List Nat :=
  if gating = 1 then z.map f32Sigmoid
  else
    let m := z.foldl (fun a x => if f32Lt a x then x else a) negInf
    let x := z.map fun v => f32Exp (f32Sub v m)
    let sum := x.foldl f32Add 0
    x.map fun v => f32Div v sum

/-- Element i of a list of numbers, 0 outside it. -/
def nth (l : List Nat) (i : Nat) : Nat := (l[i]?).getD 0

/-- What is known of one token: eligible experts, normalised scores and keys. -/
structure TokSel where
  elig : List Nat
  n    : List Nat
  r    : List Nat
  deriving DecidableEq, Repr

/-- Token t of a list, one without eligible experts outside it. -/
def tokAt (toks : List TokSel) (t : Nat) : TokSel := (toks[t]?).getD { elig := [], n := [], r := [] }

/-- A token from its sanitised scores and the biases, none when BiasOn is clear (R115, R116). -/
def tokSel (gating : Nat) (bias : Option (List Nat)) (z : List Nat) : TokSel :=
  let elig := (upFrom 0 z.length).filter fun e => nth z e != negInf
  if elig.isEmpty then { elig := [], n := [], r := [] }
  else
    let n := normalise gating z
    let r := (upFrom 0 z.length).map fun e =>
      if nth z e = negInf then negInf
      else match bias with
        | some b => f32Add (nth n e) (nth b e)
        | none => nth n e
    { elig := elig, n := n, r := r }

/-- Experts by descending key, ties to the lower index (R116): the list comes in ascending index. -/
def byKey (r : List Nat) (es : List Nat) : List Nat := sortBy (fun a b => f32Lt (nth r b) (nth r a)) es

/-- The ranking list of a token (R118). -/
def rankList (x : TokSel) : List Nat := byKey x.r x.elig

/-- sel[t] in modes 0 and 1 (R119, R120). -/
def selOf (d : LayerDesc) (x : TokSel) : List Nat :=
  let l := rankList x
  if d.selMode = 0 then l.take d.k
  else
    let ok := l.filter fun e => !f32Lt (nth x.r e) d.threshold
    if ok.isEmpty then l.take 1 else ok.take d.threshMax

/-- The counters and the acceptances while capacity is resolved (R122). -/
structure CapSt where
  fill     : Table Nat := []
  wanted   : Table Nat := []
  accepted : Table Nat := []
  spilled  : Table Nat := []
  skipped  : Table Nat := []
  next     : Table Nat := []
  acc      : List (Nat × Nat × Nat × Bool) := []

/-- One more under a number. -/
def bump (t : Table Nat) (k : Nat) : Table Nat := tmod 0 t k (· + 1)

/-- accept(t, e, j, s) of R122. -/
def acceptPair (t e j : Nat) (sp : Bool) (c : CapSt) : CapSt :=
  { c with fill := bump c.fill e, accepted := bump c.accepted e, acc := c.acc ++ [(t, e, j, sp)] }

/-- The spill tries of R122: whether one was placed. -/
def spillTries (cap t j : Nat) (l : List Nat) : Nat → CapSt → CapSt × Bool
  | 0, c => (c, false)
  | k + 1, c =>
    match l[tget 0 c.next t]? with
    | none => (c, false)
    | some e2 =>
      let c1 := { c with next := bump c.next t }
      if tget 0 c1.fill e2 < cap then (acceptPair t e2 j true c1, true) else spillTries cap t j l k c1

/-- One assignment of rank j resolved (R122). -/
def resolveOne (d : LayerDesc) (j : Nat) (c : CapSt) (x : Nat × List Nat × List Nat) : CapSt :=
  match x.2.1[j]? with
  | none => c
  | some e =>
    let c1 := { c with wanted := bump c.wanted e }
    if tget 0 c1.fill e < d.capacity then acceptPair x.1 e j false c1
    else if bitAt d.overflow 0 then { c1 with skipped := bump c1.skipped e }
    else
      let (c2, placed) := spillTries d.capacity x.1 j x.2.2 (bits d.overflow 1 3) c1
      if placed then { c2 with spilled := bump c2.spilled e } else { c2 with skipped := bump c2.skipped e }

/-- Capacity in modes 0 and 1 (R122); `xs` holds each live token's index, sel and list. -/
def resolveCap (d : LayerDesc) (xs : List (Nat × List Nat × List Nat)) : CapSt :=
  let c0 : CapSt := { next := xs.map fun x => (x.1, x.2.1.length) }
  (upFrom 0 32).foldl (fun c j => xs.foldl (resolveOne d j) c) c0

/-- Expert choice (R121). -/
def expertChoice (d : LayerDesc) (toks : List TokSel) : CapSt :=
  let tok := tokAt toks
  let picks := (upFrom 0 d.experts).map fun e =>
    (sortBy (fun a b => f32Lt (nth (tok b).r e) (nth (tok a).r e))
      ((upFrom 0 toks.length).filter fun t => (tok t).elig.contains e)).take d.capacity
  let c0 : CapSt := { wanted := (upFrom 0 d.experts).map fun e => (e, ((picks[e]?).getD []).length) }
  (upFrom 0 toks.length).foldl (fun c t =>
    let mine := byKey (tok t).r ((upFrom 0 d.experts).filter fun e => ((picks[e]?).getD []).contains t)
    let kept := (mine.take d.threshMax).zipIdx
    let c1 := kept.foldl (fun c x => acceptPair t x.1 x.2 false c) c
    (mine.drop d.threshMax).foldl (fun c e => { c with skipped := bump c.skipped e }) c1) c0

/-- The gate weight of each accepted assignment of a token, in rank order (R117). -/
def gateWeights (d : LayerDesc) (x : TokSel) (acc : List (Nat × Nat × Nat × Bool)) : List Pair :=
  let q := acc.foldl (fun a y => f32Add a (nth x.n y.2.1)) 0
  acc.map fun y =>
    let n := nth x.n y.2.1
    let w :=
      if d.gating != 2 then f32Mul n d.gateScale
      else if q = 0 then f32Mul (f32Div 0x3F800000 (f32Nat acc.length)) d.gateScale
      else f32Mul (f32Div n q) d.gateScale
    { t := y.1, e := y.2.1, rank := y.2.2.1, spill := y.2.2.2, w := w, r := nth x.r y.2.1 }

/-- The pairs kept when more than `n` are accepted: by descending key, then lower token, then lower expert (R131). -/
def keepPairs (n : Nat) (ps : List Pair) : List Pair :=
  if ps.length ≤ n then ps
  else
    let lt := fun a b : Pair => f32Lt b.r a.r || (fvEq (f32 a.r) (f32 b.r) && (decide (a.t < b.t) || (a.t == b.t && decide (a.e < b.e))))
    let kept := (sortBy lt ps).take n
    ps.filter fun p => kept.any fun k => k.t == p.t && k.e == p.e

/-- What a SEL leaves: the pairs written and its counters (R122 to R124, R131); `nothing` counts live tokens with nothing accepted, a
shared row taken as accepted (R140), and `scores` the scores sanitised (R129). -/
structure SelOut where
  pairs   : List Pair
  stat    : SelStat
  nothing : Nat
  scores  : Nat
  empty   : Nat

/-- The Selector's work on the scores of the live tokens (R113 to R131): `z` holds each token's scores of the E experts. -/
def selRun (d : LayerDesc) (stepNo attempt : Nat) (bias : Option (List Nat)) (zRaw : List (List Nat)) : SelOut :=
  let live := zRaw.length
  let z := zRaw.map fun zs => zs.map fun v => (sanitise v).1
  let badZ := sumNat (zRaw.map fun zs => (zs.filter fun v => (sanitise v).2).length)
  let b := bias.map fun bs => bs.map fun v => (cleanBias v).1
  let badB := match bias with
    | some bs => if live = 0 then 0 else (bs.filter fun v => (cleanBias v).2).length
    | none => 0
  let toks := z.map (tokSel d.gating b)
  let tok := tokAt toks
  let c := if d.selMode = 2 then expertChoice d toks
    else resolveCap d ((upFrom 0 live).map fun t => (t, selOf d (tok t), rankList (tok t)))
  let accOf := fun t => c.acc.filter fun y => y.1 == t
  let ps := (upFrom 0 live).flatMap fun t => gateWeights d (tok t) (accOf t)
  let kept := keepPairs d.reserved ps
  let es := upFrom 0 d.experts
  let cnt := fun (f : Nat → Nat) => es.map f
  let dead := (upFrom 0 live).filter fun t => (tok t).elig.isEmpty
  { pairs := kept
    stat := { stepNo := stepNo, attempt := attempt
              wanted := cnt fun e => tget 0 c.wanted e, accepted := cnt fun e => tget 0 c.accepted e
              spilled := cnt fun e => tget 0 c.spilled e, skipped := cnt fun e => tget 0 c.skipped e
              dropped := cnt fun e => (ps.filter fun p => p.e == e).length - (kept.filter fun p => p.e == e).length
              live := live, dead := dead, accTotal := ps.length, dropTotal := ps.length - kept.length, bad := badZ + badB }
    nothing := ((upFrom 0 live).filter fun t => (accOf t).isEmpty && (d.shared == 0 || dead.contains t)).length
    scores := badZ
    empty := ((upFrom 0 live).filter fun t => !(kept.any fun p => p.t == t)).length }

/-- A slot tag (R136). -/
def slotTag (p : Pair) : Nat := 2 ^ 31 + b2n p.spill * 2 ^ 29 + p.e * 2 ^ 19 + p.rank * 2 ^ 14 + p.t

/-- The bytes of a pair buffer (R130): header and pairs. -/
def pairBuffer (layer stepNo attempt : Nat) (ps : List Pair) : List Byte :=
  leBytes 4 ps.length ++ leBytes 4 stepNo ++ leBytes 1 attempt ++ leBytes 1 layer ++ List.replicate 54 0 ++
    (ps.map fun p => leBytes 8 (p.w * 2 ^ 32 + slotTag p)).flatten

/-- Address of the biases that the Selector reads: those of the parameter block under the bias rule (R116, R257). -/
def biasAddr (s : State) (d : LayerDesc) : Nat :=
  if bitAt d.flags 1 && bits d.flags 2 2 == 0 then memNat s.mem (d.cultureBase + 0x68) 8 else d.biasBase

/-- BiasOn (R125). -/
def biasOn (d : LayerDesc) : Bool := bitAt d.flags 4

/-- SEL as it stands in memory: scores read through the score layout, biases from the array at `bias`. -/
def selFromMem (s : State) (d : LayerDesc) (bias stepNo attempt live : Nat) : SelOut :=
  let l := readLay s d.scoreLayout
  let z := (upFrom 0 live).map fun t => (upFrom 0 d.experts).map fun e => layF32 s.mem l [e, t]
  let b := if biasOn d then some ((upFrom 0 d.experts).map fun e => memNat s.mem (bias + 4 * e) 4) else none
  selRun d stepNo attempt b z

end Sys2Proof.Machine
end

