-- ==== Sys2Proof/Machine/Separator.lean ====
section
/-! DEFINITION. What the Separator, the Group Walker and the Churn compute (R133 to R164): sorted outputs, Balance Log
entries, grouped GEMMs, combines. -/

namespace Sys2Proof.Machine

/-- d_model of a layer (R125). -/
def dModel (d : LayerDesc) : Nat := 128 * d.dmUnits

/-- The layer descriptor of an index, one of Kind 0 outside the section. -/
def layerAt (m : Movement) (i : Nat) : LayerDesc := (m.layers[i]?).getD {}

/-- The separation header of a layer (R133). -/
def sepOf (m : Movement) (i : Nat) : Option SepHdr := m.seps.find? fun h => h.layer == i

/-- The combine descriptor of a layer (R150). -/
def combineOf (m : Movement) (i : Nat) : Option Combine := m.combines.find? fun c => c.layer == i

/-- The output regions of a separation header: address and bytes (R133). -/
def sepRegions (m : Movement) (d : LayerDesc) (h : SepHdr) : List (Nat × Nat) :=
  [(h.tagBase, 4 * d.reserved), (h.weightBase, 4 * d.reserved), (h.listBase, 4 * (d.reserved + alignUp d.capacity 32)),
    (h.expBase, 64 + 32 * d.experts), (h.tokBase, 2 * m.stepBudget)] ++
    (if d.shared = 0 then [] else [(h.shListBase, 4 * alignUp m.stepBudget 32), (h.shTagBase, 4 * m.stepBudget)])

/-- The pairs of a buffer (R130). -/
def bufferPairs (m : Table Byte) (d : LayerDesc) : List Nat :=
  (upFrom 0 (min (memNat m d.pairBase 4) d.reserved)).map fun i => memNat m (d.pairBase + 64 + 8 * i) 8

/-- The expert of a tag. -/
def tagExpert (t : Nat) : Nat := bits t 19 10

/-- The rank of a tag. -/
def tagRank (t : Nat) : Nat := bits t 14 5

/-- The token of a tag. -/
def tagToken (t : Nat) : Nat := bits t 0 14

/-- A list of 4 B values, filled up to a length. -/
def words (n fill : Nat) (xs : List Nat) : List Byte :=
  (xs.map (leBytes 4)).flatten ++ (List.replicate (n - xs.length) (leBytes 4 fill)).flatten

/-- What a DSP writes and reports. -/
structure SepOut where
  writes     : List (Nat × List Byte)
  digest     : List Byte
  written    : Nat
  empty      : Nat
  sharedRows : Nat
  counters   : List (List Nat)

/-- The Separator's work (R135 to R141). -/
def sepRun (mem : Table Byte) (m : Movement) (d : LayerDesc) (h : SepHdr) (x : SelStat) : SepOut :=
  let es := upFrom 0 d.experts
  let rows := es.map fun e => nth x.accepted e - nth x.dropped e
  let offs := es.map fun e => sumNat (rows.take e)
  let total := sumNat rows
  let slots := sortBy (fun a b => decide (tagExpert (a % 2 ^ 32) < tagExpert (b % 2 ^ 32))) (bufferPairs mem d)
  let tags := slots.map fun p => p % 2 ^ 32
  let weights := slots.map fun p => p / 2 ^ 32
  let live := x.live
  let count := fun t => (tags.filter fun g => tagToken g == t).length
  let alive := (upFrom 0 live).filter fun t => !x.dead.contains t
  let empty := ((upFrom 0 live).filter fun t => count t == 0).length
  let summary := leBytes 4 total ++ leBytes 4 x.accTotal ++ leBytes 4 x.dropTotal ++ leBytes 2 live ++
    leBytes 2 x.dead.length ++ leBytes 2 empty ++ leBytes 2 alive.length ++ List.replicate 44 0
  let recs := es.map fun e =>
    leBytes 4 (nth offs e) ++ leBytes 2 (nth rows e) ++ leBytes 2 (nth x.wanted e) ++ leBytes 2 (nth x.accepted e) ++
      leBytes 2 (nth x.spilled e) ++ leBytes 2 (nth x.skipped e) ++ leBytes 2 (nth x.dropped e) ++
      leBytes 8 (h.listBase + 4 * nth offs e) ++ leBytes 8 0
  let toks := (upFrom 0 m.stepBudget).map fun t =>
    if t < live then
      let dead := x.dead.contains t
      leBytes 2 (b2n dead * 2 ^ 15 + 2 ^ 14 + (if dead then 0 else d.shared * 2 ^ 10) + count t)
    else leBytes 2 0
  let listLen := d.reserved + alignUp d.capacity 32
  { writes := [(h.tagBase, words d.reserved 0 tags), (h.weightBase, words d.reserved 0 weights),
      (h.listBase, words listLen 0xFFFFFFFF (tags.map tagToken)), (h.expBase, summary ++ recs.flatten), (h.tokBase, toks.flatten)] ++
      (if d.shared = 0 then [] else
        [(h.shListBase, words (alignUp m.stepBudget 32) 0xFFFFFFFF alive),
          (h.shTagBase, words m.stepBudget 0 (alive.map fun t => 2 ^ 31 + 2 ^ 30 + t))])
    digest := leBytes 1 h.layer ++ summary.take 0x14 ++ (recs.map fun r => r.take 16).flatten ++
      (tags.map (leBytes 4)).flatten ++ (weights.map (leBytes 4)).flatten ++ (toks.take live).flatten
    written := total
    empty := empty
    sharedRows := alive.length
    counters := es.map fun e => [nth x.wanted e, nth x.accepted e, nth x.spilled e, nth x.skipped e, nth x.dropped e, nth rows e] }

/-- A Balance Log entry (R143). -/
def balanceEntry (seq stamp stepNo layer part attempt : Nat) (d : LayerDesc) (x : SelStat) (o : SepOut) : List Byte :=
  let lines := 1 + cdiv d.experts 4
  let head := leBytes 8 seq ++ leBytes 8 stamp ++ leBytes 4 stepNo ++ leBytes 1 layer ++ leBytes 1 part ++ leBytes 1 attempt ++
    leBytes 1 d.selMode ++ leBytes 2 d.experts ++ leBytes 2 lines ++ leBytes 2 x.live ++ leBytes 2 x.dead.length ++
    leBytes 2 o.empty ++ leBytes 2 o.sharedRows ++ leBytes 4 x.accTotal ++ leBytes 4 x.dropTotal ++ leBytes 4 x.bad ++
    List.replicate 12 0
  let sets := (o.counters.map fun c => (c.map (leBytes 2)).flatten ++ leBytes 4 0).flatten
  let body := sets ++ List.replicate (64 * (lines - 1) - sets.length) 0
  head ++ leBytes 4 (crc32c (head ++ leBytes 4 0 ++ body)) ++ body

/-- A Balance Log entry joins the queue, or is lost (R144); a line count of 0 disables the log. -/
def queueBalance (entry : List Byte) (s : State) : State :=
  let n := cfgVal s 0x0805
  if n = 0 then s
  else if 2 ≤ s.blk.blogQ.length || n < entry.length / 64 then
    { s with blk := { s.blk with blogSeq := s.blk.blogSeq + 1, blogLost := s.blk.blogLost + 1 } }
  else { s with blk := { s.blk with blogSeq := s.blk.blogSeq + 1, blogQ := s.blk.blogQ ++ [entry] } }

/-! ### The Group Walker (R146 to R148) -/

/-- Row i of a row-major array of `n` columns in a type. -/
def arrRow (mem : Table Byte) (t : ElTy) (base n i : Nat) : List Nat :=
  lanesOf (elBits t) n (memNat mem (base + i * n * elSize t) (n * elSize t))

/-- The columns of a row-major array of `k` rows and `n` columns. -/
def arrCols (mem : Table Byte) (t : ElTy) (base k n : Nat) : List (List Nat) :=
  let rows := (upFrom 0 k).map (arrRow mem t base n)
  (upFrom 0 n).map fun j => rows.map fun r => nth r j

/-- One accumulation chain from +0 (R147). -/
def chain (t : ElTy) (row col : List Nat) : Nat := if elIsInt t then dotInt 0 row col else dotFp t t 0 row col

/-- Rows stored packed in a type. -/
def packRows (t : ElTy) (rows : List (List Nat)) : List Byte :=
  (rows.map fun r => leBytes (r.length * elSize t) (ofLanes (elBits t) r)).flatten

/-- The type of a group entry. -/
def entryTy (g : GroupEntry) : ElTy := (elTy g.type).getD .fp32

/-- Used rows of an entry from the rows of its expert (R146). -/
def usedRows (g : GroupEntry) (r : Nat) : Nat := min g.rows (r - g.rowStart)

/-- The rows that an entry finds: Rows of its expert, or SharedRows (R146). -/
def entryRows (mem : Table Byte) (h : SepHdr) (g : GroupEntry) : Nat :=
  if g.shared then memNat mem (h.expBase + 0x12) 2 else memNat mem (h.expBase + 64 + 32 * g.expert + 4) 2

/-- Output columns of an entry (R146). -/
def outCols (g : GroupEntry) : Nat := if g.kind = 0 then 32 * g.nb else 32 * g.kb

/-- The stores of one entry with `u` used rows (R147, R148). -/
def walkEntry (mem : Table Byte) (g : GroupEntry) (u : Nat) : List (Nat × List Byte) :=
  let t := entryTy g
  let k := 32 * g.kb
  let n := 32 * g.nb
  let done := min g.rows (alignUp u 32)
  let acts := (upFrom 0 done).map (arrRow mem t g.act k)
  let w1 := arrCols mem t g.w1 k n
  let zero := fun (c i : Nat) (r : List Nat) => if i < u then r else List.replicate c 0
  let fill := fun (c : Nat) (rows : List (List Nat)) =>
    (rows.zipIdx.map fun x => zero c x.2 x.1) ++ List.replicate (g.rows - rows.length) (List.replicate c 0)
  if g.kind = 0 then
    [(g.out, packRows .fp32 (fill n (acts.map fun a => w1.map (chain t a))))]
  else
    let w2 := arrCols mem t g.w2 k n
    let w3 := arrCols mem t g.w3 n k
    let act := if g.kind = 1 then f32Silu else f32Gelu
    let mid := acts.map fun a => List.zipWith (fun c1 c2 => elCvt .fp32 t (f32Mul (act (chain t a c1)) (chain t a c2))) w1 w2
    [(g.mid, packRows t mid), (g.out, packRows .fp32 (fill k (mid.map fun a => w3.map (chain t a))))]

/-- Blocks of an entry (R148). -/
def entryBlocks (g : GroupEntry) : Nat := g.rows / 32 * g.kb * g.nb * (if g.kind = 0 then 1 else 3)

/-- The cost of an entry (R148). -/
def entryCost (g : GroupEntry) : Nat :=
  let n := (maskBits 16 g.tpMask).length
  let c := if elSize (entryTy g) = 1 then 32 else 64
  8 + cdiv (entryBlocks g) n * c + (if g.kind = 0 then 0 else 2 * cdiv (g.rows * 2 * g.nb) n + 5)

/-! ### The Churn (R150 to R164) -/

/-- One contribution to a token: its place in the ordered chain, its weight (none for a shared expert), where its row of
FP32 values lies, and its group table entry. -/
structure Contrib where
  t     : Nat
  key   : Nat
  w     : Option Nat
  addr  : Nat
  entry : Nat

/-- The entry of a layer that holds row r of an expert, with its index (R152). -/
def rowEntry (m : Movement) (layer : Nat) (shared : Bool) (e r : Nat) : Option (GroupEntry × Nat) :=
  m.entries.zipIdx.find? fun x => x.1.layer == layer && x.1.shared == shared && x.1.expert == e &&
    decide (x.1.rowStart ≤ r) && decide (r < x.1.rowStart + x.1.rows)

/-- A contribution at row r of an expert. -/
def contribAt (m : Movement) (d : LayerDesc) (layer t key : Nat) (w : Option Nat) (shared : Bool) (e r : Nat) : Option Contrib :=
  (rowEntry m layer shared e r).map fun x =>
    { t := t, key := key, w := w, addr := x.1.out + (r - x.1.rowStart) * 4 * dModel d, entry := x.2 }

/-- The tags of the slots below PairsWritten. -/
def slotTags (mem : Table Byte) (d : LayerDesc) (h : SepHdr) : List Nat :=
  (upFrom 0 (min (memNat mem h.expBase 4) d.reserved)).map fun i => memNat mem (h.tagBase + 4 * i) 4

/-- Is a slot one that R161 passes. -/
def slotOk (d : LayerDesc) (live tag : Nat) : Bool :=
  bitAt tag 31 && decide (tagToken tag < live) && decide (tagExpert tag < d.experts)

/-- The contributions of a layer (R152). -/
def contribs (mem : Table Byte) (m : Movement) (d : LayerDesc) (h : SepHdr) (layer live : Nat) : List Contrib :=
  let routed := (slotTags mem d h).zipIdx.filterMap fun x =>
    if slotOk d live x.1 then
      let e := tagExpert x.1
      let off := memNat mem (h.expBase + 64 + 32 * e) 4
      if x.2 < off then none
      else contribAt m d layer (tagToken x.1) (tagRank x.1) (some (memNat mem (h.weightBase + 4 * x.2) 4)) false e (x.2 - off)
    else none
  let sh := memNat mem (h.expBase + 0x12) 2
  let shared := (upFrom 0 d.shared).flatMap fun e => (upFrom 0 (min sh m.stepBudget)).filterMap fun p =>
    contribAt m d layer (memNat mem (h.shListBase + 4 * p) 4) (32 + e) none true e p
  routed ++ shared.filter fun c => decide (c.t < live)

/-- One term added: fma with a gate weight, a plain sum without one (R154). -/
def addTerm (w : Option Nat) (y acc : Nat) : Nat :=
  match w with
  | some g => f32Fma g y acc
  | none => f32Add acc y

/-- An element of the residual as FP32 (R153). -/
def residualAt (mem : Table Byte) (l : Lay) (c t : Nat) : Nat :=
  let a := layAddr l [c, t]
  if l.type = 3 then elCvt .bf16 .fp32 (memNat mem a 2) else memNat mem a 4

/-- Does a combine read a line of its residual: an element of a token of its block below Live (R153). -/
def residualReads (d : LayerDesc) (r : Lay) (first len live l : Nat) : Bool :=
  (upFrom first (min len (live - first))).any fun t =>
    !boxAll r (fun b n => !overlap b n (64 * l) 64) [(dModel d, layStr r 0)] ((t : Int) * layStr r 1)

/-- The elements of a combine's output, token by token (R154, R156); `order` ranks the entries in arrival mode. -/
def combineRows (mem : Table Byte) (m : Movement) (d : LayerDesc) (cs : List Contrib) (live first len : Nat)
    (res : Option Lay) (order : Option (Nat → Nat)) : List (List Nat) :=
  (upFrom 0 m.stepBudget).map fun t =>
    let mine := cs.filter fun c => c.t == t
    let own := decide (first ≤ t) && decide (t < first + len) && decide (t < live)
    let sorted := match order with
      | none => sortBy (fun a b : Contrib => decide (a.key < b.key)) mine
      | some f => sortBy (fun a b : Contrib => decide (f a.entry < f b.entry)) mine
    (upFrom 0 (dModel d)).map fun c =>
      let r := match res with
        | some l => if own then some (residualAt mem l c t) else none
        | none => none
      let y := fun x : Contrib => memNat mem (x.addr + 4 * c) 4
      match order with
      | none =>
        let acc := sorted.foldl (fun a x => addTerm x.w (y x) a) 0
        match r with
        | some v => if t < live then f32Add acc v else acc
        | none => acc
      | some _ => sorted.foldl (fun a x => f32Fma (x.w.getD 0x3F800000) (y x) a) (r.getD 0)

/-- Tokens in error with expected and found counts, and failing slots (R161). -/
def conserve (mem : Table Byte) (m : Movement) (d : LayerDesc) (h : SepHdr) (cs : List Contrib) (live : Nat) :
    List (Nat × Nat × Nat) × Nat :=
  let bad := (upFrom 0 m.stepBudget).filterMap fun t =>
    let r := memNat mem (h.tokBase + 2 * t) 2
    let want := bits r 0 6 + bits r 10 4
    let got := (cs.filter fun c => c.t == t).length
    if want = got then none else some (t, want, got)
  (bad, ((slotTags mem d h).filter fun g => !slotOk d live g).length)

/-- The output rows written in their type (R154, R159). -/
def writeRows (out : Lay) (rows : List (List Nat)) (s : State) : State :=
  let t := (elTy out.type).getD .fp32
  rows.zipIdx.foldl (fun s r => r.1.zipIdx.foldl (fun s x =>
    storeMem (layAddr out [x.2, r.2]) (leBytes (elSize t) x.1) s) s) s

end Sys2Proof.Machine
end

