-- ==== Sys2Proof/Machine/Culture.lean ====
section
/-! DEFINITION. The Culture's arithmetic and its update of a layer (R255 to R268, R271): parameter blocks, pair work, folds,
sparse synapses, rewards, pause and resume, snapshots, commit. -/

namespace Sys2Proof.Machine

/-! ### Parameter blocks and regions (R255, R256) -/

/-- A Culture parameter block (R255). -/
structure CulPar where
  flags    : Nat
  lrExp    : Nat
  lrMant   : Nat
  lambda   : Nat
  fbLen    : Nat
  budget   : Nat
  prune    : Nat
  resv     : Nat
  thetaP   : Int
  thetaC   : Int
  wInit    : Int
  bank0    : Nat
  bank1    : Nat
  router1  : Nat
  bias1    : Nat
  slots    : Nat
  snap     : Nat
  hidden   : Nat
  fb       : Nat
  state    : Nat
  deriving DecidableEq, Repr

/-- The parameter block at an address. -/
def readPar (mem : Table Byte) (a : Nat) : CulPar :=
  let g := fun o n => memNat mem (a + o) n
  { flags := g 0 1, lrExp := g 1 1, lrMant := g 2 2, lambda := g 4 2, fbLen := g 6 2, budget := g 8 4, prune := g 0xC 1
    resv := g 0xD 3 + g 0x1C 4 + g 0x78 8, thetaP := signed 32 (g 0x10 4), thetaC := signed 32 (g 0x14 4)
    wInit := signed 32 (g 0x18 4), bank0 := g 0x20 8, bank1 := g 0x28 8, router1 := g 0x30 8, bias1 := g 0x38 8
    slots := g 0x40 8, snap := g 0x48 8, hidden := g 0x50 8, fb := g 0x58 8, state := g 0x70 8 }

/-- Sparse mode. -/
def culSparse (p : CulPar) : Bool := bitAt p.flags 0

/-- The rule of a layer: 0 bias, 1 three-factor, 2 feedback (R125). -/
def culRule (d : LayerDesc) : Nat := bits d.flags 2 2

/-- Plastic (R125). -/
def isPlastic (d : LayerDesc) : Bool := bitAt d.flags 1

/-- E′ (R111). -/
def padExperts (d : LayerDesc) : Nat := alignUp d.experts 32

/-- Entries of a dense array, D × E′. -/
def gridSize (d : LayerDesc) : Nat := dModel d * padExperts d

/-- Bytes of the Weights region (R256). -/
def weightBytes (p : CulPar) (d : LayerDesc) : Nat := alignUp (if culSparse p then d.experts * 2048 * 8 else 4 * gridSize d) 64

/-- Bytes of the Biases region. -/
def biasBytes (d : LayerDesc) : Nat := alignUp (4 * padExperts d) 64

/-- Bytes of the Traces region: the three-factor rule only. -/
def traceBytes (p : CulPar) (d : LayerDesc) : Nat :=
  if culRule d = 1 then alignUp (if culSparse p then d.experts * 2048 * 4 else 4 * gridSize d) 64 else 0

/-- Offset of the Biases region in a bank. -/
def biasOff (p : CulPar) (d : LayerDesc) : Nat := weightBytes p d

/-- Offset of the Traces region in a bank. -/
def traceOff (p : CulPar) (d : LayerDesc) : Nat := weightBytes p d + biasBytes d

/-- Offset of the candidate records in a bank. -/
def candOff (p : CulPar) (d : LayerDesc) : Nat := traceOff p d + traceBytes p d

/-- Offset of the NextInput words in a bank. -/
def nextOff (p : CulPar) (d : LayerDesc) : Nat := candOff p d + d.experts * 64 * 8

/-- Bytes of a bank. -/
def bankBytes (p : CulPar) (d : LayerDesc) : Nat :=
  if culSparse p then nextOff p d + alignUp (4 * d.experts) 64 else candOff p d

/-- Entries of a contribution slot (R256). -/
def slotEntries (d : LayerDesc) : Nat := if culRule d = 0 then padExperts d else gridSize d

/-- Bytes from one slot to the next. -/
def slotPitch (d : LayerDesc) : Nat := alignUp (4 * slotEntries d) 64

/-- Address of the slot of a step. -/
def slotAddr (p : CulPar) (d : LayerDesc) (n : Nat) : Nat := p.slots + n % 8 * slotPitch d

/-- Bytes of a snapshot body (R271). -/
def snapBody (p : CulPar) (d : LayerDesc) : Nat :=
  if culRule d = 0 then 4 * padExperts d else weightBytes p d + 4 * padExperts d

/-- Bytes from one snapshot buffer to the next. -/
def snapPitch (p : CulPar) (d : LayerDesc) : Nat := alignUp (64 + snapBody p d) 64

/-- The committed bank: its number, its address and the other bank's address. -/
def bankNow (p : CulPar) : Nat × Nat × Nat := if bitAt p.state 0 then (1, p.bank1, p.bank0) else (0, p.bank0, p.bank1)

/-- The scoring copy that the other bank publishes (R257). -/
def otherRouter (p : CulPar) (d : LayerDesc) : Nat := if bitAt p.state 0 then d.routerBase else p.router1

/-- The biases that the other bank publishes (R257). -/
def otherBias (p : CulPar) (d : LayerDesc) : Nat := if bitAt p.state 0 then d.biasBase else p.bias1

/-- The regions of a parameter block: address and bytes (R255, R256). -/
def culRegions (p : CulPar) (d : LayerDesc) : List (Nat × Nat) :=
  [(p.bank0, bankBytes p d), (p.bank1, bankBytes p d), (p.slots, 8 * slotPitch d), (p.snap, snapPitch p d + 64 + snapBody p d)] ++
    (if culRule d = 0 then [(d.biasBase, 4 * d.experts), (p.bias1, 4 * d.experts)]
     else [(d.routerBase, 2 * gridSize d), (p.router1, 2 * gridSize d)])

/-- No two of a list of ranges share a byte. -/
def apart : List (Nat × Nat) → Bool
  | [] => true
  | r :: rs => (rs.all fun x => !overlap r.1 r.2 x.1 x.2) && apart rs

/-- Fields in range and regions apart (R270, status 2). -/
def culParOk (p : CulPar) (d : LayerDesc) : Bool :=
  decide (p.flags < 8) && decide (p.lrExp ≤ 63) && p.lrMant != 0 &&
    (if culRule d = 2 then decide (1 ≤ p.fbLen) && decide (p.fbLen ≤ 256) else p.fbLen == 0) &&
    (if culSparse p then p.prune != 0 else p.prune == 0) && p.resv == 0 && decide (0 ≤ p.thetaP) && decide (0 ≤ p.thetaC) &&
    decide (0 < p.wInit) && inVat p.hidden 64 && (culRule d != 2 || inVat p.fb 64) && (culRule d != 0 || p.router1 == 0) && (culRule d == 0 || p.bias1 == 0) &&
    ((culRegions p d).all fun r => r.1 % 64 == 0) && apart ((d.cultureBase, 128) :: culRegions p d)

/-- The least U that R261 lets a CUL have: the zeroing and the pair work at its worst. -/
def leastBudget (p : CulPar) (d : LayerDesc) : Nat :=
  let fb := if culRule d = 2 then p.fbLen else 0
  slotEntries d +
    (if culRule d = 0 then d.experts
     else if culSparse p then d.reserved * (2048 + 64 + fb)
     else d.reserved * (dModel d + fb))

/-! ### Arithmetic (R258, R259, R263) -/

/-- Memory while the Culture works, with the saturations counted. -/
structure CulMem where
  mem : Table Byte
  sat : Nat

/-- A signed 32-bit entry. -/
def entryAt (mem : Table Byte) (a : Nat) : Int := signed 32 (memNat mem a 4)

/-- A signed 32-bit entry written. -/
def putEntry (a : Nat) (v : Int) (c : CulMem) : CulMem := { c with mem := memPutNat c.mem a 4 (wrapInt 32 v) }

/-- A converted value with its saturation counted. -/
def tally (r : Int × Bool) (c : CulMem) : CulMem := { c with sat := c.sat + b2n r.2 }

/-- C ← rnd_Q8.23(C + term) with the term at 46 fraction bits (R263). -/
def addTerm46 (a : Nat) (term : Int) (c : CulMem) : CulMem :=
  let r := rndFix 23 (entryAt c.mem a * 2 ^ 23 + term) 46
  putEntry a r.1 (tally r c)

/-- A BF16 input as Q8.23. -/
def q23OfBf16 (v : Nat) : Int × Bool := fixOfFp 23 (fpDecode .bf16 v)

/-- An FP32 input as Q8.23. -/
def q23OfF32 (v : Nat) : Int × Bool := fixOfFp 23 (f32 v)

/-- B[e][j] is +1 (R259). -/
def feedbackPlus (seed layer e j : Nat) : Bool :=
  crc32c (leBytes 8 seed ++ leBytes 2 layer ++ leBytes 2 e ++ leBytes 2 j ++ leBytes 2 0) % 2 == 0

/-- f[e] of a token (R263), and the saturations on the way. -/
def feedbackOf (mem : Table Byte) (fb : Lay) (seed layer e t len : Nat) : Int × Nat :=
  let errs := (upFrom 0 len).map fun j => q23OfF32 (layF32 mem fb [j, t])
  let sum := errs.zipIdx.foldl (fun a x => if feedbackPlus seed layer e x.2 then a + x.1.1 else a - x.1.1) (0 : Int)
  let r := rndFix 23 sum 23
  (r.1, (errs.filter (·.2)).length + b2n r.2)

/-- A bias folded with the contribution of one round (R263). -/
def foldBias (p : CulPar) (reward eps b : Int) : Int × Bool :=
  rndFix 29 (b * 2 ^ (p.lrExp + 16) + p.lrMant * reward * eps * 2 ^ 29) (p.lrExp + 45)

/-- A trace folded: decayed and rounded, then the contribution added, saturated (R263). -/
def foldTrace (p : CulPar) (c t : Int) : Int × Nat :=
  let a := rndFix 23 (t * p.lambda) 39
  let b := rndFix 23 (a.1 + c) 23
  (b.1, b2n a.2 + b2n b.2)

/-- A weight folded under the three-factor rule (R263). -/
def foldThree (p : CulPar) (reward t w : Int) : Int × Bool :=
  rndFix 29 (w * 2 ^ (p.lrExp + 39) + p.lrMant * reward * t * 2 ^ 29) (p.lrExp + 68)

/-- A weight folded under the feedback rule (R263). -/
def foldFeedback (p : CulPar) (c w : Int) : Int × Bool :=
  rndFix 29 (w * 2 ^ (p.lrExp + 23) - p.lrMant * c * 2 ^ 29) (p.lrExp + 52)

/-- A Q2.29 weight as BF16 (R258). -/
def bf16OfQ (w : Int) : Nat := fpEncode .bf16 (fpOfFix 29 w)

/-- A Q2.29 bias as FP32 (R258). -/
def f32OfQ (w : Int) : Nat := fpEncode .fp32 (fpOfFix 29 w)

/-! ### Pair work (R260, R261, R263, R264) -/

/-- The pairs of a layer in slot order: token, expert, gate weight (R263). -/
def culPairs (mem : Table Byte) (d : LayerDesc) (h : SepHdr) : List (Nat × Nat × Nat) :=
  (slotTags mem d h).zipIdx.map fun x => (tagToken x.1, tagExpert x.1, memNat mem (h.weightBase + 4 * x.2) 4)

/-- Wanted of each expert (R138). -/
def culWanted (mem : Table Byte) (d : LayerDesc) (h : SepHdr) : List Nat :=
  (upFrom 0 d.experts).map fun e => memNat mem (h.expBase + 64 + 32 * e + 6) 2

/-- A sparse record: weight or score, valid, LowCount, input (R264). -/
structure Synapse where
  w     : Int
  valid : Bool
  low   : Nat
  input : Nat
  deriving DecidableEq, Repr

/-- The record at an address. -/
def readSyn (mem : Table Byte) (a : Nat) : Synapse :=
  let v := memNat mem a 8
  { w := signed 32 (bits v 32 32), valid := bitAt v 31, low := bits v 23 8, input := bits v 0 14 }

/-- A record as its 8 B. -/
def synBytes (x : Synapse) : List Byte :=
  leBytes 8 (if x.valid then wrapInt 32 x.w * 2 ^ 32 + 2 ^ 31 + x.low * 2 ^ 23 + x.input else 0)

/-- The synapse records of an expert in a bank. -/
def expertSyns (mem : Table Byte) (bank e : Nat) : List Synapse :=
  (upFrom 0 2048).map fun i => readSyn mem (bank + (e * 2048 + i) * 8)

/-- The candidate records of an expert in a bank. -/
def expertCands (mem : Table Byte) (p : CulPar) (d : LayerDesc) (bank e : Nat) : List Synapse :=
  (upFrom 0 64).map fun i => readSyn mem (bank + candOff p d + (e * 64 + i) * 8)

/-- The inputs at which pair work adds for an expert: all, or those of its valid records (R264). -/
def pairInputs (mem : Table Byte) (p : CulPar) (d : LayerDesc) (bank e : Nat) : List Nat :=
  if culSparse p then
    ((expertSyns mem bank e).filter (·.valid)).map (·.input) ++ ((expertCands mem p d bank e).filter (·.valid)).map (·.input)
  else upFrom 0 (dModel d)

/-- Updates of one pair (R261). -/
def pairUpdates (mem : Table Byte) (p : CulPar) (d : LayerDesc) (bank e : Nat) : Nat :=
  (if culSparse p then ((expertSyns mem bank e).filter (·.valid)).length + 64 else dModel d) +
    (if culRule d = 2 then p.fbLen else 0)

/-- One pair's terms added to a slot (R263). -/
def pairTerms (s : State) (p : CulPar) (d : LayerDesc) (layer slot bank : Nat) (x : Nat × Nat × Nat) (c : CulMem) : CulMem :=
  let hid := readLay s p.hidden
  let f := if culRule d = 2 then
      feedbackOf s.mem (readLay s p.fb) (cfgVal s 0x0F01) layer x.2.1 x.1 p.fbLen
    else
      let g := q23OfF32 x.2.2
      (g.1, b2n g.2)
  let c1 := { c with sat := c.sat + f.2 }
  (pairInputs s.mem p d bank x.2.1).foldl (fun c k =>
    let h := q23OfBf16 (memNat s.mem (layAddr hid [k, x.1]) 2)
    addTerm46 (slot + 4 * (k * padExperts d + x.2.1)) (h.1 * f.1) (tally h c)) c1

/-- The pair work of a step: the memory after it, and its updates with the zeroing (R260, R261). -/
def pairWork (s : State) (p : CulPar) (d : LayerDesc) (h : SepHdr) (layer n : Nat) : CulMem × Nat :=
  let slot := slotAddr p d n
  let zero : CulMem := { mem := memWrite s.mem slot (List.replicate (4 * slotEntries d) 0), sat := 0 }
  if culRule d = 0 then
    let w := culWanted s.mem d h
    let sum := sumNat w
    (w.zipIdx.foldl (fun c x => putEntry (slot + 4 * x.2) ((sum : Int) - d.experts * x.1) c) zero, slotEntries d + d.experts)
  else
    let ps := culPairs s.mem d h
    let bank := (bankNow p).2.1
    (ps.foldl (fun c x => pairTerms s p d layer slot bank x c) zero,
      slotEntries d + sumNat (ps.map fun x => pairUpdates s.mem p d bank x.2.1))

/-! ### Folds (R260 to R264) -/

/-- The rounds of a fold: step number and reward, in ascending order of recording. -/
abbrev Rounds := List (Nat × Int)

/-- One entry of a dense fold or of the bias rule (R263): read from the committed bank, written to the other one with its
published form. -/
def foldDense (p : CulPar) (d : LayerDesc) (rs : Rounds) (c : CulMem) (x : Nat) : CulMem :=
  let (_, bank, other) := bankNow p
  let con := fun n => entryAt c.mem (slotAddr p d n + 4 * x)
  if culRule d = 0 then
    let r := rs.foldl (fun a m =>
      let y := foldBias p m.2 (con m.1) a.1
      (y.1, a.2 + b2n y.2)) (entryAt c.mem (bank + biasOff p d + 4 * x), 0)
    let c1 := putEntry (other + biasOff p d + 4 * x) r.1 { c with sat := c.sat + r.2 }
    if x < d.experts then { c1 with mem := memPutNat c1.mem (otherBias p d + 4 * x) 4 (f32OfQ r.1) } else c1
  else
    let w0 := entryAt c.mem (bank + 4 * x)
    let t0 := if culRule d = 1 then entryAt c.mem (bank + traceOff p d + 4 * x) else 0
    let r := rs.foldl (fun a m =>
      if culRule d = 1 then
        let t := foldTrace p (con m.1) a.2.1
        let w := foldThree p m.2 t.1 a.1
        (w.1, t.1, a.2.2 + t.2 + b2n w.2)
      else
        let w := foldFeedback p (con m.1) a.1
        (w.1, a.2.1, a.2.2 + b2n w.2)) (w0, t0, 0)
    let c1 := putEntry (other + 4 * x) r.1 { c with sat := c.sat + r.2.2 }
    let c2 := if culRule d = 1 then putEntry (other + traceOff p d + 4 * x) r.2.1 c1 else c1
    { c2 with mem := memPutNat c2.mem (otherRouter p d + 2 * x) 2 (bf16OfQ r.1) }

/-- What a sparse fold carries for one expert: synapses with traces, candidates, NextInput, saturations. -/
structure SpFold where
  syns  : List (Synapse × Int)
  cands : List Synapse
  next  : Nat
  sat   : Nat

/-- Steps 1 and 2 of R264 on one synapse. -/
def foldSyn (p : CulPar) (rule : Nat) (reward : Int) (con : Nat → Int) (y : Synapse × Int) : (Synapse × Int) × Nat :=
  if !y.1.valid then (y, 0)
  else
    let t := if rule = 1 then foldTrace p (con y.1.input) y.2 else (y.2, 0)
    let w := if rule = 1 then foldThree p reward t.1 y.1.w else foldFeedback p (con y.1.input) y.1.w
    let low := if p.thetaP ≤ (w.1.natAbs : Int) then 0 else y.1.low + 1
    if low = p.prune then (({ w := 0, valid := false, low := 0, input := 0 }, 0), t.2 + b2n w.2)
    else (({ y.1 with w := w.1, low := low }, t.1), t.2 + b2n w.2)

/-- Step 3 of R264 on one candidate. -/
def foldCand (p : CulPar) (con : Nat → Int) (y : Synapse) : Synapse × Nat :=
  if !y.valid then (y, 0)
  else
    let r := rndFix 23 (y.w * p.lambda + con y.input * 2 ^ 16) 39
    ({ y with w := r.1 }, b2n r.2)

/-- The first index at or after `k`, modulo D, that no record holds, by fuel. -/
def freeInput (held : List Nat) (d : Nat) : Nat → Nat → Option Nat
  | 0, _ => none
  | n + 1, k => if held.contains k then freeInput held d n ((k + 1) % d) else some k

/-- Steps 4 and 5 of R264 for one promoted candidate: its place among the candidates is `i`. -/
def promote (p : CulPar) (rule dm : Nat) (st : SpFold) (i : Nat) : SpFold :=
  match st.cands[i]?, st.syns.findIdx? (fun y => !y.1.valid) with
  | some cd, some free =>
    let w := p.wInit * cd.w.sign * (if rule = 2 then -1 else 1)
    let syns := st.syns.set free ({ w := w, valid := true, low := 0, input := cd.input }, 0)
    let held := (syns.filter (·.1.valid)).map (·.1.input) ++ ((st.cands.eraseIdx i).filter (·.valid)).map (·.input)
    match freeInput held dm dm (st.next % dm) with
    | some k => { st with syns := syns, cands := st.cands.set i { w := 0, valid := true, low := 0, input := k }, next := (k + 1) % dm }
    | none => { st with syns := syns, cands := st.cands.set i { w := 0, valid := false, low := 0, input := 0 } }
  | _, _ => st

/-- One round of a sparse fold on one expert (R264). -/
def foldExpert (p : CulPar) (rule dm : Nat) (reward : Int) (con : Nat → Int) (st : SpFold) : SpFold :=
  let ys := st.syns.map (foldSyn p rule reward con)
  let zs := st.cands.map (foldCand p con)
  let st1 : SpFold := { st with syns := ys.map (·.1), cands := zs.map (·.1), sat := st.sat + sumNat (ys.map (·.2)) + sumNat (zs.map (·.2)) }
  let free := (st1.syns.filter fun y => !y.1.valid).length
  let able := st1.cands.zipIdx.filter fun x => x.1.valid && decide (p.thetaC ≤ (x.1.w.natAbs : Int))
  let best := sortBy (fun a b : Synapse × Nat => decide (b.1.w.natAbs < a.1.w.natAbs) ||
    (a.1.w.natAbs == b.1.w.natAbs && decide (a.1.input < b.1.input))) able
  ((best.take (min 4 free)).map (·.2)).foldl (promote p rule dm) st1

/-- One expert of a sparse fold: read from the committed bank, written to the other one (R264). -/
def foldSparse (p : CulPar) (d : LayerDesc) (rs : Rounds) (c : CulMem) (e : Nat) : CulMem :=
  let (_, bank, other) := bankNow p
  let tr := fun i => if culRule d = 1 then entryAt c.mem (bank + traceOff p d + (e * 2048 + i) * 4) else 0
  let st0 : SpFold :=
    { syns := (expertSyns c.mem bank e).zipIdx.map fun x => (x.1, tr x.2), cands := expertCands c.mem p d bank e
      next := memNat c.mem (bank + nextOff p d + 4 * e) 4, sat := 0 }
  let st := rs.foldl (fun st m => foldExpert p (culRule d) (dModel d) m.2
    (fun k => entryAt c.mem (slotAddr p d m.1 + 4 * (k * padExperts d + e))) st) st0
  let m1 := memWrite c.mem (other + e * 2048 * 8) (st.syns.map fun y => synBytes y.1).flatten
  let m2 := if culRule d = 1 then
      memWrite m1 (other + traceOff p d + e * 2048 * 4) (st.syns.map fun y => leBytes 4 (wrapInt 32 y.2)).flatten else m1
  let m3 := memWrite m2 (other + candOff p d + e * 64 * 8) (st.cands.map synBytes).flatten
  { mem := memPutNat m3 (other + nextOff p d + 4 * e) 4 st.next, sat := c.sat + st.sat }

/-- The scoring copy of a sparse layer rewritten dense from the other bank (R111, R261). -/
def rewriteCopy (p : CulPar) (d : LayerDesc) (c : CulMem) : CulMem :=
  let other := (bankNow p).2.2
  let base := otherRouter p d
  let m0 := memWrite c.mem base (List.replicate (2 * gridSize d) 0)
  { c with mem := (upFrom 0 d.experts).foldl (fun m e => ((expertSyns c.mem other e).filter (·.valid)).foldl (fun m y =>
      memPutNat m (base + 2 * (y.input * padExperts d + e)) 2 (bf16OfQ y.w)) m) m0 }

/-- Units of a fold: how many, and the updates of each with `nr` rounds (R261). -/
def foldUnits (p : CulPar) (d : LayerDesc) (nr : Nat) : Nat × Nat :=
  if culRule d = 0 then (padExperts d, nr)
  else if culSparse p then (d.experts, nr * 2112)
  else (gridSize d, nr)

/-- Updates of a whole fold. -/
def foldTotal (p : CulPar) (d : LayerDesc) (nr : Nat) : Nat :=
  (foldUnits p d nr).1 * (foldUnits p d nr).2 + if culSparse p && culRule d != 0 then cdiv (gridSize d) 32 else 0

/-- A fold carried from update `from_` to update `upTo`: each unit is applied when its last update is made. -/
def foldSpan (p : CulPar) (d : LayerDesc) (rs : Rounds) (from_ upTo : Nat) (c : CulMem) : CulMem :=
  let (n, per) := foldUnits p d rs.length
  let a := min n (from_ / max 1 per)
  let b := min n (upTo / max 1 per)
  let c1 := (upFrom a (b - a)).foldl (fun c x => if culSparse p && culRule d != 0 then foldSparse p d rs c x else foldDense p d rs c x) c
  if culSparse p && culRule d != 0 && upTo == foldTotal p d rs.length && from_ != upTo then rewriteCopy p d c1 else c1

/-! ### Rewards (R268) -/

/-- The sum of the rewards of a list that cover a layer for a step. -/
def rewardSum (layer n : Nat) (rs : List Reward) : Int :=
  rs.foldl (fun a r => if r.step = n && r.first ≤ layer && layer ≤ r.last then a + r.value else a) 0

/-- R_n of a layer, with what an earlier Attempt 1 left over (R262, R268). -/
def roundReward (s : State) (p : CulPar) (d : LayerDesc) (h : SepHdr) (part layer n : Nat) (carry : Int) : Int × Bool :=
  let ext : Int := if bitAt p.flags 1 then
      rewardSum layer n (tget [] s.cul.applied part) + rewardSum layer n (tget [] s.cul.keeper part) else 0
  let w := culWanted s.mem d h
  let sum := sumNat w
  if bitAt p.flags 2 && sum != 0 then
    let num : Int := (d.experts * maxNat w : Nat) - (sum : Int)
    let r := roundDiv ((ext + carry) * sum + num * 2 ^ 16) sum
    let v := satInt 32 r
    (v, v != r)
  else
    let v := satInt 32 (ext + carry)
    (v, v != ext + carry)

/-! ### Snapshots (R271) -/

/-- Is a snapshot buffer of a block leased. -/
def bufferLeased (s : State) (block b : Nat) : Bool := s.cul.leases.any fun l => l.block == block && l.buf == b

/-- The step number of the last publication (R255). -/
def lastPub (p : CulPar) : Nat := bits p.state 32 32

/-- The bytes of the committed bank that a snapshot copies. -/
def snapSource (mem : Table Byte) (p : CulPar) (d : LayerDesc) : List Byte :=
  let bank := (bankNow p).2.1
  if culRule d = 0 then memRead mem (bank + biasOff p d) (4 * padExperts d)
  else memRead mem bank (weightBytes p d + 4 * padExperts d)

/-- A snapshot header (R271). -/
def snapHeader (p : CulPar) (d : LayerDesc) (layer : Nat) (body : List Byte) : List Byte :=
  let h := leBytes 4 (lastPub p) ++ leBytes 1 layer ++ leBytes 1 (b2n (culSparse p) + 2 * culRule d) ++ leBytes 2 d.experts ++
    leBytes 2 d.dmUnits ++ leBytes 2 0 ++ leBytes 4 body.length ++ leBytes 4 (crc32c body)
  h ++ List.replicate (64 - h.length) 0

/-- Snapshot refresh with a number of updates left: what changes of the progress, the memory, and the updates made. -/
def snapRefresh (s : State) (p : CulPar) (d : LayerDesc) (block layer left : Nat) (g : CulProg) (c : CulMem) : CulProg × CulMem × Nat :=
  let at_ := fun b => p.snap + b * snapPitch p d
  let current := match g.latest with
    | some b => memNat c.mem (at_ b) 4 == lastPub p
    | none => false
  if current && g.snapAt == 0 then (g, c, 0)
  else
    let fresh := g.snapAt == 0 || g.snapPub != lastPub p || bufferLeased s block g.snapBuf
    let other := match g.latest with
      | some b => 1 - b
      | none => 0
    let pick := if bufferLeased s block other then 1 - other else other
    let buf := if fresh then pick else g.snapBuf
    let done := if fresh then 0 else g.snapAt
    let body := snapSource c.mem p d
    let lines := cdiv body.length 64
    let n := min left (lines + 1 - done)
    let part := (body.drop (64 * done)).take (64 * n)
    let m1 := memWrite c.mem (at_ buf + 64 + 64 * done) part
    let g1 := { g with snapBuf := buf, snapPub := lastPub p, latest := if g.latest = some buf then none else g.latest }
    if n = 0 then (g, c, 0)
    else if lines < done + n then
      ({ g1 with snapAt := 0, latest := some buf }, { c with mem := memWrite m1 (at_ buf) (snapHeader p d layer body) }, n)
    else ({ g1 with snapAt := done + n }, { c with mem := m1 }, n)

/-! ### The update (R260, R265, R266) and the commit (R262) -/

/-- The progress of a layer by its parameter block. -/
def progOf (s : State) (a : Nat) : CulProg := tget {} s.cul.prog a

/-- The rounds that a fold can take: committed, unfolded, in ascending order of step number as recorded. -/
def committedRounds (g : CulProg) : Rounds :=
  match g.recorded with
  | some n => tdel g.rounds n
  | none => g.rounds

/-- The oldest of some steps as seen from step n (R217's order of steps). -/
def oldestStep (n : Nat) (rs : Rounds) : Nat :=
  (rs.map (·.1)).foldl (fun a x => if (n + 2 ^ 32 - a) % 2 ^ 32 < (n + 2 ^ 32 - x) % 2 ^ 32 then x else a) n

/-- Rounds in ascending step order as seen from step n. -/
def orderRounds (n : Nat) (rs : Rounds) : Rounds :=
  sortBy (fun a b : Nat × Int => decide ((n + 2 ^ 32 - b.1) % 2 ^ 32 < (n + 2 ^ 32 - a.1) % 2 ^ 32)) rs

/-- The armed resume of a block that is due at step n (R266). -/
def resumeDue (s : State) (a n : Nat) : Bool :=
  match s.cul.armed.find? fun x => x.1 == a with
  | some x => stepDue n x.2
  | none => false

/-- One CUL's effect, with the number of updates that it performs (R260). -/
def culUpdate (slot layer n attempt : Nat) (d : LayerDesc) (h : SepHdr) (s : State) : State × Nat :=
  let a := d.cultureBase
  let p := readPar s.mem a
  let part := jobPart (getJob s slot)
  let g0 := { progOf s a with slot := slot, part := part, layer := layer }
  let put := fun (g : CulProg) (s : State) => { s with cul.prog := tput s.cul.prog a g }
  if attempt = 1 then
    let r := roundReward s p d h part layer n g0.carry
    (put { g0 with carryPend := some r.1 } s, 0)
  else
    let first := g0.lastStep != some n
    let resume := first && bitAt p.state 1 && resumeDue s a n
    let g1 := if resume then { g0 with rounds := [], foldStep := [], foldAt := 0, foldAtOk := 0, resumed := true } else g0
    let s1 := if resume then post 0x09 2 0 (pl1 layer ++ pl4 n) s else s
    if (bitAt p.state 1 && !g1.resumed) || (!first && g1.pausing) then (put { g1 with lastStep := some n } s1, 0)
    else if first && ((committedRounds g1).any fun x => x.1 % 8 == n % 8) then
      (put { g1 with lastStep := some n, pausing := true }
        (post 0x09 1 1 (pl1 layer ++ pl4 n ++ pl4 (oldestStep n (committedRounds g1))) { s1 with cul.pauses := s1.cul.pauses + 1 }), 0)
    else
      let (c1, used) := if first then pairWork s1 p d h layer n else ({ mem := s1.mem, sat := 0 }, 0)
      let rew := roundReward s1 p d h part layer n g1.carry
      let g2 := if first then { g1 with lastStep := some n, recorded := some n, rounds := tput g1.rounds n rew.1, satPosted := none } else g1
      let c1 := if first then tally rew c1 else c1
      let steps := if g2.foldStep.isEmpty && !g2.foldDone then (orderRounds n (committedRounds g2)).map (·.1) else g2.foldStep
      let rs : Rounds := steps.map fun x => (x, tget 0 g2.rounds x)
      let left := p.budget - used
      let total := foldTotal p d rs.length
      let upTo := if g2.foldDone || steps.isEmpty then g2.foldAt else min total (g2.foldAt + left)
      let c2 := foldSpan p d rs g2.foldAt upTo c1
      let g3 := { g2 with foldStep := steps, foldAt := upTo, foldDone := g2.foldDone || (!steps.isEmpty && upTo == total) }
      let spent := used + (upTo - g2.foldAt)
      let (g4, c3, snaps) := snapRefresh s1 p d a layer (p.budget - spent) g3 c2
      let say := decide (0 < c3.sat) && g4.satPosted != some n
      let s2 := postIf say 0x09 6 1 (pl1 layer ++ pl4 n ++ pl4 c3.sat) s1
      let g5 := if say then { g4 with satPosted := some n } else g4
      (put g5 { s2 with mem := c3.mem, cul.updates := s2.cul.updates + spent + snaps, cul.sat := s2.cul.sat + c3.sat }, spent + snaps)

/-- The mask of the slots of some steps. -/
def slotMask (steps : List Nat) : Nat := maskOf ((upFrom 0 8).map fun i => steps.any fun n => n % 8 == i)

/-- One layer's learning committed with step n (R262, R265, R266). -/
def commitLayer (d : LayerDesc) (a n attempt : Nat) (g : CulProg) (s : State) : State :=
  let p := readPar s.mem a
  let st := p.state
  let bank := b2n (bitAt st 0)
  let gone := fun (rs : Table Int) => g.foldStep.foldl (fun t x => tdel t x) rs
  let rounds := if g.foldDone then gone g.rounds else g.rounds
  let bank' := if g.foldDone then 1 - bank else bank
  let paused := g.pausing || (bitAt st 1 && !g.resumed)
  let active := if g.foldDone then [] else g.foldStep
  let pub := if g.foldDone then n else bits st 32 32
  let word := bank' + 2 * b2n paused + 4 * b2n (!active.isEmpty) + 2 ^ 8 * slotMask (rounds.map (·.1)) + 2 ^ 16 * slotMask active + 2 ^ 32 * pub
  let s1 := if g.foldDone then
      putMemNat (a + 0x60) 8 (if culRule d = 0 then memNat s.mem (a + 0x60) 8 else otherRouter p d)
        (putMemNat (a + 0x68) 8 (if culRule d = 0 then otherBias p d else memNat s.mem (a + 0x68) 8) s)
    else s
  let g1 := { g with
    rounds := rounds, recorded := none, pausing := false, resumed := false, foldDone := false, foldStep := active
    foldAt := if g.foldDone then 0 else g.foldAt, foldAtOk := if g.foldDone then 0 else g.foldAt
    carry := if attempt = 1 then g.carryPend.getD g.carry else if g.recorded.isSome then 0 else g.carry
    carryPend := none }
  let s2 := putMemNat (a + 0x70) 8 word s1
  { s2 with cul := { s2.cul with
      prog := tput s2.cul.prog a g1, armed := if g.resumed then tdel s2.cul.armed a else s2.cul.armed } }

/-- The learning of a job's step committed (R262). -/
def commitCulture (slot n attempt : Nat) (s : State) : State :=
  let m := jobMov (getJob s slot)
  (s.cul.prog.filter fun x => x.2.slot == slot && (x.2.recorded.isSome || x.2.pausing || x.2.resumed || x.2.foldDone ||
      x.2.foldAt != x.2.foldAtOk || x.2.carryPend.isSome)).foldl
    (fun s x => commitLayer (layerAt m x.2.layer) x.1 n attempt x.2 s) s

end Sys2Proof.Machine
end

