-- ==== Sys2Proof/Machine/Loader.lean ====
section
/-! DEFINITION. The Loader (R100 to R110): descriptors, transforms, overlaps, costs, rejection. -/

namespace Sys2Proof.Machine

/-- A Loader descriptor as read from its 192 B (R100). -/
structure LdDesc where
  iter     : List Nat
  scratch  : Nat
  indexDim : Nat
  index    : Nat
  q        : Nat
  fill     : Nat
  perm     : List Nat
  oob      : Nat
  gather   : Bool
  stage    : Bool
  same     : Bool
  src      : Lay
  dst      : Lay
  deriving DecidableEq, Repr

/-- The descriptor at a local address (R100). -/
def readLd (mem : Table Byte) (a : Nat) : LdDesc :=
  let v := memNat mem a 64
  let l0 := memNat mem (a + 64) 64
  let l1 := memNat mem (a + 128) 64
  { iter := (upFrom 0 6).map fun d => bits v (24 * d + 256) 24, scratch := bits v 192 48, indexDim := bits v 176 3
    index := bits v 128 48, q := bits v 112 16, fill := bits v 64 32, perm := (upFrom 0 6).map fun d => bits v (3 * d + 6) 3
    oob := bits v 4 2, gather := bitAt v 3, stage := bitAt v 2, same := l0 == l1, src := parseLay l0, dst := parseLay l1 }

/-- Does an address of a descriptor name the own chip: a plain local address, chip 0xFFF, or its own ID (R59, R110). -/
def ownName (s : State) (a : Nat) : Bool := globalChip a == 0 || isLocalChip s (globalChip a)

/-- The local address that an address of a descriptor names; one of another chip stays as it is, beyond the local space. -/
def localName (s : State) (a : Nat) : Nat := if ownName s a then globalLocal a else a

/-- The layout with local addresses. -/
def localLay (s : State) (l : Lay) : Lay := { l with base := localName s l.base, scale := localName s l.scale }

/-- The descriptor with local addresses. -/
def localLd (s : State) (d : LdDesc) : LdDesc :=
  { d with src := localLay s d.src, dst := localLay s d.dst, index := localName s d.index, scratch := localName s d.scratch }

/-- The product of a list. -/
def prodNat : List Nat → Nat
  | [] => 1
  | x :: xs => x * prodNat xs

/-- b, the bytes of the iteration space in the destination type (R104). -/
def ldBytes (d : LdDesc) : Nat := prodNat d.iter * laySize d.dst.type

/-- The destination dimension whose source dimension is `s`. -/
def permBack (d : LdDesc) (s : Nat) : Nat := (d.perm.findIdx? (· == s)).getD 6

/-- Entries of the index list (R101). -/
def listCount (d : LdDesc) : Nat := nth d.iter (permBack d d.indexDim)

/-- The index list's range: address and bytes, empty without Gather. -/
def listRange (d : LdDesc) : Nat × Nat := (d.index, if d.gather then 4 * listCount d else 0)

/-- The source index of a destination index (R101, step 2). -/
def srcIndex (mem : Table Byte) (d : LdDesc) (j : List Nat) : List Nat :=
  (upFrom 0 6).map fun s =>
    let x := nth j (permBack d s)
    if d.gather && s == d.indexDim then memNat mem (d.index + 4 * x) 4 else x

/-- An index lies outside a layout's extents (R101, steps 1 and 3). -/
def outside (l : Lay) (i : List Nat) : Bool := (upFrom 0 6).any fun d => decide (layExt l d ≤ nth i d)

/-- The clamped index (R101, step 3). -/
def clampIndex (l : Lay) (i : List Nat) : List Nat := (upFrom 0 6).map fun d => min (nth i d) (layExt l d - 1)

/-- The exact value of an MX element with its scale (R102); E2M1 has an exponent bias of 1. -/
def mxValue (t pat scale : Nat) : FVal :=
  if scale = 0xFF then .nan
  else
    let k : Int := (scale : Int) - 127
    let v := if t = 10 then
        (let e := bits pat 1 2
         let f := bits pat 0 1
         if e = 0 then FVal.fin (bitAt pat 3) f (-1) else FVal.fin (bitAt pat 3) (2 + f) ((e : Int) - 2))
      else if t = 11 then fpDecode .e4m3 pat else fpDecode .e5m2 pat
    match v with
    | .fin n m e => .fin n m (e + k)
    | x => x

/-- The element at a source index in the destination type (R101, step 4; R102). -/
def ldElement (mem : Table Byte) (d : LdDesc) (i : List Nat) : Nat :=
  let e := layElem d.src.dims i
  let v := layRead mem d.src e
  let dt := (elTy d.dst.type).getD .fp32
  if mxType d.src.type then elOfValue dt (mxValue d.src.type v (memNat mem (layScale d.src e) 1))
  else elCvt ((elTy d.src.type).getD .fp32) dt v

/-- One index as the Loader treats it: its destination index, whether the write is dropped, whether the read is out of
bounds, and the source index that is read, if one is. -/
structure LdPoint where
  j    : List Nat
  drop : Bool
  oob  : Bool
  read : Option (List Nat)

/-- The points of a descriptor in visiting order (R101). -/
def ldPoints (mem : Table Byte) (d : LdDesc) : List LdPoint :=
  (allIndices d.iter).map fun j =>
    let i := srcIndex mem d j
    let o := outside d.src i
    { j := j, drop := outside d.dst j, oob := o
      read := if !o then some i else if d.oob = 0 then some (clampIndex d.src i) else none }

/-- The element of a point (R101); `fill` is what an out-of-bounds read takes. -/
def ldValue (mem : Table Byte) (d : LdDesc) (fill : Nat) (p : LdPoint) : Nat :=
  match p.read with
  | some i => ldElement mem d i
  | none => fill

/-- The status count (R101). -/
def ldCount (ps : List LdPoint) : Nat := sat32 (ps.filter fun p => p.drop || p.oob).length

/-- The stores of a descriptor (R101, R109): dense to the scratch in a staged copy, then to the destination. -/
def ldStores (mem : Table Byte) (d : LdDesc) (staged : Bool) (fill : Nat) : List (Nat × List Byte) :=
  let ps := ldPoints mem d
  let n := laySize d.dst.type
  let dense := if staged then [(d.scratch, (ps.map fun p => leBytes n (ldValue mem d fill p)).flatten)] else []
  dense ++ (ps.filter fun p => !p.drop).map fun p => (layAddr d.dst p.j, leBytes n (ldValue mem d fill p))

/-! ### Overlap and staging (R108, R109) -/

/-- The source's ranges: elements and, for an MX type, scales. -/
def srcRanges (d : LdDesc) : List (Nat × Nat) :=
  layRange d.src :: (if mxType d.src.type then [scaleRange d.src] else [])

/-- Do two ranges overlap. -/
def rangesMeet (a b : Nat × Nat) : Bool := overlap a.1 a.2 b.1 b.2

/-- Does the copy overlap (R108). -/
def ldOverlaps (d : LdDesc) : Bool := (listRange d :: srcRanges d).any fun r => rangesMeet r (layRange d.dst)

/-- The copy runs in place (R108). -/
def ldInPlace (d : LdDesc) : Bool :=
  d.same && !d.gather && (upFrom 0 6).all fun x =>
    nth d.perm (nth d.perm x) == x && layExt d.dst x == layExt d.dst (nth d.perm x) && nth d.iter x == layExt d.dst x

/-- 0 plain, 1 in place, 2 staged. -/
def ldMode (d : LdDesc) : Nat := if !ldOverlaps d then 0 else if ldInPlace d then 1 else 2

/-- Staging is possible (R109); `at_` is the descriptor's address. -/
def ldStageOk (d : LdDesc) (ranges : List (Nat × Nat)) (at_ : Nat) : Bool :=
  let r := (d.scratch, ldBytes d)
  decide (ldBytes d ≤ 0x400000) && inVat d.scratch (ldBytes d) && covered ranges d.scratch (ldBytes d) &&
    !((layRange d.dst :: listRange d :: (at_, 192) :: srcRanges d).any fun x => rangesMeet x r)

/-! ### Rejection (R102, R105, R110) -/

/-- The cast is permitted (R102). -/
def castOk (src dst : Nat) : Bool :=
  !mxType dst && (if mxType src then decide (1 ≤ dst) && decide (dst ≤ 4) else true)

/-- Has the copy an HBM side (R105): its source or its destination elements lie there; where an index list or a scale array lies does not
count (DESIGN CHOICE, log 87). -/
def ldHbmSide (d : LdDesc) : Bool := decide (d.src.base < 0xC_0000_0000) || decide (d.dst.base < 0xC_0000_0000)

/-- The lowest failing code, 0 for none (R110). `d` is as read, `at_` the descriptor's local address. -/
def ldCode (s : State) (d : LdDesc) (ranges : List (Nat × Nat)) (mask ch at_ : Nat) : Nat :=
  let x := localLd s d
  if !(layValid x.src && layValid x.dst && decide (ldBytes x ≤ 2 ^ 32)) then 1
  else if !((upFrom 0 6).all fun v => d.perm.contains v) || (d.gather && decide (d.src.rank ≤ d.indexDim)) then 2
  else if !castOk d.src.type d.dst.type then 3
  else if ldMode x == 2 && !d.stage then 4
  else if ldMode x == 2 && !ldStageOk x ranges at_ then 5
  else if ldHbmSide x && !(decide (1 ≤ d.q) && decide (d.q ≤ 2 * beatCycles s)) then 6
  else if !(ownName s d.src.base && ownName s d.dst.base && ownName s d.src.scale && (!d.gather || ownName s d.index) &&
      (!d.stage || ownName s d.scratch) && inVat at_ 192) then 7
  else if !bitAt mask ch then 8
  else 0

/-- A range where its address names the own chip. -/
def ifOwn (s : State) (a : Nat) (r : Nat × Nat) : List (Nat × Nat) := if ownName s a && r.2 != 0 then [r] else []

/-- The ranges that R65 checks at issue, those that name the own chip: of each valid layout, of the index list, and of the
scratch where Stage is set (R107): address, bytes. -/
def ldChecked (s : State) (d : LdDesc) : List (Nat × Nat) :=
  let x := localLd s d
  (if layValid x.src then
      ifOwn s d.src.base (layRange x.src) ++ (if mxType x.src.type then ifOwn s d.src.scale (scaleRange x.src) else [])
    else []) ++
    (if layValid x.dst then ifOwn s d.dst.base (layRange x.dst) else []) ++
    (if d.gather then ifOwn s d.index (listRange x) else []) ++
    (if d.stage then ifOwn s d.scratch (x.scratch, ldBytes x) else [])

/-! ### Cost (R104) -/

/-- A list in consecutive parts of `n`, by fuel. -/
def parts {α : Type} (n : Nat) : Nat → List α → List (List α)
  | 0, _ => []
  | k + 1, xs => if xs.isEmpty then [] else xs.take n :: parts n k (xs.drop n)

/-- The distinct lines of some addresses. -/
def distinctLines (as_ : List Nat) : List Nat := (as_.map (· / 64)).eraseDups

/-- The lines charged for a set of distinct HBM lines, granule by granule, with their pseudo-channels: at least 8 for a granule
touched in part (R32). -/
def chargedLines (ls : List Nat) : List (Nat × Nat) :=
  ((ls.map (· / 32)).eraseDups).map fun g => (hbmChannel (2048 * g), max 8 (ls.filter fun l => l / 32 == g).length)

/-- The groups of R104: the points of each 4 KiB of the iteration space. -/
def ldGroups (mem : Table Byte) (d : LdDesc) : List (List LdPoint) :=
  let ps := ldPoints mem d
  parts (4096 / laySize d.dst.type) ps.length ps

/-- The source lines that a group reads: elements and scales. A staged copy reads for dropped writes too (R109). -/
def groupReads (d : LdDesc) (g : List LdPoint) : List Nat :=
  let es := g.filterMap fun p => if p.drop && ldMode d != 2 then none else p.read.map (layElem d.src.dims)
  distinctLines (es.map (layAt d.src) ++ if mxType d.src.type then es.map (layScale d.src) else [])

/-- The destination lines that a group writes. -/
def groupWrites (d : LdDesc) (g : List LdPoint) : List Nat :=
  distinctLines ((g.filter fun p => !p.drop).map fun p => layAddr d.dst p.j)

/-- The HBM lines charged to a descriptor in order of arrival: its index list's, then each group's reads and writes (R34,
R104). -/
def ldCharges (mem : Table Byte) (d : LdDesc) : List (Nat × Nat) :=
  let hbm := fun l : Nat => decide (l < 0xC_0000_0000 / 64)
  (if d.gather && decide (d.index < 0xC_0000_0000) then chargeLines (4 * listCount d / 2048 + 2) d.index (4 * listCount d) else []) ++
    (ldGroups mem d).flatMap fun g => chargedLines ((groupReads d g).filter hbm) ++ chargedLines ((groupWrites d g).filter hbm)

/-- L, the HBM lines charged to a descriptor (R104). -/
def ldLines (mem : Table Byte) (d : LdDesc) : Nat := sumNat ((ldCharges mem d).map (·.2))

/-- The first `q` lines of some charges, and the charges behind them. -/
def splitLines : Nat → List (Nat × Nat) → List (Nat × Nat) × List (Nat × Nat)
  | _, [] => ([], [])
  | q, x :: xs =>
    if q = 0 then ([], x :: xs)
    else if x.2 ≤ q then
      let r := splitLines (q - x.2) xs
      (x :: r.1, r.2)
    else ([(x.1, q)], (x.1, x.2 - q) :: xs)

/-- The cost of a descriptor (R104). -/
def ldCost (s : State) (d : LdDesc) : Nat :=
  let b := ldBytes d
  let lines := cdiv b 64
  let base :=
    if ldHbmSide d then farCycles s + beatCycles s * cdiv (ldLines s.mem d) (max 1 d.q)
    else 48 + max lines (sumNat ((ldGroups s.mem d).map fun g => (groupReads d g).length))
  base + (if ldMode d = 1 then lines else 0) + (if d.perm = upFrom 0 6 then 0 else 64) +
    (if d.src.type = d.dst.type then 0 else 8) +
    (if !d.gather then 0 else if d.index < 0xC_0000_0000 then farCycles s else 40 + cdiv (4 * listCount d) 64) +
    (if ldMode d = 2 then 48 + lines else 0)

end Sys2Proof.Machine
end

