-- ==== Sys2Proof/Machine/BlockIssue.lean ====
section
/-! DEFINITION. Block operations (R90, R91): the issue checks and issue of SEL, DSP, GRW, CMB, CUL and LDX, the queues, and
the completions (R127, R129, R132, R142, R149, R162 to R164, R270, R110). -/

namespace Sys2Proof.Machine

/-! ### Queues (R91) -/

/-- The number of a block's queue. -/
def blockKey (b : BlockId) : Nat :=
  match b with
  | .selector => 0
  | .separator => 1
  | .churn => 2
  | .culture => 3
  | .walker c => 4 + c.val

/-- A block's queue, the running operation first. -/
def queueOf (s : State) (k : Nat) : List BlockOp := tget [] s.blk.queues k

/-- A block's queue replaced. -/
def setQueue (k : Nat) (q : List BlockOp) (s : State) : State := { s with blk.queues := tput s.blk.queues k q }

/-- The running operation of a block. -/
def headOp (s : State) (k : Nat) : Option BlockOp :=
  match queueOf s k with
  | o :: _ => if o.began.isSome && coreRuns s then some o else none
  | [] => none

/-- The block without its running operation. -/
def popOp (k : Nat) (s : State) : State := setQueue k (queueOf s k).tail s

/-- The block runs or holds queued an operation of a job (R91, R95 reason 6). -/
def holdsJob (k : TileCtx → Nat) (s : State) (c : TileCtx) (_ : TField) : Bool := (queueOf s (k c)).any fun o => o.slot == c.slot

/-- Is the step attempt of an operation still running. -/
def opLive (s : State) (o : BlockOp) : Bool :=
  let j := getJob s o.slot
  stepLives s o.slot && j.run.active && jobStep s o.slot == o.stepNo && j.attempt == o.attempt

/-- A status word (R90). -/
def statusWord (count code : Nat) : Nat := sat32 count * 2 ^ 32 + code

/-- A status word that lands in a thread's register at a cycle (R75, R90). -/
def landStatus (slot tp tile : Nat) (dst : Option Nat) (count code cy : Nat) (s : State) : State :=
  let s1 := modRun slot (fun r => { r with blockEnds := r.blockEnds ++ [(tp, tile, cy)] }) (noteCycle slot cy s)
  match dst with
  | none => s1
  | some a => modTp tp (fun t => noteReady a cy { t with statuses := t.statuses.erase a }) (putMemNat a 8 (statusWord count code) s1)

/-- The cycle of an operation's cost. -/
def opEnd (o : BlockOp) : Nat := o.began.getD 0 + o.cost

/-- The status of a block operation at its cost. -/
def landOp (o : BlockOp) (count code : Nat) (s : State) : State := landStatus o.slot o.tp o.tile o.dst count code (opEnd o) s

/-- What a block instruction accepts: an optional status register. -/
def blockSpec (k : TileCtx → Nat) : OpSpec :=
  { modOk := modsIn [0], tyOk := tyNone, kinds := fun _ => (.scOpt, .unused, .unused, .unused), bad6 := holdsJob k }

/-- The debug address of an optional status register. -/
def statusAddr (c : TileCtx) (f : TField) : Option Nat :=
  if noOperand f.dst then none else some (opAddr c.t f.thr.toNat f.dst)

/-- Where the biases stand that a SEL reads, as it starts (R257). -/
def startBias (s : State) (k : Nat) (m : Movement) (layer : Nat) : Nat := if k = 0 then biasAddr s (layerAt m layer) else 0

/-- A block operation issues: it starts, or joins the queue (R90, R91). -/
def issueOp (k layer first count cost : Nat) (tps : List Nat) (f : TField) (c : TileCtx) (cy : Nat) (s : State) : State :=
  let q := queueOf s k
  let dst := statusAddr c f
  let o : BlockOp :=
    { slot := c.slot, tp := c.t, thr := f.thr.toNat, tile := c.tile.tile, issued := cy, tps := tps, dst := dst, layer := layer
      first := first, count := count, bias := startBias s k c.mov layer
      stepNo := jobStep s c.slot, attempt := c.job.attempt, cost := cost, began := if q.isEmpty then some cy else none }
  retire c.t (cy + 1) (modTp c.t (fun t => { t with statuses := dst.toList ++ t.statuses }) (setQueue k (q ++ [o]) s))

/-- A block operation that fails an issue check: its status code, its event, and the job's fault. -/
def rejectOp (src code status : Nat) (payload : List Byte) (f : TField) (c : TileCtx) (cy : Nat) (s : State) : State :=
  faultJob c.slot (post src code 2 payload (landStatus c.slot c.t c.tile.tile (statusAddr c f) 0 status (cy + 1) s))

/-- The layer in Imm[7:0]. -/
def immLayer (f : TField) : Nat := bits f.imm.toNat 0 8

/-- The global address of a local one on this chip. -/
def ownGlobal (a : Nat) : Nat := if a < 2 ^ 36 then 0xFFF * 2 ^ 36 + a else a

/-- The first of some ranges that fails R65, as an access. -/
def firstBad (s : State) (j : Job) (rs : List (Nat × Nat)) : Option (Nat × Nat × Nat) :=
  (rs.find? fun r => r.2 != 0 && accessReason s j (ownGlobal r.1) r.2 1 != 0).map fun r => (ownGlobal r.1, r.2, 1)

/-- The first of some layouts with an element that fails R65, as an access to its range. -/
def firstBadLay (s : State) (j : Job) (ls : List Lay) : Option (Nat × Nat × Nat) :=
  (ls.find? fun l => !boxAll l (fun a n => accessReason s j (ownGlobal a) n 1 == 0) l.dims.reverse 0).map fun l =>
    (ownGlobal (layRange l).1, (layRange l).2, 1)

/-! ### Check bits (R363, R364) -/

/-- Does an operation read a line: in one of its ranges, or an element of one of its layouts. -/
def readsLine (rs : List (Nat × Nat)) (ls : List Lay) (l : Nat) : Bool :=
  (rs.any fun r => overlap r.1 r.2 (64 * l) 64) || (ls.any fun x => !layAvoids x (64 * l) 64)

/-- An operation's reads, of the lines that a test picks: an uncorrectable line faults the job, and corrected ones count. -/
def lineReads (slot reader : Nat) (reads : Nat → Bool) (act : State → State) (s : State) : State :=
  match s.ecc.badLines.find? reads with
  | some l => faultJob slot (eccEvent 2 (64 * l) reader s)
  | none => act { s with flt.eccCor := s.flt.eccCor + (s.ecc.softLines.filter reads).length }

/-- An operation's reads of ranges and layouts. -/
def blockReads (slot reader : Nat) (rs : List (Nat × Nat)) (ls : List Lay) (act : State → State) (s : State) : State :=
  lineReads slot reader (readsLine rs ls) act s

/-- The core cycle, counted from fleet time 0, at which a block's running operation ends. -/
def opEndAt (s : State) (o : BlockOp) : Nat := runBase s o.slot + opEnd o

/-- The completion of a block's running operation: it leaves the block, and has its effect, behind the Vat accesses up to its
end, while its step attempt runs. -/
def completeOp (k : Nat) (act : BlockOp → State → State) (s : State) : State :=
  match headOp s k with
  | none => s
  | some o =>
    let s1 := popOp k { s with blk.freeAt := tput s.blk.freeAt k (opEndAt s o) }
    if opLive s o then act o (serveTo (opEndAt s o) s1) else s1

/-! ### SEL -/

/-- The first failing check of SEL, 0 for none (R127). -/
def selStatus (s : State) (c : TileCtx) (d : LayerDesc) : Nat :=
  let l := readLay s d.scoreLayout
  if !(inVat d.scoreLayout 64 && layValid l && l.type == 5 && layInVat l && decide (d.experts ≤ layExt l 0) &&
      decide (c.job.run.live ≤ layExt l 1)) then 1
  else if biasOn d && !inVat (biasAddr s d) (4 * d.experts) then 2
  else if d.kind != 1 then 3
  else 0

/-- SEL reads the parameter block of its layer (R257). -/
def selPar (d : LayerDesc) : Bool := d.kind == 1 && isPlastic d && culRule d == 0 && biasOn d

/-- What SEL accepts. -/
def selSpec : OpSpec :=
  { blockSpec (fun _ => 0) with
    access := fun s c f =>
      let d := layerAt c.mov (immLayer f)
      if selPar d then firstBad s c.job [(d.cultureBase + 0x68, 8)] else none }

/-- SEL: starts the Selector for a layer (R83, R127). -/
def execSel (t : Fin 128) (f : TField) (s : State) : Out :=
  run (issue selSpec t f fun c cy s =>
    let i := immLayer f
    let d := layerAt c.mov i
    let st := selStatus s c d
    if st != 0 then rejectOp 0x07 1 st (pl1 i ++ pl1 st) f c cy s
    else issueOp 0 i 0 0 (2 * cdiv (c.mov.stepBudget * d.experts) 512 + 400) [] f c cy s) s

/-- The Selector's results become visible (R68, R124, R129 to R132). -/
def selDone (o : BlockOp) (s : State) : State :=
  let d := layerAt (jobMov (getJob s o.slot)) o.layer
  let live := (getJob s o.slot).run.live
  blockReads o.slot 2 ((d.scoreLayout, 64) :: if biasOn d then [(o.bias, 4 * d.experts)] else []) [readLay s d.scoreLayout]
    (fun s =>
      let r := selFromMem s d o.bias o.stepNo o.attempt live
      let dead := r.stat.dead.length
      let s1 := storeMem d.pairBase (pairBuffer o.layer o.stepNo o.attempt r.pairs) s
      let s2 := { s1 with blk := { s1.blk with
        selBad := s1.blk.selBad + r.stat.bad, selDead := s1.blk.selDead + dead, pairDrop := s1.blk.pairDrop + r.stat.dropTotal
        selStats := tput s1.blk.selStats (256 * o.slot + o.layer) r.stat } }
      let s3 := postIf (r.stat.bad != 0 || dead != 0 || r.nothing != 0) 0x07 2 1
        (pl1 o.layer ++ pl4 o.stepNo ++ pl4 r.scores ++ pl2 dead ++ pl2 r.nothing) s2
      let s4 := postIf (r.stat.dropTotal != 0) 0x07 4 1 (pl1 o.layer ++ pl4 o.stepNo ++ pl4 r.stat.dropTotal ++ pl2 r.empty) s3
      landOp o r.stat.accTotal 0 s4) s

/-- SELECTOR_COMPLETE: the selection is written to the pair buffer with its status (R122, R130). -/
def execSelectorComplete (s : State) : Out := run (completeOp 0 selDone) s

/-! ### DSP -/

/-- The counters of a layer's latest SEL. -/
def selStatOf (s : State) (slot layer : Nat) : SelStat :=
  tget { stepNo := 0, attempt := 0, wanted := [], accepted := [], spilled := [], skipped := [], dropped := [], live := 0
         dead := [], accTotal := 0, dropTotal := 0, bad := 0 } s.blk.selStats (256 * slot + layer)

/-- The lowest failing check of DSP, 0 for none (R142). -/
def dspStatus (s : State) (c : TileCtx) (i : Nat) : Nat :=
  let d := layerAt c.mov i
  match sepOf c.mov i with
  | none => 1
  | some h =>
    if !(memNat s.mem (d.pairBase + 4) 4 == jobStep s c.slot && memNat s.mem (d.pairBase + 8) 1 == c.job.attempt &&
        memNat s.mem (d.pairBase + 9) 1 == i) then 1
    else if !((sepRegions c.mov d h).all fun r => layAvoids (readLay s d.scoreLayout) r.1 r.2) then 2
    else 0

/-- What DSP accepts: its output regions pass R65. -/
def dspSpec : OpSpec :=
  { blockSpec (fun _ => 1) with
    access := fun s c f =>
      let i := immLayer f
      match sepOf c.mov i with
      | some h => firstBad s c.job (sepRegions c.mov (layerAt c.mov i) h)
      | none => none }

/-- DSP: starts the Separator for a layer (R83, R142). -/
def execDsp (t : Fin 128) (f : TField) (s : State) : Out :=
  run (issue dspSpec t f fun c cy s =>
    let i := immLayer f
    let st := dspStatus s c i
    if st != 0 then rejectOp 0x07 3 st (pl1 i ++ pl1 st) f c cy s
    else issueOp 1 i 0 0 (2 * cdiv (layerAt c.mov i).reserved 64 + 600) [] f c cy s) s

/-- The stores of an operation made. -/
def storeAll (ws : List (Nat × List Byte)) (s : State) : State := ws.foldl (fun s w => storeMem w.1 w.2 s) s

/-- The Separator's outputs become visible; the digest and the Balance Log take them (R135, R143, R202). -/
def dspDone (o : BlockOp) (s : State) : State :=
  let j := getJob s o.slot
  let m := jobMov j
  let d := layerAt m o.layer
  match sepOf m o.layer with
  | none => s
  | some h =>
    blockReads o.slot 2 [(d.pairBase, 64 + 8 * d.reserved)] []
      (fun s =>
        let x := selStatOf s o.slot o.layer
        let r := sepRun s.mem m d h x
        let entry := balanceEntry s.blk.blogSeq s.clk.fleet o.stepNo o.layer (jobPart j) o.attempt d x r
        landOp o r.written 0 (queueBalance entry
          (modRun o.slot (fun y => { y with dspDone := o.layer :: y.dspDone, digest := tput y.digest o.layer r.digest })
            (storeAll r.writes s)))) s

/-- SEPARATOR_COMPLETE: tags, weights, lists, Expert Table and Token Record become visible (R135 to R141). -/
def execSeparatorComplete (s : State) : Out := run (completeOp 1 dspDone) s

/-- A Balance Log entry's lines written from a ring line on, wrapping (R144). -/
def logLines (base n : Nat) : Nat → Nat → List Byte → State → State
  | 0, _, _, s => s
  | k + 1, at_, bs, s => logLines base n k ((at_ + 1) % n) (bs.drop 64) (storeMem (base + 64 * at_) (bs.take 64) s)

/-- BALANCE_LOG_WRITE: the oldest queued entry is written to the ring in HBM (R144). -/
def execBalanceLogWrite (s : State) : Out :=
  run (fun s =>
    match s.blk.blogQ with
    | [] => s
    | e :: rest =>
      let n := cfgVal s 0x0805
      let lines := e.length / 64
      if n = 0 then s
      else
        logLines (cfgVal s 0x0804) n lines (s.blk.blogWr % n) e
          { s with blk := { s.blk with blogQ := rest, blogWr := (s.blk.blogWr + lines) % n } }) s

/-! ### GRW -/

/-- First entry and count of GRW (R83). -/
def grwRange (f : TField) : Nat × Nat := (bits f.imm.toNat 0 16, bits f.imm.toNat 16 16)

/-- The bases that an entry uses (R146). -/
def entryBases (g : GroupEntry) : List Nat :=
  if g.kind = 0 then [g.act, g.w1, g.out] else [g.act, g.w1, g.w2, g.w3, g.mid, g.out]

/-- The lowest failing check of GRW and the entry that fails it, 0 for none (R149). -/
def grwStatus (c : TileCtx) (first count : Nat) : Nat × Nat :=
  let es := (c.mov.entries.zipIdx.drop first).take count
  if count = 0 || c.mov.entries.length < first + count then (1, first)
  else match es.find? fun x => !((entryBases x.1).all fun b => inVat b 1 && vatCluster b == clusterOf c.t) with
    | some x => (2, x.2)
    | none => match es.find? fun x => !c.job.run.dspDone.contains x.1.layer with
      | some x => (3, x.2)
      | none => (0, first)

/-- The TPs of a cluster that some entries name (R146). -/
def walkTps (c : Nat) (es : List GroupEntry) : List Nat :=
  ((upFrom 0 16).filter fun i => es.any fun g => bitAt g.tpMask i).map fun i => 16 * c + i

/-- What GRW accepts. -/
def grwSpec : OpSpec := blockSpec fun c => 4 + clusterOf c.t

/-- GRW: starts the cluster's Group Walker (R83, R149). -/
def execGrw (t : Fin 128) (f : TField) (s : State) : Out :=
  run (issue grwSpec t f fun c cy s =>
    let (a, n) := grwRange f
    let st := grwStatus c a n
    if st.1 != 0 then rejectOp (0x20 + clusterOf c.t) 5 st.1 (pl1 c.t ++ pl4 st.2 ++ pl1 st.1) f c cy s
    else
      let es := (c.mov.entries.drop a).take n
      issueOp (4 + clusterOf c.t) 0 a n (sumNat (es.map entryCost)) (walkTps (clusterOf c.t) es) f c cy s) s

/-- The memory that an entry reads. -/
def entryReads (g : GroupEntry) : List (Nat × Nat) :=
  let z := elSize (entryTy g)
  let k := 32 * g.kb
  let n := 32 * g.nb
  [(g.act, g.rows * k * z), (g.w1, k * n * z)] ++ if g.kind = 0 then [] else [(g.w2, k * n * z), (g.w3, n * k * z)]

/-- The Group Walker's entries are done: their stores in order, the matrix state of their TPs undefined, and a status whose
count the spec does not state (R148, R149). -/
def grwDone (c : Nat) (o : BlockOp) (s : State) : State :=
  let m := jobMov (getJob s o.slot)
  let es := (m.entries.zipIdx.drop o.first).take o.count
  blockReads o.slot 2 (es.flatMap fun x => entryReads x.1) []
    (fun s =>
      let s1 := es.foldl (fun s x =>
        match sepOf m x.1.layer with
        | some h => storeAll (walkEntry s.mem x.1 (usedRows x.1 (entryRows s.mem h x.1))) s
        | none => s) s
      let s2 := freeMatrix (walkTps c (es.map (·.1))) s1
      let s3 := modRun o.slot (fun y => { y with grwDone := y.grwDone ++ es.map fun x => (opEnd o, 4096 * c + x.2) }) s2
      landOp o (leNat (freeBytes s3 4)) 0 (skipFree 4 s3)) s

/-- GROUP_WALKER_COMPLETE: the entries are walked and the GRW status is written (R148). -/
def execGroupWalkerComplete (c : Fin 8) (s : State) : Out := run (completeOp (4 + c.val) (grwDone c.val)) s

/-! ### CMB -/

/-- The entries of a layer with their indices. -/
def layerEntries (m : Movement) (i : Nat) : List (GroupEntry × Nat) := m.entries.zipIdx.filter fun x => x.1.layer == i

/-- An entry has completed in the step attempt, with its landing cycle (R156, R160). -/
def walkedAt (r : Run) (e : Nat) : Option Nat := (r.grwDone.find? fun x => x.2 % 4096 == e).map (·.1)

/-- Arrival mode (R125). -/
def arrival (d : LayerDesc) : Bool := bitAt d.flags 0

/-- The output of an entry: address and bytes. -/
def entryOut (g : GroupEntry) : Nat × Nat := (g.out, 4 * g.rows * outCols g)

/-- A layout meets R150: its types, Rank 2, its extents, and Vat. -/
def combineLay (m : Movement) (d : LayerDesc) (types : List Nat) (l : Lay) : Bool :=
  layValid l && types.contains l.type && l.rank == 2 && decide (dModel d ≤ layExt l 0) && decide (m.stepBudget ≤ layExt l 1) &&
    layInVat l

/-- The lowest failing check of CMB, 0 for none (R163). -/
def cmbStatus (s : State) (c : TileCtx) (i : Nat) : Nat :=
  let d := layerAt c.mov i
  match combineOf c.mov i, sepOf c.mov i with
  | some k, some h =>
    let out := readLay s k.outLay
    let res := readLay s k.resLay
    if d.kind != 1 || !c.job.run.dspDone.contains i then 1
    else if !(inVat k.outLay 64 && combineLay c.mov d [k.outType] out) ||
        (k.addRes && !(inVat k.resLay 64 && combineLay c.mov d [3, 5] res)) then 2
    else if !arrival d && !((layerEntries c.mov i).all fun x => (walkedAt c.job.run x.2).isSome) then 3
    else if !((sepRegions c.mov d h ++ (layerEntries c.mov i).map fun x => entryOut x.1).all fun r => layAvoids out r.1 r.2) ||
        (k.addRes && !layApart out res) then 5
    else 0
  | _, _ => 1

/-- What CMB accepts: its regions pass R65. -/
def cmbSpec : OpSpec :=
  { blockSpec (fun _ => 2) with
    access := fun s c f =>
      let i := immLayer f
      match combineOf c.mov i, sepOf c.mov i with
      | some k, some h =>
        let ls := readLay s k.outLay :: if k.addRes then [readLay s k.resLay] else []
        match firstBad s c.job (sepRegions c.mov (layerAt c.mov i) h ++ (layerEntries c.mov i).map fun x => entryOut x.1) with
        | some x => some x
        | none => firstBadLay s c.job (ls.filter layValid)
      | _, _ => none }

/-- A of the Churn (R159). -/
def churnA (m : Movement) (d : LayerDesc) : Nat := d.reserved + d.shared * m.stepBudget

/-- CMB: starts the Churn for a layer (R83, R163). -/
def execCmb (t : Fin 128) (f : TField) (s : State) : Out :=
  run (issue cmbSpec t f fun c cy s =>
    let i := immLayer f
    let d := layerAt c.mov i
    let st := cmbStatus s c i
    if st != 0 then rejectOp 0x08 1 st (pl1 i ++ pl1 st) f c cy s
    else issueOp 2 i 0 0 (cdiv (churnA c.mov d * dModel d) 2048 + 500) [] f c cy s) s

/-- The cycle at which a combine's status lands: at its cost, or after a GRW status that comes too late after CMB's issue in
arrival mode (R158, R159). -/
def churnEnd (m : Movement) (d : LayerDesc) (r : Run) (o : BlockOp) : Nat :=
  let limit := o.issued + cdiv (churnA m d * dModel d) 2048
  maxNat (opEnd o :: if arrival d then
      (layerEntries m o.layer).filterMap fun x => (walkedAt r x.2).bind fun cy =>
        if limit < cy then some (cy + 500 + cdiv (x.1.rows * dModel d) 2048) else none
    else [])

/-- The first tokens of the residual block and its length (R153). -/
def residualBlock (s : State) (j : Job) (m : Movement) : Nat × Nat :=
  let n := viewAt s (jobPart j) 0
  if m.ringJob && n != 0 then (blockStart m n (viewAt s (jobPart j) 1), blockLen m n (viewAt s (jobPart j) 1))
  else (0, m.stepBudget)

/-- Free elements of an output (R162). -/
def freeRows (s : State) (rows cols size : Nat) : List (List Nat) :=
  (upFrom 0 rows).map fun r => (upFrom 0 cols).map fun c =>
    leNat ((upFrom (s.freeCtr + (r * cols + c) * size) size).map Config.freeByte)

/-- The combine is done: rows, conservation, non-finite count, status (R154 to R164). -/
def cmbDone (o : BlockOp) (s : State) : State :=
  let j := getJob s o.slot
  let m := jobMov j
  let d := layerAt m o.layer
  match combineOf m o.layer, sepOf m o.layer with
  | some k, some h =>
    let out := readLay s k.outLay
    let res := readLay s k.resLay
    let live := j.run.live
    let cs := contribs s.mem m d h o.layer live
    let (first, len) := residualBlock s j m
    lineReads o.slot 2 (fun l => readsLine (sepRegions m d h ++ cs.map (fun x => (x.addr, 4 * dModel d)) ++ [(k.outLay, 64)]) [] l ||
        (k.addRes && residualReads d res first len live l))
      (fun s =>
        let order := sortBy (fun a b : Nat × Nat => decide (a.1 < b.1) || (a.1 == b.1 && decide (a.2 < b.2))) j.run.grwDone
        let place := fun e => (order.findIdx? fun x => x.2 % 4096 == e).getD 0
        let ty := (elTy k.outType).getD .fp32
        let rows := (combineRows s.mem m d cs live first len (if k.addRes then some res else none)
          (if arrival d then some place else none)).map fun r => r.map (elCvt .fp32 ty)
        let (bad, slots) := conserve s.mem m d h cs live
        let nErr := bad.length + slots
        let cols := dModel d
        let rows := if nErr = 0 then rows else freeRows s m.stepBudget cols (elSize ty)
        let odd := sumNat (rows.map fun r => (r.filter fun v => fvNonFinite (fpDecode ty v)).length)
        let s1 := writeRows out rows (if nErr = 0 then s else skipFree (m.stepBudget * cols * elSize ty) s)
        let s2 := { s1 with blk := { s1.blk with
          nonFinite := s1.blk.nonFinite + odd, consErr := s1.blk.consErr + nErr
          combines := if nErr = 0 then s1.blk.combines + 1 else s1.blk.combines } }
        let s3 := landStatus o.slot o.tp o.tile o.dst cs.length (if nErr = 0 then 0 else 4) (churnEnd m d j.run o) s2
        let s4 := postIf (odd != 0) 0x08 3 1 (pl1 o.layer ++ pl4 o.stepNo ++ pl4 odd) s3
        if nErr = 0 then s4
        else
          let b := bad.head?
          faultJob o.slot (post 0x08 2 2 (pl1 o.layer ++ pl4 o.stepNo ++ plOpt 2 (b.map (·.1)) ++ plOpt 1 (b.map (·.2.1)) ++
            plOpt 1 (b.map (·.2.2)) ++ pl2 nErr) s4)) s
  | _, _ => s

/-- Every entry of a running arrival-mode combine has landed (R156, R158). -/
def churnReady (s : State) : Bool :=
  match headOp s 2 with
  | some o =>
    let j := getJob s o.slot
    !opLive s o || !arrival (layerAt (jobMov j) o.layer) ||
      (layerEntries (jobMov j) o.layer).all fun x => (walkedAt j.run x.2).isSome
  | none => false

/-- CHURN_COMPLETE: the combine, its conservation check and its status (R161). -/
def execChurnComplete (s : State) : Out := run (fun s => if churnReady s then completeOp 2 cmbDone s else s) s

/-! ### CUL -/

/-- A layer on which CUL can run: Kind 1, plastic, with a parameter block, its DSP done (R270, status 1). -/
def culAble (c : TileCtx) (i : Nat) : Bool :=
  let d := layerAt c.mov i
  d.kind == 1 && isPlastic d && d.cultureBase != 0 && c.job.run.dspDone.contains i

/-- The layouts that a layer's Culture reads. -/
def culLays (s : State) (p : CulPar) (d : LayerDesc) : List Lay :=
  if culRule d = 0 then [] else if culRule d = 1 then [readLay s p.hidden] else [readLay s p.hidden, readLay s p.fb]

/-- The layout descriptors that a layer's Culture reads (R255). -/
def culDescs (p : CulPar) (d : LayerDesc) : List (Nat × Nat) :=
  (p.hidden, 64) :: if culRule d = 2 then [(p.fb, 64)] else []

/-- The first failing check of CUL, 0 for none (R270). A layout that R99 does not allow fails check 4 (DEDUCED, log 86). -/
def culStatus (s : State) (c : TileCtx) (i : Nat) : Nat :=
  let d := layerAt c.mov i
  let p := readPar s.mem d.cultureBase
  let hid := readLay s p.hidden
  let fb := readLay s p.fb
  let live := c.job.run.live
  if !culAble c i then 1
  else if !culParOk p d then 2
  else if p.budget < leastBudget p d then 3
  else if !(layValid hid && hid.type == 3 && decide (dModel d ≤ layExt hid 0) && decide (live ≤ layExt hid 1)) ||
      (culRule d == 2 && !(layValid fb && fb.type == 5 && decide (p.fbLen ≤ layExt fb 0) && decide (live ≤ layExt fb 1))) then 4
  else 0

/-- What CUL accepts: its regions pass R65. -/
def culSpec : OpSpec :=
  { blockSpec (fun _ => 3) with
    access := fun s c f =>
      let i := immLayer f
      let d := layerAt c.mov i
      if !culAble c i then none
      else
        let p := readPar s.mem d.cultureBase
        match firstBad s c.job ((d.cultureBase, 128) :: culDescs p d ++ culRegions p d) with
        | some x => some x
        | none => firstBadLay s c.job ((culLays s p d).filter layValid) }

/-- CUL: starts the Culture update of a layer (R83, R270). -/
def execCul (t : Fin 128) (f : TField) (s : State) : Out :=
  run (issue culSpec t f fun c cy s =>
    let i := immLayer f
    let st := culStatus s c i
    if st != 0 then rejectOp 0x09 5 st (pl1 i ++ pl1 st) f c cy s
    else issueOp 3 i 0 0 (cdiv (readPar s.mem (layerAt c.mov i).cultureBase).budget 256 + 300) [] f c cy s) s

/-- The Culture's update is done (R260). -/
def culDone (o : BlockOp) (s : State) : State :=
  let m := jobMov (getJob s o.slot)
  let d := layerAt m o.layer
  match sepOf m o.layer with
  | none => s
  | some h =>
    let p := readPar s.mem d.cultureBase
    blockReads o.slot 2 ((d.cultureBase, 128) :: ((bankNow p).2.1, bankBytes p d) :: culDescs p d ++ sepRegions m d h) (culLays s p d)
      (fun s =>
        let r := culUpdate o.slot o.layer o.stepNo o.attempt d h s
        landOp o r.2 0 r.1) s

/-- CULTURE_COMPLETE: pause check, pair work, fold, snapshot refresh, status (R260). -/
def execCultureComplete (s : State) : Out := run (completeOp 3 culDone) s

/-! ### LDX -/

/-- The channel in Imm[3:0]. -/
def ldxChannel (f : TField) : Nat := bits f.imm.toNat 0 4

/-- The descriptor's address in s[SrcA], a global address (R59). -/
def ldxGlobal (s : State) (c : TileCtx) (f : TField) : Nat := readScalar s c.t f.thr.toNat f.srcA % 2 ^ 48

/-- The descriptor's local address. -/
def ldxAddr (s : State) (c : TileCtx) (f : TField) : Nat := globalLocal (ldxGlobal s c f)

/-- The operation on a channel. -/
def channelOp (s : State) (ch : Nat) : Option LoadOp := tget none s.blk.channels ch

/-- A channel's operation replaced. -/
def setChannel (ch : Nat) (o : Option LoadOp) (s : State) : State := { s with blk.channels := tput s.blk.channels ch o }

/-- What LDX accepts: a free channel, a descriptor that R65 lets it read, and ranges that pass R65 (R95, R107). -/
def ldxSpec : OpSpec :=
  { modOk := modsIn [0], tyOk := tyNone, kinds := fun _ => (.scOpt, .sc, .unused, .unused)
    bad6 := fun s _ f => (channelOp s (ldxChannel f)).isSome
    access := fun s c f =>
      let g := ldxGlobal s c f
      if accessReason s c.job g 192 64 != 0 then some (g, 192, 64)
      else if isRemote s g then none
      else firstBad s c.job (ldChecked s (readLd s.mem (globalLocal g))) }

/-- The claim that a descriptor counts against: that of the tile that issued it (R34). -/
def loadClaim (s : State) (o : LoadOp) : Claim := ((jobMov (getJob s o.slot)).claims[o.claim]?).getD {}

/-- The lines that a descriptor asks for in a beat, behind those deferred before: the next q of it; what its tile's claim has no
room for is deferred (R34, R105). -/
def feedChannel (ch : Nat) (s : State) : State :=
  match channelOp s ch with
  | none => s
  | some o =>
    let x := splitLines o.q o.lines
    let v := x.1.foldl (serveOne (loadClaim s o) o.tile) { use := s.hbm.use, useAll := s.hbm.useAll, late := [] }
    let s1 := setChannel ch (some { o with lines := x.2 }) { s with hbm := { s.hbm with use := v.use, useAll := v.useAll } }
    if v.late.isEmpty then s1
    else addDeferred { id := 0, tp := o.tp, slot := o.slot, keys := [], tile := o.tile, hdr := o.hdr, claim := o.claim, late := v.late
                       store := false, lines := sumNat (x.1.map (·.2)), least := 0, due := none, chan := some ch } s1

/-- Deferred lines of a channel's descriptor were served, to complete at a cycle (R35). -/
def holdLoad (ch cy : Nat) (s : State) : State :=
  setChannel ch ((channelOp s ch).map fun o => { o with held := some (max cy (o.held.getD 0)) }) s

/-- A deferred request is done with. -/
def dropLate (id : Nat) (s : State) : State := { s with hbm.deferred := s.hbm.deferred.filter fun x => x.id != id }

/-- Lines of a channel's descriptor wait for room in their claim; without contract bandwidth they come when they come (R35). -/
def loadWaits (s : State) (ch : Nat) (o : LoadOp) : Bool :=
  (s.hbm.deferred.any fun r => r.chan == some ch) && (loadClaim s o).hbmLines != 0 && (loadClaim s o).perPc != 0

/-- LDX: a descriptor starts on a channel, or is rejected 48 cycles later (R103 to R110). A descriptor on another chip cannot be
read: code 7. The lines of an index list in HBM are charged though both sides lie in Vats (R32, R104). A rejected descriptor holds its
channel until its status lands (DESIGN CHOICE, log 87). -/
def execLdx (t : Fin 128) (f : TField) (s : State) : Out :=
  run (issue ldxSpec t f fun c cy s =>
    let a := ldxAddr s c f
    let ch := ldxChannel f
    let d := readLd s.mem a
    let x := localLd s d
    let code := if isRemote s (ldxGlobal s c f) then 7 else ldCode s d (jobRanges c.job) (tileClaim c).loaderMask ch a
    let dst := statusAddr c f
    let lines := if code = 0 then ldCharges s.mem x else []
    let total := sumNat (lines.map (·.2))
    let o : LoadOp :=
      { slot := c.slot, tp := c.t, thr := f.thr.toNat, dst := dst, desc := a, code := code, mode := ldMode x, began := cy
        cost := if code = 0 then ldCost s x else 48, claim := c.hdr.claim, tile := c.tile.id, hdr := c.tile.tile
        q := if ldHbmSide x then d.q else total, lines := lines, held := none }
    let s1 := modTp c.t (fun t => { t with statuses := dst.toList ++ t.statuses }) (feedChannel ch (setChannel ch (some o) s))
    retire c.t (cy + 1) (modRun c.slot (fun r => { r with hbmBytes := r.hbmBytes + 64 * total }) s1)) s

/-- The cycle in which a descriptor's status lands: at its cost, when its last deferred lines come (R35, R104, R105), or, without
contract bandwidth, when they are there. -/
def loadEnd (s : State) (ch : Nat) (o : LoadOp) : Nat :=
  maxNat [o.began + o.cost, o.held.getD 0, if s.hbm.deferred.any fun r => r.chan == some ch then cycleAt s o.slot else 0]

/-- The status of a Loader descriptor that lands at a cycle. -/
def landLoad (o : LoadOp) (count cy : Nat) (s : State) : State := landStatus o.slot o.tp o.hdr o.dst count o.code cy s

/-- A running descriptor's bytes and status (R101, R109). Reserved values of Oob leave out-of-bounds reads open: free bytes. -/
def loadDone (cy : Nat) (o : LoadOp) (s : State) : State :=
  let d := localLd s (readLd s.mem o.desc)
  blockReads o.slot 3 ((o.desc, 192) :: listRange d :: (if mxType d.src.type then [scaleRange d.src] else [])) [d.src]
    (fun s =>
      let open_ := decide (2 ≤ d.oob)
      let fill := if open_ then leNat (freeBytes s 4) % 2 ^ (8 * laySize d.dst.type) else d.fill
      let ps := ldPoints s.mem d
      landLoad o (ldCount ps) cy (storeAll (ldStores s.mem d (o.mode == 2) fill) (if open_ then skipFree 4 s else s))) s

/-- A descriptor of a channel is done with: the channel is free, and its effect happens at its end, behind the Vat accesses up to
then, while its job's step runs. -/
def completeLoad (ch : Nat) (reject : Bool) (act : Nat → LoadOp → State → State) (s : State) : State :=
  match channelOp s ch with
  | none => s
  | some o =>
    if (o.code != 0) != reject || !coreRuns s || (!reject && loadWaits s ch o) then s
    else
      let cy := loadEnd s ch o
      let s1 := setChannel ch none { s with hbm.deferred := s.hbm.deferred.filter fun r => r.chan != some ch }
      if stepLives s o.slot && (getJob s o.slot).run.active then act cy o (serveTo (runBase s o.slot + cy) s1) else s1

/-- LOADER_DESCRIPTOR_COMPLETE: the transformed bytes and the status become usable (R104). -/
def execLoaderDescriptorComplete (ch : Fin 16) (s : State) : Out := run (completeLoad ch.val false loadDone) s

/-- LOADER_REJECT: a rejected descriptor's status lands and the event is posted (R110). -/
def execLoaderReject (ch : Fin 16) (s : State) : Out :=
  run (completeLoad ch.val true fun cy o s =>
    landLoad o 0 cy (post 0x0A 1 1 (pl1 o.tp ++ pl1 ch.val ++ pl1 o.code) { s with blk.rejects := s.blk.rejects + 1 })) s

/-- BLOCK_QUEUE_START: the first queued operation starts when every earlier one has finished (R91). -/
def execBlockQueueStart (b : BlockId) (s : State) : Out :=
  run (fun s =>
    match queueOf s (blockKey b) with
    | o :: rest =>
      if o.began.isNone && coreRuns s then
        let free := tget 0 s.blk.freeAt (blockKey b) - runBase s o.slot
        let bias := startBias s (blockKey b) (jobMov (getJob s o.slot)) o.layer
        setQueue (blockKey b) ({ o with began := some (max o.issued free), bias := bias } :: rest) s
      else s
    | [] => s) s

end Sys2Proof.Machine
end

