-- ==== Sys2Proof/Machine/Ramp.lean ====
section
/-! DEFINITION. Ramp domains and credits (R284 to R290): budgets, leases, requests, the pool and its handover. The commands
of the ramp family stand at the end. -/

namespace Sys2Proof.Machine

/-! ### The domain -/

/-- Is the chip in a ramp domain (R284). -/
def inDomain (s : State) : Bool := cfgVal s 0x0A02 != 0xFFF

/-- The pool chip that the chip uses (R289). -/
def poolOf (s : State) : Nat := s.rgl.poolChip.getD (cfgVal s 0x0A02)

/-- ramp.window in ns. -/
def windowNs (s : State) : Nat := cfgVal s 0x0A04 * 1000000

/-- ramp.free_allowance in µW. -/
def freeAllowance (s : State) : Nat := cfgVal s 0x0A07 * 1000000

/-- The number of a direction (R286). -/
def dirNum : Dir → Nat
  | .rise => 0
  | .descent => 1

/-- The direction of a number. -/
def dirOf (n : Nat) : Dir := if n = 0 then .rise else .descent

/-- The Arg of a ramp message (R286). -/
def rampArg (s : State) (op epoch : Nat) (d : Dir) (id watts : Nat) : Nat :=
  epoch % 65536 * 2 ^ 48 + op * 2 ^ 44 + dirNum d * 2 ^ 43 + cfgVal s 0x0A01 * 2 ^ 32 + id % 4096 * 2 ^ 20 + watts % 2 ^ 20

/-- A ramp message to a chip. -/
def sendRamp (chip op epoch : Nat) (d : Dir) (id watts : Nat) (s : State) : State :=
  sendU 0x13 chip (rampArg s op epoch d id watts) [] s

/-! ### Budgets (R285) -/

/-- The free allowance left in the window, µW. -/
def freeLeft (s : State) (d : Dir) : Nat :=
  match d with
  | .rise => s.rgl.freeRise
  | .descent => s.rgl.freeDesc

/-- The live leases in a direction, by lease end. -/
def liveLeases (s : State) (d : Dir) : List RampLease :=
  sortBy (fun a b => decide (a.due < b.due)) (s.rgl.leases.filter fun l => l.dir == d)

/-- The unspent part of a lease, µW. -/
def unspent (l : RampLease) : Nat := l.watts * 1000000 - l.spent

/-- A pool handover freezes the domain: the new pool's own freeze, and a member's from the ANNOUNCE that it accepted (R289). -/
def inFreeze (s : State) : Bool := s.rgl.pool.frozen || decide (s.clk.fleet < s.rgl.freezeUntil)

/-- The budget in a direction, µW; none where it is unlimited (R276, R285). In a freeze it is the free allowance alone (R289). -/
def budget (s : State) (d : Dir) : Option Nat :=
  if !inDomain s then none
  else if inFreeze s then some (freeLeft s d)
  else some (freeLeft s d + sumNat ((liveLeases s d).map unspent))

/-- Leases after `x` µW are spent in order of lease end. -/
def spendLeases (d : Dir) : Nat → List RampLease → List RampLease
  | _, [] => []
  | x, l :: ls =>
    if l.dir == d then
      let y := min x (unspent l)
      { l with spent := l.spent + y } :: spendLeases d (x - y) ls
    else l :: spendLeases d x ls

/-- A change of `x` µW spends the free allowance first, then the leases (R285). -/
def spend (d : Dir) (x : Nat) (s : State) : State :=
  if !inDomain s then s
  else
    let fr := freeLeft s d
    let g := { s.rgl with leases := spendLeases d (x - fr) (sortBy (fun a b => decide (a.due < b.due)) s.rgl.leases) }
    { s with rgl := match d with
        | .rise => { g with freeRise := fr - min fr x }
        | .descent => { g with freeDesc := fr - min fr x } }

/-- The request outstanding in a direction. -/
def reqOf (s : State) (d : Dir) : Option RampReq :=
  match d with
  | .rise => s.rgl.reqRise
  | .descent => s.rgl.reqDesc

/-- The request outstanding in a direction replaced. -/
def setReq (d : Dir) (r : Option RampReq) (s : State) : State :=
  match d with
  | .rise => { s with rgl.reqRise := r }
  | .descent => { s with rgl.reqDesc := r }

/-- A lease accepted: `g` is the grant's instant in ns (R285). A lease with a live lease's number is the same lease. -/
def takeLease (d : Dir) (id watts g pool epoch : Nat) (s : State) : State :=
  if s.rgl.leases.any fun l => l.dir == d && l.id == id then s
  else
    let s1 := { s with rgl.leases :=
      s.rgl.leases ++ [{ dir := d, id := id, watts := watts, spent := 0, due := g + windowNs s, pool := pool, epoch := epoch }] }
    match reqOf s d with
    | some r => if r.id = id then setReq d none s1 else s1
    | none => s1

/-! ### The pool (R287, R288) -/

/-- The size of a pool. -/
def poolSize (s : State) (d : Dir) : Nat :=
  match d with
  | .rise => cfgVal s 0x0A05
  | .descent => cfgVal s 0x0A06

/-- Watts of the outstanding leases in a direction. -/
def outstanding (s : State) (d : Dir) : Nat := sumNat ((s.rgl.pool.leases.filter fun l => l.dir == d).map (·.watts))

/-- Watts available in a direction. -/
def available (s : State) (d : Dir) : Nat := poolSize s d - outstanding s d

/-- Is the chip the pool chip. -/
def isPool (s : State) : Bool := s.rgl.pool.active && !s.rgl.pool.closed

/-- Does the pool grant now (R289). -/
def poolGrants (s : State) : Bool := isPool s && !s.rgl.pool.frozen

/-- A request granted `w` W: its lease outstanding from now, its GRANT queued, or the chip's own lease given (R287, R288). -/
def grantOne (q : PoolReq) (w : Nat) (s : State) : State :=
  let g := s.clk.fleet / 1000 * 1000
  let s1 := { s with rgl.pool := { s.rgl.pool with
    queue := s.rgl.pool.queue.erase q
    leases := s.rgl.pool.leases ++ [{ dir := q.dir, chip := q.chip, id := q.id, watts := w, due := g + windowNs s }] } }
  if q.chip = chipId s then takeLease q.dir q.id w g q.chip s.rgl.epoch s1
  else sendRamp q.chip 2 s.rgl.epoch q.dir q.id w s1

/-- The head of a direction's queue is granted in full while enough is available (R287). -/
def grantQueue : Nat → Dir → State → State
  | 0, _, s => s
  | k + 1, d, s =>
    match s.rgl.pool.queue.find? fun q => q.dir == d with
    | none => s
    | some q =>
      let w := min q.watts (poolSize s d)
      if poolGrants s && decide (w ≤ available s d) then grantQueue k d (grantOne q w s) else s

/-- One QUEUED answer. -/
def tellOne (s : State) (q : PoolReq) : State :=
  if q.chip = chipId s then
    match reqOf s q.dir with
    | some r => setReq q.dir (some { r with queued := true }) s
    | none => s
  else sendRamp q.chip 3 s.rgl.epoch q.dir q.id q.watts s

/-- Every request held and not answered yet is answered QUEUED once (R287). -/
def tellQueued (s : State) : State :=
  (s.rgl.pool.queue.filter fun q => !q.told).foldl tellOne
    { s with rgl.pool := { s.rgl.pool with queue := s.rgl.pool.queue.map fun q => { q with told := true } } }

/-- The pool serves a direction's queue. -/
def servePool (d : Dir) (s : State) : State := tellQueued (grantQueue s.rgl.pool.queue.length d s)

/-- A request joins the queue, unless the same request waits in it (R287, R290). -/
def joinQueue (d : Dir) (chip id watts : Nat) (s : State) : State :=
  if !isPool s || s.rgl.pool.queue.any fun q => q.dir == d && q.chip == chip && q.id == id then s
  else servePool d { s with rgl.pool := { s.rgl.pool with
    queue := s.rgl.pool.queue ++ [{ dir := d, chip := chip, id := id, watts := watts, told := false }] } }

/-- A request sent to the pool chip, or put into the chip's own queue (R287). -/
def sendRequest (d : Dir) (r : RampReq) (s : State) : State :=
  let s1 := setReq d (some { r with sentNs := s.clk.fleet, queued := false }) s
  if poolOf s = chipId s then joinQueue d (chipId s) r.id r.watts s1
  else sendRamp (poolOf s) 1 s.rgl.epoch d r.id r.watts s1

/-- The chip asks when its wanted change of `x` µW exceeds its budget (R287). -/
def askCredits (d : Dir) (x : Nat) (s : State) : State :=
  match budget s d with
  | none => s
  | some b =>
    if x ≤ b || (reqOf s d).isSome || decide (4 ≤ (liveLeases s d).length) then s
    else
      let w := min (cfgVal s 0x0A08) (cdiv (x - b) 1000000)
      sendRequest d { id := s.rgl.nextLease, watts := w, sentNs := s.clk.fleet, queued := false }
        { s with rgl.nextLease := (s.rgl.nextLease + 1) % 4096 }

/-- A lease returned: discarded when the pool does not hold it (R288). -/
def returnLease (d : Dir) (chip id : Nat) (s : State) : State :=
  match s.rgl.pool.leases.find? fun l => l.dir == d && l.chip == chip && l.id == id with
  | none => s
  | some l => servePool d { s with rgl.pool := { s.rgl.pool with leases := s.rgl.pool.leases.erase l } }

/-! ### The handover (R289) -/

/-- ANNOUNCE to every chip with a valid route entry. -/
def announceAll (s : State) : State :=
  let body := leBytes 4 (cfgVal s 0x0A05) ++ leBytes 4 (cfgVal s 0x0A06) ++ leBytes 2 (cfgVal s 0x0A04) ++ leBytes 2 (cfgVal s 0x0A03)
  ((s.routes.filter fun e => bitAt e.2 31 && e.1 != chipId s).map (·.1)).foldl
    (fun t c => sendU 0x13 c (rampArg t 5 t.rgl.epoch .rise 0 0) (padUnits body) t) s

/-- The chip begins a pool handover: a new epoch, ANNOUNCE, and the freeze (R289). -/
def beginHandover (s : State) : State :=
  announceAll { s with
    rgl.epoch := (s.rgl.epoch + 1) % 65536
    rgl.poolChip := some (chipId s)
    rgl.pool := { active := true, frozen := true, freezeEnd := s.clk.fleet + windowNs s + 1000000000, queue := s.rgl.pool.queue } }

/-- A pool that accepts a newer epoch steps down (R289). -/
def hearEpoch (e : Nat) (s : State) : State :=
  if s.rgl.pool.active && newer 16 e s.rgl.epoch then
    post 0x03 6 1 (pl2 s.rgl.epoch ++ pl2 e) { s with rgl.pool := {} }
  else s

/-- Watts that the chip holds in live leases of a direction. -/
def heldWatts (s : State) (d : Dir) : Nat := sumNat ((liveLeases s d).map (·.watts))

/-- A newer ANNOUNCE, stamped at `at_`, accepted: the chip reports its leases, asks the new pool from now on, and is frozen for the
window and 1 s (R289; from the stamp: DEDUCED, log 86). -/
def takeAnnounce (src e at_ : Nat) (s : State) : State :=
  if newer 16 e s.rgl.epoch then
    let again := fun r : RampReq => { r with queued := false }
    let s1 := { s with
      rgl.epoch := e, rgl.poolChip := some src, rgl.freezeUntil := at_ + windowNs s + 1000000000
      rgl.reqRise := s.rgl.reqRise.map again, rgl.reqDesc := s.rgl.reqDesc.map again }
    sendRamp src 6 e .descent 0 (heldWatts s .descent) (sendRamp src 6 e .rise 0 (heldWatts s .rise) s1)
  else s

/-- A REPORT accepted by the new pool during its freeze. -/
def takeReport (src watts : Nat) (s : State) : State :=
  let q := s.rgl.pool
  if q.active && q.frozen then
    { s with rgl.pool := { q with
      reported := if q.reported.contains src then q.reported else q.reported ++ [src]
      reportW := q.reportW + watts } }
  else s

/-! ### Messages (R286) -/

/-- The content of a ramp message of operation `op`: one of another domain or an older epoch is discarded and counted. `act`
has the epoch, direction, lease and watts. -/
def rampIn (op : Nat) (f : Frame) (act : Nat → Dir → Nat → Nat → State → State) (s : State) : State :=
  let a := f.arg.toNat
  let e := bits a 48 16
  if bits a 44 4 != op then s
  else if bits a 32 8 != cfgVal s 0x0A01 || newer 16 s.rgl.epoch e then { s with rgl.stale := s.rgl.stale + 1 }
  else act e (dirOf (bits a 43 1)) (bits a 20 12) (bits a 0 20) (hearEpoch e s)

/-- The instant that a 32-bit beat stamp names: its age counts back when it lies below 2^31, else it is in the future (R302). -/
def stampNs (s : State) (st : Nat) : Nat :=
  let b := s.clk.fleet / 1000
  let age := (b % 2 ^ 32 + 2 ^ 32 - st) % 2 ^ 32
  if age < 2 ^ 31 then (b - age) * 1000 else (b + (2 ^ 32 - age)) * 1000

/-! ### Commands -/

/-- RAMP_WINDOW: a new window restores the free allowance (R285). -/
def execRampWindow (s : State) : Out :=
  runCtl (fun s =>
    if windowNs s = 0 then s
    else
      let s1 := advanceTo (nextMultiple (windowNs s) s.clk.fleet) s
      { s1 with rgl := { s1.rgl with freeRise := freeAllowance s, freeDesc := freeAllowance s } }) s

/-- LEASE_END: unspent credits are lost, and the whole lease is returned to the pool that granted it (R285, R289). -/
def execLeaseEnd (d : Dir) (id : BitVec 12) (s : State) : Out :=
  runCtl (fun s =>
    match s.rgl.leases.find? fun l => l.dir == d && l.id == id.toNat with
    | none => s
    | some l =>
      let s1 := advanceTo l.due { s with rgl.leases := s.rgl.leases.erase l }
      if l.pool = chipId s then returnLease d (chipId s) l.id s1 else sendRamp l.pool 4 l.epoch d l.id l.watts s1) s

/-- RECLAIM: a lease not returned by its end + 1 s (R288). -/
def execReclaim (d : Dir) (chip id : BitVec 12) (s : State) : Out :=
  runCtl (fun s =>
    match s.rgl.pool.leases.find? fun l => l.dir == d && l.chip == chip.toNat && l.id == id.toNat with
    | none => s
    | some l =>
      servePool d (post 0x03 4 1 (pl2 l.chip ++ pl1 (dirNum d) ++ pl4 l.watts)
        (advanceTo (l.due + 1000000000) { s with
          rgl.reclaimed := s.rgl.reclaimed + l.watts
          rgl.pool := { s.rgl.pool with leases := s.rgl.pool.leases.erase l } }))) s

/-- REQUEST (R287). -/
def execRequest (l : Fin 8) (fr : Frame) (s : State) : Out :=
  runCtl (receive l fr 0x13 (rampIn 1 fr fun _ d id w => joinQueue d fr.src.toNat id w)) s

/-- GRANT (R285). -/
def execGrant (l : Fin 8) (fr : Frame) (s : State) : Out :=
  runCtl (receive l fr 0x13 (rampIn 2 fr fun e d id w t => takeLease d id w (stampNs t fr.stamp.toNat) fr.src.toNat e t)) s

/-- QUEUED: the pool holds the request (R287, R290). -/
def execQueued (l : Fin 8) (fr : Frame) (s : State) : Out :=
  runCtl (receive l fr 0x13 (rampIn 3 fr fun _ d id _ t =>
    match reqOf t d with
    | some r => if r.id = id then setReq d (some { r with queued := true }) t else t
    | none => t)) s

/-- RETURN (R288). -/
def execReturnCredits (l : Fin 8) (fr : Frame) (s : State) : Out :=
  runCtl (receive l fr 0x13 (rampIn 4 fr fun _ d id _ => returnLease d fr.src.toNat id)) s

/-- ANNOUNCE (R289). -/
def execAnnounce (l : Fin 8) (fr : Frame) (s : State) : Out :=
  runCtl (receive l fr 0x13 (rampIn 5 fr fun e _ _ _ t => takeAnnounce fr.src.toNat e (stampNs t fr.stamp.toNat) t)) s

/-- REPORT (R289). -/
def execReport (l : Fin 8) (fr : Frame) (s : State) : Out :=
  runCtl (receive l fr 0x13 (rampIn 6 fr fun _ _ _ w => takeReport fr.src.toNat w)) s

/-- BEACON: the backup's watch starts again (R289). -/
def execBeacon (l : Fin 8) (fr : Frame) (s : State) : Out :=
  runCtl (receive l fr 0x13 (rampIn 7 fr fun _ _ _ _ t => { t with rgl.beaconAt := t.clk.fleet })) s

/-- BEACON_SEND: every 1 ms the pool chip tells the backup chip (R289). -/
def execBeaconSend (s : State) : Out :=
  runCtl (fun s =>
    let b := cfgVal s 0x0A03
    if isPool s && b != 0xFFF then
      let s1 := advanceTo (nextMultiple 1000000 s.clk.fleet) s
      sendRamp b 7 s.rgl.epoch .rise 0 0 s1
    else s) s

/-- BACKUP_TAKEOVER: no BEACON for 16 ms (R289). -/
def execBackupTakeover (s : State) : Out :=
  runCtl (fun s =>
    if inDomain s && cfgVal s 0x0A03 == chipId s && !isPool s && s.pwr.handedOver then
      let s1 := advanceTo (s.rgl.beaconAt + 16000000) s
      beginHandover (post 0x03 7 1 (pl2 (poolOf s) ++ pl2 ((s.rgl.epoch + 1) % 65536)) s1)
    else s) s

/-- POOL_FREEZE_END: the pool-report event, and the pool grants (R289). -/
def execPoolFreezeEnd (s : State) : Out :=
  runCtl (fun s =>
    let q := s.rgl.pool
    if q.active && q.frozen then
      let s1 := advanceTo q.freezeEnd { s with rgl.pool := { q with frozen := false } }
      servePool .descent (servePool .rise
        (post 0x03 5 0 (pl2 s.rgl.epoch ++ pl2 q.reported.length ++ pl4 q.reportW) s1))
    else s) s

/-- REQUEST_RESEND: 10 ms without an answer (R290). -/
def execRequestResend (d : Dir) (s : State) : Out :=
  runCtl (fun s =>
    match reqOf s d with
    | some r => if r.queued then s else sendRequest d r (advanceTo (r.sentNs + 10000000) s)
    | none => s) s

end Sys2Proof.Machine
end

