-- ==== Sys2Proof/Machine/Admit.lean ====
section
/-! DEFINITION. The Movement image and its admission (R39 to R47, R91, R125, R126, R133, R134, R150, R151, R194, R200): the
parts of an image as numbers of its bytes, and each check by its reason code. -/

namespace Sys2Proof.Machine

/-! ### The image as bytes (R39, R40) -/

/-- A section table entry (R40). -/
structure Section where
  type  : Nat
  flags : Nat
  off   : Nat
  len   : Nat
  crc   : Nat
  deriving DecidableEq, Repr

/-- An image in memory: where it lies, its length, its section table. -/
structure Img where
  mem  : Table Byte
  base : Nat
  len  : Nat
  secs : List Section
  deriving DecidableEq, Repr

/-- A number of `n` bytes of an image (R5). -/
def imgNat (g : Img) (o n : Nat) : Nat := memNat g.mem (g.base + o) n

/-- A section table entry at an offset. -/
def readSection (mem : Table Byte) (a : Nat) : Section :=
  { type := memNat mem a 2, flags := memNat mem (a + 2) 2, off := memNat mem (a + 4) 4, len := memNat mem (a + 8) 4
    crc := memNat mem (a + 12) 4 }

/-- The image at an address. -/
def readImg (mem : Table Byte) (base : Nat) : Img :=
  { mem := mem, base := base, len := memNat mem (base + 8) 4
    secs := (upFrom 0 (memNat mem (base + 0xC) 2)).map fun i => readSection mem (base + 128 + 16 * i) }

/-- A section by type. -/
def secOf (g : Img) (ty : Nat) : Option Section := g.secs.find? fun x => x.type == ty

/-- Is a section present. -/
def hasSec (g : Img) (ty : Nat) : Bool := (secOf g ty).isSome

/-- The offset of a section, 0 when it is absent. -/
def secOff (g : Img) (ty : Nat) : Nat := ((secOf g ty).map (·.off)).getD 0

/-- The length of a section, 0 when it is absent. -/
def secLen (g : Img) (ty : Nat) : Nat := ((secOf g ty).map (·.len)).getD 0

/-- Record i of `n` bytes in a section, as a number. -/
def recNat (g : Img) (ty n i : Nat) : Nat := imgNat g (secOff g ty + n * i) n

/-- The whole records of `n` bytes of a section, as numbers. -/
def recNats (g : Img) (ty n : Nat) : List Nat := (upFrom 0 (secLen g ty / n)).map (recNat g ty n)

/-! ### Records (R41 to R45) -/

/-- A track entry (R41). -/
def trackOf (v : Nat) : TrackEntry := { start := bits v 32 32, tile := bits v 12 20, last := bitAt v 0 }

/-- The index entry of a TP: byte offset and count (R41). -/
def trackIx (g : Img) (t : Nat) : Nat × Nat := (bits (recNat g 1 8 t) 32 32, bits (recNat g 1 8 t) 0 32)

/-- The entries of a TP's track as numbers. -/
def trackNats (g : Img) (t : Nat) : List Nat :=
  (upFrom 0 (trackIx g t).2).map fun i => imgNat g (secOff g 1 + (trackIx g t).1 + 8 * i) 8

/-- A tile header (R42). -/
def tileOf (v : Nat) : TileHdr :=
  { codeOff := bits v 224 32, codeLen := bits v 200 24, ceiling := bits v 190 10, claim := bits v 174 16, layer := bits v 166 8
    rvWindow := bits v 158 8, cost := bits v 128 30, mask := bits v 64 64 }

/-- A stop record (R43). -/
def stopOf (v : Nat) : StopRec :=
  { cycle := bits v 96 32, stopId := bits v 80 16, manifest := bits v 64 16, swing := bitAt v 1, stepEnd := bitAt v 0 }

/-- A claim table entry (R45). -/
def claimOf (v : Nat) : Claim :=
  { hbmLines := bits v 0 16, perPc := bits v 16 16, sBytes := (upFrom 0 8).map fun i => bits v (32 + 16 * i) 16
    loaderMask := bits v 160 16 }

/-- The whole manifests back to back from an offset to an end, with the numbers of their headers and ranges; by fuel (R44). -/
def manifestNats (g : Img) : Nat → Nat → Nat → List (Nat × List Nat)
  | 0, _, _ => []
  | k + 1, o, e =>
    if e < o + 8 then []
    else
      let h := imgNat g o 8
      let n := bits h 32 16
      if e < o + 8 + 8 * n then []
      else (h, (upFrom 0 n).map fun i => imgNat g (o + 8 + 8 * i) 8) :: manifestNats g k (o + 8 + 8 * n) e

/-- The manifests of an image as numbers. -/
def imgManifests (g : Img) : List (Nat × List Nat) := manifestNats g (secLen g 4 / 8) (secOff g 4) (secOff g 4 + secLen g 4)

/-- A range of a manifest: local address and lines (R44). -/
def manRange (v : Nat) : Nat × Nat := (64 * bits v 34 30, bits v 12 22)

/-- A manifest (R44). -/
def manifestOf (x : Nat × List Nat) : Manifest :=
  { stopId := bits x.1 48 16, live := bits x.1 0 32, ranges := x.2.map manRange }

/-! ### Layers, groups, combines, collectives (R125, R133, R146, R150, R194) -/

/-- A layer descriptor (R125). -/
def layerOf (v : Nat) : LayerDesc :=
  { index := bits v 0 16, kind := bits v 16 8, selMode := bits v 24 8, gating := bits v 32 8, k := bits v 40 8
    threshMax := bits v 48 8, overflow := bits v 56 8, experts := bits v 64 16, shared := bits v 80 8, flags := bits v 88 8
    capacity := bits v 96 16, dmUnits := bits v 112 16, threshold := bits v 128 32, gateScale := bits v 160 32
    reserved := bits v 192 32, scoreLayout := bits v 256 64, biasBase := bits v 320 64, routerBase := bits v 384 64
    cultureBase := bits v 448 64, pairBase := bits v 512 64 }

/-- HeaderCount and EntryCount of the group tables section (R133). -/
def groupCounts (g : Img) : Nat × Nat := (imgNat g (secOff g 7) 2, imgNat g (secOff g 7 + 2) 2)

/-- The separation headers as numbers. -/
def sepNats (g : Img) : List Nat :=
  if hasSec g 7 then (upFrom 0 (groupCounts g).1).map fun i => imgNat g (secOff g 7 + 16 + 64 * i) 64 else []

/-- A separation header (R133). -/
def sepHdrOf (v : Nat) : SepHdr :=
  { layer := bits v 0 8, tagBase := bits v 64 64, weightBase := bits v 128 64, listBase := bits v 192 64, expBase := bits v 256 64
    tokBase := bits v 320 64, shListBase := bits v 384 64, shTagBase := bits v 448 64 }

/-- The group table entries as numbers. -/
def entryNats (g : Img) : List Nat :=
  if hasSec g 7 then
    (upFrom 0 (groupCounts g).2).map fun i => imgNat g (secOff g 7 + 16 + 64 * ((groupCounts g).1 + i)) 64
  else []

/-- A group table entry (R146). -/
def entryOf (v : Nat) : GroupEntry :=
  { shared := bitAt v 15, expert := bits v 0 10, layer := bits v 16 8, kind := bits v 24 8, tpMask := bits v 32 16
    type := bits v 48 8, rows := bits v 64 16, kb := bits v 80 16, nb := bits v 96 16, rowStart := bits v 112 16
    act := bits v 128 64, w1 := bits v 192 64, w2 := bits v 256 64, w3 := bits v 320 64, mid := bits v 384 64, out := bits v 448 64 }

/-- The combine descriptors as numbers. -/
def combineNats (g : Img) : List Nat :=
  if hasSec g 7 then
    (upFrom 0 (groupCounts g).1).map fun i =>
      imgNat g (secOff g 7 + 16 + 64 * ((groupCounts g).1 + (groupCounts g).2 + i)) 64
  else []

/-- A combine descriptor (R150). -/
def combineDescOf (v : Nat) : Combine :=
  { layer := bits v 0 8, outType := bits v 8 8, addRes := bitAt v 16, outLay := bits v 64 64, resLay := bits v 128 64 }

/-- A collective program (R194). -/
def collOf (v : Nat) : Coll :=
  { kind := bits v 0 8, type := bits v 8 8, layer := bits v 16 8, rowBytes := bits v 32 32, claimFwd := bits v 64 16
    claimBwd := bits v 80 16, src := bits v 128 64, dst := bits v 192 64, recv := bits v 256 64 }

/-- The Movement that an image holds. -/
def movementOf (g : Img) : Movement :=
  { grade := imgNat g 5 1, faultPolicy := bitAt (imgNat g 6 2) 0, ringJob := bitAt (imgNat g 6 2) 1, clusterMask := imgNat g 0xE 1
    slipLimit := imgNat g 0xF 1, stepBudget := imgNat g 0x10 2, layerCount := imgNat g 0x12 2, stepCycles := imgNat g 0x14 4
    ringSize := imgNat g 0x18 1, stopInterval := imgNat g 0x19 1, blockWait := (upFrom 0 5).map fun i => imgNat g (0x1C + 4 * i) 4
    tracks := ((upFrom 0 128).map fun t => (t, (trackNats g t).map trackOf)).filter fun x => !x.2.isEmpty
    tiles := (recNats g 2 32).map tileOf, stops := (recNats g 3 16).map stopOf, manifests := (imgManifests g).map manifestOf
    claims := (recNats g 5 32).map claimOf, layers := (recNats g 6 128).map layerOf, seps := (sepNats g).map sepHdrOf
    entries := (entryNats g).map entryOf, combines := (combineNats g).map combineDescOf, code := recNats g 8 16
    colls := if hasSec g 9 then (recNats g 9 64).map collOf else [] }

/-! ### The checks of R47 -/

/-- Reason 1: Magic and HeaderCrc. -/
def admMagic (g : Img) : Bool := imgNat g 0 4 == 0x4D4A4C47 && imgNat g 0x7C 4 == crc32c (memRead g.mem g.base 0x7C)

/-- The section types of R40. -/
def knownSec (ty : Nat) : Bool := decide (1 ≤ ty) && decide (ty ≤ 9)

/-- Reason 4 on one section: its place, its CRC, its type, its only occurrence. That an Offset off its 64 B alignment has reason 4, as a
track offset off 8 B and a CodeOffset off 16 B do in `admRefs`, is the model's choice (DESIGN CHOICE, log 86). -/
def admSection (g : Img) (x : Section) : Bool :=
  x.off % 64 == 0 && decide (x.off + x.len ≤ g.len) && x.crc == crc32c (memRead g.mem (g.base + x.off) x.len) &&
    (knownSec x.type || !bitAt x.flags 0) && (g.secs.filter fun y => y.type == x.type).length == 1

/-- The sections that an image must hold (R40). -/
def admPresent (g : Img) (m : Movement) : Bool :=
  ([1, 2, 3, 5, 6, 8].all (hasSec g)) && (!(m.stops.any fun x => x.manifest != 0xFFFF) || hasSec g 4) &&
    (!(m.layers.any fun d => d.kind == 1) || hasSec g 7) && ((rdvPrograms m.code).isEmpty || hasSec g 9)

/-- The references of reason 4. -/
def admRefs (g : Img) (m : Movement) : Bool :=
  decide (1024 ≤ secLen g 1) &&
  ((upFrom 0 128).all fun t =>
    let x := trackIx g t
    x.2 == 0 || (x.1 % 8 == 0 && decide (x.1 + 8 * x.2 ≤ secLen g 1))) &&
  (m.tracks.all fun x => x.2.all fun e => decide (e.tile < m.tiles.length)) &&
  (m.tiles.all fun h => decide (h.claim < m.claims.length) && h.codeOff % 16 == 0 &&
    decide (h.codeOff + 16 * h.codeLen ≤ secLen g 8)) &&
  (m.stops.all fun x => x.manifest == 0xFFFF || decide (x.manifest < m.manifests.length))

/-- Reason 4. -/
def admSections (g : Img) (m : Movement) : Bool :=
  decide (128 + 16 * g.secs.length ≤ g.len) && decide (1 ≤ g.secs.length) && decide (g.secs.length ≤ 32) &&
    g.secs.all (admSection g) && admPresent g m && admRefs g m

/-- Reason 5. -/
def admRanges (s : State) (m : Movement) : Bool :=
  decide (1 ≤ m.stepBudget) && decide (m.stepBudget ≤ 16384) && decide (1 ≤ m.layerCount) && decide (m.layerCount ≤ 256) &&
    decide (1 ≤ m.stopInterval) && decide (m.stopInterval ≤ 32) && m.clusterMask != 0 &&
    (if m.ringJob then m.ringSize == cfgVal s 0x0601 && m.ringSize != 0 else m.ringSize == 1)

/-- StopInterval in core cycles (R28). -/
def stopSpan (s : State) (m : Movement) : Nat := coreOfNs s (1000 * m.stopInterval)

/-- Reason 6. -/
def admCeilings (s : State) (m : Movement) : Bool :=
  m.tiles.all fun h => decide (h.cost + 64 ≤ 64 * h.ceiling) && decide (64 * h.ceiling ≤ stopSpan s m)

/-- Strictly rising numbers. -/
def rising : List Nat → Bool
  | a :: b :: t => decide (a < b) && rising (b :: t)
  | _ => true

/-- The gaps of R47, reason 8: from 0 to the first stop and from stop to stop. -/
def gapsOk (span : Nat) : Nat → List StopRec → Bool
  | _, [] => true
  | a, x :: t => decide (x.cycle ≤ a + span) && gapsOk span x.cycle t

/-- A track of R41: starts rise, each start after the previous tile's ceiling, Last on the final entry alone. -/
def trackOk (m : Movement) : List TrackEntry → Bool
  | a :: b :: t => !a.last && decide (a.start < b.start) && decide (a.start + 64 * (tileHdr m a.tile).ceiling ≤ b.start) && trackOk m (b :: t)
  | [a] => a.last
  | [] => true

/-- No tile of a track crosses a stop (R43). -/
def stopsClear (m : Movement) (es : List TrackEntry) : Bool :=
  es.all fun e => m.stops.all fun x => decide (x.cycle ≤ e.start) || decide (e.start + 64 * (tileHdr m e.tile).ceiling + 64 ≤ x.cycle)

/-- Exactly the last stop has StepEnd. -/
def stepEndLast : List StopRec → Bool
  | [] => false
  | [x] => x.stepEnd
  | x :: t => !x.stepEnd && stepEndLast t

/-- Reason 8. -/
def admTracks (s : State) (m : Movement) : Bool :=
  gapsOk (stopSpan s m) 0 m.stops &&
    (m.tracks.all fun x => trackOk m x.2 && stopsClear m x.2 && bitAt m.clusterMask (clusterOf x.1)) &&
    rising (m.stops.map (·.stopId)) && rising (m.stops.map (·.cycle)) && stepEndLast m.stops

/-- The S bytes that a claim entry gives a link. -/
def claimS (m : Movement) (i n : Nat) : Nat := nth ((m.claims[i]?).getD {}).sBytes n

/-- The intervals of the tiles of a Movement: start, end, claim (R36). -/
def tileSpans (m : Movement) : List (Nat × Nat × Nat) :=
  m.tracks.flatMap fun x => x.2.map fun e =>
    let h := tileHdr m e.tile
    (e.start, e.start + 64 * h.ceiling, h.claim)

/-- A Movement's claim on a link (R36). -/
def linkClaim (m : Movement) (n : Nat) : Nat :=
  let xs := tileSpans m
  maxNat (xs.map fun x => sumNat ((xs.filter fun y => decide (y.1 ≤ x.1) && decide (x.1 < y.2.1)).map fun y => claimS m y.2.2 n))

/-- The Loader channels of a Movement's claim entries. -/
def loaderUse (m : Movement) : Nat := m.claims.foldl (fun a c => a ||| c.loaderMask) 0

/-- The other resident jobs. -/
def otherJobs (s : State) (j : Nat) : List Job := ((residents s).filter (· != j)).map (getJob s)

/-- Reason 9. -/
def admClaims (s : State) (j p : Nat) (m : Movement) : Bool :=
  (m.claims.all fun c => decide (c.hbmLines ≤ 22528) && decide (c.perPc ≤ 352) && c.sBytes.all fun b => decide (b ≤ 45000)) &&
  ((upFrom 0 8).all fun n => decide (linkClaim m n + sumNat ((otherJobs s j).map fun x => linkClaim (jobMov x) n) ≤ 45000)) &&
  (!partitioned s || (otherJobs s j).all fun x => jobPart x == p || (loaderUse m &&& loaderUse (jobMov x)) == 0)

/-- The one region of R44 that holds `n` bytes from `a`: HBM, or a Vat, thread store, operand buffer or accumulators of a
cluster of the mask. -/
def liveRegion (mask a n : Nat) : Bool :=
  match regionKind a n with
  | some 0 => true
  | some 1 => bitAt mask (vatCluster a)
  | some 2 => bitAt mask (clusterOf ((a - 0xD_0000_0000) / 0x4_0000))
  | some 3 =>
    let o := (a - 0xD_0200_0000) % 0x1_0000
    bitAt mask (clusterOf ((a - 0xD_0200_0000) / 0x1_0000)) && (decide (o + n ≤ 0x8000) || decide (0x8000 ≤ o))
  | _ => false

/-- Ranges no two of which share a byte. -/
def disjointAll : List (Nat × Nat) → Bool
  | [] => true
  | x :: t => (t.all fun y => !overlap x.1 x.2 y.1 y.2) && disjointAll t

/-- A manifest of R44. -/
def manifestOk (m : Movement) (x : Manifest) : Bool :=
  let bs := x.ranges.map fun r => (r.1, 64 * r.2)
  decide (1 ≤ x.ranges.length) && decide (x.ranges.length ≤ 4096) && (x.ranges.all fun r => r.2 != 0) &&
    sumNat (x.ranges.map (·.2)) == x.live && disjointAll bs && bs.all fun r => liveRegion m.clusterMask r.1 r.2

/-- Reason 10. -/
def admManifests (g : Img) (m : Movement) : Bool :=
  m.manifests.all (manifestOk m) &&
    (m.stops.all fun x => x.manifest == 0xFFFF || ((m.manifests[x.manifest]?).map fun y => y.stopId == x.stopId).getD false) &&
    sumNat (m.manifests.map fun x => 8 + 8 * x.ranges.length) == secLen g 4

/-! ### Reason 11: layers (R125, R126) -/

/-- FP32 bits of a finite number (R125). -/
def finite32 (v : Nat) : Bool := bits v 23 8 != 255

/-- The bytes of a layer's scoring copy: d_model rows of 32 × ceil(E / 32) BF16 columns (R111). -/
def copyBytes (d : LayerDesc) : Nat := 128 * d.dmUnits * (alignUp d.experts 32 * 2)

/-- A scoring copy, whole in HBM or a Vat (R111, R125). -/
def copyPlace (d : LayerDesc) : Bool :=
  d.routerBase % 64 == 0 && (inHbm d.routerBase (copyBytes d) || inVat d.routerBase (copyBytes d))

/-- A MoE layer descriptor of R125 and R126. -/
def moeOk (m : Movement) (d : LayerDesc) : Bool :=
  let m0 := d.selMode == 0
  decide (d.selMode ≤ 2) && decide (d.gating ≤ 2) &&
  (if m0 then decide (1 ≤ d.k) && decide (d.k ≤ 16) && decide (d.k ≤ d.experts) && d.threshMax == 0
   else d.k == 0 && decide (1 ≤ d.threshMax) && decide (d.threshMax ≤ 32)) &&
  (if d.selMode == 2 then d.overflow == 0
   else bits d.overflow 4 4 == 0 &&
    (if bitAt d.overflow 0 then bits d.overflow 1 3 == 0 else decide (1 ≤ bits d.overflow 1 3) && decide (bits d.overflow 1 3 ≤ 4))) &&
  decide (1 ≤ d.experts) && decide (d.experts ≤ 1024) && decide (d.shared ≤ 8) && bits d.flags 2 2 != 3 &&
  bits d.flags 5 3 == 0 && decide (1 ≤ d.capacity) && decide (d.capacity ≤ 16384) && decide (1 ≤ d.dmUnits) &&
  decide (d.dmUnits ≤ 128) && (if d.selMode == 1 then finite32 d.threshold else d.threshold == 0) &&
  finite32 d.gateScale && decide (0 < d.gateScale) && decide (d.gateScale < 2 ^ 31) &&
  decide (1 ≤ d.reserved) && decide (d.reserved ≤ 524288) && inVat d.scoreLayout 64 && d.scoreLayout % 64 == 0 &&
  (if biasOn d then inVat d.biasBase (4 * d.experts) && d.biasBase % 64 == 0 else d.biasBase == 0) && copyPlace d &&
  (if isPlastic d then d.cultureBase != 0 && d.cultureBase % 64 == 0 && inHbm d.cultureBase 128 else d.cultureBase == 0) &&
  inVat d.pairBase (64 + 8 * d.reserved) && d.pairBase % 64 == 0 && bitAt m.clusterMask (vatCluster d.pairBase) &&
  (!m0 || decide (min (m.stepBudget * d.k) (d.experts * d.capacity) ≤ d.reserved)) &&
  (d.selMode != 2 || decide (min (d.experts * d.capacity) (m.stepBudget * d.threshMax) ≤ d.reserved))

/-- A layer descriptor of R125, with its number: reserved fields 0, and every field from 0x03 on 0 in Kind 0. -/
def layerOk (m : Movement) (i v : Nat) : Bool :=
  let d := layerOf v
  d.index == i && (if d.kind = 0 then v / 2 ^ 24 == 0
    else d.kind == 1 && bits v 224 32 == 0 && bits v 576 448 == 0 && moeOk m d)

/-- Reason 11. -/
def admLayers (g : Img) (m : Movement) : Bool :=
  secLen g 6 == 128 * m.layerCount && (recNats g 6 128).zipIdx.all fun x => layerOk m x.2 x.1

/-! ### Reason 12: group tables (R133, R134, R146) -/

/-- A separation header of R133 and R134, with its number. -/
def sepOk (m : Movement) (v : Nat) : Bool :=
  let h := sepHdrOf v
  let d := layerAt m h.layer
  let rs := sepRegions m d h
  bits v 8 56 == 0 && d.kind == 1 && (rs.all fun r => r.1 % 64 == 0 && inVat r.1 r.2) &&
    disjointAll ((d.pairBase, 64 + 8 * d.reserved) :: rs) && (d.shared != 0 || (h.shListBase == 0 && h.shTagBase == 0))

/-- A multiple of 32. -/
def mul32 (n : Nat) : Bool := n % 32 == 0

/-- A group table entry of R146, with its number. -/
def groupOk (m : Movement) (v : Nat) : Bool :=
  let e := entryOf v
  let d := layerAt m e.layer
  bits v 10 5 == 0 && d.kind == 1 && decide (e.expert < if e.shared then d.shared else d.experts) && decide (e.kind ≤ 2) &&
    e.tpMask != 0 && ([1, 2, 3, 4].contains e.type || (e.type == 6 && e.kind == 0)) && bits v 56 8 == 0 &&
    mul32 e.rows && decide (32 ≤ e.rows) && decide (e.rows ≤ 16384) && decide (1 ≤ e.kb) && decide (e.kb ≤ 512) &&
    (e.kind == 0 || 32 * e.kb == dModel d) && decide (1 ≤ e.nb) && decide (e.nb ≤ 512) && mul32 e.rowStart &&
    (e.kind != 0 || (e.w2 == 0 && e.w3 == 0 && e.mid == 0))

/-- Row ranges, sorted by start, that follow each other from `a` to `e`. -/
def tiled (e : Nat) : Nat → List (Nat × Nat) → Bool
  | a, [] => a == e
  | a, x :: t => x.1 == a && tiled e (a + x.2) t

/-- The entries of one expert cover its rows exactly (R134). -/
def expertTiled (m : Movement) (layer : Nat) (shared : Bool) (e rows : Nat) : Bool :=
  let es := m.entries.filter fun x => x.layer == layer && x.shared == shared && x.expert == e
  tiled rows 0 (sortBy (fun a b : Nat × Nat => decide (a.1 < b.1)) (es.map fun x => (x.rowStart, x.rows)))

/-- The reserved fields of a combine descriptor, which the section's reserved fields take in (R134, R150). -/
def combineClear (v : Nat) : Bool := bits v 17 47 == 0 && bits v 192 320 == 0

/-- Reason 12. -/
def admGroups (g : Img) (m : Movement) : Bool :=
  !hasSec g 7 ||
    (decide ((groupCounts g).2 ≤ 2048) && imgNat g (secOff g 7 + 4) 12 == 0 &&
      secLen g 7 == 16 + 64 * (2 * (groupCounts g).1 + (groupCounts g).2) &&
      (m.layers.zipIdx.all fun x => (m.seps.filter fun h => h.layer == x.2).length == if x.1.kind = 1 then 1 else 0) &&
      (sepNats g).all (sepOk m) && (entryNats g).all (groupOk m) && (combineNats g).all combineClear &&
      m.seps.all fun h =>
        let d := layerAt m h.layer
        ((upFrom 0 d.experts).all fun e => expertTiled m h.layer false e (alignUp d.capacity 32)) &&
          (upFrom 0 d.shared).all fun e => expertTiled m h.layer true e (alignUp m.stepBudget 32))

/-! ### Reasons 13 and 14: combines and collectives (R150, R151, R194, R200) -/

/-- A combine descriptor of R150, with its number and the layer of its separation header. Its layouts lie in Vat and are
read when CMB issues (R163). -/
def combineOk (m : Movement) (v layer : Nat) : Bool :=
  let c := combineDescOf v
  c.layer == layer && (c.outType == 5 || (c.outType == 3 && m.ringSize == 1)) && combineClear v &&
    inVat c.outLay 64 && c.outLay % 64 == 0 && (if c.addRes then inVat c.resLay 64 && c.resLay % 64 == 0 else c.resLay == 0)

/-- Reason 13. -/
def admCombines (g : Img) (m : Movement) : Bool :=
  ((combineNats g).zip (m.seps.map (·.layer))).all (fun x => combineOk m x.1 x.2) &&
    m.entries.all fun e => e.type != 6 && (e.kind != 0 || 32 * e.nb == dModel (layerAt m e.layer))

/-- A region of a collective program (R194). -/
def collRegion (a n : Nat) : Bool := a % 64 == 0 && inVat a n

/-- A program entry of R194, with its number; `me` is the chip's slice index. -/
def collOk (m : Movement) (me v : Nat) : Bool :=
  let c := collOf v
  let n := m.ringSize
  let all := m.stepBudget * c.rowBytes
  decide (c.kind ≤ 1) && decide (1 ≤ c.type) && decide (c.type ≤ 7) && (c.kind == 0 || c.type == 5) && bits v 24 8 == 0 &&
    (decide (c.layer < m.layerCount) || c.layer == 0xFF) &&
    c.rowBytes % 64 == 0 && decide (64 ≤ c.rowBytes) && decide (c.rowBytes ≤ 65536) && decide (1 ≤ c.claimFwd) &&
    decide (c.claimFwd ≤ 45000) && decide (1 ≤ c.claimBwd) && decide (c.claimBwd ≤ 45000) && bits v 96 32 == 0 && bits v 320 192 == 0 &&
    (if c.kind = 0 then c.src == 0 && c.recv == 0 && collRegion c.dst all
     else collRegion c.src all && collRegion c.dst (blockLen m n me * c.rowBytes) && collRegion c.recv (4 * halfBytes m c n))

/-- The transfer time of a program in beats (R199). -/
def collTime (m : Movement) (c : Coll) : Nat :=
  let n := m.ringSize
  let s := min c.claimFwd c.claimBwd
  let h := halfBytes m c n
  max (cdiv ((n - 1) * h) s) (2 * (n - 2) + cdiv h s) + 1

/-- A tile that names a program by RDV claims its bytes and waits long enough (R199, R200). -/
def rdvOk (s : State) (m : Movement) (h : TileHdr) (prog : Nat) : Bool :=
  match m.colls[prog]? with
  | none => false
  | some c =>
    let of_ := fun role => match linkOfRole s role with
      | some n => claimS m h.claim n
      | none => 0
    decide (c.claimFwd ≤ of_ 1) && decide (c.claimBwd ≤ of_ 2) &&
      decide (collTime m c + 2 ≤ h.rvWindow)

/-- Reason 14. -/
def admColls (s : State) (g : Img) (m : Movement) : Bool :=
  !hasSec g 9 ||
    (secLen g 9 % 64 == 0 && decide (2 ≤ m.ringSize) && (recNats g 9 64).all (collOk m (cfgVal s 0x0602)) &&
      m.tiles.all fun h => (rdvPrograms (tileCode m h)).all (rdvOk s m h))

/-! ### Reason 15: queue waits (R91) -/

/-- The cost of a block operation of an instruction word, by block in the order of BlockWait: Selector, Separator, Churn,
Culture, Group Walker (R29). -/
def wordCost (mem : Table Byte) (m : Movement) (k w : Nat) : Nat :=
  let d := layerAt m (bits (wordImm w) 0 8)
  if k = 0 && wordOp w = 0x38 then 2 * cdiv (m.stepBudget * d.experts) 512 + 400
  else if k = 1 && wordOp w = 0x39 then 2 * cdiv d.reserved 64 + 600
  else if k = 2 && wordOp w = 0x3B then cdiv (churnA m d * dModel d) 2048 + 500
  else if k = 3 && wordOp w = 0x3C then cdiv (readPar mem d.cultureBase).budget 256 + 300
  else if k = 4 && wordOp w = 0x3A then
    sumNat (((m.entries.drop (bits (wordImm w) 0 16)).take (bits (wordImm w) 16 16)).map entryCost)
  else 0

/-- The longest operation of a block in a Movement. -/
def longestOp (mem : Table Byte) (m : Movement) (k : Nat) : Nat := maxNat (m.code.map (wordCost mem m k))

/-- Can two jobs share a block of a kind (R91). -/
def sharesBlock (s : State) (k : Nat) (p q : Nat) (m n : Movement) : Bool :=
  (if partitioned s then p != q else true) && (k != 4 || (m.clusterMask &&& n.clusterMask) != 0)

/-- The queue wait that others cause a job of partition p at a block. -/
def queueWait (s : State) (k p : Nat) (m : Movement) (others : List (Nat × Movement)) : Nat :=
  sumNat ((others.filter fun x => sharesBlock s k p x.1 m x.2).map fun x => longestOp s.mem x.2 k)

/-- Reason 15. -/
def admWaits (s : State) (j p : Nat) (m : Movement) : Bool :=
  let all := ((residents s).filter (· != j)).map fun i => (i, jobPart (getJob s i), jobMov (getJob s i))
  (upFrom 0 5).all fun k =>
    decide (queueWait s k p m (all.map (·.2)) ≤ nth m.blockWait k) &&
      all.all fun x =>
        let rest := (all.filter fun y => y.1 != x.1).map (·.2)
        let was := queueWait s k x.2.1 x.2.2 rest
        let now := queueWait s k x.2.1 x.2.2 ((p, m) :: rest)
        decide (now ≤ nth x.2.2.blockWait k) || now == was

/-! ### Reason 16: reserved fields -/

/-- Reason 16. -/
def admReserved (g : Img) : Bool :=
  bits (imgNat g 6 2) 2 14 == 0 && imgNat g 0x1A 2 == 0 && imgNat g 0x30 76 == 0 &&
    (g.secs.all fun x => bits x.flags 1 15 == 0) && ((upFrom 0 128).all fun t => (trackNats g t).all fun v => bits v 1 11 == 0) &&
    ((recNats g 2 32).all fun v => bits v 0 64 == 0) && ((recNats g 3 16).all fun v => bits v 2 62 == 0) &&
    ((imgManifests g).all fun x => x.2.all fun v => bits v 0 12 == 0) && (recNats g 5 32).all fun v => bits v 176 80 == 0

/-- The lowest reason that rejects an image, 0 for none (R47). -/
def admission (s : State) (j p : Nat) (g : Img) : Nat :=
  let m := movementOf g
  if !admMagic g then 1
  else if imgNat g 4 1 != 1 then 2
  else if imgNat g 5 1 != (if gradeOf s = 16 then 0x10 else 0x0C) then 3
  else if !admSections g m then 4
  else if !admRanges s m then 5
  else if !admCeilings s m then 6
  else if cfgVal s 0x0703 < m.stopInterval then 7
  else if !admTracks s m then 8
  else if !admClaims s j p m then 9
  else if !admManifests g m then 10
  else if !admLayers g m then 11
  else if !admGroups g m then 12
  else if !admCombines g m then 13
  else if !admColls s g m then 14
  else if !admWaits s j p m then 15
  else if !admReserved g then 16
  else 0

end Sys2Proof.Machine
end

