-- ==== Sys2Proof/Machine/StreamOps.lean ====
section
/-! DEFINITION. The shared operations of the serving loop (R211 to R231): completion entries, the submission commands, the
composition of a step, the commit, the partition reset. -/

namespace Sys2Proof.Machine

/-! ### Completions (R219, R220) -/

/-- Entries of a ring from its size register (R214). -/
def ringLen (sz : Nat) : Nat := 2 ^ sz

/-- The first stream of a partition and its count (R213, R214). -/
def streamRange (x : Stm) : Nat × Nat := (bits x.streams 0 12, bits x.streams 16 13)

/-- Is a stream ID in a partition's range (R213). -/
def ownsStream (x : Stm) (i : Nat) : Bool := decide ((streamRange x).1 ≤ i) && decide (i < (streamRange x).1 + (streamRange x).2)

/-- A completion entry without its Seq and Phase (R219). -/
structure Compl where
  kind   : Nat
  status : Nat
  stream : Nat
  step   : Nat
  pos    : Nat
  replay : Bool
  value  : Nat
  cookie : Nat
  client : Nat
  deriving DecidableEq, Repr

/-- The 32 B of a completion entry (R219). -/
def complBytes (p : Nat) (c : Compl) (seq : Nat) (phase : Bool) : List Byte :=
  leBytes 1 c.kind ++ leBytes 1 c.status ++ leBytes 2 c.stream ++ leBytes 4 c.step ++
    leBytes 4 (c.pos % 2 ^ 23 + b2n c.replay * 2 ^ 31) ++ leBytes 4 c.value ++ leBytes 4 c.cookie ++ leBytes 1 c.client ++
    leBytes 1 p ++ leBytes 2 0 ++ leBytes 4 seq ++ leBytes 4 (b2n phase * 2 ^ 31)

/-- A completion entry produced: written, or dropped when the ring is full (R220). -/
def complete (p : Nat) (c : Compl) (s : State) : State :=
  let x := getStm s p
  let n := ringLen x.cqSize
  let t := (x.cqTail + 1) % n
  if t = x.cqHead then
    let s1 := modStm p (fun x => { x with cqDrop := x.cqDrop + 1, cqSeq := inc32 x.cqSeq }) s
    if ownsStream x c.stream then modStream c.stream (fun y => { y with cqLost := true }) s1 else s1
  else
    modStm p (fun x => { x with cqTail := t, cqSeq := inc32 x.cqSeq, cqPhase := if t = 0 then !x.cqPhase else x.cqPhase })
      { s with hostMem := memWrite s.hostMem (x.cqBase + 32 * x.cqTail) (complBytes p c x.cqSeq x.cqPhase) }

/-- The completion interrupt after a build or commit that wrote entries (R220): the partition's vector of the physical
function, or vector 0 of its virtual function, listed as 64 + p (R397). -/
def complIrq (p : Nat) (before : State) (s : State) : State :=
  let x := getStm s p
  let wrote := (getStm before p).cqTail != x.cqTail
  if x.irq && wrote then raiseMsix (if cfgVal s 0x0D03 = 1 then 64 + p else p) s else s

/-! ### Submission commands (R212, R216) -/

/-- The partition's access ranges: those of its jobs (R237). -/
def partRanges (s : State) (p : Nat) : List (Nat × Nat) := (partJobs s p).flatMap fun j => jobRanges (getJob s j)

/-- Bytes in HBM within the partition's access ranges (R216, status 6). -/
def partHolds (s : State) (p a n : Nat) : Bool := inHbm a n && covered (partRanges s p) a n

/-- The state that RESUME gives a stream (R212). -/
def resumeState (y : Stream) : Nat := if y.pos < y.prompt then 2 else if 0 < y.newCount then 3 else 1

/-- The first value of REWARD's layer range and the last (R268). -/
def rewardLayers (c : SubCmd) : Nat × Nat := (bits c.arg1.toNat 0 8, bits c.arg1.toNat 8 8)

/-- The states from which an Op is permitted (R216). -/
def opPermitted (op : Nat) (y : Stream) : Bool :=
  if op = 1 then y.state == 0
  else if op = 2 then y.state == 1 || y.state == 2 || (y.state == 4 && y.newCount == 0)
  else if op = 3 then y.state == 1 || y.state == 2 || y.state == 3
  else if op = 4 then y.state == 4
  else if op = 5 then y.state != 0
  else true

/-- The arguments of an Op are within their ranges (R216, R268, status 6). -/
def opArgsOk (s : State) (p op : Nat) (c : SubCmd) (y : Stream) : Bool :=
  if op = 1 then
    let maxPos := bits c.arg2.toNat 0 23
    decide (1 ≤ maxPos) && decide (maxPos ≤ 4194304) && bits c.arg2.toNat 23 9 == 0 && partHolds s p c.arg0.toNat 1 &&
      c.arg1.toNat % 4 == 0 && partHolds s p c.arg1.toNat 4
  else if op = 2 then
    let n := bits c.arg1.toNat 0 17
    c.arg0.toNat % 4 == 0 && decide (1 ≤ n) && decide (n ≤ 65536) && decide (y.prompt + n ≤ y.maxPos) &&
      partHolds s p (y.prBase + 4 * y.prompt) (4 * n)
  else if op = 6 then decide ((rewardLayers c).1 ≤ (rewardLayers c).2)
  else true

/-- The status of a submission, the lowest that applies (R216). -/
def subStatus (s : State) (p : Nat) (late : Bool) (e : SubEntry) : Nat :=
  let c := e.cmd
  let op := e.op.toNat
  let y := getStream s (c.stream.toNat % 4096)
  if op = 0 || 7 < op || c.flags != 0 || c.rsv0 != 0 || c.rsv1 != 0 || 4096 ≤ c.stream.toNat then 1
  else if op != 6 && !ownsStream (getStm s p) c.stream.toNat then 2
  else if !opPermitted op y then 3
  else if late then 4
  else if ringPart s p && c.effStep == 0 then 5
  else if !opArgsOk s p op c y then 6
  else 0

/-- The effect of a submission with status 0 (R216). -/
def subEffect (p : Nat) (e : SubEntry) (s : State) : State :=
  let c := e.cmd
  let i := c.stream.toNat
  let y := getStream s i
  let x := getStm s p
  match e.op.toNat with
  | 1 => modStream i (fun y =>
      { state := 1, endReason := y.endReason, part := p, client := c.client.toNat, maxPos := bits c.arg2.toNat 0 23
        maxNew := bits c.arg2.toNat 32 32, kvBase := c.arg0.toNat, prBase := c.arg1.toNat, stopIds := c.arg3.toNat }) s
  | 2 =>
    let n := bits c.arg1.toNat 0 17
    let toks := (upFrom 0 n).flatMap fun k => leBytes 4 ((e.tokens[k]?).getD 0).toNat
    let s1 := storeMem (y.prBase + 4 * y.prompt) toks s
    let s2 := if y.prompt = 0 then modStm p (fun x => { x with admits := inc32 x.admits }) s1 else s1
    modStream i (fun y => { y with
      state := if y.state = 1 then 2 else y.state, prompt := y.prompt + n
      admitSeq := if y.prompt = 0 then x.admits else y.admitSeq }) s2
  | 3 => modStream i (fun y => { y with state := 4 }) s
  | 4 => modStream i (fun y => { y with state := resumeState y }) s
  | 5 => modStream i (fun y => { y with state := 0, endReason := 4 }) s
  | 6 =>
    let r : Reward := { step := x.step, first := (rewardLayers c).1, last := (rewardLayers c).2, value := signed 32 (bits c.arg0.toNat 0 32) }
    { s with cul.applied := tmod [] s.cul.applied p (fun l => (l.filter fun z => z.step == x.step) ++ [r]) }
  | _ => s

/-- One submission applied at a build: its effect, or its refusal; its completion. The end entry of a CANCEL waits for the commit (R220;
the next one when no step is built, log 86). -/
def applySub (p : Nat) (s : State) (z : SubEntry × Bool) : State :=
  let e := z.1
  let i := e.cmd.stream.toNat
  let st := subStatus s p z.2 e
  let before := getStream s i
  let n := (getStm s p).step
  let s1 := if st = 0 then subEffect p e s else modStm p (fun x => { x with sqErr := x.sqErr + 1 }) s
  let y := if ownsStream (getStm s p) i then getStream s1 i else {}
  let s2 := complete p { kind := 1, status := st, stream := i % 4096, step := n, pos := y.pos, replay := y.replay, value := e.op.toNat,
                         cookie := e.cmd.cookie.toNat, client := e.cmd.client.toNat } s1
  if st = 0 && e.op == 5 then modStm p (fun x => { x with ends := x.ends ++ [(i, before.pos, before.replay, before.client)] }) s2 else s2

/-- Is a pending entry applied at the build of step n (R217). -/
def subDue (n : Nat) (z : SubEntry × Bool) : Bool := z.2 || z.1.cmd.effStep == 0 || stepDue n z.1.cmd.effStep.toNat

/-- The pending entries that are due, applied in ring order (R217). -/
def applyDue (p : Nat) (s : State) : State :=
  let x := getStm s p
  (x.pend.filter (subDue x.step)).foldl (applySub p) (modStm p (fun y => { y with pend := y.pend.filter fun z => !subDue x.step z }) s)

/-! ### The composition of a step (R222, R224) -/

/-- The streams of a partition in a state, with their IDs, ascending. -/
def streamsIn (s : State) (p st : Nat) : List (Nat × Stream) :=
  s.streams.filter fun e => e.2.state == st && e.2.part == p && ownsStream (getStm s p) e.1

/-- Decode streams in the order of R222: least recently committed first, as seen from step n. -/
def decodeOrder (n : Nat) (xs : List (Nat × Stream)) : List (Nat × Stream) :=
  let age := fun y : Stream => (n + 2 ^ 32 - y.commit) % 2 ^ 32
  sortBy (fun a b => decide (age b.2 < age a.2) || (age a.2 == age b.2 && decide (a.1 < b.1))) xs

/-- A prompt token of a stream. -/
def promptToken (s : State) (y : Stream) (pos : Nat) : Nat := memNat s.mem (y.prBase + 4 * pos) 4

/-- The rows of one prefill stream for a chunk of tokens. -/
def prefillRows (s : State) (e : Nat × Stream) (c : Nat) : List Row :=
  (upFrom 0 c).map fun k =>
    let pos := e.2.pos + k
    { stream := e.1, kv := e.2.kvBase, emit := pos + 1 == e.2.prompt, decode := false, first := k == 0, pos := pos
      token := promptToken s e.2 pos, client := e.2.client }

/-- The prefill rows of streams in order, within a number of tokens. -/
def fillPrefill (s : State) (chunk : Nat) : Nat → List (Nat × Stream) → List Row
  | _, [] => []
  | left, e :: t =>
    let c := min chunk (min (e.2.prompt - e.2.pos) left)
    prefillRows s e c ++ fillPrefill s chunk (left - c) t

/-- The rows of a step of `budget` tokens (R222). -/
def composeStep (s : State) (p budget : Nat) : List Row :=
  let x := getStm s p
  let d := (decodeOrder x.step (streamsIn s p 3)).take budget
  let dec := d.map fun e : Nat × Stream =>
    { stream := e.1, kv := e.2.kvBase, emit := true, decode := true, first := true, pos := e.2.pos, token := e.2.lastTok
      client := e.2.client : Row }
  let pre := sortBy (fun a b : Nat × Stream => decide (a.2.admitSeq < b.2.admitSeq)) (streamsIn s p 2)
  dec ++ fillPrefill s (cfgVal s 0x0801) (min (budget - dec.length) (cfgVal s 0x0802)) pre

/-- Would the next build of a partition have Live 0 (R223, R244). -/
def buildsNothing (s : State) (p budget : Nat) : Bool := (composeStep (applyDue p s) p budget).isEmpty

/-- A token entry of the step record (R224). -/
def rowBytes (r : Row) : List Byte :=
  leBytes 16 (r.stream % 4096 * 2 ^ 112 + r.kv % 2 ^ 48 * 2 ^ 64 + b2n r.emit * 2 ^ 63 + b2n r.decode * 2 ^ 62 + b2n r.first * 2 ^ 61 +
    r.pos % 2 ^ 22 * 2 ^ 32 + r.token % 2 ^ 32)

/-- The step record (R224). -/
def stepRecord (p n budget start : Nat) (rows : List Row) : List Byte :=
  let dec := (rows.filter fun r => r.decode).length
  leBytes 4 n ++ leBytes 1 0 ++ leBytes 1 p ++ leBytes 2 rows.length ++ leBytes 2 dec ++ leBytes 2 (rows.length - dec) ++
    leBytes 2 (rows.filter fun r => r.first).length ++ leBytes 2 (rows.filter fun r => r.emit).length ++ leBytes 8 start ++
    List.replicate 40 0 ++ (rows.map rowBytes).flatten ++ List.replicate (16 * (budget - rows.length)) 0

/-- The streams of some rows are locked (R229). -/
def lockRows (p : Nat) (rows : List Row) (s : State) : State :=
  let ids := (rows.map (·.stream)).eraseDups
  { s with streams := s.streams.map fun e =>
      (e.1, if ids.contains e.1 then { e.2 with locked := true, lockEpoch := (getStm s p).pepoch } else e.2) }

/-! ### The commit (R226) -/

/-- The result of a token index (R225). -/
def resultOf (s : State) (p budget i : Nat) : Nat := memNat s.mem ((getStm s p).srBase + 64 + 16 * budget + 4 * i) 4

/-- The end reason of a stream after a commit, 0 for none, in the precedence of R226. -/
def endReasonOf (y : Stream) (emitted : Option Nat) : Nat :=
  let stop := match emitted with
    | some r => [bits y.stopIds 0 32, bits y.stopIds 32 32].any fun x => x != 0xFFFFFFFF && x == r
    | none => false
  if stop then 1
  else if y.maxNew != 0 && y.newCount == y.maxNew then 2
  else if y.pos == y.maxPos then 3
  else 0

/-- One stream of a step committed (R226). -/
def commitStream (p n budget : Nat) (rows : List (Row × Nat)) (s : State) (i : Nat) : State :=
  let mine := rows.filter fun r => r.1.stream == i
  let y := getStream s i
  let emit := mine.find? fun r => r.1.emit
  let res := emit.map fun r => resultOf s p budget r.2
  let y1 := { y with
    pos := y.pos + mine.length, commit := n, locked := false, lockEpoch := 0
    lastTok := res.getD y.lastTok, newCount := if emit.isSome then y.newCount + 1 else y.newCount
    state := if emit.isSome && y.pos + mine.length == y.prompt && y.state == 2 then 3 else y.state }
  let s1 := modStream i (fun _ => y1) s
  let s2 := match emit, res with
    | some r, some v => complete p { kind := 2, status := 0, stream := i, step := n, pos := r.1.pos, replay := y.replay, value := v, cookie := 0,
                                     client := y.client } s1
    | _, _ => s1
  let why := endReasonOf y1 res
  let s3 := if why = 0 then s2 else
    complete p { kind := 3, status := 0, stream := i, step := n, pos := y1.pos, replay := y.replay, value := why, cookie := 0
                 client := y.client } (modStream i (fun y => { y with state := 0, endReason := why }) s2)
  modStream i (fun y => { y with replay := false }) s3

/-- The end entries of a stream's CANCELs, at a commit of step n (R219, R220). -/
def endCancelled (p n i : Nat) (s : State) : State :=
  ((getStm s p).ends.filter fun x => x.1 == i).foldl (fun s x =>
    complete p { kind := 3, status := 0, stream := i, step := n, pos := x.2.1, replay := x.2.2.1, value := 4, cookie := 0
                 client := x.2.2.2 } s) s

/-- One stream at a commit: the end of what was cancelled, then its rows of the step (R220, R226). -/
def commitOne (p n budget : Nat) (rows : List (Row × Nat)) (s : State) (i : Nat) : State :=
  let s1 := endCancelled p n i s
  if rows.any fun r => r.1.stream == i then commitStream p n budget rows s1 i else s1

/-- The streams of a built step, and those cancelled, committed in ascending ID (R220, R226); the step number is the partition's. -/
def commitStreams (p budget : Nat) (s : State) : State :=
  let x := getStm s p
  match x.built with
  | none => s
  | some b =>
    let ids := sortBy (fun a b : Nat => decide (a < b)) (b.rows.map (·.stream) ++ x.ends.map (·.1)).eraseDups
    complIrq p s (modStm p (fun y => { y with built := none, building := false, ends := [] })
      (ids.foldl (commitOne p x.step budget b.rows.zipIdx) s))

/-! ### The partition reset (R230) -/

/-- A job's step is abandoned without a fault: its work is dropped and charged, an attempt in a ring partition too (R240, R253), and
its run starts anew. -/
def abandonStep (j : Nat) (s : State) : State :=
  let s1 := if (getJob s j).run.active then telBound (jobPart (getJob s j)) (chargeStep j false (chargeAttempt j s)) else s
  modJob j (fun x => { x with run := {}, attempt := 0 }) (abandonCulture j (dropWork j (haltJob j s1)))

/-- The reset of a partition (R230). -/
def resetPart (p : Nat) (s : State) : State :=
  let s1 := match servingJob s p with
    | some j => abandonStep j s
    | none => s
  modStm p (fun x => { x with pepoch := (x.pepoch + 1) % 65536, pend := [], ends := [], sqHead := x.sqTail, idle := false }) (releaseLocks p true s1)

end Sys2Proof.Machine
end

