-- ==== Sys2Proof/Machine/Sched.lean ====
section
/-! DEFINITION. The Share Scheduler (R232 to R251): switches with their saves and restores, the job commands. -/

namespace Sys2Proof.Machine

/-! ### Switches (R244 to R249) -/

/-- Save or restore cost of L lines under a job's SwitchClaim (R104, R245). -/
def switchCost (s : State) (j lines : Nat) : Nat :=
  let q := (((jobMov (getJob s j)).claims[jobClaim (getJob s j)]?).getD {}).hbmLines
  farCycles s + beatCycles s * cdiv lines q

/-- A job's block operations and Loader descriptors that run or wait (R245, step 1). -/
def jobBusy (s : State) (j : Nat) : Bool :=
  (s.blk.queues.any fun q => q.2.any fun o => o.slot == j) || s.blk.channels.any fun c => (c.2.map fun o => o.slot == j).getD false

/-- The ranges of the manifest that a stop of a job names, empty for 0xFFFF (R43, R44). -/
def stopRanges (m : Movement) (ix : Nat) : List (Nat × Nat) :=
  match m.stops[ix]? with
  | none => []
  | some x => match m.manifests[x.manifest]? with
    | none => []
    | some y => savedRanges y

/-- The outgoing job's save begins; the incoming job comes at once when nothing is to be saved and nothing of the outgoing
job runs on (R245). -/
def beginSave (p j : Nat) (inc : Option Nat) (due : Option Nat) (s : State) : State :=
  modPart p (fun x => { x with sw := some { outSlot := some j, inSlot := inc, stage := 1, lines := 0, due := due } }) s

/-- A job leaves its partition: Installed when a Preempt took it, Ready otherwise. -/
def jobLeaves (j : Nat) (s : State) : State :=
  modJob j (fun x => { x with
    state := if x.preempt then 1 else 2, preempt := false, preStep := none, readyAt := s.clk.fleet }) s

/-- The Preempt of a job takes effect at the end of step n, or at any switch point of a job that is not a ring job. -/
def preemptDue (x : Job) (n : Nat) : Bool := x.preempt && (!jobRing x || x.preStep == some n)

/-- The choice at a switch point in partitioned mode (R241, R244, R249): `n` is the step that ended, `ix` the stop, `idle`
whether the next build has Live 0, `due` is T(n + 1) of a ring job. -/
def switchPoint (p j n ix : Nat) (idle : Bool) (due : Option Nat) (s : State) : State :=
  let x := getJob s j
  let pt := getPart s p
  let spent := if jobRing x then decide (cfgVal s 0x0706 ≤ pt.runSteps) else decide (pt.runFrom + 1000 * cfgVal s 0x0704 ≤ s.clk.fleet)
  let out := preemptDue x n
  let others := (candidates s p).filter (· != j)
  if !(spent || out || (idle && !others.isEmpty)) then s
  else
    let pick := if out then (sortBy (vtLess s) others).head? else chooseJob s p
    if pick = some j then modPart p (fun y => { y with runFrom := s.clk.fleet, runSteps := 0 }) s
    else
      let rs := stopRanges (jobMov x) ix
      let s1 := modJob j (fun y => { y with saved := some rs }) (countPre j s)
      match due with
      | none => beginSave p j pick none s1
      | some t =>
        modStm p (fun y => { y with nextSw := if pick.isSome then t + 16000 * cfgVal s 0x0707 else 0 })
          (modPart p (fun y => { y with sw := some { outSlot := some j, inSlot := pick, stage := 0, lines := 0, due := some t } }) s1)

/-- The uncorrectable line that a save or restore reads, reported (R364, R381). -/
def switchEcc (cause : Nat) (src : List (Nat × Nat)) (s : State) : State :=
  match src.find? fun r => lineBad s r.1 r.2 with
  | some r => if cause = 2 then eccEvent 2 (badAddr s r.1 r.2) 4 s else s
  | none => s

/-- A fault of a save (0) or a restore (1): 1 an access fault, 2 an uncorrectable line, 3 a save area out of range; a step under way
ends and is charged, and the next choice runs (R246, R253). -/
def switchFault (p j which cause : Nat) (s : State) : State :=
  let ended := if (getJob s j).run.active then telBound p (abandonCulture j s) else s
  let s1 := post 0x04 4 2 (pl1 j ++ pl1 which ++ pl1 cause)
    (modJob j (fun x => { x with state := 4, run := {}, saved := none, preempt := false, preStep := none, attempt := 0 })
      (chargeStep j false ended))
  startNext p (some j) (modPart p (fun x => { x with running := none, sw := none }) s1)

/-- What stops a save or a restore, 0 for nothing: `rs` are the saved ranges, `src` the ranges read. -/
def switchCause (s : State) (j : Nat) (rs src : List (Nat × Nat)) : Nat :=
  let x := getJob s j
  let bytes := rs.map fun r => (r.1, 64 * r.2)
  if !(bytes.all fun r => !inVat r.1 r.2 || covered (jobRanges x) r.1 r.2) then 1
  else if src.any fun r => lineBad s r.1 r.2 then 2
  else if !inHbm x.save (64 * rangeLines rs) then 3
  else 0

/-- The bytes of ranges of lines, in range order. -/
def rangeBytes (mem : Table Byte) (rs : List (Nat × Nat)) : List Byte := rs.flatMap fun r => memRead mem r.1 (64 * r.2)

/-- Bytes spread over ranges of lines, in range order. -/
def spread : List (Nat × Nat) → List Byte → State → State
  | [], _, s => s
  | r :: t, bs, s => spread t (bs.drop (64 * r.2)) (storeMem r.1 (bs.take (64 * r.2)) s)

/-- The lines that a save or restore of a job is charged, by pseudo-channel: those of its save area (R32, R245). -/
def switchLines (s : State) (j lines : Nat) : List (Nat × Nat) := chargeLines (64 * lines / 2048 + 2) (getJob s j).save (64 * lines)

/-- A save or restore of a job made: its cycles and its HBM bytes (R245, R252). -/
def countSwitch (j lines : Nat) (s : State) : State :=
  modJob j (fun x => { x with
    switched := x.switched + switchCost s j lines
    run := { x.run with hbmBytes := x.run.hbmBytes + 64 * sumNat ((switchLines s j lines).map (·.2)) } })
    (passNs (nsOfCore s (switchCost s j lines)) s)

/-- The incoming job of a switch: the one chosen while it is still Ready, else the one that R241 chooses now. -/
def incoming (s : State) (p : Nat) (inc : Option Nat) : Option Nat :=
  match inc with
  | some j => if (candidates s p).contains j then some j else chooseJob s p
  | none => none

/-- A save is made, and the incoming job's restore or run begins (R245). -/
def saveDone (p : Nat) (w : Switch) (j : Nat) (s : State) : State :=
  let rs := ((getJob s j).saved).getD []
  let lines := rangeLines rs
  let cause := switchCause s j rs (rs.map fun r => (r.1, 64 * r.2))
  if lines = 0 then
    let s1 := modPart p (fun x => { x with running := none }) (jobLeaves j s)
    bringIn p (some j) (incoming s1 p w.inSlot) 0 w.due s1
  else if cause != 0 then switchFault p j 0 cause (switchEcc cause (rs.map fun r => (r.1, 64 * r.2)) s)
  else
    let s1 := storeMem (getJob s j).save (rangeBytes s.mem rs) (countSwitch j lines s)
    let s2 := modPart p (fun x => { x with running := none }) (jobLeaves j s1)
    bringIn p (some j) (incoming s2 p w.inSlot) lines w.due s2

/-- SAVE_COMPLETE: the outgoing job's manifest lines are saved and the incoming job's restore begins (R245). -/
def execSaveComplete (p : Fin 8) (s : State) : Out :=
  run (fun s =>
    match (getPart s p).sw with
    | some w => match w.outSlot with
      | some j => if w.stage = 1 && !jobBusy s j && coreRuns s then saveDone p w j s else s
      | none => s
    | none => s) s

/-- A restore is made, and the job's run begins (R57, R245). -/
def restoreDone (p : Nat) (w : Switch) (j : Nat) (s : State) : State :=
  let rs := ((getJob s j).saved).getD []
  let lines := rangeLines rs
  let cause := switchCause s j rs [((getJob s j).save, 64 * lines)]
  if cause != 0 then switchFault p j 1 cause (switchEcc cause [((getJob s j).save, 64 * lines)] s)
  else
    let bs := memRead s.mem (getJob s j).save (64 * lines)
    let s1 := spread rs bs (zeroTps (getPart s p).mask (countSwitch j lines s))
    switchEvent p w.outSlot (some j) w.lines lines (beginRun p j s1)

/-- RESTORE_COMPLETE: the incoming job's saved lines are restored and its first tile can begin (R245). -/
def execRestoreComplete (p : Fin 8) (s : State) : Out :=
  run (fun s =>
    match (getPart s p).sw with
    | some w => match w.inSlot with
      | some j => if w.stage = 2 && coreRuns s && !s.flt.chipClass then restoreDone p w j s else s
      | none => s
    | none => s) s

/-- RING_SWITCH: at T(n + 1) the outgoing ring job's save begins (R249). -/
def execRingSwitch (p : Fin 8) (s : State) : Out :=
  run (fun s =>
    match (getPart s p).sw with
    | some w =>
      if w.stage = 0 then modPart p (fun x => { x with sw := some { w with stage := 1 } }) (advanceOpt w.due s) else s
    | none => s) s

/-! ### Commands (R235) -/

/-- The outcome of a command: its status, and an event when it is refused (R235, R254). -/
def jobStatus (j cmd st : Nat) (s : State) : State :=
  postIf (st != 0) 0x04 1 1 (pl1 j ++ pl1 cmd ++ pl1 st) (modJob j (fun x => { x with status := st }) s)

/-- A write to a slot's register that is ignored; the offset is from the block base (R234, R254). -/
def schIgnored (j off : Nat) (s : State) : State := post 0x04 5 1 (pl1 j ++ pl4 (0x8000 + 0x200 * j + off)) s

/-- A command with its status and, when that is 0, its effect; ignored in Holding (R235, R330). -/
def jobCommand (j cmd : Nat) (st : State → Nat) (act : State → State) (s : State) : State :=
  if s.pwr.state == .holding then schIgnored j 0x20 s
  else if st s = 0 then jobStatus j cmd 0 (act s)
  else jobStatus j cmd (st s) s

/-- A Ready job is considered at once: it begins when nothing of its partition runs, or asks for its unit (R241, R242). -/
def offerJob (j : Nat) (s : State) : State :=
  if partitioned s then startNext (jobPart (getJob s j)) none s else askUnit j s

/-- The lines that the largest save of a Movement copies (R236). -/
def saveLines (m : Movement) : Nat := maxNat (m.manifests.map fun x => rangeLines (savedRanges x))

/-- A job's save area: address and bytes. -/
def saveArea (x : Job) (m : Movement) : Nat × Nat := (x.save, 64 * saveLines m)

/-- The Balance Log ring: address and bytes (R144). -/
def balanceRing (s : State) : Nat × Nat := (cfgVal s 0x0804, 64 * cfgVal s 0x0805)

/-- Do two lists of ranges share a byte. -/
def listsMeet (xs ys : List (Nat × Nat)) : Bool := xs.any fun x => ys.any fun y => overlap x.1 x.2 y.1 y.2

/-- Does a field of a slot's registers lie out of its range (R234, status 2). -/
def badFields (s : State) (x : Job) : Bool :=
  !(getPart s (jobPart x)).enabled || jobShares x = 0 || 1024 < jobShares x || !inHbm x.mov 128 || x.save % 64 != 0 ||
    (jobRanges x).any fun r => r.1 % 64 != 0 || r.2 % 64 != 0

/-- Does a field not fit the Movement: its image in HBM, its clusters, its SwitchClaim (R234, R236, status 2). An image that R47 rejects
has no Movement to compare with. -/
def badMovement (s : State) (x : Job) (m : Movement) : Bool :=
  !inHbm x.mov (memNat s.mem (x.mov + 8) 4) || (m.clusterMask &&& (getPart s (jobPart x)).mask) != m.clusterMask ||
    ((m.claims[jobClaim x]?).map (·.hbmLines)).getD 0 = 0

/-- The range checks of R236 (status 4). -/
def rangeConflict (s : State) (j : Nat) (x : Job) (m : Movement) : Bool :=
  let rs := jobRanges x
  let pt := getPart s (jobPart x)
  let others := otherJobs s j
  let hbm := rs.filter fun r => inHbm r.1 r.2
  let vat := rs.filter fun r => !inHbm r.1 r.2
  let saves := saveArea x m :: others.map fun y => saveArea y (jobMov y)
  !(rs.all fun r => inHbm r.1 r.2 || (inVat r.1 r.2 && bitAt pt.mask (vatCluster r.1))) ||
    (others.any fun y => listsMeet hbm (jobRanges y)) || listsMeet hbm saves || listsMeet hbm [balanceRing s] ||
    (!partitioned s &&
      ((others.any fun y => listsMeet vat (jobRanges y) || (x.thr &&& y.thr) != 0) || m.tiles.any fun h => (h.mask &&& x.thr) != h.mask)) ||
    !inHbm x.save (64 * saveLines m) || listsMeet [saveArea x m] (others.flatMap jobRanges)

/-- The mode conflicts of R235 (status 5). -/
def modeConflict (s : State) (x : Job) (m : Movement) : Bool :=
  (jobRing x && !partitioned s) || jobRing x != m.ringJob || (jobServing x && (servingJob s (jobPart x)).isSome)

/-- The Movement image that a slot names. -/
def slotImage (s : State) (j : Nat) : Img := readImg s.mem (getJob s j).mov

/-- The status of an Install, the lowest that applies (R235, R236); what is compared with the Movement comes after its admission (log 86). -/
def installStatus (j : Nat) (s : State) : Nat :=
  let x := getJob s j
  let m := movementOf (slotImage s j)
  if x.state != 0 then 1
  else if badFields s x then 2
  else if admission s j (jobPart x) (slotImage s j) != 0 then 3
  else if badMovement s x m then 2
  else if rangeConflict s j x m then 4
  else if modeConflict s x m then 5
  else 0

/-- A Movement is rejected: its reason is reported (R47). -/
def rejectEvent (j : Nat) (s : State) : State :=
  if s.pwr.state != .holding && installStatus j s == 3 then post 0x04 6 1 (pl1 j ++ pl1 (admission s j (jobPart (getJob s j)) (slotImage s j))) s else s

/-- A slot takes its job: Installed, its counts and its step number 0 (R234, R239). -/
def installJob (j : Nat) (s : State) : State :=
  modJob j (fun x =>
    { ctl := x.ctl, mov := x.mov, save := x.save, arg := x.arg, thr := x.thr, ranges := x.ranges, state := 1
      movement := some (movementOf (slotImage s j)) }) s

/-- INSTALL: admits the Movement and checks the ranges (R236). -/
def cmdInstall (j : Nat) (s : State) : State :=
  jobCommand j 1 (installStatus j) (installJob j) (rejectEvent j s)

/-- INSTALL (R235). -/
def execInstall (slot : Fin 64) (s : State) : Out := run (cmdInstall slot.val) s

/-- A StartSwing that is no multiple of a swing is out of range; one less than two swings away is too near (R234, R235). -/
def swingStatus (s : State) (x : Job) : Nat :=
  if x.arg % 16000 != 0 then 2 else if x.arg < s.clk.fleet + 32000 then 6 else 0

/-- The status of a Start. -/
def startStatus (j : Nat) (s : State) : Nat :=
  let x := getJob s j
  if x.state != 1 then 1 else if jobRing x then swingStatus s x else 0

/-- START: an Installed job becomes Ready; a ring job becomes Ready at StartSwing (R235). -/
def cmdStart (j : Nat) (s : State) : State :=
  jobCommand j 2 (startStatus j) (fun s =>
    let x := getJob s j
    if jobRing x then modJob j (fun x => { x with startSw := some x.arg }) s
    else offerJob j (makeReady j true s)) s

/-- START (R235). -/
def execStart (slot : Fin 64) (s : State) : Out := run (cmdStart slot.val) s

/-- The status of a Preempt: the step that a ring job's Preempt names is at least two swings away, where its partition has a start
swing to count from (R235, R249). -/
def preemptStatus (j : Nat) (s : State) : Nat :=
  let x := getJob s j
  let t := (getStm s (jobPart x)).nextSw
  let d := (bits x.arg 0 32 + 2 ^ 32 - jobStep s j) % 2 ^ 32
  if x.state != 2 && x.state != 3 then 1
  else if jobRing x && (decide (2 ^ 31 ≤ d) || (t != 0 && decide (t + 16000 * (d * stepSwings s (jobMov x)) < s.clk.fleet + 32000))) then 6
  else 0

/-- The restore of a job runs (R245). -/
def restoring (s : State) (j : Nat) : Bool :=
  match (getPart s (jobPart (getJob s j))).sw with
  | some w => w.stage == 2 && w.inSlot == some j
  | none => false

/-- PREEMPT: a Running job, and one whose restore runs, leaves at its next switch point; another Ready one is not on its TPs and
becomes Installed, its wait counted (R235, R252). -/
def cmdPreempt (j : Nat) (s : State) : State :=
  jobCommand j 3 (preemptStatus j) (fun s =>
    modJob j (fun x =>
      if x.state = 2 && !restoring s j then { x with
        state := 1, asking := false, granted := false, startSw := none, waitNs := x.waitNs + (s.clk.fleet - x.readyAt) }
      else { x with preempt := true, preStep := if jobRing x then some (bits x.arg 0 32) else none }) s) s

/-- PREEMPT (R235). -/
def execPreempt (slot : Fin 64) (s : State) : Out := run (cmdPreempt slot.val) s

/-- The status of a Remove. -/
def removeStatus (j : Nat) (s : State) : Nat := let x := getJob s j; if x.state = 1 || x.state = 4 then 0 else 1

/-- A partition that has ceased to be a ring partition has no start swing (R214, R233). -/
def endSwings (p : Nat) (s : State) : State := if ringPart s p then s else modStm p (fun y => { y with nextSw := 0 }) s

/-- REMOVE: the slot is Empty, its ranges free, its Culture state gone, a step that it left under way charged; its RW registers keep
what was written (R235, R253). -/
def cmdRemove (j : Nat) (s : State) : State :=
  jobCommand j 4 (removeStatus j) (fun s =>
    let p := jobPart (getJob s j)
    let s1 := chargeStep j false (if (getJob s j).run.active then telBound p s else s)
    endSwings p (modJob j (fun x => { ctl := x.ctl, mov := x.mov, save := x.save, arg := x.arg, thr := x.thr, ranges := x.ranges })
      { s1 with cul.prog := s1.cul.prog.filter fun x => x.2.slot != j })) s

/-- REMOVE (R235). -/
def execRemove (slot : Fin 64) (s : State) : Out := run (cmdRemove slot.val) s

/-- The status of a Restart. -/
def restartStatus (j : Nat) (s : State) : Nat :=
  let x := getJob s j
  if x.state != 4 then 1 else if jobRing x then swingStatus s x else 0

/-- The thread stores of a job's threads read as 0 (interleaved mode, R247). -/
def zeroThreads (thr : Nat) (s : State) : State :=
  { s with mem := s.mem.filter fun x =>
      !(decide (0xD_0000_0000 ≤ x.1) && decide (x.1 < 0xD_0200_0000) && bitAt thr ((x.1 - 0xD_0000_0000) % 0x4_0000 / 0x1000)) }

/-- RESTART: a Faulted job runs its uncommitted step again from Movement time 0 (R247). -/
def cmdRestart (j : Nat) (s : State) : State :=
  jobCommand j 5 (restartStatus j) (fun s =>
    let x := getJob s j
    let s1 := if jobServing x then resetPart (jobPart x) s else s
    let s2 := modJob j (fun y => { y with saved := none, run := {} }) s1
    let s3 := if partitioned s then s2 else zeroThreads x.thr s2
    if jobRing x then modJob j (fun y => { y with startSw := some y.arg }) s3 else offerJob j (makeReady j false s3)) s

/-- RESTART (R235). -/
def execRestart (slot : Fin 64) (s : State) : Out := run (cmdRestart slot.val) s

/-- A ring job does not become Ready: the chip fences itself, a ring neighbour is fenced, or a restore of this chip is not
done (R371, R373, R379). -/
def ringHeld (s : State) : Bool :=
  s.flt.selfFence || s.flt.chipClass || (neighbours s).any (isFenced s) || (s.flt.remap.target && s.flt.remap.state == 1)

/-- JOB_READY: a ring job becomes Ready when its StartSwing arrives; with nothing running, its run begins then (R221, R235). -/
def execJobReady (slot : Fin 64) (s : State) : Out :=
  run (fun s =>
    let x := getJob s slot
    let p := jobPart x
    match x.startSw with
    | none => s
    | some t =>
      if (x.state != 1 && x.state != 4) || ringHeld s then s
      else
        let s1 := makeReady slot (x.state == 1) (freeRing p (advanceTo t s))
        let free := (getPart s1 p).running.isNone && (getPart s1 p).sw.isNone
        startNext p none (if free then modStm p (fun y => { y with nextSw := t }) s1 else s1)) s

end Sys2Proof.Machine
end

