-- ==== Sys2Proof/Machine/Streams.lean ====
section
/-! DEFINITION. The commands of the serving loop (R211 to R231): doorbells, submissions, the build, ring setup, resets. -/

namespace Sys2Proof.Machine

/-- A doorbell that is ignored (R214, R402). -/
def doorbellIgnored (p idx head : Nat) (s : State) : State := post 0x06 2 1 (pl1 p ++ pl4 idx ++ pl4 head) s

/-- A write to an STM register that is ignored; the offset is from the block base (R214, R402). -/
def stmIgnored (p off : Nat) (s : State) : State := post 0x06 1 1 (pl1 p ++ pl4 (0x1000 * p + off)) s

/-- The distance from one ring index to another. -/
def ringGap (n a b : Nat) : Nat := (b + n - a % n) % n

/-- A write of STM_SQTAIL: it moves, unless more than n − 1 entries would be in flight (R214). -/
def writeSqTail (p idx : Nat) (s : State) : State :=
  let x := getStm s p
  let n := ringLen x.sqSize
  let t := idx % n
  if n - 1 - ringGap n x.sqHead x.sqTail < ringGap n x.sqTail t then doorbellIgnored p idx x.sqHead s
  else modStm p (fun y => { y with sqTail := t, idle := false }) s

/-- DOORBELL (R214, R218). -/
def execDoorbell (p : Fin 8) (idx : BitVec 32) (s : State) : Out := run (writeSqTail p.val idx.toNat) s

/-- Has a ring entry's step passed when it is read (R216, R217). -/
def entryLate (s : State) (p : Nat) (e : SubEntry) : Bool :=
  let x := getStm s p
  let eff := e.cmd.effStep
  ringPart s p && eff != 0 && stepDue x.step eff.toNat && (eff.toNat != x.step || x.built.isSome)

/-- The 64 B of a submission entry taken apart (R215), with the tokens that an APPEND brings (R217). -/
def subEntryOf (v : BitVec 512) (tokens : List (BitVec 32)) : SubEntry :=
  { op := v.extractLsb' 0 8
    cmd := {
      flags := v.extractLsb' 8 8, stream := v.extractLsb' 16 16, client := v.extractLsb' 32 8, rsv0 := v.extractLsb' 40 24
      effStep := v.extractLsb' 64 32, cookie := v.extractLsb' 96 32, arg0 := v.extractLsb' 128 64, arg1 := v.extractLsb' 192 64
      arg2 := v.extractLsb' 256 64, arg3 := v.extractLsb' 320 64, rsv1 := v.extractLsb' 384 128 }
    tokens := tokens }

/-- SUBMISSION_READ: the next entry of the ring joins the pending queue (R217). -/
def execSubmissionRead (p : Fin 8) (r : SubRead) (s : State) : Out :=
  run (fun s =>
    let x := getStm s p
    let e := subEntryOf r.entry r.tokens
    if x.enable && x.sqHead != x.sqTail && decide (x.pend.length < 1024) then
      modStm p (fun y => { y with sqHead := (y.sqHead + 1) % ringLen y.sqSize, pend := y.pend ++ [(e, entryLate s p e)] }) s
    else s) s

/-- One command as the Step Builder applies it at a build: while the partition holds no locks (R217, R229). -/
def applyNow (p : Fin 8) (op : Nat) (c : SubCmd) (tokens : List (BitVec 32)) (s : State) : State :=
  if (getStm s p).built.isSome then s
  else complIrq p s (applySub p s ({ op := BitVec.ofNat 8 op, cmd := c, tokens := tokens }, false))

/-- OPEN: a Free stream becomes Idle with its limits set (R216). -/
def execOpenStream (p : Fin 8) (c : SubCmd) (s : State) : Out := run (applyNow p 1 c []) s

/-- APPEND: prompt tokens are copied and PromptLen grows (R216). -/
def execAppendTokens (p : Fin 8) (c : SubCmd) (tokens : List (BitVec 32)) (s : State) : Out := run (applyNow p 2 c tokens) s

/-- PAUSE: the stream is held in Paused (R216). -/
def execPauseStream (p : Fin 8) (c : SubCmd) (s : State) : Out := run (applyNow p 3 c []) s

/-- RESUME: a Paused stream returns to Prefill, Decode or Idle (R212). -/
def execResumeStream (p : Fin 8) (c : SubCmd) (s : State) : Out := run (applyNow p 4 c []) s

/-- CANCEL: the stream ends with EndReason 4 (R216). -/
def execCancelStream (p : Fin 8) (c : SubCmd) (s : State) : Out := run (applyNow p 5 c []) s

/-- REWARD: a reward for a range of layers goes to the Culture (R268). -/
def execRewardStream (p : Fin 8) (c : SubCmd) (s : State) : Out := run (applyNow p 6 c []) s

/-- NOP: nothing but its completion (R216). -/
def execNopCommand (p : Fin 8) (c : SubCmd) (s : State) : Out := run (applyNow p 7 c []) s

/-! ### The build (R221 to R224, R229) -/

/-- The serving job of a partition that can build its next step. -/
def builder (s : State) (p : Nat) : Option Nat :=
  let x := getStm s p
  let pt := getPart s p
  match servingJob s p with
  | none => none
  | some j =>
    let y := getJob s j
    if x.enable && x.built.isNone && !x.idle && y.state == 3 && !y.run.active &&
        (if partitioned s then pt.running == some j && pt.sw.isNone else y.granted) then some j
    else none

/-- A build of Live 0 (R223): a ring partition moves T(n) by a swing; another waits, and is at a switch point (R244). -/
def idleBuild (p j : Nat) (s : State) : State :=
  let x := getJob s j
  if onSwings s j then modStm p (fun y => { y with nextSw := y.nextSw + 16000 }) s
  else
    let s1 := modStm p (fun y => { y with idle := true }) s
    if partitioned s then switchPoint p j (getStm s p).step ((jobMov x).stops.length - 1) true none s1 else s1

/-- A step is built: locks, the step record (R224, R229). The record is written when its region lies in a Vat (R214). -/
def buildStep (p j : Nat) (rows : List Row) (s : State) : State :=
  let x := getStm s p
  let budget := (jobMov (getJob s j)).stepBudget
  let start := if onSwings s j then max x.nextSw s.clk.fleet else s.clk.fleet
  let rec_ := stepRecord p x.step budget start rows
  let s1 := lockRows p rows (modStm p (fun y => { y with
    built := some { rows := rows, stepNo := y.step, lockNs := s.clk.fleet, startNs := start }, building := true }) s)
  if inVat x.srBase rec_.length then storeMem x.srBase rec_ s1 else s1

/-- STEP_BUILD: due commands are applied and the step is composed, locked and recorded (R222). -/
def execStepBuild (p : Fin 8) (s : State) : Out :=
  run (onTable 1 fun s =>
    match builder s p with
    | none => s
    | some j =>
      let s0 := if onSwings s j then advanceTo ((getStm s p).nextSw - 16000) s else s
      let s1 := applyDue p s0
      let rows := composeStep s1 p (jobMov (getJob s j)).stepBudget
      complIrq p s0 (if rows.isEmpty then idleBuild p j s1 else buildStep p j rows s1)) s

/-! ### Registers of the rings (R214) -/

/-- A write of STM_CQHEAD: entries are returned, unless the index would pass the tail (R214). -/
def writeCqHead (p idx : Nat) (s : State) : State :=
  let x := getStm s p
  let n := ringLen x.cqSize
  let h := idx % n
  if ringGap n x.cqHead x.cqTail < ringGap n x.cqHead h then doorbellIgnored p idx x.cqHead s
  else modStm p (fun y => { y with cqHead := h }) s

/-- STM_CQHEAD (R214). -/
def execStmCqhead (p : Fin 8) (idx : BitVec 32) (s : State) : Out := run (writeCqHead p.val idx.toNat) s

/-- A ring size as stored: clamped to a range (R214, R399). -/
def clampSize (hi v : Nat) : Nat := max 6 (min hi (v % 32))

/-- A write of STM_SQBASE or STM_SQSIZE, while Enable is 0; the indices become 0 (R214). -/
def writeSqSetup (p : Nat) (r : RingReg) (v : Nat) (s : State) : State :=
  if (getStm s p).enable then stmIgnored p (match r with
    | .base => 0x00
    | .size => 0x08) s
  else modStm p (fun y => match r with
    | .base => { y with sqBase := v / 64 * 64, sqHead := 0, sqTail := 0 }
    | .size => { y with sqSize := clampSize 16 v, sqHead := 0, sqTail := 0 }) s

/-- SUBMISSION_RING_SETUP (R214). -/
def execSubmissionRingSetup (p : Fin 8) (r : RingReg) (v : BitVec 64) (s : State) : Out := run (writeSqSetup p.val r v.toNat) s

/-- A write of STM_CQBASE or STM_CQSIZE, while Enable is 0; the indices become 0 and the next Phase 1 (R214). -/
def writeCqSetup (p : Nat) (r : RingReg) (v : Nat) (s : State) : State :=
  if (getStm s p).enable then stmIgnored p (match r with
    | .base => 0x20
    | .size => 0x28) s
  else modStm p (fun y => match r with
    | .base => { y with cqBase := v / 32 * 32, cqHead := 0, cqTail := 0, cqPhase := true }
    | .size => { y with cqSize := clampSize 16 v, cqHead := 0, cqTail := 0, cqPhase := true }) s

/-- COMPLETION_RING_SETUP (R214). -/
def execCompletionRingSetup (p : Fin 8) (r : RingReg) (v : BitVec 64) (s : State) : Out := run (writeCqSetup p.val r v.toNat) s

/-- PARTITION_RESET: STM_CTRL.Reset (R230). -/
def execPartitionReset (p : Fin 8) (s : State) : Out := run (resetPart p) s

/-- LOCK_LEASE_EXPIRY: a lock held beyond its lease resets the partition (R231). -/
def execLockLeaseExpiry (p : Fin 8) (stream : BitVec 12) (s : State) : Out :=
  run (fun s =>
    let y := getStream s stream.toNat
    match (getStm s p).built with
    | some b =>
      if y.locked && y.part == p.val then
        resetPart p (post 0x06 3 2 (pl1 p ++ pl2 stream.toNat ++ pl2 y.lockEpoch)
          (advanceTo (b.lockNs + 1000000 * cfgVal s 0x0803) s))
      else s
    | none => s) s

end Sys2Proof.Machine
end

