-- ==== Sys2Proof/Machine/Tiles.lean ====
section
/-! DEFINITION. Steps, tiles and stops (R17, R43, R46, R48 to R54, R69, R196 to R207, R221, R226, R239, R242). -/

namespace Sys2Proof.Machine

/-! ### The start of a step -/

/-- Can a job's work go on in its partition: Running, and in partitioned mode the one that runs, in interleaved mode granted
(R242, R244). -/
def mayRun (s : State) (j : Nat) : Bool :=
  let x := getJob s j
  let p := jobPart x
  coreRuns s && x.state == 3 &&
    (if partitioned s then (getPart s p).running == some j && (getPart s p).sw.isNone else x.granted)

/-- The jobs of a partition whose next step can start (R221, R242). -/
def starters (s : State) (p : Nat) : List Nat :=
  (partJobs s p).filter fun j =>
    let x := getJob s j
    mayRun s j && !x.run.active && (!jobServing x || (getStm s p).built.isSome)

/-- The programs that tiles starting from one cycle to another name by RDV (R198). -/
def rdvBetween (m : Movement) (a b : Nat) : List Nat :=
  m.tracks.flatMap fun x => (x.2.filter fun e => decide (a ≤ e.start) && decide (e.start < b)).flatMap fun e =>
    rdvPrograms (tileCode m (tileHdr m e.tile))

/-- The programs of the tiles before the next stop are armed; what an armed one has received stays (R198). -/
def armColls (j : Nat) (s : State) : State :=
  let x := getJob s j
  let m := jobMov x
  let from_ := if x.run.stopIx = 0 then 0 else ((m.stops[x.run.stopIx - 1]?).map (·.cycle)).getD 0
  match m.stops[x.run.stopIx]? with
  | none => s
  | some st => modRun j (fun r => { r with
      colls := (rdvBetween m from_ st.cycle).foldl (fun t k => if (tget {} t k).armed then t else tput t k { armed := true }) r.colls }) s

/-- The times of a TP's results forgotten: a new step counts from cycle 0 (R17), or another job takes the TP. -/
def freshTp (t : Tp) : Tp :=
  { t with pc := 0, nest := [], next := 0, ready := [], settled := 0, vatDone := 0, accReady := [], mmas := [], arriving := []
           statuses := [], wait := none, stalled := none }

/-- The TPs of a partition that ran a job last begin a step afresh. -/
def freshTps (j : Nat) (s : State) : State :=
  { s with tps := s.tps.map fun x => (x.1, if x.2.lastJob == some j && x.2.tile.isNone then freshTp x.2 else x.2) }

/-- The late-start event of a ring job's run (R249, R254). -/
def lateStart (j t : Nat) (s : State) : State :=
  postIf (decide (t < s.clk.fleet)) 0x04 3 1 (pl1 j ++ pl8 t ++ pl4 (sat32 ((s.clk.fleet - t) / 1000))) s

/-- A job's step starts: Movement time 0, at the start swing in a ring partition (R17, R221). -/
def startStep (p : Nat) (s : State) (j : Nat) : State :=
  let x := getJob s j
  let t := (getStm s p).nextSw
  let late := jobRing x && (getPart s p).runSteps == 0 && x.attempt == 0
  let s1 := if onSwings s j then advanceTo t (if late then lateStart j t s else s) else s
  let live := if jobServing x then (builtRows s p).length else (jobMov x).stepBudget
  armColls j (modPart p (fun y => { y with beatCy := 0 }) (takeView p
    (modRun j (fun r => { active := true, startNs := s1.clk.fleet, origin := s1.clk.fleet, live := live, hbmBytes := r.hbmBytes
                          linkBytes := r.linkBytes, engine := r.engine, energy := r.energy, colls := r.colls }) (freshTps j s1))))

/-- STEP_START: the step starts at the later of T(n) and the end of its build (R221). -/
def execStepStart (p : Fin 8) (s : State) : Out :=
  run (fun s => (starters s p).foldl (startStep p) s) s

/-! ### Claims that run (R34, R46, R245) -/

/-- The next track entry of a TP in a job's step, when it starts before the next stop. An entry that starts at or after the StepEnd
stop never begins: no check of R47 names it (DESIGN CHOICE, log 82). -/
def nextEntry (s : State) (j t : Nat) : Option TrackEntry :=
  let x := getJob s j
  match (tget [] (jobMov x).tracks t)[tget 0 x.run.cursor t]?, (jobMov x).stops[x.run.stopIx]? with
  | some e, some st => if e.start < st.cycle then some e else none
  | _, _ => none

/-- A claim entry of a job's Movement. -/
def jobClaimAt (s : State) (j i : Nat) : Claim := ((jobMov (getJob s j)).claims[i]?).getD {}

/-- The job whose lines a partition's switch copies now, once its block operations and descriptors have finished (R245). -/
def movingJob (s : State) (p : Nat) : Option Nat :=
  match (getPart s p).sw with
  | none => none
  | some w =>
    if w.stage = 2 then w.inSlot
    else if w.stage = 1 then w.outSlot.bind fun j => if jobBusy s j then none else some j
    else none

/-- A claim that runs: the serial number of its tile, or the partition whose switch copies lines under it; its job. -/
structure RunClaim where
  id    : Nat
  slot  : Nat
  claim : Claim

/-- The claims that run, each tile's once: those of running tiles, of running descriptors whose tile has ended, and of saves and
restores (R34, R46, R245). -/
def runningClaims (s : State) : List RunClaim :=
  let tiles := s.tps.filterMap fun x => x.2.tile.map fun r =>
    { id := r.id, slot := r.slot, claim := jobClaimAt s r.slot (tileHdr (jobMov (getJob s r.slot)) r.tile).claim : RunClaim }
  let loads := s.blk.channels.filterMap fun x => x.2.map fun o =>
    { id := o.tile, slot := o.slot, claim := jobClaimAt s o.slot o.claim : RunClaim }
  let moves := (upFrom 0 8).filterMap fun p => (movingJob s p).map fun j =>
    { id := p, slot := j, claim := jobClaimAt s j (jobClaim (getJob s j)) : RunClaim }
  (tiles ++ loads ++ moves).foldl (fun acc x => if acc.any fun y => y.id == x.id then acc else acc ++ [x]) []

/-- The two conditions of R46 for a tile of a job with a claim. -/
def claimFits (s : State) (j : Nat) (c : Claim) : Bool :=
  let cs := runningClaims s
  let add := fun f : Claim → Nat => sumNat (cs.map fun x => f x.claim) + f c
  let held := (cs.filter fun x => x.slot != j).any fun x => (x.claim.loaderMask &&& c.loaderMask) != 0
  let busy := s.blk.channels.any fun x => (x.2.map fun o => o.slot != j && bitAt c.loaderMask x.1).getD false
  decide (add (·.hbmLines) ≤ 22528) && decide (add (·.perPc) ≤ 352) &&
    ((upFrom 0 8).all fun n => decide (add (fun x => nth x.sBytes n) ≤ 45000)) && !held && !busy

/-! ### Tiles (R46, R48, R49, R243) -/

/-- The core cycle, counted from fleet time 0, from which a track entry of a job is due (R49). -/
def entryDue (s : State) (j : Nat) (e : TrackEntry) : Nat := runBase s j + e.start + (getJob s j).run.slip

/-- The cycles that a due tile waits for its TP, which another job's tile held (R243). -/
def tpWait (s : State) (j t : Nat) (e : TrackEntry) : Nat :=
  if (getTp s t).lastJob = some j then 0 else (getTp s t).freeAt - entryDue s j e

/-- Does a job's step stand between its stops, so that its tiles can begin. -/
def stepOpen (s : State) (j : Nat) : Bool := mayRun s j && (getJob s j).run.active && !(getJob s j).run.atStop

/-- Another job earlier in R241's order has a tile due on the TP by a core cycle, whose claim fits: it starts first (R243). -/
def earlierTile (s : State) (j t by_ : Nat) : Bool :=
  (candidates s 0).any fun k => k != j && vtLess s k j && stepOpen s k &&
    match nextEntry s k t with
    | some e => decide (entryDue s k e ≤ by_) && claimFits s k (jobClaimAt s k (tileHdr (jobMov (getJob s k)) e.tile).claim)
    | none => false

/-- A tile begins on a TP (R48, R49), under a serial number that holds its partition in [2:0]; operand buffers and accumulators do
not persist across another job's tile (R243). The engine time of a run counts from its first tile (R240). -/
def beginTile (t j : Nat) (e : TrackEntry) (s : State) : State :=
  let x := getJob s j
  let p := jobPart x
  let h := tileHdr (jobMov x) e.tile
  let old := getTp s t
  let other := old.lastJob.isSome && old.lastJob != some j
  let s1 := if other && !partitioned s then freeMatrix [t] s else s
  let b := max (e.start + x.run.slip) (if old.lastJob = some j then old.next else 0)
  let s2 := modTp t (fun tp =>
    { (if tp.lastJob = some j then tp else freshTp tp) with
      tile := some { slot := j, tile := e.tile, id := 8 * (s1.hbm.nextTile + 1) + p, began := b
                     ceilEnd := ((b + 64 * h.ceiling : Nat) : Int) - (x.run.slip : Int) }
      pc := 0, nest := [], next := b + 8, wait := none, stalled := none, lastJob := some j }) s1
  let s3 := modRun j (fun r => { r with cursor := tmod 0 r.cursor t (· + 1) })
    { s2 with hbm := { s2.hbm with nextTile := s2.hbm.nextTile + 1 } }
  noteCycle j b (modPart p (fun y => { y with began := true, charged := if y.began then y.charged else runBase s j + b }) s3)

/-- TILE_BEGIN: the TP's next tile begins at its StartCycle plus slip. In interleaved mode it begins once its claims and
Loader channels and the TP are free and no earlier job's tile is due there. Its wait, of `waited` core cycles at least, counts as
slip; one that the slip limit does not allow faults under either policy (R46, R243; DESIGN CHOICE, log 37). -/
def execTileBegin (t : Fin 128) (slot : Fin 64) (waited : Nat) (s : State) : Out :=
  run (fun s =>
    let x := getJob s slot
    match nextEntry s slot t with
    | none => s
    | some e =>
      let h := tileHdr (jobMov x) e.tile
      let w := max waited (tpWait s slot t e)
      if !stepOpen s slot || (getTp s t).tile.isSome then s
      else if partitioned s then beginTile t slot e s
      else if !claimFits s slot (jobClaimAt s slot h.claim) || earlierTile s slot t (entryDue s slot e + w) then s
      else
        let slip := x.run.slip + alignUp w 64
        if slipMax (jobMov x) < slip && w != 0 then faultJob slot (overrunEvent t e.tile w slip true s)
        else beginTile t slot e (modRun slot (fun r => { r with slip := slip }) s)) s

/-! ### Overruns (R48 to R54) -/

/-- The tile of a TP, whatever it waits for. -/
def tileAny (s : State) (t : Nat) : Option TileCtx :=
  let tp := getTp s t
  tp.tile.bind fun r =>
    if !coreRuns s then none
    else
      let j := getJob s r.slot
      some { t := t, slot := r.slot, tile := r, job := j, mov := jobMov j, hdr := tileHdr (jobMov j) r.tile, tp := tp }

/-- CEILING_OVERRUN: the ceiling counter reaches zero before the tile ends; the fault policy stops the TP, the slip policy
lets it run on (R48, R51, R53). -/
def execCeilingOverrun (t : Fin 128) (s : State) : Out :=
  run (fun s =>
    match tileAny s t with
    | none => s
    | some c =>
      if c.mov.faultPolicy then faultOverrun c s
      else if c.tile.overAt.isSome then s
      else modTp t (fun tp => { tp with
        tile := tp.tile.map fun r => { r with overAt := some (ctxSlip c) }
        next := if tp.wait.isSome then tp.next else max tp.next (movedEnd c).toNat }) s) s

/-- The TP waits in an RDV: program, fleet time and cycle of its entry, thread. -/
def rdvWait (c : TileCtx) : Option (Nat × Nat × Nat × Nat) :=
  match c.tp.wait with
  | some (.rdv prog f cy thr) => some (prog, f, cy, thr)
  | _ => none

/-- The longest overrun that the slip limit allows from a slip, plus one (R52). -/
def limitLen (m : Movement) (base : Nat) : Nat := slipMax m - base + 1

/-- SLIP_LIMIT_CROSSED: a running overrun pushes the slip past SlipLimit × 64 (R52, R53). -/
def execSlipLimitCrossed (t : Fin 128) (s : State) : Out :=
  run (fun s =>
    match tileAny s t with
    | none => s
    | some c =>
      if c.mov.faultPolicy then s
      else match rdvWait c with
        | some (prog, f, _, _) =>
          let len := limitLen c.mov ((tget {} c.job.run.colls prog).base.getD (ctxSlip c))
          faultJob c.slot (overrunEvent t c.tile.tile len (ctxSlip c) true
            (advanceTo (f + 1000 * c.hdr.rvWindow + nsOfCore s len) s))
        | none => if c.tile.overAt.isSome then faultOverrun c s else s) s

/-- RENDEZVOUS_OVERRUN: a rendezvous waits longer than W; under the slip policy its excess is counted when it completes
(R50, R51). -/
def execRendezvousOverrun (t : Fin 128) (s : State) : Out :=
  run (fun s =>
    match tileAny s t with
    | none => s
    | some c =>
      match rdvWait c with
      | none => s
      | some (prog, f, _, _) =>
        let s1 := advanceTo (f + 1000 * c.hdr.rvWindow) s
        if c.mov.faultPolicy then faultJob c.slot (overrunEvent t c.tile.tile 0 (ctxSlip c) true s1)
        else modRun c.slot (fun r => { r with colls := tmod {} r.colls prog (fun k =>
          { k with base := if k.base.isSome then k.base else some (ctxSlip c) }) }) s1) s

/-! ### Collectives (R199, R201) -/

/-- The end of an RDV: its wait in core cycles, what the ceiling counter keeps, the slip of an excess (R48, R50, R88). -/
def endRdv (c : TileCtx) (f cy thr : Nat) (base : Option Nat) (s : State) : State :=
  let e := max 1 (coreOfNs s (s.clk.fleet - f))
  let w := c.hdr.rvWindow * beatCycles s
  let x := e - w
  let b := base.getD (ctxSlip c)
  let raise := alignUp x 64
  if x != 0 && c.mov.faultPolicy then faultJob c.slot (overrunEvent c.t c.tile.tile 0 (ctxSlip c) true s)
  else if x != 0 && slipMax c.mov < b + raise then
    faultJob c.slot (overrunEvent c.t c.tile.tile (limitLen c.mov b) (ctxSlip c) true s)
  else
    let s1 := raiseSlip c.slot b x s
    let slip := (getJob s1 c.slot).run.slip
    let s2 := if x = 0 then s else overrunEvent c.t c.tile.tile x slip false s1
    resume c.t thr (cy + e) (modTp c.t (fun tp => { tp with
      tile := tp.tile.map fun r => { r with ceilEnd := r.ceilEnd + ((min e w + x : Nat) : Int) - ((slip - ctxSlip c : Nat) : Int) } }) s2)

/-- COLLECTIVE_COMPLETE: every row is written and every frame acknowledged; RDV is released (R199). -/
def execCollectiveComplete (slot : Fin 64) (prog : BitVec 16) (s : State) : Out :=
  run (fun s =>
    let k := prog.toNat
    let r := tget {} (getJob s slot).run.colls k
    if !r.running || r.done || !collReceived s slot k || !collAcked s k then s
    else match tileAny s r.tp with
      | none => s
      | some c => match rdvWait c with
        | some (p, f, cy, thr) =>
          if p = k && c.slot = slot.val then
            endRdv c f cy thr r.base (modRun slot (fun y => { y with
              colls := tput y.colls k { r with done := true, running := false, armed := false } }) s)
          else s
        | none => s) s

/-- COLLECTIVE_FAILED: a collective not complete at 4 × W beats after its RDV (R201). -/
def execCollectiveFailed (slot : Fin 64) (prog : BitVec 16) (s : State) : Out :=
  run (fun s =>
    let r := tget {} (getJob s slot).run.colls prog.toNat
    if r.running && !r.done then failColl slot prog.toNat (advanceTo (r.from_ + 4000 * r.window) s) else s) s

/-! ### Stops (R43, R69) -/

/-- Every tile of a job before a stop has begun and ended. -/
def tilesDone (s : State) (j : Nat) (cycle : Nat) : Bool :=
  let x := getJob s j
  (!(s.tps.any fun y => tpRuns j y.2)) && (jobMov x).tracks.all fun t =>
    decide ((t.2.filter fun e => decide (e.start < cycle)).length ≤ tget 0 x.run.cursor t.1)

/-- The HBM stores, and at StepEnd the block operations, that end after a cycle: TP, tile, how much later; the shortest first (R69,
R90). -/
def lateEnds (r : Run) (stepEnd : Bool) (cycle : Nat) : List (Nat × Nat × Nat) :=
  let xs := r.stores ++ if stepEnd then r.blockEnds else []
  let who := (xs.map fun x => (x.1, x.2.1)).eraseDups
  let late := who.map fun w => (w.1, w.2, maxNat ((xs.filter fun x => x.1 == w.1 && x.2.1 == w.2).map (·.2.2)) - cycle)
  sortBy (fun a b : Nat × Nat × Nat => decide (a.2.2 < b.2.2)) (late.filter fun x => x.2.2 != 0)

/-- Fleet time brought to a cycle of a job's step (R17). -/
def reachCycle (j cycle : Nat) (s : State) : State := advanceTo ((getJob s j).run.origin + nsOfCore s cycle) s

/-- One wait of a stop at a cycle, reported as the overrun of the tile that issued what it waits for; one that the policy does not
allow is cut short and a fault (R51 to R54, R69). -/
def stopWait (j cycle slip : Nat) (s : State) (x : Nat × Nat × Nat) : State :=
  let m := jobMov (getJob s j)
  let bad := m.faultPolicy || decide (slipMax m < slip + alignUp x.2.2 64)
  let len := if m.faultPolicy then 0 else if bad then limitLen m slip else x.2.2
  let s1 := if bad then s else raiseSlip j slip len s
  overrunEvent x.1 x.2.1 len (if bad then slip else slip + alignUp len 64) bad (reachCycle j (cycle + len) s1)

/-- The waits of a stop at a cycle (R51, R53, R69, R90). True when the step goes on. -/
def stopWaits (j cycle : Nat) (lates : List (Nat × Nat × Nat)) (s : State) : State × Bool :=
  let m := jobMov (getJob s j)
  let slip := (getJob s j).run.slip
  let s1 := lates.foldl (stopWait j cycle slip) s
  if lates.any fun x => m.faultPolicy || decide (slipMax m < slip + alignUp x.2.2 64) then (faultJob j s1, false) else (s1, true)

/-- In interleaved mode a job's unit ends: it asks for its next one, or leaves under a Preempt (R235, R242). -/
def unitEnd (j : Nat) (s : State) : State :=
  let x := getJob s j
  if x.preempt then
    grantUnits 8 (modJob j (fun y => { y with state := 1, preempt := false, granted := false, asking := false }) (countPre j s))
  else
    let s1 := askUnit j (modJob j (fun y => { y with state := 2, readyAt := s.clk.fleet }) s)
    if (getJob s1 j).state = 2 then countPre j s1 else s1

/-- The engine time of a run in a partition that is no ring partition, up to the release of a stop at a cycle (R240). -/
def chargeTo (j cycle : Nat) (s : State) : State :=
  let p := jobPart (getJob s j)
  let pt := getPart s p
  let to_ := max (coreOfNs s s.clk.fleet) (runBase s j + cycle)
  if !partitioned s || ringPart s p || !pt.began then s
  else modPart p (fun y => { y with charged := to_ }) (chargeEngine j (partTps s p * (to_ - pt.charged)) s)

/-- A stop that is not the step's end is released: latched changes apply, then the switch (R12, R13, R244). -/
def passStop (j : Nat) (s : State) : State :=
  let x := getJob s j
  let p := jobPart x
  let ix := x.run.stopIx
  let s1 := armColls j (modRun j (fun r => { r with stopIx := ix + 1, stores := [] }) (takeView p s))
  if !partitioned s then unitEnd j s1
  else if jobRing x || jobServing x then s1
  else switchPoint p j (jobStep s j) ix false none s1

/-! ### The end of a step (R203, R226, R239) -/

/-- The step number rises (R226, R239). -/
def nextStepNo (j : Nat) (s : State) : State :=
  let x := getJob s j
  if jobServing x then modStm (jobPart x) (fun y => { y with step := inc32 y.step }) s
  else modJob j (fun y => { y with stepNo := inc32 y.stepNo }) s

/-- Rewards for steps up to n are past (R268). -/
def dropRewards (p n : Nat) (s : State) : State :=
  let keep := fun l : List Reward => l.filter fun r => !stepDue n r.step
  { s with cul := { s.cul with keeper := tmod [] s.cul.keeper p keep, applied := tmod [] s.cul.applied p keep } }

/-- A step commits (R226, R239, R262): charges, publications, streams, the step number, then the switch (R13). The programs of the
next step's first tiles are armed (R198). -/
def commitStep (j : Nat) (s : State) : State :=
  let x := getJob s j
  let p := jobPart x
  let n := jobStep s j
  let m := jobMov x
  let swings := onSwings s j
  let s2 := telBound p (chargeStep j true (chargeAttempt j s))
  let s3 := commitCulture j n x.attempt (takeView p s2)
  let s4 := nextStepNo j (if jobServing x then commitStreams p m.stepBudget s3 else s3)
  let s5 := if jobServing x then dropRewards p n s4 else s4
  let due := (getStm s p).nextSw + 16000 * stepSwings s m
  let s6 := if jobRing x then endAttempts s5 else s5
  let s7 := if swings then modStm p (fun y => { y with nextSw := due }) s6 else s6
  let s8 := armColls j (modPart p (fun y => { y with runSteps := y.runSteps + 1 }) (modJob j (fun y => { y with run := {}, attempt := 0 }) s7))
  if !partitioned s then unitEnd j s8
  else
    let idle := jobServing x && buildsNothing s8 p m.stepBudget
    switchPoint p j n (m.stops.length - 1) idle (if jobRing x then some due else none) s8

/-- The digest of a job's step attempt (R202). -/
def stepDigest (s : State) (j : Nat) : Nat :=
  let x := getJob s j
  crc64 (leBytes 4 (jobStep s j) ++ leBytes 1 x.attempt ++ leBytes 1 (jobMov x).ringSize ++ leBytes 2 x.run.live ++
    (x.run.digest.map (·.2)).flatten)

/-- The digest goes to the neighbours: on both ring links when N is 2 (R203). -/
def sendDigest (d : Nat) (s : State) : State :=
  if cfgVal s 0x0601 = 2 then
    [1, 2].foldl (fun s role => match linkOfRole s role with
      | some n => sendUOn n 0x11 d s
      | none => s) s
  else (neighbours s).foldl (fun s c => sendU 0x11 c d [] s) s

/-- LK_DIGSTAT (R210). -/
def digStatOf (step attempt : Nat) (fm bm frozen : Bool) : Nat :=
  step % 65536 + attempt % 2 * 2 ^ 16 + b2n fm * 2 ^ 17 + b2n bm * 2 ^ 18 + b2n frozen * 2 ^ 19

/-- A first mismatch in the ring (R206): the step runs again as Attempt 1 from the next swing, with the Culture frozen. -/
def runAgain (j : Nat) (fm bm : Bool) (s : State) : State :=
  let n := jobStep s j
  let s1 := abandonCulture j (dropWork j (chargeAttempt j s))
  let s2 := armColls j (modJob j (fun y => { y with
    attempt := 1, run := { hbmBytes := y.run.hbmBytes, linkBytes := y.run.linkBytes, engine := y.run.engine, energy := y.run.energy } }) s1)
  modStm (jobPart (getJob s j)) (fun y => { y with nextSw := nextMultiple 16000 s.clk.fleet })
    { s2 with ring.digStat := digStatOf n 0 fm bm true }

/-- A second mismatch in the ring (R207): the chip's verdict goes out, and it decides a swing later. -/
def giveVerdict (j : Nat) (fm bm : Bool) (s : State) : State :=
  modRun j (fun r => { r with digestDue := none })
    { s with ring := { s.ring with verdict := some (1 + 2 * b2n fm + 4 * b2n bm), deciding := some 0, retryJob := some j } }

/-- A mismatch in the ring, seen by this chip or elsewhere (R206, R207). -/
def ringMismatch (j : Nat) (fm bm : Bool) (s : State) : State :=
  if (getJob s j).attempt = 0 then runAgain j fm bm s else giveVerdict j fm bm s

/-- A mismatch that this chip found (R206, R210). -/
def mismatch (j : Nat) (fm bm : Bool) (s : State) : State :=
  ringMismatch j fm bm (post 0x10 0x11 1 (pl4 (jobStep s j) ++ pl1 (getJob s j).attempt ++ pl8 s.ring.digest ++ pl1 (b2n fm + 2 * b2n bm))
    { s with ring.mismatches := s.ring.mismatches + 1 })

/-- Both neighbours' digests are held: the step commits or mismatches (R203, R206). With more than three chips in the ring a chip
that matches both neighbours learns in a way that the spec does not give whether others mismatch (log 39). -/
def compareDigests (j : Nat) (s : State) : State :=
  let x := getJob s j
  match s.ring.fwd.digest, s.ring.bwd.digest with
  | some a, some b =>
    let fm := a == s.ring.digest
    let bm := b == s.ring.digest
    let s1 := clearDigests { s with ring.digStat := digStatOf (jobStep s j) x.attempt fm bm (x.attempt == 1) }
    if !fm || !bm then mismatch j fm bm s1
    else if cfgVal s 0x0601 < 4 then commitStep j s1
    else if Config.elsewhere s.freeCtr then ringMismatch j true true (skipFree 1 s1)
    else commitStep j (skipFree 1 s1)
  | _, _ => s

/-- The digest of a job's step attempt is formed (R202, R210). -/
def formDigest (j : Nat) (s : State) : State :=
  let x := getJob s j
  { s with ring := { s.ring with digest := stepDigest s j, digStat := digStatOf (jobStep s j) x.attempt false false (x.attempt == 1) } }

/-- The StepEnd stop of a ring job is reached: its digest is sent, and both neighbours' are due 16 swings after the stop's Cycle
(R203, R204). -/
def reachStepEnd (j cycleNs : Nat) (s : State) : State :=
  compareDigests j (modRun j (fun r => { r with atStop := true, digestDue := some (cycleNs + 16 * 16000) }) (sendDigest s.ring.digest s))

/-- A SwingAligned stop waits for the next swing; Movement time stands (R43). -/
def waitSwing (j : Nat) (s : State) : State :=
  let t := alignUp s.clk.fleet 16000
  advanceTo t (modRun j (fun r => { r with origin := r.origin + (t - s.clk.fleet) }) s)

/-- The release of a stop whose tiles are done. -/
def releaseStop (j : Nat) (st : StopRec) (s : State) : State :=
  let x := getJob s j
  let (s1, on) := stopWaits j (st.cycle + x.run.slip) (lateEnds x.run st.stepEnd (st.cycle + x.run.slip)) s
  if !on then s1
  else
    let cycle := st.cycle + (getJob s1 j).run.slip
    let at_ := (getJob s1 j).run.origin + nsOfCore s1 cycle
    let s2 := reachCycle j cycle s1
    let s3 := chargeTo j cycle (noteCycle j cycle (if st.swing then waitSwing j s2 else s2))
    if !st.stepEnd then passStop j s3
    else if jobRing x then reachStepEnd j at_ (formDigest j s3)
    else commitStep j (formDigest j s3)

/-- STOP_RELEASE: a job's next stop is released once its tiles are done and its HBM stores complete; at StepEnd, and at the stop at
which a Preempt takes it in interleaved mode, its block operations too; at StepEnd on a ring, the digests compared (R43, R69,
R90, R203). -/
def execStopRelease (slot : Fin 64) (s : State) : Out :=
  run (fun s =>
    let x := getJob s slot
    match (jobMov x).stops[x.run.stopIx]? with
    | none => s
    | some st =>
      if !mayRun s slot || !x.run.active || s.ring.retryJob == some slot.val then s
      else if x.run.atStop then compareDigests slot s
      else if !tilesDone s slot st.cycle || (s.hbm.deferred.any fun r => r.slot == slot.val && r.store) ||
          ((st.stepEnd || (x.preempt && !partitioned s)) && jobBusy s slot) then s
      else releaseStop slot st s) s

/-- The neighbours whose digest is missing: their chips. -/
def missingDigests (s : State) : List Nat :=
  ((if s.ring.fwd.digest.isNone then [cfgVal s 0x0603] else []) ++ if s.ring.bwd.digest.isNone then [cfgVal s 0x0604] else []).eraseDups

/-- DIGEST_TIMEOUT: a neighbour digest is not accepted within 16 swings of the StepEnd stop's Cycle (R204). -/
def execDigestTimeout (slot : Fin 64) (s : State) : Out :=
  run (fun s =>
    let x := getJob s slot
    match x.run.digestDue with
    | some t =>
      if x.run.atStop && x.state == 3 && !(missingDigests s).isEmpty then
        faultJob slot ((missingDigests s).foldl (fun u chip => post 0x10 0x12 2 (pl4 (jobStep s slot) ++ pl1 x.attempt ++ pl2 chip) u)
          (advanceTo t s))
      else s
    | none => s) s

end Sys2Proof.Machine
end

