-- ==== Sys2Proof/Machine/Ticks.lean ====
section
/-! DEFINITION. The moments of fleet time and of the memory controllers: beats, swings with heartbeats and verdicts, refresh
windows, deferred accesses, remote time-outs (R33 to R35, R71, R72, R190, R207, R301, R369). -/

namespace Sys2Proof.Machine

/-! ### HBM (R33 to R35) -/

/-- A deferred request tried again in a new beat, ahead of that beat's new lines of its tile and in the order in which requests
came (R34). Once its last line is served its completion is known (R35); that of a descriptor's lines goes to its channel. -/
def reServe (s : State) (r : HbmReq) : State :=
  let cl := jobClaimAt s r.slot r.claim
  if r.late.isEmpty || cl.hbmLines = 0 || cl.perPc = 0 then s
  else
    let v := r.late.foldl (serveOne cl r.tile) { use := s.hbm.use, useAll := s.hbm.useAll, late := [] }
    let due := if v.late.isEmpty then some (lateDone s (cycleNow s r.slot) r.lines) else none
    let s1 := { s with hbm := { s.hbm with
        use := v.use, useAll := v.useAll
        deferred := s.hbm.deferred.map fun x => if x.id = r.id then { x with late := v.late, due := due } else x } }
    match r.chan, due with
    | some ch, some d => dropLate r.id (holdLoad ch d s1)
    | _, _ => s1

/-- The lines of a pseudo-channel that a refresh window takes from a beat (R33): 400 lines in 1,000 ns. -/
def windowLines (s : State) (q a b : Nat) : Nat :=
  match s.hbm.refFrom with
  | none => 0
  | some t0 =>
    let off := t0 + 243 * refreshGroup q
    let first := (a - off) / 3900
    sumNat ((upFrom first 2).map fun k => (min b (off + 3900 * k + 200) - max a (off + 3900 * k)) * 2 / 5)

/-- The lines that the ending beat could not serve and carries into the next (R33): 392 usable lines less a window's. -/
def carryLines (s : State) : Table Nat :=
  (upFrom 0 64).foldl (fun t q =>
    let claimed := sumNat ((s.hbm.use.filter fun x => x.1 % 64 == q).map (·.2))
    let left := tget 0 s.hbm.carry q + claimed - (392 - windowLines s q (s.upNs - 1000) s.upNs)
    if left = 0 then t else tput t q left) []

/-- The start of the next refresh window after the latest, and its group (R33). -/
def nextRefresh (s : State) : Option (Nat × Nat) :=
  s.hbm.refFrom.map fun t0 =>
    let from_ := max (max s.upNs t0) (if s.hbm.refreshes = 0 then 0 else s.hbm.refAt + 1)
    let k := (from_ - t0) / 3900
    let g := cdiv (from_ - t0 - 3900 * k) 243
    if g < 16 then (t0 + 3900 * k + 243 * g, g) else (t0 + 3900 * (k + 1), 0)

/-- The links' counts of a beat start again (R173, R177). -/
def freshBeat (l : Link) : Link := { l with beat := l.beat + 1, uBeat := 0, sBeat := 0, uHeld := false, sHeld := false }

/-- Did the partition's served lines of the ending beat reach nine tenths of its running claims, or was a request of it
deferred (R385). -/
def fullBeat (s : State) (p : Nat) : Bool :=
  let total := sumNat ((runningClaims s).map fun x => if jobPart (getJob s x.slot) = p then x.claim.hbmLines else 0)
  let used := sumNat ((s.hbm.useAll.filter fun x => x.1 % 8 == p).map (·.2))
  (decide (0 < total) && decide (9 * total ≤ 10 * used)) || s.hbm.deferred.any fun r => jobPart (getJob s r.slot) == p

/-- The furthest cycle that a running step of a partition has reached. -/
def partCycle (s : State) (p : Nat) : Nat :=
  maxNat (s.jobs.map fun x => if jobPart x.2 = p && x.2.run.active then x.2.run.cycle else 0)

/-- The cycles from `a` to `b` in which a TP's matrix engine ran (R81). -/
def engineBusy (tp : Tp) (a b : Nat) : Nat := sumNat (tp.mmas.map fun m => min b m.done - max a m.start)

/-- Were the partition's matrix engines busy in nine tenths of its TPs' core cycles of the ending beat (R385). -/
def busyBeat (s : State) (p : Nat) : Bool :=
  let a := (getPart s p).beatCy
  let b := partCycle s p
  let ts := tpsOfMask (getPart s p).mask
  decide (a < b) && decide (0 < ts.length) && decide (9 * (ts.length * (b - a)) ≤ 10 * sumNat (ts.map fun t => engineBusy (getTp s t) a b))

/-- The HbmFullBeats and MmaBusyBeats of each partition (R385). The core cycles of a beat are those that the partition's run
has gone through since the beat before (log 77). -/
def countBeat (s : State) : State :=
  { s with parts := s.parts.map fun x => (x.1, { x.2 with
      full := if fullBeat s x.1 then x.2.full + 1 else x.2.full
      busy := if busyBeat s x.1 then x.2.busy + 1 else x.2.busy
      beatCy := partCycle s x.1 }) }

/-- A TP that waits for what is not timed, past the end of its innermost arm or body, takes instruction fault 8 (R94). -/
def lateWait (t : Nat) (s : State) : State :=
  let tp := getTp s t
  let thr := match tp.wait with
    | some (.rdv _ _ _ thr) => some thr
    | some (.csync _ _ _ thr) => some thr
    | none => tp.stalled
  match tp.tile, thr, deadline tp with
  | some r, some thr, some d =>
    if d < cycleNow s r.slot then
      let h := tileHdr (jobMov (getJob s r.slot)) r.tile
      faultJob r.slot (instrFaultEvent t thr (h.codeOff + 16 * tp.pc) 8 s)
    else s
  | _, _, _ => s

/-- Every TP that waits so. -/
def lateWaits (s : State) : State := (s.tps.map (·.1)).foldl (fun s t => lateWait t s) s

/-- A partition's save or restore is served its lines of a beat, within its claim (R34, R245). -/
def feedSwitch (p : Nat) (s : State) : State :=
  match movingJob s p, (getPart s p).sw with
  | some j, some w =>
    let all := switchLines s j (rangeLines ((getJob s j).saved.getD []))
    let v := (w.left.getD all).foldl (serveOne (jobClaimAt s j (jobClaim (getJob s j))) p) { use := s.hbm.use, useAll := s.hbm.useAll, late := [] }
    modPart p (fun y => { y with sw := some { w with left := some v.late } })
      { s with hbm := { s.hbm with use := v.use, useAll := v.useAll } }
  | _, _ => s

/-- BEAT_TICK: a beat boundary opens the S slots and resets the claim counts (R14, R34, R37, R301). -/
def execBeatTick (s : State) : Out :=
  run (onEsc fun s =>
    let s1 := countBeat (advanceTo (nextBoundary 1000 s.clk.beatAt s.clk.fleet) s)
    lateWaits ((upFrom 0 8).foldl (fun s p => feedSwitch p s) ((upFrom 0 16).foldl (fun s ch => feedChannel ch s) (s1.hbm.deferred.foldl reServe
      { s1 with
        clk := { s1.clk with beats := s1.clk.beats + 1, beatAt := s1.clk.fleet }
        hbm := { s1.hbm with carry := carryLines s1, use := [], useAll := [] }
        links := s1.links.map fun x => (x.1, freshBeat x.2) })))) s

/-- HBM_REFRESH: the next refresh group's window begins on the controller's timer (R33). -/
def execHbmRefresh (s : State) : Out :=
  run (fun s =>
    match nextRefresh s with
    | none => s
    | some (t, g) => { passNs (t - s.upNs) s with hbm := { s.hbm with refreshes := s.hbm.refreshes + 1, refGroup := g, refAt := t } }) s

/-- A deferred request is complete: its results usable, its store complete (R35, R69, R75). What the contract does not time
arrives now. -/
def finishHbm (r : HbmReq) (s : State) : State :=
  let cy := r.due.getD (max r.least (cycleAt s r.slot))
  let s1 := modTp r.tp (fun tp => r.keys.foldl (fun tp k => noteReady k cy tp) { tp with arriving := tp.arriving.filter fun k => !r.keys.contains k })
    (dropLate r.id s)
  if r.store then modRun r.slot (fun y => { y with stores := (r.tp, r.hdr, cy) :: y.stores }) s1 else s1

/-- HBM_ACCESS_COMPLETE: a request with deferred lines completes once all are served; one without contract bandwidth when
they arrive (R35). -/
def execHbmAccessComplete (req : Nat) (s : State) : Out :=
  run (fun s =>
    match s.hbm.deferred.find? fun r => r.id == req && r.chan.isNone with
    | none => s
    | some r =>
      let cl := jobClaimAt s r.slot r.claim
      if r.late.isEmpty || cl.hbmLines = 0 || cl.perPc = 0 then finishHbm r s else s) s

/-! ### Remote accesses (R71, R72) -/

/-- A frame of a remote write. -/
def writeFrame (tag : Nat) (f : Frame) : Bool := f.kind == 0x08 && f.tag.toNat == tag

/-- The frame of a remote write of this chip has not been acknowledged; one that was discarded with its link never is (R186). -/
def writeOut (s : State) (tag : Nat) : Bool :=
  s.net.dropped.contains (0x08, tag) || s.links.any fun x =>
    (x.2.qB.any fun t => t.from_.isNone && writeFrame tag t.fr) || x.2.unacked.any (writeFrame tag) || x.2.replayQ.any (writeFrame tag)

/-- A remote access fails: its event, and its job's fault (R65, R72). -/
def failRemote (r : Remote) (reason : Nat) (s : State) : State :=
  faultJob r.slot (accessFaultEvent r.tp r.thr r.addr reason { s with net.remotes := s.net.remotes.filter fun x => x.tag != r.tag })

/-- REMOTE_ACCESS_TIMEOUT: a remote access not complete within 1 ms fails with reason 7. A write whose frame has been
acknowledged has arrived (R72). -/
def execRemoteAccessTimeout (tag : BitVec 16) (s : State) : Out :=
  run (fun s =>
    match s.net.remotes.find? fun r => r.tag == tag.toNat with
    | none => s
    | some r =>
      let s1 := advanceTo (r.from_ + 1000000) s
      if r.into.isNone && !writeOut s tag.toNat then { s1 with net.remotes := s1.net.remotes.filter fun x => x.tag != r.tag }
      else failRemote r 7 s1) s

/-! ### Swings (R190, R207, R369) -/

/-- A shed is active (R291, R369). -/
def shedActive (s : State) : Bool := s.rgl.shedding

/-- The Arg of a heartbeat (R207, R369). -/
def heartbeatArg (s : State) : Nat :=
  s.ring.verdict.getD 0 + 8 * b2n (s.pwr.state == .running) + 16 * b2n (runningRing s).isSome + 32 * b2n s.flt.selfFence +
    64 * b2n (s.esc.state == .holdover) + 128 * b2n (shedActive s) +
    ((theRingPart s).map fun p => (getStm s p).step).getD 0 * 2 ^ 16

/-- A neighbour's misses at a swing boundary (R190). -/
def countMiss (n : Neighbour) : Neighbour := { n with misses := if n.seen then 0 else n.misses + 1, seen := false }

/-- The verdict flags of a chip: matched forward, matched backward; none without VerdictValid (R207). -/
def verdictOf (v : Option Nat) : Option (Bool × Bool) := v.map fun x => (bitAt x 1, bitAt x 2)

/-- What R207 decides: a fault of the chip itself, of a chip that it names, of a chip that it cannot name, or of the ring. -/
inductive Blame where
  | own
  | chip (c : Nat)
  | other
  | ring
  deriving DecidableEq, Repr

/-- R207's table as a chip reads it from its own view and its neighbours' verdicts, each forward and backward match (log 39). In a
ring of more than four a chip that matches both neighbours cannot see whether one chip stands between the two mismatches. -/
def blameOf (n : Nat) (free : Bool) (fwd bwd : Nat) (me f b : Bool × Bool) : Blame :=
  if n = 2 || me.1 != f.2 || me.2 != b.1 then .ring
  else if me == (false, false) then (if f.1 && b.2 then .own else .ring)
  else if me == (false, true) then (if !f.1 && (n != 4 || b.2) then .chip fwd else .ring)
  else if me == (true, false) then (if !b.2 && (n != 4 || f.1) then .chip bwd else .ring)
  else if n = 4 then (if !f.1 && !b.2 then .other else .ring)
  else if !f.1 && !b.2 then .ring
  else if free then .other
  else .ring

/-- The outcome that this chip reaches; a missing verdict is a ring fault (R207). -/
def blame (s : State) : Blame :=
  match verdictOf s.ring.verdict, verdictOf s.ring.fwd.verdict, verdictOf s.ring.bwd.verdict with
  | some me, some f, some b => blameOf (cfgVal s 0x0601) (Config.elsewhere s.freeCtr) (cfgVal s 0x0603) (cfgVal s 0x0604) me f b
  | _, _, _ => .ring

/-- The decision after a second mismatch (R207). -/
def decideFault (j : Nat) (s : State) : State :=
  let n := jobStep s j
  let s1 := skipFree 1 { s with ring := { s.ring with verdict := none, deciding := none, retryJob := none } }
  match blame s with
  | .own => selfFence 2 (post 0x10 0x13 2 (pl2 (chipId s) ++ pl4 n) s1)
  | .chip c => faultJob j (fenceChip c 2 1 (chipId s) none s1)
  | .other => faultJob j s1
  | .ring => faultJob j (post 0x10 0x14 2 (pl4 n) s1)

/-- The verdicts' part of a swing boundary: sent in the next swing's heartbeats, decided at the boundary after. -/
def stepVerdict (s : State) : State :=
  match s.ring.deciding, s.ring.retryJob with
  | some 1, some j => decideFault j s
  | _, _ => s

/-- The verdict sent once. -/
def sentVerdict (s : State) : State :=
  match s.ring.deciding with
  | some _ => { s with ring.deciding := some 1 }
  | none => { s with ring.verdict := none }

/-- The heartbeats of a swing (R190). -/
def sendHeartbeats (s : State) : State :=
  sentVerdict ((neighbours s).eraseDups.foldl (fun t c => sendU 0x10 c (heartbeatArg s) [] t) s)

/-- SWING_TICK: misses are counted, verdicts decided, heartbeats sent, and idle builds go on (R190, R207, R223, R301). -/
def execSwingTick (s : State) : Out :=
  run (onEsc (onTable 6 fun s =>
    let s1 := advanceTo (nextBoundary 16000 s.clk.swingAt s.clk.fleet) s
    let s2 := { s1 with clk := { s1.clk with swings := s1.clk.swings + 1, swingAt := s1.clk.fleet }, stms := s1.stms.map fun x => (x.1, { x.2 with idle := false }) }
    if cfgVal s 0x0601 = 0 || !s.pwr.handedOver then s2
    else sendHeartbeats (stepVerdict { s2 with ring := { s2.ring with fwd := countMiss s2.ring.fwd, bwd := countMiss s2.ring.bwd } }))) s

/-- What the chip holds of a neighbour. -/
def sideOf (s : State) (n : Side) : Neighbour :=
  match n with
  | .fwd => s.ring.fwd
  | .bwd => s.ring.bwd

/-- What the chip holds of a neighbour, changed. -/
def modSide (n : Side) (f : Neighbour → Neighbour) (s : State) : State :=
  match n with
  | .fwd => { s with ring.fwd := f s.ring.fwd }
  | .bwd => { s with ring.bwd := f s.ring.bwd }

/-- The chip of a neighbour. -/
def sideChip (s : State) (n : Side) : Nat :=
  match n with
  | .fwd => cfgVal s 0x0603
  | .bwd => cfgVal s 0x0604

/-- The link whose events report a neighbour: that of its role, else LK0. -/
def sideLink (s : State) (n : Side) : Nat :=
  (linkOfRole s (match n with
    | .fwd => 1
    | .bwd => 2)).getD 0

/-- HEARTBEAT_SUSPECT: 4 misses (R190). -/
def execHeartbeatSuspect (n : Side) (s : State) : Out :=
  run (fun s =>
    let x := sideOf s n
    if cfgVal s 0x0601 != 0 && decide (4 ≤ x.misses) && !x.suspect && !x.failed then
      modSide n (fun y => { y with suspect := true }) (post (0x10 + sideLink s n) 6 1 (pl2 (sideChip s n)) s)
    else s) s

/-- HEARTBEAT_FAILED: 16 misses; the chip is fenced (R190, R370). -/
def execHeartbeatFailed (n : Side) (s : State) : Out :=
  run (fun s =>
    let x := sideOf s n
    if cfgVal s 0x0601 != 0 && decide (16 ≤ x.misses) && !x.failed then
      fenceChip (sideChip s n) 1 1 (chipId s) none
        (modSide n (fun y => { y with failed := true }) (post (0x10 + sideLink s n) 7 2 (pl2 (sideChip s n)) s))
    else s) s

end Sys2Proof.Machine
end

