-- ==== Sys2Proof/Machine/Keeper.lean ====
section
/-! DEFINITION. Keeper messages and their operations, the restore of a slice (R374 to R379), fence notices, the scrubbers,
and the Fault Unit's and the Event Ring's commands (R365 to R372, R399). -/

namespace Sys2Proof.Machine

/-! ### The message (R374 to R376) -/

/-- A Keeper message as its unit lays it out (R374). -/
structure KMsg where
  counter : Nat
  swing   : Nat
  op      : Nat
  keyRev  : Nat
  body    : List Byte
  mac     : List Byte
  deriving DecidableEq, Repr

/-- The fields of a payload unit. -/
def kmsgOf (u : List Byte) : KMsg :=
  { counter := leNat (u.take 8), swing := leNat ((u.drop 8).take 8), op := leNat ((u.drop 16).take 1)
    keyRev := leNat ((u.drop 18).take 2), body := (u.drop 20).take 28, mac := (u.drop 48).take 16 }

/-- A number of `n` bytes at an offset of a body. -/
def bodyNat (b : List Byte) (off n : Nat) : Nat := leNat ((b.drop off).take n)

/-- FleetKey in the OTP (R319). -/
def fleetKey (s : State) : List Byte := memRead s.pwr.otpCopy 0x10 32

/-- KeyRevision in the OTP (R319). -/
def keyRevision (s : State) : Nat := memNat s.pwr.otpCopy 0x0A 2

/-- The Mac of a payload for a destination (R375). -/
def macOf (s : State) (dst : Nat) (u : List Byte) : List Byte :=
  (hmacSha256 (fleetKey s) (leBytes 2 dst ++ u.take 48)).take 16

/-- Is a Counter fresh (R376, reason 4). -/
def counterFresh (s : State) (c : Nat) : Bool :=
  let t := s.clk.fleet
  decide (s.flt.kfloor < c) && decide (t ≤ c + 1000000000) && decide (c ≤ t + 1000000) && !s.flt.counters.contains c &&
    (decide (s.flt.counters.length < 64) || s.flt.counters.any fun x => decide (x < c))

/-- The role of link n after a RING body (R377). -/
def roleAfter (s : State) (b : List Byte) (n : Nat) : Nat :=
  let r := bodyNat b (8 + n) 1
  if r = 0xFF then (getLink s n).role else r

/-- Links with a role among the first eight numbers. -/
def rolesOf (f : Nat → Nat) (r : Nat) : Nat := ((upFrom 0 8).filter fun n => f n == r).length

/-- R187's limits on roles. -/
def rolesFit (f : Nat → Nat) : Bool := decide (rolesOf f 1 ≤ 1) && decide (rolesOf f 2 ≤ 1) && decide (rolesOf f 3 ≤ 2)

/-- R328 rule 3, as a check: a ring that it would set to 0. -/
def ringBad (size slice fwd bwd chip : Nat) (f : Nat → Nat) : Bool :=
  size != 0 &&
    (decide (size ≤ slice) || fwd == 0xFFF || bwd == 0xFFF || fwd == chip || bwd == chip || (size == 2 && fwd != bwd) ||
      (decide (2 < size) && fwd == bwd) || rolesOf f 1 == 0 || rolesOf f 2 == 0)

/-- The entry of a routes record as the route table holds it (R188, R336). -/
def routeEntry (e : Nat) : Nat := bits e 7 1 * 2 ^ 31 + bits e 6 1 * 2 ^ 30 + bits e 0 6

/-- An entry that R336 rejects. -/
def routeBad (e : Nat) : Bool := bitAt e 6 && bits e 3 3 == bits e 0 3

/-- The body of an operation meets its ranges (R376, reason 5; R377). -/
def bodyOk (s : State) (op : Nat) (b : List Byte) : Bool :=
  match op with
  | 1 =>
    let d0 := bodyNat b 0 2
    let m := bodyNat b 2 1
    decide (1 ≤ m) && decide (m ≤ 25) && decide (d0 + m - 1 ≤ 0xFFE) &&
      ((upFrom 0 m).all fun i => !routeBad (bodyNat b (3 + i) 1))
  | 2 =>
    let size := bodyNat b 0 1
    decide (size = 0 ∨ (2 ≤ size ∧ size ≤ 64)) && decide (bodyNat b 1 1 ≤ 63) && decide (bodyNat b 2 2 ≤ 0xFFF) &&
      decide (bodyNat b 4 2 ≤ 0xFFF) && decide (bodyNat b 6 1 ≤ 1) &&
      ((upFrom 0 8).all fun n => decide (bodyNat b (8 + n) 1 ≤ 4) || bodyNat b (8 + n) 1 == 0xFF) &&
      rolesFit (roleAfter s b) &&
      !ringBad size (bodyNat b 1 1) (bodyNat b 2 2) (bodyNat b 4 2) (chipId s) (roleAfter s b)
  | 3 =>
    decide (bodyNat b 0 2 ≤ 0xFFF) && decide (bodyNat b 2 2 ≤ 0xFFF) && decide (10 ≤ bodyNat b 4 2) &&
      decide (bodyNat b 4 2 ≤ 10000) && decide (bodyNat b 8 4 ≤ 1048575) && decide (bodyNat b 12 4 ≤ 1048575)
  | 4 => decide (bodyNat b 0 1 ≤ 7) && decide (bodyNat b 1 1 ≤ bodyNat b 2 1)
  | 5 => decide (bodyNat b 0 2 ≤ 0xFFE)
  | 6 => decide (bodyNat b 0 2 ≤ 0xFFE)
  | 7 =>
    let base := bodyNat b 6 8
    let len := bodyNat b 14 8
    (bodyNat b 0 1 == 1 || bodyNat b 0 1 == 2) && decide (bodyNat b 1 1 ≤ 63) && decide (bodyNat b 2 2 ≤ 0xFFE) &&
      decide (bodyNat b 4 1 ≤ 1) && len % 64 == 0 && decide (base + len ≤ 0xC_0000_0000)
  | _ => false

/-- The lowest failing reason of a message, 0 when none fails (R376). -/
def keeperReason (s : State) (dst : Nat) (u : List Byte) : Nat :=
  let m := kmsgOf u
  let t := s.clk.fleet
  if !s.pwr.keyValid then 1
  else if m.keyRev != keyRevision s then 2
  else if m.mac != macOf s dst u then 3
  else if !counterFresh s m.counter then 4
  else if !bodyOk s m.op m.body then 5
  else if m.op != 4 && (m.swing % 16000 != 0 || decide (m.swing < t + 16000) || decide (t + 60000000000 < m.swing)) then 6
  else if s.pwr.state != .running then 7
  else 0

/-- A message accepted or refused (R376). Accepted, it waits for its swing. -/
def keeperAccept (dst : Nat) (u : List Byte) (s : State) : State :=
  let m := kmsgOf u
  let r := keeperReason s dst u
  if r = 0 then
    let cs := s.flt.counters
    { s with flt := { s.flt with
      counters := (if 64 ≤ cs.length then cs.drop 1 else cs) ++ [m.counter]
      waiting := s.flt.waiting ++ [⟨m.counter, m.swing, m.op, m.body⟩] } }
  else post 0x0B 4 1 (pl1 r ++ pl1 m.op ++ pl8 m.counter) { s with flt.krefused := s.flt.krefused + 1 }

/-- KEEPER_MESSAGE (R376). -/
def execKeeperMessage (l : Fin 8) (fr : Frame) (s : State) : Out :=
  runCtl (receive l fr 0x14 (keeperAccept fr.dst.toNat fr.payload)) s

/-- The 64 B held in FLT_KSEND0 to 7. -/
def ksendBytes (s : State) : List Byte := (upFrom 0 8).flatMap fun i => leBytes 8 (tget 0 s.flt.ksend i)

/-- A write of FLT_KDST (R375). -/
def writeKdst (v : Nat) (s : State) : State :=
  let d := v % 4096
  if d = 0xFFF then keeperAccept d (ksendBytes s) s else sendU 0x14 d 0 (ksendBytes s) s

/-- KEEPER_SEND (R375). -/
def execKeeperSend (v : BitVec 32) (s : State) : Out := runCtl (writeKdst v.toNat) s

/-! ### Applying a message at its swing (R24, R377) -/

/-- The earlier of two messages: by swing, then by Counter (R24). -/
def keeperLess (a b : Keeper) : Bool := decide (a.swing < b.swing) || (a.swing == b.swing && decide (a.counter < b.counter))

/-- The waiting message that applies next, where it is one of an operation: messages apply in the order of R24 across operations, but
for rewards, which wait for no swing. -/
def nextKeeper (s : State) (op : Nat) : Option Keeper :=
  ((sortBy keeperLess (s.flt.waiting.filter fun k => (k.op == 4) == (op == 4))).head?).filter fun k => k.op == op

/-- The next message of an operation takes effect at its swing, and the device reports it (R381). -/
def atSwing (op : Nat) (act : List Byte → State → State) (s : State) : State :=
  match nextKeeper s op with
  | none => s
  | some k =>
    act k.body (post 0x0B 5 0 (pl1 op ++ pl8 k.swing)
      (advanceTo k.swing { s with flt.waiting := s.flt.waiting.erase k }))

/-- ROUTE: entries d0 to d0 + m − 1. -/
def routeAct (b : List Byte) (s : State) : State :=
  (upFrom 0 (bodyNat b 2 1)).foldl (fun s i =>
    { s with routes := tput s.routes (bodyNat b 0 2 + i) (routeEntry (bodyNat b (3 + i) 1)) }) s

/-- ROUTE (R188, R377). -/
def execRouteSet (s : State) : Out := runCtl (atSwing 1 routeAct) s

/-- A link's role after a RING message: a changed one trains fully, an unused one is Off (R182, R377). -/
def roleAct (b : List Byte) (s : State) (n : Nat) : State :=
  let r := roleAfter s b n
  if r = (getLink s n).role then s
  else
    let s1 := modLink n (fun l => { l with role := r }) s
    if r = 0 then linkOff n s1 else beginTrain n true (quiet n s1)

/-- A neighbour replaced starts at 0 misses. -/
def keepIf (same : Bool) (x : Neighbour) : Neighbour := if same then x else {}

/-- RING: the ring fields and the link roles. -/
def ringAct (b : List Byte) (s : State) : State :=
  let f := bodyNat b 2 2
  let k := bodyNat b 4 2
  let s1 := { s with ring := { s.ring with
    fwd := keepIf (f == cfgVal s 0x0603) s.ring.fwd, bwd := keepIf (k == cfgVal s 0x0604) s.ring.bwd } }
  let s2 := setCfg 0x0605 (bodyNat b 6 1) (setCfg 0x0604 k (setCfg 0x0603 f
    (setCfg 0x0602 (bodyNat b 1 1) (setCfg 0x0601 (bodyNat b 0 1) s1))))
  (upFrom 0 8).foldl (roleAct b) s2

/-- RING (R377). -/
def execRingSet (s : State) : Out := runCtl (atSwing 2 ringAct) s

/-- POOL: the ramp fields, and a handover at the new pool chip; another chip's pool stops granting (R289). -/
def poolAct (b : List Byte) (s : State) : State :=
  let c := bodyNat b 0 2
  let s1 := setCfg 0x0A06 (bodyNat b 12 4) (setCfg 0x0A05 (bodyNat b 8 4) (setCfg 0x0A04 (bodyNat b 4 2)
    (setCfg 0x0A03 (bodyNat b 2 2) (setCfg 0x0A02 c s))))
  if c = chipId s then beginHandover s1
  else { s1 with rgl.poolChip := some c, rgl.pool.closed := s1.rgl.pool.active }

/-- POOL (R289, R377). -/
def execPoolSet (s : State) : Out := runCtl (atSwing 3 poolAct) s

/-- Has the build of a step of a partition begun (R268). -/
def buildBegun (s : State) (p n : Nat) : Bool :=
  let x := getStm s p
  if n = x.step then x.built.isSome || x.building else stepDue x.step n

/-- REWARD: held for its step, or discarded late (reason 1) or with the table full (reason 2, log 14). -/
def rewardAct (b : List Byte) (s : State) : State :=
  let p := bodyNat b 0 1
  let n := bodyNat b 4 4
  let drop := fun r => post 0x09 3 1 (pl1 p ++ pl4 n ++ pl1 r) { s with cul.rewLate := s.cul.rewLate + 1 }
  if buildBegun s p n then drop 1
  else if 16 ≤ (tget [] s.cul.keeper p).length then drop 2
  else
    let r : Reward := { step := n, first := bodyNat b 1 1, last := bodyNat b 2 1, value := signed 32 (bodyNat b 8 4) }
    { s with cul.keeper := tmod [] s.cul.keeper p (fun l => l ++ [r]) }

/-- KEEPER_REWARD (R268). -/
def execKeeperReward (s : State) : Out := runCtl (atSwing 4 rewardAct) s

/-- FENCE (R370, Reason 4). -/
def execFenceChip (s : State) : Out := run (atSwing 5 fun b s => fenceChip (bodyNat b 0 2) 4 1 (chipId s) none s) s

/-- A neighbour's heartbeat-failed state cleared. -/
def unfail (same : Bool) (x : Neighbour) : Neighbour := if same then { x with failed := false, suspect := false, misses := 0 } else x

/-- UNFENCE: the chip leaves the fence list; naming this chip, it clears SelfFenced. -/
def unfenceAct (b : List Byte) (s : State) : State :=
  let c := bodyNat b 0 2
  let own := c == chipId s
  { s with
    flt := { s.flt with
      fences := s.flt.fences.filter fun f => f.chip != c
      selfFence := s.flt.selfFence && !own
      flags := if own then s.flt.flags - (s.flt.flags &&& 32) else s.flt.flags }
    ring := { s.ring with fwd := unfail (c == cfgVal s 0x0603) s.ring.fwd, bwd := unfail (c == cfgVal s 0x0604) s.ring.bwd } }

/-- UNFENCE (R377). -/
def execUnfenceChip (s : State) : Out := runCtl (atSwing 6 unfenceAct) s

/-! ### The restore of a slice (R378, R379) -/

/-- The 64 B of a Stream Table entry (R211). -/
def streamBytes (y : Stream) : List Byte :=
  leBytes 4 (y.state + 8 * b2n y.replay + 16 * b2n y.cqLost + 32 * b2n y.locked + 256 * y.endReason + 65536 * y.part +
      2 ^ 24 * y.client) ++
    leBytes 4 y.pos ++ leBytes 4 y.prompt ++ leBytes 4 y.commit ++ leBytes 4 y.lastTok ++ leBytes 4 y.newCount ++
    leBytes 4 y.maxNew ++ leBytes 4 y.maxPos ++ leBytes 8 y.kvBase ++ leBytes 8 y.prBase ++ leBytes 8 y.stopIds ++
    leBytes 2 y.lockEpoch ++ leBytes 2 0 ++ leBytes 4 y.admitSeq

/-- The entry that 64 B give (R211). -/
def streamOf (bs : List Byte) : Stream :=
  let st := bodyNat bs 0 4
  { state := bits st 0 3, replay := bitAt st 3, cqLost := bitAt st 4, locked := bitAt st 5, endReason := bits st 8 4
    part := bits st 16 3, client := bits st 24 8, pos := bodyNat bs 4 4, prompt := bodyNat bs 8 4, commit := bodyNat bs 12 4
    lastTok := bodyNat bs 16 4, newCount := bodyNat bs 20 4, maxNew := bodyNat bs 24 4, maxPos := bodyNat bs 28 4
    kvBase := bodyNat bs 32 8, prBase := bodyNat bs 40 8, stopIds := bodyNat bs 48 8, lockEpoch := bodyNat bs 56 2
    admitSeq := bodyNat bs 60 4 }

/-- The local address of stream entry i (R58, R391). -/
def streamAddr (i : Nat) : Nat := 0xF_C040_0000 + 64 * i

/-- The local address of the unit that holds STM_STEP and STM_NEXTSWING of partition p (log 12). -/
def stepAddr (p : Nat) : Nat := 0xF_C006_0040 + 0x1000 * p

/-- The bytes of a restore's source range: memory, or a register unit. -/
def bulkRead (s : State) (a n : Nat) : List Byte :=
  if a < 0xF_C000_0000 then memRead s.mem a n
  else if 0xF_C040_0000 ≤ a then
    (upFrom ((a - 0xF_C040_0000) / 64) (n / 64)).flatMap fun i => streamBytes (getStream s i)
  else
    let x := getStm s ((a - 0xF_C006_0040) / 0x1000)
    leBytes 8 x.step ++ leBytes 8 x.nextSw ++ List.replicate 48 0

/-- What a source sends, in order (R378): source address, destination, bytes. -/
def restorePlan (s : State) (b : List Byte) : List (Nat × Nat × Nat) :=
  let mir := if bodyNat b 4 1 = 1 && cfgVal s 0x0605 == 1 then [(cfgVal s 0x0608, cfgVal s 0x0606, cfgVal s 0x0607)] else []
  let copy := [(bodyNat b 6 8, bodyNat b 6 8, bodyNat b 14 8)]
  let regs := match theRingPart s with
    | some p =>
      let r := streamRange (getStm s p)
      [(streamAddr r.1, streamAddr r.1, 64 * r.2), (stepAddr p, stepAddr p, 64)]
    | none => []
  (mir ++ copy ++ regs).filter fun x => x.2.2 != 0

/-- REMAP: the source begins to send, or the target waits for the restore (R378, R379). -/
def remapAct (b : List Byte) (s : State) : State :=
  let peer := bodyNat b 2 2
  if bodyNat b 0 1 = 1 then
    checkRemap { s with flt.remap := { state := 1, source := true, peer := peer, left := restorePlan s b } }
  else { s with flt.remap := { state := 1, target := true, needLd := bodyNat b 4 1 == 0, peer := peer } }

/-- REMAP (R377, R378). -/
def execRemapSlice (s : State) : Out := runCtl (atSwing 7 remapAct) s

/-- The next bulk copy frame of a restore goes to its route's queue. -/
def feedRemap (s : State) : State :=
  let r := s.flt.remap
  match r.left with
  | (a, d, n) :: rest =>
    if r.source && r.state == 1 then
      let k := min n 2048
      sendB 0x0C r.peer d 0 (bulkRead s a k)
        { s with flt.remap := { r with bytes := r.bytes + k, left := if k = n then rest else (a + k, d + k, n - k) :: rest } }
    else s
  | [] => s

/-- The target is restored when both conditions of R379 hold. -/
def checkRestored (s : State) : State :=
  let r := s.flt.remap
  if r.target && r.state == 1 && r.op2 && (!r.needLd || r.loaded) then
    post 0x0B 6 0 (pl2 r.peer ++ pl8 r.bytes)
      { s with
        flt.remap.state := 2
        streams := s.streams.map fun x =>
          (x.1, if r.copied.contains x.1 && x.2.state != 0 then { x.2 with replay := true } else x.2) }
  else s

/-- A partition into which a restore may write: the ring partition, while it runs no step (R378). -/
def restorable (s : State) (p : Nat) : Bool :=
  ((theRingPart s).isNone || theRingPart s == some p) && !((partJobs s p).any fun j => (getJob s j).run.active) &&
    (getStm s p).built.isNone

/-- The stream entries of a bulk copy frame: each unit's ID, when all lie in the range of one restorable partition. -/
def bulkStreams (s : State) (a n : Nat) : Option (List Nat) :=
  let ids := upFrom ((a - 0xF_C040_0000) / 64) (n / 64)
  if (upFrom 0 8).any fun p => restorable s p && ids.all (ownsStream (getStm s p)) then some ids else none

/-- A bulk copy frame's bytes at their destination, or none where it may not go (R209, R378). -/
def bulkWrite (s : State) (a : Nat) (bs : List Byte) : Option State :=
  let r := s.flt.remap
  let n := bs.length
  let count := { s with flt.remap.bytes := r.bytes + n }
  if !(r.target && r.state == 1) then none
  else if inHbm a n then some (storeMem a bs count)
  else if 0xF_C040_0000 ≤ a && decide (a + n ≤ 0xF_C044_0000) && a % 64 == 0 then
    match bulkStreams s a n with
    | some ids =>
      some (ids.foldl (fun t i =>
        modStream i (fun _ => streamOf ((bs.drop (64 * (i - (a - 0xF_C040_0000) / 64))).take 64)) t)
          { count with flt.remap.copied := r.copied ++ ids })
    | none => none
  else
    match (upFrom 0 8).find? fun p => stepAddr p == a && n == 64 && restorable s p with
    | some p => some (modStm p (fun x => { x with step := bodyNat bs 0 4, nextSw := bodyNat bs 8 8 }) count)
    | none => none

/-- BULK_COPY: written during a restore; any other is discarded and counted (R209, R378). -/
def execBulkCopy (l : Fin 8) (fr : Frame) (s : State) : Out :=
  run (routed l fr 0x0C fun t =>
    match bulkWrite t (bits fr.arg.toNat 0 48) fr.payload with
    | some u => u
    | none => modLink l.val (fun x => { x with badKind := x.badKind + 1 }) t) s

/-- RESTORE_DONE_NOTICE: a fence notice with Op 2 (R372, R379). -/
def execRestoreDoneNotice (l : Fin 8) (fr : Frame) (s : State) : Out :=
  runCtl (receive l fr 0x15 fun t =>
    if bits fr.arg.toNat 60 4 == 2 && t.flt.remap.target && t.flt.remap.state == 1 then
      checkRestored { t with flt.remap.op2 := true }
    else t) s

/-- A write of FLT_REMAPCMD (R379, R380). -/
def writeRemapCmd (v : Nat) (s : State) : State :=
  if bitAt v 0 && s.flt.remap.target && s.flt.remap.state == 1 then checkRestored { s with flt.remap.loaded := true } else s

/-- LOADED (R379). -/
def execLoaded (v : BitVec 32) (s : State) : Out := runCtl (writeRemapCmd v.toNat) s

/-- FENCE_NOTICE: the chip fences the named chip and relays the notice (R370, R372). -/
def execFenceNotice (l : Fin 8) (fr : Frame) (s : State) : Out :=
  run (routed l fr 0x15 fun t =>
    let a := fr.arg.toNat
    if bits a 60 4 == 1 then
      fenceChip (bits a 0 12) (bits a 56 4) (bits a 48 8 + 1) (bits a 36 12) (some (getLink t l.val).partner) t
    else t) s

/-! ### Scrubbing (R365) -/

/-- Every line of a range read: soft errors corrected and written back, bad lines reported and left (R363 to R365). -/
def scrub (lo hi : Nat) (s : State) : State :=
  let inR := fun l => decide (lo ≤ 64 * l) && decide (64 * l < hi)
  let soft := (s.ecc.softLines.filter inR).length
  (s.ecc.badLines.filter inR).foldl (fun t l => eccEvent 1 (64 * l) 6 t)
    { s with ecc.softLines := s.ecc.softLines.filter fun l => !inR l, flt.eccCor := s.flt.eccCor + soft }

/-- Both stacks are initialised. -/
def hbmReady (s : State) : Bool := s.hbm.stack0.inited && s.hbm.stack1.inited

/-- SCRUB_PASS: a pass that lasts longer than the period is late (R365). -/
def execScrubPass (s : State) : Out :=
  runCtl (fun s =>
    let per := cfgVal s 0x0301 * 1000000
    if per = 0 || !hbmReady s then s
    else
      let due := s.hbm.scrubFrom + per
      let late := decide (due < s.clk.fleet) && s.hbm.scrubs != 0
      let s1 := advanceTo due s
      scrub 0 0xC_0000_0000 { s1 with
        hbm := { s1.hbm with scrubFrom := s1.clk.fleet, scrubs := s1.hbm.scrubs + 1 }
        flt := { s1.flt with scrubLate := s1.flt.scrubLate + b2n late } }) s

/-- VAT_SCRUB: every 100 ms (R365). -/
def execVatScrub (s : State) : Out :=
  runCtl (fun s =>
    let s1 := advanceTo (nextMultiple 100000000 s.clk.fleet) s
    scrub 0xC_0000_0000 0xC_0800_0000 { s1 with hbm.vatScrubs := s1.hbm.vatScrubs + 1 }) s

/-! ### The Fault Unit's flags and the Event Ring (R366, R367, R399) -/

/-- The W1C flags of FLT_SUM0 (R366). -/
def w1cFlags : Nat := 1 + 16 + 64 + 256 + 512

/-- A write of FLT_SUM0 (R366). -/
def writeSum0 (v : Nat) (s : State) : State :=
  { s with flt.flags := s.flt.flags - (s.flt.flags &&& (v &&& w1cFlags)) }

/-- FAULT_CLEAR (R366, R367). -/
def execFaultClear (v : BitVec 64) (s : State) : Out := runCtl (writeSum0 v.toNat) s

/-- A write that the Fault Unit ignores (R399, R402). -/
def fltIgnored (off : Nat) (s : State) : State := post 0x0B 7 1 (pl4 off) s

/-- A write of FLT_EVHEAD (R21, R399). -/
def writeEvHead (v : Nat) (s : State) : State :=
  let n := evSize s
  let h := v % n
  if (s.ev.tail + n - s.ev.head % n) % n < (h + n - s.ev.head % n) % n then fltIgnored 0x0810 s
  else { s with ev.head := h }

/-- EVENT_RING_HEAD (R21, R399). -/
def execEventRingHead (idx : BitVec 32) (s : State) : Out := run (onTable 3 (writeEvHead idx.toNat)) s

/-- A write of FLT_EVBASE or FLT_EVSIZE (R399). -/
def writeEvSetup (r : RingReg) (v : Nat) (s : State) : State :=
  let off := match r with
    | .base => 0x0800
    | .size => 0x0808
  if s.ev.enable then fltIgnored off s
  else
    let e := { s.ev with head := 0, tail := 0, phase := true }
    { s with ev := match r with
        | .base => { e with base := v / 64 * 64 }
        | .size => { e with size := max 6 (min 20 (v % 32)) } }

/-- EVENT_RING_SETUP (R399). -/
def execEventRingSetup (r : RingReg) (v : BitVec 64) (s : State) : Out := runCtl (writeEvSetup r v.toNat) s

/-- The configuration-summary event (R334). -/
def configSummary (s : State) : State :=
  let r := s.rep
  let changed := ((upFrom 1 5).any fun i => r.counts.getD i 0 != 0)
  let sev := if s.pwr.state = .holding then 3 else if changed then 1 else 0
  post 0x01 1 sev (pl1 r.source ++ pl1 r.primary ++ pl1 r.golden ++ pl1 r.endStatus ++ ((upFrom 0 6).flatMap fun i => pl2 (r.counts.getD i 0))) s

/-- A write of FLT_EVCTRL: the first Enable after a reset posts the summary; in Loading no ring can be enabled (R315, R334, R399). -/
def writeEvCtrl (v : Nat) (s : State) : State :=
  unheld (fun s =>
    let s1 := { s with ev := { s.ev with enable := bitAt v 0, irq := bitAt v 1 } }
    if bitAt v 0 && !s.pwr.summaryPosted then configSummary { s1 with pwr.summaryPosted := true } else s1) s

/-- EVENT_RING_ENABLE (R399). -/
def execEventRingEnable (v : BitVec 32) (s : State) : Out := runCtl (writeEvCtrl v.toNat) s

end Sys2Proof.Machine
end

