-- ==== Sys2Proof/Machine/CultureRegs.lean ====
section
/-! DEFINITION. The Culture's registers: snapshot leases (R272) and the resume of a paused layer (R266). -/

namespace Sys2Proof.Machine

/-- The installed Plastic layer whose parameter block lies at an address: slot, layer descriptor (R125, R255). -/
def blockLayer (s : State) (a : Nat) : Option (Nat × LayerDesc) :=
  let found := (residents s).flatMap fun j =>
    ((jobMov (getJob s j)).layers.filter fun d => isPlastic d && d.cultureBase != 0 && globalLocal d.cultureBase == globalLocal a).map
      fun d => (j, d)
  found.head?

/-- What CUL_SNSTAT shows: code, lease ID, StepNumber (R273). -/
def snWord (code id step : Nat) : Nat := code + id % 65536 * 2 ^ 16 + step % 2 ^ 32 * 2 ^ 32

/-- A function's CUL_SNSTAT replaced. -/
def setSnStat (fn v : Nat) (s : State) : State := { s with cul.snStat := tput s.cul.snStat fn v }

/-- A write of CUL_SNREQ: Granted, None or Busy (R272). -/
def requestLease (fn v : Nat) (s : State) : State :=
  let a := globalLocal (bits v 0 48)
  let ms := if bits v 48 16 = 0 then cfgVal s 0x0F02 else bits v 48 16
  match blockLayer s a with
  | none => setSnStat fn (snWord 2 0 0) s
  | some (_, d) =>
    match (tget {} s.cul.prog d.cultureBase).latest with
    | none => setSnStat fn (snWord 2 0 0) s
    | some b =>
      if 16 ≤ s.cul.leases.length || s.cul.leases.any fun l => l.block == d.cultureBase then setSnStat fn (snWord 3 0 0) s
      else
        let p := readPar s.mem d.cultureBase
        let at_ := p.snap + b * snapPitch p d
        let id := s.cul.nextId
        let s1 := setSnStat fn (snWord 1 id (memNat s.mem at_ 4)) s
        { s1 with cul := { s1.cul with
          snAddr := tput s.cul.snAddr fn at_, nextId := (id + 1) % 65536
          leases := s.cul.leases ++ [{ id := id, fn := fn, block := d.cultureBase, buf := b, due := s.clk.fleet + ms * 1000000 }] } }

/-- A lease gone; its function's CUL_SNSTAT is idle again when it shows that lease. -/
def dropLease (l : SnapLease) (s : State) : State :=
  let w := tget 0 s.cul.snStat l.fn
  let s1 := { s with cul.leases := s.cul.leases.erase l }
  if bits w 0 2 = 1 && bits w 16 16 == l.id then setSnStat l.fn 0 s1 else s1

/-- A write of CUL_SNREL (R272). -/
def releaseLease (fn v : Nat) (s : State) : State :=
  match s.cul.leases.find? fun l => l.fn == fn && l.id == v % 65536 with
  | some l => dropLease l s
  | none => s

/-- The leases of a function released (R272, R419). -/
def releaseFn (fn : Nat) (s : State) : State := (s.cul.leases.filter fun l => l.fn == fn).foldl (fun t l => dropLease l t) s

/-- CUL_SNREQ (R272). -/
def execCulSnreq (fn : Fin 9) (v : BitVec 64) (s : State) : Out := runCtl (requestLease fn.val v.toNat) s

/-- CUL_SNREL (R272). -/
def execCulSnrel (fn : Fin 9) (v : BitVec 64) (s : State) : Out := runCtl (releaseLease fn.val v.toNat) s

/-- LEASE_EXPIRED (R272, R274). -/
def execLeaseExpired (id : BitVec 16) (s : State) : Out :=
  runCtl (fun s =>
    match s.cul.leases.find? fun l => l.id == id.toNat with
    | some l => dropLease l (post 0x09 4 1 (pl2 l.id ++ pl2 l.fn) (advanceTo l.due s))
    | none => s) s

/-- A write of CUL_RESUME (R266). -/
def writeResume (v : Nat) (s : State) : State := { s with cul.resumeAt := bits v 0 48 }

/-- A write of CUL_RESUMESTEP: the resume of a Paused layer is armed (R266). -/
def armResume (v : Nat) (s : State) : State :=
  match blockLayer s s.cul.resumeAt with
  | some (_, d) =>
    if bitAt (readPar s.mem d.cultureBase).state 1 then { s with cul.armed := tput s.cul.armed d.cultureBase (v % 2 ^ 32) } else s
  | none => s

/-- CUL_RESUMESTEP (R266). -/
def execCulResumestep (v : BitVec 64) (s : State) : Out := runCtl (armResume v.toNat) s

end Sys2Proof.Machine
end

