-- ==== Sys2Proof/Machine/Escapement.lean ====
section
/-! DEFINITION. The Escapement (R303 to R314): the time exchange, the choice of a parent, the discipline of fleet time,
beat_in. -/

namespace Sys2Proof.Machine

/-! ### States and parents (R306, R307, R310) -/

/-- The code of a state (R307). -/
def escNum : EscState → Nat
  | .free => 0
  | .acquire => 1
  | .locked => 2
  | .holdover => 3

/-- The chip ID of the parent, if there is one. -/
def parentChip (s : State) : Option Nat := s.esc.parent.map fun n => (getLink s n).partner

/-- Is this chip named as the time root (R306, R335). -/
def isRoot (s : State) : Bool := cfgVal s 0x0B01 == 0xFFF || cfgVal s 0x0B01 == chipId s

/-- The Escapement enters a state and reports it (R307, R314); the chip named root takes its root role once Locked (R310). -/
def setEsc (x : EscState) (s : State) : State :=
  if s.esc.state = x then s
  else post 0x02 1 0 (pl1 (escNum s.esc.state) ++ pl1 (escNum x) ++ plOpt 2 (parentChip s))
    { s with esc := { s.esc with
      state := x, results := [], good := 0, big := 0
      root := x == .locked && isRoot s
      holdAt := if x = .holdover then s.clk.fleet else s.esc.holdAt
      holdovers := if x = .holdover then s.esc.holdovers + 1 else s.esc.holdovers } }

/-- The links toward the root chip, primary first (R306, rule 3). -/
def rootLinks (s : State) : List Nat :=
  let e := tget 0 s.routes (cfgVal s 0x0B01)
  if !bitAt e 31 then [] else bits e 0 3 :: (if bitAt e 30 then [bits e 3 3] else [])

/-- The ring link that R306 rule 2 names. -/
def ringParent (s : State) : Option Nat :=
  let n := cfgVal s 0x0601
  let j := cfgVal s 0x0602
  if n = 0 || j = 0 then none
  else linkOfRole s (if j ≤ n / 2 then 2 else 1)

/-- The first Up link of a list. -/
def firstUp (s : State) (ls : List Nat) : Option Nat := ls.find? (linkUp s)

/-- The parent that R306 names, when its link is Up. -/
def chooseParent (s : State) : Option Nat :=
  match ringParent s with
  | some n => firstUp s [n]
  | none => firstUp s (rootLinks s)

/-- The parent chosen again, skipping any partner that is not Up (R307). -/
def chooseAgain (s : State) : Option Nat :=
  match ringParent s with
  | some n => firstUp s (n :: rootLinks s)
  | none => firstUp s (rootLinks s)

/-- The Locked partner on the lowest-numbered Up link, as the root finds it (R310, log 3). -/
def lockedPartner (s : State) : Option Nat :=
  (upFrom 0 8).find? fun n => linkUp s n && (getLink s n).role != 0 && Config.partnerLocked (s.freeCtr + n)

/-- Acquisition from a parent begins. -/
def acquireFrom (n : Nat) (s : State) : State :=
  setEsc .acquire { s with esc := { s.esc with parent := some n, stepped := false, parentOff := none } }

/-- A link in use is still in Train: whether its partner is Locked is not known yet. -/
def linksTrain (s : State) : Bool := s.links.any fun x => x.2.role != 0 && x.2.state == .train

/-- In Free, a parent link that is Up is taken. The root takes a Locked partner; with none, and beat_in off, it is Locked once no link
is left to look at (R307, R310; DEDUCED, log 3). -/
def escPoll (s : State) : State :=
  if s.esc.state != .free || s.pwr.state == .holding || s.pwr.state == .dormant || !s.pwr.handedOver then s
  else if isRoot s then
    let s1 := { s with freeCtr := s.freeCtr + 8 }
    match lockedPartner s with
    | some n => acquireFrom n { s1 with esc := { s1.esc with adopted := true } }
    | none => if cfgVal s 0x0B02 == 0 && !linksTrain s then setEsc .locked s1 else s1
  else match chooseParent s with
    | some n => acquireFrom n s
    | none => s

/-- The Escapement enters Free, at the handover or on leaving Dormant, and looks for a parent (R307, R310). -/
def escStart (s : State) : State :=
  escPoll (setEsc .free { s with
    esc := { s.esc with
      adopted := false, parent := none, stepped := false, parentOff := none, freeAt := s.clk.fleet, edge := none, edgeValid := false
      lost := false }
    clk.ratePpb := 0 })

/-! ### The exchange (R303, R304) -/

/-- The Arg of an exchange frame (R303). -/
def exchangeArg (op residence id time : Nat) : Nat :=
  op * 2 ^ 61 + residence % 2 ^ 20 * 2 ^ 40 + id % 256 * 2 ^ 32 + time % 2 ^ 32

/-- TIME_EXCHANGE_START: a request to the partner of an Up link with a role (R303). -/
def execTimeExchangeStart (l : Fin 8) (s : State) : Out :=
  runCtl (fun s =>
    let n := l.val
    let s1 := escPoll s
    if linkUp s n && (getLink s n).role != 0 then
      let id := s1.esc.nextEx
      sendUOn n 0x12 (exchangeArg 0 0 id s.clk.fleet)
        { s1 with esc := { s1.esc with
          nextEx := (id + 1) % 256, pending := tmod [] s1.esc.pending n (fun xs => xs ++ [(id, s.clk.fleet)]) } }
    else s1) s

/-- TIME_EXCHANGE_REQUEST: answered with t2 − t1, where t2 is `since` ns ago; the residence t3 − t2 is set when the answer goes
out (R303, R304). -/
def execTimeExchangeRequest (l : Fin 8) (fr : Frame) (since : Nat) (s : State) : Out :=
  runCtl (receive l fr 0x12 fun t =>
    let a := fr.arg.toNat
    let t2 := t.clk.fleet - since
    if bits a 61 3 != 0 || bitAt a 60 then t
    else answerOn l.val 0x12 (exchangeArg 1 0 (bits a 32 8) ((t2 + 2 ^ 32 - bits a 0 32) % 2 ^ 32)) t2 t) s

/-! ### Discipline (R307) -/

/-- Offset within ±10 ns. -/
def closeBy (o : Int) : Bool := decide (-10 ≤ o) && decide (o ≤ 10)

/-- Offset beyond 10 µs. -/
def farOff (o : Int) : Bool := decide (o < -10000) || decide (10000 < o)

/-- The median of the results: the mean of the middle two, rounded down (log 15). -/
def median (xs : List Int) : Int :=
  let ys := sortBy (fun a b => decide (a < b)) xs
  (ys.getD (ys.length / 2 - 1) 0 + ys.getD (ys.length / 2) 0) / 2

/-- A step of fleet time; it never goes back (R300). -/
def stepFleet (d : Int) (s : State) : State := { s with clk := { s.clk with fleet := s.clk.fleet + d.toNat } }

/-- 16 consecutive results within ±10 ns: Locked; a root that acquired follows no parent any more (R307, R310). -/
def lockNow (s : State) : State :=
  let s1 := setEsc .locked s
  if isRoot s then { s1 with esc := { s1.esc with parent := none, parentOff := none } } else s1

/-- A usable result from the parent (R307). -/
def parentResult (o : Int) (s : State) : State :=
  let e := s.esc
  let s1 := { s with esc := { e with lastUse := s.clk.fleet, parentOff := some (1000 * o) } }
  let good := if closeBy o then e.good + 1 else 0
  match e.state with
  | .free => s1
  | .acquire =>
    if !e.stepped then
      let rs := e.results ++ [o]
      if rs.length < 16 then { s1 with esc.results := rs }
      else
        let s2 := stepFleet (median rs) s1
        { s2 with esc := { s2.esc with stepped := true, results := [], good := 0, parentOff := none, lastUse := s2.clk.fleet } }
    else if 16 ≤ good then lockNow { s1 with esc.good := good }
    else { s1 with esc.good := good }
  | .locked =>
    let big := if farOff o then e.big + 1 else 0
    if 16 ≤ big then setEsc .holdover (post 0x02 2 1 (plOpt 2 (parentChip s) ++ leBytes 4 (wrapInt 32 o)) { s1 with esc.big := big })
    else { s1 with esc.big := big }
  | .holdover => if 16 ≤ good then setEsc .locked { s1 with esc.good := good } else { s1 with esc.good := good }

/-- Does a delay exceed the least of the last 16 by more than 20 ns (R304). -/
def queuedResult (ds : List Int) (d : Int) : Bool := ds.any fun x => decide (x + 20 < d)

/-- A result on a link: offset and delay of one exchange (R304). -/
def takeResult (n : Nat) (o d : Int) (s : State) : State :=
  let ds := tget [] s.esc.delays n
  let s1 := { s with esc.delays := tput s.esc.delays n (((if 16 ≤ ds.length then ds.drop 1 else ds)) ++ [d]) }
  if queuedResult ds d then s1
  else
    let s2 := { s1 with esc := { s1.esc with offset := tput s1.esc.offset n (some o), delay := tput s1.esc.delay n d } }
    if s.esc.parent = some n then parentResult o s2 else s2

/-- TIME_EXCHANGE_RESPONSE: t4 is `since` ns ago (R303, R304). -/
def execTimeExchangeResponse (l : Fin 8) (r : TimeRx) (s : State) : Out :=
  runCtl (receive l r.fr 0x12 fun t =>
    let a := r.fr.arg.toNat
    let n := l.val
    if bits a 61 3 != 1 || bitAt a 60 then t
    else match (tget [] t.esc.pending n).find? fun x => x.1 == bits a 32 8 with
      | none => t
      | some x =>
        let fwd := signed 32 (bits a 0 32)
        let bwd := (((t.clk.fleet - r.since : Nat) : Int) - x.2) - fwd - (bits a 40 20 : Int)
        takeResult n ((fwd - bwd) / 2) ((fwd + bwd) / 2)
          { t with esc.pending := tmod [] t.esc.pending n (fun xs => xs.erase x) }) s

/-- TIME_EXCHANGE_ABANDON: no response within 2 ms (R304). -/
def execTimeExchangeAbandon (l : Fin 8) (id : BitVec 8) (s : State) : Out :=
  runCtl (fun s =>
    match (tget [] s.esc.pending l.val).find? fun x => x.1 == id.toNat with
    | none => s
    | some x => advanceTo (x.2 + 2000000) { s with esc.pending := tmod [] s.esc.pending l.val (fun xs => xs.erase x) }) s

/-- r that removes an offset in ps over 8 ms, within ±100 × 10^−6 [parts per 10^9, which is ps in 1 ms] (R307). -/
def rateFor (o : Int) : Int := max (-100000) (min 100000 (o / 8))

/-- r set for the offset that is left, of which the next 1 ms removes r (R307, R311). -/
def steerBy (o : Int) (s : State) : State :=
  { s with clk.ratePpb := rateFor o, esc.parentOff := some (o - rateFor o) }

/-- RATE_UPDATE: every 1 ms in Locked, and in Acquire after its step (R307, R311). -/
def execRateUpdate (s : State) : Out :=
  run (onEsc (onTable 5 fun s =>
    let s1 := advanceTo (nextMultiple 1000000 s.clk.fleet) s
    match s.esc.state, s.esc.parentOff with
    | .locked, some o => steerBy o s1
    | .acquire, some o => if s.esc.stepped then steerBy o s1 else s1
    | _, _ => s1)) s

/-- HOLDOVER_ENTRY: no usable result from the parent for 16 ms (R307). -/
def execHoldoverEntry (s : State) : Out :=
  runCtl (onEsc fun s =>
    if s.esc.state == .locked && s.esc.parent.isSome then setEsc .holdover (advanceTo (s.esc.lastUse + 16000000) s) else s) s

/-- PARENT_CHANGE: after 16 ms in Holdover without a usable result (R307). Reason 1 (log 14). -/
def execParentChange (s : State) : Out :=
  runCtl (onEsc fun s =>
    if s.esc.state != .holdover then s
    else
      let s1 := advanceTo (max s.esc.holdAt s.esc.lastUse + 16000000) s
      match chooseAgain s with
      | some n =>
        if s.esc.parent = some n then s1
        else post 0x02 4 0 (plOpt 2 (parentChip s) ++ pl2 (getLink s n).partner ++ pl1 1)
          { s1 with esc := { s1.esc with parent := some n, good := 0, parentOff := none } }
      | none => s1) s

/-! ### beat_in (R310, R311) -/

/-- The nearest multiple of 10^9 ns minus an instant. -/
def edgeOffset (t : Nat) : Int :=
  let m := t % 1000000000
  if m ≤ 500000000 then -(m : Int) else 1000000000 - (m : Int)

/-- Is an edge 1 s ± 100 µs after the one before it (R311). -/
def edgeFits (prev t : Nat) : Bool := decide (prev + 999900000 ≤ t) && decide (t ≤ prev + 1000100000)

/-- A valid edge at the root: alignment in Free, steering otherwise (R311). -/
def validEdge (s : State) : State :=
  let t := s.clk.fleet
  if s.esc.state == .free then
    let m := nextMultiple 1000000000 t
    setEsc .locked { s with
      clk := { s.clk with fleet := m, frac := 0 }
      esc := { s.esc with edge := some m, edgeOff := 0, edgeValid := true, lastValid := some m, lost := false } }
  else { s with esc := { s.esc with
      edge := some t, edgeOff := edgeOffset t, edgeValid := true, lastValid := some t, lost := false
      parentOff := if s.esc.parent.isNone then some (1000 * edgeOffset t) else s.esc.parentOff } }

/-- BEAT_IN_EDGE (R311). -/
def execBeatInEdge (s : State) : Out :=
  runCtl (onEsc fun s =>
    let t := s.clk.fleet
    let stamped := { s with esc.edgeOff := edgeOffset t }
    if !isRoot s || cfgVal s 0x0B02 == 0 then stamped
    else match s.esc.edge with
      | none => { stamped with esc.edge := some t }
      | some p =>
        if edgeFits p t then validEdge s
        else { stamped with esc.edge := some t, esc.edgeValid := false, esc.invalid := s.esc.invalid + 1 }) s

/-- BEAT_IN_LOST: three seconds without a valid edge; the root keeps r (R311). -/
def execBeatInLost (s : State) : Out :=
  runCtl (onEsc fun s =>
    if !isRoot s || cfgVal s 0x0B02 == 0 || s.esc.lost then s
    else
      let s1 := advanceTo (s.esc.lastValid.getD s.esc.freeAt + 3000000000) s
      post 0x02 3 1 (plOpt 8 s.esc.lastValid)
        { s1 with esc := { s1.esc with lost := true, edge := none, edgeValid := false, parentOff := none } }) s

/-- ROOT_FREE_TIMEOUT: 3 s in Free without an alignment (R310). -/
def execRootFreeTimeout (s : State) : Out :=
  runCtl (onEsc fun s =>
    if isRoot s && s.esc.state == .free && s.pwr.handedOver && s.pwr.state != .holding then
      setEsc .locked (advanceTo (s.esc.freeAt + 3000000000) s)
    else s) s

/-- LOCK_TIMEOUT: not Locked by the handover plus escapement.lock_timeout (R318). -/
def execLockTimeout (s : State) : Out :=
  runCtl (fun s =>
    match s.pwr.lockDue with
    | some d =>
      if s.pwr.state == .starting && s.esc.state != .locked && !s.pwr.lockPassed then
        let s1 := passNs (d - s.upNs) s
        post 0x02 5 1 (pl1 (escNum s.esc.state) ++ plOpt 2 (parentChip s)) { s1 with pwr.lockPassed := true }
      else s
    | none => s) s

end Sys2Proof.Machine
end

