-- ==== Sys2Proof/Machine/ThreadMem.lean ====
section
/-! DEFINITION. LD, ST, MLD and MST (R65 to R72, R83, R85). -/

namespace Sys2Proof.Machine

/-- s[SrcA] + Imm[47:0], sign-extended, modulo 2^48 (R83). -/
def globalAddr (s : State) (t : Nat) (f : TField) : Nat :=
  wrapInt 48 ((readScalar s t f.thr.toNat f.srcA : Int) + signed 48 (f.imm.toNat % 2 ^ 48))

/-- A remote access goes out as a class B frame, on the route that the job's partition has (R12), and is remembered until it
completes (R71, R72). -/
def sendRemote (c : TileCtx) (f : TField) (kind arg g : Nat) (keys : List Nat) (into : Option Nat) (size : Nat)
    (payload : List Byte) (s : State) : State :=
  let tag := s.net.nextTag
  let r : Remote :=
    { tag := tag, slot := c.slot, tp := c.t, thr := f.thr.toNat, chip := globalChip g, addr := g, keys := keys, into := into,
      size := size, from_ := s.clk.fleet }
  sendVia (getPart s (jobPart c.job)).routes (mkFrame s 2 kind (globalChip g) arg tag payload)
    { s with net := { s.net with
      nextTag := (tag + 1) % 65536, remotes := s.net.remotes ++ [r], dropped := s.net.dropped.erase (kind, tag) } }

/-- The way of a thread access to a Vat bank, and back (R63). -/
def vatWay (t a : Nat) : Nat := if vatCluster a = clusterOf t then 6 else 20

/-- A thread access to a Vat, issued in a cycle (R63). -/
def vatAccess (s : State) (c : TileCtx) (cy a n : Nat) (into : Option Nat) (bytes : List Byte) (keys : List Nat) : VatAcc :=
  let way := vatWay c.t a
  { slot := c.slot, tp := c.t, base := runBase s c.slot, own := vatCluster a == clusterOf c.t, lat := way, lo := a, size := n
    into := into, bytes := bytes, keys := keys, next := 0, want := runBase s c.slot + cy + way, served := [] }

/-- Bytes at a local address go into registers or buffer lines at debug address `into`. A Vat's banks serve them line by line
(R63, R66); HBM lines are usable after the access, or when the last deferred one is served (R34, R75, R85). -/
def loadLocal (c : TileCtx) (cy a n into keysFrom nKeys : Nat) (s : State) : State :=
  let keys := (upFrom 0 nKeys).map fun i => keysFrom + 64 * i
  let s1 := countSoft a n s
  if 0xC_0000_0000 ≤ a then enterVat (vatAccess s c cy a n (some into) [] keys) s1
  else
    let at_ := cy + memLatency s c.t a (cdiv n 64)
    let s2 := chargeHbm c a n at_ keys false (putMem into (memRead s.mem a n) s1)
    if defersHbm c a n s then s2
    else modTp c.t (fun tp => { tp with
      ready := keys.foldl (fun r k => tput r k at_) tp.ready
      settled := if matrixBase c.t ≤ into && into < accLine c.t 0 then tp.settled else max tp.settled at_ }) s2

/-- Bytes stored at a local address. A Vat's banks take them line by line (R63, R66); an HBM store is complete after the access,
or when its last deferred line is served, and its bytes stand there from its issue on (R67, R69, R85; DESIGN CHOICE, log 83). -/
def storeLocal (c : TileCtx) (cy a : Nat) (bs : List Byte) (s : State) : State :=
  let at_ := cy + memLatency s c.t a (cdiv bs.length 64)
  if 0xC_0000_0000 ≤ a then enterVat (vatAccess s c cy a bs.length none bs []) s
  else
    let s1 := chargeHbm c a bs.length at_ [] true (storeMem a bs s)
    if defersHbm c a bs.length s then s1
    else modRun c.slot (fun r => { r with stores := (c.t, c.tile.tile, at_) :: r.stores }) s1

/-- A store that covers part of a line whose check bits are bad meets the error (R364). -/
def mergesBad (s : State) (a n : Nat) : Bool :=
  s.ecc.badLines.any fun l => decide (a / 64 ≤ l) && decide (l ≤ (a + n - 1) / 64) &&
    !(decide (a ≤ 64 * l) && decide (64 * l + 64 ≤ a + n))

/-- The Arg of a remote write (log 12): the address, and in [58:48] the bytes when they are no whole units. -/
def writeArg (g n : Nat) : Nat := g + (if n % 64 = 0 then 0 else n % 2048 * 2 ^ 48)

/-! ### LD -/

/-- What LD accepts. -/
def ldSpec : OpSpec :=
  { modOk := modsIn [0], tyOk := tyBytes, kinds := kinds2 .data .sc
    access := fun s c f => some (globalAddr s c.t f, opSize f.dst, opSize f.dst) }

/-- LD: 8 B or one line into a register, frame line or accumulator line (R85). -/
def execLd (t : Fin 128) (f : TField) (s : State) : Out :=
  run (issue ldSpec t f fun c cy s =>
    let g := globalAddr s c.t f
    let a := globalLocal g
    let n := opSize f.dst
    let into := opAddr c.t f.thr.toNat f.dst
    let next := cy + 1 + frameCycles ldSpec f
    if isRemote s g then
      retire c.t next (modTp c.t (fun tp => { tp with arriving := into :: tp.arriving })
        (sendRemote c f 0x09 (g / 64 * 64) g [into] (some into) n [] s))
    else if lineBad s a n then failEcc c a n s
    else retire c.t next (loadLocal c cy a n into into 1 s)) s

/-! ### ST -/

/-- What ST accepts. -/
def stSpec : OpSpec :=
  { modOk := modsIn [0], tyOk := tyBytes, kinds := fun _ => (.unused, .sc, .data, .unused)
    access := fun s c f => some (globalAddr s c.t f, opSize f.srcB, opSize f.srcB) }

/-- ST: 8 B or one line (R85). -/
def execSt (t : Fin 128) (f : TField) (s : State) : Out :=
  run (issue stSpec t f fun c cy s =>
    let g := globalAddr s c.t f
    let a := globalLocal g
    let data := readOp s c.t f.thr.toNat f.srcB
    let next := cy + 1 + frameCycles stSpec f
    if isRemote s g then
      retire c.t next (sendRemote c f 0x08 (writeArg g data.length) g [] none data.length data s)
    else if mergesBad s a data.length then failEcc c a data.length s
    else retire c.t next (storeLocal c cy a data s)) s

/-! ### MLD -/

/-- First buffer line and number of lines of an MLD (R83). -/
def mldLines (s : State) (c : TileCtx) (f : TField) : Nat × Nat :=
  let v := readScalar s c.t f.thr.toNat f.srcB
  (bits v 0 9, bits v 16 9 + 1)

/-- What MLD accepts: its lines lie in the operand buffer (R95, reason 4). -/
def mldSpec : OpSpec :=
  { modOk := modsIn [0], tyOk := tyBytes, kinds := fun _ => (.unused, .sc, .sc, .unused)
    range := fun s c f => decide ((mldLines s c f).1 + (mldLines s c f).2 ≤ 512)
    access := fun s c f => some (globalAddr s c.t f, 64 * (mldLines s c f).2, 64)
    keys := fun s c f => (upFrom (mldLines s c f).1 (mldLines s c f).2).map (bufferLine c.t)
    writesBuf := mldLines }

/-- MLD: n lines into the operand buffer (R82, R85). -/
def execMld (t : Fin 128) (f : TField) (s : State) : Out :=
  run (issue mldSpec t f fun c cy s =>
    let g := globalAddr s c.t f
    let a := globalLocal g
    let (b, n) := mldLines s c f
    let into := bufferLine c.t b
    if isRemote s g then
      let keys := (upFrom 0 n).map fun i => into + 64 * i
      let s1 := modTp c.t (fun tp => { tp with arriving := keys ++ tp.arriving }) s
      retire c.t (cy + 1) ((upFrom 0 (cdiv n 32)).foldl (fun s i =>
        let k := min 32 (n - 32 * i)
        let g' := g + 2048 * i
        sendRemote c f 0x09 (g' + (k - 1) * 2 ^ 59) g' ((upFrom 0 k).map fun x => into + 2048 * i + 64 * x) (some (into + 2048 * i))
          (64 * k) [] s) s1)
    else if lineBad s a (64 * n) then failEcc c a (64 * n) s
    else retire c.t (cy + 1) (loadLocal c cy a (64 * n) into into n s)) s

/-! ### MST -/

/-- Accumulator lines of an MST (R83). -/
def mstCount (f : TField) : Nat := bits f.imm.toNat 56 8 + 1

/-- Bytes that an MST stores (R85). -/
def mstSize (f : TField) : Nat := 16 * mstCount f * elSize (tyOf f)

/-- What MST accepts: its lines lie in the accumulators (R95, reason 4). -/
def mstSpec : OpSpec :=
  { modOk := modsIn [0], tyOk := tyElems, kinds := fun _ => (.unused, .sc, .accLine, .unused)
    range := fun _ _ f => decide (opIndex f.srcB + mstCount f ≤ 256)
    access := fun s c f => some (globalAddr s c.t f, mstSize f, 64)
    keys := fun _ c f => (upFrom (opIndex f.srcB) (mstCount f)).map (accLine c.t) }

/-- MST: accumulator lines converted and stored packed (R84, R85). -/
def execMst (t : Fin 128) (f : TField) (s : State) : Out :=
  run (issue mstSpec t f fun c cy s =>
    let g := globalAddr s c.t f
    let a := globalLocal g
    let data := mstBytes (tyOf f) (mstCount f) (memRead s.mem (accLine c.t (opIndex f.srcB)) (64 * mstCount f))
    if isRemote s g then
      retire c.t (cy + 1) ((upFrom 0 (cdiv data.length 2048)).foldl (fun s i =>
        let part := (data.drop (2048 * i)).take 2048
        sendRemote c f 0x08 (writeArg (g + 2048 * i) part.length) (g + 2048 * i) [] none part.length part s) s)
    else if mergesBad s a data.length then failEcc c a data.length s
    else retire c.t (cy + 1) (storeLocal c cy a data s)) s

end Sys2Proof.Machine
end

