-- ==== Sys2Proof/Machine/LinkRx.lean ====
section
/-! DEFINITION. What a link receives (R168, R172, R178 to R181): control blocks, errors, and the frames of the collectives,
the remote accesses, the heartbeats and the routing digests. -/

namespace Sys2Proof.Machine

/-- A command that acts only on a link that is Up. -/
def ifUp (l : Fin 8) (f : State → State) (s : State) : State := if linkUp s l.val then f s else s

/-! ### Control blocks (R168)

Each comes with the symbols that the FEC corrected in its codeword (R181, log 85). -/

/-- A block on an Up link counts its corrected symbols and then acts (R181). -/
def ifBlock (x : BlockRx) (f : State → State) (s : State) : State := ifUp x.link (f ∘ countSymbols x.link.val x.corr) s

/-- ACK: frames acknowledged, credits returned (R178). -/
def execAck (x : BlockRx) (ackSeq u c b : BitVec 16) (s : State) : Out :=
  runCtl (ifBlock x (takeAck x.link.val ackSeq.toNat ∘ addCredits x.link.val u.toNat c.toNat b.toNat)) s

/-- A replay from the first unacknowledged frame, where there is one (R179). -/
def beginReplay (n : Nat) (s : State) : State :=
  if (getLink s n).unacked.isEmpty then s
  else modLink n (fun l => { l with replayQ := l.unacked, replays := l.replays + 1, ackAt := s.clk.fleet }) s

/-- NAK (R179). -/
def execNak (x : BlockRx) (_expected : BitVec 16) (s : State) : Out := runCtl (ifBlock x (beginReplay x.link.val)) s

/-- ALIGNMENT_MARKER: the lane map and the codeword counter (R168). -/
def execAlignmentMarker (x : BlockRx) (laneMap : BitVec 8) (counter : BitVec 64) (s : State) : Out :=
  runCtl (fun t => modLink x.link.val (fun y => { y with laneMap := laneMap.toNat, codeword := counter.toNat }) (ifBlock x id t)) s

/-- RETRAIN_REQUEST: 1 fast, 2 full (R168, R182). -/
def execRetrainRequest (x : BlockRx) (what : BitVec 8) (s : State) : Out :=
  runCtl (ifBlock x fun t =>
    if what = 1 then beginFast x.link.val false t else if what = 2 then beginTrain x.link.val false t else t) s

/-- RESERVED_CONTROL_BLOCK: ignored, and one link error (R168, R181). -/
def execReservedControlBlock (x : BlockRx) (type : BitVec 8) (s : State) : Out :=
  runCtl (ifBlock x fun t => if 4 < type.toNat then linkError x.link.val t else t) s

/-! ### Errors (R178, R181) -/

/-- Frames are discarded until the expected one comes, after an error that is counted on its own (R178). -/
def discardOn (n : Nat) (s : State) : State := oweNak n (modLink n (fun l => { l with gap := true }) s)

/-- UNCORRECTABLE_CODEWORD: one link error; a frame that it lies in is discarded and asked for again (R178, R181). -/
def execUncorrectableCodeword (l : Fin 8) (inFrame : Bool) (s : State) : Out :=
  runCtl (ifUp l fun t =>
    let t1 := linkError l.val (modLink l.val (fun x => { x with uncorr := x.uncorr + 1 }) t)
    if inFrame then discardOn l.val t1 else t1) s

/-- FRAME_CRC_FAILURE: one link error; the frame and every later one are discarded until the expected one comes (R178). -/
def execFrameCrcFailure (l : Fin 8) (s : State) : Out :=
  runCtl (ifUp l fun t => discardOn l.val (linkError l.val (modLink l.val (fun x => { x with crcErr := x.crcErr + 1 }) t))) s

/-! ### Frames -/

/-- FRAME_DISCARD: a frame that R172 discards is sequenced and acknowledged, counted and reported. -/
def execFrameDiscard (l : Fin 8) (fr : Frame) (s : State) : Out :=
  runCtl (fun t => if frameKindOk fr then t else receive l fr 64 id t) s

/-- A collective frame's content is discarded and counted (R198). -/
def dropColl (s : State) : State := { s with ring.collDrop := s.ring.collDrop + 1 }

/-- Does a data frame lie within a half that the chip is to receive (R195). -/
def collFits (s : State) (j : Nat) (m : Movement) (c : Coll) (f : Frame) : Bool :=
  let p := jobPart (getJob s j)
  let n := viewAt s p 0
  let a := f.arg.toNat
  let dir := bits a 63 1
  let stage := bits a 48 15
  decide (2 ≤ n) && decide (stage ≤ n - 2) &&
    decide (bits a 0 48 + f.payload.length ≤ halfRows m n (recvBlock c n (viewAt s p 1) dir stage) dir * c.rowBytes)

/-- The content of a data frame: for an armed program of the running ring job, from a chip not fenced (R198, R370). -/
def collIn (f : Frame) (s : State) : State :=
  let prog := f.tag.toNat
  if isFenced s f.src.toNat then s
  else match runningRing s with
    | none => dropColl s
    | some j =>
      let x := getJob s j
      match (jobMov x).colls[prog]? with
      | some c =>
        if (tget {} x.run.colls prog).armed && collFits s j (jobMov x) c f then takeColl j prog (jobMov x) c f s else dropColl s
      | none => dropColl s

/-- COLLECTIVE_DATA (R196 to R198). -/
def execCollectiveData (l : Fin 8) (fr : Frame) (s : State) : Out := run (routed l fr 0x01 (collIn fr)) s

/-- May a remote access touch `n` bytes here: HBM or Vat, in the ranges of the running ring job, from a chip of the ring that
is not fenced (R71). -/
def remoteOk (s : State) (src a n : Nat) : Bool :=
  match runningRing s with
  | none => false
  | some j =>
    !isFenced s src && inRing s (jobPart (getJob s j)) src && (regionKind a n == some 0 || regionKind a n == some 1) && covered (jobRanges (getJob s j)) a n

/-- A refusal sent back (R71). -/
def refuse (f : Frame) (s : State) : State := sendB 0x0B f.src.toNat 6 f.tag.toNat [] s

/-- An uncorrectable line that a remote access meets: reported, and refused (R71, R364). -/
def refuseEcc (f : Frame) (a n : Nat) (s : State) : State := refuse f (eccEvent 2 (badAddr s a n) 1 s)

/-- Bytes of a remote write: whole units, or Arg[58:48] (log 12). -/
def writeLen (f : Frame) : Nat :=
  let n := bits f.arg.toNat 48 11
  if n = 0 then f.payload.length else min n f.payload.length

/-- The content of a remote write (R71). -/
def remoteWriteIn (f : Frame) (s : State) : State :=
  let a := globalLocal f.arg.toNat
  let n := writeLen f
  if !remoteOk s f.src.toNat a n then refuse f s
  else if mergesBad s a n then refuseEcc f a n s
  else storeMem a (f.payload.take n) s

/-- REMOTE_WRITE (R71): it comes behind the thread accesses that are on their way. -/
def execRemoteWrite (l : Fin 8) (fr : Frame) (s : State) : Out := run (routed l fr 0x08 fun t => remoteWriteIn fr (serveAll t)) s

/-- The content of a remote read request: data or a refusal (R71). -/
def remoteReadIn (f : Frame) (s : State) : State :=
  let a := globalLocal f.arg.toNat
  let n := 64 * (bits f.arg.toNat 59 5 + 1)
  if !remoteOk s f.src.toNat a n then refuse f s
  else if lineBad s a n then refuseEcc f a n s
  else sendB 0x0A f.src.toNat f.arg.toNat f.tag.toNat (memRead s.mem a n) (countSoft a n s)

/-- REMOTE_READ_REQUEST (R71). -/
def execRemoteReadRequest (l : Fin 8) (fr : Frame) (s : State) : Out := run (routed l fr 0x09 fun t => remoteReadIn fr (serveAll t)) s

/-- The remote access that a frame answers. -/
def remoteOf (s : State) (f : Frame) : Option Remote :=
  s.net.remotes.find? fun r => r.tag == f.tag.toNat && r.chip == f.src.toNat

/-- The content of a read response: the load's data arrives (R72). -/
def responseIn (f : Frame) (s : State) : State :=
  match remoteOf s f with
  | none => s
  | some r =>
    match r.into with
    | none => s
    | some a =>
      let cy := cycleAt s r.slot
      let s1 := putMem a ((f.payload.drop (r.addr % 64)).take r.size)
        { s with net.remotes := s.net.remotes.filter fun x => x.tag != r.tag }
      modTp r.tp (fun tp => r.keys.foldl (fun tp k => noteReady k cy tp)
        { tp with arriving := tp.arriving.filter fun k => !r.keys.contains k }) s1

/-- REMOTE_READ_RESPONSE (R72). -/
def execRemoteReadResponse (l : Fin 8) (fr : Frame) (s : State) : Out := run (routed l fr 0x0A (responseIn fr)) s

/-- REMOTE_REFUSAL: the access fails with reason 6 (R65, R71). -/
def execRemoteRefusal (l : Fin 8) (fr : Frame) (s : State) : Out :=
  run (routed l fr 0x0B fun t =>
    match remoteOf t fr with
    | some r => failRemote r 6 t
    | none => t) s

/-! ### Heartbeats and digests (R190, R203, R207, R369) -/

/-- A heartbeat accepted from a neighbour: its misses are 0, its flags held. -/
def beatIn (arg : Nat) (x : Neighbour) : Neighbour :=
  { x with misses := 0, seen := true, arg := arg, suspect := false, verdict := if bitAt arg 0 then some (bits arg 0 3) else none }

/-- A heartbeat's effect on one side: the recovery event of a suspect neighbour (R190). -/
def takeBeat (n : Side) (src arg : Nat) (s : State) : State :=
  if sideChip s n != src || cfgVal s 0x0601 == 0 then s
  else
    modSide n (beatIn arg) (postIf (sideOf s n).suspect (0x10 + sideLink s n) 8 0 (pl2 src) s)

/-- HEARTBEAT: SelfFenced in it fences the sender (R190, R370). -/
def execHeartbeat (l : Fin 8) (fr : Frame) (s : State) : Out :=
  run (routed l fr 0x10 fun t =>
    let src := fr.src.toNat
    let a := fr.arg.toNat
    let one := cfgVal t 0x0603 == cfgVal t 0x0604
    let t1 := takeBeat .fwd src a t
    let t2 := if one then modSide .bwd (if sideChip t .bwd != src || cfgVal t 0x0601 == 0 then id else beatIn a) t1 else takeBeat .bwd src a t1
    if bitAt a 5 then fenceChip src 3 1 (chipId t) none t2 else t2) s

/-- The side whose digest a frame brings: its sender's; with both neighbours one chip, its link's (R203). -/
def digestSide (s : State) (l : Fin 8) (src : Nat) : Option Side :=
  if cfgVal s 0x0601 = 0 then none
  else if cfgVal s 0x0603 = src && cfgVal s 0x0604 = src then
    (if (getLink s l.val).role = 1 then some .fwd
     else if (getLink s l.val).role = 2 then some .bwd
     else if s.ring.fwd.digest.isNone then some .fwd else some .bwd)
  else if cfgVal s 0x0603 = src then some .fwd
  else if cfgVal s 0x0604 = src then some .bwd
  else none

/-- ROUTING_DIGEST: the latest digest accepted from a neighbour is held until it can be compared (R203). -/
def execRoutingDigest (l : Fin 8) (fr : Frame) (s : State) : Out :=
  runCtl (receive l fr 0x11 fun t =>
    match digestSide t l fr.src.toNat with
    | some n => modSide n (fun x => { x with digest := some fr.arg.toNat }) t
    | none => t) s

end Sys2Proof.Machine
end

