-- ==== Sys2Proof/Machine/LinkTx.lean ====
section
/-! DEFINITION. The transmitter of a link (R173 to R179), and the link's states (R181 to R187): training, retrains,
failure. -/

namespace Sys2Proof.Machine

/-! ### Sending (R173 to R178) -/

/-- Does a new frame fit the replay buffer (R177). -/
def replayFits (l : Link) (f : Frame) : Bool :=
  decide (sumNat (l.unacked.map frameBytes) + frameBytes f ≤ 32768) && decide (l.unacked.length < 1024)

/-- The credits that a frame's trailer returns: class, units (R170, R174). -/
def owedTrailer (l : Link) : Nat × Nat :=
  if l.owedU != 0 then (0, min l.owedU 1023)
  else if l.owedS != 0 then (1, min l.owedS 1023)
  else if l.owedB != 0 then (2, min l.owedB 1023)
  else (3, 0)

/-- Bytes of job traffic charged to the running ring job (R252). -/
def chargeLink (t : TxFrame) (s : State) : State :=
  match runningRing s with
  | some j =>
    if t.from_.isNone && t.fr.cls != 0 && t.fr.kind != 0x0C then
      modRun j (fun r => { r with linkBytes := r.linkBytes + frameBytes t.fr }) s
    else s
  | none => s

/-- A time exchange request (R303). -/
def isRequest (f : Frame) : Bool := f.kind == 0x12 && bits f.arg.toNat 61 3 == 0

/-- A frame as it goes out: a request of this chip carries the instant t1, a response the time since its request came, t3 − t2
(R303). -/
def stampFrame (s : State) (t : TxFrame) : Frame :=
  match t.asked with
  | some t2 => { t.fr with arg := t.fr.arg ||| BitVec.ofNat 64 ((s.clk.fleet - t2) % 2 ^ 20 * 2 ^ 40) }
  | none =>
    if isRequest t.fr && t.from_.isNone then { t.fr with arg := BitVec.ofNat 64 (exchangeArg 0 0 (bits t.fr.arg.toNat 32 8) s.clk.fleet) }
    else t.fr

/-- The request's t1 held for its response. -/
def noteSent (n : Nat) (t : TxFrame) (s : State) : State :=
  if isRequest t.fr && t.from_.isNone then
    { s with esc.pending := tmod [] s.esc.pending n fun xs =>
        xs.map fun x => if x.1 = bits t.fr.arg.toNat 32 8 then (x.1, s.clk.fleet) else x }
  else s

/-- A replayed frame: an exchange frame says so (R179, R303). -/
def replayed (f : Frame) : Frame := if f.kind = 0x12 then { f with arg := f.arg ||| BitVec.ofNat 64 (2 ^ 60) } else f

/-- The blocks of a frame (R166). -/
def frameBlocks (f : Frame) : Nat := frameBytes f / 32

/-- A new frame on the wire: numbered, its ack and returned credits set, held for replay; its credits are used, and those of a
forwarded frame are free again at the link that it came from (R170, R174, R177, R178). -/
def transmit (n : Nat) (t : TxFrame) (s : State) : State :=
  let l := getLink s n
  let (cc, cu) := owedTrailer l
  let f : Frame :=
    { stampFrame s t with
      seq := BitVec.ofNat 16 l.txSeq, ackSeq := BitVec.ofNat 16 (l.rxSeq + 65535)
      creditClass := BitVec.ofNat 2 cc, creditUnits := BitVec.ofNat 10 cu }
  let k := frameCredits f
  let b := frameBytes f
  let s1 := modLink n (fun l => { l with
    txSeq := (l.txSeq + 1) % 65536, ackOwed := false, unacked := l.unacked ++ [f], wire := l.wire ++ [.frame f (frameWire f)]
    blocks := l.blocks + frameBlocks f
    ackAt := if l.unacked.isEmpty then s.clk.fleet else l.ackAt
    owedU := if cc = 0 then l.owedU - cu else l.owedU, owedS := if cc = 1 then l.owedS - cu else l.owedS
    owedB := if cc = 2 then l.owedB - cu else l.owedB
    crU := if f.cls = 0 then l.crU - k else l.crU, crS := if f.cls = 1 then l.crS - k else l.crS
    crB := if f.cls = 2 then l.crB - k else l.crB
    txU := if f.cls = 0 then l.txU + b else l.txU, txS := if f.cls = 1 then l.txS + b else l.txS
    txB := if f.cls = 2 then l.txB + b else l.txB
    uBeat := if f.cls = 0 then l.uBeat + b else l.uBeat
    sBeat := if f.cls = 1 then l.sBeat + 64 * f.units.toNat else l.sBeat }) s
  noteSent n t (chargeLink t (match t.from_ with
    | some m => oweCredits m f s1
    | none => s1))

/-- The first k units of a data frame, and the rest with its offset moved (R173, R37). -/
def splitColl (f : Frame) (k : Nat) : Frame × Frame :=
  ({ f with units := BitVec.ofNat 6 k, payload := f.payload.take (64 * k) },
   { f with units := f.units - BitVec.ofNat 6 k, payload := f.payload.drop (64 * k), arg := f.arg + BitVec.ofNat 64 (64 * k) })

/-- The S claim of a link in a beat: that of the running ring job (R36, R37). -/
def sClaim (s : State) (n : Nat) : Nat :=
  match runningRing s with
  | some j => linkClaim (jobMov (getJob s j)) n
  | none => 0

/-- An S claim excess: counted once in a beat, with the payload that waits (R37, R385). -/
def holdS (n : Nat) (s : State) : State :=
  let l := getLink s n
  if l.sHeld then s
  else
    let s1 := modLink n (fun l => { l with sHeld := true, sExcess := l.sExcess + sumNat (l.qS.map fun t => 64 * t.fr.units.toNat) }) s
    match theRingPart s with
    | some p => if l.role = 1 || l.role = 2 then modPart p (fun y => { y with excess := true }) s1 else s1
    | none => s1

/-- The head of the S queue within the beat's claim, or none with the excess counted. -/
def takeS (n : Nat) (s : State) : Option State :=
  let l := getLink s n
  match l.qS with
  | [] => none
  | t :: rest =>
    let room := (sClaim s n - l.sBeat) / 64
    let k := min room t.fr.units.toNat
    if k = 0 then none
    else
      let (a, b) := splitColl t.fr k
      if replayFits l a && decide (frameCredits a ≤ l.crS) then
        some (transmit n { t with fr := a }
          (modLink n (fun l => { l with qS := if k = t.fr.units.toNat then rest else { t with fr := b } :: rest }) s))
      else none

/-- Is the S queue held by its claim. -/
def sOver (s : State) (n : Nat) : Bool :=
  let l := getLink s n
  !l.qS.isEmpty && decide ((sClaim s n - l.sBeat) / 64 = 0)

/-- The head of the U queue within 2 % of a beat (R173). -/
def takeU (n : Nat) (s : State) : Option State :=
  let l := getLink s n
  match l.qU with
  | [] => none
  | t :: rest =>
    if decide (l.uBeat + frameBytes t.fr ≤ 250 * l.width) && replayFits l t.fr && decide (frameCredits t.fr ≤ l.crU) then
      some (transmit n t (modLink n (fun l => { l with qU := rest }) s))
    else none

/-- The U frames that wait when the head is beyond its 2 %: counted once in a beat (R173). -/
def holdU (n : Nat) (s : State) : State :=
  let l := getLink s n
  match l.qU with
  | [] => s
  | t :: _ =>
    if 250 * l.width < l.uBeat + frameBytes t.fr && !l.uHeld then
      modLink n (fun l => { l with uHeld := true, uExcess := l.uExcess + l.qU.length }) s
    else s

/-- The head of the B queue. -/
def takeB (n : Nat) (s : State) : Option State :=
  let l := getLink s n
  match l.qB with
  | [] => none
  | t :: rest =>
    if replayFits l t.fr && decide (frameCredits t.fr ≤ l.crB) then
      some (transmit n t (modLink n (fun l => { l with qB := rest }) s))
    else none

/-- A control block on the wire. -/
def sayBlock (x : Wire) (l : Link) : Link := { l with wire := l.wire ++ [x], blocks := l.blocks + 1 }

/-- An Ack block with every credit owed, or an Idle block (R168, R173). -/
def sendBlock (n : Nat) (s : State) : State :=
  let l := getLink s n
  if l.ackOwed || l.owedU + l.owedS + l.owedB != 0 then
    modLink n (fun l => { sayBlock (.ack ((l.rxSeq + 65535) % 65536) l.owedU l.owedS l.owedB) l with
      ackOwed := false, owedU := 0, owedS := 0, owedB := 0 }) s
  else modLink n (sayBlock .idle) s

/-- The codewords sent, of 20 blocks each (R166). -/
def sentCodewords (l : Link) : Nat := l.blocks / 20

/-- An alignment marker is due: one for every 16,384 codewords (R168). -/
def markerDue (l : Link) : Bool := decide (l.marks < sentCodewords l / 16384)

/-- A restore's next frame, when the B queue of its route is empty. -/
def feedB (n : Nat) (s : State) : State :=
  if (getLink s n).qB.isEmpty && routeLink s s.flt.remap.peer == some n then feedRemap s else s

/-- The share of class B: an alignment marker when one is due, else the B queue, or a block (R168, R173). -/
def sendRest (n : Nat) (s : State) : State :=
  let s1 := feedB n s
  if markerDue (getLink s n) then
    modLink n (fun l => { sayBlock (.marker l.lanes (sentCodewords l)) l with marks := l.marks + 1 }) s
  else match takeB n s1 with
    | some t => t
    | none => sendBlock n s1

/-- What an Up link sends at a frame boundary: a Nak, a replay, then R173's order. -/
def sendNext (n : Nat) (s : State) : State :=
  let l := getLink s n
  if l.nakOwed then modLink n (fun l => { sayBlock (.nak l.rxSeq) l with nakOwed := false }) s
  else match l.replayQ with
    | f :: rest =>
      let b := frameBytes f
      modLink n (fun l => { l with
        replayQ := rest, wire := l.wire ++ [.frame (replayed f) (frameWire (replayed f))], blocks := l.blocks + frameBlocks f
        txU := if f.cls = 0 then l.txU + b else l.txU, txS := if f.cls = 1 then l.txS + b else l.txS
        txB := if f.cls = 2 then l.txB + b else l.txB }) s
    | [] =>
      match takeU n s with
      | some t => t
      | none =>
        let s1 := holdU n s
        match takeS n s1 with
        | some t => t
        | none => sendRest n (if sOver s1 n then holdS n s1 else s1)

/-- FRAME_BOUNDARY (R173). -/
def execFrameBoundary (l : Fin 8) (s : State) : Out := runCtl (ifUp l fun t => sendNext l.val (quiet l.val t)) s

/-- REPLAY_TIMEOUT: no ack has advanced for 2 µs (R179, R181). -/
def execReplayTimeout (l : Fin 8) (s : State) : Out :=
  runCtl (ifUp l fun t =>
    if (getLink t l.val).unacked.isEmpty then t
    else linkError l.val (beginReplay l.val (advanceTo ((getLink t l.val).ackAt + 2000) t))) s

/-! ### The error limit (R181, R182, R185) -/

/-- The one U frame that goes out before a retrain, with its copy on the alternate link, where the frame has credits, the replay buffer
has room and no replay is under way (R174, R177, R179, R185); a time exchange has no copy (R303). -/
def lastU (n : Nat) (s : State) : State :=
  let l := getLink s n
  match l.qU with
  | [] => s
  | t :: rest =>
    if !replayFits l t.fr || decide (l.crU < frameCredits t.fr) || !l.replayQ.isEmpty then s
    else
      let s1 := modLink n (fun l => { l with qU := rest }) s
      match (dupLink s t.fr.dst.toNat n).filter fun _ => !staysOn t.fr with
      | some m =>
        let d := { t with fr := { t.fr with dup := true } }
        transmit n d (modLink m (fun l => { l with qU := { d with from_ := none } :: l.qU }) s1)
      | none => transmit n t s1

/-- ERROR_LIMIT: a waiting U frame, then the fast retrain, or the full one when the limit was reached within 16 ms after a
fast retrain (R182, R185). -/
def execErrorLimit (l : Fin 8) (s : State) : Out :=
  runCtl (ifUp l fun t =>
    let x := getLink t l.val
    if x.errs < cfgVal t 0x0402 then t
    else
      let again := match x.lastFast with
        | some f => decide (t.clk.fleet ≤ f + 16000000)
        | none => false
      let t1 := lastU l.val (quiet l.val (post (0x10 + l.val) 2 1 (pl4 x.errs ++ pl8 x.winFrom) t))
      if again then beginTrain l.val true t1 else beginFast l.val true t1) s

/-- ERROR_WINDOW: the next multiple of 1 ms that the link's window has not seen (R181). -/
def execErrorWindow (l : Fin 8) (s : State) : Out :=
  runCtl (fun t =>
    let t1 := advanceTo (nextBoundary 1000000 (getLink t l.val).winFrom t.clk.fleet) t
    modLink l.val (fun x => { x with errs := 0, winFrom := t1.clk.fleet }) t1) s

/-! ### Training (R183, R184, R187) -/

/-- Width and lanes of a training from its passing lanes and the configured maximum (R167, R183). -/
def widthOf (mx pass : Nat) : Nat × Nat :=
  if pass = 15 && 4 ≤ mx then (4, 15)
  else if pass &&& 3 = 3 && 2 ≤ mx then (2, 3)
  else if pass &&& 12 = 12 && 2 ≤ mx then (2, 12)
  else if bitAt pass 0 then (1, 1)
  else if bitAt pass 1 then (1, 2)
  else if bitAt pass 2 then (1, 4)
  else if bitAt pass 3 then (1, 8)
  else (0, 0)

/-- Does the partner meet R187. -/
def partnerOk (s : State) (role chip other : Nat) : Bool :=
  if role = 1 then other == 2 && chip == cfgVal s 0x0603
  else if role = 2 then other == 1 && chip == cfgVal s 0x0604
  else other == role

/-- Credits of the unacknowledged frames of a class. -/
def replayCredits (l : Link) (c : Nat) : Nat := sumNat ((l.unacked.filter fun f => f.cls.toNat == c).map frameCredits)

/-- What the chip tells its partner in the parameter exchange (R175, R183). -/
def ownParams (s : State) (n : Nat) : LinkParams :=
  let l := getLink s n
  { chip := BitVec.ofNat 12 (chipId s), role := BitVec.ofNat 3 l.role, width := BitVec.ofNat 3 l.width, freeU := bufferUnits 0 - l.inU
    freeS := bufferUnits 1 - l.inS, freeB := bufferUnits 2 - l.inB, nextSeq := BitVec.ofNat 16 l.rxSeq }

/-- The parameter exchange, both ways: credits, the partner's next expected sequence, and the replay from it; the units that the chip
reports free are owed no more (R174, R175, R183, R184). -/
def exchange (n : Nat) (p : LinkParams) (s : State) : State :=
  let s1 := takeAck n (p.nextSeq.toNat + 65535) s
  modLink n (fun l => { l with
    crU := min p.freeU (bufferUnits 0) - replayCredits l 0, crS := min p.freeS (bufferUnits 1) - replayCredits l 1
    crB := min p.freeB (bufferUnits 2) - replayCredits l 2
    owedU := 0, owedS := 0, owedB := 0, told := some (ownParams s1 n), heard := some p, gap := false
    replayQ := l.unacked, replays := if l.unacked.isEmpty then l.replays else l.replays + 1, ackAt := s.clk.fleet
    txSeq := if l.unacked.isEmpty then p.nextSeq.toNat else l.txSeq, nakOwed := false
    partner := p.chip.toNat }) s1

/-- The U and B frames that wait on link m and have link n as another path go to n. -/
def moveTo (m n : Nat) (s : State) : State :=
  let l := getLink s m
  let goes := fun t : TxFrame => !staysOn t.fr && altLink s t.fr.dst.toNat m == some n
  (l.qU.filter goes ++ l.qB.filter goes).foldl (fun s t => enqueue n t s)
    (modLink m (fun l => { l with qU := l.qU.filter fun t => !goes t, qB := l.qB.filter fun t => !goes t }) s)

/-- A link that comes Up takes the frames that wait for it on links that carry none (R186, R189). -/
def drainTo (n : Nat) (s : State) : State :=
  (upFrom 0 8).foldl (fun s m => if m = n || linkUp s m then s else moveTo m n s) s

/-- A parameter exchange with a partner that R187 does not permit fails the link at step 5, and is reported once; another brings the
link Up (R183, R184, R187). -/
def meetPartner (n : Nat) (p : LinkParams) (s : State) : State :=
  let x := getLink s n
  if !partnerOk s x.role p.chip.toNat p.role.toNat then
    linkFailed n 5 (postIf (!x.mismatch) (0x10 + n) 5 2 (pl2 p.chip.toNat ++ pl1 p.role.toNat)
      (modLink n (fun y => { y with mismatch := true, partner := p.chip.toNat }) s))
  else escPoll (drainTo n (setLinkState n .up (exchange n p (modLink n (fun y => { y with everUp := true, mismatch := false }) s))))

/-- TRAINING_COMPLETE (R183, R187). The width of the event is the code of LK_STATE (DESIGN CHOICE, log 85). -/
def execTrainingComplete (l : Fin 8) (lanes : BitVec 4) (p : LinkParams) (s : State) : Out :=
  runCtl (fun t =>
    let n := l.val
    let x := getLink t n
    let (w, m) := widthOf (cfgVal t 0x0401) lanes.toNat
    if x.state != .train || boundary t then t
    else if w = 0 then escPoll (linkFailed n 3 t)
    else if !partnerOk t x.role p.chip.toNat p.role.toNat then escPoll (meetPartner n p t)
    else
      meetPartner n p (postIf (decide (w < cfgVal t 0x0401)) (0x10 + n) 3 1 (pl1 (widthCode w) ++ pl1 lanes.toNat)
        (modLink n (fun y => { y with width := w, lanes := m }) t))) s

/-- TRAINING_FAILED (R183). -/
def execTrainingFailed (l : Fin 8) (stepNo : BitVec 8) (s : State) : Out :=
  runCtl (fun t => if (getLink t l.val).state == .train then escPoll (linkFailed l.val stepNo.toNat t) else t) s

/-- FAST_RETRAIN_COMPLETE (R184, R187). -/
def execFastRetrainComplete (l : Fin 8) (p : LinkParams) (s : State) : Out :=
  runCtl (fun t =>
    if (getLink t l.val).state == .fastRetrain then
      meetPartner l.val p (modLink l.val (fun x => { x with lastFast := some t.clk.fleet }) t)
    else t) s

/-- FAST_RETRAIN_TIMEOUT: not Up within 50 µs (R182). -/
def execFastRetrainTimeout (l : Fin 8) (s : State) : Out :=
  runCtl (fun t => if (getLink t l.val).state == .fastRetrain then beginTrain l.val false t else t) s

/-- FAILED_RETRY: every 1 s (R182). -/
def execFailedRetry (l : Fin 8) (s : State) : Out :=
  runCtl (fun t => if (getLink t l.val).state == .failed then beginTrain l.val false t else t) s

/-- LOSS_OF_SIGNAL on an active lane (R182). -/
def execLossOfSignal (l : Fin 8) (lane : Fin 4) (s : State) : Out :=
  runCtl (ifUp l fun t => if bitAt (getLink t l.val).lanes lane.val then beginTrain l.val true (quiet l.val t) else t) s

/-- LOSS_OF_BLOCK_LOCK (R182). -/
def execLossOfBlockLock (l : Fin 8) (s : State) : Out := runCtl (ifUp l fun t => beginFast l.val true (quiet l.val t)) s

/-- A write of LK_CMD: bit 1 prevails; a Failed link trains on either (R182, R191). -/
def writeLkCmd (n v : Nat) (s : State) : State :=
  let st := (getLink s n).state
  if v % 4 = 0 then s
  else if st == .failed then beginTrain n true s
  else if st != .up then s
  else if bitAt v 1 then beginTrain n true (quiet n s)
  else beginFast n true (quiet n s)

/-- FAST_RETRAIN: LK_CMD bit 0 (R191). -/
def execFastRetrain (l : Fin 8) (s : State) : Out := runCtl (writeLkCmd l.val 1) s

/-- FULL_TRAINING: LK_CMD bit 1 (R191). -/
def execFullTraining (l : Fin 8) (s : State) : Out := runCtl (writeLkCmd l.val 2) s

/-! ### The mirror check (R208) -/

/-- A write of LK_MIRCMD. -/
def writeMirCmd (v : Nat) (s : State) : State :=
  if bitAt v 0 then
    let a := crc32c (memRead s.mem (cfgVal s 0x0606) (cfgVal s 0x0607))
    let b := crc32c (memRead s.mem (cfgVal s 0x0608) (cfgVal s 0x0607))
    post 0x10 0x15 0 (pl4 a ++ pl4 b) { s with ring.mirCrc := a * 2 ^ 32 + b }
  else s

/-- MIRROR_CHECK (R208, R210). -/
def execMirrorCheck (s : State) : Out := runCtl (writeMirCmd 1) s

end Sys2Proof.Machine
end

