-- ==== Sys2Proof/Machine/Regulator.lean ====
section
/-! DEFINITION. The Regulator (R275 to R283, R291 to R296): the control law, ballast and shortfall, sheds, the staggered
start, energy; and the PMBus host's slots (R354 to R356). -/

namespace Sys2Proof.Machine

/-! ### Parameters (R275) -/

/-- A slope limit of the configuration, µW per µs. -/
def slopeLimit (s : State) (id : Nat) : Nat := 100 * cfgVal s id

/-- RGL_CAP [W] (R278). -/
def capWatts (s : State) : Nat := s.rgl.cap.getD (cfgVal s 0x0901)

/-- Is floor holding active (R280). -/
def floorHolding (s : State) : Bool :=
  cfgVal s 0x0904 == 1 && (residents s).any fun j => (getPart s (jobPart (getJob s j))).enabled

/-! ### Sheds (R291, R293) -/

/-- The sources that hold a shed: pin, request, thermal. -/
def shedSources (s : State) : Nat := b2n (!s.pwr.pwrShedN) + 2 * b2n s.rgl.shedReq + 4 * b2n s.rgl.thermal

/-- The end of a ballast shortfall, reported as a break of the slope with cause 1 (R282, log 14). -/
def endShortfall (s : State) : State :=
  match s.rgl.shortfall with
  | none => s
  | some g => post 0x03 2 1 (pl1 1 ++ pl4 (g / 1000000)) { s with rgl.shortfall := none }

/-- A shed begins: duty 8, ballast off, alert_n low (R291, R293, R353). -/
def beginShed (s : State) : State :=
  let s1 := endShortfall s
  post 0x03 1 1 (pl1 (shedSources s) ++ pl4 (s.rgl.p / 1000))
    { s1 with
      smb.alertLow := true
      rgl := { s1.rgl with
        shedding := true, duty := 8, ballast := false, density := 0, shedCnt := s1.rgl.shedCnt + 1, shedOver := 0 } }

/-- µW by which the draw fell faster than the down slope allowed, in one sample of a shed (R293, log 14). -/
def shedFall (old new : Nat) (s : State) : Nat := old - new - slopeLimit s 0x0903

/-- A sample's calibrated draw; in a shed its fall beyond the slope is added up (R293). -/
def takeDraw (cal : Nat) (s : State) : State :=
  { s with rgl := { s.rgl with
    sampleAt := s.clk.fleet, cal := cal, shedOver := s.rgl.shedOver + (if s.rgl.shedding then shedFall s.rgl.cal cal s else 0) } }

/-- A shed ends: the break is reported, and p takes the calibrated draw (R293). -/
def endShed (s : State) : State :=
  post 0x03 2 1 (pl1 0 ++ pl4 (s.rgl.shedOver / 1000000))
    { s with rgl := { s.rgl with shedding := false, p := s.rgl.cal, slopeBrk := s.rgl.slopeBrk + s.rgl.shedOver } }

/-- The shed follows its sources (R291); in Loading the Regulator is held in reset, and in Dormant it is stopped (R299, R315). -/
def updateShed (s : State) : State :=
  if s.pwr.state == .loading || s.pwr.state == .dormant then s
  else if shedSources s != 0 && !s.rgl.shedding then beginShed s
  else if shedSources s == 0 && s.rgl.shedding then endShed s
  else s

/-! ### The control law (R276, R282) -/

/-- What the work, the floor, the cap and the hold of a start want (R276, R283). -/
def wanted (s : State) (d : Nat) : Nat :=
  let fl := cfgVal s 0x0905 * 1000000
  let a := if floorHolding s then min (max d fl) (fl + cfgVal s 0x0906 * 1000000) else d
  let b := min a (capWatts s * 1000000)
  if s.rgl.waitTs then min b s.rgl.heldDraw else b

/-- The want within the slopes and the budgets (R276). -/
def limited (s : State) (w : Nat) : Nat :=
  let p := s.rgl.p
  let up := match budget s .rise with
    | some b => min (min w (p + slopeLimit s 0x0902)) (p + b)
    | none => min w (p + slopeLimit s 0x0902)
  match budget s .descent with
  | some b => max (max up (p - slopeLimit s 0x0903)) (p - b)
  | none => max up (p - slopeLimit s 0x0903)

/-- The budget that a change of p consumes. -/
def spendChange (old new : Nat) (s : State) : State :=
  if old < new then spend .rise (new - old) s else if new < old then spend .descent (old - new) s else s

/-- Duty and ballast of a target (R276). -/
def setOutputs (x : Sample) (s : State) : State :=
  let p := s.rgl.p
  { s with rgl :=
      if p < x.d then { s.rgl with duty := max 8 (64 * (p - x.stat) / (x.d - x.stat)), ballast := false, density := 0 }
      else if x.d < p then { s.rgl with
        duty := 64, ballast := true
        density := if x.bfull = 0 then 64 else min 64 (cdiv (64 * (p - x.d)) x.bfull) }
      else { s.rgl with duty := 64, ballast := false, density := 0 } }

/-- A shortfall begins, grows or ends (R282, log 14). -/
def checkShortfall (x : Sample) (s : State) : State :=
  let g := s.rgl.p - x.d - x.bfull
  if g = 0 then endShortfall s
  else match s.rgl.shortfall with
    | none => post 0x03 8 1 (pl4 (g / 1000000)) { s with rgl.shortfall := some g, rgl.slopeBrk := s.rgl.slopeBrk + g }
    | some h => if h < g then { s with rgl.shortfall := some g, rgl.slopeBrk := s.rgl.slopeBrk + (g - h) } else s

/-- The requests that a wanted change makes (R287). -/
def askFor (w : Nat) (s : State) : State :=
  let p := s.rgl.p
  if p < w then askCredits .rise (w - p) s else if w < p then askCredits .descent (p - w) s else s

/-- The law of one sample (R276). -/
def controlLaw (x : Sample) (s : State) : State :=
  let w := wanted s x.d
  let s1 := askFor w s
  let p1 := limited s1 w
  let s2 := spendChange s1.rgl.p p1 s1
  checkShortfall x (setOutputs x { s2 with rgl.p := p1 })

/-! ### Energy (R294) -/

/-- The job that a partition's energy goes to: its running job; in interleaved mode, where several may run, the first of them in the
order of R241 (log 84). -/
def energyJob (s : State) (p : Nat) : Option Nat :=
  if partitioned s then (getPart s p).running else (sortBy (vtLess s) ((partJobs s p).filter (isRunning s))).head?

/-- A partition's part of a sample's energy: to its running job's step, or to the house. -/
def shareEnergy (nj total : Nat) (s : State) (x : Nat × Nat) : State :=
  let part := nj * x.2 / total
  match energyJob s x.1 with
  | some j => modRun j (fun r => { r with energy := r.energy + part }) s
  | none => modAcct 0 (addEnergy part) s

/-- One sample's energy counted and divided (R294). -/
def chargeEnergy (x : Sample) (s : State) : State :=
  let g := s.rgl
  let all := (g.energyPj + x.cal) / 1000
  let balUw := if g.ballast then min x.cal (x.bfull * g.density / 64) else 0
  let bal := min all ((g.ballastPj + balUw) / 1000)
  let s1 := { s with rgl := { g with
    energy := g.energy + all, energyPj := (g.energyPj + x.cal) % 1000
    ballastE := g.ballastE + bal, ballastPj := g.ballastPj + balUw - 1000 * bal } }
  let rest := all - bal
  let xs := ((upFrom 0 8).map fun p => (p, x.busy.getD p 0)).filter fun y => y.2 != 0
  let total := sumNat (xs.map (·.2))
  let given := sumNat (xs.map fun y => rest * y.2 / total)
  modAcct 0 (addEnergy (bal + (rest - given))) (xs.foldl (shareEnergy rest total) s1)

/-! ### The descent to Dormant (R417, R418) -/

/-- The instant at which a wake's reverse steps begin, in time since por_n release (R418). -/
def wakeInstant (s : State) : Nat := s.upNs + chipId s % cfgVal s 0x0907 * (cfgVal s 0x0908 * 100000)

/-- The draw that the first k load steps remove, µW (R417). -/
def loadsDraw (k : Nat) : Nat := sumNat ((upFrom 1 k).map Config.loadStepDraw)

/-- The steps among the first eleven whose draw p has fallen by. -/
def loadsAt (fallen : Nat) : Nat := ((upFrom 1 11).filter fun k => decide (loadsDraw k ≤ fallen)).length

/-- The load steps up to k taken: links Off, clusters stopped, HBM in self-refresh (R417). -/
def takeLoads (k : Nat) (s : State) : State :=
  let old := s.pwr.loadsOff
  let s1 := if old < 1 && 1 ≤ k then (upFrom 0 4).foldl (fun t n => linkOff n t) s else s
  let s2 := if old < 2 && 2 ≤ k then (upFrom 4 4).foldl (fun t n => linkOff n t) s1 else s1
  let s3 := if old < 11 && 11 ≤ k then
      { s2 with hbm := { s2.hbm with
        stack0 := { s2.hbm.stack0 with inited := false }, stack1 := { s2.hbm.stack1 with inited := false }, refFrom := none } }
    else s2
  { s3 with pwr.loadsOff := max old k }

/-- Fleet time is not kept over Dormant: it counts from 0 again, and what was timed by it starts anew (R299, R310). -/
def forgetTime (s : State) : State :=
  { s with
    clk := { s.clk with fleet := 0, frac := 0, ratePpb := 0, beatAt := 0, swingAt := 0 }
    links := s.links.map fun x => (x.1, { x.2 with ackAt := 0, nakAt := none, winFrom := 0, lastFast := none })
    esc := { s.esc with pending := [], lastUse := 0, holdAt := 0, freeAt := 0, edge := none, lastValid := none }
    ev := { s.ev with lastIrq := none }
    uart := { s.uart with lostEvNs := none, brkFrom := 0 }
    rgl := { s.rgl with sampleAt := 0, beaconAt := 0, coolFrom := none } }

/-- The last step: ESC, MGMT and PCIE stop, ramp_sync is released, and a wake that came meanwhile is handled (R299, R349, R412, R418). -/
def enterDormant (s : State) : State :=
  let s1 := forgetTime (takeLoads 12 s)
  { s1 with
    pcie := { s1.pcie with up := false, training := false }
    uart := { s1.uart with
      tx := [], rx := [], flags := 0, rsq := 0, attn := false, sending := none, line := [], brkTx := none, brkNow := false, inBreak := false
      rxHigh := false, waitIdle := true }
    pwr := { s1.pwr with
      state := .dormant, entering := false, descent := none, woke := true, rampSyncHeld := false, wakePending := false
      wakeDue := if s1.pwr.wakePending then some (wakeInstant s1) else none } }

/-- One sample of the descent: p to the idle draw by the law, then to the Dormant draw at the down slope (R417). -/
def descend (x : Sample) (s : State) : State :=
  match s.pwr.descent with
  | none =>
    let s1 := controlLaw x s
    if s1.rgl.p ≤ x.d then { s1 with pwr.descent := some s1.rgl.p } else s1
  | some p0 =>
    let p := max (min s.rgl.p Config.dormantDraw) (s.rgl.p - slopeLimit s 0x0903)
    let s1 := { s with rgl := { s.rgl with p := p, ballast := false, density := 0 } }
    if p ≤ Config.dormantDraw then enterDormant s1 else takeLoads (loadsAt (p0 - p)) s1

/-! ### Commands -/

/-- The estimator samples: from the handover, outside Dormant and thermtrip. -/
def samples (s : State) : Bool := s.pwr.porN && !s.pwr.thermtrip && s.pwr.handedOver && s.pwr.state != .dormant

/-- A sample with the duty below 64 is noted for the steps that run (R385). -/
def noteDuty (s : State) : State :=
  if s.rgl.duty < 64 then { s with parts := s.parts.map fun y => (y.1, { y.2 with throttled := true }) } else s

/-- p begins at the calibrated estimate (R277, log 13). -/
def firstTarget (x : Sample) (s : State) : State := if s.rgl.p = 0 then { s with rgl.p := x.cal } else s

/-- ESTIMATOR_SAMPLE: every 1 µs (R276, R294). A shed overrides the law (R291); Holding keeps duty 8 (R330). -/
def execEstimatorSample (x : Sample) (s : State) : Out :=
  run (onTable 4 fun s =>
    if samples s then
      let s1 := advanceTo (s.rgl.sampleAt + 1000) s
      let s2 := firstTarget x (chargeEnergy x (takeDraw x.cal s1))
      noteDuty (if s2.rgl.shedding || s2.pwr.state == .holding then s2 else if s2.pwr.entering then descend x s2 else controlLaw x s2)
    else s) s

/-- PWR_SHED_N_FALL (R291). -/
def execPwrShedNFall (s : State) : Out := runCtl (fun s => updateShed { s with pwr.pwrShedN := false }) s

/-- PWR_SHED_N_RISE (R291, R293). -/
def execPwrShedNRise (s : State) : Out := runCtl (fun s => updateShed { s with pwr.pwrShedN := true }) s

/-- A write of RGL_SHEDREQ.Req (R291, R351). -/
def writeShedReq (b : Bool) (s : State) : State := unheld (fun s => updateShed { s with rgl.shedReq := b }) s

/-- SHED_REQUEST (R291, R295). -/
def execShedRequest (v : BitVec 32) (s : State) : Out := runCtl (writeShedReq (v.getLsbD 0)) s

/-- The hottest of the readings. -/
def hottest : List (BitVec 16) → Option (BitVec 16)
  | [] => none
  | x :: xs => match hottest xs with
    | none => some x
    | some y => some (if y.toInt < x.toInt then x else y)

/-- A reading below the limit − 5 °C (R291). -/
def isCool (s : State) (x : BitVec 16) : Bool := decide (x.toInt < 8 * ((cfgVal s 0x0909 : Int) - 5))

/-- SENSOR_CONVERSION (R291, R420). -/
def execSensorConversion (temps : List (BitVec 16)) (s : State) : Out :=
  runCtl (fun s =>
    match hottest temps with
    | none => s
    | some h =>
      unheld (fun s =>
        if decide (8 * (cfgVal s 0x0909 : Int) ≤ h.toInt) then updateShed { s with rgl.thermal := true, rgl.coolFrom := none }
        else if isCool s h then
          { s with rgl.coolFrom := match s.rgl.coolFrom with
              | some t => some t
              | none => some s.clk.fleet }
        else { s with rgl.coolFrom := none }) { s with tel.tempMax := h.toNat }) s

/-- THERMAL_HOLD_END: every sensor below the limit − 5 °C for 1 ms (R291). -/
def execThermalHoldEnd (s : State) : Out :=
  runCtl (fun s =>
    match s.rgl.coolFrom with
    | some t =>
      if s.rgl.thermal then
        let s1 := advanceTo (t + 1000000) s
        updateShed { s1 with rgl.thermal := false }
      else s
    | none => s) s

/-- A value of RGL_CAP as the register takes it (R278). -/
def clampCap (s : State) (w : Nat) : Nat := min (max 75 w) (cfgVal s 0x0901)

/-- A write of RGL_CAP (R278). -/
def writeCap (v : Nat) (s : State) : State := unheld (fun s => { s with rgl.cap := some (clampCap s (v % 256)) }) s

/-- CAP_WRITE (R278, R295). -/
def execCapWrite (v : BitVec 32) (s : State) : Out := runCtl (writeCap v.toNat) s

/-- G: the first multiple of the window at least 1 ms after the entry to Running and the rise of ramp_sync (R283). -/
def startGrid (s : State) (entry sync : Nat) : Nat :=
  alignUp (max entry sync + 1000000) (if inDomain s then windowNs s else 1000000000)

/-- T_s (R283). -/
def startInstantOf (s : State) (entry sync : Nat) : Nat :=
  startGrid s entry sync + chipId s % cfgVal s 0x0907 * (cfgVal s 0x0908 * 100000)

/-- RAMP_SYNC_RISE: the net rises once no chip holds it, and fixes G (R283). -/
def execRampSyncRise (s : State) : Out :=
  runCtl (fun s =>
    if s.pwr.rampSyncHeld || s.pwr.rampSyncNet then s
    else { s with
      pwr.rampSyncNet := true
      rgl := { s.rgl with
        syncAt := some s.clk.fleet
        ts := if s.rgl.waitTs then some (startInstantOf s s.flt.kfloor s.clk.fleet) else s.rgl.ts } }) s

/-- START_INSTANT: fleet time reaches T_s (R283). -/
def execStartInstant (s : State) : Out :=
  runCtl (fun s =>
    match s.rgl.ts with
    | some t =>
      if s.rgl.waitTs then
        let s1 := advanceTo t s
        post 0x03 3 0 (pl8 t) { s1 with rgl.waitTs := false }
      else s
    | none => s) s

/-! ### The PMBus host (R354 to R356) -/

/-- A LINEAR11 word in thousandths, its fraction cut off (R354, log 15). -/
def linear11 (w : Nat) : Int :=
  let y := signed 11 (bits w 0 11) * 1000
  let n := signed 5 (bits w 11 5)
  if 0 ≤ n then y * 2 ^ n.toNat else y / 2 ^ (-n).toNat

/-- A reading as a 32-bit register holds it. -/
def reading (w : BitVec 16) : Nat := wrapInt 32 (linear11 w.toNat)

/-- A failed transaction (R356). -/
def pmbFail (s : State) : State := { s with pmb.fail := s.pmb.fail + 1 }

/-- Slot A: READ_PIN (R355, R356). -/
def slotA (a : PmbAnswer) (s : State) : State :=
  match a.word with
  | some w =>
    let s1 := { s with pmb.inRow := 0, pmb.lost := false, rgl.pin := reading w, rgl.gainHeld := false }
    postIf s.pmb.lost 0x0E 0x11 0 [] s1
  | none =>
    let s1 := pmbFail { s with pmb.inRow := s.pmb.inRow + 1 }
    if 16 ≤ s.pmb.inRow + 1 && !s.pmb.lost then
      post 0x0E 0x10 2 [] { s1 with pmb.lost := true, rgl.gainHeld := true, flt.flags := s1.flt.flags ||| 512 }
    else s1

/-- The rotating reading of slot B (R355): READ_IIN, READ_VIN, READ_IOUT, STATUS_WORD. -/
def rotate (w : BitVec 16) (s : State) : State :=
  let s1 := { s with pmb.rotation := (s.pmb.rotation + 1) % 4 }
  if s.pmb.rotation = 0 then { s1 with pmb.iin := reading w }
  else if s.pmb.rotation = 1 then { s1 with pmb.vin := reading w }
  else if s.pmb.rotation = 2 then { s1 with pmb.iout := reading w }
  else postIf (s.pmb.status != w.toNat) 0x0E 0x12 1 (pl2 s.pmb.status ++ pl2 w.toNat) { s1 with pmb.status := w.toNat }

/-- The voltage that the next VOUT_COMMAND carries [mV]: within the limits, and at most 5 mV from the last (R278, R354). -/
def nextVout (s : State) (v : Nat) : Nat :=
  let c := min (max v (cfgVal s 0x0202)) (cfgVal s 0x0203)
  if s.pmb.vout = 0 then c else min (max c (s.pmb.vout - 5)) (s.pmb.vout + 5)

/-- The voltage that slot B sets, if it sets one: a new value is held, the slot before was no write, no NACKed reading is due again, and
the host answers (R354 to R356). -/
def setsVout (s : State) : Option Nat :=
  if cfgVal s 0x0201 == 1 && !s.pmb.avsOff && !s.pmb.wroteB && !s.pmb.redo && !s.pmb.lost then s.pmb.want else none

/-- A voltage in mV as LINEAR16 with the exponent of VOUT_MODE, rounded to nearest (R354). -/
def linear16 (mode v : Nat) : Nat :=
  let n := signed 5 (mode % 32)
  (if 0 ≤ n then (v + 500 * 2 ^ n.toNat) / (1000 * 2 ^ n.toNat) else (v * 2 ^ (-n).toNat + 500) / 1000) % 2 ^ 16

/-- Slot B: VOUT_COMMAND or the next rotating reading; a NACKed one comes again in the next slot B (R355, R356). -/
def slotB (a : PmbAnswer) (s : State) : State :=
  match setsVout s, a.word with
  | some v, some _ =>
    let x := nextVout s v
    { s with pmb.vout := x, pmb.word := linear16 s.pmb.mode x, pmb.wroteB := true,
             pmb.want := if x = min (max v (cfgVal s 0x0202)) (cfgVal s 0x0203) then none else some v }
  | some _, none => pmbFail s
  | none, some w => rotate w { s with pmb.wroteB := false, pmb.redo := false }
  | none, none => pmbFail { s with pmb.wroteB := false, pmb.redo := true }

/-- The start of a slot: its next one, or the first after that which is still to come (R355). -/
def slotStart (next now : Nat) : Nat := next + alignUp (now - next) 100000

/-- A slot's transaction ends, 38 µs after its start when it is a write and 48 µs when it is a read; the Regulator's new value is held
(R355). -/
def slotEnd (b : Bool) (a : PmbAnswer) (s : State) : State :=
  let t := slotStart (if b then s.pmb.nextB else s.pmb.nextA) s.upNs
  let s1 := { s with pmb := { s.pmb with
    want := a.vout.or s.pmb.want, nextA := if b then s.pmb.nextA else t + 100000, nextB := if b then t + 100000 else s.pmb.nextB } }
  passUp (t + if b && (setsVout s1).isSome then 38000 else 48000) s1

/-- PMBUS_SLOT (R355, R356). -/
def execPmbusSlot (b : Bool) (a : PmbAnswer) (s : State) : Out :=
  runCtl (fun s =>
    if mgmtRuns s && s.pwr.handedOver && s.pwr.state != .dormant then
      if b then slotB a (slotEnd b a s) else slotA a (slotEnd b a s)
    else s) s

end Sys2Proof.Machine
end

