-- ==== Sys2Proof/Machine/Flags.lean ====
section
/-! DEFINITION. The packed status registers and the register map as a read without side effects sees it (R391, R392, R398 to
R400): every block register, array and stream-window entry. -/

namespace Sys2Proof.Machine

/-! ### Management, Escapement, Regulator -/

/-- CRN_ID (R399). -/
def crnId : Nat := 0x0816 * 2 ^ 16 + Config.revision.toNat * 2 ^ 12

/-- The code of a device state (R315). -/
def devNum : DevState → Nat
  | .loading => 0
  | .starting => 1
  | .running => 2
  | .holding => 3
  | .dormant => 4

/-- CFG_STATE (R337). -/
def cfgState (s : State) : Nat :=
  devNum s.pwr.state + 16 * (s.rep.source % 4) + 2 ^ 8 * b2n (s.esc.state == .locked) + 2 ^ 9 * b2n (hbmReady s) +
    2 ^ 10 * b2n s.pwr.hbmFail + 2 ^ 11 * b2n s.pwr.lockPassed

/-- SecFlags in the OTP (R319). -/
def secFlags (s : State) : Nat := memNat s.otp 9 1

/-- JtagLock is set (R319). -/
def jtagLock (s : State) : Bool := bits (secFlags s) 0 2 != 0

/-- Bar2DebugLock is set (R319). -/
def bar2Lock (s : State) : Bool := bits (secFlags s) 2 2 != 0

/-- CFG_OTP (R337), 0 before step 2 of R316. -/
def cfgOtp (s : State) : Nat :=
  if s.pwr.otpLoaded then
    memNat s.pwr.otpCopy 8 1 + 2 ^ 8 * b2n s.pwr.factoryOk + 2 ^ 9 * b2n s.pwr.keyValid +
      2 ^ 10 * b2n (bits (memNat s.pwr.otpCopy 9 1) 0 2 != 0) + 2 ^ 11 * b2n (bits (memNat s.pwr.otpCopy 9 1) 2 2 != 0) + 2 ^ 16 * keyRevision s
  else 0

/-- CFG_SERIAL (R337). -/
def cfgSerial (s : State) : Nat := memNat s.pwr.otpCopy 0 8

/-- The level of beat_out, 100 ns high at each instant of its mode; low in Free and Acquire (R312, R411). -/
def beatOut (s : State) : Bool :=
  let on := s.pwr.porN && s.pwr.handedOver && (s.esc.state == .locked || s.esc.state == .holdover) && s.pwr.state != .dormant
  let per := match cfgVal s 0x0B03 with
    | 1 => 1000000000
    | 2 => 16000
    | 3 => 1000
    | _ => 0
  on && per != 0 && decide (s.clk.fleet % per < 100)

/-- ESC_STATE (R313). -/
def escStateReg (s : State) : Nat :=
  escNum s.esc.state + 4 * b2n s.esc.root + 8 * b2n s.esc.edgeValid + 16 * s.esc.parent.getD 0 + 128 * b2n s.esc.parent.isSome +
    256 * (parentChip s).getD 0

/-- ESC_OFFSETn (R313). -/
def escOffset (s : State) (n : Nat) : Nat :=
  match tget none s.esc.offset n with
  | some o => wrapInt 32 o
  | none => if s.pwr.handedOver then 0x8000_0000 else 0

/-- RGL_STATUS (R295). -/
def rglStatus (s : State) : Nat :=
  let g := s.rgl
  g.duty + 2 ^ 7 * b2n g.ballast + 2 ^ 8 * (g.density - 1) + 2 ^ 16 * b2n g.shedding + 2 ^ 17 * shedSources s +
    2 ^ 20 * b2n (floorHolding s) + 2 ^ 21 * b2n g.waitTs + 2 ^ 22 * b2n (isPool s) + 2 ^ 23 * b2n g.pool.frozen

/-- A budget in W as RGL_CREDIT shows it, saturating. -/
def budgetWatts (s : State) (d : Dir) : Nat :=
  match budget s d with
  | some b => min (b / 1000000) 0xF_FFFF
  | none => 0xF_FFFF

/-- RGL_CREDIT (R295). -/
def rglCredit (s : State) : Nat := s.rgl.epoch + 2 ^ 16 * budgetWatts s .rise + 2 ^ 36 * budgetWatts s .descent

/-- RGL_POOL (R295). -/
def rglPool (s : State) : Nat :=
  if isPool s then available s .rise % 2 ^ 20 + 2 ^ 20 * (available s .descent % 2 ^ 20) else 0

/-! ### Jobs and partitions -/

/-- Bytes covered by ranges sorted by base, from an address on. -/
def coveredBytes : Nat → List (Nat × Nat) → Nat
  | _, [] => 0
  | from_, (a, n) :: rs =>
    let lo := max from_ a
    (a + n - lo) + coveredBytes (max from_ (a + n)) rs

/-- SCH_VATFREE: Vat bytes of the enabled partitions in no resident job's range (R237). -/
def vatFree (s : State) : Nat :=
  let cl := sumNat ((s.parts.filter fun x => x.2.enabled).map fun x => (maskBits 8 x.2.mask).length)
  let rs := (residents s).flatMap fun j => (jobRanges (getJob s j)).filter fun r => inVat r.1 1
  0xC0_0000 * cl - coveredBytes 0 (sortBy (fun a b : Nat × Nat => decide (a.1 < b.1)) rs)

/-- SCH_PCFG (R233). -/
def pcfg (s : State) (p : Nat) : Nat :=
  let x := getPart s p
  x.mask + 2 ^ 8 * b2n x.enabled + 2 ^ 9 * x.profile + 2 ^ 10 * b2n (ringPart s p)

/-- SCH_PRUN (R233). -/
def prun (s : State) (p : Nat) : Nat :=
  let js := partJobs s p
  let r := if partitioned s then (getPart s p).running else js.find? (isRunning s)
  (match r with
    | some j => j
    | none => 0x40) + 2 ^ 8 * js.length

/-- A register of job slot j at an offset of its 512 B (R234). -/
def jobReg (s : State) (j o : Nat) : Nat :=
  let x := getJob s j
  if o = 0x000 then x.ctl
  else if o = 0x008 then x.mov
  else if o = 0x010 then x.save
  else if o = 0x018 then x.arg
  else if o = 0x028 then x.state + 256 * x.status
  else if o = 0x030 then x.vt
  else if o = 0x038 then x.engine
  else if o = 0x040 then x.switched
  else if o = 0x048 then x.pre + 2 ^ 32 * b2n x.preWrap
  else if o = 0x050 then x.thr
  else if 0x100 ≤ o then
    let r := tget (0, 0) x.ranges ((o - 0x100) / 16)
    if o % 16 = 0 then r.1 else r.2
  else 0

/-- A field of account a (R252). -/
def acctReg (s : State) (a o : Nat) : Nat :=
  let x := tget {} s.accts a
  if o = 0x00 then x.engine
  else if o = 0x08 then x.hbm
  else if o = 0x10 then x.link
  else if o = 0x18 then x.energy
  else if o = 0x20 then x.wait
  else if o = 0x28 then x.pre + 2 ^ 32 * b2n x.preWrap
  else if o = 0x30 then x.tokens
  else 0

/-- STM_FREE (R213, R214). -/
def stmFree (s : State) : Nat := 4096 - (s.streams.filter fun x => x.2.state != 0).length

/-- A ring register of partition p (R214). -/
def stmReg (s : State) (p o : Nat) : Nat :=
  let x := getStm s p
  if o = 0x000 then x.sqBase
  else if o = 0x008 then x.sqSize
  else if o = 0x010 then x.sqTail
  else if o = 0x018 then x.sqHead
  else if o = 0x020 then x.cqBase
  else if o = 0x028 then x.cqSize
  else if o = 0x030 then x.cqHead
  else if o = 0x038 then x.cqTail
  else if o = 0x040 then x.step
  else if o = 0x048 then (if ringPart s p then x.nextSw else 0)
  else if o = 0x050 then x.srBase
  else if o = 0x058 then x.streams
  else if o = 0x060 then x.pepoch
  else if o = 0x068 then x.cqDrop
  else if o = 0x070 then x.sqErr
  else if o = 0x078 then b2n x.enable + 4 * b2n x.irq
  else 0

/-! ### Blocks, faults -/

/-- LDR_BUSY (R399). -/
def ldrBusy (s : State) : Nat := maskOf ((upFrom 0 16).map fun c => (tget none s.blk.channels c).isSome)

/-- The 32 B of the Fault Unit summary (R366). -/
def faultSummary (s : State) : List Byte :=
  let f := s.flt
  leBytes 4 f.flags ++ leBytes 4 f.faults ++ leBytes 4 f.fatals ++ leBytes 4 f.first ++ leBytes 8 f.latest ++
    leBytes 4 (sat32 f.eccCor) ++ leBytes 4 (sat32 f.eccUnc)

/-- FLT_FENCEi (R380). -/
def fenceReg (s : State) (i : Nat) : Nat :=
  match s.flt.fences[i]? with
  | some f => 2 ^ 31 + f.reason % 16 * 2 ^ 16 + f.chip
  | none => 0

/-- FLT_REMAP (R380). -/
def remapReg (s : State) : Nat :=
  let r := s.flt.remap
  r.state + 4 * b2n r.source + 8 * b2n r.target + 16 * b2n r.needLd + 2 ^ 16 * (r.bytes / 64 % 2 ^ 48)

/-- The level of fault_n: true while released (R367, R411, R413). -/
def faultN (s : State) : Bool :=
  if s.pwr.refclkLost then false
  else if !s.pwr.porN || !s.pwr.handedOver then true
  else !(bitAt s.flt.flags 1 || (cfgVal s 0x0E01 == 1 && bitAt s.flt.flags 0))

/-- The 8 bytes of a byte string at an offset, as a number; 0 beyond its end. -/
def slotOf (bs : List Byte) (o : Nat) : Nat := leNat ((bs.drop o).take 8)

/-- A register of the Fault Unit (R368, R380, R399). -/
def fltReg (s : State) (o : Nat) : Nat :=
  let f := s.flt
  if o < 0x20 then slotOf (faultSummary s) o
  else if o = 0x20 then f.eccCor
  else if o = 0x28 then f.eccUnc
  else if o = 0x30 then f.scrubLate
  else if o = 0x38 then f.logCnt
  else if o = 0x40 then f.logTail
  else if o = 0x48 then f.kfloor
  else if o = 0x50 then f.krefused
  else if 0x100 ≤ o && o < 0x180 then fenceReg s ((o - 0x100) / 8)
  else if o = 0x448 then remapReg s
  else if o = 0x800 then s.ev.base
  else if o = 0x808 then s.ev.size
  else if o = 0x810 then s.ev.head
  else if o = 0x818 then s.ev.tail
  else if o = 0x820 then s.ev.drop
  else if o = 0x828 then b2n s.ev.enable + 2 * b2n s.ev.irq
  else if 0x1000 ≤ o && o < 0x3000 then slotOf (tget [] f.log ((o - 0x1000) / 32)) (o % 32)
  else 0

/-! ### UART, SMBus, PCIe, links -/

/-- TX is idle: nothing queued, no character and no break on the line (R341). -/
def txIdle (s : State) : Bool := s.uart.tx.isEmpty && s.uart.sending.isNone && s.uart.brkTx.isNone

/-- UART_STAT (R341). -/
def uartStat (s : State) : Nat :=
  let u := s.uart
  u.rx.length + 32 * u.tx.length + 2 ^ 11 * b2n (txIdle s) + 2 ^ 12 * b2n u.brkTx.isSome + 2 ^ 13 * b2n u.rxHigh +
    2 ^ 16 * (u.flags % 16) + 2 ^ 20 * b2n u.attn

/-- SMB_STAT (R357). -/
def smbStat (s : State) : Nat := s.pwr.smbAddr + 2 ^ 7 * cfgVal s 0x0C05 + 2 ^ 8 * b2n s.smb.alertLow

/-- PCI_LINK (R399). -/
def pciLink (s : State) : Nat :=
  s.pcie.gen + 16 * s.pcie.width + 2 ^ 16 * cfgVal s 0x0D03 + 2 ^ 17 * b2n s.pcie.up

/-- LK_STATE (R191). -/
def lkState (s : State) (n : Nat) : Nat :=
  let l := getLink s n
  linkStateNum l.state + 16 * widthCode l.width + 2 ^ 8 * l.role + 2 ^ 12 * l.lanes + 2 ^ 16 * l.partner

/-- What the chip holds of the neighbour that a link's partner is. -/
def partnerSide (s : State) (n : Nat) : Neighbour :=
  let l := getLink s n
  if l.role = 1 then s.ring.fwd
  else if l.role = 2 then s.ring.bwd
  else if cfgVal s 0x0601 = 0 then {}
  else if l.partner = cfgVal s 0x0603 then s.ring.fwd
  else if l.partner = cfgVal s 0x0604 then s.ring.bwd
  else {}

/-- LK_HB (R191). -/
def lkHb (s : State) (n : Nat) : Nat :=
  let x := partnerSide s n
  min x.misses 31 + 2 ^ 8 * b2n x.suspect + 2 ^ 9 * b2n x.failed

/-- LK_RINGID: 0 until the configuration is handed over (R210). -/
def ringId (s : State) : Nat :=
  if !s.pwr.handedOver then 0
  else cfgVal s 0x0603 + 2 ^ 12 * cfgVal s 0x0604 + 2 ^ 24 * cfgVal s 0x0602 + 2 ^ 32 * cfgVal s 0x0601 + 2 ^ 40 * cfgVal s 0x0605

/-- A register of link n (R188, R191, R210). -/
def lkReg (s : State) (n o : Nat) : Nat :=
  let l := getLink s n
  let r := s.ring
  if o = 0x00 then lkState s n
  else if o = 0x10 then l.errs % 65536 + (if s.pwr.handedOver then 2 ^ 16 * cfgVal s 0x0402 else 0)
  else if o = 0x18 then l.uncorr
  else if o = 0x20 then l.corrSym
  else if o = 0x28 then l.crcErr
  else if o = 0x30 then l.replays
  else if o = 0x38 then l.fastRt
  else if o = 0x40 then l.fullRt
  else if o = 0x48 then l.txU
  else if o = 0x50 then l.txS
  else if o = 0x58 then l.txB
  else if o = 0x60 then l.rxU
  else if o = 0x68 then l.rxS
  else if o = 0x70 then l.rxB
  else if o = 0x78 then l.sExcess
  else if o = 0x80 then l.uExcess
  else if o = 0x88 then l.dupDrop
  else if o = 0x90 then l.staleDrop
  else if o = 0x98 then l.badKind
  else if o = 0xA0 then l.crS % 1024 + 2 ^ 16 * (l.crB % 512) + 2 ^ 32 * (l.crU % 32)
  else if o = 0xA8 then lkHb s n
  else if n != 0 then 0
  else if 0x4000 ≤ o && o < 0x8000 then
    let d := (o - 0x4000) / 4
    tget 0 s.routes d + 2 ^ 32 * tget 0 s.routes (d + 1)
  else if o = 0x8000 then ringId s
  else if o = 0x8008 then r.digest
  else if o = 0x8010 then r.digStat
  else if o = 0x8018 then r.mismatches
  else if o = 0x8020 then r.collFail
  else if o = 0x8028 then r.collDrop
  else if o = 0x8038 then r.mirCrc
  else 0

/-! ### The map (R391, R398) -/

/-- A register of ESC (R313). -/
def escReg (s : State) (o : Nat) : Nat :=
  if o = 0x00 then s.clk.fleet
  else if o = 0x08 then escStateReg s
  else if o = 0x10 then wrapInt 32 s.clk.ratePpb
  else if 0x20 ≤ o && o < 0x60 then escOffset s ((o - 0x20) / 8)
  else if 0x60 ≤ o && o < 0xA0 then wrapInt 32 (tget 0 s.esc.delay ((o - 0x60) / 8))
  else if o = 0xA0 then wrapInt 32 s.esc.edgeOff + 2 ^ 32 * (s.esc.invalid % 2 ^ 32)
  else if o = 0xA8 then s.esc.holdovers
  else 0

/-- A register of RGL (R295). -/
def rglReg (s : State) (o : Nat) : Nat :=
  let g := s.rgl
  if o = 0x00 then rglStatus s
  else if o = 0x08 then g.p / 1000
  else if o = 0x10 then g.cal / 1000
  else if o = 0x18 then g.pin
  else if o = 0x20 then capWatts s
  else if o = 0x28 then g.energy / 1000
  else if o = 0x30 then g.ballastE / 1000
  else if o = 0x38 then g.shedCnt
  else if o = 0x40 then b2n g.shedReq
  else if o = 0x48 then rglCredit s
  else if o = 0x50 then rglPool s
  else if o = 0x58 then g.stale
  else if o = 0x60 then g.reclaimed
  else if o = 0x68 then g.slopeBrk / 1000000
  else 0

/-- A register of SCH (R232 to R234, R237). -/
def schReg (s : State) (o : Nat) : Nat :=
  if o = 0x00 then cfgVal s 0x0701
  else if o = 0x10 then vatFree s
  else if 0x100 ≤ o && o < 0x200 then
    let p := (o - 0x100) / 32
    if o % 32 = 0 then pcfg s p else if o % 32 = 8 then prun s p else 0
  else if 0x8000 ≤ o then jobReg s ((o - 0x8000) / 0x200) (o % 0x200)
  else 0

/-- A register of SEP (R129, R145). -/
def sepReg (s : State) (o : Nat) : Nat :=
  if o = 0x100 then s.blk.selBad
  else if o = 0x108 then s.blk.selDead
  else if o = 0x110 then s.blk.blogWr
  else if o = 0x118 then s.blk.blogSeq
  else if o = 0x120 then s.blk.blogLost
  else if o = 0x128 then s.blk.pairDrop
  else 0

/-- A register of CUL; per-function registers show function `fn` (R272, R273). -/
def culReg (s : State) (fn o : Nat) : Nat :=
  if o = 0x100 then s.cul.updates
  else if o = 0x108 then s.cul.sat
  else if o = 0x110 then s.cul.pauses
  else if o = 0x118 then s.cul.rewLate
  else if o = 0x208 then tget 0 s.cul.snStat fn
  else if o = 0x210 then tget 0 s.cul.snAddr fn
  else 0

/-- A register of UART or SMB (R341, R357). UART_DATA reads 0 (R400). -/
def portReg (s : State) (uart : Bool) (o : Nat) : Nat :=
  if uart then
    if o = 0x08 then uartStat s
    else if o = 0x10 then s.uart.ctrl
    else if o = 0x18 then s.uart.baud
    else if o = 0x28 then s.uart.brkLen
    else if o = 0x30 then s.uart.rxLost
    else 0
  else if o = 0x00 then smbStat s
  else if o = 0x08 then s.smb.err
  else if o = 0x100 then s.pmb.vin
  else if o = 0x108 then s.pmb.iin
  else if o = 0x110 then s.pmb.iout
  else if o = 0x118 then s.pmb.status
  else if o = 0x120 then s.pmb.vout
  else if o = 0x128 then s.pmb.fail
  else 0

/-- A register of an HBM stack (R399). -/
def hbmReg (x : Stack) (o : Nat) : Nat :=
  if o = 0x00 then b2n x.inited + 2 * b2n x.failed + 4 * b2n x.zeroFilled else if o = 0x08 then x.deferred else 0

/-- A register of a cluster (R62, R399). -/
def clReg (s : State) (c o : Nat) : Nat :=
  let x := tget {} s.cls c
  if o = 0x00 then cfgVal s 0x0702 else if o = 0x08 then x.overruns else if o = 0x10 then x.faults else 0

/-- The rest of the blocks by number: CRN, CFG, CHN, LDR, TEL, PCI. -/
def miscReg (s : State) (b o : Nat) : Nat :=
  if b = 0x00 then (if o = 0 then crnId else 0)
  else if b = 0x01 then
    if o = 0x00 then cfgState s
    else if o = 0x08 then cfgSerial s
    else if o = 0x10 then cfgOtp s
    else if 0x8000 ≤ o && o < 0x95D0 then slotOf s.rep.table (o - 0x8000)
    else 0
  else if b = 0x08 then
    if o = 0x100 then s.blk.combines else if o = 0x108 then s.blk.consErr else if o = 0x110 then s.blk.nonFinite else 0
  else if b = 0x0A then (if o = 0 then ldrBusy s else if o = 8 then s.blk.rejects else 0)
  else if b = 0x0C then
    if o = 0 then s.tel.tempMax
    else if 0x100 ≤ o && o < 0x140 then tget 0 s.tel.bound ((o - 0x100) / 8)
    else 0
  else if b = 0x0F then (if o = 0 then pciLink s else if o = 8 then s.pcie.poison else 0)
  else 0

/-- The 8-byte slot at an aligned BAR0 offset, read without side effects; `fn` is the function whose own registers show. -/
def regSlot (s : State) (fn off : Nat) : Nat :=
  let b := off / 0x1_0000
  let o := off % 0x1_0000
  (if off < 0x40_0000 then
    if b = 0x02 then escReg s o
    else if b = 0x03 then rglReg s o
    else if b = 0x04 then schReg s o
    else if b = 0x05 then
      if 0x1000 ≤ o && o < 0x1000 + 0x40 * 257 then acctReg s ((o - 0x1000) / 0x40) (o % 0x40) else 0
    else if b = 0x06 then
      if o < 0x8000 then stmReg s (o / 0x1000) (o % 0x1000) else if o = 0x8000 then stmFree s else 0
    else if b = 0x07 then sepReg s o
    else if b = 0x09 then culReg s fn o
    else if b = 0x0B then fltReg s o
    else if b = 0x0D then portReg s true o
    else if b = 0x0E then portReg s false o
    else if 0x10 ≤ b && b < 0x18 then lkReg s (b - 0x10) o
    else if b = 0x18 then hbmReg s.hbm.stack0 o
    else if b = 0x19 then hbmReg s.hbm.stack1 o
    else if 0x20 ≤ b && b < 0x28 then clReg s (b - 0x20) o
    else miscReg s b o
  else if off < 0x44_0000 then slotOf (streamBytes (getStream s ((off - 0x40_0000) / 64))) (off % 64)
  else 0) % 2 ^ 64

/-- The 8 bytes that the console and SMBus command 0x41 read at an offset (R400). -/
def regRead (s : State) (off : Nat) : Nat := regSlot s 0 (off / 8 * 8)

end Sys2Proof.Machine
end

