-- ==== Sys2Proof/Machine/Uart.lean ====
section
/-! DEFINITION. The UART (R340 to R348) and the Crown's input line (R338, R339). -/

namespace Sys2Proof.Machine

/-! ### Owner and format (R338, R340, R342) -/

/-- The Crown owns the UART: until the report's last line, and after it with mgmt.uart_owner at 0 (R333, R338). -/
def crownOwns (s : State) : Bool := !s.uart.reported || cfgVal s 0x0C03 == 0

/-- Does a port own the UART (R342). -/
def ownsUart (s : State) (p : Port) : Bool := if crownOwns s then p == .crown else p == .pf

/-- The code of a writing port (R425). -/
def portNum : Port → Nat
  | .pf => 1
  | .vf _ => 2
  | .smbus => 3
  | .console => 4
  | .crown => 5

/-- A write that the UART ignores (R342, R361). -/
def uartIgnored (off : Nat) (p : Port) (s : State) : State := post 0x0D 5 1 (pl4 off ++ pl1 (portNum p)) s

/-- A UART register's write: the owner's acts, another's is ignored. -/
def byOwner (off : Nat) (p : Port) (f : State → State) (s : State) : State := if ownsUart s p then f s else uartIgnored off p s

/-- F: bits of a frame in a format (R340). -/
def frameBits (ctrl : Nat) : Nat := 1 + (8 - ctrl % 2) + (if bits ctrl 1 3 = 0 then 0 else 1) + (1 + bits ctrl 4 1)

/-- Bits of a frame before its first stop bit: start, data, parity (R340). -/
def bitsBeforeStop (ctrl : Nat) : Nat := 1 + (8 - ctrl % 2) + (if bits ctrl 1 3 = 0 then 0 else 1)

/-- The data bits of a character, LSB first (R340). -/
def dataBits (ctrl c : Nat) : List Bool := (upFrom 0 (8 - ctrl % 2)).map (bitAt c)

/-- The parity bit of a character: even, odd, mark, space (R340); a code that is none of these gives an open value (log 3). -/
def parityBit (ctrl c : Nat) : Bool :=
  let odd := (dataBits ctrl c).foldl xor false
  match bits ctrl 1 3 with
  | 1 => odd
  | 2 => !odd
  | 3 => true
  | 4 => false
  | k => Config.parityOther k c

/-- The bits of a frame as the line carries them: start, data, parity, stops (R340). -/
def lineBits (ctrl c : Nat) : List Bool :=
  false :: dataBits ctrl c ++ (if bits ctrl 1 3 = 0 then [] else [parityBit ctrl c]) ++ List.replicate (1 + bits ctrl 4 1) true

/-- A bit as the receiver reads it: the majority of its three samples (R340). -/
def majority (x : Bool × Bool × Bool) : Bool := (x.1 && x.2.1) || (x.1 && x.2.2) || (x.2.1 && x.2.2)

/-- The format of a frame of RX whose first stop bit is being sampled: that of the registers, unless they were written after the frame
began (R342). -/
def rxFormat (s : State) : Nat × Nat :=
  let u := s.uart
  if 2 * u.fmtNs + 5 * u.baud * (2 * bitsBeforeStop u.ctrl + 1) ≤ 2 * s.upNs then (u.ctrl, u.baud) else (u.rxCtrl, u.rxBaud)

/-- RX takes the format of the frame that ends. -/
def takeFormat (s : State) : State := { s with uart := { s.uart with rxCtrl := (rxFormat s).1, rxBaud := (rxFormat s).2 } }

/-- Flags set by the receiver; one that a read of UART_STAT recorded counts as set after it (R8, R344). -/
def raiseFlags (m : Nat) (u : Uart) : Uart := { u with flags := u.flags ||| m, rsq := u.rsq - (u.rsq &&& m) }

/-- N of a baud rate: mgmt cycles of a bit, rounded to nearest (R340). -/
def bitPeriod (baud : Nat) : Nat := if baud = 0 then 20833 else (2 * 200000000 + baud) / (2 * baud)

/-! ### Sending (R343, R345) -/

/-- The Crown fills the TX FIFO from its output while there is room (R333). -/
def crownFeed (s : State) : State :=
  if crownOwns s then
    let n := 16 - s.uart.tx.length
    { s with
      uart.tx := s.uart.tx ++ (s.con.out.take n).map (·.toNat)
      con.out := s.con.out.drop n }
  else s

/-- TX goes on when nothing is on its line: a waiting break, else the next character in the format of now (R342, R345). -/
def txNext (s : State) : State :=
  let u := s.uart
  if u.sending.isSome || u.brkNow then s
  else if u.brkTx.isSome then { s with uart.brkNow := true }
  else match u.tx with
    | c :: cs => { s with uart := { u with sending := some c, line := lineBits u.ctrl c, tx := cs, txCtrl := u.ctrl, txBaud := u.baud } }
    | [] => s

/-- The Crown's output and TX move on. -/
def pump (s : State) : State := crownFeed (txNext (crownFeed s))

/-- After the report's last character the configured format and owner take effect (R333, R396). -/
def endReport (s : State) : State :=
  let u := s.uart
  if !u.reported && s.pwr.handedOver && s.con.out.isEmpty && u.tx.isEmpty && u.sending.isNone then
    { s with uart := { u with
      reported := true, ctrl := cfgVal s 0x0C02, baud := bitPeriod (cfgVal s 0x0C01), fmtNs := s.upNs } }
  else s

/-- The Crown's output. -/
def crownSay (bs : List Byte) (s : State) : State := pump { s with con.out := s.con.out ++ bs }

/-- The end of each reply (R339). -/
def prompt : List Byte := [0x0D, 0x0A] ++ strBytes "> "

/-- A reply of the console, kept as the last one, and sent (R339). -/
def reply (bs : List Byte) (s : State) : State := crownSay (bs ++ prompt) { s with con.reply := bs, con.command := none }

/-! ### The console's line (R339) -/

/-- The value of a hexadecimal digit. -/
def hexVal (b : Byte) : Option Nat :=
  let n := b.toNat
  if 48 ≤ n && n ≤ 57 then some (n - 48)
  else if 65 ≤ n && n ≤ 70 then some (n - 55)
  else if 97 ≤ n && n ≤ 102 then some (n - 87)
  else none

/-- A hexadecimal number. -/
def hexNum (bs : List Byte) : Option Nat :=
  match bs with
  | [] => none
  | _ => bs.foldl (fun acc b => match acc, hexVal b with
      | some a, some d => some (16 * a + d)
      | _, _ => none) (some 0)

/-- The words of a line. -/
def wordsOf : List Byte → List (List Byte)
  | [] => []
  | b :: bs =>
    if b = 0x20 then [] :: wordsOf bs
    else match wordsOf bs with
      | w :: ws => (b :: w) :: ws
      | [] => [[b]]

/-- A number with or without the prefix 0x. -/
def numOf (w : List Byte) : Option Nat := if w.take 2 = strBytes "0x" then hexNum (w.drop 2) else hexNum w

/-- Is a line one of the console's commands (R339). -/
def knownLine (l : List Byte) : Bool :=
  match (wordsOf l).filter fun w => !w.isEmpty with
  | [w] => w == strBytes "s" || w == strBytes "rep"
  | [w, a] => w == strBytes "r" && (numOf a).isSome
  | [w, a, v] => w == strBytes "w" && (numOf a).isSome && (numOf v).isSome
  | _ => false

/-- The Crown takes one character: echo, backspace, end of line (R339). A line is bad while it holds a character received with an
error. -/
def consoleChar (e : RxEntry) (s : State) : State :=
  if e.brk then s
  else
    let c : Byte := BitVec.ofNat 8 e.ch
    let err := e.parity || e.frame
    let s1 := crownSay [c] s
    if c = 0x0D then
      let s2 := { s1 with con.line := [], con.bad := [] }
      if err || s.con.bad.any id || 80 < s.con.line.length then reply (strBytes "ERR LINE") s2
      else if knownLine s.con.line then { s2 with con.command := some s.con.line }
      else reply (strBytes "ERR CMD") s2
    else if c = 0x08 || c = 0x7F then { s1 with con.line := s.con.line.dropLast, con.bad := s.con.bad.dropLast }
    else { s1 with con.line := s.con.line ++ [c], con.bad := s.con.bad ++ [err] }

/-! ### Registers (R341 to R345) -/

/-- An RX entry as UART_DATA returns it (R341). -/
def entryWord (e : RxEntry) : Nat := 2 ^ 31 + 2 ^ 10 * b2n e.brk + 2 ^ 9 * b2n e.frame + 2 ^ 8 * b2n e.parity + e.ch

/-- A read of UART_DATA by the owner: it pops an entry and clears the recorded flags (R341, R344). -/
def popRx (s : State) : State :=
  let u := s.uart
  let v := match u.rx with
    | e :: _ => entryWord e
    | [] => 0
  { s with uart := { u with rx := u.rx.drop 1, flags := u.flags - (u.flags &&& u.rsq), rsq := 0, lastRead := v } }

/-- UART_DATA_READ (R342, R344). What the Crown reads after the report is console input (R338). -/
def execUartDataRead (port : Port) (s : State) : Out :=
  runCtl (fun s =>
    if ownsUart s port then
      let s1 := popRx s
      match port, s.uart.rx with
      | .crown, e :: _ => if s.uart.reported then consoleChar e s1 else s1
      | _, _ => s1
    else { s with uart.lastRead := 0 }) s

/-- A character queued for sending; a full FIFO drops it (R343). -/
def pushTx (v : Nat) (s : State) : State :=
  if 16 ≤ s.uart.tx.length then s else txNext { s with uart.tx := s.uart.tx ++ [v % 256] }

/-- UART_DATA_WRITE (R341 to R343). -/
def execUartDataWrite (port : Port) (v : BitVec 32) (s : State) : Out := runCtl (byOwner 0x0000 port (pushTx v.toNat)) s

/-- UART_STAT_READ: the owner's read records the flags that it returned (R344). -/
def execUartStatRead (port : Port) (s : State) : Out :=
  runCtl (fun s =>
    { s with uart.lastRead := uartStat s, uart.rsq := if ownsUart s port then s.uart.flags else s.uart.rsq }) s

/-- ATTN_CLEAR (R341, R342). -/
def execAttnClear (port : Port) (v : BitVec 32) (s : State) : Out :=
  runCtl (byOwner 0x0008 port fun s => { s with uart.attn := s.uart.attn && !v.getLsbD 20 }) s

/-- A format register written: in force at each direction's next frame boundary (R341, R342). -/
def writeFormat (r : UartReg) (v : Nat) (s : State) : State :=
  let s1 := takeFormat s
  let u := { s1.uart with fmtNs := s.upNs }
  match r with
  | .ctrl => { s1 with uart := { u with ctrl := v % 32 } }
  | .baud => { s1 with uart := { u with baud := min 20833 (max 67 (v % 2 ^ 15)) } }

/-- UART_FORMAT_WRITE (R342). -/
def execUartFormatWrite (port : Port) (r : UartReg) (v : BitVec 32) (s : State) : Out :=
  runCtl (byOwner (match r with
    | .ctrl => 0x0010
    | .baud => 0x0018) port (writeFormat r v.toNat)) s

/-- A break asked for: 0 or a second one is ignored (R345). -/
def askBreak (v : Nat) (s : State) : State :=
  let n := v % 65536
  if n = 0 || s.uart.brkTx.isSome then s else txNext { s with uart.brkTx := some n }

/-- UART_BRKTX (R345). -/
def execUartBrktx (port : Port) (v : BitVec 32) (s : State) : Out := runCtl (byOwner 0x0020 port (askBreak v.toNat)) s

/-- BREAK_TX_END: the line is high for a bit period and TX goes on (R345). -/
def execBreakTxEnd (s : State) : Out :=
  runCtl (fun s => if s.uart.brkNow then pump { s with uart.brkNow := false, uart.brkTx := none } else s) s

/-- CHARACTER_SENT (R340, R343). -/
def execCharacterSent (s : State) : Out :=
  runCtl (fun s => if s.uart.sending.isSome then endReport (pump { s with uart.sending := none, uart.line := [] }) else s) s

/-! ### Receiving (R343, R344, R346, R347) -/

/-- A character lost to a full FIFO; the event at most once per ms (R343, R361). -/
def loseRx (s : State) : State :=
  let u := s.uart
  let n := u.lostEv + 1
  let due := match u.lostEvNs with
    | none => true
    | some t => decide (t + 1000000 ≤ s.clk.fleet)
  let s1 := { s with uart := { raiseFlags 4 u with
    rxLost := sat32 (u.rxLost + 1), lostEv := if due then 0 else n
    lostEvNs := if due then some s.clk.fleet else u.lostEvNs } }
  postIf due 0x0D 4 1 (pl4 n) s1

/-- An entry for the RX FIFO. -/
def pushRx (e : RxEntry) (s : State) : State :=
  if 16 ≤ s.uart.rx.length then loseRx s
  else { s with uart := { raiseFlags (b2n e.parity + 2 * b2n e.frame) s.uart with rx := s.uart.rx ++ [e] } }

/-- The UART works: the management plane runs and the device is not Dormant (R349). -/
def uartRuns (s : State) : Bool := mgmtRuns s && s.pwr.state != .dormant

/-- The entry of a frame in a format, from the samples of its data bits, its parity bit, where it has one, and its first stop bit; a
data sample that is not given is low (R340, R341). -/
def readFrame (ctrl : Nat) (data : List (Bool × Bool × Bool)) (par stop : Bool × Bool × Bool) : RxEntry :=
  let c := sumNat ((upFrom 0 (8 - ctrl % 2)).map fun k => b2n (majority (data.getD k (false, false, false))) * 2 ^ k)
  { ch := c, brk := false, parity := bits ctrl 1 3 != 0 && majority par != parityBit ctrl c, frame := !majority stop }

/-- Every data, parity and first stop sample of a frame is low: a break (R346). -/
def isBreak (ctrl : Nat) (data : List (Bool × Bool × Bool)) (par stop : Bool × Bool × Bool) : Bool :=
  (readFrame ctrl data par stop).ch == 0 && (bits ctrl 1 3 == 0 || !majority par) && !majority stop

/-- A break is detected at the first stop sample; the line fell a start bit's edge before (R346). -/
def takeBreak (s : State) : State :=
  let s1 := pushRx { ch := 0, brk := true, frame := false, parity := false } (takeFormat s)
  { s1 with uart := { raiseFlags 8 s1.uart with
    inBreak := true, rxHigh := false
    brkFrom := s.upNs - 5 * s1.uart.rxBaud * (2 * bitsBeforeStop s1.uart.rxCtrl + 1) / 2 } }

/-- CHARACTER_RECEIVED (R340, R343, R344, R346). With 7 data bits bit 7 is 0 (R341). -/
def execCharacterReceived (data : List (Bool × Bool × Bool)) (par stop : Bool × Bool × Bool) (s : State) : Out :=
  runCtl (fun s =>
    if uartRuns s && !s.uart.inBreak then
      let s1 := takeFormat s
      if isBreak s1.uart.rxCtrl data par stop then takeBreak s
      else
        let s2 := pushRx (readFrame s1.uart.rxCtrl data par stop) s1
        { s2 with uart.rxHigh := true, uart.waitIdle := false }
    else s) s

/-- BREAK_DETECT (R346). -/
def execBreakDetect (s : State) : Out := runCtl (fun s => if uartRuns s && !s.uart.inBreak then takeBreak s else s) s

/-- An attention (R347, R361). -/
def attention (len : Nat) (s : State) : State :=
  let s1 := post 0x0D 1 0 (pl4 len) s
  if crownOwns s then
    crownSay ([0x0D, 0x0A] ++ strBytes "ATTN" ++ prompt)
      { s1 with con.line := [], con.bad := [], con.command := none, con.out := [], uart.tx := [] }
  else { s1 with uart.attn := true }

/-- BREAK_END: the line rises after `cycles` mgmt cycles of low (R346, R347). -/
def execBreakEnd (cycles : Nat) (s : State) : Out :=
  runCtl (fun s =>
    if uartRuns s && s.uart.inBreak then
      let u := s.uart
      let n := cycles / u.rxBaud
      let len := min n 0xFFFF
      let s1 := { passUp (u.brkFrom + 5 * cycles) s with uart := { u with inBreak := false, rxHigh := true, brkLen := len, waitIdle := true, rxCtrl := u.ctrl, rxBaud := u.baud } }
      if n < 2 * frameBits u.rxCtrl then s1
      else if cycles < 50000000 then attention len s1
      else if cfgVal s 0x0C04 = 1 then s1
      else post 0x0D 3 0 (pl4 len) s1
    else s) s

/-- MANAGEMENT_RESET: the line has been low for 250 ms (R347, R348). -/
def execManagementReset (s : State) : Out :=
  runCtl (fun s =>
    if uartRuns s && s.uart.inBreak && cfgVal s 0x0C04 == 1 && s.pwr.mgmtResetDue.isNone then
      let s1 := passUp (s.uart.brkFrom + 250000000) s
      post 0x0D 2 1 [] { s1 with pwr.mgmtResetDue := some (s1.clk.fleet + 10000) }
    else s) s

end Sys2Proof.Machine
end

