-- ==== Sys2Proof/Machine/RegWrite.lean ====
section
/-! DEFINITION. Register writes from every port (R391 to R397, R401), the console's commands (R339, R400, R401) and the host's
accesses through BAR0 and BAR2 (R60, R364, R393). -/

namespace Sys2Proof.Machine

/-! ### What a write carries (R392, R393) -/

/-- A write of one 8-byte slot: 8 bytes, or 4 at its low or high half. -/
structure Wr where
  wide : Bool
  high : Bool
  v    : Nat
  deriving DecidableEq, Repr

/-- The slot's value after the write, the other half kept (log 16). -/
def Wr.merge (w : Wr) (old : Nat) : Nat :=
  if w.wide then w.v % 2 ^ 64
  else if w.high then old % 2 ^ 32 + w.v % 2 ^ 32 * 2 ^ 32
  else old / 2 ^ 32 * 2 ^ 32 + w.v % 2 ^ 32

/-- The bits written, 0 in the other half: what a WO or W1C register takes (log 16). -/
def Wr.only (w : Wr) : Nat := w.merge 0

/-- Does the write cover bits [31:0] of the slot. -/
def Wr.low (w : Wr) : Bool := w.wide || !w.high

/-! ### Registers by block -/

/-- The fields of SCH_JCTL; its other bits are reserved and stay 0 (R7, R234). -/
def jctlMask : Nat := 0x00FF_FFFF_0307_FF07

/-- A job slot's register (R234): SCH_JARG at any time, SCH_JCMD runs a command, the others while the slot is Empty. A
command code that R235 does not list has status 2 (log 16). -/
def writeJob (j o : Nat) (w : Wr) (s : State) : State :=
  let x := getJob s j
  let free := fun f : Job → Job => if x.state = 0 then modJob j f s else schIgnored j o s
  if o = 0x018 then modJob j (fun x => { x with arg := w.merge x.arg }) s
  else if o = 0x020 then
    if !w.low then s
    else
      let c := w.v % 16
      if c = 1 then cmdInstall j s
      else if c = 2 then cmdStart j s
      else if c = 3 then cmdPreempt j s
      else if c = 4 then cmdRemove j s
      else if c = 5 then cmdRestart j s
      else jobCommand j c (fun _ => 2) id s
  else if o = 0x000 then free fun x => { x with ctl := w.merge x.ctl &&& jctlMask }
  else if o = 0x008 then free fun x => { x with mov := w.merge x.mov }
  else if o = 0x010 then free fun x => { x with save := w.merge x.save }
  else if o = 0x050 then free fun x => { x with thr := w.merge x.thr }
  else if 0x100 ≤ o then
    let r := (o - 0x100) / 16
    free fun x =>
      let q := tget (0, 0) x.ranges r
      { x with ranges := tput x.ranges r (if o % 16 = 0 then (w.merge q.1, q.2) else (q.1, w.merge q.2)) }
  else s

/-- STM_CTRL: Enable, Reset and the interrupt enable (R214, R230). -/
def writeStmCtrl (p v : Nat) (s : State) : State :=
  let s1 := modStm p (fun y => { y with enable := bitAt v 0, irq := bitAt v 2 }) s
  if bitAt v 1 then resetPart p s1 else s1

/-- A ring register of partition p (R214). -/
def writeStm (p o : Nat) (w : Wr) (s : State) : State :=
  let y := getStm s p
  if o = 0x000 then writeSqSetup p .base (w.merge y.sqBase) s
  else if o = 0x020 then writeCqSetup p .base (w.merge y.cqBase) s
  else if o = 0x050 then
    if y.enable then stmIgnored p o s else modStm p (fun y => { y with srBase := w.merge y.srBase / 64 * 64 }) s
  else if !w.low then s
  else
    let v := w.v % 2 ^ 32
    if o = 0x008 then writeSqSetup p .size v s
    else if o = 0x010 then writeSqTail p v s
    else if o = 0x028 then writeCqSetup p .size v s
    else if o = 0x030 then writeCqHead p v s
    else if o = 0x058 then
      if y.enable then stmIgnored p o s else modStm p (fun y => { y with streams := v &&& 0x1FFF_0FFF }) s
    else if o = 0x078 then writeStmCtrl p v s
    else s

/-- A register of CUL, as function `fn` writes it (R273). -/
def writeCul (fn o : Nat) (w : Wr) (s : State) : State :=
  if o = 0x200 then requestLease fn w.only s
  else if o = 0x218 then releaseLease fn w.only s
  else if o = 0x220 then writeResume w.only s
  else if o = 0x228 then armResume w.only s
  else s

/-- A register of FLT (R366, R375, R379, R399). -/
def writeFlt (o : Nat) (w : Wr) (s : State) : State :=
  if o = 0x000 then writeSum0 w.only s
  else if 0x400 ≤ o && o < 0x440 then
    let i := (o - 0x400) / 8
    { s with flt.ksend := tput s.flt.ksend i (w.merge (tget 0 s.flt.ksend i)) }
  else if o = 0x800 then writeEvSetup .base (w.merge s.ev.base) s
  else if !w.low then s
  else
    let v := w.v % 2 ^ 32
    if o = 0x440 then writeKdst v s
    else if o = 0x450 then writeRemapCmd v s
    else if o = 0x808 then writeEvSetup .size v s
    else if o = 0x810 then writeEvHead v s
    else if o = 0x828 then writeEvCtrl v s
    else s

/-- A UART register's write by its owner (R341 to R345). -/
def uartAct (o v : Nat) (s : State) : State :=
  if o = 0x00 then pushTx v s
  else if o = 0x08 then { s with uart.attn := s.uart.attn && !bitAt v 20 }
  else if o = 0x10 then writeFormat .ctrl v s
  else if o = 0x18 then writeFormat .baud v s
  else askBreak v s

/-- A register of UART; no port stands for JTAG, which never owns the UART (R342). A write to UART_STAT that does not touch
Attn is none. -/
def writeUart (p : Option Port) (o : Nat) (w : Wr) (s : State) : State :=
  let v := w.v % 2 ^ 32
  if !w.low || 0x20 < o || (o = 0x08 && !bitAt v 20) then s
  else match p with
    | some q => byOwner o q (uartAct o v) s
    | none => post 0x0D 5 1 (pl4 o ++ pl1 0xFF) s

/-- The code of the writing port; JTAG has none, so the value is all ones (R425). -/
def portCode (p : Option Port) : Nat :=
  match p with
  | some q => portNum q
  | none => 0xFF

/-- A write to link register space that R24 protects: the route entries of chips 0 to 4,094 and the ring's identity (R188, R210). -/
def protectedLk (n o : Nat) (w : Wr) : Bool :=
  n == 0 && ((decide (0x4000 ≤ o) && decide (o < 0x8000) && !(o == 0x7FF8 && !w.low)) || o == 0x8000)

/-- A register of link n: LK_CMD, LK_MIRCMD; the route table and the ring's identity are protected (R24, R191, R210, R395). -/
def writeLk (p : Option Port) (n o : Nat) (w : Wr) (s : State) : State :=
  if o = 0x0008 then (if w.low then writeLkCmd n w.v s else s)
  else if n = 0 && o = 0x8030 then (if w.low then writeMirCmd w.v s else s)
  else if protectedLk n o w then
    post 0x10 0x0A 1 (pl4 (o + (if w.high then 4 else 0)) ++ pl1 (portCode p)) s
  else s

/-- Account a: bit 32 of + 0x28 is W1C (R252). -/
def writeAcct (a o : Nat) (w : Wr) (s : State) : State :=
  if o = 0x28 && bitAt w.only 32 then modAcct a (fun x => { x with preWrap := false }) s else s

/-- A write at an 8-byte slot of the register map by a port that sees all of it (R391, R395, R398). In Loading the management plane's
blocks alone are not held in reset (R315). -/
def writeSlot (p : Option Port) (off : Nat) (w : Wr) (s : State) : State :=
  let b := off / 0x1_0000
  let o := off % 0x1_0000
  if s.pwr.state == .loading && b != 0x0D then s
  else if b = 0x03 then
    if !w.low then s
    else if o = 0x20 then writeCap (w.v % 2 ^ 32) s
    else if o = 0x40 then writeShedReq (bitAt w.v 0) s
    else s
  else if b = 0x04 then (if 0x8000 ≤ o then writeJob ((o - 0x8000) / 0x200) (o % 0x200) w s else s)
  else if b = 0x05 then
    if 0x1000 ≤ o && o < 0x1000 + 0x40 * 257 then writeAcct ((o - 0x1000) / 0x40) (o % 0x40) w s else s
  else if b = 0x06 then (if o < 0x8000 then writeStm (o / 0x1000) (o % 0x1000) w s else s)
  else if b = 0x09 then writeCul 0 o w s
  else if b = 0x0B then writeFlt o w s
  else if b = 0x0D then writeUart p o w s
  else if 0x10 ≤ b && b < 0x18 then writeLk p (b - 0x10) o w s
  else s

/-- A write by virtual function p in its own BAR0 (R397). -/
def writeVf (p off : Nat) (w : Wr) (s : State) : State :=
  if cfgVal s 0x0D03 = 0 then s
  else if off < 0x80 then writeStm p off w s
  else if 0x1000 ≤ off && off < 0x1020 then writeCul (1 + p) (0x200 + (off - 0x1000)) w s
  else s

/-- The registers that the console may write (R401). -/
def consoleMay (off : Nat) : Bool :=
  off == 0x3_0020 || off == 0x3_0040 || off == 0xB_0000 || (decide (0xB_0400 ≤ off) && decide (off < 0xB_0440) && off % 8 == 0) ||
    off == 0xB_0440 || off == 0xB_0450 || off == 0x10_8030 ||
    (decide (0x10_0000 ≤ off) && decide (off < 0x18_0000) && off % 0x1_0000 == 8)

/-- A write of 4 or 8 bytes at an aligned offset, by a port (R394, R397, R400, R401). -/
def writeReg (p : Port) (off : Nat) (wide : Bool) (v : Nat) (s : State) : State :=
  let w : Wr := { wide := wide, high := !wide && off % 8 == 4, v := v }
  let o := off / 8 * 8
  match p with
  | .pf => writeSlot (some p) o w s
  | .vf q => writeVf q.val o w s
  | .smbus => if o = 0x3_0040 || protectedLk 0 (o - 0x10_0000) w then writeSlot (some p) o w s else s
  | .console => if consoleMay off then writeSlot (some p) o w s else s
  | .crown => if off / 0x1_0000 = 0x0D then writeSlot (some p) o w s else s

/-- Is an access of 4 or 8 bytes naturally aligned (R393). -/
def aligned (off : Nat) (wide : Bool) : Bool := off % (if wide then 8 else 4) == 0

/-- REGISTER_WRITE; one of another alignment is dropped (R393, R395). -/
def execRegisterWrite (port : Port) (off : BitVec 32) (wide : Bool) (v : BitVec 64) (s : State) : Out :=
  run (fun s => if aligned off.toNat wide then writeReg port off.toNat wide v.toNat s else s) s

/-! ### The console (R338, R339, R400, R401) -/

/-- The Crown serves the console: after the report, while it owns the UART (R338). -/
def consoleServes (s : State) : Bool := uartRuns s && s.uart.reported && cfgVal s 0x0C03 == 0

/-- CONSOLE_READ: the command r. -/
def execConsoleRead (off : BitVec 32) (s : State) : Out :=
  run (fun s => if consoleServes s then reply (hexDigits 16 (regRead s off.toNat)) s else s) s

/-- CONSOLE_WRITE: the command w. -/
def execConsoleWrite (off : BitVec 32) (v : BitVec 64) (s : State) : Out :=
  run (fun s =>
    if consoleServes s then
      if consoleMay off.toNat then reply (strBytes "OK") (writeReg .console off.toNat true v.toNat s)
      else reply (strBytes "ERR") s
    else s) s

/-- What the command s answers: CFG_STATE, RGL_STATUS, ESC_STATE, the Fault Unit summary byte by byte (log 16). -/
def statusLine (s : State) : List Byte :=
  hexDigits 8 (cfgState s) ++ [0x20] ++ hexDigits 8 (rglStatus s) ++ [0x20] ++ hexDigits 8 (escStateReg s) ++ [0x20] ++
    ((faultSummary s).flatMap fun b => hexDigits 2 b.toNat)

/-- CONSOLE_STATUS: the command s. -/
def execConsoleStatus (s : State) : Out := run (fun s => if consoleServes s then reply (statusLine s) s else s) s

/-- The lines of the report, each with CR LF (R333). -/
def reportText (s : State) : List Byte := s.rep.lines.flatMap fun l => l ++ [0x0D, 0x0A]

/-- CONSOLE_REPORT: the command rep. -/
def execConsoleReport (s : State) : Out := run (fun s => if consoleServes s then reply (reportText s) s else s) s

/-! ### BAR0 and BAR2 (R60, R364, R393) -/

/-- A BAR0 access of another length or alignment: a read completes with Unsupported Request, a write is dropped; AER and an
event report it (R393, R401). -/
def unsupported (req off len : Nat) (write : Bool) (s : State) : State :=
  let done : Completion := { data := [], poisoned := false, unsupported := true }
  post 0x0F 1 1 (pl2 req ++ pl4 off ++ pl4 len)
    { s with pcie := { s.pcie with aerUr := s.pcie.aerUr + 1, last := if write then s.pcie.last else some done } }

/-- BAR0_UNSUPPORTED_ACCESS (R393, R401). -/
def execBar0UnsupportedAccess (req : BitVec 16) (off len : BitVec 32) (write : Bool) (s : State) : Out :=
  run (unsupported req.toNat off.toNat len.toNat write) s

/-- Is the HBM stack of an address initialised (R60, R64). -/
def stackReady (s : State) (a : Nat) : Bool := if hbmChannel a < 32 then s.hbm.stack0.inited else s.hbm.stack1.inited

/-- The TP whose thread store or matrix state holds an address. -/
def tpOfAddr (a : Nat) : Nat := if a < 0xD_0200_0000 then (a - 0xD_0000_0000) / 0x4_0000 else (a - 0xD_0200_0000) / 0x1_0000

/-- What BAR2 does with one byte: 0 reaches it, 1 returns 0 or drops, 2 refuses it as a debug access (R60, R335). -/
def bar2Byte (s : State) (a : Nat) : Nat :=
  match regionOf a with
  | some (0, _) => if stackReady s a then 0 else 1
  | some (1, _) => 0
  | some (2, _) => if (getTp s (tpOfAddr a)).tile.isSome || cfgVal s 0x1002 == 0 then 2 else 0
  | some (3, _) => if (getTp s (tpOfAddr a)).tile.isSome || cfgVal s 0x1002 == 0 then 2 else 0
  | _ => 1

/-- The event of a refused debug access, once per access (R60, R402). -/
def debugRefused (req a n : Nat) (s : State) : State :=
  postIf ((upFrom a n).any fun x => bar2Byte s x == 2) 0x0F 2 1 (pl2 req ++ pl8 a) s

/-- The first running job whose access ranges an access touches (R60). -/
def jobTouched (s : State) (a n : Nat) : Option Nat :=
  (residents s).find? fun j => isRunning s j && (jobRanges (getJob s j)).any fun r => overlap a n r.1 r.2

/-- The bad lines that a write reaches and does not cover whole (R60, R364). -/
def partBad (s : State) (a n : Nat) : List Nat :=
  s.ecc.badLines.filter fun l =>
    overlap a n (64 * l) 64 && !(decide (a ≤ 64 * l) && decide (64 * l + 64 ≤ a + n)) && bar2Byte s (64 * l) == 0

/-- New check bits for the whole lines that a write reaches (R60). -/
def healBar2 (a n : Nat) (s : State) : State :=
  let keep := fun l => !(decide (a ≤ 64 * l) && decide (64 * l + 64 ≤ a + n) && bar2Byte s (64 * l) == 0)
  { s with ecc := { s.ecc with badLines := s.ecc.badLines.filter keep, softLines := s.ecc.softLines.filter keep } }

/-- The bytes of a BAR2 write that land: each byte that its place accepts, unless its line is bad and only partly covered. -/
def bar2Land (s : State) (a : Nat) (bs : List Byte) : List (Nat × Byte) :=
  let bad := partBad s a bs.length
  (((upFrom a bs.length).zip bs).filter fun x => bar2Byte s x.1 == 0 && !bad.contains (x.1 / 64))

/-- A BAR2 write outside register space (R60). -/
def bar2Store (req a : Nat) (bs : List Byte) (s : State) : State :=
  match jobTouched s a bs.length with
  | some j => post 0x0F 3 1 (pl2 req ++ pl8 a ++ pl1 j) s
  | none =>
    let s1 := (partBad s a bs.length).foldl (fun t l => eccEvent 1 (64 * l) 5 t) (debugRefused req a bs.length s)
    (bar2Land s a bs).foldl (fun t x => putMem x.1 [x.2] t) (healBar2 a bs.length s1)

/-- Is a local address in register space, the same 64 MiB as BAR0 (R58). -/
def isRegister (a : Nat) : Bool := decide (0xF_C000_0000 ≤ a) && decide (a ≤ 0xF_C3FF_FFFF)

/-- BAR2_WRITE (R60): memory takes it behind the thread accesses that are on their way. -/
def execBar2Write (req : BitVec 16) (addr : BitVec 36) (data : List Byte) (s : State) : Out :=
  run (fun s =>
    let a := addr.toNat
    let n := data.length
    if isRegister a then
      let off := a - 0xF_C000_0000
      if (n = 4 || n = 8) && aligned off (n == 8) then writeReg .pf off (n == 8) (leNat data) s
      else unsupported req.toNat off n true s
    else bar2Store req.toNat a data (serveAll s)) s

/-- A host read of a register: its value, and what the read of the owner's UART registers does (R341, R344, R393). -/
def hostRead (off : Nat) (wide : Bool) (s : State) : Nat × State :=
  let o := off / 8 * 8
  let slot := if o = 0xD_0000 && ownsUart s .pf then (popRx s).uart.lastRead else regSlot s 0 o
  let v := if wide then slot else if off % 8 = 4 then slot / 2 ^ 32 else slot % 2 ^ 32
  let low := wide || off % 8 == 0
  (v, if low && ownsUart s .pf then
        if o = 0xD_0000 then popRx s else if o = 0xD_0008 then { s with uart.rsq := s.uart.flags } else s
      else s)

/-- The completion of a host read. -/
def completeRead (c : Completion) (s : State) : State := { s with pcie.last := some c }

/-- A byte that BAR2 returns: 0 where nothing answers. -/
def bar2Get (s : State) (a : Nat) : Byte := if bar2Byte s a = 0 then memGet s.mem a else 0

/-- The bad lines that a read meets. -/
def readBad (s : State) (a n : Nat) : List Nat :=
  s.ecc.badLines.filter fun l => overlap a n (64 * l) 64 && (upFrom a n).any fun x => x / 64 == l && bar2Byte s x == 0

/-- A BAR2 read outside register space: data, 0, or a poisoned completion whose data are free (R60, R364). -/
def bar2Load (req a n : Nat) (s : State) : State :=
  let s0 := debugRefused req a n s
  let s1 := if bar2Byte s a = 0 then countSoft a n s0 else s0
  match readBad s a n with
  | [] => completeRead { data := (upFrom a n).map (bar2Get s), poisoned := false, unsupported := false } s1
  | ls =>
    let s2 := ls.foldl (fun t l => eccEvent 1 (64 * l) 5 t) s1
    let s3 := completeRead { data := freeBytes s n, poisoned := true, unsupported := false } (skipFree n s2)
    { s3 with pcie.poison := s3.pcie.poison + 1, pcie.aerUnc := s3.pcie.aerUnc + 1 }

/-- BAR2_READ (R60, R364). -/
def execBar2Read (req : BitVec 16) (addr : BitVec 36) (len : Nat) (s : State) : Out :=
  run (fun s =>
    let a := addr.toNat
    if isRegister a then
      let off := a - 0xF_C000_0000
      if (len = 4 || len = 8) && aligned off (len == 8) then
        let r := hostRead off (len == 8) s
        completeRead { data := leBytes len r.1, poisoned := false, unsupported := false } r.2
      else unsupported req.toNat off len false s
    else bar2Load req.toNat a len (serveAll s)) s

end Sys2Proof.Machine
end

