-- ==== Sys2Proof/Machine/Ports.lean ====
section
/-! DEFINITION. The SMBus target (R350 to R353) and JTAG (R358 to R360). -/

namespace Sys2Proof.Machine

/-! ### The SMBus target -/

/-- The target runs: the management plane runs and the device is not Dormant (R350). -/
def smbRuns (s : State) : Bool := mgmtRuns s && s.pwr.state != .dormant

/-- An SMBus command: it has its effect while the target runs. -/
def onSmb (f : State → State) (s : State) : State := if smbRuns s then f s else s

/-- A read's data: one snapshot (R351). -/
def smbReply (bs : List Byte) (s : State) : State := { s with smb := { s.smb with reply := bs, nack := false } }

/-- SMBUS_SERIAL: command 0x01 (R350). -/
def execSmbusSerial (s : State) : Out := run (onSmb fun s => smbReply (leBytes 8 (cfgSerial s) ++ leBytes 1 (cfgOtp s)) s) s

/-- The word of command 0x02 (R350). -/
def smbWord (s : State) : Nat :=
  devNum s.pwr.state + 8 * b2n s.rgl.shedding + 16 * b2n (s.esc.state == .locked) + 32 * b2n s.pwr.hbmFail

/-- SMBUS_STATUS: command 0x02. -/
def execSmbusStatus (s : State) : Out := run (onSmb fun s => smbReply (leBytes 2 (smbWord s)) s) s

/-- The 16 B of command 0x10 (R350). -/
def smbTelemetry (s : State) : List Byte :=
  leBytes 4 (s.rgl.cal / 1000) ++ leBytes 4 s.rgl.pin ++ leBytes 2 s.tel.tempMax ++ leBytes 1 s.rgl.duty ++ [0] ++
    leBytes 4 (s.rgl.energy / 1000 / 1000000)

/-- SMBUS_TELEMETRY: command 0x10. -/
def execSmbusTelemetry (s : State) : Out := run (onSmb fun s => smbReply (smbTelemetry s) s) s

/-- SMBUS_FAULT_SUMMARY: command 0x20 (R350, R366). -/
def execSmbusFaultSummary (s : State) : Out := run (onSmb fun s => smbReply (faultSummary s) s) s

/-- The PEC byte that a write calls for: the CRC-8 of SMBus over the address byte, the command and the data (PRESUMED, log 17). -/
def pecOf (s : State) (bs : List Byte) : Nat := crc8 (BitVec.ofNat 8 (2 * s.pwr.smbAddr) :: bs)

/-- A discarded write (R352, R361). -/
def smbDiscard (code : Nat) (bad : Bool) (s : State) : State :=
  post 0x0E 1 1 (pl1 code) { s with smb := { s.smb with err := s.smb.err + 1, nack := bad } }

/-- A write of the target: accepted or discarded by its PEC (R352). -/
def smbWrite (code : Nat) (bs : List Byte) (pec : Option (BitVec 8)) (act : State → State) (s : State) : State :=
  match pec with
  | some c =>
    if c.toNat = pecOf s (BitVec.ofNat 8 code :: bs) then act { s with smb.nack := false } else smbDiscard code true s
  | none => if cfgVal s 0x0C05 = 1 then smbDiscard code false s else act { s with smb.nack := false }

/-- SMBUS_SHED_WRITE: command 0x30 at its Stop condition (R291, R351). -/
def execSmbusShedWrite (data : BitVec 8) (pec : Option (BitVec 8)) (s : State) : Out :=
  run (onSmb (smbWrite 0x30 [data] pec (writeShedReq (data.getLsbD 0)))) s

/-- SMBUS_SHED_READ: command 0x30. -/
def execSmbusShedRead (s : State) : Out := run (onSmb fun s => smbReply [BitVec.ofNat 8 (b2n s.rgl.shedReq)] s) s

/-- SMBUS_OFFSET_WRITE: command 0x40, a block of 4 B. -/
def execSmbusOffsetWrite (data : BitVec 32) (pec : Option (BitVec 8)) (s : State) : Out :=
  run (onSmb (smbWrite 0x40 (4 :: leBytes 4 data.toNat) pec fun s => { s with smb.offset := data.toNat })) s

/-- SMBUS_REGISTER_READ: command 0x41 (R400). -/
def execSmbusRegisterRead (s : State) : Out := run (onSmb fun s => smbReply (leBytes 8 (regRead s s.smb.offset)) s) s

/-- The command codes of R350. -/
def smbCodes : List Nat := [0x01, 0x02, 0x10, 0x20, 0x30, 0x40, 0x41]

/-- SMBUS_UNKNOWN_COMMAND: NACKed (R351). -/
def execSmbusUnknownCommand (code : BitVec 8) (s : State) : Out :=
  run (onSmb fun s => if smbCodes.contains code.toNat then s else { s with smb := { s.smb with reply := [], nack := true } }) s

/-- ALERT_RESPONSE (R353). -/
def execAlertResponse (s : State) : Out :=
  run (onSmb fun s => smbReply [BitVec.ofNat 8 (2 * s.pwr.smbAddr)] { s with smb.alertLow := false }) s

/-- SMBUS_TIMEOUT (R350, R361). -/
def execSmbusTimeout (code : Option (BitVec 8)) (s : State) : Out :=
  run (onSmb fun s =>
    post 0x0E 2 1 (plOpt 1 (code.map (·.toNat))) { s with smb := { s.smb with err := s.smb.err + 1, reply := [] } }) s

/-! ### JTAG -/

/-- The TAP works: its supplies are up (R358). -/
def tapRuns (s : State) : Bool := s.pwr.vddAon

/-- Every link that is not Off or Failed goes down, to train again (R359). -/
def dropLinks (s : State) : State :=
  (upFrom 0 8).foldl (fun t n =>
    let st := (getLink t n).state
    if st == .up || st == .fastRetrain then beginTrain n false t else t) s

/-- The PCIe link goes down (R359). -/
def dropPcie (s : State) : State := { s with pcie := { s.pcie with up := false, training := false } }

/-- The PCIe link trains again when perst_n and the supplies allow it (R317, R359). -/
def trainPcie (s : State) : State :=
  if s.pwr.perstN && s.pwr.porN && !s.pwr.thermtrip then { s with pcie.training := true } else s

/-- The TAP takes an instruction. Entering boundary-scan mode takes the links and PCIe down; leaving it lets them train. -/
def setIr (i : TapInstr) (s : State) : State :=
  if tapRuns s then
    let s1 := { s with tap := { s.tap with ir := i, hiZ := i == .highz } }
    if boundary s1 && !boundary s then dropPcie (dropLinks s1)
    else if boundary s && !boundary s1 then trainPcie s1
    else s1
  else s

/-- An instruction that drives the outputs from the boundary cells. -/
def driveCells (i : TapInstr) (cells : List Bool) (s : State) : State :=
  if tapRuns s then setIr i { s with tap.cells := cells } else s

/-- IDCODE's register (R358). -/
def idWord : Nat := Config.revision.toNat * 2 ^ 28 + 0x0816 * 2 ^ 12 + Config.manufacturer.toNat * 2 + 1

/-- TAP_RESET: IDCODE is selected. -/
def execTapReset (s : State) : Out := runCtl (fun s => if tapRuns s then setIr .idcode { s with tap.data := 0 } else s) s

/-- EXTEST. -/
def execExtest (cells : List Bool) (s : State) : Out := runCtl (driveCells .extest cells) s

/-- IDCODE. -/
def execIdcode (s : State) : Out := runCtl (fun s => if tapRuns s then setIr .idcode { s with tap.data := idWord } else s) s

/-- SAMPLE/PRELOAD: the cells as sampled, and the values that they take. -/
def execSamplePreload (sampled preload : List Bool) (s : State) : Out :=
  runCtl (fun s => if tapRuns s then setIr .samplePreload { s with tap.sample := sampled, tap.cells := preload } else s) s

/-- CLAMP: the outputs hold the cells' values; the bypass register is selected and captures 0. -/
def execClamp (s : State) : Out := runCtl (fun s => if tapRuns s then setIr .clamp { s with tap.data := 0 } else s) s

/-- HIGHZ. -/
def execHighz (s : State) : Out := runCtl (fun s => if tapRuns s then setIr .highz { s with tap.data := 0 } else s) s

/-- EXTEST_PULSE (IEEE 1149.6). -/
def execExtestPulse (cells : List Bool) (s : State) : Out := runCtl (driveCells .extestPulse cells) s

/-- EXTEST_TRAIN (IEEE 1149.6). -/
def execExtestTrain (cells : List Bool) (s : State) : Out := runCtl (driveCells .extestTrain cells) s

/-- May OTP_PROG burn the fuses of an offset (R319, R360): SecFlags always; KeyRevision, KeyCrc and FleetKey while JtagLock is
clear. -/
def mayBurn (s : State) (off : Nat) : Bool :=
  off == 9 || (!jtagLock s && decide (0x00A ≤ off) && decide (off < 0x030))

/-- OTP_PROG: fuse bits change from 0 to 1 alone (R319, R360). -/
def execOtpProg (off : BitVec 9) (b : BitVec 8) (s : State) : Out :=
  runCtl (fun s =>
    if tapRuns s then
      let s1 := setIr .otpProg s
      let o := off.toNat
      if mayBurn s o then { s1 with otp := memPut s1.otp o (memGet s1.otp o ||| b) } else s1
    else s) s

/-- DEBUG acts as BYPASS: JtagLock is set, or security.jtag_debug is 0 (R360). -/
def debugLocked (s : State) : Bool := jtagLock s || cfgVal s 0x1001 == 0

/-- The windows that DEBUG reaches (R358). -/
def debugReach (a : Nat) : Bool :=
  match regionKind a 8 with
  | some k => k == 2 || k == 3 || k == 4
  | none => false

/-- A DEBUG access of 64 bits (R58, R358). -/
def debugAccess (write : Bool) (a v : Nat) (s : State) : State :=
  if !debugReach a then { s with tap.data := 0 }
  else if 0xF_C000_0000 ≤ a then
    let off := a - 0xF_C000_0000
    if write then writeSlot none off { wide := true, high := false, v := v } s else { s with tap.data := regRead s off }
  else if write then unheld (putMem a (leBytes 8 v)) s
  else { s with tap.data := memNat s.mem a 8 }

/-- DEBUG: an access at the 8-byte slot of an address, or BYPASS (R358, R360). -/
def execDebug (write : Bool) (addr : BitVec 36) (v : BitVec 64) (s : State) : Out :=
  run (fun s =>
    if debugLocked s then (if tapRuns s then setIr .bypass { s with tap.data := 0 } else s)
    else
      let s1 := setIr .debug s
      if mgmtRuns s then debugAccess write (addr.toNat / 8 * 8) v.toNat s1 else s1) s

/-- BYPASS. -/
def execBypass (s : State) : Out := runCtl (fun s => if tapRuns s then setIr .bypass { s with tap.data := 0 } else s) s

end Sys2Proof.Machine
end

