-- ==== Sys2Proof/Machine/ConfigImage.lean ====
section
/-! DEFINITION. The configuration image (R321 to R328, R336) and its report (R331 to R333). -/

namespace Sys2Proof.Machine

/-! ### Headers (R322, R323) -/

/-- Bytes of the flash from an offset; erased flash beyond the listed ones. -/
def flashBytes (l : List Byte) (off n : Nat) : List Byte := ((l.drop off).take n ++ List.replicate n 0xFF).take n

/-- A number of a flash image. -/
def flashNat (l : List Byte) (off n : Nat) : Nat := leNat (flashBytes l off n)

/-- The status of a header: the first failing check, 0 when it is good (R323). -/
def headerStatus (answers : Bool) (l : List Byte) : Nat :=
  if !answers then 1
  else if flashBytes l 0 4 != strBytes "AQCF" then 2
  else if flashNat l 4 2 != 1 || flashNat l 6 2 != 32 then 3
  else if flashNat l 12 4 < 36 || 1048576 < flashNat l 12 4 then 4
  else if flashNat l 0x1C 4 != crc32c (flashBytes l 0 0x1C) then 5
  else 0

/-! ### Records (R324, R325) -/

/-- A record of the prefix. -/
structure Rec where
  off : Nat
  id  : Nat
  len : Nat
  val : List Byte
  ok  : Bool
  deriving DecidableEq, Repr

/-- The value of a record, its low 8 B. -/
def Rec.num (r : Rec) : Nat := leNat (r.val.take 8)

/-- Parsing from an offset in an image of `n` bytes: the records before the stopping point, and where it stops. The number
bounds the records. -/
def parseRecs (l : List Byte) (n : Nat) : Nat → Nat → List Rec × Nat
  | 0, off => ([], off)
  | k + 1, off =>
    let len := flashNat l (off + 2) 1
    if n < off + 2 || flashNat l off 2 = 0xFFFF || n < off + 4 + len then ([], off)
    else
      let r : Rec := { off := off, id := flashNat l off 2, len := len, val := flashBytes l (off + 3) len
                       ok := crc8 (flashBytes l off (3 + len)) == flashNat l (off + 3 + len) 1 }
      let (rs, e) := parseRecs l n k (off + 4 + len)
      (r :: rs, e)

/-- EndStatus at the stopping point: 0 found, 1 missing, 2 mismatched (R325, R331). -/
def endStatus (l : List Byte) (n off : Nat) : Nat :=
  if n < off + 8 || flashNat l off 2 != 0xFFFF || flashNat l (off + 2) 1 != 4 then 1
  else if flashNat l (off + 3) 4 = crc32c (flashBytes l 0x20 (off - 0x20)) then 0
  else 2

/-! ### Outcomes (R326, R327, R336) -/

/-- The entries of a routes.block record. -/
def routeRec (r : Rec) : Nat × List Nat := (leNat (r.val.take 2), (r.val.drop 2).map (·.toNat))

/-- The outcome of a record on its own: 1 good, 3 out of range (routes.block), 4 BadCrc, 5 BadLength, 7 Unknown. -/
def recOutcome (r : Rec) : Nat :=
  if !r.ok then 4
  else match findField r.id catalogue with
    | none => 7
    | some f =>
      if r.id = 0x0501 then
        if r.len < 3 then 5
        else
          let (d0, es) := routeRec r
          if 0xFFE < d0 + es.length - 1 || es.any routeBad then 3 else 1
      else if r.len = f.len then 1
      else 5

/-- The deciding record of a field: its last good record, else the last that names it (R326, R336). -/
def deciding (rs : List Rec) (id : Nat) : Option Rec :=
  let mine := rs.filter fun r => r.id == id
  match (mine.filter fun r => recOutcome r == 1).getLast? with
  | some r => some r
  | none => mine.getLast?

/-- A field's entry: its outcome, its applied value and its deciding record. -/
structure FieldRes where
  field   : Field
  outcome : Nat
  applied : Nat
  by_     : Option Rec
  deriving DecidableEq, Repr

/-- The destinations set by all applied routes.block records, later entries over earlier ones (R336). -/
def routesOf (rs : List Rec) : Table Nat :=
  (rs.filter fun r => r.id == 0x0501 && recOutcome r == 1).foldl (fun t r =>
    let (d0, es) := routeRec r
    es.zipIdx.foldl (fun t x => tput t (d0 + x.2) (routeEntry x.1)) t) []

/-- The result of one field before the cross-field rules (R326, R327, R336). -/
def fieldRes (rs : List Rec) (f : Field) : FieldRes :=
  match deciding rs f.id with
  | none => { field := f, outcome := 0, applied := f.dflt, by_ := none }
  | some r =>
    let o := recOutcome r
    if f.id = 0x0501 then { field := f, outcome := o, applied := (routesOf rs).length, by_ := some r }
    else if o = 1 then
      let (v, ch) := fieldClamp f r.num
      { field := f, outcome := if !ch then 1 else if f.rule = .c then 2 else 3, applied := v, by_ := some r }
    else { field := f, outcome := o, applied := f.dflt, by_ := some r }

/-- The extra entry of a record that decided nothing: Superseded for a good one; an applied routes.block record adds none. -/
def extraOf (rs : List Rec) (r : Rec) : Option (Rec × Nat) :=
  let o := recOutcome r
  if deciding rs r.id = some r && o != 7 && (findField r.id catalogue).isSome then none
  else if r.id = 0x0501 && o = 1 then none
  else some (r, if o = 1 then 8 else o)

/-! ### Cross-field rules (R328) -/

/-- A value among the fields. -/
def val (t : Table Nat) (id : Nat) : Nat := tget (fieldDefault id) t id

/-- A rule that replaces one field. -/
def adj (c : Bool) (id v : Nat) (t : Table Nat) : Table Nat := if c then tput t id v else t

/-- Rule 2: the lowest-numbered links keep their roles. -/
def capRoles (t : Table Nat) : Table Nat :=
  (upFrom 0 8).foldl (fun t n =>
    let r := val t (0x0410 + n)
    let lower := ((upFrom 0 n).filter fun m => val t (0x0410 + m) == r).length
    adj ((r == 1 || r == 2) && decide (1 ≤ lower) || (r == 3 && decide (2 ≤ lower))) (0x0410 + n) 0 t) t

/-- Rule 3. -/
def fixRing (t : Table Nat) : Table Nat :=
  adj (ringBad (val t 0x0601) (val t 0x0602) (val t 0x0603) (val t 0x0604) (val t 0x0101) fun n => val t (0x0410 + n)) 0x0601 0 t

/-- Rule 4. -/
def fixMirror (t : Table Nat) : Table Nat :=
  let n := val t 0x0607
  adj (val t 0x0605 == 1 &&
      (val t 0x0601 == 0 || !inHbm (val t 0x0606) n || !inHbm (val t 0x0608) n || overlap (val t 0x0606) n (val t 0x0608) n))
    0x0605 0 t

/-- Rules 5 and 6. -/
def fixClusters (t : Table Nat) : Table Nat :=
  if val t 0x0701 = 0 then (upFrom 0 8).foldl (fun t p => tput t (0x0710 + p) (if p = 0 then 0xFF else 0)) t
  else
    let t1 := ((upFrom 0 8).foldl (fun (x : Table Nat × Nat) p =>
      let m := val x.1 (0x0710 + p)
      (tput x.1 (0x0710 + p) (m - (m &&& x.2)), x.2 ||| m)) (t, 0)).1
    adj ((upFrom 0 8).all fun p => val t1 (0x0710 + p) == 0) 0x0710 0xFF t1

/-- Rule 8. -/
def fixFloor (t : Table Nat) : Table Nat :=
  let env := val t 0x0901
  let band := val t 0x0906
  if env < val t 0x0905 + band then
    let fl := max 35 (env - band)
    adj (decide (env < fl + band)) 0x0906 (env - fl) (tput t 0x0905 fl)
  else t

/-- Rules 9 and 10. -/
def fixRest (jtag bar2 : Bool) (t : Table Nat) : Table Nat :=
  let t1 := adj (val t 0x0A03 == val t 0x0A02 || val t 0x0A02 == 0xFFF) 0x0A03 0xFFF t
  adj bar2 0x1002 0 (adj jtag 0x1001 0 t1)

/-- All rules in order (R328). -/
def crossRules (jtag bar2 : Bool) (t : Table Nat) : Table Nat :=
  let t1 := adj (decide (val t 0x0203 < val t 0x0202)) 0x0202 (val t 0x0203) t
  let t2 := fixClusters (fixMirror (fixRing (capRoles t1)))
  let t3 := adj (!inHbm (val t2 0x0804) (64 * val t2 0x0805)) 0x0805 0 t2
  fixRest jtag bar2 (fixFloor t3)

/-- A field's result after the rules: Adjusted when they changed it. -/
def adjustRes (t : Table Nat) (x : FieldRes) : FieldRes :=
  if x.field.id = 0x0501 then x
  else
    let v := val t x.field.id
    if v = x.applied then x else { x with outcome := 6, applied := v }

/-- The applied values that differ from the defaults. -/
def cfgOf (xs : List FieldRes) : Table Nat :=
  (xs.filter fun x => x.applied != x.field.dflt && x.field.id != 0x0501).map fun x => (x.field.id, x.applied)

/-! ### The whole image -/

/-- What Loading makes of the flash (R321 to R328). -/
structure Loaded where
  source  : Nat
  primary : Nat
  golden  : Nat
  ends    : Nat
  seqNo   : Nat
  version : Nat
  records : Nat
  fields  : List FieldRes
  routes  : Table Nat
  extras  : List (Rec × Nat)
  deriving DecidableEq, Repr

/-- The device enters Holding: no good header, or FactoryCrc fails (R320, R323). -/
def Loaded.holds (x : Loaded) : Bool := x.source == 0

/-- Loading's result, from the flash and the OTP's state. A bad FactoryCrc leaves the built-in defaults (log 18). -/
def loadImage (sfdp : Bool) (fl : Flash) (factory jtag bar2 : Bool) : Loaded :=
  let ps := headerStatus sfdp fl.primary
  let gs := if ps = 0 then 0xFF else headerStatus sfdp fl.golden
  let src := if !factory then 0 else if ps = 0 then 1 else if gs = 0 then 2 else 0
  let l := if src = 1 then fl.primary else if src = 2 then fl.golden else []
  let n := if src = 0 then 0x20 else flashNat l 12 4
  let (rs, e) := parseRecs l n (n / 4) 0x20
  let xs := catalogue.map (fieldRes rs)
  let t := crossRules jtag bar2 (cfgOf xs)
  { source := src, primary := ps, golden := gs, ends := if src = 0 then 0xFF else endStatus l n e
    seqNo := if src = 0 then 0 else flashNat l 8 4, version := if src = 0 then 0 else flashNat l 4 2
    records := rs.length, fields := xs.map (adjustRes t), routes := routesOf rs, extras := rs.filterMap (extraOf rs) }

/-! ### The report (R331 to R333) -/

/-- A 16 B entry (R332). -/
def entryBytes (id outcome len off v : Nat) : List Byte :=
  leBytes 2 id ++ leBytes 1 outcome ++ leBytes 1 len ++ leBytes 4 off ++ leBytes 8 v

/-- A field's entry. -/
def fieldEntry (x : FieldRes) : List Byte :=
  match x.by_ with
  | some r => entryBytes x.field.id x.outcome r.len r.off x.applied
  | none => entryBytes x.field.id x.outcome 0 0xFFFF_FFFF x.applied

/-- The counts of Accepted to Adjusted (R331). -/
def outcomeCounts (xs : List FieldRes) : List Nat := (upFrom 1 6).map fun o => (xs.filter fun x => x.outcome == o).length

/-- The config report table (R331, R332). -/
def reportTable (x : Loaded) (us otp : Nat) : List Byte :=
  let ex := x.extras.take 256
  let head := strBytes "AQCR" ++ leBytes 1 x.source ++ leBytes 1 x.primary ++ leBytes 1 x.golden ++ leBytes 1 x.ends ++
    leBytes 4 x.seqNo ++ leBytes 2 x.version ++ leBytes 2 89 ++ leBytes 2 ex.length ++
    leBytes 2 (min (x.extras.length - 256) 65535) ++ leBytes 4 x.records ++ (outcomeCounts x.fields).flatMap (leBytes 2) ++
    leBytes 4 us ++ leBytes 4 otp ++ List.replicate 16 0
  let body := x.fields.flatMap fieldEntry ++ ex.flatMap fun e => entryBytes e.1.id e.2 e.1.len e.1.off e.1.num
  head ++ leBytes 4 (crc32c (head ++ [0, 0, 0, 0] ++ body)) ++ body

/-- An outcome's name in the report (R333). -/
def outcomeName (o : Nat) : String :=
  match o with
  | 2 => "CLAMPED"
  | 3 => "OUTOFRANGE"
  | 4 => "BADCRC"
  | 5 => "BADLENGTH"
  | 6 => "ADJUSTED"
  | 7 => "UNKNOWN"
  | _ => "SUPERSEDED"

/-- A space. -/
def sp : List Byte := [0x20]

/-- An F line (R333); written is the deciding record's value, or the default where there is none (log 18). -/
def fLine (x : FieldRes) : List Byte :=
  let w := match x.by_ with
    | some r => r.num
    | none => x.field.dflt
  strBytes "F " ++ hexDigits 4 x.field.id ++ sp ++ strBytes x.field.path ++ sp ++ strBytes (outcomeName x.outcome) ++ sp ++
    hexShort w ++ sp ++ hexShort x.applied

/-- An X line (R333). -/
def xLine (e : Rec × Nat) : List Byte :=
  strBytes "X " ++ hexDigits 4 e.1.id ++ sp ++ hexShort e.1.off ++ sp ++ strBytes (outcomeName e.2)

/-- A named count in decimal. -/
def countOf (name : String) (n : Nat) : List Byte := strBytes name ++ decDigits 20 n

/-- The lines of the report (R333). -/
def reportLines (x : Loaded) (otpOk keyOk : Bool) : List (List Byte) :=
  let src := if x.source = 1 then "PRIMARY" else if x.source = 2 then "GOLDEN" else "BUILTIN"
  let ends := if x.ends = 0 then "OK" else if x.ends = 1 then "MISSING" else if x.ends = 2 then "BADCRC" else "NONE"
  let n := fun i => (outcomeCounts x.fields).getD i 0
  let ex := x.extras.take 256
  [strBytes "AQCF SRC=" ++ strBytes src ++ strBytes " SEQ=" ++ hexShort x.seqNo ++ strBytes " END=" ++ strBytes ends ++
      strBytes " OTP=" ++ strBytes (if otpOk then "OK" else "BAD") ++ strBytes " KEY=" ++ strBytes (if keyOk then "OK" else "NONE")] ++
    (x.fields.filter fun f => decide (1 < f.outcome)).map fLine ++ ex.map xLine ++
    [countOf "AQCF DONE A=" (n 0) ++ countOf " C=" (n 1) ++ countOf " R=" (n 2) ++ countOf " B=" (n 3) ++ countOf " L=" (n 4) ++
      countOf " J=" (n 5) ++ countOf " X=" ex.length ++ strBytes " STATE=" ++ strBytes (if x.holds then "HOLDING" else "STARTING")]

end Sys2Proof.Machine
end

