-- ==== Sys2Proof/Machine/Boot.lean ====
section
/-! DEFINITION. Resets, Loading and the handover (R315 to R330), Running, PCIe's pins and messages (R317, R419), Dormant (R416 to
R418), thermal and supply events (R412, R413, R421, R422). -/

namespace Sys2Proof.Machine

/-! ### Resets and Loading (R316, R319, R320, R396) -/

/-- Every domain but AON at its reset values. Host memory, the OTP, the TAP, pins, straps and supplies are outside it; HBM and
the on-die stores read 0 afterwards (log 6). -/
def coldReset (s : State) : State :=
  { pending := s.pending, freeCtr := s.freeCtr, hostMem := s.hostMem, otp := s.otp, tap := s.tap
    pwr := {
      vddAon := s.pwr.vddAon, porN := s.pwr.porN, perstN := s.pwr.perstN, pwrShedN := s.pwr.pwrShedN
      rampSyncHeld := s.pwr.vddAon, thermtrip := s.pwr.thermtrip, spiOk := s.pwr.spiOk, smbAddr := s.pwr.smbAddr } }

/-- FactoryCrc matches (R319, R320). -/
def factoryMatches (s : State) : Bool := crc32c (memRead s.otp 0 9 ++ memRead s.otp 0x30 0x1C0) == memNat s.otp 0x1FC 4

/-- The key is valid: KeyCrc matches and FleetKey is not all zero (R320). -/
def keyMatches (s : State) : Bool :=
  crc32c (memRead s.otp 0x10 32 ++ memRead s.otp 0x0A 2) == memNat s.otp 0x0C 4 && memNat s.otp 0x10 32 != 0

/-- Loading begins: the OTP is read and checked, PCIe answers with Request Retry Status (R316, R317, R320). -/
def beginLoading (s : State) : State :=
  let key := keyMatches s
  { s with
    pwr := { s.pwr with state := .loading, otpLoaded := true, otpCopy := s.otp, factoryOk := factoryMatches s, keyValid := key }
    flt.flags := s.flt.flags ||| (if key then 0 else 128)
    pcie := { s.pcie with training := s.pwr.perstN && !boundary s, rrs := true } }

/-- POR_RELEASE: straps are sampled and Loading begins (R316, R409). -/
def execPorRelease (spiVsel : Bool) (smbAddr : BitVec 2) (vddio33 : Bool) (s : State) : Out :=
  run (fun s =>
    if s.pwr.vddAon && !s.pwr.porN && !s.pwr.thermtrip then
      beginLoading { s with pwr := { s.pwr with porN := true, spiOk := spiVsel == vddio33, smbAddr := 0x4C + smbAddr.toNat } }
    else s) s

/-- POR_ASSERT (R316, R411). -/
def execPorAssert (s : State) : Out := run (fun s => coldReset { s with pwr.porN := false }) s

/-- MANAGEMENT_RESET_ASSERT: 10 µs after the request every domain but AON is reset, and the device boots again (R348). -/
def execManagementResetAssert (s : State) : Out :=
  run (fun s =>
    match s.pwr.mgmtResetDue with
    | some d => let s1 := beginLoading (coldReset (advanceTo d s)); { s1 with uart.waitIdle := true }
    | none => s) s

/-! ### The handover (R23, R327 to R334) -/

/-- The partitions as the configuration lays them out (R232, R233). -/
def partsOf (s : State) : Table Part :=
  (upFrom 0 8).map fun p =>
    let m := cfgVal s (0x0710 + p)
    (p, { mask := m, enabled := m != 0, profile := cfgVal s (0x0718 + p) })

/-- Every partition's data plane takes the ring, the routes and the roles handed over (R12, R23). -/
def giveViews (s : State) : State := (upFrom 0 8).foldl (fun t p => takeView p t) s

/-- The roles handed to the links (R182, R187). -/
def giveRoles (s : State) : State :=
  (upFrom 0 8).foldl (fun t n => modLink n (fun l => { l with role := cfgVal t (0x0410 + n) }) t) s

/-- Every link in use begins its first training (R182). -/
def startLinks (s : State) : State :=
  (upFrom 0 8).foldl (fun t n => if (getLink t n).role = 0 then t else enterTrain n false t) s

/-- Every link in use trains again on leaving Dormant, which is counted (R182, R191, R417). -/
def trainLinks (s : State) : State :=
  (upFrom 0 8).foldl (fun t n => if (getLink t n).role = 0 then t else beginTrain n false t) s

/-- The Regulator's part: the envelope, the free allowances, the pool; duty 8 in Holding (R285, R288, R330). -/
def startRegulator (s : State) : State :=
  { s with rgl := { s.rgl with
    duty := if s.pwr.state == .holding then 8 else 64, sampleAt := s.clk.fleet, beaconAt := s.clk.fleet
    freeRise := freeAllowance s, freeDesc := freeAllowance s
    pool := { s.rgl.pool with active := inDomain s && cfgVal s 0x0A02 == chipId s } } }

/-- PCIe at the handover: requests are served, after a retrain when the link exceeds its limits (R317). -/
def limitPcie (s : State) : State :=
  let x := s.pcie
  if x.up && (cfgVal s 0x0D01 < x.gen || cfgVal s 0x0D02 < x.width) then { s with pcie := { x with up := false, training := true } }
  else { s with pcie := { x with rrs := x.training } }

/-- VOUT_MODE as the PMBus host reads it: AVS is off unless it is linear; the polling cycles start (R354, R355, R361). -/
def readVoutMode (m : BitVec 8) (s : State) : State :=
  let lin := m.toNat / 32 == 0
  postIf (!lin) 0x0E 0x13 1 (pl1 m.toNat) { s with pmb := { s.pmb with mode := m.toNat, avsOff := !lin, nextA := s.upNs, nextB := s.upNs + 50000 } }

/-- The report: its table, its lines, and what the Crown sends (R331 to R333). -/
def writeReport (x : Loaded) (s : State) : State :=
  let us := s.upNs / 1000 % 2 ^ 32
  let ls := reportLines x s.pwr.factoryOk s.pwr.keyValid
  crownSay (ls.flatMap fun l => l ++ [0x0D, 0x0A]) { s with
    pwr.handoverUs := us
    rep := {
      table := reportTable x us (cfgOtp s % 1024), source := x.source, primary := x.primary, golden := x.golden
      endStatus := x.ends, counts := outcomeCounts x.fields, extra := min x.extras.length 256
      lost := min (x.extras.length - 256) 65535, records := x.records, lines := ls } }

/-- The other planes start on the configuration handed over (R23, R318). -/
def startPlanes (s : State) : State :=
  let s1 := giveViews (giveRoles (updateShed (startRegulator (limitPcie { s with parts := partsOf s }))))
  if s1.pwr.state == .holding then s1
  else escStart (startLinks { s1 with pwr.lockDue := some (s1.upNs + cfgVal s1 0x0B04 * 1000000) })

/-- The configuration handed over (R23, R320, R323, R330, R366). -/
def handOver (x : Loaded) (s : State) : State :=
  { s with
    cfg := cfgOf x.fields, routes := x.routes
    pwr := { s.pwr with state := if x.holds then .holding else .starting, handedOver := true }
    flt.flags := s.flt.flags ||| (if x.holds then 2 + 4 else 0) }

/-- HANDOVER: the image parsed, clamped, adjusted and reported; then Starting, or Holding (R23). -/
def execHandover (flash : Flash) (voutMode : BitVec 8) (s : State) : Out :=
  run (fun s =>
    if mgmtRuns s && s.pwr.otpLoaded && !s.pwr.handedOver then
      let x := loadImage (flash.sfdp && s.pwr.spiOk) flash s.pwr.factoryOk (jtagLock s) (bar2Lock s)
      readVoutMode voutMode (writeReport x (startPlanes (handOver x s)))
    else s) s

/-! ### Starting and Running (R283, R318, R376) -/

/-- One stack changed. -/
def modStack (i : Nat) (f : Stack → Stack) (s : State) : State :=
  { s with hbm := if i = 0 then { s.hbm with stack0 := f s.hbm.stack0 } else { s.hbm with stack1 := f s.hbm.stack1 } }

/-- The contents of a stack zeroed, with good check bits (R318). -/
def zeroStack (i : Nat) (s : State) : State :=
  let mine := fun a : Nat => decide (a < 0xC_0000_0000) && (hbmChannel a / 32 == i)
  { s with
    mem := s.mem.filter fun x => !mine x.1
    ecc := { s.ecc with
      badLines := s.ecc.badLines.filter fun l => !mine (64 * l), softLines := s.ecc.softLines.filter fun l => !mine (64 * l) } }

/-- HBM_INIT_COMPLETE: a stack is ready, zeroed where hbm.zero_fill asks for it after a boot; or it failed at a step (R318, R418). The
refresh timer starts with the first stack that is ready, and the step of the event takes 1 B (R33; DESIGN CHOICE, log 85). -/
def execHbmInitComplete (stack : Fin 2) (failed : Option (BitVec 8)) (s : State) : Out :=
  run (fun s =>
    let i := stack.val
    let x := if i = 0 then s.hbm.stack0 else s.hbm.stack1
    if s.pwr.state != .starting || x.inited || x.failed then s
    else match failed with
      | some st =>
        post (0x18 + i) 4 3 (pl1 st.toNat)
          { modStack i (fun y => { y with failed := true }) s with pwr.hbmFail := true, flt.flags := s.flt.flags ||| 8 }
      | none =>
        let z := cfgVal s 0x0302 == 1 && !s.pwr.woke
        let s1 := { s with hbm.refFrom := some (s.hbm.refFrom.getD s.upNs) }
        modStack i (fun y => { y with inited := true, zeroFilled := y.zeroFilled || z }) (if z then zeroStack i s1 else s1)) s

/-- ENTER_RUNNING: both stacks initialised and the Escapement Locked (R283, R318, R376). -/
def execEnterRunning (s : State) : Out :=
  run (fun s =>
    if s.pwr.state == .starting && hbmReady s && s.esc.state == .locked then
      { s with
        pwr := { s.pwr with state := .running, rampSyncHeld := false, rampSyncNet := false }
        flt.kfloor := s.clk.fleet
        hbm.scrubFrom := s.clk.fleet
        rgl := { s.rgl with waitTs := true, heldDraw := s.rgl.cal, ts := none, syncAt := none } }
    else s) s

/-! ### PCIe pins and messages (R230, R317, R416, R419) -/

/-- A wake: the stagger begins, or waits for an entry to Dormant to finish (R418). -/
def startWake (s : State) : State :=
  if s.pwr.entering then { s with pwr.wakePending := true }
  else if s.pwr.state == .dormant && s.pwr.wakeDue.isNone then { s with pwr.wakeDue := some (wakeInstant s) }
  else s

/-- PERST_N_RELEASE: the PCIe link trains; in Dormant it is a wake (R317, R418). -/
def execPerstNRelease (s : State) : Out :=
  run (fun s =>
    let s1 := startWake { s with pwr.perstN := true }
    if s1.pwr.state == .dormant || s1.pwr.entering || !s1.pwr.porN || s1.pcie.up then s1
    else trainPcie { s1 with pcie.rrs := true }) s

/-- An FLR of a function: its snapshot leases, and its partition's reset for a virtual function (R230, R272). -/
def flr (fn : Nat) (s : State) : State :=
  let s1 := releaseFn fn s
  if fn = 0 || !(getPart s (fn - 1)).enabled then s1 else resetPart (fn - 1) s1

/-- The conditions of Dormant but for perst_n (R416). -/
def dormantReady (s : State) : Bool := s.pwr.state == .running && s.pwr.d3hot && s.pwr.pmeAcked && (residents s).isEmpty

/-- PERST_N_ASSERT (R416, R417, R419). -/
def execPerstNAssert (s : State) : Out :=
  run (fun s =>
    let s1 := { s with pwr.perstN := false, pcie := { s.pcie with up := false, training := false, rrs := true } }
    if s.pwr.state == .loading || s.pwr.state == .dormant then s1
    else if dormantReady s then { s1 with pwr.entering := true }
    else
      let s2 := (upFrom 0 9).foldl (fun t f => flr f t) s1
      { s2 with pcie := { s2.pcie with aerUr := 0, aerUnc := 0 }, pwr := { s2.pwr with d3hot := false, pmeAcked := false } }) s

/-- PME_TURN_OFF is acknowledged (R416). -/
def execPmeTurnOff (s : State) : Out := run (fun s => if s.pcie.up then { s with pwr.pmeAcked := true } else s) s

/-- D3HOT (R416). -/
def execD3hot (s : State) : Out := run (fun s => if s.pcie.up then { s with pwr.d3hot := true } else s) s

/-- FLR: a virtual function exists with pcie.sriov_enable set alone (R230, R397). -/
def execFlr (fn : Fin 9) (s : State) : Out :=
  run (fun s => if fn.val = 0 || cfgVal s 0x0D03 = 1 then flr fn.val s else s) s

/-- PCIE_LINK_UP: the link has trained, after the handover within its limits; requests wait for the handover (R317, R419). -/
def execPcieLinkUp (gen : BitVec 3) (width : BitVec 5) (s : State) : Out :=
  run (fun s =>
    if s.pcie.training then
      { s with pcie := { s.pcie with
        up := true, training := false, rrs := !s.pwr.handedOver
        gen := if s.pwr.handedOver then min gen.toNat (cfgVal s 0x0D01) else gen.toNat
        width := if s.pwr.handedOver then min width.toNat (cfgVal s 0x0D02) else width.toNat } }
    else s) s

/-! ### Dormant (R417, R418) -/

/-- WAKE: wake_n low for 1 µs (R418). -/
def execWake (s : State) : Out := run startWake s

/-- DORMANT_EXIT: after the stagger the load steps come back at the up slope, and the device is Starting; the lock time-out is
one of the handover's (R318, R412, R417, R418). -/
def execDormantExit (s : State) : Out :=
  run (fun s =>
    match s.pwr.wakeDue with
    | none => s
    | some d =>
      let rise := loadsDraw 12
      let s1 := { s with
        upNs := max s.upNs d + 1000 * cdiv rise (slopeLimit s 0x0902)
        rgl := { s.rgl with p := s.rgl.p + rise, sampleAt := s.clk.fleet }
        pwr := { s.pwr with
          state := .starting, loadsOff := 0, wakeDue := none, lockDue := none, rampSyncHeld := true, rampSyncNet := false, d3hot := false
          pmeAcked := false } }
      let s2 := trainPcie { s1 with pcie.rrs := true }
      endReport (pump (escStart (trainLinks (updateShed s2))))) s

/-! ### Thermal and supply events (R412, R413, R421, R422) -/

/-- THERMTRIP: every clock but AON stops (R421). -/
def execThermtrip (s : State) : Out :=
  run (fun s => if s.pwr.vddAon then { s with pwr.thermtrip := true, pcie := { s.pcie with up := false, training := false } } else s) s

/-- REFCLK_LOSS: issue stops and fault_n is low until por_n is asserted (R413). -/
def execRefclkLoss (s : State) : Out := run (fun s => if s.pwr.porN then { s with pwr.refclkLost := true } else s) s

/-- One stack's temperature, in 1/8 °C: crossings of 85 °C up and of 80 °C down are reported (R422). -/
def heatStack (i : Nat) (t : BitVec 16) (s : State) : State :=
  let hot := (if i = 0 then s.hbm.stack0 else s.hbm.stack1).hot
  if !hot && decide (680 ≤ t.toInt) then post (0x18 + i) 1 1 (pl2 t.toNat) (modStack i (fun y => { y with hot := true }) s)
  else if hot && decide (t.toInt < 640) then post (0x18 + i) 2 0 (pl2 t.toNat) (modStack i (fun y => { y with hot := false }) s)
  else s

/-- HBM_TEMPERATURE_READ: every 1 ms (R422). -/
def execHbmTemperatureRead (t0 t1 : BitVec 16) (s : State) : Out :=
  run (fun s =>
    if samples s then heatStack 1 t1 (heatStack 0 t0 (advanceTo (nextMultiple 1000000 s.clk.fleet) s)) else s) s

/-- VDD_AON_FALL: thermtrip_n is released and all state is lost; fuses stay (R319, R408, R421). -/
def execVddAonFall (s : State) : Out :=
  run (fun s =>
    let s1 := coldReset { s with pwr.vddAon := false }
    { s1 with tap := {}, pwr := { s1.pwr with porN := false, perstN := false, thermtrip := false, spiOk := true, smbAddr := 0 } }) s

/-- VDD_AON_RISE: ramp_sync is held low, the comparator and the TAP work, por_n is low (R407, R412, R421). -/
def execVddAonRise (s : State) : Out :=
  run (fun s => if s.pwr.vddAon then s else { s with pwr := { s.pwr with vddAon := true, rampSyncHeld := true, porN := false }, tap := {} }) s

end Sys2Proof.Machine
end

