-- ==== Sys2Proof/Machine/Dispatch.lean ====
section
/-! DEFINITION. The dispatch: one arm per command, each a direct call of its meaning. -/

namespace Sys2Proof.Machine

/-- A command's effect on everything but the queue. -/
def exec (i : Instr) (s : State) : Host.Outcome State Fault Refusal :=
  match i with
  -- thread instructions (R83)
  | .nop tp f => Sys2Proof.Machine.execNop tp f s
  | .tend tp f => Sys2Proof.Machine.execTend tp f s
  | .tbr tp f => Sys2Proof.Machine.execTbr tp f s
  | .loop tp f => Sys2Proof.Machine.execLoop tp f s
  | .brk tp f => Sys2Proof.Machine.execBrk tp f s
  | .idle tp f => Sys2Proof.Machine.execIdle tp f s
  | .csync tp f => Sys2Proof.Machine.execCsync tp f s
  | .rdv tp f => Sys2Proof.Machine.execRdv tp f s
  | .ffence tp f => Sys2Proof.Machine.execFfence tp f s
  | .spec tp f => Sys2Proof.Machine.execSpec tp f s
  | .mov tp f => Sys2Proof.Machine.execMov tp f s
  | .vbc tp f => Sys2Proof.Machine.execVbc tp f s
  | .vins tp f => Sys2Proof.Machine.execVins tp f s
  | .vext tp f => Sys2Proof.Machine.execVext tp f s
  | .movi tp f => Sys2Proof.Machine.execMovi tp f s
  | .ld tp f => Sys2Proof.Machine.execLd tp f s
  | .st tp f => Sys2Proof.Machine.execSt tp f s
  | .mld tp f => Sys2Proof.Machine.execMld tp f s
  | .mst tp f => Sys2Proof.Machine.execMst tp f s
  | .mma tp f => Sys2Proof.Machine.execMma tp f s
  | .valu tp f => Sys2Proof.Machine.execValu tp f s
  | .vcvt tp f => Sys2Proof.Machine.execVcvt tp f s
  | .vact tp f => Sys2Proof.Machine.execVact tp f s
  | .vcmp tp f => Sys2Proof.Machine.execVcmp tp f s
  | .vperm tp f => Sys2Proof.Machine.execVperm tp f s
  | .vred tp f => Sys2Proof.Machine.execVred tp f s
  | .vscan tp f => Sys2Proof.Machine.execVscan tp f s
  | .salu tp f => Sys2Proof.Machine.execSalu tp f s
  | .sel tp f => Sys2Proof.Machine.execSel tp f s
  | .dsp tp f => Sys2Proof.Machine.execDsp tp f s
  | .grw tp f => Sys2Proof.Machine.execGrw tp f s
  | .cmb tp f => Sys2Proof.Machine.execCmb tp f s
  | .cul tp f => Sys2Proof.Machine.execCul tp f s
  | .ldx tp f => Sys2Proof.Machine.execLdx tp f s
  -- block operations
  | .blockQueueStart b => Sys2Proof.Machine.execBlockQueueStart b s
  | .selectorComplete => Sys2Proof.Machine.execSelectorComplete s
  | .separatorComplete => Sys2Proof.Machine.execSeparatorComplete s
  | .balanceLogWrite => Sys2Proof.Machine.execBalanceLogWrite s
  | .groupWalkerComplete c => Sys2Proof.Machine.execGroupWalkerComplete c s
  | .churnComplete => Sys2Proof.Machine.execChurnComplete s
  | .cultureComplete => Sys2Proof.Machine.execCultureComplete s
  | .loaderDescriptorComplete ch => Sys2Proof.Machine.execLoaderDescriptorComplete ch s
  | .loaderReject ch => Sys2Proof.Machine.execLoaderReject ch s
  | .hbmAccessComplete req => Sys2Proof.Machine.execHbmAccessComplete req s
  | .remoteAccessTimeout tag => Sys2Proof.Machine.execRemoteAccessTimeout tag s
  -- tiles, stops and ticks
  | .tileBegin tp slot waited => Sys2Proof.Machine.execTileBegin tp slot waited s
  | .ceilingOverrun tp => Sys2Proof.Machine.execCeilingOverrun tp s
  | .slipLimitCrossed tp => Sys2Proof.Machine.execSlipLimitCrossed tp s
  | .rendezvousOverrun tp => Sys2Proof.Machine.execRendezvousOverrun tp s
  | .collectiveComplete slot prog => Sys2Proof.Machine.execCollectiveComplete slot prog s
  | .collectiveFailed slot prog => Sys2Proof.Machine.execCollectiveFailed slot prog s
  | .stopRelease slot => Sys2Proof.Machine.execStopRelease slot s
  | .digestTimeout slot => Sys2Proof.Machine.execDigestTimeout slot s
  | .beatTick => Sys2Proof.Machine.execBeatTick s
  | .swingTick => Sys2Proof.Machine.execSwingTick s
  | .hbmRefresh => Sys2Proof.Machine.execHbmRefresh s
  -- streams
  | .doorbell p idx => Sys2Proof.Machine.execDoorbell p idx s
  | .submissionRead p e => Sys2Proof.Machine.execSubmissionRead p e s
  | .openStream p c => Sys2Proof.Machine.execOpenStream p c s
  | .appendTokens p c tokens => Sys2Proof.Machine.execAppendTokens p c tokens s
  | .pauseStream p c => Sys2Proof.Machine.execPauseStream p c s
  | .resumeStream p c => Sys2Proof.Machine.execResumeStream p c s
  | .cancelStream p c => Sys2Proof.Machine.execCancelStream p c s
  | .rewardStream p c => Sys2Proof.Machine.execRewardStream p c s
  | .nopCommand p c => Sys2Proof.Machine.execNopCommand p c s
  | .stepBuild p => Sys2Proof.Machine.execStepBuild p s
  | .stepStart p => Sys2Proof.Machine.execStepStart p s
  | .stmCqhead p idx => Sys2Proof.Machine.execStmCqhead p idx s
  | .submissionRingSetup p r v => Sys2Proof.Machine.execSubmissionRingSetup p r v s
  | .completionRingSetup p r v => Sys2Proof.Machine.execCompletionRingSetup p r v s
  | .partitionReset p => Sys2Proof.Machine.execPartitionReset p s
  | .lockLeaseExpiry p stream => Sys2Proof.Machine.execLockLeaseExpiry p stream s
  -- jobs
  | .install slot => Sys2Proof.Machine.execInstall slot s
  | .start slot => Sys2Proof.Machine.execStart slot s
  | .preempt slot => Sys2Proof.Machine.execPreempt slot s
  | .remove slot => Sys2Proof.Machine.execRemove slot s
  | .restart slot => Sys2Proof.Machine.execRestart slot s
  | .jobReady slot => Sys2Proof.Machine.execJobReady slot s
  | .ringSwitch p => Sys2Proof.Machine.execRingSwitch p s
  | .saveComplete p => Sys2Proof.Machine.execSaveComplete p s
  | .restoreComplete p => Sys2Proof.Machine.execRestoreComplete p s
  -- the Regulator
  | .estimatorSample x => Sys2Proof.Machine.execEstimatorSample x s
  | .pwrShedNFall => Sys2Proof.Machine.execPwrShedNFall s
  | .pwrShedNRise => Sys2Proof.Machine.execPwrShedNRise s
  | .shedRequest v => Sys2Proof.Machine.execShedRequest v s
  | .sensorConversion temps => Sys2Proof.Machine.execSensorConversion temps s
  | .thermalHoldEnd => Sys2Proof.Machine.execThermalHoldEnd s
  | .capWrite v => Sys2Proof.Machine.execCapWrite v s
  | .startInstant => Sys2Proof.Machine.execStartInstant s
  | .rampSyncRise => Sys2Proof.Machine.execRampSyncRise s
  -- ramp credits
  | .rampWindow => Sys2Proof.Machine.execRampWindow s
  | .leaseEnd d id => Sys2Proof.Machine.execLeaseEnd d id s
  | .reclaim d chip id => Sys2Proof.Machine.execReclaim d chip id s
  | .request l fr => Sys2Proof.Machine.execRequest l fr s
  | .grant l fr => Sys2Proof.Machine.execGrant l fr s
  | .queued l fr => Sys2Proof.Machine.execQueued l fr s
  | .returnCredits l fr => Sys2Proof.Machine.execReturnCredits l fr s
  | .announce l fr => Sys2Proof.Machine.execAnnounce l fr s
  | .report l fr => Sys2Proof.Machine.execReport l fr s
  | .beacon l fr => Sys2Proof.Machine.execBeacon l fr s
  | .beaconSend => Sys2Proof.Machine.execBeaconSend s
  | .backupTakeover => Sys2Proof.Machine.execBackupTakeover s
  | .poolFreezeEnd => Sys2Proof.Machine.execPoolFreezeEnd s
  | .requestResend d => Sys2Proof.Machine.execRequestResend d s
  | .pmbusSlot slotB a => Sys2Proof.Machine.execPmbusSlot slotB a s
  -- the Escapement
  | .timeExchangeStart l => Sys2Proof.Machine.execTimeExchangeStart l s
  | .timeExchangeRequest l fr since => Sys2Proof.Machine.execTimeExchangeRequest l fr since s
  | .timeExchangeResponse l x => Sys2Proof.Machine.execTimeExchangeResponse l x s
  | .timeExchangeAbandon l id => Sys2Proof.Machine.execTimeExchangeAbandon l id s
  | .rateUpdate => Sys2Proof.Machine.execRateUpdate s
  | .holdoverEntry => Sys2Proof.Machine.execHoldoverEntry s
  | .parentChange => Sys2Proof.Machine.execParentChange s
  | .beatInEdge => Sys2Proof.Machine.execBeatInEdge s
  | .beatInLost => Sys2Proof.Machine.execBeatInLost s
  | .rootFreeTimeout => Sys2Proof.Machine.execRootFreeTimeout s
  | .lockTimeout => Sys2Proof.Machine.execLockTimeout s
  -- links: blocks and errors
  | .ack x ackSeq u c b => Sys2Proof.Machine.execAck x ackSeq u c b s
  | .nak x expected => Sys2Proof.Machine.execNak x expected s
  | .alignmentMarker x laneMap counter => Sys2Proof.Machine.execAlignmentMarker x laneMap counter s
  | .retrainRequest x what => Sys2Proof.Machine.execRetrainRequest x what s
  | .reservedControlBlock x type => Sys2Proof.Machine.execReservedControlBlock x type s
  | .uncorrectableCodeword l inFrame => Sys2Proof.Machine.execUncorrectableCodeword l inFrame s
  | .frameCrcFailure l => Sys2Proof.Machine.execFrameCrcFailure l s
  -- links: frames
  | .frameDiscard l fr => Sys2Proof.Machine.execFrameDiscard l fr s
  | .collectiveData l fr => Sys2Proof.Machine.execCollectiveData l fr s
  | .remoteWrite l fr => Sys2Proof.Machine.execRemoteWrite l fr s
  | .remoteReadRequest l fr => Sys2Proof.Machine.execRemoteReadRequest l fr s
  | .remoteReadResponse l fr => Sys2Proof.Machine.execRemoteReadResponse l fr s
  | .remoteRefusal l fr => Sys2Proof.Machine.execRemoteRefusal l fr s
  | .bulkCopy l fr => Sys2Proof.Machine.execBulkCopy l fr s
  | .heartbeat l fr => Sys2Proof.Machine.execHeartbeat l fr s
  | .routingDigest l fr => Sys2Proof.Machine.execRoutingDigest l fr s
  | .keeperMessage l fr => Sys2Proof.Machine.execKeeperMessage l fr s
  | .fenceNotice l fr => Sys2Proof.Machine.execFenceNotice l fr s
  | .restoreDoneNotice l fr => Sys2Proof.Machine.execRestoreDoneNotice l fr s
  -- links: the transmitter and the states
  | .frameBoundary l => Sys2Proof.Machine.execFrameBoundary l s
  | .replayTimeout l => Sys2Proof.Machine.execReplayTimeout l s
  | .errorLimit l => Sys2Proof.Machine.execErrorLimit l s
  | .errorWindow l => Sys2Proof.Machine.execErrorWindow l s
  | .trainingComplete l lanes p => Sys2Proof.Machine.execTrainingComplete l lanes p s
  | .trainingFailed l stepNo => Sys2Proof.Machine.execTrainingFailed l stepNo s
  | .fastRetrainComplete l p => Sys2Proof.Machine.execFastRetrainComplete l p s
  | .fastRetrainTimeout l => Sys2Proof.Machine.execFastRetrainTimeout l s
  | .failedRetry l => Sys2Proof.Machine.execFailedRetry l s
  | .lossOfSignal l lane => Sys2Proof.Machine.execLossOfSignal l lane s
  | .lossOfBlockLock l => Sys2Proof.Machine.execLossOfBlockLock l s
  | .fastRetrain l => Sys2Proof.Machine.execFastRetrain l s
  | .fullTraining l => Sys2Proof.Machine.execFullTraining l s
  | .heartbeatSuspect n => Sys2Proof.Machine.execHeartbeatSuspect n s
  | .heartbeatFailed n => Sys2Proof.Machine.execHeartbeatFailed n s
  | .mirrorCheck => Sys2Proof.Machine.execMirrorCheck s
  -- Keeper operations at their swing
  | .routeSet => Sys2Proof.Machine.execRouteSet s
  | .ringSet => Sys2Proof.Machine.execRingSet s
  | .poolSet => Sys2Proof.Machine.execPoolSet s
  | .keeperReward => Sys2Proof.Machine.execKeeperReward s
  | .fenceChip => Sys2Proof.Machine.execFenceChip s
  | .unfenceChip => Sys2Proof.Machine.execUnfenceChip s
  | .remapSlice => Sys2Proof.Machine.execRemapSlice s
  | .keeperSend v => Sys2Proof.Machine.execKeeperSend v s
  | .loaded v => Sys2Proof.Machine.execLoaded v s
  -- scrubbing, fault and event registers
  | .scrubPass => Sys2Proof.Machine.execScrubPass s
  | .vatScrub => Sys2Proof.Machine.execVatScrub s
  | .faultClear v => Sys2Proof.Machine.execFaultClear v s
  | .eventRingHead idx => Sys2Proof.Machine.execEventRingHead idx s
  | .eventRingSetup r v => Sys2Proof.Machine.execEventRingSetup r v s
  | .eventRingEnable v => Sys2Proof.Machine.execEventRingEnable v s
  -- Culture registers
  | .culSnreq fn v => Sys2Proof.Machine.execCulSnreq fn v s
  | .culSnrel fn v => Sys2Proof.Machine.execCulSnrel fn v s
  | .leaseExpired id => Sys2Proof.Machine.execLeaseExpired id s
  | .culResumestep v => Sys2Proof.Machine.execCulResumestep v s
  -- the UART
  | .uartDataRead port => Sys2Proof.Machine.execUartDataRead port s
  | .uartDataWrite port v => Sys2Proof.Machine.execUartDataWrite port v s
  | .uartStatRead port => Sys2Proof.Machine.execUartStatRead port s
  | .attnClear port v => Sys2Proof.Machine.execAttnClear port v s
  | .uartFormatWrite port r v => Sys2Proof.Machine.execUartFormatWrite port r v s
  | .uartBrktx port v => Sys2Proof.Machine.execUartBrktx port v s
  | .breakTxEnd => Sys2Proof.Machine.execBreakTxEnd s
  | .characterReceived data parity stop => Sys2Proof.Machine.execCharacterReceived data parity stop s
  | .characterSent => Sys2Proof.Machine.execCharacterSent s
  | .breakDetect => Sys2Proof.Machine.execBreakDetect s
  | .breakEnd cycles => Sys2Proof.Machine.execBreakEnd cycles s
  | .managementReset => Sys2Proof.Machine.execManagementReset s
  | .managementResetAssert => Sys2Proof.Machine.execManagementResetAssert s
  -- the console
  | .consoleRead off => Sys2Proof.Machine.execConsoleRead off s
  | .consoleWrite off v => Sys2Proof.Machine.execConsoleWrite off v s
  | .consoleStatus => Sys2Proof.Machine.execConsoleStatus s
  | .consoleReport => Sys2Proof.Machine.execConsoleReport s
  -- the SMBus target
  | .smbusSerial => Sys2Proof.Machine.execSmbusSerial s
  | .smbusStatus => Sys2Proof.Machine.execSmbusStatus s
  | .smbusTelemetry => Sys2Proof.Machine.execSmbusTelemetry s
  | .smbusFaultSummary => Sys2Proof.Machine.execSmbusFaultSummary s
  | .smbusShedWrite data pec => Sys2Proof.Machine.execSmbusShedWrite data pec s
  | .smbusShedRead => Sys2Proof.Machine.execSmbusShedRead s
  | .smbusOffsetWrite data pec => Sys2Proof.Machine.execSmbusOffsetWrite data pec s
  | .smbusRegisterRead => Sys2Proof.Machine.execSmbusRegisterRead s
  | .smbusUnknownCommand code => Sys2Proof.Machine.execSmbusUnknownCommand code s
  | .alertResponse => Sys2Proof.Machine.execAlertResponse s
  | .smbusTimeout code => Sys2Proof.Machine.execSmbusTimeout code s
  -- JTAG
  | .tapReset => Sys2Proof.Machine.execTapReset s
  | .extest cells => Sys2Proof.Machine.execExtest cells s
  | .idcode => Sys2Proof.Machine.execIdcode s
  | .samplePreload sampled preload => Sys2Proof.Machine.execSamplePreload sampled preload s
  | .clamp => Sys2Proof.Machine.execClamp s
  | .highz => Sys2Proof.Machine.execHighz s
  | .extestPulse cells => Sys2Proof.Machine.execExtestPulse cells s
  | .extestTrain cells => Sys2Proof.Machine.execExtestTrain cells s
  | .otpProg off bits => Sys2Proof.Machine.execOtpProg off bits s
  | .debug write addr v => Sys2Proof.Machine.execDebug write addr v s
  | .bypass => Sys2Proof.Machine.execBypass s
  -- boot, pins, power
  | .porRelease spiVsel smbAddr vddio33 => Sys2Proof.Machine.execPorRelease spiVsel smbAddr vddio33 s
  | .porAssert => Sys2Proof.Machine.execPorAssert s
  | .handover flash voutMode => Sys2Proof.Machine.execHandover flash voutMode s
  | .hbmInitComplete stack failed => Sys2Proof.Machine.execHbmInitComplete stack failed s
  | .enterRunning => Sys2Proof.Machine.execEnterRunning s
  | .perstNRelease => Sys2Proof.Machine.execPerstNRelease s
  | .perstNAssert => Sys2Proof.Machine.execPerstNAssert s
  | .pmeTurnOff => Sys2Proof.Machine.execPmeTurnOff s
  | .wake => Sys2Proof.Machine.execWake s
  | .dormantExit => Sys2Proof.Machine.execDormantExit s
  | .flr fn => Sys2Proof.Machine.execFlr fn s
  | .thermtrip => Sys2Proof.Machine.execThermtrip s
  | .refclkLoss => Sys2Proof.Machine.execRefclkLoss s
  | .hbmTemperatureRead t0 t1 => Sys2Proof.Machine.execHbmTemperatureRead t0 t1 s
  -- host accesses
  | .bar2Write req addr data => Sys2Proof.Machine.execBar2Write req addr data s
  | .bar2Read req addr len => Sys2Proof.Machine.execBar2Read req addr len s
  | .bar0UnsupportedAccess req off len write => Sys2Proof.Machine.execBar0UnsupportedAccess req off len write s
  | .registerWrite port off wide v => Sys2Proof.Machine.execRegisterWrite port off wide v s
  | .vddAonFall => Sys2Proof.Machine.execVddAonFall s
  | .vddAonRise => Sys2Proof.Machine.execVddAonRise s
  | .d3hot => Sys2Proof.Machine.execD3hot s
  | .pcieLinkUp gen width => Sys2Proof.Machine.execPcieLinkUp gen width s

end Sys2Proof.Machine
end

