-- ==== Sys2Proof/Machine/Step.lean ====
section
/-! DEFINITION. The step: the command at the front of the queue, or one esc cycle when none waits (log 2). -/

namespace Sys2Proof.Machine

/-- The Escapement's counter runs: from the handover, its clock on, and not in Dormant (R299, R300, R307, R330). -/
def fleetRuns (s : State) : Bool :=
  s.pwr.porN && !s.pwr.thermtrip && !s.pwr.refclkLost && s.pwr.handedOver && s.pwr.state != .dormant

/-- One esc cycle: the counter adds 1 ns × (1 + r), with its fraction in units of 2^−32 ns (R300). -/
def escCycle (s : State) : State :=
  let up := if s.pwr.porN then s.upNs + 1 else s.upNs
  if fleetRuns s then
    let t := s.clk.frac + ((2 ^ 32 * (1000000000 + s.clk.ratePpb)) / 1000000000).toNat
    { s with upNs := up, clk := { s.clk with fleet := s.clk.fleet + t / 2 ^ 32, frac := t % 2 ^ 32 } }
  else { s with upNs := up }

/-- One step: the command at the front, with the rest of the queue left; an empty queue lets one esc cycle pass. -/
def step (s : State) : Host.Outcome State Fault Refusal :=
  match s.pending with
  | c :: cs => exec c { s with pending := cs }
  | [] => .next (escCycle s)

/-- The state with the command that a word spells at the front of the queue. -/
def State.withFetchWord (s : State) (nbits w : Nat) : State :=
  match decodeTableWord nbits w with
  | some c => { s with pending := c :: s.pending }
  | none => s

end Sys2Proof.Machine
end

