-- ==== Sys2Proof/WellFormed.lean ====
section
/-! DEFINITION. Which commands are well formed: what the rules fix of an operand beyond its type. -/

namespace Sys2Proof

/-- A frame's payload has 64 B for each of its units (R169). -/
def Frame.wf (f : Frame) : Bool := f.payload.length == 64 * f.units.toNat

/-- A sample names the busy cycles of the eight partitions (R233, R294). -/
def Sample.wf (x : Sample) : Bool := x.busy.length == 8

/-- The tokens that an APPEND names (R216): Arg1[16:0] of them. -/
def SubCmd.tokensFit (c : SubCmd) (tokens : List (BitVec 32)) : Bool := tokens.length == (c.arg1.extractLsb' 0 17).toNat

/-- An entry read brings the tokens of an APPEND, Arg1[16:0] of them, and none for another Op (R215 to R217). -/
def entryFits (entry : BitVec 512) (tokens : List (BitVec 32)) : Bool :=
  if entry.extractLsb' 0 8 = 2 then tokens.length == (entry.extractLsb' 192 17).toNat else tokens.isEmpty

/-- 4 or 8 B, naturally aligned (R393). -/
def bar0Fits (off len : Nat) : Bool := (len == 4 || len == 8) && off % len == 0

/-- The command codes that the SMBus target knows (R350). -/
def smbusKnown : List (BitVec 8) := [0x01, 0x02, 0x10, 0x20, 0x30, 0x40, 0x41]

/-- A command is well formed. -/
def Instr.wf (i : Instr) : Bool :=
  match i with
  | .submissionRead _ e => entryFits e.entry e.tokens
  | .appendTokens _ c tokens => c.tokensFit tokens
  | .estimatorSample x => x.wf
  | .sensorConversion temps => temps.length == 16
  | .request _ fr => fr.wf
  | .grant _ fr => fr.wf
  | .queued _ fr => fr.wf
  | .returnCredits _ fr => fr.wf
  | .announce _ fr => fr.wf
  | .report _ fr => fr.wf
  | .beacon _ fr => fr.wf
  | .timeExchangeRequest _ fr _ => fr.wf
  | .timeExchangeResponse _ x => x.fr.wf
  | .frameDiscard _ fr => fr.wf
  | .collectiveData _ fr => fr.wf
  | .remoteWrite _ fr => fr.wf
  | .remoteReadRequest _ fr => fr.wf
  | .remoteReadResponse _ fr => fr.wf
  | .remoteRefusal _ fr => fr.wf
  | .bulkCopy _ fr => fr.wf
  | .heartbeat _ fr => fr.wf
  | .routingDigest _ fr => fr.wf
  | .keeperMessage _ fr => fr.wf
  | .fenceNotice _ fr => fr.wf
  | .restoreDoneNotice _ fr => fr.wf
  | .smbusUnknownCommand code => !smbusKnown.contains code
  | .bar2Write _ _ data => !data.isEmpty
  | .bar2Read _ _ len => decide (0 < len)
  | .bar0UnsupportedAccess _ off len _ => !bar0Fits off.toNat len.toNat
  | .registerWrite _ off wide _ => bar0Fits off.toNat (if wide then 8 else 4)
  | .pcieLinkUp gen width => decide (1 ≤ gen) && decide (gen ≤ 5) && (width == 4 || width == 8 || width == 16)
  | .breakEnd cycles => decide (0 < cycles)
  | .nop .. | .tend .. | .tbr .. | .loop .. | .brk .. | .idle .. | .csync .. | .rdv .. | .ffence .. | .spec .. | .mov ..
  | .vbc .. | .vins .. | .vext .. | .movi .. | .ld .. | .st .. | .mld .. | .mst .. | .mma .. | .valu .. | .vcvt ..
  | .vact .. | .vcmp .. | .vperm .. | .vred .. | .vscan .. | .salu .. | .sel .. | .dsp .. | .grw .. | .cmb .. | .cul ..
  | .ldx .. | .blockQueueStart .. | .selectorComplete .. | .separatorComplete .. | .balanceLogWrite ..
  | .groupWalkerComplete .. | .churnComplete .. | .cultureComplete .. | .loaderDescriptorComplete .. | .loaderReject ..
  | .hbmAccessComplete .. | .remoteAccessTimeout .. | .tileBegin .. | .ceilingOverrun .. | .slipLimitCrossed ..
  | .rendezvousOverrun .. | .collectiveComplete .. | .collectiveFailed .. | .stopRelease .. | .digestTimeout ..
  | .beatTick .. | .swingTick .. | .hbmRefresh .. | .doorbell .. | .openStream .. | .pauseStream .. | .resumeStream ..
  | .cancelStream .. | .rewardStream .. | .nopCommand .. | .stepBuild .. | .stepStart .. | .stmCqhead ..
  | .submissionRingSetup .. | .completionRingSetup .. | .partitionReset .. | .lockLeaseExpiry .. | .install ..
  | .start .. | .preempt .. | .remove .. | .restart .. | .jobReady .. | .ringSwitch .. | .saveComplete ..
  | .restoreComplete .. | .pwrShedNFall .. | .pwrShedNRise .. | .shedRequest .. | .thermalHoldEnd .. | .capWrite ..
  | .startInstant .. | .rampSyncRise .. | .rampWindow .. | .leaseEnd .. | .reclaim .. | .beaconSend ..
  | .backupTakeover .. | .poolFreezeEnd .. | .requestResend .. | .pmbusSlot .. | .timeExchangeStart ..
  | .timeExchangeAbandon .. | .rateUpdate .. | .holdoverEntry .. | .parentChange .. | .beatInEdge .. | .beatInLost ..
  | .rootFreeTimeout .. | .lockTimeout .. | .ack .. | .nak .. | .alignmentMarker .. | .retrainRequest ..
  | .reservedControlBlock .. | .uncorrectableCodeword .. | .frameCrcFailure .. | .frameBoundary .. | .replayTimeout ..
  | .errorLimit .. | .errorWindow .. | .trainingComplete .. | .trainingFailed .. | .fastRetrainComplete ..
  | .fastRetrainTimeout .. | .failedRetry .. | .lossOfSignal .. | .lossOfBlockLock .. | .fastRetrain ..
  | .fullTraining .. | .heartbeatSuspect .. | .heartbeatFailed .. | .mirrorCheck .. | .routeSet .. | .ringSet ..
  | .poolSet .. | .keeperReward .. | .fenceChip .. | .unfenceChip .. | .remapSlice .. | .keeperSend .. | .loaded ..
  | .scrubPass .. | .vatScrub .. | .faultClear .. | .eventRingHead .. | .eventRingSetup .. | .eventRingEnable ..
  | .culSnreq .. | .culSnrel .. | .leaseExpired .. | .culResumestep .. | .uartDataRead .. | .uartDataWrite ..
  | .uartStatRead .. | .attnClear .. | .uartFormatWrite .. | .uartBrktx .. | .breakTxEnd .. | .characterReceived ..
  | .characterSent .. | .breakDetect .. | .managementReset .. | .managementResetAssert .. | .consoleRead ..
  | .consoleWrite .. | .consoleStatus .. | .consoleReport .. | .smbusSerial .. | .smbusStatus .. | .smbusTelemetry ..
  | .smbusFaultSummary .. | .smbusShedWrite .. | .smbusShedRead .. | .smbusOffsetWrite .. | .smbusRegisterRead ..
  | .alertResponse .. | .smbusTimeout .. | .tapReset .. | .extest .. | .idcode .. | .samplePreload .. | .clamp ..
  | .highz .. | .extestPulse .. | .extestTrain .. | .otpProg .. | .debug .. | .bypass .. | .porRelease .. | .porAssert ..
  | .handover .. | .hbmInitComplete .. | .enterRunning .. | .perstNRelease .. | .perstNAssert .. | .pmeTurnOff ..
  | .wake .. | .dormantExit .. | .flr .. | .thermtrip .. | .refclkLoss .. | .hbmTemperatureRead .. | .vddAonFall ..
  | .vddAonRise .. | .d3hot .. => true

end Sys2Proof
end

