-- ==== Sys2Proof/Safety.lean ====
section
/-! DEFINITION. What a safe run is, and what a command's answer is: the terms that the statements use. -/

namespace Sys2Proof.Machine

/-! ### Invariants -/

/-- The postings of a command are accepted within it: the collector holds none between commands (R21). -/
def Collected (s : State) : Prop := s.ev.queue = []

/-- The local space, the host's memory, the fuses and their copy are in canonical form: addresses rise, and no listed byte reads
as an unlisted one. -/
def MemOk (s : State) : Prop :=
  Memory.wf s.mem = true ∧ Memory.wf s.hostMem = true ∧ Memory.wf s.otp = true ∧ Memory.wf s.pwr.otpCopy = true

/-! ### Frames -/

/-- `s` with what the collector may change as `t` has it: the Event Ring and its bytes in host memory, the Fault Unit's
summary and log, alert_n and the MSI-X vectors (R20 to R22, R366, R368, R399). -/
def reported (s t : State) : State :=
  { s with
    ev := { s.ev with queue := t.ev.queue, tail := t.ev.tail, drop := t.ev.drop, seq := t.ev.seq, phase := t.ev.phase,
                      lastIrq := t.ev.lastIrq, irqOwed := t.ev.irqOwed }
    hostMem := t.hostMem
    flt := { s.flt with flags := t.flt.flags, faults := t.flt.faults, fatals := t.flt.fatals, first := t.flt.first,
                        latest := t.flt.latest, logCnt := t.flt.logCnt, logTail := t.flt.logTail, log := t.flt.log }
    smb.alertLow := t.smb.alertLow
    pcie.msix := t.pcie.msix }

/-- Two ranges of bytes share none. -/
def Apart (a n b m : Nat) : Prop := a + n ≤ b ∨ b + m ≤ a

/-- Every byte outside `n` bytes from `a` reads as before. -/
def MemoryBut (s t : State) (a n : Nat) : Prop := ∀ x, x < a ∨ a + n ≤ x → memGet t.mem x = memGet s.mem x

/-! ### Thread instructions -/

/-- The debug addresses of the index registers of the loops that a TP is inside (R93). -/
def loopIndexes (tp : Tp) : List Nat := tp.nest.filterMap (·.dst)

/-- The instruction of TP `t` issues in cycle `cy` and runs: the TP runs a tile and waits for nothing, the instruction lies
in the tile's code, its operands are ready (R73 to R76), it fails no check of R95, the arm or body around it has cycles
left (R94), no overrun is handled as a fault by then (R52, R53), and its memory access, if it makes one, passes R65. `u` is
`s` with the lines of Vat accesses served whose cycle has come by then (R66); it is `s` where none is in flight. -/
structure Issues (o : OpSpec) (t : Fin 128) (f : TField) (s u : State) (c : TileCtx) (cy : Nat) : Prop where
  tile     : tileCtx s t.val = some c
  inCode   : c.tp.pc < c.hdr.codeLen
  defined_ : opUndefined c = false
  at_      : readied o c f s = some (cy, u)
  accepted : staticReason o u c f = 0
  passes   : laterReason o u c f = 0
  inTime   : ∀ d, deadline c.tp = some d → cy + o.cost u f + frameCycles o f ≤ d
  running  : (cy : Int) < haltCycle c
  access   : ∀ g n al, o.access u c f = some (g, n, al) → accessReason u c.job g n al = 0

/-- What an instruction that issued leaves of everything but memory, its TP's own row and the fields that `u` names: the
other TPs, and of the jobs only the cycle that the run has reached. -/
structure Stays (s t : State) (c : TileCtx) (cy : Nat) : Prop where
  tps  : ∀ u, u ≠ c.t → getTp t u = getTp s u
  jobs : t.jobs = (noteCycle c.slot cy s).jobs
  rest : t = { reported s t with mem := t.mem, tps := t.tps, jobs := t.jobs }

/-- Memory reads as before but for `n` bytes from `a` and the index registers of enclosing loops. -/
def BytesBut (s t : State) (c : TileCtx) (a n : Nat) : Prop :=
  ∀ x, x < a ∨ a + n ≤ x → (∀ d ∈ loopIndexes c.tp, x < d ∨ d + 8 ≤ x) → memGet t.mem x = memGet s.mem x

/-- An address range that no index register of an enclosing loop touches. -/
def OffIndexes (c : TileCtx) (a n : Nat) : Prop := ∀ d ∈ loopIndexes c.tp, Apart d 8 a n

/-- Where an instruction that has issued leaves its TP, outside arms and bodies: the next code position, from a cycle on. -/
def Steps (t : State) (c : TileCtx) (nx : Nat) : Prop :=
  c.tp.nest = [] → (getTp t c.t).pc = c.tp.pc + 1 ∧ (getTp t c.t).next = nx ∧ (getTp t c.t).nest = []

/-- An instruction that writes one operand answers a next state: `bytes` stand at its debug address, usable `lat` cycles
after issue; nothing else of memory changes, and the TP issues again after `more` cycles. -/
structure Wrote (s t : State) (c : TileCtx) (cy lat more a : Nat) (bytes : List Byte) : Prop where
  holds : OffIndexes c a bytes.length → memRead t.mem a bytes.length = bytes
  bytes : BytesBut s t c a bytes.length
  ready : a ∉ loopIndexes c.tp → tget 0 (getTp t c.t).ready a = cy + lat
  steps : Steps t c (cy + more)
  stays : Stays s t c cy

/-- An instruction that writes one result completes: with its operands at issue it writes `v`, usable after `lat` cycles
(R73), and takes one issue cycle and one for each frame operand (R78). -/
def Completes (i : Instr) (o : OpSpec) (t : Fin 128) (f : TField) (lat : Nat) (v : TileCtx → Nat → State → List Byte) : Prop :=
  ∀ s u c cy, Issues o t f s u c cy →
    ∃ s', exec i s = .next s' ∧ Wrote u s' c cy lat (1 + frameCycles o f) (opAddr t f.thr.toNat f.dst) (v c cy u)

/-- An instruction that only advances completes: no byte changes but index registers of enclosing loops. -/
structure Advanced (s t : State) (c : TileCtx) (cy nx : Nat) : Prop where
  bytes : BytesBut s t c 0 0
  steps : Steps t c nx
  stays : Stays s t c cy

/-- The TPs other than the issuing one, and the jobs other than its tile's, are as before. -/
structure Leaves (s t : State) (c : TileCtx) : Prop where
  tps  : ∀ u, u ≠ c.t → getTp t u = getTp s u
  jobs : ∀ j, j ≠ c.slot → getJob t j = getJob s j

/-- An access has entered the banks of the Vats (R63): it is served with the others in flight, and no byte changes until its lines
are; where none was in flight no other TP is touched. -/
structure InFlight (s t : State) (c : TileCtx) (x : VatAcc) : Prop where
  flight : t.vat = schedule s (s.vat ++ [x])
  bytes  : BytesBut s t c 0 0
  alone  : s.vat = [] → Leaves s t c

/-- A local load of `n` bytes, `k` lines, from address `a` has issued in cycle `cy`: from HBM its bytes stand at debug address `d`
at once, from a Vat when its lines have been served. They are usable after the cost of the space (R85), the moment when its
deferred lines arrive (R34, R75), or the cycle that the banks give it (R63). -/
structure LoadIssued (s t : State) (c : TileCtx) (cy a n d k nx : Nat) : Prop where
  steps  : Steps t c nx
  hbm    : a < 0xC_0000_0000 →
    (OffIndexes c d n → memRead t.mem d n = memRead s.mem a n) ∧ BytesBut s t c d n ∧ Leaves s t c ∧ t.vat = s.vat
  usable : (a < 0xC_0000_0000 → defersHbm c a n s = false) → (0xC_0000_0000 ≤ a → s.vat = []) →
    ∀ i, i < k → d + 64 * i ∉ loopIndexes c.tp → tget 0 (getTp t c.t).ready (d + 64 * i) = cy + memLatency s c.t a k
  late   : a < 0xC_0000_0000 → defersHbm c a n s = true → ∀ i, i < k → d + 64 * i ∈ (getTp t c.t).arriving
  vat    : 0xC_0000_0000 ≤ a →
    InFlight s t c (vatAccess s c cy a n (some d) [] ((upFrom 0 k).map fun i => d + 64 * i))
  lands  : 0xC_0000_0000 ≤ a → s.vat = [] → OffIndexes c d n →
    memRead (serveAll t).mem d n = memRead s.mem a n ∧ BytesBut s (serveAll t) c d n
  rest   : t = { reported s t with mem := t.mem, tps := t.tps, jobs := t.jobs, hbm := t.hbm, vat := t.vat
                                   flt := { (reported s t).flt with eccCor := t.flt.eccCor } }

/-- A local store of `bs` at address `a` has issued in cycle `cy`: in HBM the bytes stand there at once (log 83), in a Vat when its
lines have been served. It is complete after the cost of the space (R69, R85), or as for a load. -/
structure StoreIssued (s t : State) (c : TileCtx) (cy a : Nat) (bs : List Byte) (nx : Nat) : Prop where
  steps  : Steps t c nx
  hbm    : a < 0xC_0000_0000 →
    (OffIndexes c a bs.length → memRead t.mem a bs.length = bs) ∧ BytesBut s t c a bs.length ∧ Leaves s t c ∧ t.vat = s.vat
  ends   : a < 0xC_0000_0000 → defersHbm c a bs.length s = false →
    (c.t, c.tile.tile, cy + memLatency s c.t a (cdiv bs.length 64)) ∈ (getJob t c.slot).run.stores
  vat    : 0xC_0000_0000 ≤ a → InFlight s t c (vatAccess s c cy a bs.length none bs [])
  lands  : 0xC_0000_0000 ≤ a → s.vat = [] → OffIndexes c a bs.length →
    memRead (serveAll t).mem a bs.length = bs ∧ BytesBut s (serveAll t) c a bs.length ∧
      cy + memLatency s c.t a (cdiv bs.length 64) ≤ (getTp t c.t).vatDone
  rest   : t = { reported s t with mem := t.mem, tps := t.tps, jobs := t.jobs, hbm := t.hbm, ecc := t.ecc, vat := t.vat }

/-- A TP waits in a CSYNC with an ID and a mask, for a job's tile, since a cycle (R87). -/
def InBarrier (s : State) (j id mask x arrived : Nat) : Prop :=
  ∃ thr, (getTp s x).wait = some (.csync id arrived mask thr) ∧ tpRuns j (getTp s x) = true

/-- A TP has issued a CSYNC with an ID in the present step of a job, in a cycle (R87). -/
def Synced (s : State) (j id x cy : Nat) : Prop := (id, x, cy) ∈ (getJob s j).run.syncs

/-- A block operation has issued (R90, R91): it is last in block k's queue, running at once where the queue was empty; its
status register, if it names one, waits for the status word; no byte changes, and the TP goes on after one cycle. -/
structure OpIssued (s t : State) (c : TileCtx) (cy : Nat) (f : TField) (k layer first count cost : Nat) (tps : List Nat) : Prop where
  queue  : queueOf t k = queueOf s k ++
             [{ slot := c.slot, tp := c.t, thr := f.thr.toNat, tile := c.tile.tile, issued := cy, tps := tps
                dst := statusAddr c f, layer := layer, first := first, count := count, bias := startBias s k c.mov layer
                stepNo := jobStep s c.slot, attempt := c.job.attempt, cost := cost
                began := if queueOf s k = [] then some cy else none }]
  others : ∀ k', k' ≠ k → queueOf t k' = queueOf s k'
  waits  : ∀ a, statusAddr c f = some a → a ∈ (getTp t c.t).statuses
  bytes  : BytesBut s t c 0 0
  steps  : Steps t c (cy + 1)
  leaves : Leaves s t c
  rest   : t = { reported s t with mem := t.mem, tps := t.tps, jobs := t.jobs, blk := { s.blk with queues := t.blk.queues } }

/-- The thread instructions, each with what it accepts, its TP and its fields (R83). -/
def threadForm (i : Instr) : Option (OpSpec × Fin 128 × TField) :=
  match i with
  | .nop t f => some (plainSpec, t, f)
  | .tend t f => some ({ plainSpec with settle := 2 }, t, f)
  | .tbr t f => some (tbrSpec, t, f)
  | .loop t f => some (loopSpec, t, f)
  | .brk t f => some (brkSpec, t, f)
  | .idle t f => some ({ plainSpec with range := fun _ _ f => idleN f != 0, cost := fun _ f => idleN f }, t, f)
  | .csync t f => some (csyncSpec, t, f)
  | .rdv t f => some (rdvSpec, t, f)
  | .ffence t f => some ({ plainSpec with cost := fun s _ => farCycles s }, t, f)
  | .spec t f => some (specSpec, t, f)
  | .mov t f => some (movSpec, t, f)
  | .vbc t f => some (vbcSpec, t, f)
  | .vins t f => some (vinsSpec, t, f)
  | .vext t f => some (vextSpec, t, f)
  | .movi t f => some (moviSpec, t, f)
  | .ld t f => some (ldSpec, t, f)
  | .st t f => some (stSpec, t, f)
  | .mld t f => some (mldSpec, t, f)
  | .mst t f => some (mstSpec, t, f)
  | .mma t f => some (mmaSpec, t, f)
  | .valu t f => some (valuSpec, t, f)
  | .vcvt t f => some (vcvtSpec, t, f)
  | .vact t f => some (vactSpec, t, f)
  | .vcmp t f => some (vcmpSpec, t, f)
  | .vperm t f => some (vpermSpec, t, f)
  | .vred t f => some (vredSpec, t, f)
  | .vscan t f => some (vscanSpec, t, f)
  | .salu t f => some (saluSpec, t, f)
  | .sel t f => some (selSpec, t, f)
  | .dsp t f => some (dspSpec, t, f)
  | .grw t f => some (grwSpec, t, f)
  | .cmb t f => some (cmbSpec, t, f)
  | .cul t f => some (culSpec, t, f)
  | .ldx t f => some (ldxSpec, t, f)
  | _ => none

/-! ### Submissions (R216, R219, R220) -/

/-- The completion entry of a submission. -/
def subCompletion (s : State) (p : Fin 8) (op : Nat) (c : SubCmd) (st : Nat) (y : Stream) : Compl :=
  { kind := 1, status := st, stream := c.stream.toNat % 4096, step := (getStm s p).step, pos := y.pos, replay := y.replay
    value := op, cookie := c.cookie.toNat, client := c.client.toNat }

/-- The Completion Ring of a partition has more than one entry, and room for `n` more (R214, R220). -/
def cqRoom (s : State) (p : Fin 8) (n : Nat) : Prop :=
  let x := getStm s p
  0 < x.cqSize ∧ ∀ k, 1 ≤ k → k ≤ n → (x.cqTail + k) % ringLen x.cqSize ≠ x.cqHead

/-- A submission has been applied (R216): its stream is `y`, every other stream as before, and its completion stands at the
tail of the ring, which moves by one. -/
structure Applied (s t : State) (p : Fin 8) (op : Nat) (c : SubCmd) (st : Nat) (y : Stream) : Prop where
  stream : getStream t c.stream.toNat = y
  others : ∀ k, k ≠ c.stream.toNat → getStream t k = getStream s k
  tail   : (getStm t p).cqTail = ((getStm s p).cqTail + 1) % ringLen (getStm s p).cqSize
  seq    : (getStm t p).cqSeq = inc32 (getStm s p).cqSeq
  entry  : memRead t.hostMem ((getStm s p).cqBase + 32 * (getStm s p).cqTail) 32 =
             complBytes p (subCompletion s p op c st y) (getStm s p).cqSeq (getStm s p).cqPhase

/-! ### Block operations (R90, R91) -/

/-- The state at the end of a block's running operation: the lines of Vat accesses up to then are served (R66, R68). -/
def atEnd (s : State) (o : BlockOp) : State := serveTo (opEndAt s o) s

/-- A block operation has completed: it has left its queue, and its status word, a count and a code, stands in its status
register, usable from its landing cycle on (R75, R90). -/
structure OpDone (s t : State) (k : Nat) (o : BlockOp) (count code cy : Nat) : Prop where
  queue  : queueOf t k = (queueOf s k).tail
  others : ∀ k', k' ≠ k → queueOf t k' = queueOf s k'
  status : ∀ a, o.dst = some a → memNat t.mem a 8 = min count (2 ^ 32 - 1) * 2 ^ 32 + code ∧ tget 0 (getTp t o.tp).ready a = cy
  landed : (o.tp, o.tile, cy) ∈ (getJob t o.slot).run.blockEnds

/-- An address outside some stores and outside the status register of an operation. -/
def OutsideOf (ws : List (Nat × List Byte)) (dst : Option Nat) (x : Nat) : Prop :=
  (∀ w ∈ ws, x < w.1 ∨ w.1 + w.2.length ≤ x) ∧ ∀ a, dst = some a → x < a ∨ a + 8 ≤ x

/-! ### Answers of the commands that reach no memory -/

/-- A command answers a next state: what `u` says, the postings in `u` taken by the collector (R21), and the queue of commands
as it was. -/
def Gives (i : Instr) (s u : State) : Prop := exec i s = .next { collect u with pending := s.pending }

/-! ### Frames (R169 to R180) -/

/-- A frame that a link hands to this chip: the link is Up, the frame is the expected one, of its kind and of the form that R171
gives the kind, for this chip, and, in class U, neither a duplicate nor older than 1 ms. -/
structure Accepts (s : State) (l : Fin 8) (fr : Frame) (kind : Nat) : Prop where
  up    : (getLink s l.val).state = .up
  seq   : fr.seq.toNat = (getLink s l.val).rxSeq
  form  : frameKindOk fr = true
  kind  : fr.kind.toNat = kind
  here  : fr.dst.toNat = chipId s
  fresh : fr.cls = 0 → fr.dup = false ∧
            ((beatStamp s + 2 ^ 32 - fr.stamp.toNat) % 2 ^ 32 ≤ 1000 ∨ 2 ^ 31 ≤ (beatStamp s + 2 ^ 32 - fr.stamp.toNat) % 2 ^ 32)

/-- The state after the link's own part of an accepted frame: sequenced, acknowledged, its credits owed to the partner (R174,
R178). The statement `FrameReception` says what that part does. -/
def taken (l : Fin 8) (fr : Frame) (s : State) : State :=
  oweCredits l.val fr (acceptSeq l.val fr (countSymbols l.val fr.corrected s))

/-- A link has gone to a state, and of the rest of the machine only links have changed. -/
structure LinkGoes (s t : State) (n : Nat) (st : LinkState) : Prop where
  state : (getLink t n).state = st
  rest  : t = { reported s t with links := t.links }

/-- A link has Failed (R186): nothing waits in it for a replay, as S or as B frames; the Fault Unit shows it; and of the rest only
links, what the chip knows to be lost, and the Escapement's look for a parent have changed. -/
structure LinkFails (s t : State) (n : Nat) : Prop where
  state   : (getLink t n).state = .failed
  unacked : (getLink t n).unacked = []
  waiting : (getLink t n).qS = [] ∧ (getLink t n).qB = []
  flag    : t.flt.flags &&& 256 = 256
  rest    : t = { reported s t with links := t.links, net := { s.net with dropped := t.net.dropped }, esc := t.esc, freeCtr := t.freeCtr }

/-- A link has come Up with the parameters of its partner (R175, R183): credits within the partner's buffers, what it holds for a
replay goes out again, and other links change at most in the U and B frames that wait on them. -/
structure LinkComesUp (s t : State) (n : Nat) (p : LinkParams) : Prop where
  state   : (getLink t n).state = .up ∧ (getLink t n).errs = 0 ∧ (getLink t n).gap = false
  partner : (getLink t n).partner = p.chip.toNat ∧ (getLink t n).heard = some p
  credits : (getLink s n).unacked = [] →
    (getLink t n).crU = min p.freeU 16 ∧ (getLink t n).crS = min p.freeS 512 ∧ (getLink t n).crB = min p.freeB 256
  replay  : (getLink t n).replayQ = (getLink t n).unacked
  others  : ∀ m, m ≠ n → s.flt.remap.source = false →
    getLink t m = { getLink s m with qU := (getLink t m).qU, qB := (getLink t m).qB, uExcess := (getLink t m).uExcess } ∧
    ((getLink s m).state = .up → getLink t m = getLink s m)
  rest    : t.mem = s.mem ∧ t.jobs = s.jobs

/-- The frame commands, each with its link, its frame and the kind that R171 gives it. -/
def frameForm (i : Instr) : Option (Fin 8 × Frame × Nat) :=
  match i with
  | .request l f => some (l, f, 0x13)
  | .grant l f => some (l, f, 0x13)
  | .queued l f => some (l, f, 0x13)
  | .returnCredits l f => some (l, f, 0x13)
  | .announce l f => some (l, f, 0x13)
  | .report l f => some (l, f, 0x13)
  | .beacon l f => some (l, f, 0x13)
  | .timeExchangeRequest l f _ => some (l, f, 0x12)
  | .timeExchangeResponse l x => some (l, x.fr, 0x12)
  | .collectiveData l f => some (l, f, 0x01)
  | .remoteWrite l f => some (l, f, 0x08)
  | .remoteReadRequest l f => some (l, f, 0x09)
  | .remoteReadResponse l f => some (l, f, 0x0A)
  | .remoteRefusal l f => some (l, f, 0x0B)
  | .bulkCopy l f => some (l, f, 0x0C)
  | .heartbeat l f => some (l, f, 0x10)
  | .routingDigest l f => some (l, f, 0x11)
  | .keeperMessage l f => some (l, f, 0x14)
  | .fenceNotice l f => some (l, f, 0x15)
  | .restoreDoneNotice l f => some (l, f, 0x15)
  | _ => none

/-- The ramp messages, each with its link, its frame and its operation (R286). -/
def rampForm (i : Instr) : Option (Fin 8 × Frame × Nat) :=
  match i with
  | .request l f => some (l, f, 1)
  | .grant l f => some (l, f, 2)
  | .queued l f => some (l, f, 3)
  | .returnCredits l f => some (l, f, 4)
  | .announce l f => some (l, f, 5)
  | .report l f => some (l, f, 6)
  | .beacon l f => some (l, f, 7)
  | _ => none

end Sys2Proof.Machine
end

