-- ==== Sys2Proof/Certificates/Slice0/Obligations.lean ====
section
/-! DEFINITION. The statements for the provers, family by family of the table of operations and events. -/

open Sys2Proof Sys2Proof.Machine

/-! ### Thread instructions (R46 to R96) -/

/-- R73, R78, R83, R86: each instruction with one result completes where it issues. It writes Dst and nothing else, at its
latency, and takes one issue cycle and one for each frame operand. -/
def Obligations.ResultInstructions : Prop := ∀ (t : Fin 128) (f : TField),
  let a := fun (c : TileCtx) (s : State) => readNum s c.t f.thr.toNat f.srcA
  let b := fun (c : TileCtx) (s : State) => readNum s c.t f.thr.toNat f.srcB
  let d := fun (c : TileCtx) (s : State) => readNum s c.t f.thr.toNat f.srcC
  let ty := tyOf f
  let m := f.mod.toNat
  Completes (.mov t f) movSpec t f (if opClass f.dst = 0 ∧ opClass f.srcA = 0 then 1 else 5)
    (fun c _ s => readOp s c.t f.thr.toNat f.srcA) ∧
  Completes (.vbc t f) vbcSpec t f 5 (fun c _ s => leBytes 64 (lineOf ty (List.replicate (elLanes ty) (a c s)))) ∧
  Completes (.vins t f) vinsSpec t f 5 (fun c _ s =>
    leBytes 64 (lineOf ty ((lineLanes ty (readNum s c.t f.thr.toNat f.dst)).set (laneOf f) (a c s)))) ∧
  Completes (.vext t f) vextSpec t f 5 (fun c _ s => leBytes 8 (bits (a c s) (elBits ty * laneOf f) (elBits ty))) ∧
  Completes (.movi t f) moviSpec t f 1 (fun _ _ _ => leBytes 8 f.imm.toNat) ∧
  Completes (.valu t f) valuSpec t f 5 (fun c _ s => leBytes 64 (valuLine ty m (d c s) (a c s) (b c s) (d c s))) ∧
  Completes (.vcvt t f) vcvtSpec t f 5 (fun c _ s => leBytes 64 (vcvtLine ((elTy m).getD .fp32) ty (a c s))) ∧
  Completes (.vact t f) vactSpec t f 5 (fun c _ s => leBytes 64 (vactLine ty m (a c s))) ∧
  Completes (.vcmp t f) vcmpSpec t f 5 (fun c _ s => leBytes 8 (vcmpLine ty m (a c s) (b c s))) ∧
  Completes (.vperm t f) vpermSpec t f 5 (fun c _ s => leBytes 64 (vpermLine ty (a c s) (b c s))) ∧
  Completes (.vred t f) vredSpec t f 7 (fun c _ s => leBytes 8 (vredLine ty m (a c s))) ∧
  Completes (.vscan t f) vscanSpec t f 9 (fun c _ s => leBytes 64 (vscanLine ty m (a c s))) ∧
  Completes (.salu t f) saluSpec t f (if m % 16 = 2 then 3 else 1)
    (fun c _ s => leBytes 8 (saluOp m (a c s) (if bitAt m 5 then f.imm.toNat else b c s))) ∧
  Completes (.spec t f) specSpec t f 1 (fun c cy s => leBytes 8 (specValue c cy f s))

/-- R83 and R86: what SALU computes on 64-bit operands: sums, differences and products wrap, comparisons give 0 or 1, min
and max compare as signed, and a shift by 64 or more gives 0, or the sign fill.

R86: integer lanes of VALU. Lane i of the result is the sum, difference, product, multiply-add, absolute value or
negation of lane i of the operands as signed numbers, modulo 2^w; and, or, xor and select act on the bits. -/
def Obligations.ScalarAndIntegerArithmetic : Prop :=
  (∀ (x y : BitVec 64) (im : Nat), im = 0 ∨ im = 32 →
   saluOp (im + 0) x.toNat y.toNat = (x + y).toNat ∧
   saluOp (im + 1) x.toNat y.toNat = (x - y).toNat ∧
   saluOp (im + 2) x.toNat y.toNat = (x * y).toNat ∧
   saluOp (im + 3) x.toNat y.toNat = (x &&& y).toNat ∧
   saluOp (im + 4) x.toNat y.toNat = (x ||| y).toNat ∧
   saluOp (im + 5) x.toNat y.toNat = (x ^^^ y).toNat ∧
   saluOp (im + 6) x.toNat y.toNat = (x <<< y.toNat).toNat ∧
   saluOp (im + 7) x.toNat y.toNat = (x >>> y.toNat).toNat ∧
   saluOp (im + 8) x.toNat y.toNat = (x.sshiftRight y.toNat).toNat ∧
   saluOp (im + 9) x.toNat y.toNat = (if y.slt x then y else x).toNat ∧
   saluOp (im + 10) x.toNat y.toNat = (if x.slt y then y else x).toNat ∧
   saluOp (im + 11) x.toNat y.toNat = (if x = y then 1 else 0) ∧
   saluOp (im + 12) x.toNat y.toNat = (if x.slt y then 1 else 0) ∧
   saluOp (im + 13) x.toNat y.toNat = (if x.ult y then 1 else 0)) ∧
  (∀ (ty : ElTy) (m mask a b c i : Nat), elIsInt ty = true → m ≤ 11 → i < elLanes ty →
   let w := elBits ty
   let ln := fun v => bits v (w * i) w
   let sg := fun v => signed w (ln v)
   ln (valuLine ty m mask a b c) =
     if m = 0 then wrapInt w (sg a + sg b) else if m = 1 then wrapInt w (sg a - sg b)
     else if m = 2 then wrapInt w (sg a * sg b)
     else if m = 3 then (if sg a < sg b then ln b else ln a) else if m = 4 then (if sg b < sg a then ln b else ln a)
     else if m = 5 then ln a &&& ln b else if m = 6 then ln a ||| ln b else if m = 7 then ln a ^^^ ln b
     else if m = 8 then wrapInt w (sg a * sg b + sg c)
     else if m = 9 then (if mask.testBit i then ln a else ln b)
     else if m = 10 then wrapInt w (Int.natAbs (sg a)) else wrapInt w (-(sg a)))

/-- R67, R83: NOP, IDLE and FFENCE complete where they issue: the TP goes on after 1 cycle, n cycles, or the far-load
bound, and nothing else changes. -/
def Obligations.PlainInstructions : Prop := ∀ (t : Fin 128) (f : TField) (s u : State) (c : TileCtx) (cy : Nat),
  (Issues plainSpec t f s u c cy → ∃ s', exec (.nop t f) s = .next s' ∧ Advanced u s' c cy (cy + 1)) ∧
  (Issues { plainSpec with range := fun _ _ f => idleN f != 0, cost := fun _ f => idleN f } t f s u c cy →
    0 < bits f.imm.toNat 0 16 ∧
    ∃ s', exec (.idle t f) s = .next s' ∧ Advanced u s' c cy (cy + bits f.imm.toNat 0 16)) ∧
  (Issues { plainSpec with cost := fun s _ => farCycles s } t f s u c cy →
    ∃ s', exec (.ffence t f) s = .next s' ∧ Advanced u s' c cy (cy + farCycles u))

/-- R76, R92: TBR completes where it issues: 2 cycles later the chosen arm begins, and a chosen arm without instructions
ends at once, so that the next instruction issues exactly 2 + ArmCost after the branch.

R93: LOOP completes where it issues: its body begins 2 cycles later with index 0 written, and a body without
instructions runs out its iterations at once, at the fixed cost.

R92, R93: where the last instruction of an arm or body has issued, here a NOP. After an arm the TP goes on behind both
arms, exactly 2 + ArmCost after its TBR. A body goes round, the next index written, while iterations are left; then
the TP goes on behind the body, exactly 2 + n_max × (BodyCost + 1) after its LOOP.

R93: BRK completes where it issues: a zero condition only advances; another one leaves the innermost loop, whose cost
stays fixed. -/
def Obligations.BranchesAndLoops : Prop :=
  (∀ (t : Fin 128) (f : TField) (s u : State) (c : TileCtx) (cy : Nat),
   Issues tbrSpec t f s u c cy →
   let thn := bits f.imm.toNat 0 16
   let els := bits f.imm.toNat 16 16
   let pc := c.tp.pc
   let yes := readScalar u c.t f.thr.toNat f.srcA ≠ 0
   ∃ s', exec (.tbr t f) s = .next s' ∧ BytesBut u s' c 0 0 ∧ Stays u s' c cy ∧
     (∀ start stop, (yes ∧ start = pc + 1 ∧ stop = pc + 1 + thn) ∨ (¬ yes ∧ start = pc + 1 + thn ∧ stop = pc + 1 + thn + els) →
       (start ≠ stop → (getTp s' c.t).pc = start ∧ (getTp s' c.t).next = cy + 2 ∧
         ∃ n, (getTp s' c.t).nest = n :: c.tp.nest ∧ n.isLoop = false ∧ n.issue = cy ∧ n.stop = stop ∧
           n.after = pc + 1 + thn + els ∧ n.bound = bits f.imm.toNat 32 32) ∧
       (start = stop → c.tp.nest = [] → (getTp s' c.t).pc = pc + 1 + thn + els ∧
         (getTp s' c.t).next = cy + 2 + bits f.imm.toNat 32 32 ∧ (getTp s' c.t).nest = []))) ∧
  (∀ (t : Fin 128) (f : TField) (s u : State) (c : TileCtx) (cy : Nat),
   Issues loopSpec t f s u c cy →
   let len := bits f.imm.toNat 0 16
   let n := bits f.imm.toNat 16 16
   let cost := bits f.imm.toNat 32 32
   let d := opAddr c.t f.thr.toNat f.dst
   0 < n ∧ ∃ s', exec (.loop t f) s = .next s' ∧ Stays u s' c cy ∧
     (noOperand f.dst = true → BytesBut u s' c 0 0) ∧ (noOperand f.dst = false → BytesBut u s' c d 8) ∧
     (len ≠ 0 → (getTp s' c.t).pc = c.tp.pc + 1 ∧ (getTp s' c.t).next = cy + 2 ∧
       (noOperand f.dst = false → memNat s'.mem d 8 = 0 ∧ tget 0 (getTp s' c.t).ready d = cy + 2) ∧
       ∃ x, (getTp s' c.t).nest = x :: c.tp.nest ∧ x.isLoop = true ∧ x.issue = cy ∧ x.iter = 0 ∧ x.nMax = n ∧
         x.bound = cost ∧ x.counted = bitAt f.mod.toNat 0 ∧ x.start = c.tp.pc + 1 ∧ x.stop = c.tp.pc + 1 + len ∧
         x.after = c.tp.pc + 1 + len) ∧
     (len = 0 → c.tp.nest = [] → (getTp s' c.t).pc = c.tp.pc + 1 ∧ (getTp s' c.t).next = cy + 2 + n * (cost + 1) ∧
       (getTp s' c.t).nest = [] ∧ (noOperand f.dst = false → memNat s'.mem d 8 = n - 1))) ∧
  (∀ (t : Fin 128) (f : TField) (s u : State) (c : TileCtx) (cy : Nat) (n : Nest),
   Issues plainSpec t f s u c cy → c.tp.nest = [n] → c.tp.pc + 1 = n.stop →
   ∃ s', exec (.nop t f) s = .next s' ∧ Stays u s' c cy ∧
     (n.isLoop = false → (getTp s' c.t).pc = n.after ∧ (getTp s' c.t).next = n.issue + 2 + n.bound ∧ (getTp s' c.t).nest = []) ∧
     (n.isLoop = true → n.start ≠ n.stop →
       (n.iter + 1 < n.nMax → (getTp s' c.t).pc = n.start ∧ (getTp s' c.t).next = n.iterStart + n.bound + 1 ∧
         ∀ d, n.dst = some d → memNat s'.mem d 8 = (n.iter + 1) % 2 ^ 64) ∧
       (n.nMax ≤ n.iter + 1 → (getTp s' c.t).pc = n.after ∧ (getTp s' c.t).next = n.issue + 2 + n.nMax * (n.bound + 1) ∧
         (getTp s' c.t).nest = []))) ∧
  (∀ (t : Fin 128) (f : TField) (s u : State) (c : TileCtx) (cy : Nat),
   Issues brkSpec t f s u c cy →
   (readScalar u c.t f.thr.toNat f.srcA = 0 → ∃ s', exec (.brk t f) s = .next s' ∧ Advanced u s' c cy (cy + 1)) ∧
   (readScalar u c.t f.thr.toNat f.srcA ≠ 0 → ∃ n rest, innerLoop c.tp.nest = some (n, rest) ∧
     ∃ s', exec (.brk t f) s = .next s' ∧ BytesBut u s' c 0 0 ∧ Stays u s' c cy ∧
       (rest = [] → (getTp s' c.t).pc = n.after ∧ (getTp s' c.t).next = n.issue + 2 + n.nMax * (n.bound + 1) ∧
         (getTp s' c.t).nest = [])))

/-- R87: CSYNC completes where it issues. While a TP of its mask has not issued a CSYNC with the same sync ID in the step,
the TP waits, and nothing else changes. With the last arrival every member goes on, at its next instruction, 4 cycles
after the latest.

R48, R88: RDV completes where it issues, with no neighbour fenced, no fence in its run, its window within the ceiling,
and no data taken before: the tile is charged the whole window at once, the program runs from this instant, and the
stream waits. No byte of memory changes. -/
def Obligations.BarrierAndRendezvous : Prop :=
  (∀ (t : Fin 128) (f : TField) (s u : State) (c : TileCtx) (cy : Nat),
   Issues csyncSpec t f s u c cy →
   let m := readScalar u t f.thr.toNat f.srcA + 2 ^ 64 * readScalar u t f.thr.toNat f.srcB
   let id := bits f.imm.toNat 0 16
   (∀ x, x < 128 → m.testBit x = true → x ≠ c.t → (∀ a, ¬ Synced u c.slot id x a) →
     (∀ y mask a, ¬ InBarrier u c.slot id mask y a) →
     ∃ s', exec (.csync t f) s = .next s' ∧ s'.mem = u.mem ∧ (getTp s' c.t).wait = some (.csync id cy m f.thr.toNat) ∧
       (getTp s' c.t).pc = c.tp.pc ∧ Synced s' c.slot id c.t cy ∧ Leaves u s' c ∧
       s' = { reported u s' with tps := s'.tps, jobs := s'.jobs }) ∧
   (∀ latest, (∀ x, x < 128 → m.testBit x = true → x ≠ c.t →
       (getTp u x).nest = [] ∧ ∃ a, InBarrier u c.slot id m x a ∧ Synced u c.slot id x a) →
     (∀ y mask a, InBarrier u c.slot id mask y a → mask = m ∧ m.testBit y = true) →
     (∀ x a, m.testBit x = true → Synced u c.slot id x a → a ≤ latest) → c.tp.nest = [] → cy ≤ latest →
     (latest = cy ∨ ∃ x, m.testBit x = true ∧ Synced u c.slot id x latest) →
     ∃ s', exec (.csync t f) s = .next s' ∧ s'.mem = u.mem ∧
       (∀ x, x < 128 → m.testBit x = true →
         (getTp s' x).wait = none ∧ (getTp s' x).pc = (getTp s x).pc + 1 ∧ (getTp s' x).next = latest + 4) ∧
       (∀ x, m.testBit x = false → getTp s' x = getTp s x))) ∧
  (∀ (t : Fin 128) (f : TField) (s u : State) (c : TileCtx) (cy : Nat),
   Issues rdvSpec t f s u c cy → (neighbours s).any (isFenced s) = false → s.ring.fenceFail = false →
   ((cy + c.hdr.rvWindow * beatCycles s : Nat) : Int) < movedEnd c →
   let prog := bits f.imm.toNat 0 16
   (tget {} c.job.run.colls prog).held = [] →
   ∃ s', exec (.rdv t f) s = .next s' ∧ s'.mem = u.mem ∧
     (getTp s' c.t).wait = some (.rdv prog s.clk.fleet cy f.thr.toNat) ∧ (getTp s' c.t).pc = c.tp.pc ∧
     (getTp s' c.t).tile = some { c.tile with ceilEnd := c.tile.ceilEnd - ((c.hdr.rvWindow * beatCycles s : Nat) : Int) } ∧
     (∃ k, k = tget {} (getJob s' c.slot).run.colls prog ∧ k.running = true ∧ k.tp = c.t ∧ k.from_ = s.clk.fleet ∧
       k.window = c.hdr.rvWindow) ∧ Leaves u s' c)

/-- R34, R63, R65, R66, R75, R83, R85: LD and MLD from this chip's memory complete where they issue, over lines without an
uncorrectable error: from HBM the destination holds the bytes of the address, usable after the cost of the space, or,
beyond the tile's claim, when they arrive; an access to a Vat enters its banks, and its lines bring the bytes. Nothing
else of memory changes.

R63, R65 to R67, R69, R83, R85: ST and MST to this chip's memory complete where they issue, when they merge no line
with an uncorrectable error: the bytes stand at the address, in HBM at once and in a Vat when its banks have taken the
lines, and no other byte changes. A Vat store is complete after its cost (R85); an HBM store is noted for the next
stop, or deferred beyond the tile's claim. -/
def Obligations.LocalLoadsAndStores : Prop :=
  (∀ (t : Fin 128) (f : TField) (s u : State) (c : TileCtx) (cy : Nat),
   let g := globalAddr u c.t f
   let a := globalLocal g
   isRemote u g = false →
   (Issues ldSpec t f s u c cy → lineBad u a (opSize f.dst) = false →
     ∃ s', exec (.ld t f) s = .next s' ∧
       LoadIssued u s' c cy a (opSize f.dst) (opAddr c.t f.thr.toNat f.dst) 1 (cy + 1 + frameCycles ldSpec f)) ∧
   (Issues mldSpec t f s u c cy →
     let b := bits (readScalar u c.t f.thr.toNat f.srcB) 0 9
     let n := bits (readScalar u c.t f.thr.toNat f.srcB) 16 9 + 1
     lineBad u a (64 * n) = false →
     b + n ≤ 512 ∧ ∃ s', exec (.mld t f) s = .next s' ∧ LoadIssued u s' c cy a (64 * n) (bufferLine c.t b) n (cy + 1))) ∧
  (∀ (t : Fin 128) (f : TField) (s u : State) (c : TileCtx) (cy : Nat),
   let g := globalAddr u c.t f
   let a := globalLocal g
   let data := readOp u c.t f.thr.toNat f.srcB
   let n := bits f.imm.toNat 56 8 + 1
   let packed := mstBytes (tyOf f) n (memRead u.mem (accLine c.t (opIndex f.srcB)) (64 * n))
   isRemote u g = false →
   (Issues stSpec t f s u c cy → mergesBad u a data.length = false →
     ∃ s', exec (.st t f) s = .next s' ∧ StoreIssued u s' c cy a data (cy + 1 + frameCycles stSpec f)) ∧
   (Issues mstSpec t f s u c cy → mergesBad u a packed.length = false →
     ∃ s', exec (.mst t f) s = .next s' ∧ StoreIssued u s' c cy a packed (cy + 1)))

/-- R12, R71, R72, R83: LD and ST at another chip's address complete where they issue: the access is remembered under a
fresh tag until it is answered, and its frame waits on the link that the partition's routing table gives; a load's
register waits for its data. No byte of memory changes. -/
def Obligations.RemoteAccesses : Prop := ∀ (t : Fin 128) (f : TField) (s u : State) (c : TileCtx) (cy : Nat),
  let g := globalAddr u c.t f
  let d := opAddr c.t f.thr.toNat f.dst
  let x : Remote := { tag := s.net.nextTag, slot := c.slot, tp := c.t, thr := f.thr.toNat, chip := globalChip g, addr := g,
                      keys := [d], into := some d, size := opSize f.dst, from_ := s.clk.fleet }
  let bs := readOp u c.t f.thr.toNat f.srcB
  let way := routeVia (getPart s (jobPart c.job)).routes s (globalChip g)
  isRemote u g = true →
  (Issues ldSpec t f s u c cy → ∃ s', exec (.ld t f) s = .next s' ∧ BytesBut u s' c 0 0 ∧
    Steps s' c (cy + 1 + frameCycles ldSpec f) ∧ Leaves u s' c ∧ d ∈ (getTp s' c.t).arriving ∧
    s'.net.remotes = s.net.remotes ++ [x] ∧ s'.net.nextTag = (s.net.nextTag + 1) % 65536 ∧
    ∀ n, way = some n →
      (getLink s' n).qB = (getLink s n).qB ++ [{ fr := mkFrame s 2 0x09 (globalChip g) (g / 64 * 64) s.net.nextTag [] }]) ∧
  (Issues stSpec t f s u c cy → ∃ s', exec (.st t f) s = .next s' ∧ BytesBut u s' c 0 0 ∧
    Steps s' c (cy + 1 + frameCycles stSpec f) ∧ Leaves u s' c ∧
    s'.net.remotes = s.net.remotes ++ [{ x with keys := [], into := none, size := bs.length }] ∧
    ∀ n, way = some n →
      (getLink s' n).qB = (getLink s n).qB ++
        [{ fr := mkFrame s 2 0x08 (globalChip g) (writeArg g bs.length) s.net.nextTag bs }])

/-- R81, R83: MMA completes where it issues: the accumulator holds the block product added to it, or to 0 with Mod[0],
usable when the engine is done with it, 32 cycles after its start in an 8-bit type and 64 in a 16-bit type; it starts
at its issue or after the MMA before it.

R81: an INT8 block: element (i, j) of the result is C[i][j] plus the sum of A[i][k] × B[k][j] over k, modulo 2^32. -/
def Obligations.MatrixMultiply : Prop :=
  (∀ (t : Fin 128) (f : TField) (s u : State) (c : TileCtx) (cy : Nat),
   Issues mmaSpec t f s u c cy →
   let acc := accLine c.t (opIndex f.dst)
   let blk := fun l ty => memNat u.mem (bufferLine c.t (bits f.imm.toNat l 9)) (1024 * elSize ty)
   let c0 := if bitAt f.mod.toNat 0 then 0 else memNat u.mem acc 4096
   let start := max cy (maxNat (c.tp.mmas.map (·.done)))
   ∃ s', exec (.mma t f) s = .next s' ∧
     (OffIndexes c acc 4096 → memRead s'.mem acc 4096 =
       leBytes 4096 (mmaBlock (tyOf f) (mmaTyB f) (blk 0 (tyOf f)) (blk 16 (mmaTyB f)) c0)) ∧
     BytesBut u s' c acc 4096 ∧ Steps s' c (cy + 1) ∧ Stays u s' c cy ∧
     tget 0 (getTp s' c.t).accReady (opIndex f.dst / 64) = start + (if elSize (tyOf f) = 1 then 32 else 64)) ∧
  (∀ (a b c i j : Nat), i < 32 → j < 32 →
   bits (mmaBlock .i8 .i8 a b c) (32 * (32 * i + j)) 32 =
     wrapInt 32 (signed 32 (bits c (32 * (32 * i + j)) 32) +
       ((upFrom 0 32).map fun k => signed 8 (bits a (8 * (32 * i + k)) 8) * signed 8 (bits b (8 * (32 * k + j)) 8)).foldr (· + ·) 0))

/-- R83, R90, R91: the block instructions complete where they issue and pass their own checks: the operation joins its
block's queue, at the cost that the timing contract gives it, or takes its Loader channel; no byte of memory changes. -/
def Obligations.BlockInstructions : Prop := ∀ (t : Fin 128) (f : TField) (s u : State) (c : TileCtx) (cy : Nat),
  let i := bits f.imm.toNat 0 8
  let d := layerAt c.mov i
  let e := bits f.imm.toNat 0 16
  let n := bits f.imm.toNat 16 16
  let es := (c.mov.entries.drop e).take n
  (Issues selSpec t f s u c cy → selStatus u c d = 0 → ∃ s', exec (.sel t f) s = .next s' ∧
    OpIssued u s' c cy f 0 i 0 0 (2 * cdiv (c.mov.stepBudget * d.experts) 512 + 400) []) ∧
  (Issues dspSpec t f s u c cy → dspStatus u c i = 0 → ∃ s', exec (.dsp t f) s = .next s' ∧
    OpIssued u s' c cy f 1 i 0 0 (2 * cdiv d.reserved 64 + 600) []) ∧
  (Issues cmbSpec t f s u c cy → cmbStatus u c i = 0 → ∃ s', exec (.cmb t f) s = .next s' ∧
    OpIssued u s' c cy f 2 i 0 0 (cdiv ((d.reserved + d.shared * c.mov.stepBudget) * dModel d) 2048 + 500) []) ∧
  (Issues culSpec t f s u c cy → culStatus u c i = 0 → ∃ s', exec (.cul t f) s = .next s' ∧
    OpIssued u s' c cy f 3 i 0 0 (cdiv (readPar u.mem d.cultureBase).budget 256 + 300) []) ∧
  (Issues grwSpec t f s u c cy → (grwStatus c e n).1 = 0 → ∃ s', exec (.grw t f) s = .next s' ∧
    OpIssued u s' c cy f (4 + c.t / 16) 0 e n (sumNat (es.map entryCost)) (walkTps (c.t / 16) es)) ∧
  (Issues ldxSpec t f s u c cy → ∃ s' o, exec (.ldx t f) s = .next s' ∧ channelOp s' (bits f.imm.toNat 0 4) = some o ∧
    o.slot = c.slot ∧ o.tp = c.t ∧ o.desc = ldxAddr u c f ∧ o.began = cy ∧ o.dst = statusAddr c f ∧
    (o.code ≠ 0 → o.cost = 48) ∧ (isRemote u (ldxGlobal u c f) = true → o.code = 7) ∧
    (∀ a, statusAddr c f = some a → a ∈ (getTp s' c.t).statuses) ∧
    (∀ ch, ch ≠ bits f.imm.toNat 0 4 → channelOp s' ch = channelOp s ch) ∧
    BytesBut u s' c 0 0 ∧ Steps s' c (cy + 1) ∧ Leaves u s' c)

/-- R53, R65, R83, R95, R96: an instruction that fails a check in the cycle in which it would issue does not run: its
opcode is undefined, its TP has passed its code, or it fails an instruction-fault check, the first in the order of
R95, or the access check of R65, or both. The job of its tile faults: no TP runs a tile of the job any longer, and the
cluster counts each fault. -/
def Obligations.ThreadFaults : Prop := ∀ (i : Instr) (o : OpSpec) (t : Fin 128) (f : TField) (s : State) (c : TileCtx),
  threadForm i = some (o, t, f) → tileCtx s t.val = some c → c.tp.nest = [] → c.job.state = 3 →
  let faults := fun n : Nat => ∃ s', exec i s = .next s' ∧ (getJob s' c.slot).state = 4 ∧
    (∀ k, tpRuns c.slot (getTp s' k) = false) ∧ (tget {} s'.cls (t.val / 16)).faults = (tget {} s.cls (t.val / 16)).faults + n
  (c.hdr.codeLen ≤ c.tp.pc ∨ opUndefined c = true → (c.tp.next : Int) < haltCycle c → faults 1) ∧
  (∀ u cy, c.tp.pc < c.hdr.codeLen → opUndefined c = false → readied o c f s = some (cy, u) → (cy : Int) < haltCycle c →
    let r := if staticReason o u c f = 0 then laterReason o u c f else staticReason o u c f
    let acc := (accessCheck o u c f).2
    r ≠ 0 ∨ acc ≠ 0 → faults ((if r = 0 then 0 else 1) + if acc = 0 then 0 else 1))

/-- R46, R48, R49: in partitioned mode the next tile of a TP begins once the TP is free: at its StartCycle plus the slip,
or where its last tile ended; it issues 8 cycles later, and its ceiling counts from its begin. No byte of memory
changes.

R49, R51, R76, R240: TEND completes where it issues: the tile ends one cycle later and its TP is free; no byte
changes. The tile's ceiling, and an overrun that the slip policy allows, are charged to the job in interleaved mode;
the overrun raises the slip to cover it, in steps of 64.

R50 to R53: where a running tile's ceiling counter reaches zero, or its slip passes the limit, or its rendezvous waits
beyond its window. Under the slip policy the tile runs on, with the slip in force kept; a crossing of the limit faults
the job; under the fault policy an overrun faults the job at once. -/
def Obligations.TilesBeginAndEnd : Prop :=
  (∀ (t : Fin 128) (slot : Fin 64) (waited : Nat) (s : State) (e : TrackEntry),
   let x := getJob s slot
   let old := getTp s t
   let b := max (e.start + x.run.slip) (if old.lastJob = some slot.val then old.next else 0)
   nextEntry s slot t = some e → mayRun s slot = true → x.run.active = true → x.run.atStop = false → old.tile = none →
   partitioned s = true →
   ∃ s', exec (.tileBegin t slot waited) s = .next s' ∧ s'.mem = s.mem ∧
     (getTp s' t).tile = some { slot := slot, tile := e.tile, id := 8 * (s.hbm.nextTile + 1) + jobPart x, began := b
                                ceilEnd := ((b + 64 * (tileHdr (jobMov x) e.tile).ceiling : Nat) : Int) - (x.run.slip : Int) } ∧
     (getTp s' t).pc = 0 ∧ (getTp s' t).next = b + 8 ∧ (getTp s' t).nest = [] ∧ (getTp s' t).lastJob = some slot.val ∧
     (∀ k, k ≠ t.val → getTp s' k = getTp s k) ∧ (∀ j, j ≠ slot.val → getJob s' j = getJob s j) ∧
     tget 0 (getJob s' slot).run.cursor t = tget 0 x.run.cursor t + 1) ∧
  (∀ (t : Fin 128) (f : TField) (s u : State) (c : TileCtx) (cy : Nat),
   Issues { plainSpec with settle := 2 } t f s u c cy → (c.mov.faultPolicy = true ∨ ((cy + 1 : Nat) : Int) < haltCycle c) →
   let len := ((cy : Int) + 1 - movedEnd c).toNat
   ∃ s', exec (.tend t f) s = .next s' ∧ s'.mem = u.mem ∧
     (getTp s' c.t).tile = none ∧ (getTp s' c.t).nest = [] ∧ (getTp s' c.t).next = cy + 1 ∧
     (∀ k, k ≠ c.t → getTp s' k = getTp s k) ∧ (∀ j, j ≠ c.slot → getJob s' j = getJob s j) ∧
     (getJob s' c.slot).run.slip = (if len = 0 then c.job.run.slip else max c.job.run.slip (overBase c + alignUp len 64)) ∧
     (getJob s' c.slot).engine = c.job.engine + (if partitioned s then 0 else 64 * c.hdr.ceiling + len) ∧
     s' = { reported u s' with mem := s'.mem, tps := s'.tps, jobs := s'.jobs, cls := s'.cls }) ∧
  (∀ (t : Fin 128) (s : State) (c : TileCtx), tileAny s t = some c →
   let faults := fun i : Instr => ∃ s', exec i s = .next s' ∧ (getJob s' c.slot).state = 4 ∧ ∀ k, tpRuns c.slot (getTp s' k) = false
   (c.mov.faultPolicy = false → c.tile.overAt = none → ∃ s', exec (.ceilingOverrun t) s = .next s' ∧ s'.mem = s.mem ∧
     (getTp s' t).tile = some { c.tile with overAt := some c.job.run.slip } ∧ s'.jobs = s.jobs ∧
     ∀ k, k ≠ t.val → getTp s' k = getTp s k) ∧
   (c.mov.faultPolicy = false → c.job.state = 3 → (c.tile.overAt.isSome ∨ (rdvWait c).isSome) →
     ∃ s', exec (.slipLimitCrossed t) s = .next s' ∧ (getJob s' c.slot).state = 4 ∧ ∀ k, tpRuns c.slot (getTp s' k) = false) ∧
   (∀ prog fl cy thr, c.mov.faultPolicy = false → rdvWait c = some (prog, fl, cy, thr) →
     ∃ s', exec (.rendezvousOverrun t) s = .next s' ∧ fl + 1000 * c.hdr.rvWindow ≤ s'.clk.fleet ∧ s.clk.fleet ≤ s'.clk.fleet ∧
       s'.tps = s.tps ∧ s'.mem = s.mem ∧
       ((tget {} c.job.run.colls prog).base = none →
         (tget {} (getJob s' c.slot).run.colls prog).base = some c.job.run.slip)) ∧
   (c.mov.faultPolicy = true → c.job.state = 3 → faults (.ceilingOverrun t) ∧ ((rdvWait c).isSome → faults (.rendezvousOverrun t))))

/-! ### Stops, collectives, fleet time (R12 to R14, R35, R190 to R206, R301) -/

/-- R88, R199, R201: a collective whose rows have all arrived and whose frames are all acknowledged releases its RDV
within the window: the TP goes on after the core cycles that its wait lasted, and the program is done. One that is not
complete at 4 × W beats after its RDV fails, and its job is faulted.

R12, R43, R69, R203, R204: a stop that is not the step's end is released, for a job that stays in its partition, once
its tiles are done and its stores are not late: the next stop is its next one, and the partition takes the ring and
the routes as they are. At StepEnd a ring job without its neighbours' digests waits for them, until 16 swings after
the stop's Cycle; then it is faulted. -/
def Obligations.StopsAndCollectives : Prop :=
  (∀ (slot : Fin 64) (prog : BitVec 16) (s : State),
   let r := tget {} (getJob s slot).run.colls prog.toNat
   r.running = true → r.done = false →
   (∀ c fl cy thr, collReceived s slot prog.toNat = true → collAcked s prog.toNat = true → tileAny s r.tp = some c →
     c.slot = slot.val → rdvWait c = some (prog.toNat, fl, cy, thr) → c.tp.nest = [] →
     max 1 (coreOfNs s (s.clk.fleet - fl)) ≤ c.hdr.rvWindow * beatCycles s →
     ∃ s', exec (.collectiveComplete slot prog) s = .next s' ∧ s'.mem = s.mem ∧ (getTp s' r.tp).wait = none ∧
       (getTp s' r.tp).pc = c.tp.pc + 1 ∧ (getTp s' r.tp).next = cy + max 1 (coreOfNs s (s.clk.fleet - fl)) ∧
       (tget {} (getJob s' slot).run.colls prog.toNat).done = true ∧ (getJob s' slot).run.slip = (getJob s slot).run.slip) ∧
   ((getJob s slot).state = 3 → ∃ s', exec (.collectiveFailed slot prog) s = .next s' ∧ (getJob s' slot).state = 4 ∧
     s'.ring.collFail = s.ring.collFail + 1 ∧ r.from_ + 4000 * r.window ≤ s'.clk.fleet)) ∧
  (∀ (slot : Fin 64) (s : State) (st : StopRec),
   let x := getJob s slot
   let p := jobPart x
   (jobMov x).stops[x.run.stopIx]? = some st → mayRun s slot = true → x.run.active = true →
   s.ring.retryJob ≠ some slot.val → partitioned s = true →
   (x.run.atStop = false → tilesDone s slot st.cycle = true → (s.hbm.deferred.any fun r => r.slot == slot.val && r.store) = false →
     lateEnds x.run st.stepEnd (st.cycle + x.run.slip) = [] → st.swing = false →
     (st.stepEnd = false → (jobRing x = true ∨ jobServing x = true) →
       ∃ s', exec (.stopRelease slot) s = .next s' ∧ s'.mem = s.mem ∧ s'.tps = s.tps ∧
         (getJob s' slot).run.stopIx = x.run.stopIx + 1 ∧ (getJob s' slot).run.stores = [] ∧
         (getJob s' slot).run.slip = x.run.slip ∧ (getPart s' p).routes = s.routes ∧
         (getPart s' p).view = [cfgVal s 0x0601, cfgVal s 0x0602, cfgVal s 0x0603, cfgVal s 0x0604]) ∧
     (st.stepEnd = true → jobBusy s slot = false → jobRing x = true → s.ring.fwd.digest = none →
       ∃ s', exec (.stopRelease slot) s = .next s' ∧ s'.mem = s.mem ∧ s'.tps = s.tps ∧ (getJob s' slot).run.atStop = true ∧
         (getJob s' slot).run.digestDue = some (x.run.origin + nsOfCore s (st.cycle + x.run.slip) + 256000) ∧
         (getJob s' slot).state = x.state)) ∧
   (∀ due, x.run.atStop = true → x.state = 3 → x.run.digestDue = some due → jobRing x = true → s.ring.fwd.digest = none →
     ∃ s', exec (.digestTimeout slot) s = .next s' ∧ (getJob s' slot).state = 4 ∧ due ≤ s'.clk.fleet ∧
       s'.ring.fwd.digest = none ∧ s'.ring.bwd.digest = none))

/-- R14, R33, R34, R37, R301: a beat boundary, the latest that fleet time has reached unseen, else the next multiple of 1
µs: the beat counter rises by one. Where nothing of HBM is under way and no TP is inside an arm or body, the links'
counts of the beat and the claim counts begin again, and nothing else of threads, jobs and memory changes. A refresh
window begins, once the stacks are initialised at t0, at t0 + g × 243 ns + k × 3,900 ns, for its group g. In Dormant
the ESC domain stands.

R190, R301: a swing boundary is the latest multiple of 16 µs that fleet time has reached unseen, else the next: the
swing counter rises by one, and on a ring each neighbour without a heartbeat since the last boundary has one miss
more, and the others none. At 4 misses a neighbour is suspect; at 16 it has failed, and is fenced.

R35, R72, R75: an HBM request with all its deferred lines served completes: what waits for it is usable at the far-
load bound and its further lines after the beat that served the last, or, without contract bandwidth, when it arrives.
A remote read that is not complete after 1 ms is given up: its job is faulted. A remote write whose frame was
acknowledged by then is done. -/
def Obligations.BeatsAndSwings : Prop :=
  (∀ s : State,
   (s.pwr.state ≠ .dormant → ∃ s', exec .beatTick s = .next s' ∧ s'.clk.beats = s.clk.beats + 1 ∧
     s'.clk.fleet = (if s.clk.beatAt < s.clk.fleet / 1000 * 1000 then s.clk.fleet else (s.clk.fleet / 1000 + 1) * 1000) ∧
     (s.hbm.deferred = [] → s.blk.channels = [] → (∀ p, (getPart s p).sw = none) → (∀ t, (getTp s t).nest = []) →
       s'.hbm.use = [] ∧ s'.hbm.useAll = [] ∧ s'.mem = s.mem ∧ s'.tps = s.tps ∧ s'.jobs = s.jobs ∧
       ∀ n, (getLink s' n).sBeat = 0 ∧ (getLink s' n).uBeat = 0 ∧ (getLink s' n).qS = (getLink s n).qS)) ∧
   (s.pwr.state = .dormant → Gives .beatTick s s) ∧
   (∀ t0, s.hbm.refFrom = some t0 → ∃ s' k, exec .hbmRefresh s = .next s' ∧ s'.hbm.refreshes = s.hbm.refreshes + 1 ∧
     s'.hbm.refGroup < 16 ∧ s'.hbm.refAt = t0 + 243 * s'.hbm.refGroup + 3900 * k ∧ s.upNs ≤ s'.hbm.refAt ∧
     s'.upNs = s'.hbm.refAt ∧ s'.mem = s.mem ∧ s'.tps = s.tps ∧ s'.jobs = s.jobs) ∧
   (s.hbm.refFrom = none → Gives .hbmRefresh s s)) ∧
  (∀ s : State,
   (s.pwr.state ≠ .dormant → s.ecc.badTables = [] → s.ring.deciding = none →
     ∃ s', exec .swingTick s = .next s' ∧ s'.clk.swings = s.clk.swings + 1 ∧
       s'.clk.fleet = (if s.clk.swingAt < s.clk.fleet / 16000 * 16000 then s.clk.fleet else (s.clk.fleet / 16000 + 1) * 16000) ∧
       s'.mem = s.mem ∧ s'.tps = s.tps ∧ s'.jobs = s.jobs ∧
       (cfgVal s 0x0601 ≠ 0 → s.pwr.handedOver = true →
         s'.ring.fwd.misses = (if s.ring.fwd.seen then 0 else s.ring.fwd.misses + 1) ∧
         s'.ring.bwd.misses = (if s.ring.bwd.seen then 0 else s.ring.bwd.misses + 1) ∧
         s'.ring.fwd.seen = false ∧ s'.ring.bwd.seen = false)) ∧
   (∀ n, cfgVal s 0x0601 ≠ 0 → (sideOf s n).failed = false →
     (4 ≤ (sideOf s n).misses → (sideOf s n).suspect = false →
       ∃ s', exec (.heartbeatSuspect n) s = .next s' ∧ (sideOf s' n).suspect = true ∧ s'.flt.fences = s.flt.fences) ∧
     (16 ≤ (sideOf s n).misses → isFenced s (sideChip s n) = false → sideChip s n ≠ chipId s →
       ∃ s', exec (.heartbeatFailed n) s = .next s' ∧ (sideOf s' n).failed = true ∧ isFenced s' (sideChip s n) = true))) ∧
  (∀ s : State,
   (∀ r, s.hbm.deferred.find? (fun x => x.id == r.id && x.chan.isNone) = some r → r.late = [] →
     let cy := r.due.getD (max r.least (cycleAt s r.slot))
     ∃ s', exec (.hbmAccessComplete r.id) s = .next s' ∧ s'.mem = s.mem ∧ (∀ x ∈ s'.hbm.deferred, x.id ≠ r.id) ∧
       (∀ a ∈ r.keys, a ∉ (getTp s' r.tp).arriving ∧ tget 0 (getTp s' r.tp).ready a = cy) ∧
       (r.store = true → (r.tp, r.hdr, cy) ∈ (getJob s' r.slot).run.stores) ∧
       (∀ k, k ≠ r.tp → getTp s' k = getTp s k)) ∧
   (∀ (tag : BitVec 16) r, s.net.remotes.find? (fun x => x.tag == tag.toNat) = some r →
     (r.into ≠ none → (getJob s r.slot).state = 3 →
       ∃ s', exec (.remoteAccessTimeout tag) s = .next s' ∧ r.from_ + 1000000 ≤ s'.clk.fleet ∧ (getJob s' r.slot).state = 4 ∧
         (∀ x ∈ s'.net.remotes, x.tag ≠ r.tag)) ∧
     (r.into = none → writeOut s tag.toNat = false →
       ∃ s', exec (.remoteAccessTimeout tag) s = .next s' ∧ r.from_ + 1000000 ≤ s'.clk.fleet ∧ s'.jobs = s.jobs ∧
         (∀ x ∈ s'.net.remotes, x.tag ≠ r.tag) ∧ s'.mem = s.mem)))

/-! ### The serving loop (R211 to R231) -/

/-- R214: writes of the ring registers of a partition. A tail that leaves at most n − 1 entries in flight is taken, and a
head that does not pass the completion tail; any other value is ignored. The setup registers are taken while Enable is
0, with their indices 0 and the next Phase 1, and ignored otherwise. No other partition's rings change, and no memory.

R215, R217: the entry at the Submission Ring's head, its 64 B taken apart, joins the pending queue, behind those that
wait, while the partition is enabled, the ring holds an entry and the queue has room; otherwise nothing happens. -/
def Obligations.SubmissionAndCompletionRings : Prop :=
  (∀ (p : Fin 8) (s : State) (idx : BitVec 32) (v : BitVec 64),
   let x := getStm s p
   let only := fun s' : State => (∀ q, q ≠ p.val → getStm s' q = getStm s q) ∧ s'.mem = s.mem ∧ s'.streams = s.streams ∧ s'.jobs = s.jobs
   (x.sqTail < 2 ^ x.sqSize → x.sqHead < 2 ^ x.sqSize →
     let t := idx.toNat % 2 ^ x.sqSize
     let inFlight := (x.sqTail + 2 ^ x.sqSize - x.sqHead) % 2 ^ x.sqSize
     let added := (t + 2 ^ x.sqSize - x.sqTail) % 2 ^ x.sqSize
     ∃ s', exec (.doorbell p idx) s = .next s' ∧ only s' ∧
       (inFlight + added ≤ 2 ^ x.sqSize - 1 → getStm s' p = { x with sqTail := t, idle := false }) ∧
       (2 ^ x.sqSize - 1 < inFlight + added → getStm s' p = x)) ∧
   (x.cqTail < 2 ^ x.cqSize → x.cqHead < 2 ^ x.cqSize →
     let h := idx.toNat % 2 ^ x.cqSize
     let held := (x.cqTail + 2 ^ x.cqSize - x.cqHead) % 2 ^ x.cqSize
     let freed := (h + 2 ^ x.cqSize - x.cqHead) % 2 ^ x.cqSize
     ∃ s', exec (.stmCqhead p idx) s = .next s' ∧ only s' ∧
       (freed ≤ held → getStm s' p = { x with cqHead := h }) ∧ (held < freed → getStm s' p = x)) ∧
   (∃ s', exec (.submissionRingSetup p .base v) s = .next s' ∧ only s' ∧
     getStm s' p = if x.enable then x else { x with sqBase := v.toNat / 64 * 64, sqHead := 0, sqTail := 0 }) ∧
   (∃ s', exec (.submissionRingSetup p .size v) s = .next s' ∧ only s' ∧
     getStm s' p = if x.enable then x else { x with sqSize := max 6 (min 16 (v.toNat % 32)), sqHead := 0, sqTail := 0 }) ∧
   (∃ s', exec (.completionRingSetup p .base v) s = .next s' ∧ only s' ∧
     getStm s' p = if x.enable then x else { x with cqBase := v.toNat / 32 * 32, cqHead := 0, cqTail := 0, cqPhase := true }) ∧
   (∃ s', exec (.completionRingSetup p .size v) s = .next s' ∧ only s' ∧
     getStm s' p = if x.enable then x else
       { x with cqSize := max 6 (min 16 (v.toNat % 32)), cqHead := 0, cqTail := 0, cqPhase := true })) ∧
  (∀ (p : Fin 8) (v : BitVec 512) (toks : List (BitVec 32)) (s : State),
   let x := getStm s p
   let e := subEntryOf v toks
   (e.op.toNat = bits v.toNat 0 8 ∧ e.cmd.flags.toNat = bits v.toNat 8 8 ∧ e.cmd.stream.toNat = bits v.toNat 16 16 ∧
     e.cmd.client.toNat = bits v.toNat 32 8 ∧ e.cmd.rsv0.toNat = bits v.toNat 40 24 ∧ e.cmd.effStep.toNat = bits v.toNat 64 32 ∧
     e.cmd.cookie.toNat = bits v.toNat 96 32 ∧ e.cmd.arg0.toNat = bits v.toNat 128 64 ∧ e.cmd.arg1.toNat = bits v.toNat 192 64 ∧
     e.cmd.arg2.toNat = bits v.toNat 256 64 ∧ e.cmd.arg3.toNat = bits v.toNat 320 64 ∧ e.cmd.rsv1.toNat = bits v.toNat 384 128) ∧
   ∃ s', exec (.submissionRead p ⟨v, toks⟩) s = .next s' ∧ s'.mem = s.mem ∧ s'.streams = s.streams ∧
     (∀ q, q ≠ p.val → getStm s' q = getStm s q) ∧
     (x.enable = true → x.sqHead ≠ x.sqTail → x.pend.length < 1024 →
       (getStm s' p).sqHead = (x.sqHead + 1) % 2 ^ x.sqSize ∧ ∃ late, (getStm s' p).pend = x.pend ++ [(e, late)]) ∧
     (x.enable = false ∨ x.sqHead = x.sqTail ∨ 1024 ≤ x.pend.length → getStm s' p = x))

/-- R216, R219, R229, R268: a submission command that the Step Builder applies while the partition holds no locks, with no
failing check and room in the Completion Ring. OPEN makes its stream Idle with its limits, APPEND grows the prompt and
copies its tokens, PAUSE and RESUME hold and release it, REWARD and NOP leave it; each posts its completion.

R216, R219, R220: CANCEL ends its stream with EndReason 4, with its own completion at once; the end entry of the
stream follows at the commit. A submission with a failing check changes no stream and no memory: it is counted, and
its completion gives the lowest status. -/
def Obligations.SubmissionCommands : Prop :=
  (∀ (p : Fin 8) (c : SubCmd) (toks : List (BitVec 32)) (s : State),
   let i := c.stream.toNat
   let y := getStream s i
   let sub := fun op : Nat => subStatus s p false { op := BitVec.ofNat 8 op, cmd := c, tokens := if op = 2 then toks else [] }
   let n := bits c.arg1.toNat 0 17
   (getStm s p).built = none → cqRoom s p 1 → Collected s → ownsStream (getStm s p) i = true →
   (sub 1 = 0 → ∃ s', exec (.openStream p c) s = .next s' ∧ s'.mem = s.mem ∧
     Applied s s' p 1 c 0 { state := 1, endReason := y.endReason, part := p, client := c.client.toNat,
                            maxPos := bits c.arg2.toNat 0 23, maxNew := bits c.arg2.toNat 32 32, kvBase := c.arg0.toNat,
                            prBase := c.arg1.toNat, stopIds := c.arg3.toNat }) ∧
   (sub 2 = 0 → ∃ s', exec (.appendTokens p c toks) s = .next s' ∧
     memRead s'.mem (y.prBase + 4 * y.prompt) (4 * n) =
       (upFrom 0 n).flatMap (fun k => leBytes 4 ((toks[k]?).getD 0).toNat) ∧
     MemoryBut s s' (y.prBase + 4 * y.prompt) (4 * n) ∧
     Applied s s' p 2 c 0 { y with state := if y.state = 1 then 2 else y.state, prompt := y.prompt + n,
                                   admitSeq := if y.prompt = 0 then (getStm s p).admits else y.admitSeq }) ∧
   (sub 3 = 0 → ∃ s', exec (.pauseStream p c) s = .next s' ∧ s'.mem = s.mem ∧ Applied s s' p 3 c 0 { y with state := 4 }) ∧
   (sub 4 = 0 → ∃ s', exec (.resumeStream p c) s = .next s' ∧ s'.mem = s.mem ∧
     Applied s s' p 4 c 0 { y with state := if y.pos < y.prompt then 2 else if 0 < y.newCount then 3 else 1 }) ∧
   (sub 6 = 0 → ∃ s', exec (.rewardStream p c) s = .next s' ∧ s'.mem = s.mem ∧ Applied s s' p 6 c 0 y ∧
     (tget [] s'.cul.applied p).getLast? =
       some { step := (getStm s p).step, first := bits c.arg1.toNat 0 8, last := bits c.arg1.toNat 8 8,
              value := signed 32 (bits c.arg0.toNat 0 32) }) ∧
   (sub 7 = 0 → ∃ s', exec (.nopCommand p c) s = .next s' ∧ s'.mem = s.mem ∧ Applied s s' p 7 c 0 y)) ∧
  (∀ (p : Fin 8) (c : SubCmd) (s : State),
   let i := c.stream.toNat
   let y := getStream s i
   let x := getStm s p
   cqRoom s p 1 →
   (x.built = none → Collected s → subStatus s p false { op := 5, cmd := c, tokens := [] } = 0 →
     ∃ s', exec (.cancelStream p c) s = .next s' ∧
       s'.mem = s.mem ∧ getStream s' i = { y with state := 0, endReason := 4 } ∧ (∀ k, k ≠ i → getStream s' k = getStream s k) ∧
       memRead s'.hostMem (x.cqBase + 32 * x.cqTail) 32 =
         complBytes p (subCompletion s p 5 c 0 { y with state := 0, endReason := 4 }) x.cqSeq x.cqPhase ∧
       (getStm s' p).ends = x.ends ++ [(i, y.pos, y.replay, y.client)]) ∧
   (∀ b budget pos replay client, x.built = some b → b.rows = [] → x.ends = [(i, pos, replay, client)] →
     let s' := commitStreams p budget s
     memRead s'.hostMem (x.cqBase + 32 * x.cqTail) 32 =
       complBytes p { kind := 3, status := 0, stream := i, step := x.step, pos := pos, replay := replay, value := 4, cookie := 0
                      client := client } x.cqSeq x.cqPhase ∧ (getStm s' p).ends = []) ∧
   (∀ st, x.built = none → Collected s → ownsStream x i = true → st ≠ 0 → subStatus s p false { op := 3, cmd := c, tokens := [] } = st →
     ∃ s', exec (.pauseStream p c) s = .next s' ∧ s'.mem = s.mem ∧ Applied s s' p 3 c st y ∧
       (getStm s' p).sqErr = x.sqErr + 1))

/-- R222, R224, R229: a build with work to do. The due commands are applied; the rows of the step are composed from the
streams then; their streams are locked; and the step record stands in the step-record region.

R12, R17, R221: where one job of a partition can start its step, and starts at no swing, the step starts: Movement
time 0 at the present instant, its tokens live, the partition's view of the ring and its routes renewed; a TP that the
job ran last begins afresh.

R230, R231: a partition reset, by its register or where a lock outlives its lease: the partition's epoch rises by one,
its pending commands and the unread entries of its ring are dropped, and its locks are released, their streams marked
Replay. The step in flight of its serving job is abandoned, on every TP, and the job stays as it is; no step number
changes. -/
def Obligations.StepsAndPartitionResets : Prop :=
  (∀ (p : Fin 8) (s : State) (j : Nat),
   let s1 := applyDue p s
   let budget := (jobMov (getJob s j)).stepBudget
   let rows := composeStep s1 p budget
   let record := stepRecord p (getStm s1 p).step budget s.clk.fleet rows
   builder s p = some j → onSwings s j = false → s.ecc.badTables = [] → rows ≠ [] → s1.clk = s.clk →
   inVat (getStm s1 p).srBase record.length = true →
   ∃ s', exec (.stepBuild p) s = .next s' ∧ memRead s'.mem (getStm s1 p).srBase record.length = record ∧
     (∀ a, a < (getStm s1 p).srBase ∨ (getStm s1 p).srBase + record.length ≤ a → memGet s'.mem a = memGet s1.mem a) ∧
     (∃ b, (getStm s' p).built = some b ∧ b.rows = rows ∧ b.stepNo = (getStm s1 p).step ∧ b.lockNs = s.clk.fleet) ∧
     (∀ r ∈ rows, r.stream ∈ s1.streams.map (·.1) → (getStream s' r.stream).locked = true) ∧ s'.jobs = s1.jobs ∧ s'.tps = s1.tps) ∧
  (∀ (p : Fin 8) (s : State) (j : Nat),
   let x := getJob s j
   starters s p = [j] → onSwings s j = false →
   ∃ s', exec (.stepStart p) s = .next s' ∧ s'.mem = s.mem ∧ s'.clk = s.clk ∧
     (getJob s' j).run.active = true ∧ (getJob s' j).run.startNs = s.clk.fleet ∧ (getJob s' j).run.cycle = 0 ∧
     (getJob s' j).run.slip = 0 ∧ (getJob s' j).run.stopIx = 0 ∧ (getJob s' j).run.cursor = [] ∧
     (getJob s' j).run.live = (if jobServing x then (builtRows s p).length else (jobMov x).stepBudget) ∧
     (∀ k, k ≠ j → getJob s' k = getJob s k) ∧
     (getPart s' p).view = [cfgVal s 0x0601, cfgVal s 0x0602, cfgVal s 0x0603, cfgVal s 0x0604] ∧ (getPart s' p).routes = s.routes ∧
     (∀ t, (getTp s t).lastJob = some j → (getTp s t).tile = none → (getTp s' t).next = 0 ∧ (getTp s' t).ready = []) ∧
     (∀ t, (getTp s t).lastJob ≠ some j → getTp s' t = getTp s t)) ∧
  (∀ (p : Fin 8) (s : State),
   let x := getStm s p
   (∃ s', exec (.partitionReset p) s = .next s' ∧
     (servingJob s p = none → s'.mem = s.mem ∧ s'.tps = s.tps ∧ s'.jobs = s.jobs) ∧
     (∀ j, servingJob s p = some j → (getJob s' j).run = {} ∧ (getJob s' j).state = (getJob s j).state ∧
       (getJob s' j).stepNo = (getJob s j).stepNo ∧ ∀ u, tpRuns j (getTp s' u) = false) ∧ (getStm s' p).step = x.step ∧
     (getStm s' p).pepoch = (x.pepoch + 1) % 65536 ∧ (getStm s' p).pend = [] ∧ (getStm s' p).ends = [] ∧ (getStm s' p).sqHead = x.sqTail ∧
     (getStm s' p).built = none ∧ (∀ q, q ≠ p.val → getStm s' q = getStm s q) ∧
     (∀ b, x.built = some b → ∀ r ∈ b.rows, r.stream ∈ s.streams.map (·.1) →
       (getStream s' r.stream).locked = false ∧ (getStream s' r.stream).replay = true)) ∧
   (∀ (i : BitVec 12) b, x.built = some b → (getStream s i.toNat).locked = true → (getStream s i.toNat).part = p.val →
     ∃ s', exec (.lockLeaseExpiry p i) s = .next s' ∧ (servingJob s p = none → s'.mem = s.mem) ∧
       b.lockNs + 1000000 * cfgVal s 0x0803 ≤ s'.clk.fleet ∧ (getStm s' p).pepoch = (x.pepoch + 1) % 65536 ∧
       (getStm s' p).pend = [] ∧ (getStm s' p).built = none))

/-! ### Jobs and switches (R232 to R254) -/

/-- R234 to R236, R239: INSTALL of an Empty slot whose checks all pass admits the Movement that the slot names: the job is
Installed, its counts and step number 0, its registers as written. REMOVE of an Installed or Faulted job empties its
slot again. A command with a failing check changes nothing but its Status. No other job changes, and no memory.

R235, R241, R247, R249, R252: START makes an Installed job Ready, or, for a ring job, waits for its StartSwing;
PREEMPT takes a Ready job back to Installed, its wait counted, and marks a Running one, or one whose restore runs;
RESTART makes a Faulted job Ready again, its step run anew; where the partition runs another job, none of them begins
at once. -/
def Obligations.JobCommands : Prop :=
  (∀ (slot : Fin 64) (s : State),
   let x := getJob s slot
   let others := fun s' : State =>
     (∀ k, k ≠ slot.val → getJob s' k = getJob s k) ∧ s'.mem = s.mem ∧ (x.run.active = false → s'.parts = s.parts)
   let regs : Job := { ctl := x.ctl, mov := x.mov, save := x.save, arg := x.arg, thr := x.thr, ranges := x.ranges }
   s.pwr.state ≠ .holding →
   (installStatus slot s = 0 → ∃ s', exec (.install slot) s = .next s' ∧ others s' ∧
     getJob s' slot = { regs with state := 1, movement := some (movementOf (readImg s.mem x.mov)) }) ∧
   (installStatus slot s ≠ 0 → ∃ s', exec (.install slot) s = .next s' ∧ others s' ∧
     getJob s' slot = { x with status := installStatus slot s }) ∧
   (x.state = 1 ∨ x.state = 4 → ∃ s', exec (.remove slot) s = .next s' ∧ others s' ∧ getJob s' slot = regs ∧
     ∀ a q, (a, q) ∈ s'.cul.prog → q.slot ≠ slot.val) ∧
   (x.state ≠ 1 → x.state ≠ 4 → ∃ s', exec (.remove slot) s = .next s' ∧ others s' ∧ getJob s' slot = { x with status := 1 })) ∧
  (∀ (slot : Fin 64) (s : State),
   let x := getJob s slot
   let p := jobPart x
   s.pwr.state ≠ .holding → partitioned s = true → (getPart s p).running.isSome = true →
   (x.state = 1 → jobRing x = false → ∃ s', exec (.start slot) s = .next s' ∧ s'.mem = s.mem ∧
     (getJob s' slot).state = 2 ∧ (getJob s' slot).status = 0 ∧ x.vt ≤ (getJob s' slot).vt ∧
     (getJob s' slot).readyAt = s.clk.fleet ∧ s'.parts = s.parts ∧ ∀ k, k ≠ slot.val → getJob s' k = getJob s k) ∧
   (x.state = 1 → jobRing x = true → x.arg % 16000 = 0 → s.clk.fleet + 32000 ≤ x.arg →
     ∃ s', exec (.start slot) s = .next s' ∧ getJob s' slot = { x with status := 0, startSw := some x.arg } ∧
       ∀ k, k ≠ slot.val → getJob s' k = getJob s k) ∧
   (x.state = 2 → restoring s slot = false → preemptStatus slot s = 0 → ∃ s', exec (.preempt slot) s = .next s' ∧ s'.parts = s.parts ∧
     getJob s' slot = { x with state := 1, status := 0, asking := false, granted := false, startSw := none
                               waitNs := x.waitNs + (s.clk.fleet - x.readyAt) }) ∧
   (x.state = 3 ∨ (x.state = 2 ∧ restoring s slot = true) → jobRing x = false → ∃ s', exec (.preempt slot) s = .next s' ∧ s'.parts = s.parts ∧
     getJob s' slot = { x with status := 0, preempt := true, preStep := none }) ∧
   (x.state = 4 → jobRing x = false → jobServing x = false → ∃ s', exec (.restart slot) s = .next s' ∧ s'.mem = s.mem ∧
     (getJob s' slot).state = 2 ∧ (getJob s' slot).status = 0 ∧ (getJob s' slot).run = {} ∧ (getJob s' slot).vt = x.vt ∧
     (getJob s' slot).stepNo = x.stepNo ∧ ∀ k, k ≠ slot.val → getJob s' k = getJob s k))

/-- R221, R235: at its StartSwing an Installed ring job becomes Ready, not before that instant; where nothing of its
partition runs, no other job competes and nothing is saved for it, its run begins and T(n) is that swing.

R245, R249: the switch of a partition goes through its stages. At T(n + 1) the outgoing ring job's save begins. Once
nothing of the job is in a block, the save makes the lines that its stop names stand in its save area, and the job is
Ready, or Installed under a Preempt. A restore of one range makes the range hold the saved lines, and the incoming job
runs. -/
def Obligations.JobSwitches : Prop :=
  (∀ (slot : Fin 64) (s : State) (t : Nat),
   let x := getJob s slot
   let p := jobPart x
   x.startSw = some t → x.state = 1 → ringHeld s = false →
   ((getPart s p).running.isSome = true → ∃ s', exec (.jobReady slot) s = .next s' ∧ s'.mem = s.mem ∧ t ≤ s'.clk.fleet ∧
     (getJob s' slot).state = 2 ∧ (getJob s' slot).startSw = none ∧ s'.parts = s.parts) ∧
   ((getPart s p).running = none → (getPart s p).sw = none → jobRing x = true → x.saved = none → t ≠ 0 →
     (∀ k, k ≠ slot.val → jobPart (getJob s k) = p → (getJob s k).state ≠ 2 ∧ (getJob s k).state ≠ 3) → slot.val ∈ s.jobs.map (·.1) →
     ∃ s', exec (.jobReady slot) s = .next s' ∧ t ≤ s'.clk.fleet ∧ (getJob s' slot).state = 3 ∧
       (getPart s' p).running = some slot.val ∧ (getStm s' p).nextSw = t)) ∧
  (∀ (p : Fin 8) (s : State) (w : Switch) (j : Nat), (getPart s p).sw = some w →
   (w.stage = 0 → ∃ s', exec (.ringSwitch p) s = .next s' ∧ (getPart s' p).sw = some { w with stage := 1 } ∧ s'.mem = s.mem ∧
     s'.jobs = s.jobs ∧ ∀ d, w.due = some d → d ≤ s'.clk.fleet) ∧
   (∀ rs, w.stage = 1 → w.outSlot = some j → w.inSlot = none → jobBusy s j = false → coreRuns s = true →
     (getJob s j).saved = some rs → rangeLines rs ≠ 0 → switchCause s j rs (rs.map fun r => (r.1, 64 * r.2)) = 0 →
     ∃ s', exec (.saveComplete p) s = .next s' ∧
       memRead s'.mem (getJob s j).save (64 * rangeLines rs) = rangeBytes s.mem rs ∧
       MemoryBut s s' (getJob s j).save (64 * rangeLines rs) ∧ (getPart s' p).running = none ∧ (getPart s' p).sw = none ∧
       (getJob s' j).state = (if (getJob s j).preempt then 1 else 2) ∧ ∀ k, k ≠ j → getJob s' k = getJob s k) ∧
   (∀ r, w.stage = 2 → w.inSlot = some j → coreRuns s = true → s.flt.chipClass = false → (getJob s j).saved = some [r] →
     switchCause s j [r] [((getJob s j).save, 64 * r.2)] = 0 →
     ∃ s', exec (.restoreComplete p) s = .next s' ∧ memRead s'.mem r.1 (64 * r.2) = memRead s.mem (getJob s j).save (64 * r.2) ∧
       (getPart s' p).running = some j ∧ (getPart s' p).sw = none ∧ (getJob s' j).state = 3 ∧
       ∀ k, k ≠ j → getJob s' k = getJob s k))

/-! ### Blocks (R90, R91, R103 to R110, R122 to R165) -/

/-- R90, R122, R130, R132: at the Selector's cost the pair buffer holds the selection of its layer, with its header, and
the status word gives the accepted pairs. No other byte changes. Where no operation runs nothing happens.

R90, R135, R142, R143, R202: at the Separator's cost its outputs are written, the layer counts as dispatched in the
step attempt, and its digest is held for the step's; the status word gives the pairs written. No other byte changes. -/
def Obligations.SelectorAndSeparator : Prop :=
  (∀ (s : State),
   (∀ o, headOp s 0 = some o → opLive s o = true → s.ecc.badLines = [] →
     let u := atEnd s o
     let d := layerAt (jobMov (getJob s o.slot)) o.layer
     let r := selFromMem u d o.bias o.stepNo o.attempt (getJob s o.slot).run.live
     let buf := pairBuffer o.layer o.stepNo o.attempt r.pairs
     ∃ s', exec .selectorComplete s = .next s' ∧ OpDone s s' 0 o r.stat.accTotal 0 (opEnd o) ∧
       ((∀ a, o.dst = some a → Apart a 8 d.pairBase buf.length) → memRead s'.mem d.pairBase buf.length = buf) ∧
       (∀ x, OutsideOf [(d.pairBase, buf)] o.dst x → memGet s'.mem x = memGet u.mem x) ∧
       s'.blk.selBad = s.blk.selBad + r.stat.bad ∧ s'.blk.pairDrop = s.blk.pairDrop + r.stat.dropTotal) ∧
   (headOp s 0 = none → Gives .selectorComplete s s)) ∧
  (∀ (s : State),
   (∀ o h, headOp s 1 = some o → opLive s o = true → s.ecc.badLines = [] → sepOf (jobMov (getJob s o.slot)) o.layer = some h →
     let u := atEnd s o
     let m := jobMov (getJob s o.slot)
     let r := sepRun u.mem m (layerAt m o.layer) h (selStatOf s o.slot o.layer)
     ∃ s', exec .separatorComplete s = .next s' ∧ OpDone s s' 1 o r.written 0 (opEnd o) ∧
       (∀ x, OutsideOf r.writes o.dst x → memGet s'.mem x = memGet u.mem x) ∧
       o.layer ∈ (getJob s' o.slot).run.dspDone ∧ tget [] (getJob s' o.slot).run.digest o.layer = r.digest) ∧
   (headOp s 1 = none → Gives .separatorComplete s s))

/-- R90, R148, R149: at the cost of its entries a Group Walker has walked them: each is held as walked with the landing
cycle, and the status word has code 0. Its count is a free value (log 3).

R155, R158, R159, R161, R162: a combine whose entries have all landed ends with the number of contributions: with code
0, and counted, when its conservation check finds nothing, at its cost or, in arrival mode, after a late entry; with
code 4, and its job faulted, when the check finds errors, which are counted.

R260, R270: at the Culture's cost its update is done: the status word gives the parameter updates that it made, and
CUL_UPDATES rises by as many. -/
def Obligations.WalkerChurnAndCulture : Prop :=
  (∀ (c : Fin 8) (s : State),
   (∀ o, headOp s (4 + c.val) = some o → opLive s o = true → s.ecc.badLines = [] →
     let es := ((jobMov (getJob s o.slot)).entries.zipIdx.drop o.first).take o.count
     ∃ s', exec (.groupWalkerComplete c) s = .next s' ∧ queueOf s' (4 + c.val) = (queueOf s (4 + c.val)).tail ∧
       (∀ a, o.dst = some a → memNat s'.mem a 8 % 2 ^ 32 = 0 ∧ tget 0 (getTp s' o.tp).ready a = opEnd o) ∧
       (getJob s' o.slot).run.grwDone =
         (getJob s o.slot).run.grwDone ++ es.map fun x => (opEnd o, 4096 * c.val + x.2)) ∧
   (headOp s (4 + c.val) = none → Gives (.groupWalkerComplete c) s s)) ∧
  (∀ (s : State),
   (∀ o k h, headOp s 2 = some o → opLive s o = true → s.ecc.badLines = [] → churnReady s = true →
     let u := atEnd s o
     let m := jobMov (getJob s o.slot)
     let d := layerAt m o.layer
     let live := (getJob s o.slot).run.live
     let cs := contribs u.mem m d h o.layer live
     let bad := conserve u.mem m d h cs live
     combineOf m o.layer = some k → sepOf m o.layer = some h →
     (arrival d = false → churnEnd m d (getJob s o.slot).run o = opEnd o) ∧
     (bad = ([], 0) → ∃ s', exec .churnComplete s = .next s' ∧
       OpDone s s' 2 o cs.length 0 (churnEnd m d (getJob s o.slot).run o) ∧
       s'.blk.combines = s.blk.combines + 1 ∧ s'.blk.consErr = s.blk.consErr ∧ (getJob s' o.slot).state = (getJob s o.slot).state) ∧
     (bad ≠ ([], 0) → ∃ s', exec .churnComplete s = .next s' ∧ s'.blk.combines = s.blk.combines ∧
       s'.blk.consErr = s.blk.consErr + bad.1.length + bad.2 ∧ (getJob s' o.slot).state = 4)) ∧
   (headOp s 2 = none → Gives .churnComplete s s)) ∧
  (∀ (s : State),
   (∀ o h, headOp s 3 = some o → opLive s o = true → s.ecc.badLines = [] → sepOf (jobMov (getJob s o.slot)) o.layer = some h →
     ∃ s' n, exec .cultureComplete s = .next s' ∧ OpDone s s' 3 o n 0 (opEnd o) ∧ s'.cul.updates = s.cul.updates + n) ∧
   (headOp s 3 = none → Gives .cultureComplete s s))

/-- R90, R91, R257: the oldest queued operation of a block that runs none starts in the cycle in which every earlier one
has finished, its own issue at the earliest; a SEL takes the place of its biases as it starts.

R144: the oldest queued Balance Log entry, of whole lines that do not wrap, stands in the ring at the write index,
which moves past it; no other byte changes. -/
def Obligations.BlockQueuesAndBalanceLog : Prop :=
  (∀ (b : BlockId) (s : State) (o : BlockOp) (rest : List BlockOp),
   queueOf s (blockKey b) = o :: rest → o.began = none → coreRuns s = true →
   ∃ s', exec (.blockQueueStart b) s = .next s' ∧
     queueOf s' (blockKey b) =
       { o with began := some (max o.issued (tget 0 s.blk.freeAt (blockKey b) - runBase s o.slot))
                bias := startBias s (blockKey b) (jobMov (getJob s o.slot)) o.layer } :: rest ∧
     (∀ k, k ≠ blockKey b → queueOf s' k = queueOf s k) ∧
     s' = { reported s s' with blk := { s.blk with queues := s'.blk.queues } }) ∧
  (∀ (s : State) (e : List Byte) (rest : List (List Byte)) (lines : Nat),
   let n := cfgVal s 0x0805
   let at_ := cfgVal s 0x0804 + 64 * (s.blk.blogWr % n)
   s.blk.blogQ = e :: rest → e.length = 64 * lines → s.blk.blogWr % n + lines ≤ n → 0 < n →
   ∃ s', exec .balanceLogWrite s = .next s' ∧ memRead s'.mem at_ (64 * lines) = e ∧ MemoryBut s s' at_ (64 * lines) ∧
     s'.blk.blogQ = rest ∧ s'.blk.blogWr = (s.blk.blogWr + lines) % n ∧ s'.jobs = s.jobs ∧ s'.tps = s.tps)

/-- R101, R104, R105, R110: a Loader descriptor of a running step that its channel completes frees the channel and lands
its status with the out-of-bounds count, at its cost or, where lines of it were deferred, when the last of them come;
only the destination, the scratch of a staged copy and the status register change. While deferred lines wait for room
in the claim of its tile it does not complete. A rejected descriptor changes the status register alone, is counted,
and gives the reason as its code. -/
def Obligations.LoaderChannels : Prop := ∀ (ch : Fin 16) (s : State) (o : LoadOp),
  channelOp s ch = some o → coreRuns s = true → (getJob s o.slot).state = 3 → (getJob s o.slot).run.active = true →
  let cy := loadEnd s ch o
  let u := serveTo (runBase s o.slot + cy) s
  let d := localLd u (readLd u.mem o.desc)
  let ws := ldStores u.mem d (o.mode == 2) d.fill
  let free := fun s' : State => channelOp s' ch = none ∧ ∀ c, c ≠ ch.val → channelOp s' c = channelOp s c
  let status := fun (s' : State) (n : Nat) => ∀ a, o.dst = some a →
    memNat s'.mem a 8 = (min n (2 ^ 32 - 1) * 2 ^ 32 + o.code) % 2 ^ 64 ∧ tget 0 (getTp s' o.tp).ready a = cy
  (o.held = none → (∀ r ∈ s.hbm.deferred, r.chan ≠ some ch.val) → cy = o.began + o.cost) ∧
  (∀ h, o.held = some h → (∀ r ∈ s.hbm.deferred, r.chan ≠ some ch.val) → cy = max (o.began + o.cost) h) ∧
  (o.code = 0 → loadWaits s ch o = true → Gives (.loaderDescriptorComplete ch) s s) ∧
  (o.code = 0 → loadWaits s ch o = false → s.ecc.badLines = [] → d.oob < 2 →
    ∃ s', exec (.loaderDescriptorComplete ch) s = .next s' ∧ free s' ∧
    status s' (ldCount (ldPoints u.mem d)) ∧ ∀ x, OutsideOf ws o.dst x → memGet s'.mem x = memGet u.mem x) ∧
  (o.code ≠ 0 → ∃ s', exec (.loaderReject ch) s = .next s' ∧ free s' ∧ status s' 0 ∧
    s'.blk.rejects = s.blk.rejects + 1 ∧ ∀ x, OutsideOf [] o.dst x → memGet s'.mem x = memGet u.mem x)

/-! ### The Culture's registers (R266, R272, R273) -/

/-- R272, R273: CUL_SNREQ grants the lease of a layer's latest snapshot buffer, with the next ID and the asked or
configured time; it answers None where the address names no layer with a snapshot and Busy where the buffer is leased
or 16 leases are live. CUL_SNREL and the expiry of a lease end it, and the register that shows it is idle again; an
expiry is reported.

R266: CUL_RESUMESTEP arms the resume of the layer that CUL_RESUME names, where that layer is Paused; otherwise it does
nothing. -/
def Obligations.CultureRegisters : Prop :=
  (∀ (fn : Fin 9) (v : BitVec 64) (id : BitVec 16) (s : State),
   let a := globalLocal (bits v.toNat 0 48)
   let idle := fun (l : SnapLease) (t : Table Nat) => if bits (tget 0 t l.fn) 0 2 = 1 ∧ bits (tget 0 t l.fn) 16 16 = l.id then tput t l.fn 0 else t
   (blockLayer s a = none → Gives (.culSnreq fn v) s { s with cul.snStat := tput s.cul.snStat fn.val 2 }) ∧
   (∀ j d, blockLayer s a = some (j, d) →
     let x := (tget {} s.cul.prog d.cultureBase).latest
     let live := 16 ≤ s.cul.leases.length ∨ ∃ l ∈ s.cul.leases, l.block = d.cultureBase
     (x = none → Gives (.culSnreq fn v) s { s with cul.snStat := tput s.cul.snStat fn.val 2 }) ∧
     (∀ b, x = some b → live → Gives (.culSnreq fn v) s { s with cul.snStat := tput s.cul.snStat fn.val 3 }) ∧
     (∀ b, x = some b → ¬live →
       let at_ := (readPar s.mem d.cultureBase).snap + b * snapPitch (readPar s.mem d.cultureBase) d
       let ms := if bits v.toNat 48 16 = 0 then cfgVal s 0x0F02 else bits v.toNat 48 16
       Gives (.culSnreq fn v) s { s with
         cul.snStat := tput s.cul.snStat fn.val (1 + 2 ^ 16 * (s.cul.nextId % 2 ^ 16) + 2 ^ 32 * memNat s.mem at_ 4)
         cul.snAddr := tput s.cul.snAddr fn.val at_
         cul.nextId := (s.cul.nextId + 1) % 2 ^ 16
         cul.leases := s.cul.leases ++ [⟨s.cul.nextId, fn.val, d.cultureBase, b, s.clk.fleet + 1000000 * ms⟩] })) ∧
   (∀ l, (s.cul.leases.find? fun l => l.fn == fn.val && l.id == v.toNat % 65536) = some l →
     Gives (.culSnrel fn v) s { s with cul.leases := s.cul.leases.erase l, cul.snStat := idle l s.cul.snStat }) ∧
   (∀ l, (s.cul.leases.find? fun l => l.id == id.toNat) = some l →
     Gives (.leaseExpired id) s { post 0x09 4 1 (leBytes 2 l.id ++ leBytes 2 l.fn) (advanceTo l.due s) with
       cul.leases := s.cul.leases.erase l, cul.snStat := idle l s.cul.snStat })) ∧
  (∀ (v : BitVec 64) (s : State),
   (∀ j d, blockLayer s s.cul.resumeAt = some (j, d) → bitAt (readPar s.mem d.cultureBase).state 1 = true →
     Gives (.culResumestep v) s { s with cul.armed := tput s.cul.armed d.cultureBase (v.toNat % 2 ^ 32) }) ∧
   ((∀ j d, blockLayer s s.cul.resumeAt = some (j, d) → bitAt (readPar s.mem d.cultureBase).state 1 = false) →
     Gives (.culResumestep v) s s))

/-! ### The Regulator (R275 to R283, R291 to R296, R354 to R356) -/

/-- R291, R293, R353: the shed follows its sources. Where the first source comes, duty is 8, the ballast is off, the shed
is counted and alert_n is low; where the last source goes, p takes the calibrated draw, and what the draw fell beyond
its slope in the shed is counted. A further source changes neither. A sensor at the limit is a source until every
sensor has been 5 °C below it for 1 ms. In Loading and in Dormant the Regulator stands: only the pin is noted. -/
def Obligations.PowerSheds : Prop := ∀ (v : BitVec 32) (temps : List (BitVec 16)) (s : State),
  let begins := fun (g : Rgl) => { g with shortfall := none, shedding := true, duty := 8, ballast := false, density := 0,
                                          shedCnt := g.shedCnt + 1, shedOver := 0 }
  let ends := fun (g : Rgl) => { g with shedding := false, p := g.cal, slopeBrk := g.slopeBrk + g.shedOver }
  let only := fun s' : State => s' = { reported s s' with pwr.pwrShedN := s'.pwr.pwrShedN, rgl := s'.rgl, tel := s'.tel }
  let hot := 8 * (cfgVal s 0x0909 : Int)
  (s.pwr.state = .loading ∨ s.pwr.state = .dormant →
    Gives .pwrShedNFall s { s with pwr.pwrShedN := false } ∧ Gives .pwrShedNRise s { s with pwr.pwrShedN := true }) ∧
  (s.pwr.state = .loading → Gives (.shedRequest v) s s) ∧
  (s.pwr.state ≠ .loading → s.pwr.state ≠ .dormant →
  (∃ s', exec .pwrShedNFall s = .next s' ∧ only s' ∧ s'.tel = s.tel ∧ s'.pwr.pwrShedN = false ∧
    (s.rgl.shedding = false → s'.rgl = begins s.rgl ∧ s'.smb.alertLow = true) ∧ (s.rgl.shedding = true → s'.rgl = s.rgl)) ∧
  (∃ s', exec .pwrShedNRise s = .next s' ∧ only s' ∧ s'.tel = s.tel ∧ s'.pwr.pwrShedN = true ∧
    (s.rgl.shedding = true → s.rgl.shedReq = false → s.rgl.thermal = false → s'.rgl = ends s.rgl) ∧
    (s.rgl.shedding = true → s.rgl.shedReq = true ∨ s.rgl.thermal = true → s'.rgl = s.rgl)) ∧
  (∃ s', exec (.shedRequest v) s = .next s' ∧ only s' ∧ s'.tel = s.tel ∧ s'.pwr.pwrShedN = s.pwr.pwrShedN ∧
    s'.rgl.shedReq = v.getLsbD 0 ∧
    (v.getLsbD 0 = true → s.rgl.shedding = false → s'.rgl = begins { s.rgl with shedReq := true } ∧ s'.smb.alertLow = true) ∧
    (v.getLsbD 0 = false → s.rgl.shedding = true → s.pwr.pwrShedN = true → s.rgl.thermal = false →
      s'.rgl = ends { s.rgl with shedReq := false })) ∧
  (∀ h ∈ temps, (∀ x ∈ temps, x.toInt ≤ h.toInt) → ∃ s', exec (.sensorConversion temps) s = .next s' ∧ only s' ∧
    s'.pwr.pwrShedN = s.pwr.pwrShedN ∧ s'.tel.tempMax = h.toNat ∧ s'.tel.bound = s.tel.bound ∧
    (hot ≤ h.toInt → s'.rgl.thermal = true ∧ s'.rgl.shedding = true) ∧
    (hot ≤ h.toInt → s.rgl.shedding = false →
      s'.rgl = begins { s.rgl with thermal := true, coolFrom := none } ∧ s'.smb.alertLow = true) ∧
    (h.toInt < hot → s'.rgl = { s.rgl with coolFrom := s'.rgl.coolFrom } ∧
      (hot - 40 ≤ h.toInt → s'.rgl.coolFrom = none) ∧
      (h.toInt < hot - 40 → s'.rgl.coolFrom = some (s.rgl.coolFrom.getD s.clk.fleet)))) ∧
  (∀ t, s.rgl.coolFrom = some t → s.rgl.thermal = true → ∃ s', exec .thermalHoldEnd s = .next s' ∧
    t + 1000000 ≤ s'.clk.fleet ∧ s'.rgl.thermal = false ∧ s'.pwr = s.pwr ∧
    (s.rgl.shedding = true → s.pwr.pwrShedN = true → s.rgl.shedReq = false →
      s'.rgl = ends { s.rgl with thermal := false })))

/-- R278, R283, R315: outside Loading RGL_CAP takes 75 W to the envelope. The common net rises once no chip holds it, and
that fixes the start of a chip that waits; at its start instant the chip's hold ends, and the start is reported. -/
def Obligations.CapAndStart : Prop := ∀ (v : BitVec 32) (s : State),
  (s.pwr.state ≠ .loading →
    Gives (.capWrite v) s { s with rgl.cap := some (min (max 75 (v.toNat % 256)) (cfgVal s 0x0901)) }) ∧
  (s.pwr.state = .loading → Gives (.capWrite v) s s) ∧
  (s.pwr.rampSyncHeld = true ∨ s.pwr.rampSyncNet = true → Gives .rampSyncRise s s) ∧
  (s.pwr.rampSyncHeld = false → s.pwr.rampSyncNet = false → s.rgl.waitTs = true → ∃ t,
    Gives .rampSyncRise s { s with pwr.rampSyncNet := true, rgl.syncAt := some s.clk.fleet, rgl.ts := some t } ∧
    let w := if inDomain s then windowNs s else 1000000000
    let g := t - chipId s % cfgVal s 0x0907 * (cfgVal s 0x0908 * 100000)
    0 < w → g % w = 0 ∧ max s.flt.kfloor s.clk.fleet + 1000000 ≤ g ∧ g < max s.flt.kfloor s.clk.fleet + 1000000 + w) ∧
  (s.pwr.rampSyncHeld = false → s.pwr.rampSyncNet = false → s.rgl.waitTs = false →
    Gives .rampSyncRise s { s with pwr.rampSyncNet := true, rgl.syncAt := some s.clk.fleet }) ∧
  (∀ t, s.rgl.ts = some t → s.rgl.waitTs = true →
    Gives .startInstant s (post 0x03 3 0 (leBytes 8 t) { advanceTo t s with rgl.waitTs := false }))

/-- R276, R291, R293, R294, R330: a sample counts its energy, exactly, with the part below 1 nJ carried, and of the jobs
changes only what their steps have used of it; in a shed the fall of the draw beyond the down slope is added up.
Outside a shed and Holding, p moves at most by its slopes; below the draw the duty is cut, not under 8, and above it
the ballast runs. In a shed and in Holding p and the duty stay. -/
def Obligations.EstimatorSamples : Prop := ∀ (x : Sample) (s : State),
  let p0 := if s.rgl.p = 0 then x.cal else s.rgl.p
  samples s = true → s.ecc.badTables = [] → ∃ s', exec (.estimatorSample x) s = .next s' ∧ s'.mem = s.mem ∧
    (∀ j, getJob s' j = { getJob s j with run := { (getJob s j).run with energy := (getJob s' j).run.energy } }) ∧
    (s.pwr.entering = false → s.rgl.sampleAt + 1000 ≤ s'.clk.fleet) ∧ s'.rgl.cal = x.cal ∧
    (s.rgl.shedding = true → s'.rgl.shedOver = s.rgl.shedOver + (s.rgl.cal - x.cal - 100 * cfgVal s 0x0903)) ∧
    1000 * s'.rgl.energy + s'.rgl.energyPj = 1000 * s.rgl.energy + s.rgl.energyPj + x.cal ∧
    (s.rgl.shedding = true ∨ s.pwr.state = .holding → s'.rgl.p = p0 ∧ s'.rgl.duty = s.rgl.duty) ∧
    (s.rgl.shedding = false → s.pwr.state ≠ .holding → s.pwr.entering = false →
      s'.rgl.p ≤ p0 + 100 * cfgVal s 0x0902 ∧ p0 ≤ s'.rgl.p + 100 * cfgVal s 0x0903 ∧
      (s'.rgl.p < x.d → s'.rgl.duty = max 8 (64 * (s'.rgl.p - x.stat) / (x.d - x.stat)) ∧ s'.rgl.ballast = false) ∧
      (x.d ≤ s'.rgl.p → s'.rgl.duty = 64 ∧ s'.rgl.ballast = decide (x.d < s'.rgl.p)))

/-- R278, R354 to R356: slot A holds READ_PIN; its 16th failure in a row holds the gain, raises the loss flag and is
reported, and the first answer afterwards ends the loss. Slot B sets a new voltage, except right after a slot that
did, and otherwise holds the next of its rotating readings, or again one that was NACKed; a changed STATUS_WORD is
reported. A failed transaction is counted. The slots start 50 µs apart in cycles of 100 µs; a read takes 48 µs and a
write 38 µs. -/
def Obligations.PmbusSlots : Prop := ∀ (a : PmbAnswer) (s : State),
  let sA := slotEnd false a s
  let s0 := slotEnd true a s
  let want := a.vout.or s.pmb.want
  let sets := want ≠ none ∧ cfgVal s 0x0201 = 1 ∧ s.pmb.avsOff = false ∧ s.pmb.wroteB = false ∧ s.pmb.redo = false ∧ s.pmb.lost = false
  let found := { sA with pmb.inRow := 0, pmb.lost := false, rgl.pin := ((a.word.map reading).getD 0), rgl.gainHeld := false }
  mgmtRuns s = true → s.pwr.handedOver = true → s.pwr.state ≠ .dormant →
  (sA.pmb = { s.pmb with want := want, nextA := sA.pmb.nextA } ∧ s0.pmb = { s.pmb with want := want, nextB := s0.pmb.nextB } ∧
    (s.upNs ≤ s.pmb.nextA → sA.upNs = s.pmb.nextA + 48000 ∧ sA.pmb.nextA = s.pmb.nextA + 100000) ∧
    (s.upNs ≤ s.pmb.nextB → (sets → s0.upNs = s.pmb.nextB + 38000) ∧ (¬sets → s0.upNs = s.pmb.nextB + 48000) ∧
      s0.pmb.nextB = s.pmb.nextB + 100000)) ∧
  (a.word ≠ none → s.pmb.lost = false → Gives (.pmbusSlot false a) s found) ∧
  (a.word ≠ none → s.pmb.lost = true → Gives (.pmbusSlot false a) s (post 0x0E 0x11 0 [] found)) ∧
  (a.word = none → s.pmb.inRow < 15 ∨ s.pmb.lost = true → Gives (.pmbusSlot false a) s
    { sA with pmb.inRow := s.pmb.inRow + 1, pmb.fail := s.pmb.fail + 1 }) ∧
  (a.word = none → 15 ≤ s.pmb.inRow → s.pmb.lost = false → Gives (.pmbusSlot false a) s (post 0x0E 0x10 2 []
    { sA with pmb.inRow := s.pmb.inRow + 1, pmb.fail := s.pmb.fail + 1, pmb.lost := true, rgl.gainHeld := true,
              flt.flags := s.flt.flags ||| 512 })) ∧
  (∀ v, sets → want = some v → a.word ≠ none →
    let c := min (max v (cfgVal s 0x0202)) (cfgVal s 0x0203)
    let x := if s.pmb.vout = 0 then c else min (max c (s.pmb.vout - 5)) (s.pmb.vout + 5)
    Gives (.pmbusSlot true a) s { s0 with
      pmb.vout := x, pmb.word := linear16 s.pmb.mode x, pmb.wroteB := true, pmb.want := if x = c then none else some v }) ∧
  (∀ w, a.word = some w → ¬sets → s.pmb.rotation < 3 → Gives (.pmbusSlot true a) s
    { s0 with pmb.wroteB := false, pmb.redo := false, pmb.rotation := s.pmb.rotation + 1
              pmb.iin := if s.pmb.rotation = 0 then reading w else s.pmb.iin
              pmb.vin := if s.pmb.rotation = 1 then reading w else s.pmb.vin
              pmb.iout := if s.pmb.rotation = 2 then reading w else s.pmb.iout }) ∧
  (∀ w, a.word = some w → ¬sets → s.pmb.rotation = 3 →
    let next := { s0 with pmb.wroteB := false, pmb.redo := false, pmb.rotation := 0, pmb.status := w.toNat }
    Gives (.pmbusSlot true a) s
      (if s.pmb.status = w.toNat then next else post 0x0E 0x12 1 (leBytes 2 s.pmb.status ++ leBytes 2 w.toNat) next)) ∧
  (a.word = none → sets → Gives (.pmbusSlot true a) s { s0 with pmb.fail := s.pmb.fail + 1 }) ∧
  (a.word = none → ¬sets → Gives (.pmbusSlot true a) s
    { s0 with pmb.wroteB := false, pmb.redo := true, pmb.fail := s.pmb.fail + 1 })

/-! ### Ramp domains and credits (R284 to R290) -/

/-- R285, R287 to R290: what happens in time. A new window restores the free allowances; a lease that ends is given back,
to this chip's own pool or by a RETURN; the pool takes back a lease 1 s after its end, and says so; a request without
an answer goes out again after 10 ms; the pool chip sends the backup a BEACON each ms, the backup takes over after 16
ms without one, with a new epoch and a freeze, and at the end of the freeze the pool grants. -/
def Obligations.RampTimers : Prop := ∀ (d : Dir) (id chip : BitVec 12) (s : State),
  let g := s.rgl
  let next := fun m : Nat => (s.clk.fleet / m + 1) * m
  (0 < windowNs s → Gives .rampWindow s { advanceTo (next (windowNs s)) s with
    rgl.freeRise := 1000000 * cfgVal s 0x0A07, rgl.freeDesc := 1000000 * cfgVal s 0x0A07 }) ∧
  (∀ l, (g.leases.find? fun l => l.dir == d && l.id == id.toNat) = some l →
    let t := { advanceTo l.due s with rgl.leases := g.leases.erase l }
    (l.pool ≠ chipId s → Gives (.leaseEnd d id) s (sendRamp l.pool 4 l.epoch d l.id l.watts t)) ∧
    (∀ q, l.pool = chipId s → g.pool.queue = [] →
      (g.pool.leases.find? fun q => q.dir == d && q.chip == chipId s && q.id == l.id) = some q →
      Gives (.leaseEnd d id) s { t with rgl.pool.leases := g.pool.leases.erase q })) ∧
  (∀ q, g.pool.queue = [] →
    (g.pool.leases.find? fun q => q.dir == d && q.chip == chip.toNat && q.id == id.toNat) = some q →
    Gives (.reclaim d chip id) s (post 0x03 4 1 (leBytes 2 q.chip ++ leBytes 1 (dirNum d) ++ leBytes 4 q.watts)
      { advanceTo (q.due + 1000000000) s with
        rgl.reclaimed := g.reclaimed + q.watts, rgl.pool.leases := g.pool.leases.erase q })) ∧
  (∀ r, reqOf s d = some r → r.queued = false → poolOf s ≠ chipId s →
    let t := advanceTo (r.sentNs + 10000000) s
    Gives (.requestResend d) s
      (sendRamp (poolOf s) 1 g.epoch d r.id r.watts (setReq d (some { r with sentNs := t.clk.fleet }) t))) ∧
  (isPool s = true → cfgVal s 0x0A03 ≠ 0xFFF → Gives .beaconSend s
    (sendRamp (cfgVal s 0x0A03) 7 g.epoch .rise 0 0 (advanceTo (next 1000000) s))) ∧
  (inDomain s = true → cfgVal s 0x0A03 = chipId s → isPool s = false → s.pwr.handedOver = true →
    ∃ s', exec .backupTakeover s = .next s' ∧ g.beaconAt + 16000000 ≤ s'.clk.fleet ∧
      s'.rgl = { g with epoch := (g.epoch + 1) % 2 ^ 16, poolChip := some (chipId s),
                        pool := { active := true, frozen := true, queue := g.pool.queue
                                  freezeEnd := s'.clk.fleet + windowNs s + 1000000000 } } ∧
      s' = { reported s s' with upNs := s'.upNs, clk := s'.clk, links := s'.links, net := s'.net, rgl := s'.rgl }) ∧
  (g.pool.active = true → g.pool.frozen = true → g.pool.queue = [] → Gives .poolFreezeEnd s
    (post 0x03 5 0 (leBytes 2 g.epoch ++ leBytes 2 g.pool.reported.length ++ leBytes 4 g.pool.reportW)
      { advanceTo g.pool.freezeEnd s with rgl.pool.frozen := false }))

/-- R286: a ramp message of another domain, or of an older epoch, is discarded and counted.

R285, R287 to R289: what each ramp message of this domain and epoch does. A pool without waiting requests grants a
REQUEST that it can meet in full, and holds another one and answers QUEUED; a GRANT is a lease from the pool's stamp,
to the end of one window, and answers the request of its number; QUEUED marks it; a RETURN frees the pool's lease; a
REPORT is counted in the freeze; a BEACON restarts the backup's watch. An ANNOUNCE of a newer epoch names the new
pool, freezes the chip, and is answered by two REPORTs. -/
def Obligations.RampMessages : Prop :=
  (∀ (i : Instr) (l : Fin 8) (fr : Frame) (op : Nat) (s : State),
   rampForm i = some (l, fr, op) → Accepts s l fr 0x13 → bits fr.arg.toNat 44 4 = op →
   bits fr.arg.toNat 32 8 ≠ cfgVal s 0x0A01 ∨ newer 16 s.rgl.epoch (bits fr.arg.toNat 48 16) = true →
   Gives i s { taken l fr s with rgl.stale := s.rgl.stale + 1 }) ∧
  (∀ (l : Fin 8) (fr : Frame) (s : State),
   let a := fr.arg.toNat
   let src := fr.src.toNat
   let d := dirOf (bits a 43 1)
   let id := bits a 20 12
   let w := min (bits a 0 20) (poolSize s d)
   let g := s.rgl
   let t := taken l fr s
   let now := s.clk.fleet / 1000 * 1000
   Accepts s l fr 0x13 → bits a 32 8 = cfgVal s 0x0A01 →
   (bits a 48 16 = g.epoch →
     (bits a 44 4 = 1 → isPool s = true → g.pool.frozen = false → g.pool.queue = [] → src ≠ chipId s → w ≤ available s d →
       Gives (.request l fr) s (sendRamp src 2 g.epoch d id w
         { t with rgl.pool.leases := g.pool.leases ++ [⟨d, src, id, w, now + windowNs s⟩] })) ∧
     (bits a 44 4 = 1 → isPool s = true → g.pool.queue = [] → src ≠ chipId s → g.pool.frozen = true ∨ available s d < w →
       Gives (.request l fr) s (sendRamp src 3 g.epoch d id (bits a 0 20)
         { t with rgl.pool.queue := [⟨d, src, id, bits a 0 20, true⟩] })) ∧
     (bits a 44 4 = 1 → isPool s = false → Gives (.request l fr) s t) ∧
     (bits a 44 4 = 2 → (∀ x ∈ g.leases, x.dir = d → x.id ≠ id) →
       let lease := { t with rgl.leases := g.leases ++ [⟨d, id, bits a 0 20, 0, stampNs s fr.stamp.toNat + windowNs s, src, g.epoch⟩] }
       Gives (.grant l fr) s (match reqOf s d with
         | some r => if r.id = id then setReq d none lease else lease
         | none => lease)) ∧
     (∀ r, bits a 44 4 = 3 → reqOf s d = some r → r.id = id → Gives (.queued l fr) s (setReq d (some { r with queued := true }) t)) ∧
     (∀ q, bits a 44 4 = 4 → g.pool.queue = [] →
       (g.pool.leases.find? fun q => q.dir == d && q.chip == src && q.id == id) = some q →
       Gives (.returnCredits l fr) s { t with rgl.pool.leases := g.pool.leases.erase q }) ∧
     (bits a 44 4 = 6 → g.pool.active = true → g.pool.frozen = true → Gives (.report l fr) s { t with
       rgl.pool.reported := if src ∈ g.pool.reported then g.pool.reported else g.pool.reported ++ [src]
       rgl.pool.reportW := g.pool.reportW + bits a 0 20 }) ∧
     (bits a 44 4 = 7 → Gives (.beacon l fr) s { t with rgl.beaconAt := s.clk.fleet })) ∧
   (bits a 44 4 = 5 → newer 16 (bits a 48 16) g.epoch = true → g.pool.active = false →
     let e := bits a 48 16
     let again := fun r : RampReq => { r with queued := false }
     Gives (.announce l fr) s (sendRamp src 6 e .descent 0 (heldWatts s .descent) (sendRamp src 6 e .rise 0 (heldWatts s .rise)
       { t with rgl.epoch := e, rgl.poolChip := some src, rgl.freezeUntil := stampNs s fr.stamp.toNat + windowNs s + 1000000000
                rgl.reqRise := g.reqRise.map again, rgl.reqDesc := g.reqDesc.map again }))))

/-! ### The Escapement (R303 to R314) -/

/-- R303, R304: a request goes out on an Up link with a role, with its own number and instant; a request from a partner is
answered, on the link that it came on, with t2 − t1, and the answer carries its residence as it goes out; a request
without a response for 2 ms is abandoned. A replayed message is not used.

R304, R307: a response gives offset and delay of its link: half the difference and half the sum of the ways there and
back, less the residence. Where the delay is within 20 ns of the least of the link's last 16, they are the link's, and
an offset of the parent's link is the one that steers fleet time. In Locked, one result over 10 µs is no step and no
loss. -/
def Obligations.TimeExchanges : Prop :=
  (∀ (l : Fin 8) (fr : Frame) (since : Nat) (id : BitVec 8) (s : State),
   let n := l.val
   let t2 := s.clk.fleet - since
   let a := fr.arg.toNat
   let t := taken l fr s
   (s.esc.state ≠ .free → (getLink s n).state = .up → (getLink s n).role ≠ 0 → Gives (.timeExchangeStart l) s
     (sendUOn n 0x12 (s.esc.nextEx % 256 * 2 ^ 32 + s.clk.fleet % 2 ^ 32) { s with
       esc.nextEx := (s.esc.nextEx + 1) % 256
       esc.pending := tput s.esc.pending n (tget [] s.esc.pending n ++ [(s.esc.nextEx, s.clk.fleet)]) })) ∧
   (s.esc.state ≠ .free → (getLink s n).state ≠ .up ∨ (getLink s n).role = 0 → Gives (.timeExchangeStart l) s s) ∧
   (Accepts s l fr 0x12 → bits a 61 3 = 0 → bitAt a 60 = false → Gives (.timeExchangeRequest l fr since) s
     (answerOn n 0x12 (2 ^ 61 + bits a 32 8 * 2 ^ 32 + (t2 + 2 ^ 32 - bits a 0 32) % 2 ^ 32) t2 t)) ∧
   (Accepts s l fr 0x12 → bitAt a 60 = true → Gives (.timeExchangeRequest l fr since) s t ∧
     Gives (.timeExchangeResponse l ⟨fr, since⟩) s t) ∧
   (∀ x, (tget [] s.esc.pending n).find? (fun x => x.1 == id.toNat) = some x → Gives (.timeExchangeAbandon l id) s
     { advanceTo (x.2 + 2000000) s with esc.pending := tput s.esc.pending n ((tget [] s.esc.pending n).erase x) })) ∧
  (∀ (l : Fin 8) (fr : Frame) (since : Nat) (s : State) (x : Nat × Nat),
   let n := l.val
   let a := fr.arg.toNat
   let fwd := signed 32 (bits a 0 32)
   let bwd := (((s.clk.fleet - since : Nat) : Int) - x.2) - fwd - (bits a 40 20 : Int)
   let o := (fwd - bwd) / 2
   let delay := (fwd + bwd) / 2
   let old := tget [] s.esc.delays n
   Accepts s l fr 0x12 → bits a 61 3 = 1 → bitAt a 60 = false →
   (tget [] s.esc.pending n).find? (fun x => x.1 == bits a 32 8) = some x →
   ∃ s', exec (.timeExchangeResponse l ⟨fr, since⟩) s = .next s' ∧ s'.mem = s.mem ∧ s'.jobs = s.jobs ∧
     tget [] s'.esc.pending n = (tget [] s.esc.pending n).erase x ∧
     tget [] s'.esc.delays n = (if 16 ≤ old.length then old.drop 1 else old) ++ [delay] ∧
     ((∀ y ∈ old, delay ≤ y + 20) → tget none s'.esc.offset n = some o ∧ tget 0 s'.esc.delay n = delay) ∧
     ((∃ y ∈ old, y + 20 < delay) → s'.clk = s.clk ∧ s'.esc.state = s.esc.state ∧ s'.esc.offset = s.esc.offset ∧
       s'.esc.delay = s.esc.delay ∧ s'.esc.parentOff = s.esc.parentOff) ∧
     ((∀ y ∈ old, delay ≤ y + 20) → s.esc.parent = some n → s.esc.state = .locked → s.esc.big = 0 → s'.clk = s.clk ∧
       s'.esc.state = .locked ∧ s'.esc.parentOff = some (1000 * o) ∧ s'.esc.lastUse = s.clk.fleet ∧
       s'.esc.big = if o < -10000 ∨ 10000 < o then 1 else 0) ∧
     ((∀ y ∈ old, delay ≤ y + 20) → s.esc.parent = some n → s.esc.state = .acquire → s.esc.stepped = true → 15 ≤ s.esc.good →
       isRoot s = false → -10 ≤ o → o ≤ 10 → s'.clk = s.clk ∧ s'.esc.state = .locked ∧ s'.esc.parent = some n))

/-- R299, R307, R310, R311, R318: the Escapement in time. The rate is renewed each ms in Locked from the parent's offset,
held in ps, of which it removes an eighth in that ms, within 100 parts in 10^6; Locked without a usable result for 16
ms is Holdover, and after 16 ms there without one the parent is chosen again; the root is Locked after 3 s in Free; at
its lock time-out a starting chip that is not Locked passes it and says so; three seconds without a valid edge lose
beat_in. In Dormant the ESC domain stands.

R311: a beat_in edge at the root 1 s within 100 µs after the one before it is valid: in Free it moves fleet time to
the next multiple of 10^9 ns and the chip is Locked; later it holds the edge's offset. Another edge is invalid and
counted. On a chip that is not the root an edge is only stamped. -/
def Obligations.EscapementTimersAndEdges : Prop :=
  (∀ (s : State),
   let e := s.esc
   let ms := (s.clk.fleet / 1000000 + 1) * 1000000
   let again := max e.holdAt e.lastUse + 16000000
   (s.pwr.state = .dormant → Gives .rateUpdate s s ∧ Gives .holdoverEntry s s ∧ Gives .parentChange s s ∧
     Gives .rootFreeTimeout s s ∧ Gives .beatInLost s s) ∧
   (∀ due, s.pwr.lockDue = some due → s.pwr.state = .starting → e.state ≠ .locked → s.pwr.lockPassed = false →
     ∃ s', exec .lockTimeout s = .next s' ∧ due ≤ s'.upNs ∧ s'.pwr = { s.pwr with lockPassed := true } ∧
       s' = { reported s s' with upNs := s'.upNs, clk := s'.clk, pwr := s'.pwr }) ∧
   (s.pwr.state ≠ .dormant →
   (∀ o, s.ecc.badTables = [] → e.state = .locked ∨ (e.state = .acquire ∧ e.stepped = true) → e.parentOff = some o →
     let r := max (-100000) (min 100000 (o / 8))
     Gives .rateUpdate s { advanceTo ms s with clk.ratePpb := r, esc.parentOff := some (o - r) }) ∧
   (s.ecc.badTables = [] → e.parentOff = none ∨ e.state = .free ∨ e.state = .holdover ∨ (e.state = .acquire ∧ e.stepped = false) →
     Gives .rateUpdate s (advanceTo ms s)) ∧
   (∀ n, e.state = .locked → e.parent = some n →
     let t := advanceTo (e.lastUse + 16000000) s
     Gives .holdoverEntry s (post 0x02 1 0 (leBytes 1 2 ++ leBytes 1 3 ++ leBytes 2 (getLink s n).partner) { t with
       esc.state := .holdover, esc.results := [], esc.good := 0, esc.big := 0, esc.holdAt := t.clk.fleet, esc.root := false
       esc.holdovers := e.holdovers + 1 })) ∧
   (∀ n, e.state = .holdover → chooseAgain s = some n → e.parent ≠ some n →
     ∃ s', exec .parentChange s = .next s' ∧ again ≤ s'.clk.fleet ∧
       s'.esc = { e with parent := some n, good := 0, parentOff := none } ∧
       s' = { reported s s' with upNs := s'.upNs, clk := s'.clk, esc := s'.esc }) ∧
   (e.state = .holdover → chooseAgain s = none ∨ chooseAgain s = e.parent → Gives .parentChange s (advanceTo again s)) ∧
   (isRoot s = true → e.state = .free → s.pwr.handedOver = true → s.pwr.state ≠ .holding →
     ∃ s', exec .rootFreeTimeout s = .next s' ∧ e.freeAt + 3000000000 ≤ s'.clk.fleet ∧
       s'.esc = { e with state := .locked, results := [], good := 0, big := 0, root := true } ∧
       s' = { reported s s' with upNs := s'.upNs, clk := s'.clk, esc := s'.esc }) ∧
   (isRoot s = true → cfgVal s 0x0B02 ≠ 0 → e.lost = false → ∃ s', exec .beatInLost s = .next s' ∧
     e.lastValid.getD e.freeAt + 3000000000 ≤ s'.clk.fleet ∧
     s'.esc = { e with lost := true, edge := none, edgeValid := false, parentOff := none } ∧
     s' = { reported s s' with upNs := s'.upNs, clk := s'.clk, esc := s'.esc }))) ∧
  (∀ (s : State),
   let e := s.esc
   let now := s.clk.fleet
   let stamped := { s with esc.edgeOff := edgeOffset now }
   (s.pwr.state = .dormant → Gives .beatInEdge s s) ∧ (s.pwr.state ≠ .dormant →
   (isRoot s = false ∨ cfgVal s 0x0B02 = 0 → Gives .beatInEdge s stamped) ∧
   (isRoot s = true → cfgVal s 0x0B02 ≠ 0 → e.edge = none → Gives .beatInEdge s { stamped with esc.edge := some now }) ∧
   (∀ p, isRoot s = true → cfgVal s 0x0B02 ≠ 0 → e.edge = some p →
     let valid := p + 999900000 ≤ now ∧ now ≤ p + 1000100000
     (¬valid → Gives .beatInEdge s { stamped with esc.edge := some now, esc.edgeValid := false, esc.invalid := e.invalid + 1 }) ∧
     (valid → e.state = .free → ∃ s', exec .beatInEdge s = .next s' ∧ s'.esc.state = .locked ∧ s'.esc.edgeValid = true ∧
       s'.clk.fleet % 1000000000 = 0 ∧ now < s'.clk.fleet ∧ s'.clk.fleet ≤ now + 1000000000) ∧
     (valid → e.state ≠ .free → e.parent = none → Gives .beatInEdge s { stamped with
       esc.edge := some now, esc.edgeValid := true, esc.lastValid := some now, esc.lost := false
       esc.parentOff := some (1000 * edgeOffset now) }))))

/-! ### Links (R166 to R192) -/

/-- R168, R174, R177 to R179, R181: control blocks and errors on an Up link. An Ack frees the acknowledged frames and adds
the returned credits; a Nak replays every frame that is held, if one is; a reserved block, a bad codeword and a bad
frame are link errors, and a lost frame is asked for again, once in 2 µs; a retrain request is obeyed. An alignment
marker is held. The symbols that the FEC corrected in a block are counted. -/
def Obligations.ControlBlocks : Prop := ∀ (l : Fin 8) (q u c b : BitVec 16) (k : BitVec 8) (w : BitVec 64) (inFrame : Bool) (sym : Nat) (s : State),
  let n := l.val
  let x := getLink s n
  let nak := match x.nakAt with
    | none => true
    | some t => decide (t + 2000 ≤ s.clk.fleet)
  let asked := fun y : Link => if nak then { y with nakOwed := true, nakAt := some s.clk.fleet } else y
  (x.state = .up →
    Gives (.alignmentMarker ⟨l, sym⟩ k w) s (modLink n (fun y => { y with
      laneMap := k.toNat, codeword := w.toNat, corrSym := x.corrSym + sym }) s)) ∧
  (x.state = .up → s.flt.remap.source = false →
    let held := x.unacked.dropWhile fun f => !newer 16 f.seq.toNat q.toNat
    Gives (.ack ⟨l, sym⟩ q u c b) s (modLink n (fun y => { y with
      crU := x.crU + u.toNat, crS := x.crS + c.toNat, crB := x.crB + b.toNat, unacked := held, corrSym := x.corrSym + sym
      replayQ := x.replayQ.filter fun f => newer 16 f.seq.toNat q.toNat
      ackAt := if held.length < x.unacked.length then s.clk.fleet else x.ackAt }) s)) ∧
  (x.state = .up → x.unacked ≠ [] → Gives (.nak ⟨l, sym⟩ q) s (modLink n (fun y => { y with
    replayQ := x.unacked, replays := x.replays + 1, ackAt := s.clk.fleet, corrSym := x.corrSym + sym }) s)) ∧
  (x.state = .up → x.unacked = [] → Gives (.nak ⟨l, sym⟩ q) s (modLink n (fun y => { y with corrSym := x.corrSym + sym }) s)) ∧
  (x.state = .up → 4 < k.toNat → Gives (.reservedControlBlock ⟨l, sym⟩ k) s (modLink n (fun y => { y with
    errs := x.errs + 1, corrSym := x.corrSym + sym }) s)) ∧
  (x.state = .up → Gives (.uncorrectableCodeword l inFrame) s (modLink n (fun y =>
    let z := { y with uncorr := x.uncorr + 1, errs := x.errs + 1 }
    if inFrame then asked { z with gap := true } else z) s)) ∧
  (x.state = .up → Gives (.frameCrcFailure l) s (modLink n (fun y =>
    asked { y with crcErr := x.crcErr + 1, errs := x.errs + 1, gap := true }) s)) ∧
  (x.state = .up → k = 1 → ∃ s', exec (.retrainRequest ⟨l, sym⟩ k) s = .next s' ∧ (getLink s' n).state = .fastRetrain ∧
    (getLink s' n).fastRt = x.fastRt + 1 ∧ s' = { reported s s' with links := s'.links }) ∧
  (x.state = .up → k = 2 → ∃ s', exec (.retrainRequest ⟨l, sym⟩ k) s = .next s' ∧ (getLink s' n).state = .train ∧
    (getLink s' n).fullRt = x.fullRt + 1 ∧ s' = { reported s s' with links := s'.links }) ∧
  (x.state ≠ .up → Gives (.ack ⟨l, sym⟩ q u c b) s s ∧ Gives (.nak ⟨l, sym⟩ q) s s ∧ Gives (.reservedControlBlock ⟨l, sym⟩ k) s s ∧
    Gives (.uncorrectableCodeword l inFrame) s s ∧ Gives (.frameCrcFailure l) s s ∧ Gives (.retrainRequest ⟨l, sym⟩ k) s s ∧
    Gives (.alignmentMarker ⟨l, sym⟩ k w) s (modLink n (fun y => { y with laneMap := k.toNat, codeword := w.toNat }) s))

/-- R172, R174, R178 to R180, R189: what a link does with a frame. The expected one is counted and acknowledged, its
acknowledgement and credits are taken, and its own credits are owed; one ahead of its turn opens a gap, one link error
however many follow, and is asked for; one behind is acknowledged again. A frame of another form is discarded; one for
another chip goes on with its Ttl one lower, or is discarded, as a time exchange is; in class U one older than 1 ms,
or a duplicate already seen, is discarded. A link that is not Up takes nothing. -/
def Obligations.FrameReception : Prop := ∀ (i : Instr) (l : Fin 8) (fr : Frame) (k : Nat) (s : State),
  frameForm i = some (l, fr, k) ∨ (i = .frameDiscard l fr ∧ k = 64 ∧ frameKindOk fr = false) → s.ecc.badTables = [] →
  let n := l.val
  let x := getLink s n
  let expected := x.state = .up ∧ fr.seq.toNat = x.rxSeq
  let t := acceptSeq n fr (countSymbols n fr.corrected s)
  let age := (beatStamp s + 2 ^ 32 - fr.stamp.toNat) % 2 ^ 32
  let seen := ∃ e ∈ s.net.filter, e.1 = fr.src.toNat ∧ e.2.1 = fr.tag.toNat ∧ s.clk.fleet ≤ e.2.2 + 1000000
  let discard := fun (r : Nat) (u : State) =>
    post (0x10 + n) 9 1 (leBytes 1 r ++ leBytes 2 fr.src.toNat ++ leBytes 2 fr.dst.toNat ++ leBytes 1 fr.kind.toNat) u
  (x.state ≠ .up → Gives i s s) ∧
  (x.state = .up → fr.seq.toNat ≠ x.rxSeq → newer 16 fr.seq.toNat x.rxSeq = true → ∃ s', exec i s = .next s' ∧
    (getLink s' n).errs = x.errs + (if x.gap then 0 else 1) ∧ (getLink s' n).gap = true ∧ (getLink s' n).rxSeq = x.rxSeq ∧
    (getLink s' n).corrSym = x.corrSym + fr.corrected ∧
    (x.nakAt = none → (getLink s' n).nakOwed = true ∧ (getLink s' n).nakAt = some s.clk.fleet) ∧
    (∀ m, m ≠ n → getLink s' m = getLink s m) ∧ s' = { reported s s' with links := s'.links }) ∧
  (x.state = .up → fr.seq.toNat ≠ x.rxSeq → newer 16 fr.seq.toNat x.rxSeq = false →
    Gives i s (modLink n (fun y => { y with ackOwed := true, corrSym := x.corrSym + fr.corrected }) s)) ∧
  (expected → s.flt.remap.source = false →
    let z := getLink t n
    z.rxSeq = (x.rxSeq + 1) % 65536 ∧ z.ackOwed = true ∧ z.gap = false ∧ (∀ f ∈ z.unacked, f ∈ x.unacked) ∧
    z.crU + z.crS + z.crB = x.crU + x.crS + x.crB + (if fr.creditClass = 3 then 0 else fr.creditUnits.toNat) ∧
    z.inU + z.inS + z.inB = x.inU + x.inS + x.inB + (if fr.cls = 3 then 0 else frameCredits fr) ∧
    z.rxU + z.rxS + z.rxB = x.rxU + x.rxS + x.rxB + (if fr.cls = 3 then 0 else frameBytes fr) ∧
    t = { s with links := t.links } ∧ ∀ m, m ≠ n → getLink t m = getLink s m) ∧
  (expected → frameKindOk fr = false ∨ fr.kind.toNat ≠ k →
    Gives i s (discard 1 (oweCredits n fr (modLink n (fun y => { y with badKind := y.badKind + 1 }) t)))) ∧
  (expected → frameKindOk fr = true → fr.kind.toNat = k → fr.dst.toNat ≠ chipId s →
    let gone := oweCredits n fr (modLink n (fun y => { y with staleDrop := y.staleDrop + 1 }) t)
    (fr.ttl = 0 → Gives i s (discard 2 gone)) ∧
    (fr.ttl ≠ 0 → fr.cls = 1 ∨ fr.kind = 0x12 ∨ routeLink t fr.dst.toNat = none → Gives i s (discard 3 gone)) ∧
    (∀ m, fr.ttl ≠ 0 → fr.cls ≠ 1 → fr.kind ≠ 0x12 → routeLink t fr.dst.toNat = some m →
      Gives i s (enqueue m { fr := { fr with ttl := fr.ttl - 1 }, from_ := some n } t))) ∧
  (expected → frameKindOk fr = true → fr.kind.toNat = k → fr.dst.toNat = chipId s → fr.cls = 0 →
    let own := oweCredits n fr t
    (1000 < age → age < 2 ^ 31 → Gives i s (modLink n (fun y => { y with staleDrop := y.staleDrop + 1 }) own)) ∧
    (age ≤ 1000 ∨ 2 ^ 31 ≤ age → fr.dup = true → seen →
      Gives i s (modLink n (fun y => { y with dupDrop := y.dupDrop + 1 }) own)))

/-- R71, R72, R172, R190, R196 to R198, R203: what accepted frames do. A remote write of the running ring job's memory
stands there, behind the thread accesses on their way; a read request is answered with the data; either is refused
where the job may not be reached; a read response stands where its load goes; a refusal fails its access with reason
6; the data of an armed collective are written, and with its RDV running go on, summed for a reduction; those that no
ring job has armed are dropped and counted; a neighbour's heartbeat ends its misses; a routing digest is held; and a
discard of a frame that R172 does not discard is none. -/
def Obligations.FrameContents : Prop := ∀ (l : Fin 8) (fr : Frame) (s : State),
  let a := globalLocal fr.arg.toNat
  let src := fr.src.toNat
  let t := taken l fr s
  let w := serveAll t
  (Accepts s l fr 0x08 → w.ecc.badLines = [] → ∀ n, n = writeLen fr → remoteOk s src a n = true →
    Gives (.remoteWrite l fr) s { w with mem := memWrite w.mem a (fr.payload.take n), ecc := { w.ecc with
      softLines := w.ecc.softLines.filter fun k => !(decide (a ≤ 64 * k) && decide (64 * k + 64 ≤ a + (fr.payload.take n).length)) } }) ∧
  (Accepts s l fr 0x08 → remoteOk s src a (writeLen fr) = false →
    Gives (.remoteWrite l fr) s (sendB 0x0B src 6 fr.tag.toNat [] w)) ∧
  (Accepts s l fr 0x09 → ∀ n, n = 64 * (bits fr.arg.toNat 59 5 + 1) → remoteOk s src a n = true → lineBad w a n = false →
    Gives (.remoteReadRequest l fr) s (sendB 0x0A src fr.arg.toNat fr.tag.toNat (memRead w.mem a n)
      { w with flt.eccCor := w.flt.eccCor + softCount w a n })) ∧
  (Accepts s l fr 0x09 → remoteOk s src a (64 * (bits fr.arg.toNat 59 5 + 1)) = false →
    Gives (.remoteReadRequest l fr) s (sendB 0x0B src 6 fr.tag.toNat [] w)) ∧
  (∀ r at_, Accepts s l fr 0x0A → remoteOf s fr = some r → r.into = some at_ →
    let data := (fr.payload.drop (r.addr % 64)).take r.size
    ∃ s', exec (.remoteReadResponse l fr) s = .next s' ∧ s'.mem = memWrite s.mem at_ data ∧
      s'.net.remotes = s.net.remotes.filter (fun x => x.tag != r.tag) ∧
      (∀ k ∈ r.keys, k ∉ (getTp s' r.tp).arriving ∧ tget 0 (getTp s' r.tp).ready k = cycleAt s r.slot) ∧
      (∀ k, k ≠ r.tp → getTp s' k = getTp s k) ∧ s'.jobs = s.jobs) ∧
  (∀ r, Accepts s l fr 0x0B → remoteOf s fr = some r → Gives (.remoteRefusal l fr) s
    (faultJob r.slot (accessFaultEvent r.tp r.thr r.addr 6 { t with net.remotes := t.net.remotes.filter fun x => x.tag != r.tag }))) ∧
  (remoteOf s fr = none → (Accepts s l fr 0x0A → Gives (.remoteReadResponse l fr) s t) ∧
    (Accepts s l fr 0x0B → Gives (.remoteRefusal l fr) s t)) ∧
  (∀ j c, Accepts s l fr 0x01 → isFenced s src = false → runningRing s = some j →
    (jobMov (getJob s j)).colls[fr.tag.toNat]? = some c → (tget {} (getJob s j).run.colls fr.tag.toNat).armed = true →
    collFits s j (jobMov (getJob s j)) c fr = true →
    let m := jobMov (getJob s j)
    let k := tget {} (getJob s j).run.colls fr.tag.toNat
    let p := jobPart (getJob s j)
    let n := viewAt s p 0
    let dir := bits fr.arg.toNat 63 1
    let stage := bits fr.arg.toNat 48 15
    let off := bits fr.arg.toNat 0 48
    let b := recvBlock c n (viewAt s p 1) dir stage
    let own := halfAddr m c n b dir c.src + off
    let landed := memWrite s.mem (if c.kind = 0 then halfAddr m c n b dir c.dst + off
      else c.recv + (2 * dir + stage % 2) * halfBytes m c n + off) fr.payload
    let sum := addRows fr.payload (memRead landed own fr.payload.length)
    ∃ s', exec (.collectiveData l fr) s = .next s' ∧ s'.tps = s.tps ∧
      (k.running = false → s'.mem = landed ∧ (tget {} (getJob s' j).run.colls fr.tag.toNat).held = k.held ++ [fr]) ∧
      (k.running = true →
        s'.mem = if c.kind = 0 then landed
                 else if n - 2 ≤ stage then memWrite landed (c.dst + halfFirst m n b dir * c.rowBytes + off) sum
                 else memWrite landed own sum)) ∧
  (Accepts s l fr 0x01 → isFenced s src = false → runningRing s = none → Gives (.collectiveData l fr) s
    { t with ring.collDrop := t.ring.collDrop + 1 }) ∧
  (Accepts s l fr 0x10 → sideChip s .fwd = src → sideChip s .bwd ≠ src → cfgVal s 0x0601 ≠ 0 → bitAt fr.arg.toNat 5 = false →
    ∃ s', exec (.heartbeat l fr) s = .next s' ∧ s'.ring = { s.ring with fwd := { s.ring.fwd with
      misses := 0, seen := true, arg := fr.arg.toNat, suspect := false
      verdict := if bitAt fr.arg.toNat 0 then some (bits fr.arg.toNat 0 3) else none } } ∧ s'.jobs = s.jobs ∧ s'.mem = s.mem) ∧
  (∀ x, Accepts s l fr 0x11 → digestSide s l src = some x → ∃ s', exec (.routingDigest l fr) s = .next s' ∧
    sideOf s' x = { sideOf s x with digest := some fr.arg.toNat } ∧ s'.jobs = s.jobs) ∧
  (frameKindOk fr = true → Gives (.frameDiscard l fr) s s)

/-- R168, R169, R170, R173, R174, R177 to R179: what an Up link sends at a frame boundary, in this order: a Nak that it
owes; the next frame of a replay; a U frame within 2 % of the beat; S frames within the claim; an alignment marker
that is due; a B frame; a block that returns what it owes, or an idle block. A new frame takes the next sequence
number, uses its credits, and is held for a replay. Frames that no Ack frees within 2 µs are replayed, as a link
error. On the wire a frame is its header of 24 B, its payload, and its trailer with the CRC-32C of all before it. -/
def Obligations.Transmitter : Prop := ∀ (l : Fin 8) (s : State),
  let n := l.val
  let x := getLink s n
  let idle := x.state = .up ∧ x.nakOwed = false ∧ x.replayQ = []
  let fresh := fun (t : TxFrame) (y : Link) => ∃ f, y.wire = [.frame f (frameWire f)] ∧ f.seq = BitVec.ofNat 16 x.txSeq ∧
    f.ackSeq = BitVec.ofNat 16 (x.rxSeq + 65535) ∧ f.cls = t.fr.cls ∧ f.kind = t.fr.kind ∧ f.dst = t.fr.dst ∧
    f.payload = t.fr.payload ∧ y.unacked = x.unacked ++ [f] ∧ y.txSeq = (x.txSeq + 1) % 65536 ∧ y.ackOwed = false ∧
    y.blocks = x.blocks + frameBytes f / 32
  (∀ f : Frame, let h := headerNum f
    bits h 0 2 = f.cls.toNat ∧ bits h 2 6 = f.kind.toNat ∧ bits h 8 6 = f.units.toNat ∧ bitAt h 15 = f.dup ∧
    bits h 16 16 = f.seq.toNat ∧ bits h 32 16 = f.ackSeq.toNat ∧ bits h 48 12 = f.src.toNat ∧ bits h 60 12 = f.dst.toNat ∧
    bits h 72 4 = f.ttl.toNat ∧ bits h 80 16 = f.tag.toNat ∧ bits h 96 32 = f.stamp.toNat ∧ bits h 128 64 = f.arg.toNat ∧
    let all := leBytes 24 h ++ f.payload ++ leBytes 4 (f.creditClass.toNat * 2 ^ 30 + f.creditUnits.toNat * 2 ^ 20)
    frameWire f = all ++ leBytes 4 (crc32c all)) ∧
  (x.state ≠ .up → Gives (.frameBoundary l) s s ∧ Gives (.replayTimeout l) s s) ∧
  (x.state = .up → x.nakOwed = true →
    Gives (.frameBoundary l) s (modLink n (fun y => { y with nakOwed := false, wire := [.nak x.rxSeq], blocks := x.blocks + 1 }) s)) ∧
  (∀ f rest, x.state = .up → x.nakOwed = false → x.replayQ = f :: rest → ∃ s', exec (.frameBoundary l) s = .next s' ∧
    (getLink s' n).wire = [.frame (replayed f) (frameWire (replayed f))] ∧ (getLink s' n).replayQ = rest ∧
    (getLink s' n).unacked = x.unacked ∧ (getLink s' n).txSeq = x.txSeq ∧ (∀ m, m ≠ n → getLink s' m = getLink s m) ∧
    s' = { reported s s' with links := s'.links }) ∧
  (∀ t rest, idle → x.qU = t :: rest → t.from_ = none → t.fr.cls = 0 → x.uBeat + frameBytes t.fr ≤ 250 * x.width →
    replayFits x t.fr = true → frameCredits t.fr ≤ x.crU → ∃ s', exec (.frameBoundary l) s = .next s' ∧ fresh t (getLink s' n) ∧
    (getLink s' n).qU = rest ∧ (getLink s' n).qS = x.qS ∧ (getLink s' n).qB = x.qB ∧
    (getLink s' n).crU = x.crU - frameCredits t.fr ∧ (getLink s' n).uBeat = x.uBeat + frameBytes t.fr) ∧
  (∀ t rest, idle → x.qU = [] → x.qS = t :: rest → t.from_ = none → t.fr.cls = 1 → 0 < t.fr.units.toNat →
    64 * t.fr.units.toNat + x.sBeat ≤ sClaim s n → replayFits x t.fr = true → frameCredits t.fr ≤ x.crS →
    t.fr.payload.length = 64 * t.fr.units.toNat → ∃ s', exec (.frameBoundary l) s = .next s' ∧ fresh t (getLink s' n) ∧
    (getLink s' n).qS = rest ∧ (getLink s' n).crS = x.crS - frameCredits t.fr ∧
    (getLink s' n).sBeat = x.sBeat + 64 * t.fr.units.toNat) ∧
  (idle → x.qU = [] → x.qS = [] → markerDue x = true → s.flt.remap.left = [] → Gives (.frameBoundary l) s (modLink n (fun y => { y with
    wire := [.marker x.lanes (x.blocks / 20)], blocks := x.blocks + 1, marks := x.marks + 1 }) s)) ∧
  (∀ t rest, idle → x.qU = [] → x.qS = [] → markerDue x = false → x.qB = t :: rest → t.from_ = none → t.fr.cls = 2 →
    replayFits x t.fr = true → frameCredits t.fr ≤ x.crB → ∃ s', exec (.frameBoundary l) s = .next s' ∧ fresh t (getLink s' n) ∧
    (getLink s' n).qB = rest ∧ (getLink s' n).crB = x.crB - frameCredits t.fr) ∧
  (idle → x.qU = [] → x.qS = [] → x.qB = [] → markerDue x = false → s.flt.remap.left = [] →
    (x.ackOwed = true ∨ 0 < x.owedU + x.owedS + x.owedB → Gives (.frameBoundary l) s (modLink n (fun y => { y with
      ackOwed := false, owedU := 0, owedS := 0, owedB := 0, blocks := x.blocks + 1
      wire := [.ack ((x.rxSeq + 65535) % 65536) x.owedU x.owedS x.owedB] }) s)) ∧
    (x.ackOwed = false → x.owedU + x.owedS + x.owedB = 0 →
      Gives (.frameBoundary l) s (modLink n (fun y => { y with wire := [.idle], blocks := x.blocks + 1 }) s))) ∧
  (x.state = .up → x.unacked = [] → Gives (.replayTimeout l) s s) ∧
  (x.state = .up → x.unacked ≠ [] → let t := advanceTo (x.ackAt + 2000) s
    Gives (.replayTimeout l) s (modLink n (fun y => { y with
      replayQ := x.unacked, replays := x.replays + 1, ackAt := t.clk.fleet, errs := x.errs + 1 }) t))

/-- R175, R181 to R185, R187, R191: the states of a link. A training whose lanes make a width, with the partner that its
role asks for, brings the link Up with the partner's credits, other links change at most in U and B frames that wait
on them; otherwise, or where training fails, the link is Failed, reported, and drops what it held for replay. A fast
retrain ends in Up with such a partner, Failed with another, or after 50 µs in a full training; a Failed link trains
again; loss of signal on an active lane and LK_CMD bit 1 train fully; loss of block lock and LK_CMD bit 0 retrain
fast.

R167, R183: the width that a training gives: all four lanes, else lanes 0 and 1, else 2 and 3, else the lowest lane
that passes, within the configured maximum; no lane, no width. -/
def Obligations.LinkStates : Prop :=
  (∀ (l : Fin 8) (lanes : BitVec 4) (lane : Fin 4) (p : LinkParams) (k : BitVec 8) (s : State),
   let n := l.val
   let x := getLink s n
   let ok := partnerOk s x.role p.chip.toNat p.role.toNat
   let wd := widthOf (cfgVal s 0x0401) lanes.toNat
   (x.state = .train → boundary s = false → wd.1 = 0 ∨ ok = false →
     ∃ s', exec (.trainingComplete l lanes p) s = .next s' ∧ LinkFails s s' n) ∧
   (x.state = .train → boundary s = false → wd.1 ≠ 0 → ok = true →
     ∃ s', exec (.trainingComplete l lanes p) s = .next s' ∧ LinkComesUp s s' n p ∧
       (getLink s' n).width = wd.1 ∧ (getLink s' n).lanes = wd.2) ∧
   (x.state = .train → ∃ s', exec (.trainingFailed l k) s = .next s' ∧ LinkFails s s' n) ∧
   (x.state = .fastRetrain → ok = true → ∃ s', exec (.fastRetrainComplete l p) s = .next s' ∧ LinkComesUp s s' n p) ∧
   (x.state = .fastRetrain → ok = false → ∃ s', exec (.fastRetrainComplete l p) s = .next s' ∧ LinkFails s s' n) ∧
   (x.state = .fastRetrain → ∃ s', exec (.fastRetrainTimeout l) s = .next s' ∧ LinkGoes s s' n .train) ∧
   (x.state = .failed → ∃ s', exec (.failedRetry l) s = .next s' ∧ LinkGoes s s' n .train) ∧
   (x.state = .failed → ∃ s', exec (.fastRetrain l) s = .next s' ∧ LinkGoes s s' n .train) ∧
   (x.state = .failed → ∃ s', exec (.fullTraining l) s = .next s' ∧ LinkGoes s s' n .train) ∧
   (x.state = .up → ∃ s', exec (.lossOfBlockLock l) s = .next s' ∧ LinkGoes s s' n .fastRetrain) ∧
   (x.state = .up → ∃ s', exec (.fastRetrain l) s = .next s' ∧ LinkGoes s s' n .fastRetrain) ∧
   (x.state = .up → ∃ s', exec (.fullTraining l) s = .next s' ∧ LinkGoes s s' n .train) ∧
   (x.state = .up → bitAt x.lanes lane.val = true → ∃ s', exec (.lossOfSignal l lane) s = .next s' ∧ LinkGoes s s' n .train) ∧
   (x.state = .up → bitAt x.lanes lane.val = false → Gives (.lossOfSignal l lane) s s) ∧
   (x.state = .off ∨ x.state = .train ∨ x.state = .fastRetrain → Gives (.fastRetrain l) s s ∧ Gives (.fullTraining l) s s)) ∧
  (∀ (mx : Nat) (lanes : BitVec 4),
   let w := widthOf mx lanes.toNat
   let has := fun k : Nat => lanes.getLsbD k = true
   (mx = 1 ∨ mx = 2 ∨ mx = 4 → w.1 ≤ mx ∧ (w.1 = 0 ↔ lanes = 0) ∧ ∀ k, bitAt w.2 k = true → has k) ∧
   (4 ≤ mx → has 0 → has 1 → has 2 → has 3 → w = (4, 15)) ∧
   (2 ≤ mx → has 0 → has 1 → mx < 4 ∨ ¬has 2 ∨ ¬has 3 → w = (2, 3)) ∧
   (2 ≤ mx → has 2 → has 3 → ¬has 0 ∨ ¬has 1 → w = (2, 12)) ∧
   (∀ k, has k → (∀ j, j < k → ¬has j) → mx < 2 ∨ ((¬has 0 ∨ ¬has 1) ∧ (¬has 2 ∨ ¬has 3)) → w = (1, 2 ^ k)))

/-- R181, R182, R185, R208: the error count of a link starts again at each ms that it has not seen; at its limit a link
sends one waiting U frame that has credits, then retrains fast, or fully where a fast retrain was completed within 16
ms. The mirror check holds the CRCs of both copies and reports them. -/
def Obligations.LinkErrors : Prop := ∀ (l : Fin 8) (s : State),
  let n := l.val
  let x := getLink s n
  let last := s.clk.fleet / 1000000 * 1000000
  let t := advanceTo (if x.winFrom < last then last else last + 1000000) s
  let a := crc32c (memRead s.mem (cfgVal s 0x0606) (cfgVal s 0x0607))
  let b := crc32c (memRead s.mem (cfgVal s 0x0608) (cfgVal s 0x0607))
  Gives (.errorWindow l) s (modLink n (fun y => { y with errs := 0, winFrom := t.clk.fleet }) t) ∧
  (x.state ≠ .up ∨ x.errs < cfgVal s 0x0402 → Gives (.errorLimit l) s s) ∧
  (x.state = .up → cfgVal s 0x0402 ≤ x.errs → x.qU = [] → ∃ s', exec (.errorLimit l) s = .next s' ∧
    (x.lastFast = none → (getLink s' n).state = .fastRetrain ∧ (getLink s' n).fastRt = x.fastRt + 1) ∧
    (∀ t, x.lastFast = some t → t + 16000000 < s.clk.fleet → (getLink s' n).state = .fastRetrain) ∧
    (∀ t, x.lastFast = some t → s.clk.fleet ≤ t + 16000000 → (getLink s' n).state = .train) ∧
    (getLink s' n).wire = [.retrain (if (getLink s' n).state = .train then 2 else 1)] ∧
    s' = { reported s s' with links := s'.links }) ∧
  (∀ f rest, x.state = .up → cfgVal s 0x0402 ≤ x.errs → x.qU = f :: rest → x.replayQ = [] → replayFits x f.fr = true →
    frameCredits f.fr ≤ x.crU → ∃ s' g, exec (.errorLimit l) s = .next s' ∧ g.kind = f.fr.kind ∧ g.dst = f.fr.dst ∧
    (getLink s' n).wire = [.frame g (frameWire g), .retrain (if (getLink s' n).state = .train then 2 else 1)]) ∧
  Gives .mirrorCheck s (post 0x10 0x15 0 (leBytes 4 a ++ leBytes 4 b) { s with ring.mirCrc := a * 2 ^ 32 + b })

/-! ### Fences, Keeper messages, the restore of a slice (R209, R370 to R379) -/

/-- R369, R370, R372, R374 to R376, R378, R379: fence notices, Keeper messages and bulk copies. A notice fences the chip
that it names, unless it is this chip or fenced already. A Keeper message that no check fails waits for its swing;
another is refused with the lowest failing reason, and counted. A bulk copy outside a restore is discarded and
counted; one for HBM in a restore stands there. The source's notice completes a restore that waits for nothing else.

R375: FLT_KDST sends the 64 B of FLT_KSEND to the chip that it names; with 0xFFF the chip takes the message itself. -/
def Obligations.KeeperMessages : Prop :=
  (∀ (l : Fin 8) (fr : Frame) (v : BitVec 32) (s : State),
   let a := fr.arg.toNat
   let t := taken l fr s
   let r := s.flt.remap
   let m := kmsgOf fr.payload
   let why := keeperReason s fr.dst.toNat fr.payload
   let kept := s.flt.counters
   (Accepts s l fr 0x15 → bits a 60 4 = 1 →
     (isFenced s (bits a 0 12) = true ∨ bits a 0 12 = chipId s → Gives (.fenceNotice l fr) s t) ∧
     (isFenced s (bits a 0 12) = false → bits a 0 12 ≠ chipId s → s.flt.fences.length < 16 →
       ∃ s', exec (.fenceNotice l fr) s = .next s' ∧ s'.flt.fences = s.flt.fences ++ [⟨bits a 0 12, bits a 56 4⟩] ∧
         (bits a 0 12 ∈ neighbours s → s'.flt.flags &&& 64 = 64))) ∧
   (Accepts s l fr 0x15 → bits a 60 4 ≠ 1 → Gives (.fenceNotice l fr) s t) ∧
   (Accepts s l fr 0x14 → why = 0 → Gives (.keeperMessage l fr) s { t with
     flt.counters := (if 64 ≤ kept.length then kept.drop 1 else kept) ++ [m.counter]
     flt.waiting := s.flt.waiting ++ [⟨m.counter, m.swing, m.op, m.body⟩] }) ∧
   (Accepts s l fr 0x14 → why ≠ 0 → Gives (.keeperMessage l fr) s
     (post 0x0B 4 1 (leBytes 1 why ++ leBytes 1 m.op ++ leBytes 8 m.counter) { t with flt.krefused := s.flt.krefused + 1 })) ∧
   (Accepts s l fr 0x0C → r.target = false ∨ r.state ≠ 1 → Gives (.bulkCopy l fr) s
     (modLink l.val (fun y => { y with badKind := y.badKind + 1 }) t)) ∧
   (Accepts s l fr 0x0C → r.target = true → r.source = false → r.state = 1 → inHbm (bits a 0 48) fr.payload.length = true →
     ∃ s', exec (.bulkCopy l fr) s = .next s' ∧ s'.mem = memWrite s.mem (bits a 0 48) fr.payload ∧
       s'.flt.remap = { r with bytes := r.bytes + fr.payload.length } ∧ s'.jobs = s.jobs ∧ s'.streams = s.streams) ∧
   (Accepts s l fr 0x15 → bits a 60 4 = 2 → r.target = true → r.source = false → r.state = 1 →
     (r.needLd = true → r.loaded = false → Gives (.restoreDoneNotice l fr) s { t with flt.remap.op2 := true }) ∧
     (r.needLd = false ∨ r.loaded = true → ∃ s', exec (.restoreDoneNotice l fr) s = .next s' ∧
       s'.flt.remap = { r with op2 := true, state := 2 } ∧ s'.mem = s.mem ∧
       ∀ i y, (i, y) ∈ s.streams → i ∈ r.copied → y.state ≠ 0 → (i, { y with replay := true }) ∈ s'.streams)) ∧
   (bitAt v.toNat 0 = true → r.target = true → r.state = 1 → r.op2 = false →
     Gives (.loaded v) s { s with flt.remap.loaded := true }) ∧
   (bitAt v.toNat 0 = true → r.target = true → r.state = 1 → r.op2 = true → ∃ s', exec (.loaded v) s = .next s' ∧
     s'.flt.remap = { r with loaded := true, state := 2 }) ∧
   (bitAt v.toNat 0 = false ∨ r.target = false ∨ r.state ≠ 1 → Gives (.loaded v) s s)) ∧
  (∀ (v : BitVec 32) (s : State),
   let u := ksendBytes s
   (v.toNat % 4096 ≠ 0xFFF → Gives (.keeperSend v) s (sendU 0x14 (v.toNat % 4096) 0 u s)) ∧
   (v.toNat % 4096 = 0xFFF → keeperReason s 0xFFF u ≠ 0 → Gives (.keeperSend v) s
     (post 0x0B 4 1 (leBytes 1 (keeperReason s 0xFFF u) ++ leBytes 1 (kmsgOf u).op ++ leBytes 8 (kmsgOf u).counter)
       { s with flt.krefused := s.flt.krefused + 1 })) ∧
   (v.toNat % 4096 = 0xFFF → keeperReason s 0xFFF u = 0 → ∃ s', exec (.keeperSend v) s = .next s' ∧
     s'.flt.waiting = s.flt.waiting ++ [⟨(kmsgOf u).counter, (kmsgOf u).swing, (kmsgOf u).op, (kmsgOf u).body⟩]))

/-- R24, R188, R268, R289, R370, R377, R378, R381: each Keeper operation at its swing. The earliest waiting message of the
operation, by swing and then by Counter, no longer waits; fleet time is at its swing at least; and it does what its
body says: route entries, the ring's fields, the ramp fields and a handover at the new pool chip, a reward held for
its step, a fence, an end of a fence, a restore. What a partition's data plane sees of the ring and the routes changes
with none of them: it waits for a stop (R12, R24). -/
def Obligations.KeeperOperations : Prop := ∀ (s : State) (k : Keeper),
  let b := k.body
  let f := fun off n => bodyNat b off n
  let left := s.flt.waiting.erase k
  (nextKeeper s 1 = some k → ∃ s', exec .routeSet s = .next s' ∧ s'.flt.waiting = left ∧ k.swing ≤ s'.clk.fleet ∧
    s'.mem = s.mem ∧ s'.cfg = s.cfg ∧ s'.jobs = s.jobs ∧ s'.parts = s.parts ∧
    (∀ i, i < f 2 1 → tget 0 s'.routes (f 0 2 + i) = routeEntry (f (3 + i) 1)) ∧
    ∀ d, d < f 0 2 ∨ f 0 2 + f 2 1 ≤ d → tget 0 s'.routes d = tget 0 s.routes d) ∧
  (nextKeeper s 2 = some k → ∃ s', exec .ringSet s = .next s' ∧ s'.flt.waiting = left ∧ k.swing ≤ s'.clk.fleet ∧
    s'.mem = s.mem ∧ cfgVal s' 0x0601 = f 0 1 ∧ cfgVal s' 0x0602 = f 1 1 ∧ cfgVal s' 0x0603 = f 2 2 ∧
    cfgVal s' 0x0604 = f 4 2 ∧ cfgVal s' 0x0605 = f 6 1 ∧ s'.jobs = s.jobs ∧ s'.parts = s.parts ∧ s'.routes = s.routes ∧
    (∀ id, id < 0x0601 ∨ 0x0605 < id → cfgVal s' id = cfgVal s id) ∧
    ∀ n, n < 8 → (getLink s' n).role = roleAfter s b n) ∧
  (nextKeeper s 3 = some k → ∃ s', exec .poolSet s = .next s' ∧ s'.flt.waiting = left ∧ k.swing ≤ s'.clk.fleet ∧
    s'.mem = s.mem ∧ cfgVal s' 0x0A02 = f 0 2 ∧ cfgVal s' 0x0A03 = f 2 2 ∧ cfgVal s' 0x0A04 = f 4 2 ∧
    cfgVal s' 0x0A05 = f 8 4 ∧ cfgVal s' 0x0A06 = f 12 4 ∧ s'.rgl.poolChip = some (f 0 2) ∧
    (f 0 2 = chipId s → s'.rgl.epoch = (s.rgl.epoch + 1) % 65536 ∧ s'.rgl.pool.active = true ∧ s'.rgl.pool.frozen = true ∧
      s'.rgl.pool.leases = []) ∧
    (f 0 2 ≠ chipId s → s'.rgl.epoch = s.rgl.epoch ∧ isPool s' = false)) ∧
  (nextKeeper s 4 = some k → ∃ s', exec .keeperReward s = .next s' ∧ s'.flt.waiting = left ∧ k.swing ≤ s'.clk.fleet ∧
    s'.mem = s.mem ∧
    (buildBegun s (f 0 1) (f 4 4) = false → (tget [] s.cul.keeper (f 0 1)).length < 16 → tget [] s'.cul.keeper (f 0 1) =
      tget [] s.cul.keeper (f 0 1) ++ [⟨f 4 4, f 1 1, f 2 1, signed 32 (f 8 4)⟩] ∧ s'.cul.rewLate = s.cul.rewLate) ∧
    (buildBegun s (f 0 1) (f 4 4) = true ∨ 16 ≤ (tget [] s.cul.keeper (f 0 1)).length →
      s'.cul = { s.cul with rewLate := s.cul.rewLate + 1 })) ∧
  (nextKeeper s 5 = some k → ∃ s', exec .fenceChip s = .next s' ∧ s'.flt.waiting = left ∧ k.swing ≤ s'.clk.fleet ∧
    (isFenced s (f 0 2) = false → f 0 2 ≠ chipId s → s.flt.fences.length < 16 →
      s'.flt.fences = s.flt.fences ++ [⟨f 0 2, 4⟩])) ∧
  (nextKeeper s 6 = some k → ∃ s', exec .unfenceChip s = .next s' ∧ s'.flt.waiting = left ∧ k.swing ≤ s'.clk.fleet ∧
    s'.mem = s.mem ∧ s'.flt.fences = s.flt.fences.filter (fun x => x.chip != f 0 2) ∧
    (f 0 2 = chipId s → s'.flt.selfFence = false) ∧ (f 0 2 ≠ chipId s → s'.flt.selfFence = s.flt.selfFence)) ∧
  (nextKeeper s 7 = some k → ∃ s', exec .remapSlice s = .next s' ∧ s'.flt.waiting = left ∧ k.swing ≤ s'.clk.fleet ∧
    s'.mem = s.mem ∧ s'.flt.remap.peer = f 2 2 ∧
    (f 0 1 ≠ 1 → s'.flt.remap = { state := 1, target := true, needLd := decide (f 4 1 = 0), peer := f 2 2 }) ∧
    (f 0 1 = 1 → s'.flt.remap.source = true ∧ s'.flt.remap.target = false ∧ s'.flt.remap.left = restorePlan s b ∧
      (restorePlan s b ≠ [] → s'.flt.remap.state = 1)))

/-! ### Scrubbing, the Fault Unit, the Event Ring (R20 to R22, R365 to R368, R399) -/

/-- R363 to R365: a scrub pass starts at the end of its period and writes every correctable error of its memory back, each
one counted; lines with an uncorrectable error stay bad.

R366, R399: a write of FLT_SUM0 clears the W1C flags that it names, and no other. The ring's base and size are
written, 64 B aligned and between 6 and 20, while the ring is off, and empty it; while it is on they are ignored, and
reported. FLT_EVHEAD frees the entries up to its index, unless it would pass the tail. The first Enable after a reset
posts the configuration summary; in Loading a write of the Enable does nothing (R315, R334). -/
def Obligations.ScrubsAndEventRegisters : Prop :=
  (∀ (s : State),
   let per := 1000000 * cfgVal s 0x0301
   let hbm := s.ecc.softLines.filter fun k => decide (64 * k < 0xC_0000_0000)
   let vat := s.ecc.softLines.filter fun k => decide (0xC_0000_0000 ≤ 64 * k) && decide (64 * k < 0xC_0800_0000)
   (0 < per → hbmReady s = true → ∃ s', exec .scrubPass s = .next s' ∧ s.hbm.scrubFrom + per ≤ s'.clk.fleet ∧
     s'.hbm = { s.hbm with scrubs := s.hbm.scrubs + 1, scrubFrom := s'.clk.fleet } ∧
     s'.ecc = { s.ecc with softLines := s.ecc.softLines.filter fun k => !decide (64 * k < 0xC_0000_0000) } ∧
     s'.flt.eccCor = s.flt.eccCor + hbm.length ∧ s'.mem = s.mem ∧
     s'.flt.scrubLate = s.flt.scrubLate + (if s.hbm.scrubFrom + per < s.clk.fleet ∧ s.hbm.scrubs ≠ 0 then 1 else 0)) ∧
   (per = 0 ∨ hbmReady s = false → Gives .scrubPass s s) ∧
   (∃ s', exec .vatScrub s = .next s' ∧ s'.clk.fleet % 100000000 = 0 ∧ s.clk.fleet < s'.clk.fleet ∧
     s'.clk.fleet ≤ s.clk.fleet + 100000000 ∧ s'.ecc.badLines = s.ecc.badLines ∧
     (∀ k ∈ vat, k ∉ s'.ecc.softLines) ∧ s'.flt.eccCor = s.flt.eccCor + vat.length ∧
     s'.hbm = { s.hbm with vatScrubs := s.hbm.vatScrubs + 1 } ∧ s'.mem = s.mem)) ∧
  (∀ (v : BitVec 64) (w : BitVec 32) (s : State),
   let clears := fun j : Nat => j = 0 ∨ j = 4 ∨ j = 6 ∨ j = 8 ∨ j = 9
   let n := evSize s
   let to_ := fun h : Nat => (h + n - s.ev.head % n) % n
   let ignored := fun off : Nat => post 0x0B 7 1 (leBytes 4 off) s
   let empty := { s with ev.head := 0, ev.tail := 0, ev.phase := true }
   let set_ := { s with ev.enable := w.getLsbD 0, ev.irq := w.getLsbD 1 }
   (∃ g, Gives (.faultClear v) s { s with flt.flags := g } ∧
     ∀ j, bitAt g j = (bitAt s.flt.flags j && !(decide (clears j) && v.getLsbD j))) ∧
   (s.ev.enable = false → Gives (.eventRingSetup .base v) s { empty with ev.base := v.toNat / 64 * 64 }) ∧
   (s.ev.enable = false → Gives (.eventRingSetup .size v) s { empty with ev.size := max 6 (min 20 (v.toNat % 32)) }) ∧
   (s.ev.enable = true → Gives (.eventRingSetup .base v) s (ignored 0x0800) ∧
     Gives (.eventRingSetup .size v) s (ignored 0x0808)) ∧
   (s.ecc.badTables = [] → to_ (w.toNat % n) ≤ to_ s.ev.tail → Gives (.eventRingHead w) s { s with ev.head := w.toNat % n }) ∧
   (s.ecc.badTables = [] → to_ s.ev.tail < to_ (w.toNat % n) → Gives (.eventRingHead w) s (ignored 0x0810)) ∧
   (s.pwr.state = .loading → Gives (.eventRingEnable w) s s) ∧
   (s.pwr.state ≠ .loading → w.getLsbD 0 = false ∨ s.pwr.summaryPosted = true → Gives (.eventRingEnable w) s set_) ∧
   (s.pwr.state ≠ .loading → w.getLsbD 0 = true → s.pwr.summaryPosted = false →
     Gives (.eventRingEnable w) s (configSummary { set_ with pwr.summaryPosted := true })))

/-- R20 to R22: the collector takes the postings of a command in order of time, those of one time in ascending order of
their sources, each with the next Seq. While the ring is on and has room, an entry stands at its tail, 32 B, stamped
with the time of its posting, and the tail moves by one; the last free entry is never filled, and no other byte of
host memory changes. Otherwise the entry is dropped and counted. Seq moves in either case. A fault or a fatal error
pulls alert_n low and is logged; nothing else touches the Fault Unit. -/
def Obligations.EventCollector : Prop := ∀ (e e2 : Ev) (s : State),
  let n := evSize s
  let v := s.ev
  let room := v.enable = true ∧ (v.tail + 1) % n ≠ v.head
  let t := acceptEvent s e
  let entry := evBytes e v.seq e.time v.phase
  let idle := { s with ev.queue := [] }
  (entry.length = 32 ∧ bitAt (leNat entry) 0 = v.phase ∧ leNat ((entry.drop 1).take 1) = e.src % 2 ^ 8 ∧
    leNat ((entry.drop 2).take 2) = e.code % 2 ^ 16 ∧ leNat ((entry.drop 4).take 4) = v.seq % 2 ^ 32 ∧
    leNat ((entry.drop 8).take 8) = e.time % 2 ^ 64 ∧ (e.payload.length = 16 → entry.drop 16 = e.payload)) ∧
  (v.queue = [e] → collect s = evInterrupt (acceptEvent idle e)) ∧
  (v.queue = [e, e2] → collect s = evInterrupt
    (if e2.time < e.time ∨ e2.time = e.time ∧ e2.src < e.src then acceptEvent (acceptEvent idle e2) e else acceptEvent (acceptEvent idle e) e2)) ∧
  (room → memRead t.hostMem (v.base + 32 * v.tail) 32 = entry ∧
    (∀ a, a < v.base + 32 * v.tail ∨ v.base + 32 * v.tail + 32 ≤ a → memGet t.hostMem a = memGet s.hostMem a) ∧
    t.ev.tail = (v.tail + 1) % n ∧ t.ev.head = v.head ∧ t.ev.drop = v.drop ∧
    t.ev.phase = (if (v.tail + 1) % n = 0 then !v.phase else v.phase)) ∧
  (¬room → t.hostMem = s.hostMem ∧ t.ev.tail = v.tail ∧ t.ev.drop = v.drop + 1 ∧ t.ev.phase = v.phase) ∧
  t.ev.seq = (v.seq + 1) % 2 ^ 32 ∧ t = reported s t ∧
  (2 ≤ e.sev → t.smb.alertLow = true ∧ t.flt.logCnt = s.flt.logCnt + 1) ∧
  (e.sev < 2 → t.flt = s.flt ∧ t.smb = s.smb)

/-! ### The management ports (R338 to R361) -/

/-- R344, whoever owns the UART: the owner's read of UART_STAT shows ParityErr, FrameErr, Overrun and BreakDet and records
which were 1, in place of an earlier record. Its next read of UART_DATA clears exactly the recorded bits, with an
entry in the FIFO or without one, and keeps the others. A character that enters the FIFO with an error sets that
error's bit, and marks its entry; a bit set again after it was recorded is recorded no more, and so survives the
clear.

R341 to R345: the UART's registers. The owner's read takes the oldest entry and clears the flags that its last read of
the status showed; its writes queue a character, clear the attention, set the format, which the frame that RX takes at
the time does not see, and ask for a break. Another port reads 0 and changes nothing; its writes are ignored and
reported. -/
def Obligations.UartRegisters : Prop :=
  (∀ (p : Port) (data : List (Bool × Bool × Bool)) (par stop : Bool × Bool × Bool)
     (s : State),
   (ownsUart s p = true →
     (∃ t, exec (.uartStatRead p) s = .next t ∧ t.uart.rsq = s.uart.flags ∧ t.uart.flags = s.uart.flags ∧
       (s.uart.rx.length < 32 → s.uart.tx.length < 32 → ∀ j, j < 4 → bitAt t.uart.lastRead (16 + j) = bitAt s.uart.flags j)) ∧
     (∃ t, exec (.uartDataRead p) s = .next t ∧ t.uart.rsq = 0 ∧
       ∀ j, bitAt t.uart.flags j = (bitAt s.uart.flags j && !bitAt s.uart.rsq j))) ∧
   (uartRuns s = true → s.uart.inBreak = false → isBreak (rxFormat s).1 data par stop = false → s.uart.rx.length < 16 →
     ∃ t e, exec (.characterReceived data par stop) s = .next t ∧ t.uart.rx = s.uart.rx ++ [e] ∧ e = readFrame (rxFormat s).1 data par stop ∧
       ∀ j, bitAt t.uart.flags j = (bitAt s.uart.flags j || (j == 0 && e.parity) || (j == 1 && e.frame)) ∧
         bitAt t.uart.rsq j = (bitAt s.uart.rsq j && !((j == 0 && e.parity) || (j == 1 && e.frame))))) ∧
  (∀ (p : Port) (v : BitVec 32) (s : State),
   let u := s.uart
   let busy := u.sending ≠ none ∨ u.brkNow = true
   let word := match u.rx with
     | [] => 0
     | e :: _ => 2 ^ 31 + 2 ^ 10 * b2n e.brk + 2 ^ 9 * b2n e.frame + 2 ^ 8 * b2n e.parity + e.ch
   let ignored := fun off : Nat => post 0x0D 5 1 (leBytes 4 off ++ leBytes 1 (portNum p)) s
   let held := { u with rxCtrl := (rxFormat s).1, rxBaud := (rxFormat s).2, fmtNs := s.upNs }
   (ownsUart s p = true →
     (p ≠ .crown ∨ u.reported = false → Gives (.uartDataRead p) s { s with uart := { u with
       rx := u.rx.drop 1, flags := u.flags - (u.flags &&& u.rsq), rsq := 0, lastRead := word } }) ∧
     (16 ≤ u.tx.length → Gives (.uartDataWrite p v) s s) ∧
     (u.tx.length < 16 → busy → Gives (.uartDataWrite p v) s { s with uart.tx := u.tx ++ [v.toNat % 256] }) ∧
     (u.tx = [] → ¬busy → u.brkTx = none → Gives (.uartDataWrite p v) s { s with
       uart.sending := some (v.toNat % 256), uart.line := lineBits u.ctrl (v.toNat % 256), uart.txCtrl := u.ctrl
       uart.txBaud := u.baud }) ∧
     Gives (.uartStatRead p) s { s with uart.lastRead := uartStat s, uart.rsq := u.flags } ∧
     Gives (.attnClear p v) s { s with uart.attn := u.attn && !v.getLsbD 20 } ∧
     Gives (.uartFormatWrite p .ctrl v) s { s with uart := { held with ctrl := v.toNat % 32 } } ∧
     Gives (.uartFormatWrite p .baud v) s { s with uart := { held with baud := min 20833 (max 67 (v.toNat % 32768)) } } ∧
     (v.toNat % 65536 = 0 ∨ u.brkTx ≠ none → Gives (.uartBrktx p v) s s) ∧
     (v.toNat % 65536 ≠ 0 → u.brkTx = none →
       Gives (.uartBrktx p v) s { s with uart.brkTx := some (v.toNat % 65536), uart.brkNow := u.brkNow || u.sending.isNone })) ∧
   (ownsUart s p = false →
     Gives (.uartDataRead p) s { s with uart.lastRead := 0 } ∧ Gives (.uartStatRead p) s { s with uart.lastRead := uartStat s } ∧
     Gives (.uartDataWrite p v) s (ignored 0x0000) ∧ Gives (.attnClear p v) s (ignored 0x0008) ∧
     Gives (.uartFormatWrite p .ctrl v) s (ignored 0x0010) ∧ Gives (.uartFormatWrite p .baud v) s (ignored 0x0018) ∧
     Gives (.uartBrktx p v) s (ignored 0x0020)))

/-- R340, R343 to R349, R361: the UART's line, while the host owns it. A frame on TX is a start bit, the data bits LSB
first, a parity bit where the format has one, and stop bits. A character received, each bit of it the majority of
three samples, is queued, or lost and counted; its entry marks an error of its parity or its first stop bit; a frame
of low samples alone is a break. A break is queued, flagged and measured from its start bit's edge. It is an attention
from two frames to 250 ms, and with mgmt.uart_break_reset it asks at 250 ms for a management reset 10 µs later. When a
character is sent, or a break, the next one goes out. -/
def Obligations.UartLine : Prop := ∀ (ctrl x : Nat) (data : List (Bool × Bool × Bool)) (par stop : Bool × Bool × Bool)
    (cycles : Nat) (s : State),
  let u := s.uart
  let n := if bitAt ctrl 0 then 7 else 8
  let mode := bits ctrl 1 3
  let most := fun t : Bool × Bool × Bool => decide (2 ≤ b2n t.1 + b2n t.2.1 + b2n t.2.2)
  let ones := fun v : Nat => ((upFrom 0 n).filter fun k => bitAt v k).length
  let r := readFrame ctrl data par stop
  let e := readFrame (rxFormat s).1 data par stop
  let m := b2n e.parity + 2 * b2n e.frame
  let taken_ := { u with rxCtrl := (rxFormat s).1, rxBaud := (rxFormat s).2, rxHigh := true, waitIdle := false }
  let len := min (cycles / u.rxBaud) 0xFFFF
  let risen := { passUp (u.brkFrom + 5 * cycles) s with uart.inBreak := false, uart.rxHigh := true, uart.brkLen := len, uart.waitIdle := true
                                                        uart.rxCtrl := u.ctrl, uart.rxBaud := u.baud }
  let low := passUp (u.brkFrom + 250000000) s
  let broken := isBreak (rxFormat s).1 data par stop
  (isBreak ctrl data par stop = true ↔ r.ch = 0 ∧ most stop = false ∧ (mode ≠ 0 → most par = false)) ∧
  ((lineBits ctrl x).length = frameBits ctrl ∧ (lineBits ctrl x)[0]? = some false ∧
    (∀ k, k < n → (lineBits ctrl x)[k + 1]? = some (bitAt x k)) ∧
    (mode = 1 → (lineBits ctrl x)[n + 1]? = some (decide (ones x % 2 = 1))) ∧
    (mode = 2 → (lineBits ctrl x)[n + 1]? = some (decide (ones x % 2 = 0))) ∧
    (mode = 3 → (lineBits ctrl x)[n + 1]? = some true) ∧ (mode = 4 → (lineBits ctrl x)[n + 1]? = some false) ∧
    ∀ k, n + 1 + (if mode = 0 then 0 else 1) ≤ k → k < frameBits ctrl → (lineBits ctrl x)[k]? = some true) ∧
  (r.ch < 2 ^ n ∧ (∀ k, k < n → bitAt r.ch k = most (data.getD k (false, false, false))) ∧ r.brk = false ∧
    r.frame = !most stop ∧ (mode = 0 → r.parity = false) ∧
    (mode = 1 → r.parity = decide ((ones r.ch + b2n (most par)) % 2 = 1)) ∧
    (mode = 2 → r.parity = decide ((ones r.ch + b2n (most par)) % 2 = 0)) ∧
    (mode = 3 → r.parity = !most par) ∧ (mode = 4 → r.parity = most par)) ∧
  (uartRuns s = true → crownOwns s = false → u.reported = true →
    (u.inBreak = false → broken = true → exec (.characterReceived data par stop) s = exec .breakDetect s) ∧
    (u.inBreak = false → broken = false → u.rx.length < 16 → Gives (.characterReceived data par stop) s { s with uart := { taken_ with
      rx := u.rx ++ [e], flags := u.flags ||| m, rsq := u.rsq - (u.rsq &&& m) } }) ∧
    (u.inBreak = false → broken = false → 16 ≤ u.rx.length → ∃ s', exec (.characterReceived data par stop) s = .next s' ∧ s'.uart.rx = u.rx ∧
      s'.uart.rxLost = min (u.rxLost + 1) (2 ^ 32 - 1) ∧ s'.uart.flags = u.flags ||| 4 ∧ s'.uart.rsq = u.rsq - (u.rsq &&& 4) ∧
      s' = { reported s s' with uart := s'.uart }) ∧
    (u.inBreak = true → Gives (.characterReceived data par stop) s s ∧ Gives .breakDetect s s) ∧
    (u.inBreak = false → u.rx.length < 16 → Gives .breakDetect s { s with uart := { u with
      rxCtrl := (rxFormat s).1, rxBaud := (rxFormat s).2, rx := u.rx ++ [⟨0, true, false, false⟩], flags := u.flags ||| 8
      rsq := u.rsq - (u.rsq &&& 8), inBreak := true, rxHigh := false
      brkFrom := s.upNs - 5 * (rxFormat s).2 * (2 * (if bits (rxFormat s).1 1 3 = 0 then 9 - (rxFormat s).1 % 2 else 10 - (rxFormat s).1 % 2) + 1) / 2 } }) ∧
    (u.inBreak = true → cycles / u.rxBaud < 2 * frameBits u.rxCtrl → Gives (.breakEnd cycles) s risen) ∧
    (u.inBreak = true → 2 * frameBits u.rxCtrl ≤ cycles / u.rxBaud → cycles < 50000000 →
      Gives (.breakEnd cycles) s { post 0x0D 1 0 (leBytes 4 len) risen with uart.attn := true }) ∧
    (u.inBreak = true → 2 * frameBits u.rxCtrl ≤ cycles / u.rxBaud → 50000000 ≤ cycles → cfgVal s 0x0C04 ≠ 1 →
      Gives (.breakEnd cycles) s (post 0x0D 3 0 (leBytes 4 len) risen)) ∧
    (u.inBreak = true → cfgVal s 0x0C04 = 1 → s.pwr.mgmtResetDue = none →
      Gives .managementReset s (post 0x0D 2 1 [] { low with pwr.mgmtResetDue := some (low.clk.fleet + 10000) })) ∧
    (u.inBreak = false ∨ cfgVal s 0x0C04 ≠ 1 ∨ s.pwr.mgmtResetDue ≠ none → Gives .managementReset s s) ∧
    (∀ z, u.sending = some z → u.brkNow = false →
      (u.brkTx = none → u.tx = [] → Gives .characterSent s { s with uart.sending := none, uart.line := [] }) ∧
      (∀ y ys, u.brkTx = none → u.tx = y :: ys → Gives .characterSent s { s with
        uart.sending := some y, uart.line := lineBits u.ctrl y, uart.tx := ys, uart.txCtrl := u.ctrl, uart.txBaud := u.baud }) ∧
      (∀ k, u.brkTx = some k → Gives .characterSent s { s with uart.sending := none, uart.line := [], uart.brkNow := true })) ∧
    (u.brkNow = true → u.sending = none →
      (u.tx = [] → Gives .breakTxEnd s { s with uart.brkNow := false, uart.brkTx := none }) ∧
      (∀ y ys, u.tx = y :: ys → Gives .breakTxEnd s { s with
        uart.brkNow := false, uart.brkTx := none, uart.sending := some y, uart.line := lineBits u.ctrl y, uart.tx := ys
        uart.txCtrl := u.ctrl, uart.txBaud := u.baud })))

/-- R339, R400, R401: the console's commands, while it serves. r replies with the 8 bytes at an offset, s with the status,
rep with the report; w replies OK and has the write's effect at the offsets that R401 lists, and replies ERR without
one elsewhere. While the console does not serve, nothing happens. A character that the Crown takes is added to its
line; a CR ends the line, which is bad while it is longer than 80 characters or holds one received with an error. -/
def Obligations.ConsoleCommands : Prop := ∀ (off : BitVec 32) (v : BitVec 64) (s : State),
  let text := fun (s' : State) (bs : List Byte) => s'.con.reply = bs ∧ s'.con.command = none ∧
    s' = { reported s s' with uart := s'.uart, con := s'.con }
  (consoleServes s = true →
    (∃ s', exec (.consoleRead off) s = .next s' ∧ text s' (hexDigits 16 (regRead s off.toNat))) ∧
    (∃ s', exec .consoleStatus s = .next s' ∧ text s' (statusLine s)) ∧
    (∃ s', exec .consoleReport s = .next s' ∧ text s' (s.rep.lines.flatMap fun l => l ++ [0x0D, 0x0A])) ∧
    (consoleMay off.toNat = false → ∃ s', exec (.consoleWrite off v) s = .next s' ∧ text s' (strBytes "ERR")) ∧
    (s.pwr.state ≠ .loading → off.toNat = 0x3_0020 → ∃ s', exec (.consoleWrite off v) s = .next s' ∧ s'.con.reply = strBytes "OK" ∧
      s'.rgl = { s.rgl with cap := some (min (max 75 (v.toNat % 256)) (cfgVal s 0x0901)) }) ∧
    (s.pwr.state ≠ .loading → off.toNat = 0xB_0000 → ∃ s', exec (.consoleWrite off v) s = .next s' ∧ s'.con.reply = strBytes "OK" ∧
      s'.flt.flags = (writeSum0 v.toNat s).flt.flags)) ∧
  (∀ e rest, ownsUart s .crown = true → s.uart.reported = true → s.uart.rx = e :: rest → e.brk = false →
    ∃ s', exec (.uartDataRead .crown) s = .next s' ∧ s'.uart.rx = rest ∧
      (e.ch % 256 ∉ [0x08, 0x0D, 0x7F] → s'.con.line = s.con.line ++ [BitVec.ofNat 8 e.ch] ∧
        s'.con.bad = s.con.bad ++ [e.parity || e.frame]) ∧
      (e.ch % 256 ∈ [0x08, 0x7F] → s'.con.line = s.con.line.dropLast ∧ s'.con.bad = s.con.bad.dropLast) ∧
      (e.ch % 256 = 0x0D → s'.con.line = [] ∧ s'.con.bad = [] ∧
        (80 < s.con.line.length ∨ e.parity = true ∨ e.frame = true ∨ true ∈ s.con.bad →
          s'.con.reply = strBytes "ERR LINE" ∧ s'.con.command = none) ∧
        (s.con.line.length ≤ 80 → e.parity = false → e.frame = false → true ∉ s.con.bad →
          (knownLine s.con.line = true → s'.con.command = some s.con.line) ∧
          (knownLine s.con.line = false → s'.con.reply = strBytes "ERR CMD")))) ∧
  (consoleServes s = false → Gives (.consoleRead off) s s ∧ Gives (.consoleWrite off v) s s ∧ Gives .consoleStatus s s ∧
    Gives .consoleReport s s)

/-- R353: whatever is commanded, a shed that begins and a fault or fatal event that enters the Fault Unit's log pull
alert_n low, also after an earlier release. An alert response releases it, and replies with the target's address in
bits [7:1].

R350 to R353: the SMBus target. A read replies with one snapshot of what its command names; a write has its effect
with a right PEC byte, or with none where mgmt.smbus_pec does not ask for one, and is otherwise discarded, counted and
reported, with a NACK for a wrong PEC byte; an unknown command is NACKed; an alert response releases alert_n; a time-
out is counted. While the target does not run, nothing happens. -/
def Obligations.SmbusCommands : Prop :=
  (∀ (c : Instr) (s t : State), exec c s = .next t →
   (s.rgl.shedding = false → t.rgl.shedding = true → t.smb.alertLow = true) ∧
   (s.flt.logCnt < t.flt.logCnt → t.smb.alertLow = true) ∧
   (c = .alertResponse → smbRuns s = true → Collected s →
     t.smb.alertLow = false ∧ t.smb.reply = [BitVec.ofNat 8 (2 * s.pwr.smbAddr)])) ∧
  (∀ (b : BitVec 8) (w : BitVec 32) (pec : Option (BitVec 8)) (code : Option (BitVec 8)) (s : State),
   let told := fun bs : List Byte => { s with smb.reply := bs, smb.nack := false }
   let good := fun bs : List Byte => match pec with
     | some c => c.toNat = pecOf s bs
     | none => cfgVal s 0x0C05 ≠ 1
   let bad := fun k : Nat => post 0x0E 1 1 (leBytes 1 k) { s with smb.err := s.smb.err + 1, smb.nack := pec.isSome }
   let block := 0x40 :: 4 :: leBytes 4 w.toNat
   (smbRuns s = true →
     Gives .smbusSerial s (told (leBytes 8 (cfgSerial s) ++ leBytes 1 (cfgOtp s))) ∧
     Gives .smbusStatus s (told (leBytes 2 (smbWord s))) ∧ Gives .smbusTelemetry s (told (smbTelemetry s)) ∧
     Gives .smbusFaultSummary s (told (faultSummary s)) ∧
     Gives .smbusShedRead s (told [BitVec.ofNat 8 (b2n s.rgl.shedReq)]) ∧
     Gives .smbusRegisterRead s (told (leBytes 8 (regRead s s.smb.offset))) ∧
     (good [0x30, b] → Gives (.smbusShedWrite b pec) s (writeShedReq (b.getLsbD 0) { s with smb.nack := false })) ∧
     (¬good [0x30, b] → Gives (.smbusShedWrite b pec) s (bad 0x30)) ∧
     (good block → Gives (.smbusOffsetWrite w pec) s { s with smb.offset := w.toNat, smb.nack := false }) ∧
     (¬good block → Gives (.smbusOffsetWrite w pec) s (bad 0x40)) ∧
     (b.toNat ∉ [0x01, 0x02, 0x10, 0x20, 0x30, 0x40, 0x41] →
       Gives (.smbusUnknownCommand b) s { s with smb.reply := [], smb.nack := true }) ∧
     Gives .alertResponse s { s with smb.alertLow := false, smb.nack := false, smb.reply := [BitVec.ofNat 8 (2 * s.pwr.smbAddr)] } ∧
     Gives (.smbusTimeout code) s (post 0x0E 2 1 (leBytes 1 ((code.map (·.toNat)).getD 255))
       { s with smb.err := s.smb.err + 1, smb.reply := [] })) ∧
   (smbRuns s = false → ∀ i, i ∈ [Instr.smbusSerial, .smbusStatus, .smbusTelemetry, .smbusFaultSummary, .smbusShedWrite b pec,
     .smbusShedRead, .smbusOffsetWrite w pec, .smbusRegisterRead, .smbusUnknownCommand b, .alertResponse, .smbusTimeout code] →
     Gives i s s))

/-- R358 to R360: the TAP's instructions while VDD_AON is up. Those of boundary scan, from outside it, drive the outputs,
and take every link and the PCIe link down; CLAMP and HIGHZ do so with the cells as they are; from inside it a change
among them changes the TAP alone. IDCODE, SAMPLE/PRELOAD, BYPASS and a reset from outside it change the TAP alone.
OTP_PROG sets fuses of SecFlags, and of the key's fields while JtagLock is clear, and clears none. DEBUG acts as
BYPASS while it is locked, and otherwise reads or writes a register of a TP or the register space; in Loading it
writes no register of a TP (R315). -/
def Obligations.JtagInstructions : Prop := ∀ (cells more : List Bool) (off : BitVec 9) (b : BitVec 8) (wr : Bool) (addr : BitVec 36)
    (v : BitVec 64) (s : State), s.pwr.vddAon = true →
  let tap := fun (i : TapInstr) => { s.tap with ir := i, hiZ := decide (i = .highz) }
  let down := fun (i : Instr) (t : Tap) => ∃ s', exec i s = .next s' ∧ s'.tap = t ∧ s'.pcie.up = false ∧ s'.pcie.training = false ∧
    (∀ n, n < 8 → (getLink s' n).state ≠ .up ∧ (getLink s' n).state ≠ .fastRetrain) ∧ s'.mem = s.mem ∧ s'.otp = s.otp
  (boundary s = false →
    Gives .tapReset s { s with tap := { tap .idcode with data := 0 } } ∧
    Gives .idcode s { s with tap := { tap .idcode with data := idWord } } ∧
    Gives (.samplePreload cells more) s { s with tap := { tap .samplePreload with sample := cells, cells := more } } ∧
    Gives .bypass s { s with tap := { tap .bypass with data := 0 } } ∧
    down (.extest cells) { tap .extest with cells := cells } ∧ down .clamp { tap .clamp with data := 0 } ∧
    down .highz { tap .highz with data := 0 } ∧ down (.extestPulse cells) { tap .extestPulse with cells := cells } ∧
    down (.extestTrain cells) { tap .extestTrain with cells := cells }) ∧
  (boundary s = true →
    Gives (.extest cells) s { s with tap := { tap .extest with cells := cells } } ∧
    Gives .clamp s { s with tap := { tap .clamp with data := 0 } } ∧ Gives .highz s { s with tap := { tap .highz with data := 0 } } ∧
    Gives (.extestPulse cells) s { s with tap := { tap .extestPulse with cells := cells } } ∧
    Gives (.extestTrain cells) s { s with tap := { tap .extestTrain with cells := cells } }) ∧
  (boundary s = false →
    (mayBurn s off.toNat = true →
      Gives (.otpProg off b) s { s with tap := tap .otpProg, otp := memPut s.otp off.toNat (memGet s.otp off.toNat ||| b) }) ∧
    (mayBurn s off.toNat = false → Gives (.otpProg off b) s { s with tap := tap .otpProg }) ∧
    (debugLocked s = true → Gives (.debug wr addr v) s { s with tap := { tap .bypass with data := 0 } }) ∧
    (debugLocked s = false → mgmtRuns s = true →
      let a := addr.toNat / 8 * 8
      let held := fun d : Nat => { s with tap := { tap .debug with data := d } }
      (debugReach a = false → Gives (.debug wr addr v) s (held 0)) ∧
      (debugReach a = true → a < 0xF_C000_0000 → s.pwr.state = .loading → Gives (.debug true addr v) s { s with tap := tap .debug }) ∧
      (debugReach a = true → a < 0xF_C000_0000 → s.pwr.state ≠ .loading → Gives (.debug true addr v) s
        { s with tap := tap .debug, mem := memWrite s.mem a (leBytes 8 v.toNat) }) ∧
      (debugReach a = true → a < 0xF_C000_0000 → Gives (.debug false addr v) s (held (memNat s.mem a 8))) ∧
      (debugReach a = true → 0xF_C000_0000 ≤ a → Gives (.debug false addr v) s (held (regRead s (a - 0xF_C000_0000))))))

/-! ### Boot, pins and power (R23, R230, R283, R309 to R320, R348, R396, R407 to R422) -/

/-- R316, R319, R320, R348, R396, R408, R409, R411: the resets. Where por_n rises with the supply up, the straps are
sampled, the OTP is read and checked, and Loading begins. Its fall puts every domain but AON at its reset values, as a
management reset does 10 µs after its request, which then loads again; the fall of VDD_AON resets the TAP as well.
Fuses, host memory and the queue stay. -/
def Obligations.Resets : Prop := ∀ (spi hv : Bool) (adr : BitVec 2) (s : State),
  Collected s →
  let kept := fun s' : State => s'.otp = s.otp ∧ s'.hostMem = s.hostMem ∧ s'.pending = s.pending
  let cleared := fun s' : State => s'.mem = [] ∧ s'.cfg = [] ∧ s'.routes = [] ∧ s'.parts = [] ∧ s'.stms = [] ∧ s'.jobs = [] ∧
    s'.accts = [] ∧ s'.tps = [] ∧ s'.cls = [] ∧ s'.blk = {} ∧ s'.cul = {} ∧ s'.streams = [] ∧ s'.links = [] ∧ s'.net = {} ∧
    s'.ring = {} ∧ s'.esc = {} ∧ s'.rgl = {} ∧ s'.tel = {} ∧ s'.con = {} ∧ s'.smb = {} ∧ s'.pmb = {} ∧ s'.hbm = {} ∧
    s'.ecc = {} ∧ s'.vat = [] ∧ s'.ev = {} ∧ s'.rep = {} ∧ s'.clk = {} ∧ s'.upNs = 0 ∧ s'.pwr.state = .loading ∧ s'.pwr.handedOver = false
  let loads := fun s' : State => s'.pwr.state = .loading ∧ s'.pwr.otpLoaded = true ∧ s'.pwr.otpCopy = s.otp ∧
    s'.pwr.factoryOk = factoryMatches s ∧ s'.pwr.keyValid = keyMatches s ∧ s'.pcie.rrs = true
  (s.pwr.vddAon = true → s.pwr.porN = false → s.pwr.thermtrip = false →
    ∃ s', exec (.porRelease spi adr hv) s = .next s' ∧ kept s' ∧ loads s' ∧ s'.pwr.porN = true ∧
      s'.pwr.smbAddr = 0x4C + adr.toNat ∧ s'.pwr.spiOk = decide (spi = hv)) ∧
  (s.pwr.vddAon = false ∨ s.pwr.porN = true ∨ s.pwr.thermtrip = true → Gives (.porRelease spi adr hv) s s) ∧
  (∃ s', exec .porAssert s = .next s' ∧ kept s' ∧ cleared s' ∧ s'.flt = {} ∧ s'.uart = {} ∧ s'.tap = s.tap ∧
    s'.pwr.porN = false ∧ s'.pwr.thermtrip = s.pwr.thermtrip ∧ s'.pwr.perstN = s.pwr.perstN) ∧
  (∀ d, s.pwr.mgmtResetDue = some d → ∃ s', exec .managementResetAssert s = .next s' ∧ kept s' ∧ cleared s' ∧ loads s' ∧
    s'.tap = s.tap ∧ s'.pwr.porN = s.pwr.porN ∧ s'.pwr.mgmtResetDue = none) ∧
  (∃ s', exec .vddAonFall s = .next s' ∧ kept s' ∧ cleared s' ∧ s'.tap = {} ∧ s'.pwr.vddAon = false ∧ s'.pwr.porN = false ∧
    s'.pwr.thermtrip = false ∧ s'.pwr.rampSyncHeld = false) ∧
  (s.pwr.vddAon = false → Gives .vddAonRise s
    { s with tap := {}, pwr.vddAon := true, pwr.rampSyncHeld := true, pwr.porN := false }) ∧
  (s.pwr.vddAon = true → Gives .vddAonRise s s)

/-- R23, R318, R323, R327, R330 to R332, R364, R366: the handover. The configuration that the image gives is in force,
clamped and adjusted; the report holds its outcome; the device is Starting, at duty 8 where a shed is asked for, or
Holding at duty 8, fatal and without training links.

R327, R335: after range checking a value of a configuration field is a permitted one, and a permitted value is not
changed. -/
def Obligations.Handovers : Prop :=
  (∀ (fl : Flash) (vm : BitVec 8) (s : State),
   let x := loadImage (fl.sfdp && s.pwr.spiOk) fl s.pwr.factoryOk (jtagLock s) (bar2Lock s)
   mgmtRuns s = true → s.pwr.otpLoaded = true → s.pwr.handedOver = false → ∃ s', exec (.handover fl vm) s = .next s' ∧
     s'.cfg = cfgOf x.fields ∧ s'.routes = x.routes ∧ s'.pwr.handedOver = true ∧ s'.mem = s.mem ∧ s'.otp = s.otp ∧ s'.jobs = s.jobs ∧
     s'.rep.source = x.source ∧ s'.rep.primary = x.primary ∧ s'.rep.golden = x.golden ∧ s'.rep.endStatus = x.ends ∧
     s'.rep.table = reportTable x (s.upNs / 1000 % 2 ^ 32) (cfgOtp s % 1024) ∧ s'.pmb.mode = vm.toNat ∧
     (x.holds = true → s'.pwr.state = .holding ∧ s'.rgl.duty = 8 ∧ s'.flt.flags &&& 6 = 6) ∧
     (x.holds = false → s'.pwr.state = .starting ∧ (shedSources s = 0 → s'.rgl.duty = 64) ∧
       (shedSources s ≠ 0 → s.rgl.shedding = false → s'.rgl.shedding = true ∧ s'.rgl.duty = 8) ∧
       ∀ n, n < 8 → cfgVal s' (0x0410 + n) ≠ 0 → (getLink s' n).state = .train) ∧
     ∀ n, n < 8 → (getLink s' n).role = cfgVal s' (0x0410 + n)) ∧
  (∀ (f : Field) (v : Nat), f ∈ catalogue → f.rule ≠ .any →
   fieldPermits f (fieldClamp f v).1 = true ∧ (fieldPermits f v = true → fieldClamp f v = (v, false)) ∧
   (f.rule = .d → fieldPermits f v = false → fieldClamp f v = (f.dflt, true)) ∧
   (f.rule = .c → f.hi < v → (fieldClamp f v).1 = f.hi))

/-- R283, R318, R376, R418: a stack that ends its initialisation is ready, and reads 0 where a boot asks for it; one that
fails keeps the device from Running. The refresh timer starts with the first stack that is ready (R33). With both
stacks ready and fleet time Locked the device is Running, releases ramp_sync and waits for its start instant; Keeper
messages older than that entry are refused. -/
def Obligations.EntryToRunning : Prop := ∀ (k : Fin 2) (st : BitVec 8) (s : State),
  let x := if k.val = 0 then s.hbm.stack0 else s.hbm.stack1
  let put := fun y : Stack => if k.val = 0 then { s.hbm with stack0 := y } else { s.hbm with stack1 := y }
  let zero := cfgVal s 0x0302 = 1 ∧ s.pwr.woke = false
  (s.pwr.state = .starting → x.inited = false → x.failed = false →
    (∃ s', exec (.hbmInitComplete k none) s = .next s' ∧
      s'.hbm = { put { x with inited := true, zeroFilled := x.zeroFilled || decide zero } with
        refFrom := some (s.hbm.refFrom.getD s.upNs) } ∧ s'.pwr = s.pwr ∧ s'.jobs = s.jobs ∧
      ∀ a, memGet s'.mem a = if zero ∧ a < 0xC_0000_0000 ∧ hbmChannel a / 32 = k.val then 0 else memGet s.mem a) ∧
    (∃ s', exec (.hbmInitComplete k (some st)) s = .next s' ∧ s'.hbm = put { x with failed := true } ∧
      s'.pwr = { s.pwr with hbmFail := true } ∧ s'.flt.flags &&& 8 = 8 ∧ s'.mem = s.mem)) ∧
  (s.pwr.state ≠ .starting ∨ x.inited = true ∨ x.failed = true → Gives (.hbmInitComplete k none) s s ∧
    Gives (.hbmInitComplete k (some st)) s s) ∧
  (s.pwr.state ≠ .starting → Gives .enterRunning s s) ∧
  (s.pwr.state = .starting → hbmReady s = true → s.esc.state = .locked → Gives .enterRunning s { s with
    pwr.state := .running, pwr.rampSyncHeld := false, pwr.rampSyncNet := false, flt.kfloor := s.clk.fleet
    hbm.scrubFrom := s.clk.fleet, rgl.waitTs := true, rgl.heldDraw := s.rgl.cal, rgl.ts := none, rgl.syncAt := none }) ∧
  (s.pwr.state = .starting → hbmReady s = false ∨ s.esc.state ≠ .locked → Gives .enterRunning s s)

/-- R230, R272, R317, R416 to R419: PCIe's pins and messages. perst_n low takes the link down: with the conditions of
Dormant the device begins its descent, outside Loading and Dormant it is otherwise an FLR of every function. Its rise,
and the end of an FLR, let the link train; a trained link serves requests from the handover on, within its limits. A
wake in Dormant begins the stagger, and at its end the device is Starting.

R413, R421, R422: a thermal trip stops the clocks and takes PCIe down; the loss of the reference clock stops issue
until por_n falls; a stack's temperature at 85 °C or more, and its fall below 80 °C, are reported once each. -/
def Obligations.PinsAndThermalEvents : Prop :=
  (∀ (fn : Fin 9) (gen : BitVec 3) (width : BitVec 5) (s : State),
   let low := fun s' : State => s'.pwr.perstN = false ∧ s'.pcie.up = false ∧ s'.pcie.training = false ∧ s'.pcie.rrs = true
   (∃ s', exec .perstNAssert s = .next s' ∧ low s' ∧ ((∀ p, p < 8 → servingJob s p = none) → s'.mem = s.mem) ∧
     (s.pwr.state ≠ .loading → s.pwr.state ≠ .dormant → dormantReady s = true → s'.pwr.entering = true ∧ s'.stms = s.stms) ∧
     (s.pwr.state ≠ .loading → s.pwr.state ≠ .dormant → dormantReady s = false → s'.pcie.aerUr = 0 ∧ s'.pcie.aerUnc = 0 ∧
       s'.pwr.d3hot = false ∧ s'.pwr.pmeAcked = false ∧ s'.pwr.entering = s.pwr.entering ∧
       ∀ p, p < 8 → (getPart s p).enabled = true →
         (getStm s' p).pepoch = ((getStm s p).pepoch + 1) % 65536)) ∧
   (s.pwr.state ≠ .dormant → s.pwr.entering = false → s.pwr.porN = true → s.pcie.up = false → s.pwr.thermtrip = false →
     Gives .perstNRelease s { s with pwr.perstN := true, pcie.rrs := true, pcie.training := true }) ∧
   (s.pwr.state = .dormant → s.pwr.wakeDue = none → s.pwr.entering = false →
     let due := some (s.upNs + chipId s % cfgVal s 0x0907 * (cfgVal s 0x0908 * 100000))
     Gives .perstNRelease s { s with pwr.perstN := true, pwr.wakeDue := due } ∧ Gives .wake s { s with pwr.wakeDue := due }) ∧
   (s.pwr.entering = true → Gives .wake s { s with pwr.wakePending := true }) ∧
   (s.pcie.up = true → Gives .pmeTurnOff s { s with pwr.pmeAcked := true } ∧ Gives .d3hot s { s with pwr.d3hot := true }) ∧
   (s.pcie.up = false → Gives .pmeTurnOff s s ∧ Gives .d3hot s s) ∧
   (s.pcie.training = true → Gives (.pcieLinkUp gen width) s { s with
     pcie.up := true, pcie.training := false, pcie.rrs := !s.pwr.handedOver
     pcie.gen := if s.pwr.handedOver then min gen.toNat (cfgVal s 0x0D01) else gen.toNat
     pcie.width := if s.pwr.handedOver then min width.toNat (cfgVal s 0x0D02) else width.toNat }) ∧
   (s.pcie.training = false → Gives (.pcieLinkUp gen width) s s) ∧
   (∀ d, s.pwr.wakeDue = some d → ∃ s', exec .dormantExit s = .next s' ∧ s'.pwr.state = .starting ∧ s'.pwr.loadsOff = 0 ∧
     s'.pwr.wakeDue = none ∧ s'.pwr.rampSyncHeld = true ∧ d ≤ s'.upNs ∧ s'.mem = s.mem ∧ s'.jobs = s.jobs) ∧
   (fn.val ≠ 0 → cfgVal s 0x0D03 ≠ 1 → Gives (.flr fn) s s) ∧
   (fn.val = 0 ∨ cfgVal s 0x0D03 = 1 → ∃ s', exec (.flr fn) s = .next s' ∧
     (∀ l ∈ s'.cul.leases, l ∈ s.cul.leases ∧ (s.cul.leases.Nodup → l.fn ≠ fn.val)) ∧
     (0 < fn.val → (getPart s (fn.val - 1)).enabled = true →
       (getStm s' (fn.val - 1)).pepoch = ((getStm s (fn.val - 1)).pepoch + 1) % 65536 ∧ (getStm s' (fn.val - 1)).pend = []))) ∧
  (∀ (t0 t1 : BitVec 16) (s : State),
   let hot := fun (x : Stack) (t : BitVec 16) => if 680 ≤ t.toInt then true else if t.toInt < 640 then false else x.hot
   (s.pwr.vddAon = true → Gives .thermtrip s { s with pwr.thermtrip := true, pcie.up := false, pcie.training := false }) ∧
   (s.pwr.porN = true → Gives .refclkLoss s { s with pwr.refclkLost := true }) ∧
   (samples s = true → ∃ s', exec (.hbmTemperatureRead t0 t1) s = .next s' ∧ s'.clk.fleet % 1000000 = 0 ∧
     s.clk.fleet < s'.clk.fleet ∧ s'.clk.fleet ≤ s.clk.fleet + 1000000 ∧
     s'.hbm = { s.hbm with stack0.hot := hot s.hbm.stack0 t0, stack1.hot := hot s.hbm.stack1 t1 } ∧
     s' = { reported s s' with upNs := s'.upNs, clk := s'.clk, hbm := s'.hbm }) ∧
   (samples s = false → Gives (.hbmTemperatureRead t0 t1) s s))

/-! ### The host's accesses (R24, R60, R364, R391 to R401) -/

/-- R60, R364, R393: BAR2. It comes behind the thread accesses that are on their way to a Vat (R66). A write of HBM and
Vat bytes with good check bits, that touches no running job's ranges, stands there, and a read returns the bytes; a
read that meets a bad line is poisoned. Where nothing answers a read returns 0 and a write is dropped. Where a running
job's range is touched the whole write is dropped and reported. In register space an access other than 4 or 8 bytes at
its alignment is an Unsupported Request, as through BAR0: dropped, counted and reported. -/
def Obligations.HostMemory : Prop := ∀ (req : BitVec 16) (addr : BitVec 36) (data : List Byte) (len : Nat) (off n : BitVec 32) (wr : Bool)
    (s : State),
  let a := addr.toNat
  let u := serveAll s
  let refused := fun (o k : Nat) (w : Bool) => post 0x0F 1 1 (leBytes 2 req.toNat ++ leBytes 4 o ++ leBytes 4 k) { s with
    pcie.aerUr := s.pcie.aerUr + 1
    pcie.last := if w then s.pcie.last else some { data := [], poisoned := false, unsupported := true } }
  let all := fun k does : Nat => ∀ x, a ≤ x → x < a + k → bar2Byte s x = does
  let good := fun bs : List Byte => some { data := bs, poisoned := false, unsupported := false : Completion }
  (isRegister a = false →
    (all data.length 0 → jobTouched s a data.length = none → s.ecc.badLines = [] →
      ∃ s', exec (.bar2Write req addr data) s = .next s' ∧ s'.mem = memWrite u.mem a data ∧ s'.tps = u.tps ∧ s'.jobs = u.jobs ∧
        s'.pcie.last = s.pcie.last) ∧
    (all data.length 1 → jobTouched s a data.length = none → s.ecc.badLines = [] →
      ∃ s', exec (.bar2Write req addr data) s = .next s' ∧ s'.mem = u.mem ∧ s'.pcie.last = s.pcie.last) ∧
    (∀ j, jobTouched s a data.length = some j →
      Gives (.bar2Write req addr data) s (post 0x0F 3 1 (leBytes 2 req.toNat ++ leBytes 8 a ++ leBytes 1 j) u)) ∧
    (0 < len → all len 0 → s.ecc.badLines = [] → ∃ s', exec (.bar2Read req addr len) s = .next s' ∧
      s'.mem = u.mem ∧ s'.pcie.last = good (memRead u.mem a len)) ∧
    (0 < len → all len 1 → ∃ s', exec (.bar2Read req addr len) s = .next s' ∧
      s'.mem = u.mem ∧ s'.pcie.last = good (List.replicate len 0)) ∧
    (0 < len → all len 0 → a / 64 ∈ u.ecc.badLines → ∃ s' d, exec (.bar2Read req addr len) s = .next s' ∧
      s'.mem = u.mem ∧ s'.pcie.last = some { data := d, poisoned := true, unsupported := false } ∧ d.length = len ∧
      s'.pcie.poison = s.pcie.poison + 1 ∧ s.flt.eccUnc < s'.flt.eccUnc)) ∧
  (isRegister a = true → ¬((data.length = 4 ∧ a % 4 = 0) ∨ (data.length = 8 ∧ a % 8 = 0)) →
    Gives (.bar2Write req addr data) s (refused (a - 0xF_C000_0000) data.length true)) ∧
  (isRegister a = true → ¬((len = 4 ∧ a % 4 = 0) ∨ (len = 8 ∧ a % 8 = 0)) →
    Gives (.bar2Read req addr len) s (refused (a - 0xF_C000_0000) len false)) ∧
  (isRegister a = true ↔ 0xF_C000_0000 ≤ a ∧ a < 0xF_C400_0000) ∧
  Gives (.bar0UnsupportedAccess req off n wr) s (refused off.toNat n.toNat wr)

/-- R24, R214, R230, R234, R235, R278, R366, R393 to R401: a register write by the physical function at a register's
offset is the command of that register; in Loading it reaches the UART alone (R315). The route table and the ring's
identity are protected: a write of the physical function or of SMBus is dropped and reported. A virtual function
reaches its own partition's rings alone, SMBus RGL_SHEDREQ alone, and a write of another alignment does nothing. -/
def Obligations.RegisterWrites : Prop := ∀ (v : BitVec 64) (wide : Bool) (off : BitVec 32) (s : State),
  let lo := v.setWidth 32
  let write := fun (o : Nat) => exec (.registerWrite .pf (BitVec.ofNat 32 o) true v) s
  (s.pwr.state ≠ .loading →
    write 0x3_0020 = exec (.capWrite lo) s ∧ write 0x3_0040 = exec (.shedRequest lo) s ∧
    write 0xB_0000 = exec (.faultClear v) s ∧ write 0xB_0440 = exec (.keeperSend lo) s ∧ write 0xB_0450 = exec (.loaded lo) s ∧
    write 0xB_0800 = exec (.eventRingSetup .base v) s ∧ write 0xB_0828 = exec (.eventRingEnable lo) s ∧
    write 0x9_0228 = exec (.culResumestep v) s ∧ write 0x9_0200 = exec (.culSnreq 0 v) s ∧ write 0x9_0218 = exec (.culSnrel 0 v) s ∧
    (v.getLsbD 0 = true → write 0x10_8030 = exec .mirrorCheck s) ∧
    (∀ n : Fin 8, v = 1 → write (0x10_0008 + 0x1_0000 * n.val) = exec (.fastRetrain n) s) ∧
    (∀ n : Fin 8, v = 2 → write (0x10_0008 + 0x1_0000 * n.val) = exec (.fullTraining n) s) ∧
    (∀ (j : Fin 64) (c : Nat) (i : Instr), (c, i) ∈ [(1, Instr.install j), (2, .start j), (3, .preempt j), (4, .remove j), (5, .restart j)] →
      v.toNat = c → write (0x4_8020 + 0x200 * j.val) = exec i s) ∧
    (∀ k, k < 0x801 → Gives (.registerWrite .pf (BitVec.ofNat 32 (0x10_4000 + 8 * k)) true v) s
      (post 0x10 0x0A 1 (leBytes 4 (0x4000 + 8 * k) ++ leBytes 1 1) s) ∧
      Gives (.registerWrite .smbus (BitVec.ofNat 32 (0x10_4000 + 8 * k)) true v) s
      (post 0x10 0x0A 1 (leBytes 4 (0x4000 + 8 * k) ++ leBytes 1 3) s))) ∧
  (s.pwr.state = .loading → off.toNat / 0x1_0000 ≠ 0x0D → Gives (.registerWrite .pf off wide v) s s) ∧
  (off.toNat % (if wide then 8 else 4) ≠ 0 → ∀ p, Gives (.registerWrite p off wide v) s s) ∧
  (off.toNat / 8 ≠ 0x3_0040 / 8 → off.toNat < 0x10_4000 ∨ 0x10_8008 ≤ off.toNat → Gives (.registerWrite .smbus off wide v) s s) ∧
  (∀ p : Fin 8, cfgVal s 0x0D03 = 1 → exec (.registerWrite (.vf p) (BitVec.ofNat 32 0x10) true v) s = exec (.doorbell p lo) s) ∧
  (∀ p : Fin 8, cfgVal s 0x0D03 = 0 ∨ (0x80 ≤ off.toNat ∧ off.toNat < 0x1000) ∨ 0x1020 ≤ off.toNat →
    Gives (.registerWrite (.vf p) off wide v) s s)

/-! ### The whole machine -/

/-- A step takes the command at the front of the queue, and runs it with the rest of the queue left. -/
def Obligations.StepRunsFront : Prop := ∀ (c : Instr) (rest : List Instr) (s : State),
  step { s with pending := c :: rest } = exec c { s with pending := rest }

/-- R21: every command answers a next state, in which the collector holds no posting and the queue of commands is as it
was. No command faults and none is refused. -/
def Obligations.CommandsAnswer : Prop := ∀ (c : Instr) (s : State),
  ∃ t, exec c s = .next t ∧ Collected t ∧ t.pending = s.pending

/-- The local space, the host's memory and the fuses keep their canonical form in every step: addresses rise, and no
listed byte is 0. -/
def Obligations.MemoryCanonical : Prop := ∀ (s t : State), MemOk s → step s = .next t → MemOk t

/-- R24, R329: after the handover the configuration changes only by RING and POOL at their swing, and the route table only
by ROUTE; a reset takes both away, and the handover gives them. -/
def Obligations.ConfigurationFixed : Prop := ∀ (c : Instr) (s t : State), exec c s = .next t →
  let boots := (∃ f v, c = .handover f v) ∨ c = .porAssert ∨ c = .managementResetAssert ∨ c = .vddAonFall
  (¬boots → c ≠ .ringSet → c ≠ .poolSet → t.cfg = s.cfg) ∧
  (¬boots → c ≠ .routeSet → t.routes = s.routes)

/-- R319, R360: whatever is commanded, the OTP stays within its 512 B and fuse bits change only from 0 to 1. Only OTP_PROG
changes them, in SecFlags, or, while JtagLock is clear, in KeyRevision, KeyCrc and FleetKey: what is written at
manufacture stays. -/
def Obligations.FuseBits : Prop := ∀ (c : Instr) (s t : State), exec c s = .next t →
  (∀ a j, (memGet s.otp a).getLsbD j = true → (memGet t.otp a).getLsbD j = true) ∧
  ((∀ a, 512 ≤ a → memGet s.otp a = 0) → ∀ a, 512 ≤ a → memGet t.otp a = 0) ∧
  (∀ a, a ≠ 0x009 → jtagLock s = true ∨ a < 0x00A ∨ 0x030 ≤ a → memGet t.otp a = memGet s.otp a) ∧
  ((∀ off b, c ≠ .otpProg off b) → t.otp = s.otp)

/-- R299, R300: fleet time never decreases, but at a reset and at the entry to Dormant, which start it again.

R300 (the model's own choice of a moment, log 2): with no command waiting a step is one esc cycle: the time since
por_n rises by 1 ns, and fleet time, where its counter runs, by 1 ns × (1 + r), with its fraction of 2^−32 ns. Nothing
else changes. -/
def Obligations.FleetTime : Prop :=
  (∀ (c : Instr) (s t : State), exec c s = .next t →
   c ≠ .porAssert → c ≠ .managementResetAssert → c ≠ .vddAonFall →
   s.clk.fleet ≤ t.clk.fleet ∨ (s.pwr.entering = true ∧ t.pwr.state = .dormant ∧ t.clk.fleet = 0)) ∧
  (∀ (s : State), s.pending = [] → -100000 ≤ s.clk.ratePpb → s.clk.frac < 2 ^ 32 →
   ∃ t, step s = .next t ∧ t = { s with upNs := t.upNs, clk := { s.clk with fleet := t.clk.fleet, frac := t.clk.frac } } ∧
     t.upNs = (if s.pwr.porN then s.upNs + 1 else s.upNs) ∧
     (fleetRuns s = false → t.clk = s.clk) ∧
     (fleetRuns s = true → t.clk.frac < 2 ^ 32 ∧
       (2 ^ 32 * (t.clk.fleet : Int) + t.clk.frac) - (2 ^ 32 * (s.clk.fleet : Int) + s.clk.frac) =
         2 ^ 32 * (1000000000 + s.clk.ratePpb) / 1000000000))

/-- R320: no port, JTAG included, reads FleetKey. Two devices that differ in FleetKey alone answer every read alike: the
console's, the SMBus target's, JTAG's and the host's. -/
def Obligations.KeyUnreadable : Prop := ∀ (s : State) (key : List Byte) (i : Instr) (off : BitVec 32) (addr : BitVec 36)
    (v : BitVec 64) (req : BitVec 16) (n : Nat), key.length = 32 →
  i ∈ [.consoleRead off, .consoleStatus, .consoleReport, .smbusSerial, .smbusStatus, .smbusTelemetry, .smbusFaultSummary,
    .smbusRegisterRead, .debug false addr v, .idcode, .bar2Read req addr n] →
  ∀ t u, exec i s = .next t →
    exec i { s with otp := memWrite s.otp 0x10 key, pwr.otpCopy := memWrite s.pwr.otpCopy 0x10 key } = .next u →
    u.con = t.con ∧ u.smb = t.smb ∧ u.tap = t.tap ∧ u.pcie = t.pcie ∧ u.hostMem = t.hostMem

/-- R181, R295, R307, R315, R341, R396, R399: the device after reset is Loading, before its handover, with nothing
resident, streamed, queued or reported: no clock has counted, every link is Off, the Escapement is Free, duty is 64,
the UART is at 115 200 baud with 8 data bits, the ring of events is off with phase 1, memory lists nothing. The
invariants hold. (Its supplies, pins and fuses are the model's choice, log 4 and log 5.) -/
def Obligations.ResetValues : Prop := let s := State.reset
  s.pwr.state = .loading ∧ s.pwr.handedOver = false ∧ s.clk = {} ∧ s.upNs = 0 ∧ s.pending = [] ∧ s.mem = [] ∧ s.jobs = [] ∧
  s.streams = [] ∧ s.cfg = [] ∧ s.routes = [] ∧ (∀ n, (getLink s n).state = .off ∧ (getLink s n).role = 0) ∧
  s.esc.state = .free ∧ s.rgl.duty = 64 ∧ s.rgl.ballast = false ∧ s.uart.baud = 1736 ∧ s.uart.ctrl = 0 ∧
  s.ev.enable = false ∧ s.ev.phase = true ∧ s.ev.seq = 0 ∧ s.flt.flags = 0 ∧ Collected s ∧ MemOk s ∧
  cfgVal s 0x0F02 = fieldDefault 0x0F02
end

