-- ==== Sys2Proof/Laws/Memory.lean ====
section
/-! SUPPORT. Tables and byte memory: reads after writes, and the canonical form that every memory operation keeps. -/

namespace Sys2Proof.Machine

variable {α : Type}

/-! ### Tables -/

theorem tget_tdel (d : α) (t : Table α) (k k' : Nat) :
    tget d (tdel t k) k' = if k' = k then d else tget d t k' := by
  induction t with
  | nil => simp [tdel, tget]
  | cons x xs ih =>
    obtain ⟨a, v⟩ := x
    by_cases h : a = k
    · simp only [tdel, h, if_true, ih, tget]
      by_cases h2 : k' = k
      · simp [h2]
      · have : ¬ k = k' := fun e => h2 e.symm
        simp [h2, this]
    · simp only [tdel, h, if_false, tget, ih]
      by_cases h2 : a = k'
      · subst h2; simp [h]
      · simp [h2]

theorem tget_tins_of_none (d : α) (k : Nat) (v : α) (t : Table α) (k' : Nat) (h : ∀ x ∈ t, x.1 ≠ k) :
    tget d (tins k v t) k' = if k' = k then v else tget d t k' := by
  induction t with
  | nil =>
    by_cases e : k' = k
    · simp [tins, tget, e]
    · have : ¬ k = k' := fun h => e h.symm
      simp [tins, tget, e, this]
  | cons x xs ih =>
    obtain ⟨a, w⟩ := x
    have ha : a ≠ k := h (a, w) (by simp)
    have ih' := ih fun x hx => h x (by simp [hx])
    by_cases hk : k < a
    · simp only [tins, hk, if_true, tget]
      by_cases e : k' = k
      · simp [e]
      · have : ¬ k = k' := fun h => e h.symm
        simp [e, this]
    · simp only [tins, hk, if_false, tget, ih']
      by_cases e : a = k'
      · subst e; simp [ha]
      · simp [e]

theorem not_mem_tdel (t : Table α) (k : Nat) : ∀ x ∈ tdel t k, x.1 ≠ k := by
  induction t with
  | nil => simp [tdel]
  | cons x xs ih =>
    obtain ⟨a, v⟩ := x
    by_cases h : a = k
    · simpa [tdel, h] using ih
    · simp only [tdel, h, if_false, List.mem_cons, forall_eq_or_imp]
      exact ⟨h, ih⟩

/-- A table read after a write. -/
theorem tget_tput (d : α) (t : Table α) (k : Nat) (v : α) (k' : Nat) :
    tget d (tput t k v) k' = if k' = k then v else tget d t k' := by
  rw [tput, tget_tins_of_none _ _ _ _ _ (not_mem_tdel t k), tget_tdel]
  split <;> rfl

@[simp] theorem tget_tput_self (d : α) (t : Table α) (k : Nat) (v : α) : tget d (tput t k v) k = v := by
  simp [tget_tput]

theorem tdel_of_none (t : Table α) (k : Nat) (h : ∀ x ∈ t, x.1 ≠ k) : tdel t k = t := by
  induction t with
  | nil => rfl
  | cons x xs ih =>
    obtain ⟨a, v⟩ := x
    have ha : a ≠ k := h (a, v) (by simp)
    simp [tdel, ha, ih fun x hx => h x (by simp [hx])]

theorem tdel_tins (t : Table α) (k : Nat) (v : α) (h : ∀ x ∈ t, x.1 ≠ k) : tdel (tins k v t) k = t := by
  induction t with
  | nil => simp [tins, tdel]
  | cons x xs ih =>
    obtain ⟨a, w⟩ := x
    have ha : a ≠ k := h (a, w) (by simp)
    have hx : ∀ x ∈ xs, x.1 ≠ k := fun x hx => h x (by simp [hx])
    by_cases hk : k < a
    · simp [tins, hk, tdel, ha, tdel_of_none xs k hx]
    · simp [tins, hk, tdel, ha, ih hx]

/-- The later of two writes of a table's entry stands. -/
@[simp] theorem tput_tput (t : Table α) (k : Nat) (v w : α) : tput (tput t k v) k w = tput t k w := by
  simp only [tput]; rw [tdel_tins _ _ _ (not_mem_tdel t k)]

@[simp] theorem tget_tmod_self (d : α) (t : Table α) (k : Nat) (f : α → α) : tget d (tmod d t k f) k = f (tget d t k) := by
  simp [tmod]

theorem tget_tmod (d : α) (t : Table α) (k : Nat) (f : α → α) (k' : Nat) :
    tget d (tmod d t k f) k' = if k' = k then f (tget d t k) else tget d t k' := by
  simp [tmod, tget_tput]

/-! ### Bytes -/

/-- A byte read after a byte is written. -/
theorem memGet_memPut (m : Table Byte) (a : Nat) (b : Byte) (a' : Nat) :
    memGet (memPut m a b) a' = if a' = a then b else memGet m a' := by
  unfold memGet memPut
  split
  · next h => subst h; rw [tget_tdel]
  · rw [tget_tput]

/-- A write leaves every other byte alone. -/
theorem memGet_memWrite_outside (bs : List Byte) : ∀ (m : Table Byte) (a a' : Nat), a' < a ∨ a + bs.length ≤ a' →
    memGet (memWrite m a bs) a' = memGet m a' := by
  induction bs with
  | nil => intros; rfl
  | cons b bs ih =>
    intro m a a' h
    simp only [List.length_cons] at h
    rw [memWrite, ih _ _ _ (by omega), memGet_memPut, if_neg (by omega)]

/-- A read of what was just written. -/
theorem memRead_memWrite (bs : List Byte) : ∀ (m : Table Byte) (a : Nat), memRead (memWrite m a bs) a bs.length = bs := by
  induction bs with
  | nil => intros; rfl
  | cons b bs ih =>
    intro m a
    simp only [List.length_cons, memRead, memWrite]
    rw [ih, memGet_memWrite_outside _ _ _ _ (by omega), memGet_memPut, if_pos rfl]

theorem memRead_congr (m m' : Table Byte) (n : Nat) : ∀ a, (∀ x, a ≤ x → x < a + n → memGet m x = memGet m' x) →
    memRead m a n = memRead m' a n := by
  induction n with
  | zero => intros; rfl
  | succ n ih =>
    intro a h
    rw [memRead, memRead, h a (by omega) (by omega), ih (a + 1) fun x h1 h2 => h x (by omega) (by omega)]

/-- A read of bytes that a write does not touch. -/
theorem memRead_memWrite_outside (bs : List Byte) (m : Table Byte) (a a' n : Nat) (h : a' + n ≤ a ∨ a + bs.length ≤ a') :
    memRead (memWrite m a bs) a' n = memRead m a' n :=
  memRead_congr _ _ _ _ fun x h1 h2 => memGet_memWrite_outside _ _ _ _ (by omega)

@[simp] theorem memRead_length (m : Table Byte) (n : Nat) : ∀ a, (memRead m a n).length = n := by
  induction n with
  | zero => intro; rfl
  | succ n ih => intro a; simp [memRead, ih]

@[simp] theorem leBytes_length (n : Nat) : ∀ v, (leBytes n v).length = n := by
  induction n with
  | zero => intro; rfl
  | succ n ih => intro v; simp [leBytes, ih]

theorem leNat_leBytes (n : Nat) : ∀ v, leNat (leBytes n v) = v % 256 ^ n := by
  induction n with
  | zero => intro v; simp [leBytes, leNat, Nat.mod_one]
  | succ n ih =>
    intro v
    rw [leBytes, leNat, ih, BitVec.toNat_ofNat, Nat.pow_add_one (m := n), Nat.mul_comm (256 ^ n), Nat.mod_mul]

theorem leBytes_leNat : ∀ bs : List Byte, leBytes bs.length (leNat bs) = bs := by
  intro bs
  induction bs with
  | nil => rfl
  | cons b bs ih =>
    have hb := b.isLt
    simp only [List.length_cons, leBytes, leNat]
    rw [show (b.toNat + 256 * leNat bs) / 256 = leNat bs by omega, ih]
    congr 1
    apply BitVec.eq_of_toNat_eq
    simp; omega

/-- A number read where it was written. -/
theorem memNat_memWrite (m : Table Byte) (a n v : Nat) : memNat (memWrite m a (leBytes n v)) a n = v % 256 ^ n := by
  have h := memRead_memWrite (leBytes n v) m a
  rw [leBytes_length] at h
  rw [memNat, h, leNat_leBytes]

/-! ### The canonical form -/

theorem memWfFrom_mono (m : Table Byte) : ∀ lo lo' : Nat, lo' ≤ lo → memWfFrom lo m = true → memWfFrom lo' m = true := by
  cases m with
  | nil => intros; rfl
  | cons x xs =>
    intro lo lo' h hm
    simp only [memWfFrom, Bool.and_eq_true, decide_eq_true_eq] at hm ⊢
    exact ⟨⟨by omega, hm.1.2⟩, hm.2⟩

theorem memWfFrom_tdel (m : Table Byte) (k : Nat) : ∀ lo, memWfFrom lo m = true → memWfFrom lo (tdel m k) = true := by
  induction m with
  | nil => intros; rfl
  | cons x xs ih =>
    obtain ⟨a, b⟩ := x
    intro lo h
    simp only [memWfFrom, Bool.and_eq_true, decide_eq_true_eq] at h
    by_cases e : a = k
    · simp only [tdel, e, if_true]
      exact memWfFrom_mono _ _ _ (by omega) (ih _ h.2)
    · simp only [tdel, e, if_false, memWfFrom, Bool.and_eq_true, decide_eq_true_eq]
      exact ⟨h.1, ih _ h.2⟩

theorem memWfFrom_tins (k : Nat) (v : Byte) (hv : (v != 0) = true) (m : Table Byte) :
    ∀ lo, lo ≤ k → (∀ x ∈ m, x.1 ≠ k) → memWfFrom lo m = true → memWfFrom lo (tins k v m) = true := by
  induction m with
  | nil => intro lo h _ _; simp only [tins, memWfFrom, Bool.and_eq_true, decide_eq_true_eq]; exact ⟨⟨h, hv⟩, trivial⟩
  | cons x xs ih =>
    obtain ⟨a, b⟩ := x
    intro lo h hne hm
    have ha : a ≠ k := hne (a, b) (by simp)
    simp only [memWfFrom, Bool.and_eq_true, decide_eq_true_eq] at hm
    by_cases e : k < a
    · simp only [tins, e, if_true, memWfFrom, Bool.and_eq_true, decide_eq_true_eq]
      exact ⟨⟨h, hv⟩, ⟨by omega, hm.1.2⟩, hm.2⟩
    · simp only [tins, e, if_false, memWfFrom, Bool.and_eq_true, decide_eq_true_eq]
      exact ⟨hm.1, ih _ (by omega) (fun x hx => hne x (by simp [hx])) hm.2⟩

/-- A byte written keeps the canonical form. -/
theorem memPut_wf (m : Table Byte) (a : Nat) (b : Byte) (h : Memory.wf m = true) : Memory.wf (memPut m a b) = true := by
  unfold Memory.wf at *
  unfold memPut
  split
  · exact memWfFrom_tdel _ _ _ h
  · next hb =>
    refine memWfFrom_tins a b (by simpa [bne_iff_ne] using hb) _ _ (by omega) (not_mem_tdel m a) (memWfFrom_tdel _ _ _ h)

/-- Bytes written keep the canonical form. -/
theorem memWrite_wf (bs : List Byte) : ∀ (m : Table Byte) (a : Nat), Memory.wf m = true → Memory.wf (memWrite m a bs) = true := by
  induction bs with
  | nil => intro m a h; exact h
  | cons b bs ih => intro m a h; exact ih _ _ (memPut_wf m a b h)

theorem memWfFrom_filter (p : Nat × Byte → Bool) (m : Table Byte) :
    ∀ lo, memWfFrom lo m = true → memWfFrom lo (m.filter p) = true := by
  induction m with
  | nil => intros; rfl
  | cons x xs ih =>
    obtain ⟨a, b⟩ := x
    intro lo h
    simp only [memWfFrom, Bool.and_eq_true, decide_eq_true_eq] at h
    simp only [List.filter]
    split
    · simp only [memWfFrom, Bool.and_eq_true, decide_eq_true_eq]; exact ⟨h.1, ih _ h.2⟩
    · exact memWfFrom_mono _ _ _ (by omega) (ih _ h.2)

/-- A memory cleared of some addresses keeps the canonical form. -/
theorem memFilter_wf (p : Nat × Byte → Bool) (m : Table Byte) (h : Memory.wf m = true) : Memory.wf (m.filter p) = true :=
  memWfFrom_filter p m 0 h

/-- Memories in canonical form with equal bytes are equal from a bound on. -/
theorem memWf_ext (m : Table Byte) : ∀ (m' : Table Byte) (lo : Nat), memWfFrom lo m = true → memWfFrom lo m' = true →
    (∀ a, memGet m a = memGet m' a) → m = m' := by
  have lower : ∀ (m : Table Byte) (lo a : Nat), memWfFrom lo m = true → a < lo → memGet m a = 0 := by
    intro m
    induction m with
    | nil => intros; rfl
    | cons x xs ih =>
      obtain ⟨k, b⟩ := x
      intro lo a h ha
      simp only [memWfFrom, Bool.and_eq_true, decide_eq_true_eq] at h
      have hk : k ≠ a := by omega
      have hx : memGet ((k, b) :: xs) a = memGet xs a := by simp [memGet, tget, hk]
      rw [hx]
      exact ih (k + 1) a h.2 (by omega)
  induction m with
  | nil =>
    intro m' lo _ h' he
    cases m' with
    | nil => rfl
    | cons y ys =>
      obtain ⟨k, b⟩ := y
      simp only [memWfFrom, Bool.and_eq_true, decide_eq_true_eq] at h'
      have : memGet ((k, b) :: ys) k = b := by simp [memGet, tget]
      have h0 := he k
      rw [this] at h0
      have : b = 0 := h0.symm
      simp [this] at h'
  | cons x xs ih =>
    obtain ⟨k, b⟩ := x
    intro m' lo h h' he
    simp only [memWfFrom, Bool.and_eq_true, decide_eq_true_eq] at h
    have hb : b ≠ 0 := by simpa [bne_iff_ne] using h.1.2
    cases m' with
    | nil =>
      have : memGet ((k, b) :: xs) k = b := by simp [memGet, tget]
      have h0 := he k
      rw [this] at h0
      exact absurd h0 hb
    | cons y ys =>
      obtain ⟨k', b'⟩ := y
      simp only [memWfFrom, Bool.and_eq_true, decide_eq_true_eq] at h'
      have hb' : b' ≠ 0 := by simpa [bne_iff_ne] using h'.1.2
      have e1 : memGet ((k, b) :: xs) k = b := by simp [memGet, tget]
      have e2 : memGet ((k', b') :: ys) k' = b' := by simp [memGet, tget]
      have hk : k = k' := by
        rcases Nat.lt_trichotomy k k' with hlt | heq | hgt
        · have h0 := he k
          rw [e1] at h0
          have : memGet ((k', b') :: ys) k = 0 :=
            lower ((k', b') :: ys) k' k (by simp only [memWfFrom, Bool.and_eq_true, decide_eq_true_eq]; exact ⟨⟨Nat.le_refl _, h'.1.2⟩, h'.2⟩) hlt
          exact absurd (h0.trans this) hb
        · exact heq
        · have h0 := he k'
          rw [e2] at h0
          have : memGet ((k, b) :: xs) k' = 0 :=
            lower ((k, b) :: xs) k k' (by simp only [memWfFrom, Bool.and_eq_true, decide_eq_true_eq]; exact ⟨⟨Nat.le_refl _, h.1.2⟩, h.2⟩) hgt
          exact absurd (h0.symm.trans this) hb'
      subst hk
      have hbb : b = b' := by have h0 := he k; rw [e1, e2] at h0; exact h0
      subst hbb
      congr 1
      refine ih ys (k + 1) h.2 h'.2 fun a => ?_
      by_cases ha : a < k + 1
      · rw [lower xs _ _ h.2 ha, lower ys _ _ h'.2 ha]
      · have h0 := he a
        have hne : k ≠ a := by omega
        simpa [memGet, tget, hne] using h0

end Sys2Proof.Machine
end

