-- ==== Sys2Proof/Laws/State.lean ====
section
/-! SUPPORT. One lemma per field and update of the state: what an update leaves alone. -/

namespace Sys2Proof.Machine

variable (s : State)

@[simp] theorem post_pending (src code sev : Nat) (p : List Byte) : (post src code sev p s).pending = s.pending := rfl
@[simp] theorem post_freeCtr (src code sev : Nat) (p : List Byte) : (post src code sev p s).freeCtr = s.freeCtr := rfl
@[simp] theorem post_upNs (src code sev : Nat) (p : List Byte) : (post src code sev p s).upNs = s.upNs := rfl
@[simp] theorem post_clk (src code sev : Nat) (p : List Byte) : (post src code sev p s).clk = s.clk := rfl
@[simp] theorem post_pwr (src code sev : Nat) (p : List Byte) : (post src code sev p s).pwr = s.pwr := rfl
@[simp] theorem post_pcie (src code sev : Nat) (p : List Byte) : (post src code sev p s).pcie = s.pcie := rfl
@[simp] theorem post_hostMem (src code sev : Nat) (p : List Byte) : (post src code sev p s).hostMem = s.hostMem := rfl
@[simp] theorem post_otp (src code sev : Nat) (p : List Byte) : (post src code sev p s).otp = s.otp := rfl
@[simp] theorem post_cfg (src code sev : Nat) (p : List Byte) : (post src code sev p s).cfg = s.cfg := rfl
@[simp] theorem post_rep (src code sev : Nat) (p : List Byte) : (post src code sev p s).rep = s.rep := rfl
@[simp] theorem post_routes (src code sev : Nat) (p : List Byte) : (post src code sev p s).routes = s.routes := rfl
@[simp] theorem post_mem (src code sev : Nat) (p : List Byte) : (post src code sev p s).mem = s.mem := rfl
@[simp] theorem post_ecc (src code sev : Nat) (p : List Byte) : (post src code sev p s).ecc = s.ecc := rfl
@[simp] theorem post_hbm (src code sev : Nat) (p : List Byte) : (post src code sev p s).hbm = s.hbm := rfl
@[simp] theorem post_vat (src code sev : Nat) (p : List Byte) : (post src code sev p s).vat = s.vat := rfl
@[simp] theorem post_flt (src code sev : Nat) (p : List Byte) : (post src code sev p s).flt = s.flt := rfl
@[simp] theorem post_parts (src code sev : Nat) (p : List Byte) : (post src code sev p s).parts = s.parts := rfl
@[simp] theorem post_stms (src code sev : Nat) (p : List Byte) : (post src code sev p s).stms = s.stms := rfl
@[simp] theorem post_jobs (src code sev : Nat) (p : List Byte) : (post src code sev p s).jobs = s.jobs := rfl
@[simp] theorem post_accts (src code sev : Nat) (p : List Byte) : (post src code sev p s).accts = s.accts := rfl
@[simp] theorem post_tps (src code sev : Nat) (p : List Byte) : (post src code sev p s).tps = s.tps := rfl
@[simp] theorem post_cls (src code sev : Nat) (p : List Byte) : (post src code sev p s).cls = s.cls := rfl
@[simp] theorem post_blk (src code sev : Nat) (p : List Byte) : (post src code sev p s).blk = s.blk := rfl
@[simp] theorem post_cul (src code sev : Nat) (p : List Byte) : (post src code sev p s).cul = s.cul := rfl
@[simp] theorem post_streams (src code sev : Nat) (p : List Byte) : (post src code sev p s).streams = s.streams := rfl
@[simp] theorem post_links (src code sev : Nat) (p : List Byte) : (post src code sev p s).links = s.links := rfl
@[simp] theorem post_net (src code sev : Nat) (p : List Byte) : (post src code sev p s).net = s.net := rfl
@[simp] theorem post_ring (src code sev : Nat) (p : List Byte) : (post src code sev p s).ring = s.ring := rfl
@[simp] theorem post_esc (src code sev : Nat) (p : List Byte) : (post src code sev p s).esc = s.esc := rfl
@[simp] theorem post_rgl (src code sev : Nat) (p : List Byte) : (post src code sev p s).rgl = s.rgl := rfl
@[simp] theorem post_tel (src code sev : Nat) (p : List Byte) : (post src code sev p s).tel = s.tel := rfl
@[simp] theorem post_uart (src code sev : Nat) (p : List Byte) : (post src code sev p s).uart = s.uart := rfl
@[simp] theorem post_con (src code sev : Nat) (p : List Byte) : (post src code sev p s).con = s.con := rfl
@[simp] theorem post_smb (src code sev : Nat) (p : List Byte) : (post src code sev p s).smb = s.smb := rfl
@[simp] theorem post_pmb (src code sev : Nat) (p : List Byte) : (post src code sev p s).pmb = s.pmb := rfl
@[simp] theorem post_tap (src code sev : Nat) (p : List Byte) : (post src code sev p s).tap = s.tap := rfl

@[simp] theorem modTp_pending (t : Nat) (f : Tp → Tp) : (modTp t f s).pending = s.pending := rfl
@[simp] theorem modTp_freeCtr (t : Nat) (f : Tp → Tp) : (modTp t f s).freeCtr = s.freeCtr := rfl
@[simp] theorem modTp_upNs (t : Nat) (f : Tp → Tp) : (modTp t f s).upNs = s.upNs := rfl
@[simp] theorem modTp_clk (t : Nat) (f : Tp → Tp) : (modTp t f s).clk = s.clk := rfl
@[simp] theorem modTp_pwr (t : Nat) (f : Tp → Tp) : (modTp t f s).pwr = s.pwr := rfl
@[simp] theorem modTp_pcie (t : Nat) (f : Tp → Tp) : (modTp t f s).pcie = s.pcie := rfl
@[simp] theorem modTp_hostMem (t : Nat) (f : Tp → Tp) : (modTp t f s).hostMem = s.hostMem := rfl
@[simp] theorem modTp_otp (t : Nat) (f : Tp → Tp) : (modTp t f s).otp = s.otp := rfl
@[simp] theorem modTp_cfg (t : Nat) (f : Tp → Tp) : (modTp t f s).cfg = s.cfg := rfl
@[simp] theorem modTp_rep (t : Nat) (f : Tp → Tp) : (modTp t f s).rep = s.rep := rfl
@[simp] theorem modTp_routes (t : Nat) (f : Tp → Tp) : (modTp t f s).routes = s.routes := rfl
@[simp] theorem modTp_mem (t : Nat) (f : Tp → Tp) : (modTp t f s).mem = s.mem := rfl
@[simp] theorem modTp_ecc (t : Nat) (f : Tp → Tp) : (modTp t f s).ecc = s.ecc := rfl
@[simp] theorem modTp_hbm (t : Nat) (f : Tp → Tp) : (modTp t f s).hbm = s.hbm := rfl
@[simp] theorem modTp_vat (t : Nat) (f : Tp → Tp) : (modTp t f s).vat = s.vat := rfl
@[simp] theorem modTp_ev (t : Nat) (f : Tp → Tp) : (modTp t f s).ev = s.ev := rfl
@[simp] theorem modTp_flt (t : Nat) (f : Tp → Tp) : (modTp t f s).flt = s.flt := rfl
@[simp] theorem modTp_parts (t : Nat) (f : Tp → Tp) : (modTp t f s).parts = s.parts := rfl
@[simp] theorem modTp_stms (t : Nat) (f : Tp → Tp) : (modTp t f s).stms = s.stms := rfl
@[simp] theorem modTp_jobs (t : Nat) (f : Tp → Tp) : (modTp t f s).jobs = s.jobs := rfl
@[simp] theorem modTp_accts (t : Nat) (f : Tp → Tp) : (modTp t f s).accts = s.accts := rfl
@[simp] theorem modTp_cls (t : Nat) (f : Tp → Tp) : (modTp t f s).cls = s.cls := rfl
@[simp] theorem modTp_blk (t : Nat) (f : Tp → Tp) : (modTp t f s).blk = s.blk := rfl
@[simp] theorem modTp_cul (t : Nat) (f : Tp → Tp) : (modTp t f s).cul = s.cul := rfl
@[simp] theorem modTp_streams (t : Nat) (f : Tp → Tp) : (modTp t f s).streams = s.streams := rfl
@[simp] theorem modTp_links (t : Nat) (f : Tp → Tp) : (modTp t f s).links = s.links := rfl
@[simp] theorem modTp_net (t : Nat) (f : Tp → Tp) : (modTp t f s).net = s.net := rfl
@[simp] theorem modTp_ring (t : Nat) (f : Tp → Tp) : (modTp t f s).ring = s.ring := rfl
@[simp] theorem modTp_esc (t : Nat) (f : Tp → Tp) : (modTp t f s).esc = s.esc := rfl
@[simp] theorem modTp_rgl (t : Nat) (f : Tp → Tp) : (modTp t f s).rgl = s.rgl := rfl
@[simp] theorem modTp_tel (t : Nat) (f : Tp → Tp) : (modTp t f s).tel = s.tel := rfl
@[simp] theorem modTp_uart (t : Nat) (f : Tp → Tp) : (modTp t f s).uart = s.uart := rfl
@[simp] theorem modTp_con (t : Nat) (f : Tp → Tp) : (modTp t f s).con = s.con := rfl
@[simp] theorem modTp_smb (t : Nat) (f : Tp → Tp) : (modTp t f s).smb = s.smb := rfl
@[simp] theorem modTp_pmb (t : Nat) (f : Tp → Tp) : (modTp t f s).pmb = s.pmb := rfl
@[simp] theorem modTp_tap (t : Nat) (f : Tp → Tp) : (modTp t f s).tap = s.tap := rfl

@[simp] theorem modJob_pending (j : Nat) (f : Job → Job) : (modJob j f s).pending = s.pending := rfl
@[simp] theorem modJob_freeCtr (j : Nat) (f : Job → Job) : (modJob j f s).freeCtr = s.freeCtr := rfl
@[simp] theorem modJob_upNs (j : Nat) (f : Job → Job) : (modJob j f s).upNs = s.upNs := rfl
@[simp] theorem modJob_clk (j : Nat) (f : Job → Job) : (modJob j f s).clk = s.clk := rfl
@[simp] theorem modJob_pwr (j : Nat) (f : Job → Job) : (modJob j f s).pwr = s.pwr := rfl
@[simp] theorem modJob_pcie (j : Nat) (f : Job → Job) : (modJob j f s).pcie = s.pcie := rfl
@[simp] theorem modJob_hostMem (j : Nat) (f : Job → Job) : (modJob j f s).hostMem = s.hostMem := rfl
@[simp] theorem modJob_otp (j : Nat) (f : Job → Job) : (modJob j f s).otp = s.otp := rfl
@[simp] theorem modJob_cfg (j : Nat) (f : Job → Job) : (modJob j f s).cfg = s.cfg := rfl
@[simp] theorem modJob_rep (j : Nat) (f : Job → Job) : (modJob j f s).rep = s.rep := rfl
@[simp] theorem modJob_routes (j : Nat) (f : Job → Job) : (modJob j f s).routes = s.routes := rfl
@[simp] theorem modJob_mem (j : Nat) (f : Job → Job) : (modJob j f s).mem = s.mem := rfl
@[simp] theorem modJob_ecc (j : Nat) (f : Job → Job) : (modJob j f s).ecc = s.ecc := rfl
@[simp] theorem modJob_hbm (j : Nat) (f : Job → Job) : (modJob j f s).hbm = s.hbm := rfl
@[simp] theorem modJob_vat (j : Nat) (f : Job → Job) : (modJob j f s).vat = s.vat := rfl
@[simp] theorem modJob_ev (j : Nat) (f : Job → Job) : (modJob j f s).ev = s.ev := rfl
@[simp] theorem modJob_flt (j : Nat) (f : Job → Job) : (modJob j f s).flt = s.flt := rfl
@[simp] theorem modJob_parts (j : Nat) (f : Job → Job) : (modJob j f s).parts = s.parts := rfl
@[simp] theorem modJob_stms (j : Nat) (f : Job → Job) : (modJob j f s).stms = s.stms := rfl
@[simp] theorem modJob_accts (j : Nat) (f : Job → Job) : (modJob j f s).accts = s.accts := rfl
@[simp] theorem modJob_tps (j : Nat) (f : Job → Job) : (modJob j f s).tps = s.tps := rfl
@[simp] theorem modJob_cls (j : Nat) (f : Job → Job) : (modJob j f s).cls = s.cls := rfl
@[simp] theorem modJob_blk (j : Nat) (f : Job → Job) : (modJob j f s).blk = s.blk := rfl
@[simp] theorem modJob_cul (j : Nat) (f : Job → Job) : (modJob j f s).cul = s.cul := rfl
@[simp] theorem modJob_streams (j : Nat) (f : Job → Job) : (modJob j f s).streams = s.streams := rfl
@[simp] theorem modJob_links (j : Nat) (f : Job → Job) : (modJob j f s).links = s.links := rfl
@[simp] theorem modJob_net (j : Nat) (f : Job → Job) : (modJob j f s).net = s.net := rfl
@[simp] theorem modJob_ring (j : Nat) (f : Job → Job) : (modJob j f s).ring = s.ring := rfl
@[simp] theorem modJob_esc (j : Nat) (f : Job → Job) : (modJob j f s).esc = s.esc := rfl
@[simp] theorem modJob_rgl (j : Nat) (f : Job → Job) : (modJob j f s).rgl = s.rgl := rfl
@[simp] theorem modJob_tel (j : Nat) (f : Job → Job) : (modJob j f s).tel = s.tel := rfl
@[simp] theorem modJob_uart (j : Nat) (f : Job → Job) : (modJob j f s).uart = s.uart := rfl
@[simp] theorem modJob_con (j : Nat) (f : Job → Job) : (modJob j f s).con = s.con := rfl
@[simp] theorem modJob_smb (j : Nat) (f : Job → Job) : (modJob j f s).smb = s.smb := rfl
@[simp] theorem modJob_pmb (j : Nat) (f : Job → Job) : (modJob j f s).pmb = s.pmb := rfl
@[simp] theorem modJob_tap (j : Nat) (f : Job → Job) : (modJob j f s).tap = s.tap := rfl

@[simp] theorem modRun_pending (j : Nat) (f : Run → Run) : (modRun j f s).pending = s.pending := rfl
@[simp] theorem modRun_freeCtr (j : Nat) (f : Run → Run) : (modRun j f s).freeCtr = s.freeCtr := rfl
@[simp] theorem modRun_upNs (j : Nat) (f : Run → Run) : (modRun j f s).upNs = s.upNs := rfl
@[simp] theorem modRun_clk (j : Nat) (f : Run → Run) : (modRun j f s).clk = s.clk := rfl
@[simp] theorem modRun_pwr (j : Nat) (f : Run → Run) : (modRun j f s).pwr = s.pwr := rfl
@[simp] theorem modRun_pcie (j : Nat) (f : Run → Run) : (modRun j f s).pcie = s.pcie := rfl
@[simp] theorem modRun_hostMem (j : Nat) (f : Run → Run) : (modRun j f s).hostMem = s.hostMem := rfl
@[simp] theorem modRun_otp (j : Nat) (f : Run → Run) : (modRun j f s).otp = s.otp := rfl
@[simp] theorem modRun_cfg (j : Nat) (f : Run → Run) : (modRun j f s).cfg = s.cfg := rfl
@[simp] theorem modRun_rep (j : Nat) (f : Run → Run) : (modRun j f s).rep = s.rep := rfl
@[simp] theorem modRun_routes (j : Nat) (f : Run → Run) : (modRun j f s).routes = s.routes := rfl
@[simp] theorem modRun_mem (j : Nat) (f : Run → Run) : (modRun j f s).mem = s.mem := rfl
@[simp] theorem modRun_ecc (j : Nat) (f : Run → Run) : (modRun j f s).ecc = s.ecc := rfl
@[simp] theorem modRun_hbm (j : Nat) (f : Run → Run) : (modRun j f s).hbm = s.hbm := rfl
@[simp] theorem modRun_vat (j : Nat) (f : Run → Run) : (modRun j f s).vat = s.vat := rfl
@[simp] theorem modRun_ev (j : Nat) (f : Run → Run) : (modRun j f s).ev = s.ev := rfl
@[simp] theorem modRun_flt (j : Nat) (f : Run → Run) : (modRun j f s).flt = s.flt := rfl
@[simp] theorem modRun_parts (j : Nat) (f : Run → Run) : (modRun j f s).parts = s.parts := rfl
@[simp] theorem modRun_stms (j : Nat) (f : Run → Run) : (modRun j f s).stms = s.stms := rfl
@[simp] theorem modRun_accts (j : Nat) (f : Run → Run) : (modRun j f s).accts = s.accts := rfl
@[simp] theorem modRun_tps (j : Nat) (f : Run → Run) : (modRun j f s).tps = s.tps := rfl
@[simp] theorem modRun_cls (j : Nat) (f : Run → Run) : (modRun j f s).cls = s.cls := rfl
@[simp] theorem modRun_blk (j : Nat) (f : Run → Run) : (modRun j f s).blk = s.blk := rfl
@[simp] theorem modRun_cul (j : Nat) (f : Run → Run) : (modRun j f s).cul = s.cul := rfl
@[simp] theorem modRun_streams (j : Nat) (f : Run → Run) : (modRun j f s).streams = s.streams := rfl
@[simp] theorem modRun_links (j : Nat) (f : Run → Run) : (modRun j f s).links = s.links := rfl
@[simp] theorem modRun_net (j : Nat) (f : Run → Run) : (modRun j f s).net = s.net := rfl
@[simp] theorem modRun_ring (j : Nat) (f : Run → Run) : (modRun j f s).ring = s.ring := rfl
@[simp] theorem modRun_esc (j : Nat) (f : Run → Run) : (modRun j f s).esc = s.esc := rfl
@[simp] theorem modRun_rgl (j : Nat) (f : Run → Run) : (modRun j f s).rgl = s.rgl := rfl
@[simp] theorem modRun_tel (j : Nat) (f : Run → Run) : (modRun j f s).tel = s.tel := rfl
@[simp] theorem modRun_uart (j : Nat) (f : Run → Run) : (modRun j f s).uart = s.uart := rfl
@[simp] theorem modRun_con (j : Nat) (f : Run → Run) : (modRun j f s).con = s.con := rfl
@[simp] theorem modRun_smb (j : Nat) (f : Run → Run) : (modRun j f s).smb = s.smb := rfl
@[simp] theorem modRun_pmb (j : Nat) (f : Run → Run) : (modRun j f s).pmb = s.pmb := rfl
@[simp] theorem modRun_tap (j : Nat) (f : Run → Run) : (modRun j f s).tap = s.tap := rfl

@[simp] theorem modPart_pending (p : Nat) (f : Part → Part) : (modPart p f s).pending = s.pending := rfl
@[simp] theorem modPart_freeCtr (p : Nat) (f : Part → Part) : (modPart p f s).freeCtr = s.freeCtr := rfl
@[simp] theorem modPart_upNs (p : Nat) (f : Part → Part) : (modPart p f s).upNs = s.upNs := rfl
@[simp] theorem modPart_clk (p : Nat) (f : Part → Part) : (modPart p f s).clk = s.clk := rfl
@[simp] theorem modPart_pwr (p : Nat) (f : Part → Part) : (modPart p f s).pwr = s.pwr := rfl
@[simp] theorem modPart_pcie (p : Nat) (f : Part → Part) : (modPart p f s).pcie = s.pcie := rfl
@[simp] theorem modPart_hostMem (p : Nat) (f : Part → Part) : (modPart p f s).hostMem = s.hostMem := rfl
@[simp] theorem modPart_otp (p : Nat) (f : Part → Part) : (modPart p f s).otp = s.otp := rfl
@[simp] theorem modPart_cfg (p : Nat) (f : Part → Part) : (modPart p f s).cfg = s.cfg := rfl
@[simp] theorem modPart_rep (p : Nat) (f : Part → Part) : (modPart p f s).rep = s.rep := rfl
@[simp] theorem modPart_routes (p : Nat) (f : Part → Part) : (modPart p f s).routes = s.routes := rfl
@[simp] theorem modPart_mem (p : Nat) (f : Part → Part) : (modPart p f s).mem = s.mem := rfl
@[simp] theorem modPart_ecc (p : Nat) (f : Part → Part) : (modPart p f s).ecc = s.ecc := rfl
@[simp] theorem modPart_hbm (p : Nat) (f : Part → Part) : (modPart p f s).hbm = s.hbm := rfl
@[simp] theorem modPart_vat (p : Nat) (f : Part → Part) : (modPart p f s).vat = s.vat := rfl
@[simp] theorem modPart_ev (p : Nat) (f : Part → Part) : (modPart p f s).ev = s.ev := rfl
@[simp] theorem modPart_flt (p : Nat) (f : Part → Part) : (modPart p f s).flt = s.flt := rfl
@[simp] theorem modPart_stms (p : Nat) (f : Part → Part) : (modPart p f s).stms = s.stms := rfl
@[simp] theorem modPart_jobs (p : Nat) (f : Part → Part) : (modPart p f s).jobs = s.jobs := rfl
@[simp] theorem modPart_accts (p : Nat) (f : Part → Part) : (modPart p f s).accts = s.accts := rfl
@[simp] theorem modPart_tps (p : Nat) (f : Part → Part) : (modPart p f s).tps = s.tps := rfl
@[simp] theorem modPart_cls (p : Nat) (f : Part → Part) : (modPart p f s).cls = s.cls := rfl
@[simp] theorem modPart_blk (p : Nat) (f : Part → Part) : (modPart p f s).blk = s.blk := rfl
@[simp] theorem modPart_cul (p : Nat) (f : Part → Part) : (modPart p f s).cul = s.cul := rfl
@[simp] theorem modPart_streams (p : Nat) (f : Part → Part) : (modPart p f s).streams = s.streams := rfl
@[simp] theorem modPart_links (p : Nat) (f : Part → Part) : (modPart p f s).links = s.links := rfl
@[simp] theorem modPart_net (p : Nat) (f : Part → Part) : (modPart p f s).net = s.net := rfl
@[simp] theorem modPart_ring (p : Nat) (f : Part → Part) : (modPart p f s).ring = s.ring := rfl
@[simp] theorem modPart_esc (p : Nat) (f : Part → Part) : (modPart p f s).esc = s.esc := rfl
@[simp] theorem modPart_rgl (p : Nat) (f : Part → Part) : (modPart p f s).rgl = s.rgl := rfl
@[simp] theorem modPart_tel (p : Nat) (f : Part → Part) : (modPart p f s).tel = s.tel := rfl
@[simp] theorem modPart_uart (p : Nat) (f : Part → Part) : (modPart p f s).uart = s.uart := rfl
@[simp] theorem modPart_con (p : Nat) (f : Part → Part) : (modPart p f s).con = s.con := rfl
@[simp] theorem modPart_smb (p : Nat) (f : Part → Part) : (modPart p f s).smb = s.smb := rfl
@[simp] theorem modPart_pmb (p : Nat) (f : Part → Part) : (modPart p f s).pmb = s.pmb := rfl
@[simp] theorem modPart_tap (p : Nat) (f : Part → Part) : (modPart p f s).tap = s.tap := rfl

@[simp] theorem modStm_pending (p : Nat) (f : Stm → Stm) : (modStm p f s).pending = s.pending := rfl
@[simp] theorem modStm_freeCtr (p : Nat) (f : Stm → Stm) : (modStm p f s).freeCtr = s.freeCtr := rfl
@[simp] theorem modStm_upNs (p : Nat) (f : Stm → Stm) : (modStm p f s).upNs = s.upNs := rfl
@[simp] theorem modStm_clk (p : Nat) (f : Stm → Stm) : (modStm p f s).clk = s.clk := rfl
@[simp] theorem modStm_pwr (p : Nat) (f : Stm → Stm) : (modStm p f s).pwr = s.pwr := rfl
@[simp] theorem modStm_pcie (p : Nat) (f : Stm → Stm) : (modStm p f s).pcie = s.pcie := rfl
@[simp] theorem modStm_hostMem (p : Nat) (f : Stm → Stm) : (modStm p f s).hostMem = s.hostMem := rfl
@[simp] theorem modStm_otp (p : Nat) (f : Stm → Stm) : (modStm p f s).otp = s.otp := rfl
@[simp] theorem modStm_cfg (p : Nat) (f : Stm → Stm) : (modStm p f s).cfg = s.cfg := rfl
@[simp] theorem modStm_rep (p : Nat) (f : Stm → Stm) : (modStm p f s).rep = s.rep := rfl
@[simp] theorem modStm_routes (p : Nat) (f : Stm → Stm) : (modStm p f s).routes = s.routes := rfl
@[simp] theorem modStm_mem (p : Nat) (f : Stm → Stm) : (modStm p f s).mem = s.mem := rfl
@[simp] theorem modStm_ecc (p : Nat) (f : Stm → Stm) : (modStm p f s).ecc = s.ecc := rfl
@[simp] theorem modStm_hbm (p : Nat) (f : Stm → Stm) : (modStm p f s).hbm = s.hbm := rfl
@[simp] theorem modStm_vat (p : Nat) (f : Stm → Stm) : (modStm p f s).vat = s.vat := rfl
@[simp] theorem modStm_ev (p : Nat) (f : Stm → Stm) : (modStm p f s).ev = s.ev := rfl
@[simp] theorem modStm_flt (p : Nat) (f : Stm → Stm) : (modStm p f s).flt = s.flt := rfl
@[simp] theorem modStm_parts (p : Nat) (f : Stm → Stm) : (modStm p f s).parts = s.parts := rfl
@[simp] theorem modStm_jobs (p : Nat) (f : Stm → Stm) : (modStm p f s).jobs = s.jobs := rfl
@[simp] theorem modStm_accts (p : Nat) (f : Stm → Stm) : (modStm p f s).accts = s.accts := rfl
@[simp] theorem modStm_tps (p : Nat) (f : Stm → Stm) : (modStm p f s).tps = s.tps := rfl
@[simp] theorem modStm_cls (p : Nat) (f : Stm → Stm) : (modStm p f s).cls = s.cls := rfl
@[simp] theorem modStm_blk (p : Nat) (f : Stm → Stm) : (modStm p f s).blk = s.blk := rfl
@[simp] theorem modStm_cul (p : Nat) (f : Stm → Stm) : (modStm p f s).cul = s.cul := rfl
@[simp] theorem modStm_streams (p : Nat) (f : Stm → Stm) : (modStm p f s).streams = s.streams := rfl
@[simp] theorem modStm_links (p : Nat) (f : Stm → Stm) : (modStm p f s).links = s.links := rfl
@[simp] theorem modStm_net (p : Nat) (f : Stm → Stm) : (modStm p f s).net = s.net := rfl
@[simp] theorem modStm_ring (p : Nat) (f : Stm → Stm) : (modStm p f s).ring = s.ring := rfl
@[simp] theorem modStm_esc (p : Nat) (f : Stm → Stm) : (modStm p f s).esc = s.esc := rfl
@[simp] theorem modStm_rgl (p : Nat) (f : Stm → Stm) : (modStm p f s).rgl = s.rgl := rfl
@[simp] theorem modStm_tel (p : Nat) (f : Stm → Stm) : (modStm p f s).tel = s.tel := rfl
@[simp] theorem modStm_uart (p : Nat) (f : Stm → Stm) : (modStm p f s).uart = s.uart := rfl
@[simp] theorem modStm_con (p : Nat) (f : Stm → Stm) : (modStm p f s).con = s.con := rfl
@[simp] theorem modStm_smb (p : Nat) (f : Stm → Stm) : (modStm p f s).smb = s.smb := rfl
@[simp] theorem modStm_pmb (p : Nat) (f : Stm → Stm) : (modStm p f s).pmb = s.pmb := rfl
@[simp] theorem modStm_tap (p : Nat) (f : Stm → Stm) : (modStm p f s).tap = s.tap := rfl

@[simp] theorem modStream_pending (i : Nat) (f : Stream → Stream) : (modStream i f s).pending = s.pending := rfl
@[simp] theorem modStream_freeCtr (i : Nat) (f : Stream → Stream) : (modStream i f s).freeCtr = s.freeCtr := rfl
@[simp] theorem modStream_upNs (i : Nat) (f : Stream → Stream) : (modStream i f s).upNs = s.upNs := rfl
@[simp] theorem modStream_clk (i : Nat) (f : Stream → Stream) : (modStream i f s).clk = s.clk := rfl
@[simp] theorem modStream_pwr (i : Nat) (f : Stream → Stream) : (modStream i f s).pwr = s.pwr := rfl
@[simp] theorem modStream_pcie (i : Nat) (f : Stream → Stream) : (modStream i f s).pcie = s.pcie := rfl
@[simp] theorem modStream_hostMem (i : Nat) (f : Stream → Stream) : (modStream i f s).hostMem = s.hostMem := rfl
@[simp] theorem modStream_otp (i : Nat) (f : Stream → Stream) : (modStream i f s).otp = s.otp := rfl
@[simp] theorem modStream_cfg (i : Nat) (f : Stream → Stream) : (modStream i f s).cfg = s.cfg := rfl
@[simp] theorem modStream_rep (i : Nat) (f : Stream → Stream) : (modStream i f s).rep = s.rep := rfl
@[simp] theorem modStream_routes (i : Nat) (f : Stream → Stream) : (modStream i f s).routes = s.routes := rfl
@[simp] theorem modStream_mem (i : Nat) (f : Stream → Stream) : (modStream i f s).mem = s.mem := rfl
@[simp] theorem modStream_ecc (i : Nat) (f : Stream → Stream) : (modStream i f s).ecc = s.ecc := rfl
@[simp] theorem modStream_hbm (i : Nat) (f : Stream → Stream) : (modStream i f s).hbm = s.hbm := rfl
@[simp] theorem modStream_vat (i : Nat) (f : Stream → Stream) : (modStream i f s).vat = s.vat := rfl
@[simp] theorem modStream_ev (i : Nat) (f : Stream → Stream) : (modStream i f s).ev = s.ev := rfl
@[simp] theorem modStream_flt (i : Nat) (f : Stream → Stream) : (modStream i f s).flt = s.flt := rfl
@[simp] theorem modStream_parts (i : Nat) (f : Stream → Stream) : (modStream i f s).parts = s.parts := rfl
@[simp] theorem modStream_stms (i : Nat) (f : Stream → Stream) : (modStream i f s).stms = s.stms := rfl
@[simp] theorem modStream_jobs (i : Nat) (f : Stream → Stream) : (modStream i f s).jobs = s.jobs := rfl
@[simp] theorem modStream_accts (i : Nat) (f : Stream → Stream) : (modStream i f s).accts = s.accts := rfl
@[simp] theorem modStream_tps (i : Nat) (f : Stream → Stream) : (modStream i f s).tps = s.tps := rfl
@[simp] theorem modStream_cls (i : Nat) (f : Stream → Stream) : (modStream i f s).cls = s.cls := rfl
@[simp] theorem modStream_blk (i : Nat) (f : Stream → Stream) : (modStream i f s).blk = s.blk := rfl
@[simp] theorem modStream_cul (i : Nat) (f : Stream → Stream) : (modStream i f s).cul = s.cul := rfl
@[simp] theorem modStream_links (i : Nat) (f : Stream → Stream) : (modStream i f s).links = s.links := rfl
@[simp] theorem modStream_net (i : Nat) (f : Stream → Stream) : (modStream i f s).net = s.net := rfl
@[simp] theorem modStream_ring (i : Nat) (f : Stream → Stream) : (modStream i f s).ring = s.ring := rfl
@[simp] theorem modStream_esc (i : Nat) (f : Stream → Stream) : (modStream i f s).esc = s.esc := rfl
@[simp] theorem modStream_rgl (i : Nat) (f : Stream → Stream) : (modStream i f s).rgl = s.rgl := rfl
@[simp] theorem modStream_tel (i : Nat) (f : Stream → Stream) : (modStream i f s).tel = s.tel := rfl
@[simp] theorem modStream_uart (i : Nat) (f : Stream → Stream) : (modStream i f s).uart = s.uart := rfl
@[simp] theorem modStream_con (i : Nat) (f : Stream → Stream) : (modStream i f s).con = s.con := rfl
@[simp] theorem modStream_smb (i : Nat) (f : Stream → Stream) : (modStream i f s).smb = s.smb := rfl
@[simp] theorem modStream_pmb (i : Nat) (f : Stream → Stream) : (modStream i f s).pmb = s.pmb := rfl
@[simp] theorem modStream_tap (i : Nat) (f : Stream → Stream) : (modStream i f s).tap = s.tap := rfl

@[simp] theorem modLink_pending (n : Nat) (f : Link → Link) : (modLink n f s).pending = s.pending := rfl
@[simp] theorem modLink_freeCtr (n : Nat) (f : Link → Link) : (modLink n f s).freeCtr = s.freeCtr := rfl
@[simp] theorem modLink_upNs (n : Nat) (f : Link → Link) : (modLink n f s).upNs = s.upNs := rfl
@[simp] theorem modLink_clk (n : Nat) (f : Link → Link) : (modLink n f s).clk = s.clk := rfl
@[simp] theorem modLink_pwr (n : Nat) (f : Link → Link) : (modLink n f s).pwr = s.pwr := rfl
@[simp] theorem modLink_pcie (n : Nat) (f : Link → Link) : (modLink n f s).pcie = s.pcie := rfl
@[simp] theorem modLink_hostMem (n : Nat) (f : Link → Link) : (modLink n f s).hostMem = s.hostMem := rfl
@[simp] theorem modLink_otp (n : Nat) (f : Link → Link) : (modLink n f s).otp = s.otp := rfl
@[simp] theorem modLink_cfg (n : Nat) (f : Link → Link) : (modLink n f s).cfg = s.cfg := rfl
@[simp] theorem modLink_rep (n : Nat) (f : Link → Link) : (modLink n f s).rep = s.rep := rfl
@[simp] theorem modLink_routes (n : Nat) (f : Link → Link) : (modLink n f s).routes = s.routes := rfl
@[simp] theorem modLink_mem (n : Nat) (f : Link → Link) : (modLink n f s).mem = s.mem := rfl
@[simp] theorem modLink_ecc (n : Nat) (f : Link → Link) : (modLink n f s).ecc = s.ecc := rfl
@[simp] theorem modLink_hbm (n : Nat) (f : Link → Link) : (modLink n f s).hbm = s.hbm := rfl
@[simp] theorem modLink_vat (n : Nat) (f : Link → Link) : (modLink n f s).vat = s.vat := rfl
@[simp] theorem modLink_ev (n : Nat) (f : Link → Link) : (modLink n f s).ev = s.ev := rfl
@[simp] theorem modLink_flt (n : Nat) (f : Link → Link) : (modLink n f s).flt = s.flt := rfl
@[simp] theorem modLink_parts (n : Nat) (f : Link → Link) : (modLink n f s).parts = s.parts := rfl
@[simp] theorem modLink_stms (n : Nat) (f : Link → Link) : (modLink n f s).stms = s.stms := rfl
@[simp] theorem modLink_jobs (n : Nat) (f : Link → Link) : (modLink n f s).jobs = s.jobs := rfl
@[simp] theorem modLink_accts (n : Nat) (f : Link → Link) : (modLink n f s).accts = s.accts := rfl
@[simp] theorem modLink_tps (n : Nat) (f : Link → Link) : (modLink n f s).tps = s.tps := rfl
@[simp] theorem modLink_cls (n : Nat) (f : Link → Link) : (modLink n f s).cls = s.cls := rfl
@[simp] theorem modLink_blk (n : Nat) (f : Link → Link) : (modLink n f s).blk = s.blk := rfl
@[simp] theorem modLink_cul (n : Nat) (f : Link → Link) : (modLink n f s).cul = s.cul := rfl
@[simp] theorem modLink_streams (n : Nat) (f : Link → Link) : (modLink n f s).streams = s.streams := rfl
@[simp] theorem modLink_net (n : Nat) (f : Link → Link) : (modLink n f s).net = s.net := rfl
@[simp] theorem modLink_ring (n : Nat) (f : Link → Link) : (modLink n f s).ring = s.ring := rfl
@[simp] theorem modLink_esc (n : Nat) (f : Link → Link) : (modLink n f s).esc = s.esc := rfl
@[simp] theorem modLink_rgl (n : Nat) (f : Link → Link) : (modLink n f s).rgl = s.rgl := rfl
@[simp] theorem modLink_tel (n : Nat) (f : Link → Link) : (modLink n f s).tel = s.tel := rfl
@[simp] theorem modLink_uart (n : Nat) (f : Link → Link) : (modLink n f s).uart = s.uart := rfl
@[simp] theorem modLink_con (n : Nat) (f : Link → Link) : (modLink n f s).con = s.con := rfl
@[simp] theorem modLink_smb (n : Nat) (f : Link → Link) : (modLink n f s).smb = s.smb := rfl
@[simp] theorem modLink_pmb (n : Nat) (f : Link → Link) : (modLink n f s).pmb = s.pmb := rfl
@[simp] theorem modLink_tap (n : Nat) (f : Link → Link) : (modLink n f s).tap = s.tap := rfl

@[simp] theorem modAcct_pending (a : Nat) (f : Account → Account) : (modAcct a f s).pending = s.pending := rfl
@[simp] theorem modAcct_freeCtr (a : Nat) (f : Account → Account) : (modAcct a f s).freeCtr = s.freeCtr := rfl
@[simp] theorem modAcct_upNs (a : Nat) (f : Account → Account) : (modAcct a f s).upNs = s.upNs := rfl
@[simp] theorem modAcct_clk (a : Nat) (f : Account → Account) : (modAcct a f s).clk = s.clk := rfl
@[simp] theorem modAcct_pwr (a : Nat) (f : Account → Account) : (modAcct a f s).pwr = s.pwr := rfl
@[simp] theorem modAcct_pcie (a : Nat) (f : Account → Account) : (modAcct a f s).pcie = s.pcie := rfl
@[simp] theorem modAcct_hostMem (a : Nat) (f : Account → Account) : (modAcct a f s).hostMem = s.hostMem := rfl
@[simp] theorem modAcct_otp (a : Nat) (f : Account → Account) : (modAcct a f s).otp = s.otp := rfl
@[simp] theorem modAcct_cfg (a : Nat) (f : Account → Account) : (modAcct a f s).cfg = s.cfg := rfl
@[simp] theorem modAcct_rep (a : Nat) (f : Account → Account) : (modAcct a f s).rep = s.rep := rfl
@[simp] theorem modAcct_routes (a : Nat) (f : Account → Account) : (modAcct a f s).routes = s.routes := rfl
@[simp] theorem modAcct_mem (a : Nat) (f : Account → Account) : (modAcct a f s).mem = s.mem := rfl
@[simp] theorem modAcct_ecc (a : Nat) (f : Account → Account) : (modAcct a f s).ecc = s.ecc := rfl
@[simp] theorem modAcct_hbm (a : Nat) (f : Account → Account) : (modAcct a f s).hbm = s.hbm := rfl
@[simp] theorem modAcct_vat (a : Nat) (f : Account → Account) : (modAcct a f s).vat = s.vat := rfl
@[simp] theorem modAcct_ev (a : Nat) (f : Account → Account) : (modAcct a f s).ev = s.ev := rfl
@[simp] theorem modAcct_flt (a : Nat) (f : Account → Account) : (modAcct a f s).flt = s.flt := rfl
@[simp] theorem modAcct_parts (a : Nat) (f : Account → Account) : (modAcct a f s).parts = s.parts := rfl
@[simp] theorem modAcct_stms (a : Nat) (f : Account → Account) : (modAcct a f s).stms = s.stms := rfl
@[simp] theorem modAcct_jobs (a : Nat) (f : Account → Account) : (modAcct a f s).jobs = s.jobs := rfl
@[simp] theorem modAcct_tps (a : Nat) (f : Account → Account) : (modAcct a f s).tps = s.tps := rfl
@[simp] theorem modAcct_cls (a : Nat) (f : Account → Account) : (modAcct a f s).cls = s.cls := rfl
@[simp] theorem modAcct_blk (a : Nat) (f : Account → Account) : (modAcct a f s).blk = s.blk := rfl
@[simp] theorem modAcct_cul (a : Nat) (f : Account → Account) : (modAcct a f s).cul = s.cul := rfl
@[simp] theorem modAcct_streams (a : Nat) (f : Account → Account) : (modAcct a f s).streams = s.streams := rfl
@[simp] theorem modAcct_links (a : Nat) (f : Account → Account) : (modAcct a f s).links = s.links := rfl
@[simp] theorem modAcct_net (a : Nat) (f : Account → Account) : (modAcct a f s).net = s.net := rfl
@[simp] theorem modAcct_ring (a : Nat) (f : Account → Account) : (modAcct a f s).ring = s.ring := rfl
@[simp] theorem modAcct_esc (a : Nat) (f : Account → Account) : (modAcct a f s).esc = s.esc := rfl
@[simp] theorem modAcct_rgl (a : Nat) (f : Account → Account) : (modAcct a f s).rgl = s.rgl := rfl
@[simp] theorem modAcct_tel (a : Nat) (f : Account → Account) : (modAcct a f s).tel = s.tel := rfl
@[simp] theorem modAcct_uart (a : Nat) (f : Account → Account) : (modAcct a f s).uart = s.uart := rfl
@[simp] theorem modAcct_con (a : Nat) (f : Account → Account) : (modAcct a f s).con = s.con := rfl
@[simp] theorem modAcct_smb (a : Nat) (f : Account → Account) : (modAcct a f s).smb = s.smb := rfl
@[simp] theorem modAcct_pmb (a : Nat) (f : Account → Account) : (modAcct a f s).pmb = s.pmb := rfl
@[simp] theorem modAcct_tap (a : Nat) (f : Account → Account) : (modAcct a f s).tap = s.tap := rfl

@[simp] theorem modCl_pending (c : Nat) (f : Cluster → Cluster) : (modCl c f s).pending = s.pending := rfl
@[simp] theorem modCl_freeCtr (c : Nat) (f : Cluster → Cluster) : (modCl c f s).freeCtr = s.freeCtr := rfl
@[simp] theorem modCl_upNs (c : Nat) (f : Cluster → Cluster) : (modCl c f s).upNs = s.upNs := rfl
@[simp] theorem modCl_clk (c : Nat) (f : Cluster → Cluster) : (modCl c f s).clk = s.clk := rfl
@[simp] theorem modCl_pwr (c : Nat) (f : Cluster → Cluster) : (modCl c f s).pwr = s.pwr := rfl
@[simp] theorem modCl_pcie (c : Nat) (f : Cluster → Cluster) : (modCl c f s).pcie = s.pcie := rfl
@[simp] theorem modCl_hostMem (c : Nat) (f : Cluster → Cluster) : (modCl c f s).hostMem = s.hostMem := rfl
@[simp] theorem modCl_otp (c : Nat) (f : Cluster → Cluster) : (modCl c f s).otp = s.otp := rfl
@[simp] theorem modCl_cfg (c : Nat) (f : Cluster → Cluster) : (modCl c f s).cfg = s.cfg := rfl
@[simp] theorem modCl_rep (c : Nat) (f : Cluster → Cluster) : (modCl c f s).rep = s.rep := rfl
@[simp] theorem modCl_routes (c : Nat) (f : Cluster → Cluster) : (modCl c f s).routes = s.routes := rfl
@[simp] theorem modCl_mem (c : Nat) (f : Cluster → Cluster) : (modCl c f s).mem = s.mem := rfl
@[simp] theorem modCl_ecc (c : Nat) (f : Cluster → Cluster) : (modCl c f s).ecc = s.ecc := rfl
@[simp] theorem modCl_hbm (c : Nat) (f : Cluster → Cluster) : (modCl c f s).hbm = s.hbm := rfl
@[simp] theorem modCl_vat (c : Nat) (f : Cluster → Cluster) : (modCl c f s).vat = s.vat := rfl
@[simp] theorem modCl_ev (c : Nat) (f : Cluster → Cluster) : (modCl c f s).ev = s.ev := rfl
@[simp] theorem modCl_flt (c : Nat) (f : Cluster → Cluster) : (modCl c f s).flt = s.flt := rfl
@[simp] theorem modCl_parts (c : Nat) (f : Cluster → Cluster) : (modCl c f s).parts = s.parts := rfl
@[simp] theorem modCl_stms (c : Nat) (f : Cluster → Cluster) : (modCl c f s).stms = s.stms := rfl
@[simp] theorem modCl_jobs (c : Nat) (f : Cluster → Cluster) : (modCl c f s).jobs = s.jobs := rfl
@[simp] theorem modCl_accts (c : Nat) (f : Cluster → Cluster) : (modCl c f s).accts = s.accts := rfl
@[simp] theorem modCl_tps (c : Nat) (f : Cluster → Cluster) : (modCl c f s).tps = s.tps := rfl
@[simp] theorem modCl_blk (c : Nat) (f : Cluster → Cluster) : (modCl c f s).blk = s.blk := rfl
@[simp] theorem modCl_cul (c : Nat) (f : Cluster → Cluster) : (modCl c f s).cul = s.cul := rfl
@[simp] theorem modCl_streams (c : Nat) (f : Cluster → Cluster) : (modCl c f s).streams = s.streams := rfl
@[simp] theorem modCl_links (c : Nat) (f : Cluster → Cluster) : (modCl c f s).links = s.links := rfl
@[simp] theorem modCl_net (c : Nat) (f : Cluster → Cluster) : (modCl c f s).net = s.net := rfl
@[simp] theorem modCl_ring (c : Nat) (f : Cluster → Cluster) : (modCl c f s).ring = s.ring := rfl
@[simp] theorem modCl_esc (c : Nat) (f : Cluster → Cluster) : (modCl c f s).esc = s.esc := rfl
@[simp] theorem modCl_rgl (c : Nat) (f : Cluster → Cluster) : (modCl c f s).rgl = s.rgl := rfl
@[simp] theorem modCl_tel (c : Nat) (f : Cluster → Cluster) : (modCl c f s).tel = s.tel := rfl
@[simp] theorem modCl_uart (c : Nat) (f : Cluster → Cluster) : (modCl c f s).uart = s.uart := rfl
@[simp] theorem modCl_con (c : Nat) (f : Cluster → Cluster) : (modCl c f s).con = s.con := rfl
@[simp] theorem modCl_smb (c : Nat) (f : Cluster → Cluster) : (modCl c f s).smb = s.smb := rfl
@[simp] theorem modCl_pmb (c : Nat) (f : Cluster → Cluster) : (modCl c f s).pmb = s.pmb := rfl
@[simp] theorem modCl_tap (c : Nat) (f : Cluster → Cluster) : (modCl c f s).tap = s.tap := rfl

@[simp] theorem setCfg_pending (id v : Nat) : (setCfg id v s).pending = s.pending := rfl
@[simp] theorem setCfg_freeCtr (id v : Nat) : (setCfg id v s).freeCtr = s.freeCtr := rfl
@[simp] theorem setCfg_upNs (id v : Nat) : (setCfg id v s).upNs = s.upNs := rfl
@[simp] theorem setCfg_clk (id v : Nat) : (setCfg id v s).clk = s.clk := rfl
@[simp] theorem setCfg_pwr (id v : Nat) : (setCfg id v s).pwr = s.pwr := rfl
@[simp] theorem setCfg_pcie (id v : Nat) : (setCfg id v s).pcie = s.pcie := rfl
@[simp] theorem setCfg_hostMem (id v : Nat) : (setCfg id v s).hostMem = s.hostMem := rfl
@[simp] theorem setCfg_otp (id v : Nat) : (setCfg id v s).otp = s.otp := rfl
@[simp] theorem setCfg_rep (id v : Nat) : (setCfg id v s).rep = s.rep := rfl
@[simp] theorem setCfg_routes (id v : Nat) : (setCfg id v s).routes = s.routes := rfl
@[simp] theorem setCfg_mem (id v : Nat) : (setCfg id v s).mem = s.mem := rfl
@[simp] theorem setCfg_ecc (id v : Nat) : (setCfg id v s).ecc = s.ecc := rfl
@[simp] theorem setCfg_hbm (id v : Nat) : (setCfg id v s).hbm = s.hbm := rfl
@[simp] theorem setCfg_vat (id v : Nat) : (setCfg id v s).vat = s.vat := rfl
@[simp] theorem setCfg_ev (id v : Nat) : (setCfg id v s).ev = s.ev := rfl
@[simp] theorem setCfg_flt (id v : Nat) : (setCfg id v s).flt = s.flt := rfl
@[simp] theorem setCfg_parts (id v : Nat) : (setCfg id v s).parts = s.parts := rfl
@[simp] theorem setCfg_stms (id v : Nat) : (setCfg id v s).stms = s.stms := rfl
@[simp] theorem setCfg_jobs (id v : Nat) : (setCfg id v s).jobs = s.jobs := rfl
@[simp] theorem setCfg_accts (id v : Nat) : (setCfg id v s).accts = s.accts := rfl
@[simp] theorem setCfg_tps (id v : Nat) : (setCfg id v s).tps = s.tps := rfl
@[simp] theorem setCfg_cls (id v : Nat) : (setCfg id v s).cls = s.cls := rfl
@[simp] theorem setCfg_blk (id v : Nat) : (setCfg id v s).blk = s.blk := rfl
@[simp] theorem setCfg_cul (id v : Nat) : (setCfg id v s).cul = s.cul := rfl
@[simp] theorem setCfg_streams (id v : Nat) : (setCfg id v s).streams = s.streams := rfl
@[simp] theorem setCfg_links (id v : Nat) : (setCfg id v s).links = s.links := rfl
@[simp] theorem setCfg_net (id v : Nat) : (setCfg id v s).net = s.net := rfl
@[simp] theorem setCfg_ring (id v : Nat) : (setCfg id v s).ring = s.ring := rfl
@[simp] theorem setCfg_esc (id v : Nat) : (setCfg id v s).esc = s.esc := rfl
@[simp] theorem setCfg_rgl (id v : Nat) : (setCfg id v s).rgl = s.rgl := rfl
@[simp] theorem setCfg_tel (id v : Nat) : (setCfg id v s).tel = s.tel := rfl
@[simp] theorem setCfg_uart (id v : Nat) : (setCfg id v s).uart = s.uart := rfl
@[simp] theorem setCfg_con (id v : Nat) : (setCfg id v s).con = s.con := rfl
@[simp] theorem setCfg_smb (id v : Nat) : (setCfg id v s).smb = s.smb := rfl
@[simp] theorem setCfg_pmb (id v : Nat) : (setCfg id v s).pmb = s.pmb := rfl
@[simp] theorem setCfg_tap (id v : Nat) : (setCfg id v s).tap = s.tap := rfl

@[simp] theorem putMem_pending (a : Nat) (bs : List Byte) : (putMem a bs s).pending = s.pending := rfl
@[simp] theorem putMem_freeCtr (a : Nat) (bs : List Byte) : (putMem a bs s).freeCtr = s.freeCtr := rfl
@[simp] theorem putMem_upNs (a : Nat) (bs : List Byte) : (putMem a bs s).upNs = s.upNs := rfl
@[simp] theorem putMem_clk (a : Nat) (bs : List Byte) : (putMem a bs s).clk = s.clk := rfl
@[simp] theorem putMem_pwr (a : Nat) (bs : List Byte) : (putMem a bs s).pwr = s.pwr := rfl
@[simp] theorem putMem_pcie (a : Nat) (bs : List Byte) : (putMem a bs s).pcie = s.pcie := rfl
@[simp] theorem putMem_hostMem (a : Nat) (bs : List Byte) : (putMem a bs s).hostMem = s.hostMem := rfl
@[simp] theorem putMem_otp (a : Nat) (bs : List Byte) : (putMem a bs s).otp = s.otp := rfl
@[simp] theorem putMem_cfg (a : Nat) (bs : List Byte) : (putMem a bs s).cfg = s.cfg := rfl
@[simp] theorem putMem_rep (a : Nat) (bs : List Byte) : (putMem a bs s).rep = s.rep := rfl
@[simp] theorem putMem_routes (a : Nat) (bs : List Byte) : (putMem a bs s).routes = s.routes := rfl
@[simp] theorem putMem_ecc (a : Nat) (bs : List Byte) : (putMem a bs s).ecc = s.ecc := rfl
@[simp] theorem putMem_hbm (a : Nat) (bs : List Byte) : (putMem a bs s).hbm = s.hbm := rfl
@[simp] theorem putMem_vat (a : Nat) (bs : List Byte) : (putMem a bs s).vat = s.vat := rfl
@[simp] theorem putMem_ev (a : Nat) (bs : List Byte) : (putMem a bs s).ev = s.ev := rfl
@[simp] theorem putMem_flt (a : Nat) (bs : List Byte) : (putMem a bs s).flt = s.flt := rfl
@[simp] theorem putMem_parts (a : Nat) (bs : List Byte) : (putMem a bs s).parts = s.parts := rfl
@[simp] theorem putMem_stms (a : Nat) (bs : List Byte) : (putMem a bs s).stms = s.stms := rfl
@[simp] theorem putMem_jobs (a : Nat) (bs : List Byte) : (putMem a bs s).jobs = s.jobs := rfl
@[simp] theorem putMem_accts (a : Nat) (bs : List Byte) : (putMem a bs s).accts = s.accts := rfl
@[simp] theorem putMem_tps (a : Nat) (bs : List Byte) : (putMem a bs s).tps = s.tps := rfl
@[simp] theorem putMem_cls (a : Nat) (bs : List Byte) : (putMem a bs s).cls = s.cls := rfl
@[simp] theorem putMem_blk (a : Nat) (bs : List Byte) : (putMem a bs s).blk = s.blk := rfl
@[simp] theorem putMem_cul (a : Nat) (bs : List Byte) : (putMem a bs s).cul = s.cul := rfl
@[simp] theorem putMem_streams (a : Nat) (bs : List Byte) : (putMem a bs s).streams = s.streams := rfl
@[simp] theorem putMem_links (a : Nat) (bs : List Byte) : (putMem a bs s).links = s.links := rfl
@[simp] theorem putMem_net (a : Nat) (bs : List Byte) : (putMem a bs s).net = s.net := rfl
@[simp] theorem putMem_ring (a : Nat) (bs : List Byte) : (putMem a bs s).ring = s.ring := rfl
@[simp] theorem putMem_esc (a : Nat) (bs : List Byte) : (putMem a bs s).esc = s.esc := rfl
@[simp] theorem putMem_rgl (a : Nat) (bs : List Byte) : (putMem a bs s).rgl = s.rgl := rfl
@[simp] theorem putMem_tel (a : Nat) (bs : List Byte) : (putMem a bs s).tel = s.tel := rfl
@[simp] theorem putMem_uart (a : Nat) (bs : List Byte) : (putMem a bs s).uart = s.uart := rfl
@[simp] theorem putMem_con (a : Nat) (bs : List Byte) : (putMem a bs s).con = s.con := rfl
@[simp] theorem putMem_smb (a : Nat) (bs : List Byte) : (putMem a bs s).smb = s.smb := rfl
@[simp] theorem putMem_pmb (a : Nat) (bs : List Byte) : (putMem a bs s).pmb = s.pmb := rfl
@[simp] theorem putMem_tap (a : Nat) (bs : List Byte) : (putMem a bs s).tap = s.tap := rfl

@[simp] theorem healLines_pending (a n : Nat) : (healLines a n s).pending = s.pending := rfl
@[simp] theorem healLines_freeCtr (a n : Nat) : (healLines a n s).freeCtr = s.freeCtr := rfl
@[simp] theorem healLines_upNs (a n : Nat) : (healLines a n s).upNs = s.upNs := rfl
@[simp] theorem healLines_clk (a n : Nat) : (healLines a n s).clk = s.clk := rfl
@[simp] theorem healLines_pwr (a n : Nat) : (healLines a n s).pwr = s.pwr := rfl
@[simp] theorem healLines_pcie (a n : Nat) : (healLines a n s).pcie = s.pcie := rfl
@[simp] theorem healLines_hostMem (a n : Nat) : (healLines a n s).hostMem = s.hostMem := rfl
@[simp] theorem healLines_otp (a n : Nat) : (healLines a n s).otp = s.otp := rfl
@[simp] theorem healLines_cfg (a n : Nat) : (healLines a n s).cfg = s.cfg := rfl
@[simp] theorem healLines_rep (a n : Nat) : (healLines a n s).rep = s.rep := rfl
@[simp] theorem healLines_routes (a n : Nat) : (healLines a n s).routes = s.routes := rfl
@[simp] theorem healLines_mem (a n : Nat) : (healLines a n s).mem = s.mem := rfl
@[simp] theorem healLines_hbm (a n : Nat) : (healLines a n s).hbm = s.hbm := rfl
@[simp] theorem healLines_vat (a n : Nat) : (healLines a n s).vat = s.vat := rfl
@[simp] theorem healLines_ev (a n : Nat) : (healLines a n s).ev = s.ev := rfl
@[simp] theorem healLines_flt (a n : Nat) : (healLines a n s).flt = s.flt := rfl
@[simp] theorem healLines_parts (a n : Nat) : (healLines a n s).parts = s.parts := rfl
@[simp] theorem healLines_stms (a n : Nat) : (healLines a n s).stms = s.stms := rfl
@[simp] theorem healLines_jobs (a n : Nat) : (healLines a n s).jobs = s.jobs := rfl
@[simp] theorem healLines_accts (a n : Nat) : (healLines a n s).accts = s.accts := rfl
@[simp] theorem healLines_tps (a n : Nat) : (healLines a n s).tps = s.tps := rfl
@[simp] theorem healLines_cls (a n : Nat) : (healLines a n s).cls = s.cls := rfl
@[simp] theorem healLines_blk (a n : Nat) : (healLines a n s).blk = s.blk := rfl
@[simp] theorem healLines_cul (a n : Nat) : (healLines a n s).cul = s.cul := rfl
@[simp] theorem healLines_streams (a n : Nat) : (healLines a n s).streams = s.streams := rfl
@[simp] theorem healLines_links (a n : Nat) : (healLines a n s).links = s.links := rfl
@[simp] theorem healLines_net (a n : Nat) : (healLines a n s).net = s.net := rfl
@[simp] theorem healLines_ring (a n : Nat) : (healLines a n s).ring = s.ring := rfl
@[simp] theorem healLines_esc (a n : Nat) : (healLines a n s).esc = s.esc := rfl
@[simp] theorem healLines_rgl (a n : Nat) : (healLines a n s).rgl = s.rgl := rfl
@[simp] theorem healLines_tel (a n : Nat) : (healLines a n s).tel = s.tel := rfl
@[simp] theorem healLines_uart (a n : Nat) : (healLines a n s).uart = s.uart := rfl
@[simp] theorem healLines_con (a n : Nat) : (healLines a n s).con = s.con := rfl
@[simp] theorem healLines_smb (a n : Nat) : (healLines a n s).smb = s.smb := rfl
@[simp] theorem healLines_pmb (a n : Nat) : (healLines a n s).pmb = s.pmb := rfl
@[simp] theorem healLines_tap (a n : Nat) : (healLines a n s).tap = s.tap := rfl

@[simp] theorem clearMem_pending (a n : Nat) : (clearMem a n s).pending = s.pending := rfl
@[simp] theorem clearMem_freeCtr (a n : Nat) : (clearMem a n s).freeCtr = s.freeCtr := rfl
@[simp] theorem clearMem_upNs (a n : Nat) : (clearMem a n s).upNs = s.upNs := rfl
@[simp] theorem clearMem_clk (a n : Nat) : (clearMem a n s).clk = s.clk := rfl
@[simp] theorem clearMem_pwr (a n : Nat) : (clearMem a n s).pwr = s.pwr := rfl
@[simp] theorem clearMem_pcie (a n : Nat) : (clearMem a n s).pcie = s.pcie := rfl
@[simp] theorem clearMem_hostMem (a n : Nat) : (clearMem a n s).hostMem = s.hostMem := rfl
@[simp] theorem clearMem_otp (a n : Nat) : (clearMem a n s).otp = s.otp := rfl
@[simp] theorem clearMem_cfg (a n : Nat) : (clearMem a n s).cfg = s.cfg := rfl
@[simp] theorem clearMem_rep (a n : Nat) : (clearMem a n s).rep = s.rep := rfl
@[simp] theorem clearMem_routes (a n : Nat) : (clearMem a n s).routes = s.routes := rfl
@[simp] theorem clearMem_ecc (a n : Nat) : (clearMem a n s).ecc = s.ecc := rfl
@[simp] theorem clearMem_hbm (a n : Nat) : (clearMem a n s).hbm = s.hbm := rfl
@[simp] theorem clearMem_vat (a n : Nat) : (clearMem a n s).vat = s.vat := rfl
@[simp] theorem clearMem_ev (a n : Nat) : (clearMem a n s).ev = s.ev := rfl
@[simp] theorem clearMem_flt (a n : Nat) : (clearMem a n s).flt = s.flt := rfl
@[simp] theorem clearMem_parts (a n : Nat) : (clearMem a n s).parts = s.parts := rfl
@[simp] theorem clearMem_stms (a n : Nat) : (clearMem a n s).stms = s.stms := rfl
@[simp] theorem clearMem_jobs (a n : Nat) : (clearMem a n s).jobs = s.jobs := rfl
@[simp] theorem clearMem_accts (a n : Nat) : (clearMem a n s).accts = s.accts := rfl
@[simp] theorem clearMem_tps (a n : Nat) : (clearMem a n s).tps = s.tps := rfl
@[simp] theorem clearMem_cls (a n : Nat) : (clearMem a n s).cls = s.cls := rfl
@[simp] theorem clearMem_blk (a n : Nat) : (clearMem a n s).blk = s.blk := rfl
@[simp] theorem clearMem_cul (a n : Nat) : (clearMem a n s).cul = s.cul := rfl
@[simp] theorem clearMem_streams (a n : Nat) : (clearMem a n s).streams = s.streams := rfl
@[simp] theorem clearMem_links (a n : Nat) : (clearMem a n s).links = s.links := rfl
@[simp] theorem clearMem_net (a n : Nat) : (clearMem a n s).net = s.net := rfl
@[simp] theorem clearMem_ring (a n : Nat) : (clearMem a n s).ring = s.ring := rfl
@[simp] theorem clearMem_esc (a n : Nat) : (clearMem a n s).esc = s.esc := rfl
@[simp] theorem clearMem_rgl (a n : Nat) : (clearMem a n s).rgl = s.rgl := rfl
@[simp] theorem clearMem_tel (a n : Nat) : (clearMem a n s).tel = s.tel := rfl
@[simp] theorem clearMem_uart (a n : Nat) : (clearMem a n s).uart = s.uart := rfl
@[simp] theorem clearMem_con (a n : Nat) : (clearMem a n s).con = s.con := rfl
@[simp] theorem clearMem_smb (a n : Nat) : (clearMem a n s).smb = s.smb := rfl
@[simp] theorem clearMem_pmb (a n : Nat) : (clearMem a n s).pmb = s.pmb := rfl
@[simp] theorem clearMem_tap (a n : Nat) : (clearMem a n s).tap = s.tap := rfl

@[simp] theorem countSoft_pending (a n : Nat) : (countSoft a n s).pending = s.pending := rfl
@[simp] theorem countSoft_freeCtr (a n : Nat) : (countSoft a n s).freeCtr = s.freeCtr := rfl
@[simp] theorem countSoft_upNs (a n : Nat) : (countSoft a n s).upNs = s.upNs := rfl
@[simp] theorem countSoft_clk (a n : Nat) : (countSoft a n s).clk = s.clk := rfl
@[simp] theorem countSoft_pwr (a n : Nat) : (countSoft a n s).pwr = s.pwr := rfl
@[simp] theorem countSoft_pcie (a n : Nat) : (countSoft a n s).pcie = s.pcie := rfl
@[simp] theorem countSoft_hostMem (a n : Nat) : (countSoft a n s).hostMem = s.hostMem := rfl
@[simp] theorem countSoft_otp (a n : Nat) : (countSoft a n s).otp = s.otp := rfl
@[simp] theorem countSoft_cfg (a n : Nat) : (countSoft a n s).cfg = s.cfg := rfl
@[simp] theorem countSoft_rep (a n : Nat) : (countSoft a n s).rep = s.rep := rfl
@[simp] theorem countSoft_routes (a n : Nat) : (countSoft a n s).routes = s.routes := rfl
@[simp] theorem countSoft_mem (a n : Nat) : (countSoft a n s).mem = s.mem := rfl
@[simp] theorem countSoft_ecc (a n : Nat) : (countSoft a n s).ecc = s.ecc := rfl
@[simp] theorem countSoft_hbm (a n : Nat) : (countSoft a n s).hbm = s.hbm := rfl
@[simp] theorem countSoft_vat (a n : Nat) : (countSoft a n s).vat = s.vat := rfl
@[simp] theorem countSoft_ev (a n : Nat) : (countSoft a n s).ev = s.ev := rfl
@[simp] theorem countSoft_parts (a n : Nat) : (countSoft a n s).parts = s.parts := rfl
@[simp] theorem countSoft_stms (a n : Nat) : (countSoft a n s).stms = s.stms := rfl
@[simp] theorem countSoft_jobs (a n : Nat) : (countSoft a n s).jobs = s.jobs := rfl
@[simp] theorem countSoft_accts (a n : Nat) : (countSoft a n s).accts = s.accts := rfl
@[simp] theorem countSoft_tps (a n : Nat) : (countSoft a n s).tps = s.tps := rfl
@[simp] theorem countSoft_cls (a n : Nat) : (countSoft a n s).cls = s.cls := rfl
@[simp] theorem countSoft_blk (a n : Nat) : (countSoft a n s).blk = s.blk := rfl
@[simp] theorem countSoft_cul (a n : Nat) : (countSoft a n s).cul = s.cul := rfl
@[simp] theorem countSoft_streams (a n : Nat) : (countSoft a n s).streams = s.streams := rfl
@[simp] theorem countSoft_links (a n : Nat) : (countSoft a n s).links = s.links := rfl
@[simp] theorem countSoft_net (a n : Nat) : (countSoft a n s).net = s.net := rfl
@[simp] theorem countSoft_ring (a n : Nat) : (countSoft a n s).ring = s.ring := rfl
@[simp] theorem countSoft_esc (a n : Nat) : (countSoft a n s).esc = s.esc := rfl
@[simp] theorem countSoft_rgl (a n : Nat) : (countSoft a n s).rgl = s.rgl := rfl
@[simp] theorem countSoft_tel (a n : Nat) : (countSoft a n s).tel = s.tel := rfl
@[simp] theorem countSoft_uart (a n : Nat) : (countSoft a n s).uart = s.uart := rfl
@[simp] theorem countSoft_con (a n : Nat) : (countSoft a n s).con = s.con := rfl
@[simp] theorem countSoft_smb (a n : Nat) : (countSoft a n s).smb = s.smb := rfl
@[simp] theorem countSoft_pmb (a n : Nat) : (countSoft a n s).pmb = s.pmb := rfl
@[simp] theorem countSoft_tap (a n : Nat) : (countSoft a n s).tap = s.tap := rfl

@[simp] theorem skipFree_pending (n : Nat) : (skipFree n s).pending = s.pending := rfl
@[simp] theorem skipFree_upNs (n : Nat) : (skipFree n s).upNs = s.upNs := rfl
@[simp] theorem skipFree_clk (n : Nat) : (skipFree n s).clk = s.clk := rfl
@[simp] theorem skipFree_pwr (n : Nat) : (skipFree n s).pwr = s.pwr := rfl
@[simp] theorem skipFree_pcie (n : Nat) : (skipFree n s).pcie = s.pcie := rfl
@[simp] theorem skipFree_hostMem (n : Nat) : (skipFree n s).hostMem = s.hostMem := rfl
@[simp] theorem skipFree_otp (n : Nat) : (skipFree n s).otp = s.otp := rfl
@[simp] theorem skipFree_cfg (n : Nat) : (skipFree n s).cfg = s.cfg := rfl
@[simp] theorem skipFree_rep (n : Nat) : (skipFree n s).rep = s.rep := rfl
@[simp] theorem skipFree_routes (n : Nat) : (skipFree n s).routes = s.routes := rfl
@[simp] theorem skipFree_mem (n : Nat) : (skipFree n s).mem = s.mem := rfl
@[simp] theorem skipFree_ecc (n : Nat) : (skipFree n s).ecc = s.ecc := rfl
@[simp] theorem skipFree_hbm (n : Nat) : (skipFree n s).hbm = s.hbm := rfl
@[simp] theorem skipFree_vat (n : Nat) : (skipFree n s).vat = s.vat := rfl
@[simp] theorem skipFree_ev (n : Nat) : (skipFree n s).ev = s.ev := rfl
@[simp] theorem skipFree_flt (n : Nat) : (skipFree n s).flt = s.flt := rfl
@[simp] theorem skipFree_parts (n : Nat) : (skipFree n s).parts = s.parts := rfl
@[simp] theorem skipFree_stms (n : Nat) : (skipFree n s).stms = s.stms := rfl
@[simp] theorem skipFree_jobs (n : Nat) : (skipFree n s).jobs = s.jobs := rfl
@[simp] theorem skipFree_accts (n : Nat) : (skipFree n s).accts = s.accts := rfl
@[simp] theorem skipFree_tps (n : Nat) : (skipFree n s).tps = s.tps := rfl
@[simp] theorem skipFree_cls (n : Nat) : (skipFree n s).cls = s.cls := rfl
@[simp] theorem skipFree_blk (n : Nat) : (skipFree n s).blk = s.blk := rfl
@[simp] theorem skipFree_cul (n : Nat) : (skipFree n s).cul = s.cul := rfl
@[simp] theorem skipFree_streams (n : Nat) : (skipFree n s).streams = s.streams := rfl
@[simp] theorem skipFree_links (n : Nat) : (skipFree n s).links = s.links := rfl
@[simp] theorem skipFree_net (n : Nat) : (skipFree n s).net = s.net := rfl
@[simp] theorem skipFree_ring (n : Nat) : (skipFree n s).ring = s.ring := rfl
@[simp] theorem skipFree_esc (n : Nat) : (skipFree n s).esc = s.esc := rfl
@[simp] theorem skipFree_rgl (n : Nat) : (skipFree n s).rgl = s.rgl := rfl
@[simp] theorem skipFree_tel (n : Nat) : (skipFree n s).tel = s.tel := rfl
@[simp] theorem skipFree_uart (n : Nat) : (skipFree n s).uart = s.uart := rfl
@[simp] theorem skipFree_con (n : Nat) : (skipFree n s).con = s.con := rfl
@[simp] theorem skipFree_smb (n : Nat) : (skipFree n s).smb = s.smb := rfl
@[simp] theorem skipFree_pmb (n : Nat) : (skipFree n s).pmb = s.pmb := rfl
@[simp] theorem skipFree_tap (n : Nat) : (skipFree n s).tap = s.tap := rfl

@[simp] theorem raiseMsix_pending (v : Nat) : (raiseMsix v s).pending = s.pending := rfl
@[simp] theorem raiseMsix_freeCtr (v : Nat) : (raiseMsix v s).freeCtr = s.freeCtr := rfl
@[simp] theorem raiseMsix_upNs (v : Nat) : (raiseMsix v s).upNs = s.upNs := rfl
@[simp] theorem raiseMsix_clk (v : Nat) : (raiseMsix v s).clk = s.clk := rfl
@[simp] theorem raiseMsix_pwr (v : Nat) : (raiseMsix v s).pwr = s.pwr := rfl
@[simp] theorem raiseMsix_hostMem (v : Nat) : (raiseMsix v s).hostMem = s.hostMem := rfl
@[simp] theorem raiseMsix_otp (v : Nat) : (raiseMsix v s).otp = s.otp := rfl
@[simp] theorem raiseMsix_cfg (v : Nat) : (raiseMsix v s).cfg = s.cfg := rfl
@[simp] theorem raiseMsix_rep (v : Nat) : (raiseMsix v s).rep = s.rep := rfl
@[simp] theorem raiseMsix_routes (v : Nat) : (raiseMsix v s).routes = s.routes := rfl
@[simp] theorem raiseMsix_mem (v : Nat) : (raiseMsix v s).mem = s.mem := rfl
@[simp] theorem raiseMsix_ecc (v : Nat) : (raiseMsix v s).ecc = s.ecc := rfl
@[simp] theorem raiseMsix_hbm (v : Nat) : (raiseMsix v s).hbm = s.hbm := rfl
@[simp] theorem raiseMsix_vat (v : Nat) : (raiseMsix v s).vat = s.vat := rfl
@[simp] theorem raiseMsix_ev (v : Nat) : (raiseMsix v s).ev = s.ev := rfl
@[simp] theorem raiseMsix_flt (v : Nat) : (raiseMsix v s).flt = s.flt := rfl
@[simp] theorem raiseMsix_parts (v : Nat) : (raiseMsix v s).parts = s.parts := rfl
@[simp] theorem raiseMsix_stms (v : Nat) : (raiseMsix v s).stms = s.stms := rfl
@[simp] theorem raiseMsix_jobs (v : Nat) : (raiseMsix v s).jobs = s.jobs := rfl
@[simp] theorem raiseMsix_accts (v : Nat) : (raiseMsix v s).accts = s.accts := rfl
@[simp] theorem raiseMsix_tps (v : Nat) : (raiseMsix v s).tps = s.tps := rfl
@[simp] theorem raiseMsix_cls (v : Nat) : (raiseMsix v s).cls = s.cls := rfl
@[simp] theorem raiseMsix_blk (v : Nat) : (raiseMsix v s).blk = s.blk := rfl
@[simp] theorem raiseMsix_cul (v : Nat) : (raiseMsix v s).cul = s.cul := rfl
@[simp] theorem raiseMsix_streams (v : Nat) : (raiseMsix v s).streams = s.streams := rfl
@[simp] theorem raiseMsix_links (v : Nat) : (raiseMsix v s).links = s.links := rfl
@[simp] theorem raiseMsix_net (v : Nat) : (raiseMsix v s).net = s.net := rfl
@[simp] theorem raiseMsix_ring (v : Nat) : (raiseMsix v s).ring = s.ring := rfl
@[simp] theorem raiseMsix_esc (v : Nat) : (raiseMsix v s).esc = s.esc := rfl
@[simp] theorem raiseMsix_rgl (v : Nat) : (raiseMsix v s).rgl = s.rgl := rfl
@[simp] theorem raiseMsix_tel (v : Nat) : (raiseMsix v s).tel = s.tel := rfl
@[simp] theorem raiseMsix_uart (v : Nat) : (raiseMsix v s).uart = s.uart := rfl
@[simp] theorem raiseMsix_con (v : Nat) : (raiseMsix v s).con = s.con := rfl
@[simp] theorem raiseMsix_smb (v : Nat) : (raiseMsix v s).smb = s.smb := rfl
@[simp] theorem raiseMsix_pmb (v : Nat) : (raiseMsix v s).pmb = s.pmb := rfl
@[simp] theorem raiseMsix_tap (v : Nat) : (raiseMsix v s).tap = s.tap := rfl

@[simp] theorem noteCycle_pending (slot cy : Nat) : (noteCycle slot cy s).pending = s.pending := rfl
@[simp] theorem noteCycle_freeCtr (slot cy : Nat) : (noteCycle slot cy s).freeCtr = s.freeCtr := rfl
@[simp] theorem noteCycle_upNs (slot cy : Nat) : (noteCycle slot cy s).upNs = s.upNs := rfl
@[simp] theorem noteCycle_clk (slot cy : Nat) : (noteCycle slot cy s).clk = s.clk := rfl
@[simp] theorem noteCycle_pwr (slot cy : Nat) : (noteCycle slot cy s).pwr = s.pwr := rfl
@[simp] theorem noteCycle_pcie (slot cy : Nat) : (noteCycle slot cy s).pcie = s.pcie := rfl
@[simp] theorem noteCycle_hostMem (slot cy : Nat) : (noteCycle slot cy s).hostMem = s.hostMem := rfl
@[simp] theorem noteCycle_otp (slot cy : Nat) : (noteCycle slot cy s).otp = s.otp := rfl
@[simp] theorem noteCycle_cfg (slot cy : Nat) : (noteCycle slot cy s).cfg = s.cfg := rfl
@[simp] theorem noteCycle_rep (slot cy : Nat) : (noteCycle slot cy s).rep = s.rep := rfl
@[simp] theorem noteCycle_routes (slot cy : Nat) : (noteCycle slot cy s).routes = s.routes := rfl
@[simp] theorem noteCycle_mem (slot cy : Nat) : (noteCycle slot cy s).mem = s.mem := rfl
@[simp] theorem noteCycle_ecc (slot cy : Nat) : (noteCycle slot cy s).ecc = s.ecc := rfl
@[simp] theorem noteCycle_hbm (slot cy : Nat) : (noteCycle slot cy s).hbm = s.hbm := rfl
@[simp] theorem noteCycle_vat (slot cy : Nat) : (noteCycle slot cy s).vat = s.vat := rfl
@[simp] theorem noteCycle_ev (slot cy : Nat) : (noteCycle slot cy s).ev = s.ev := rfl
@[simp] theorem noteCycle_flt (slot cy : Nat) : (noteCycle slot cy s).flt = s.flt := rfl
@[simp] theorem noteCycle_parts (slot cy : Nat) : (noteCycle slot cy s).parts = s.parts := rfl
@[simp] theorem noteCycle_stms (slot cy : Nat) : (noteCycle slot cy s).stms = s.stms := rfl
@[simp] theorem noteCycle_accts (slot cy : Nat) : (noteCycle slot cy s).accts = s.accts := rfl
@[simp] theorem noteCycle_tps (slot cy : Nat) : (noteCycle slot cy s).tps = s.tps := rfl
@[simp] theorem noteCycle_cls (slot cy : Nat) : (noteCycle slot cy s).cls = s.cls := rfl
@[simp] theorem noteCycle_blk (slot cy : Nat) : (noteCycle slot cy s).blk = s.blk := rfl
@[simp] theorem noteCycle_cul (slot cy : Nat) : (noteCycle slot cy s).cul = s.cul := rfl
@[simp] theorem noteCycle_streams (slot cy : Nat) : (noteCycle slot cy s).streams = s.streams := rfl
@[simp] theorem noteCycle_links (slot cy : Nat) : (noteCycle slot cy s).links = s.links := rfl
@[simp] theorem noteCycle_net (slot cy : Nat) : (noteCycle slot cy s).net = s.net := rfl
@[simp] theorem noteCycle_ring (slot cy : Nat) : (noteCycle slot cy s).ring = s.ring := rfl
@[simp] theorem noteCycle_esc (slot cy : Nat) : (noteCycle slot cy s).esc = s.esc := rfl
@[simp] theorem noteCycle_rgl (slot cy : Nat) : (noteCycle slot cy s).rgl = s.rgl := rfl
@[simp] theorem noteCycle_tel (slot cy : Nat) : (noteCycle slot cy s).tel = s.tel := rfl
@[simp] theorem noteCycle_uart (slot cy : Nat) : (noteCycle slot cy s).uart = s.uart := rfl
@[simp] theorem noteCycle_con (slot cy : Nat) : (noteCycle slot cy s).con = s.con := rfl
@[simp] theorem noteCycle_smb (slot cy : Nat) : (noteCycle slot cy s).smb = s.smb := rfl
@[simp] theorem noteCycle_pmb (slot cy : Nat) : (noteCycle slot cy s).pmb = s.pmb := rfl
@[simp] theorem noteCycle_tap (slot cy : Nat) : (noteCycle slot cy s).tap = s.tap := rfl

@[simp] theorem advanceTo_pending (t : Nat) : (advanceTo t s).pending = s.pending := by
  unfold advanceTo; split <;> rfl
@[simp] theorem advanceTo_freeCtr (t : Nat) : (advanceTo t s).freeCtr = s.freeCtr := by
  unfold advanceTo; split <;> rfl
@[simp] theorem advanceTo_pwr (t : Nat) : (advanceTo t s).pwr = s.pwr := by
  unfold advanceTo; split <;> rfl
@[simp] theorem advanceTo_pcie (t : Nat) : (advanceTo t s).pcie = s.pcie := by
  unfold advanceTo; split <;> rfl
@[simp] theorem advanceTo_hostMem (t : Nat) : (advanceTo t s).hostMem = s.hostMem := by
  unfold advanceTo; split <;> rfl
@[simp] theorem advanceTo_otp (t : Nat) : (advanceTo t s).otp = s.otp := by
  unfold advanceTo; split <;> rfl
@[simp] theorem advanceTo_cfg (t : Nat) : (advanceTo t s).cfg = s.cfg := by
  unfold advanceTo; split <;> rfl
@[simp] theorem advanceTo_rep (t : Nat) : (advanceTo t s).rep = s.rep := by
  unfold advanceTo; split <;> rfl
@[simp] theorem advanceTo_routes (t : Nat) : (advanceTo t s).routes = s.routes := by
  unfold advanceTo; split <;> rfl
@[simp] theorem advanceTo_mem (t : Nat) : (advanceTo t s).mem = s.mem := by
  unfold advanceTo; split <;> rfl
@[simp] theorem advanceTo_ecc (t : Nat) : (advanceTo t s).ecc = s.ecc := by
  unfold advanceTo; split <;> rfl
@[simp] theorem advanceTo_hbm (t : Nat) : (advanceTo t s).hbm = s.hbm := by
  unfold advanceTo; split <;> rfl
@[simp] theorem advanceTo_vat (t : Nat) : (advanceTo t s).vat = s.vat := by
  unfold advanceTo; split <;> rfl
@[simp] theorem advanceTo_ev (t : Nat) : (advanceTo t s).ev = s.ev := by
  unfold advanceTo; split <;> rfl
@[simp] theorem advanceTo_flt (t : Nat) : (advanceTo t s).flt = s.flt := by
  unfold advanceTo; split <;> rfl
@[simp] theorem advanceTo_parts (t : Nat) : (advanceTo t s).parts = s.parts := by
  unfold advanceTo; split <;> rfl
@[simp] theorem advanceTo_stms (t : Nat) : (advanceTo t s).stms = s.stms := by
  unfold advanceTo; split <;> rfl
@[simp] theorem advanceTo_jobs (t : Nat) : (advanceTo t s).jobs = s.jobs := by
  unfold advanceTo; split <;> rfl
@[simp] theorem advanceTo_accts (t : Nat) : (advanceTo t s).accts = s.accts := by
  unfold advanceTo; split <;> rfl
@[simp] theorem advanceTo_tps (t : Nat) : (advanceTo t s).tps = s.tps := by
  unfold advanceTo; split <;> rfl
@[simp] theorem advanceTo_cls (t : Nat) : (advanceTo t s).cls = s.cls := by
  unfold advanceTo; split <;> rfl
@[simp] theorem advanceTo_blk (t : Nat) : (advanceTo t s).blk = s.blk := by
  unfold advanceTo; split <;> rfl
@[simp] theorem advanceTo_cul (t : Nat) : (advanceTo t s).cul = s.cul := by
  unfold advanceTo; split <;> rfl
@[simp] theorem advanceTo_streams (t : Nat) : (advanceTo t s).streams = s.streams := by
  unfold advanceTo; split <;> rfl
@[simp] theorem advanceTo_links (t : Nat) : (advanceTo t s).links = s.links := by
  unfold advanceTo; split <;> rfl
@[simp] theorem advanceTo_net (t : Nat) : (advanceTo t s).net = s.net := by
  unfold advanceTo; split <;> rfl
@[simp] theorem advanceTo_ring (t : Nat) : (advanceTo t s).ring = s.ring := by
  unfold advanceTo; split <;> rfl
@[simp] theorem advanceTo_esc (t : Nat) : (advanceTo t s).esc = s.esc := by
  unfold advanceTo; split <;> rfl
@[simp] theorem advanceTo_rgl (t : Nat) : (advanceTo t s).rgl = s.rgl := by
  unfold advanceTo; split <;> rfl
@[simp] theorem advanceTo_tel (t : Nat) : (advanceTo t s).tel = s.tel := by
  unfold advanceTo; split <;> rfl
@[simp] theorem advanceTo_uart (t : Nat) : (advanceTo t s).uart = s.uart := by
  unfold advanceTo; split <;> rfl
@[simp] theorem advanceTo_con (t : Nat) : (advanceTo t s).con = s.con := by
  unfold advanceTo; split <;> rfl
@[simp] theorem advanceTo_smb (t : Nat) : (advanceTo t s).smb = s.smb := by
  unfold advanceTo; split <;> rfl
@[simp] theorem advanceTo_pmb (t : Nat) : (advanceTo t s).pmb = s.pmb := by
  unfold advanceTo; split <;> rfl
@[simp] theorem advanceTo_tap (t : Nat) : (advanceTo t s).tap = s.tap := by
  unfold advanceTo; split <;> rfl

@[simp] theorem postIf_pending (c : Bool) (src code sev : Nat) (p : List Byte) : (postIf c src code sev p s).pending = s.pending := by
  unfold postIf; split <;> rfl
@[simp] theorem postIf_freeCtr (c : Bool) (src code sev : Nat) (p : List Byte) : (postIf c src code sev p s).freeCtr = s.freeCtr := by
  unfold postIf; split <;> rfl
@[simp] theorem postIf_upNs (c : Bool) (src code sev : Nat) (p : List Byte) : (postIf c src code sev p s).upNs = s.upNs := by
  unfold postIf; split <;> rfl
@[simp] theorem postIf_clk (c : Bool) (src code sev : Nat) (p : List Byte) : (postIf c src code sev p s).clk = s.clk := by
  unfold postIf; split <;> rfl
@[simp] theorem postIf_pwr (c : Bool) (src code sev : Nat) (p : List Byte) : (postIf c src code sev p s).pwr = s.pwr := by
  unfold postIf; split <;> rfl
@[simp] theorem postIf_pcie (c : Bool) (src code sev : Nat) (p : List Byte) : (postIf c src code sev p s).pcie = s.pcie := by
  unfold postIf; split <;> rfl
@[simp] theorem postIf_hostMem (c : Bool) (src code sev : Nat) (p : List Byte) : (postIf c src code sev p s).hostMem = s.hostMem := by
  unfold postIf; split <;> rfl
@[simp] theorem postIf_otp (c : Bool) (src code sev : Nat) (p : List Byte) : (postIf c src code sev p s).otp = s.otp := by
  unfold postIf; split <;> rfl
@[simp] theorem postIf_cfg (c : Bool) (src code sev : Nat) (p : List Byte) : (postIf c src code sev p s).cfg = s.cfg := by
  unfold postIf; split <;> rfl
@[simp] theorem postIf_rep (c : Bool) (src code sev : Nat) (p : List Byte) : (postIf c src code sev p s).rep = s.rep := by
  unfold postIf; split <;> rfl
@[simp] theorem postIf_routes (c : Bool) (src code sev : Nat) (p : List Byte) : (postIf c src code sev p s).routes = s.routes := by
  unfold postIf; split <;> rfl
@[simp] theorem postIf_mem (c : Bool) (src code sev : Nat) (p : List Byte) : (postIf c src code sev p s).mem = s.mem := by
  unfold postIf; split <;> rfl
@[simp] theorem postIf_ecc (c : Bool) (src code sev : Nat) (p : List Byte) : (postIf c src code sev p s).ecc = s.ecc := by
  unfold postIf; split <;> rfl
@[simp] theorem postIf_hbm (c : Bool) (src code sev : Nat) (p : List Byte) : (postIf c src code sev p s).hbm = s.hbm := by
  unfold postIf; split <;> rfl
@[simp] theorem postIf_vat (c : Bool) (src code sev : Nat) (p : List Byte) : (postIf c src code sev p s).vat = s.vat := by
  unfold postIf; split <;> rfl
@[simp] theorem postIf_flt (c : Bool) (src code sev : Nat) (p : List Byte) : (postIf c src code sev p s).flt = s.flt := by
  unfold postIf; split <;> rfl
@[simp] theorem postIf_parts (c : Bool) (src code sev : Nat) (p : List Byte) : (postIf c src code sev p s).parts = s.parts := by
  unfold postIf; split <;> rfl
@[simp] theorem postIf_stms (c : Bool) (src code sev : Nat) (p : List Byte) : (postIf c src code sev p s).stms = s.stms := by
  unfold postIf; split <;> rfl
@[simp] theorem postIf_jobs (c : Bool) (src code sev : Nat) (p : List Byte) : (postIf c src code sev p s).jobs = s.jobs := by
  unfold postIf; split <;> rfl
@[simp] theorem postIf_accts (c : Bool) (src code sev : Nat) (p : List Byte) : (postIf c src code sev p s).accts = s.accts := by
  unfold postIf; split <;> rfl
@[simp] theorem postIf_tps (c : Bool) (src code sev : Nat) (p : List Byte) : (postIf c src code sev p s).tps = s.tps := by
  unfold postIf; split <;> rfl
@[simp] theorem postIf_cls (c : Bool) (src code sev : Nat) (p : List Byte) : (postIf c src code sev p s).cls = s.cls := by
  unfold postIf; split <;> rfl
@[simp] theorem postIf_blk (c : Bool) (src code sev : Nat) (p : List Byte) : (postIf c src code sev p s).blk = s.blk := by
  unfold postIf; split <;> rfl
@[simp] theorem postIf_cul (c : Bool) (src code sev : Nat) (p : List Byte) : (postIf c src code sev p s).cul = s.cul := by
  unfold postIf; split <;> rfl
@[simp] theorem postIf_streams (c : Bool) (src code sev : Nat) (p : List Byte) : (postIf c src code sev p s).streams = s.streams := by
  unfold postIf; split <;> rfl
@[simp] theorem postIf_links (c : Bool) (src code sev : Nat) (p : List Byte) : (postIf c src code sev p s).links = s.links := by
  unfold postIf; split <;> rfl
@[simp] theorem postIf_net (c : Bool) (src code sev : Nat) (p : List Byte) : (postIf c src code sev p s).net = s.net := by
  unfold postIf; split <;> rfl
@[simp] theorem postIf_ring (c : Bool) (src code sev : Nat) (p : List Byte) : (postIf c src code sev p s).ring = s.ring := by
  unfold postIf; split <;> rfl
@[simp] theorem postIf_esc (c : Bool) (src code sev : Nat) (p : List Byte) : (postIf c src code sev p s).esc = s.esc := by
  unfold postIf; split <;> rfl
@[simp] theorem postIf_rgl (c : Bool) (src code sev : Nat) (p : List Byte) : (postIf c src code sev p s).rgl = s.rgl := by
  unfold postIf; split <;> rfl
@[simp] theorem postIf_tel (c : Bool) (src code sev : Nat) (p : List Byte) : (postIf c src code sev p s).tel = s.tel := by
  unfold postIf; split <;> rfl
@[simp] theorem postIf_uart (c : Bool) (src code sev : Nat) (p : List Byte) : (postIf c src code sev p s).uart = s.uart := by
  unfold postIf; split <;> rfl
@[simp] theorem postIf_con (c : Bool) (src code sev : Nat) (p : List Byte) : (postIf c src code sev p s).con = s.con := by
  unfold postIf; split <;> rfl
@[simp] theorem postIf_smb (c : Bool) (src code sev : Nat) (p : List Byte) : (postIf c src code sev p s).smb = s.smb := by
  unfold postIf; split <;> rfl
@[simp] theorem postIf_pmb (c : Bool) (src code sev : Nat) (p : List Byte) : (postIf c src code sev p s).pmb = s.pmb := by
  unfold postIf; split <;> rfl
@[simp] theorem postIf_tap (c : Bool) (src code sev : Nat) (p : List Byte) : (postIf c src code sev p s).tap = s.tap := by
  unfold postIf; split <;> rfl

end Sys2Proof.Machine
end

