-- ==== Sys2Proof/Laws/Ops.lean ====
section
/-! SUPPORT. The shared operations: what the collector, a command's answer and the retirement of an instruction change. -/

namespace Sys2Proof.Machine

/-! ### The event collector (R20 to R22) -/

@[simp] theorem logEvent_pending (e : Ev) (s : State) : (logEvent e s).pending = s.pending := by
  unfold logEvent; split <;> rfl
@[simp] theorem logEvent_freeCtr (e : Ev) (s : State) : (logEvent e s).freeCtr = s.freeCtr := by
  unfold logEvent; split <;> rfl
@[simp] theorem logEvent_upNs (e : Ev) (s : State) : (logEvent e s).upNs = s.upNs := by
  unfold logEvent; split <;> rfl
@[simp] theorem logEvent_clk (e : Ev) (s : State) : (logEvent e s).clk = s.clk := by
  unfold logEvent; split <;> rfl
@[simp] theorem logEvent_pwr (e : Ev) (s : State) : (logEvent e s).pwr = s.pwr := by
  unfold logEvent; split <;> rfl
@[simp] theorem logEvent_otp (e : Ev) (s : State) : (logEvent e s).otp = s.otp := by
  unfold logEvent; split <;> rfl
@[simp] theorem logEvent_cfg (e : Ev) (s : State) : (logEvent e s).cfg = s.cfg := by
  unfold logEvent; split <;> rfl
@[simp] theorem logEvent_rep (e : Ev) (s : State) : (logEvent e s).rep = s.rep := by
  unfold logEvent; split <;> rfl
@[simp] theorem logEvent_routes (e : Ev) (s : State) : (logEvent e s).routes = s.routes := by
  unfold logEvent; split <;> rfl
@[simp] theorem logEvent_mem (e : Ev) (s : State) : (logEvent e s).mem = s.mem := by
  unfold logEvent; split <;> rfl
@[simp] theorem logEvent_ecc (e : Ev) (s : State) : (logEvent e s).ecc = s.ecc := by
  unfold logEvent; split <;> rfl
@[simp] theorem logEvent_hbm (e : Ev) (s : State) : (logEvent e s).hbm = s.hbm := by
  unfold logEvent; split <;> rfl
@[simp] theorem logEvent_vat (e : Ev) (s : State) : (logEvent e s).vat = s.vat := by
  unfold logEvent; split <;> rfl
@[simp] theorem logEvent_parts (e : Ev) (s : State) : (logEvent e s).parts = s.parts := by
  unfold logEvent; split <;> rfl
@[simp] theorem logEvent_stms (e : Ev) (s : State) : (logEvent e s).stms = s.stms := by
  unfold logEvent; split <;> rfl
@[simp] theorem logEvent_jobs (e : Ev) (s : State) : (logEvent e s).jobs = s.jobs := by
  unfold logEvent; split <;> rfl
@[simp] theorem logEvent_accts (e : Ev) (s : State) : (logEvent e s).accts = s.accts := by
  unfold logEvent; split <;> rfl
@[simp] theorem logEvent_tps (e : Ev) (s : State) : (logEvent e s).tps = s.tps := by
  unfold logEvent; split <;> rfl
@[simp] theorem logEvent_cls (e : Ev) (s : State) : (logEvent e s).cls = s.cls := by
  unfold logEvent; split <;> rfl
@[simp] theorem logEvent_blk (e : Ev) (s : State) : (logEvent e s).blk = s.blk := by
  unfold logEvent; split <;> rfl
@[simp] theorem logEvent_cul (e : Ev) (s : State) : (logEvent e s).cul = s.cul := by
  unfold logEvent; split <;> rfl
@[simp] theorem logEvent_streams (e : Ev) (s : State) : (logEvent e s).streams = s.streams := by
  unfold logEvent; split <;> rfl
@[simp] theorem logEvent_links (e : Ev) (s : State) : (logEvent e s).links = s.links := by
  unfold logEvent; split <;> rfl
@[simp] theorem logEvent_net (e : Ev) (s : State) : (logEvent e s).net = s.net := by
  unfold logEvent; split <;> rfl
@[simp] theorem logEvent_ring (e : Ev) (s : State) : (logEvent e s).ring = s.ring := by
  unfold logEvent; split <;> rfl
@[simp] theorem logEvent_esc (e : Ev) (s : State) : (logEvent e s).esc = s.esc := by
  unfold logEvent; split <;> rfl
@[simp] theorem logEvent_rgl (e : Ev) (s : State) : (logEvent e s).rgl = s.rgl := by
  unfold logEvent; split <;> rfl
@[simp] theorem logEvent_tel (e : Ev) (s : State) : (logEvent e s).tel = s.tel := by
  unfold logEvent; split <;> rfl
@[simp] theorem logEvent_uart (e : Ev) (s : State) : (logEvent e s).uart = s.uart := by
  unfold logEvent; split <;> rfl
@[simp] theorem logEvent_con (e : Ev) (s : State) : (logEvent e s).con = s.con := by
  unfold logEvent; split <;> rfl
@[simp] theorem logEvent_pmb (e : Ev) (s : State) : (logEvent e s).pmb = s.pmb := by
  unfold logEvent; split <;> rfl
@[simp] theorem logEvent_tap (e : Ev) (s : State) : (logEvent e s).tap = s.tap := by
  unfold logEvent; split <;> rfl
@[simp] theorem logEvent_flt_kfloor (e : Ev) (s : State) : (logEvent e s).flt.kfloor = s.flt.kfloor := by
  unfold logEvent; split <;> rfl
@[simp] theorem logEvent_flt_krefused (e : Ev) (s : State) : (logEvent e s).flt.krefused = s.flt.krefused := by
  unfold logEvent; split <;> rfl
@[simp] theorem logEvent_flt_fences (e : Ev) (s : State) : (logEvent e s).flt.fences = s.flt.fences := by
  unfold logEvent; split <;> rfl
@[simp] theorem logEvent_flt_ksend (e : Ev) (s : State) : (logEvent e s).flt.ksend = s.flt.ksend := by
  unfold logEvent; split <;> rfl
@[simp] theorem logEvent_flt_counters (e : Ev) (s : State) : (logEvent e s).flt.counters = s.flt.counters := by
  unfold logEvent; split <;> rfl
@[simp] theorem logEvent_flt_waiting (e : Ev) (s : State) : (logEvent e s).flt.waiting = s.flt.waiting := by
  unfold logEvent; split <;> rfl
@[simp] theorem logEvent_flt_remap (e : Ev) (s : State) : (logEvent e s).flt.remap = s.flt.remap := by
  unfold logEvent; split <;> rfl
@[simp] theorem logEvent_flt_selfFence (e : Ev) (s : State) : (logEvent e s).flt.selfFence = s.flt.selfFence := by
  unfold logEvent; split <;> rfl
@[simp] theorem logEvent_flt_chipClass (e : Ev) (s : State) : (logEvent e s).flt.chipClass = s.flt.chipClass := by
  unfold logEvent; split <;> rfl
@[simp] theorem logEvent_flt_eccCor (e : Ev) (s : State) : (logEvent e s).flt.eccCor = s.flt.eccCor := by
  unfold logEvent; split <;> rfl
@[simp] theorem logEvent_flt_eccUnc (e : Ev) (s : State) : (logEvent e s).flt.eccUnc = s.flt.eccUnc := by
  unfold logEvent; split <;> rfl
@[simp] theorem logEvent_flt_scrubLate (e : Ev) (s : State) : (logEvent e s).flt.scrubLate = s.flt.scrubLate := by
  unfold logEvent; split <;> rfl
@[simp] theorem logEvent_smb_err (e : Ev) (s : State) : (logEvent e s).smb.err = s.smb.err := by
  unfold logEvent; split <;> rfl
@[simp] theorem logEvent_smb_offset (e : Ev) (s : State) : (logEvent e s).smb.offset = s.smb.offset := by
  unfold logEvent; split <;> rfl
@[simp] theorem logEvent_smb_reply (e : Ev) (s : State) : (logEvent e s).smb.reply = s.smb.reply := by
  unfold logEvent; split <;> rfl
@[simp] theorem logEvent_smb_nack (e : Ev) (s : State) : (logEvent e s).smb.nack = s.smb.nack := by
  unfold logEvent; split <;> rfl
@[simp] theorem logEvent_pcie_up (e : Ev) (s : State) : (logEvent e s).pcie.up = s.pcie.up := by
  unfold logEvent; split <;> rfl
@[simp] theorem logEvent_pcie_training (e : Ev) (s : State) : (logEvent e s).pcie.training = s.pcie.training := by
  unfold logEvent; split <;> rfl
@[simp] theorem logEvent_pcie_rrs (e : Ev) (s : State) : (logEvent e s).pcie.rrs = s.pcie.rrs := by
  unfold logEvent; split <;> rfl
@[simp] theorem logEvent_pcie_gen (e : Ev) (s : State) : (logEvent e s).pcie.gen = s.pcie.gen := by
  unfold logEvent; split <;> rfl
@[simp] theorem logEvent_pcie_width (e : Ev) (s : State) : (logEvent e s).pcie.width = s.pcie.width := by
  unfold logEvent; split <;> rfl
@[simp] theorem logEvent_pcie_poison (e : Ev) (s : State) : (logEvent e s).pcie.poison = s.pcie.poison := by
  unfold logEvent; split <;> rfl
@[simp] theorem logEvent_pcie_aerUr (e : Ev) (s : State) : (logEvent e s).pcie.aerUr = s.pcie.aerUr := by
  unfold logEvent; split <;> rfl
@[simp] theorem logEvent_pcie_aerUnc (e : Ev) (s : State) : (logEvent e s).pcie.aerUnc = s.pcie.aerUnc := by
  unfold logEvent; split <;> rfl
@[simp] theorem logEvent_pcie_last (e : Ev) (s : State) : (logEvent e s).pcie.last = s.pcie.last := by
  unfold logEvent; split <;> rfl
@[simp] theorem logEvent_ev_base (e : Ev) (s : State) : (logEvent e s).ev.base = s.ev.base := by
  unfold logEvent; split <;> rfl
@[simp] theorem logEvent_ev_size (e : Ev) (s : State) : (logEvent e s).ev.size = s.ev.size := by
  unfold logEvent; split <;> rfl
@[simp] theorem logEvent_ev_head (e : Ev) (s : State) : (logEvent e s).ev.head = s.ev.head := by
  unfold logEvent; split <;> rfl
@[simp] theorem logEvent_ev_enable (e : Ev) (s : State) : (logEvent e s).ev.enable = s.ev.enable := by
  unfold logEvent; split <;> rfl
@[simp] theorem logEvent_ev_irq (e : Ev) (s : State) : (logEvent e s).ev.irq = s.ev.irq := by
  unfold logEvent; split <;> rfl

@[simp] theorem logEvent_ev (e : Ev) (s : State) : (logEvent e s).ev = s.ev := by
  unfold logEvent; split <;> rfl
@[simp] theorem logEvent_pcie (e : Ev) (s : State) : (logEvent e s).pcie = s.pcie := by
  unfold logEvent; split <;> rfl
@[simp] theorem logEvent_hostMem (e : Ev) (s : State) : (logEvent e s).hostMem = s.hostMem := by
  unfold logEvent; split <;> rfl

@[simp] theorem ringEvent_pending (e : Ev) (s : State) : (ringEvent e s).pending = s.pending := by
  unfold ringEvent; dsimp only; split <;> rfl
@[simp] theorem ringEvent_freeCtr (e : Ev) (s : State) : (ringEvent e s).freeCtr = s.freeCtr := by
  unfold ringEvent; dsimp only; split <;> rfl
@[simp] theorem ringEvent_upNs (e : Ev) (s : State) : (ringEvent e s).upNs = s.upNs := by
  unfold ringEvent; dsimp only; split <;> rfl
@[simp] theorem ringEvent_clk (e : Ev) (s : State) : (ringEvent e s).clk = s.clk := by
  unfold ringEvent; dsimp only; split <;> rfl
@[simp] theorem ringEvent_pwr (e : Ev) (s : State) : (ringEvent e s).pwr = s.pwr := by
  unfold ringEvent; dsimp only; split <;> rfl
@[simp] theorem ringEvent_otp (e : Ev) (s : State) : (ringEvent e s).otp = s.otp := by
  unfold ringEvent; dsimp only; split <;> rfl
@[simp] theorem ringEvent_cfg (e : Ev) (s : State) : (ringEvent e s).cfg = s.cfg := by
  unfold ringEvent; dsimp only; split <;> rfl
@[simp] theorem ringEvent_rep (e : Ev) (s : State) : (ringEvent e s).rep = s.rep := by
  unfold ringEvent; dsimp only; split <;> rfl
@[simp] theorem ringEvent_routes (e : Ev) (s : State) : (ringEvent e s).routes = s.routes := by
  unfold ringEvent; dsimp only; split <;> rfl
@[simp] theorem ringEvent_mem (e : Ev) (s : State) : (ringEvent e s).mem = s.mem := by
  unfold ringEvent; dsimp only; split <;> rfl
@[simp] theorem ringEvent_ecc (e : Ev) (s : State) : (ringEvent e s).ecc = s.ecc := by
  unfold ringEvent; dsimp only; split <;> rfl
@[simp] theorem ringEvent_hbm (e : Ev) (s : State) : (ringEvent e s).hbm = s.hbm := by
  unfold ringEvent; dsimp only; split <;> rfl
@[simp] theorem ringEvent_vat (e : Ev) (s : State) : (ringEvent e s).vat = s.vat := by
  unfold ringEvent; dsimp only; split <;> rfl
@[simp] theorem ringEvent_parts (e : Ev) (s : State) : (ringEvent e s).parts = s.parts := by
  unfold ringEvent; dsimp only; split <;> rfl
@[simp] theorem ringEvent_stms (e : Ev) (s : State) : (ringEvent e s).stms = s.stms := by
  unfold ringEvent; dsimp only; split <;> rfl
@[simp] theorem ringEvent_jobs (e : Ev) (s : State) : (ringEvent e s).jobs = s.jobs := by
  unfold ringEvent; dsimp only; split <;> rfl
@[simp] theorem ringEvent_accts (e : Ev) (s : State) : (ringEvent e s).accts = s.accts := by
  unfold ringEvent; dsimp only; split <;> rfl
@[simp] theorem ringEvent_tps (e : Ev) (s : State) : (ringEvent e s).tps = s.tps := by
  unfold ringEvent; dsimp only; split <;> rfl
@[simp] theorem ringEvent_cls (e : Ev) (s : State) : (ringEvent e s).cls = s.cls := by
  unfold ringEvent; dsimp only; split <;> rfl
@[simp] theorem ringEvent_blk (e : Ev) (s : State) : (ringEvent e s).blk = s.blk := by
  unfold ringEvent; dsimp only; split <;> rfl
@[simp] theorem ringEvent_cul (e : Ev) (s : State) : (ringEvent e s).cul = s.cul := by
  unfold ringEvent; dsimp only; split <;> rfl
@[simp] theorem ringEvent_streams (e : Ev) (s : State) : (ringEvent e s).streams = s.streams := by
  unfold ringEvent; dsimp only; split <;> rfl
@[simp] theorem ringEvent_links (e : Ev) (s : State) : (ringEvent e s).links = s.links := by
  unfold ringEvent; dsimp only; split <;> rfl
@[simp] theorem ringEvent_net (e : Ev) (s : State) : (ringEvent e s).net = s.net := by
  unfold ringEvent; dsimp only; split <;> rfl
@[simp] theorem ringEvent_ring (e : Ev) (s : State) : (ringEvent e s).ring = s.ring := by
  unfold ringEvent; dsimp only; split <;> rfl
@[simp] theorem ringEvent_esc (e : Ev) (s : State) : (ringEvent e s).esc = s.esc := by
  unfold ringEvent; dsimp only; split <;> rfl
@[simp] theorem ringEvent_rgl (e : Ev) (s : State) : (ringEvent e s).rgl = s.rgl := by
  unfold ringEvent; dsimp only; split <;> rfl
@[simp] theorem ringEvent_tel (e : Ev) (s : State) : (ringEvent e s).tel = s.tel := by
  unfold ringEvent; dsimp only; split <;> rfl
@[simp] theorem ringEvent_uart (e : Ev) (s : State) : (ringEvent e s).uart = s.uart := by
  unfold ringEvent; dsimp only; split <;> rfl
@[simp] theorem ringEvent_con (e : Ev) (s : State) : (ringEvent e s).con = s.con := by
  unfold ringEvent; dsimp only; split <;> rfl
@[simp] theorem ringEvent_pmb (e : Ev) (s : State) : (ringEvent e s).pmb = s.pmb := by
  unfold ringEvent; dsimp only; split <;> rfl
@[simp] theorem ringEvent_tap (e : Ev) (s : State) : (ringEvent e s).tap = s.tap := by
  unfold ringEvent; dsimp only; split <;> rfl
@[simp] theorem ringEvent_flt_kfloor (e : Ev) (s : State) : (ringEvent e s).flt.kfloor = s.flt.kfloor := by
  unfold ringEvent; dsimp only; split <;> rfl
@[simp] theorem ringEvent_flt_krefused (e : Ev) (s : State) : (ringEvent e s).flt.krefused = s.flt.krefused := by
  unfold ringEvent; dsimp only; split <;> rfl
@[simp] theorem ringEvent_flt_fences (e : Ev) (s : State) : (ringEvent e s).flt.fences = s.flt.fences := by
  unfold ringEvent; dsimp only; split <;> rfl
@[simp] theorem ringEvent_flt_ksend (e : Ev) (s : State) : (ringEvent e s).flt.ksend = s.flt.ksend := by
  unfold ringEvent; dsimp only; split <;> rfl
@[simp] theorem ringEvent_flt_counters (e : Ev) (s : State) : (ringEvent e s).flt.counters = s.flt.counters := by
  unfold ringEvent; dsimp only; split <;> rfl
@[simp] theorem ringEvent_flt_waiting (e : Ev) (s : State) : (ringEvent e s).flt.waiting = s.flt.waiting := by
  unfold ringEvent; dsimp only; split <;> rfl
@[simp] theorem ringEvent_flt_remap (e : Ev) (s : State) : (ringEvent e s).flt.remap = s.flt.remap := by
  unfold ringEvent; dsimp only; split <;> rfl
@[simp] theorem ringEvent_flt_selfFence (e : Ev) (s : State) : (ringEvent e s).flt.selfFence = s.flt.selfFence := by
  unfold ringEvent; dsimp only; split <;> rfl
@[simp] theorem ringEvent_flt_chipClass (e : Ev) (s : State) : (ringEvent e s).flt.chipClass = s.flt.chipClass := by
  unfold ringEvent; dsimp only; split <;> rfl
@[simp] theorem ringEvent_flt_eccCor (e : Ev) (s : State) : (ringEvent e s).flt.eccCor = s.flt.eccCor := by
  unfold ringEvent; dsimp only; split <;> rfl
@[simp] theorem ringEvent_flt_eccUnc (e : Ev) (s : State) : (ringEvent e s).flt.eccUnc = s.flt.eccUnc := by
  unfold ringEvent; dsimp only; split <;> rfl
@[simp] theorem ringEvent_flt_scrubLate (e : Ev) (s : State) : (ringEvent e s).flt.scrubLate = s.flt.scrubLate := by
  unfold ringEvent; dsimp only; split <;> rfl
@[simp] theorem ringEvent_smb_err (e : Ev) (s : State) : (ringEvent e s).smb.err = s.smb.err := by
  unfold ringEvent; dsimp only; split <;> rfl
@[simp] theorem ringEvent_smb_offset (e : Ev) (s : State) : (ringEvent e s).smb.offset = s.smb.offset := by
  unfold ringEvent; dsimp only; split <;> rfl
@[simp] theorem ringEvent_smb_reply (e : Ev) (s : State) : (ringEvent e s).smb.reply = s.smb.reply := by
  unfold ringEvent; dsimp only; split <;> rfl
@[simp] theorem ringEvent_smb_nack (e : Ev) (s : State) : (ringEvent e s).smb.nack = s.smb.nack := by
  unfold ringEvent; dsimp only; split <;> rfl
@[simp] theorem ringEvent_pcie_up (e : Ev) (s : State) : (ringEvent e s).pcie.up = s.pcie.up := by
  unfold ringEvent; dsimp only; split <;> rfl
@[simp] theorem ringEvent_pcie_training (e : Ev) (s : State) : (ringEvent e s).pcie.training = s.pcie.training := by
  unfold ringEvent; dsimp only; split <;> rfl
@[simp] theorem ringEvent_pcie_rrs (e : Ev) (s : State) : (ringEvent e s).pcie.rrs = s.pcie.rrs := by
  unfold ringEvent; dsimp only; split <;> rfl
@[simp] theorem ringEvent_pcie_gen (e : Ev) (s : State) : (ringEvent e s).pcie.gen = s.pcie.gen := by
  unfold ringEvent; dsimp only; split <;> rfl
@[simp] theorem ringEvent_pcie_width (e : Ev) (s : State) : (ringEvent e s).pcie.width = s.pcie.width := by
  unfold ringEvent; dsimp only; split <;> rfl
@[simp] theorem ringEvent_pcie_poison (e : Ev) (s : State) : (ringEvent e s).pcie.poison = s.pcie.poison := by
  unfold ringEvent; dsimp only; split <;> rfl
@[simp] theorem ringEvent_pcie_aerUr (e : Ev) (s : State) : (ringEvent e s).pcie.aerUr = s.pcie.aerUr := by
  unfold ringEvent; dsimp only; split <;> rfl
@[simp] theorem ringEvent_pcie_aerUnc (e : Ev) (s : State) : (ringEvent e s).pcie.aerUnc = s.pcie.aerUnc := by
  unfold ringEvent; dsimp only; split <;> rfl
@[simp] theorem ringEvent_pcie_last (e : Ev) (s : State) : (ringEvent e s).pcie.last = s.pcie.last := by
  unfold ringEvent; dsimp only; split <;> rfl
@[simp] theorem ringEvent_ev_base (e : Ev) (s : State) : (ringEvent e s).ev.base = s.ev.base := by
  unfold ringEvent; dsimp only; split <;> rfl
@[simp] theorem ringEvent_ev_size (e : Ev) (s : State) : (ringEvent e s).ev.size = s.ev.size := by
  unfold ringEvent; dsimp only; split <;> rfl
@[simp] theorem ringEvent_ev_head (e : Ev) (s : State) : (ringEvent e s).ev.head = s.ev.head := by
  unfold ringEvent; dsimp only; split <;> rfl
@[simp] theorem ringEvent_ev_enable (e : Ev) (s : State) : (ringEvent e s).ev.enable = s.ev.enable := by
  unfold ringEvent; dsimp only; split <;> rfl
@[simp] theorem ringEvent_ev_irq (e : Ev) (s : State) : (ringEvent e s).ev.irq = s.ev.irq := by
  unfold ringEvent; dsimp only; split <;> rfl

@[simp] theorem ringEvent_flt (e : Ev) (s : State) : (ringEvent e s).flt = s.flt := by
  unfold ringEvent; dsimp only; split <;> rfl
@[simp] theorem ringEvent_smb (e : Ev) (s : State) : (ringEvent e s).smb = s.smb := by
  unfold ringEvent; dsimp only; split <;> rfl
@[simp] theorem ringEvent_pcie (e : Ev) (s : State) : (ringEvent e s).pcie = s.pcie := by
  unfold ringEvent; dsimp only; split <;> rfl
@[simp] theorem ringEvent_queue (e : Ev) (s : State) : (ringEvent e s).ev.queue = s.ev.queue := by
  unfold ringEvent; dsimp only; split <;> rfl

@[simp] theorem acceptEvent_pending (e : Ev) (s : State) : (acceptEvent s e).pending = s.pending := by
  simp [acceptEvent]
@[simp] theorem acceptEvent_freeCtr (e : Ev) (s : State) : (acceptEvent s e).freeCtr = s.freeCtr := by
  simp [acceptEvent]
@[simp] theorem acceptEvent_upNs (e : Ev) (s : State) : (acceptEvent s e).upNs = s.upNs := by
  simp [acceptEvent]
@[simp] theorem acceptEvent_clk (e : Ev) (s : State) : (acceptEvent s e).clk = s.clk := by
  simp [acceptEvent]
@[simp] theorem acceptEvent_pwr (e : Ev) (s : State) : (acceptEvent s e).pwr = s.pwr := by
  simp [acceptEvent]
@[simp] theorem acceptEvent_otp (e : Ev) (s : State) : (acceptEvent s e).otp = s.otp := by
  simp [acceptEvent]
@[simp] theorem acceptEvent_cfg (e : Ev) (s : State) : (acceptEvent s e).cfg = s.cfg := by
  simp [acceptEvent]
@[simp] theorem acceptEvent_rep (e : Ev) (s : State) : (acceptEvent s e).rep = s.rep := by
  simp [acceptEvent]
@[simp] theorem acceptEvent_routes (e : Ev) (s : State) : (acceptEvent s e).routes = s.routes := by
  simp [acceptEvent]
@[simp] theorem acceptEvent_mem (e : Ev) (s : State) : (acceptEvent s e).mem = s.mem := by
  simp [acceptEvent]
@[simp] theorem acceptEvent_ecc (e : Ev) (s : State) : (acceptEvent s e).ecc = s.ecc := by
  simp [acceptEvent]
@[simp] theorem acceptEvent_hbm (e : Ev) (s : State) : (acceptEvent s e).hbm = s.hbm := by
  simp [acceptEvent]
@[simp] theorem acceptEvent_vat (e : Ev) (s : State) : (acceptEvent s e).vat = s.vat := by
  simp [acceptEvent]
@[simp] theorem acceptEvent_parts (e : Ev) (s : State) : (acceptEvent s e).parts = s.parts := by
  simp [acceptEvent]
@[simp] theorem acceptEvent_stms (e : Ev) (s : State) : (acceptEvent s e).stms = s.stms := by
  simp [acceptEvent]
@[simp] theorem acceptEvent_jobs (e : Ev) (s : State) : (acceptEvent s e).jobs = s.jobs := by
  simp [acceptEvent]
@[simp] theorem acceptEvent_accts (e : Ev) (s : State) : (acceptEvent s e).accts = s.accts := by
  simp [acceptEvent]
@[simp] theorem acceptEvent_tps (e : Ev) (s : State) : (acceptEvent s e).tps = s.tps := by
  simp [acceptEvent]
@[simp] theorem acceptEvent_cls (e : Ev) (s : State) : (acceptEvent s e).cls = s.cls := by
  simp [acceptEvent]
@[simp] theorem acceptEvent_blk (e : Ev) (s : State) : (acceptEvent s e).blk = s.blk := by
  simp [acceptEvent]
@[simp] theorem acceptEvent_cul (e : Ev) (s : State) : (acceptEvent s e).cul = s.cul := by
  simp [acceptEvent]
@[simp] theorem acceptEvent_streams (e : Ev) (s : State) : (acceptEvent s e).streams = s.streams := by
  simp [acceptEvent]
@[simp] theorem acceptEvent_links (e : Ev) (s : State) : (acceptEvent s e).links = s.links := by
  simp [acceptEvent]
@[simp] theorem acceptEvent_net (e : Ev) (s : State) : (acceptEvent s e).net = s.net := by
  simp [acceptEvent]
@[simp] theorem acceptEvent_ring (e : Ev) (s : State) : (acceptEvent s e).ring = s.ring := by
  simp [acceptEvent]
@[simp] theorem acceptEvent_esc (e : Ev) (s : State) : (acceptEvent s e).esc = s.esc := by
  simp [acceptEvent]
@[simp] theorem acceptEvent_rgl (e : Ev) (s : State) : (acceptEvent s e).rgl = s.rgl := by
  simp [acceptEvent]
@[simp] theorem acceptEvent_tel (e : Ev) (s : State) : (acceptEvent s e).tel = s.tel := by
  simp [acceptEvent]
@[simp] theorem acceptEvent_uart (e : Ev) (s : State) : (acceptEvent s e).uart = s.uart := by
  simp [acceptEvent]
@[simp] theorem acceptEvent_con (e : Ev) (s : State) : (acceptEvent s e).con = s.con := by
  simp [acceptEvent]
@[simp] theorem acceptEvent_pmb (e : Ev) (s : State) : (acceptEvent s e).pmb = s.pmb := by
  simp [acceptEvent]
@[simp] theorem acceptEvent_tap (e : Ev) (s : State) : (acceptEvent s e).tap = s.tap := by
  simp [acceptEvent]
@[simp] theorem acceptEvent_flt_kfloor (e : Ev) (s : State) : (acceptEvent s e).flt.kfloor = s.flt.kfloor := by
  simp [acceptEvent]
@[simp] theorem acceptEvent_flt_krefused (e : Ev) (s : State) : (acceptEvent s e).flt.krefused = s.flt.krefused := by
  simp [acceptEvent]
@[simp] theorem acceptEvent_flt_fences (e : Ev) (s : State) : (acceptEvent s e).flt.fences = s.flt.fences := by
  simp [acceptEvent]
@[simp] theorem acceptEvent_flt_ksend (e : Ev) (s : State) : (acceptEvent s e).flt.ksend = s.flt.ksend := by
  simp [acceptEvent]
@[simp] theorem acceptEvent_flt_counters (e : Ev) (s : State) : (acceptEvent s e).flt.counters = s.flt.counters := by
  simp [acceptEvent]
@[simp] theorem acceptEvent_flt_waiting (e : Ev) (s : State) : (acceptEvent s e).flt.waiting = s.flt.waiting := by
  simp [acceptEvent]
@[simp] theorem acceptEvent_flt_remap (e : Ev) (s : State) : (acceptEvent s e).flt.remap = s.flt.remap := by
  simp [acceptEvent]
@[simp] theorem acceptEvent_flt_selfFence (e : Ev) (s : State) : (acceptEvent s e).flt.selfFence = s.flt.selfFence := by
  simp [acceptEvent]
@[simp] theorem acceptEvent_flt_chipClass (e : Ev) (s : State) : (acceptEvent s e).flt.chipClass = s.flt.chipClass := by
  simp [acceptEvent]
@[simp] theorem acceptEvent_flt_eccCor (e : Ev) (s : State) : (acceptEvent s e).flt.eccCor = s.flt.eccCor := by
  simp [acceptEvent]
@[simp] theorem acceptEvent_flt_eccUnc (e : Ev) (s : State) : (acceptEvent s e).flt.eccUnc = s.flt.eccUnc := by
  simp [acceptEvent]
@[simp] theorem acceptEvent_flt_scrubLate (e : Ev) (s : State) : (acceptEvent s e).flt.scrubLate = s.flt.scrubLate := by
  simp [acceptEvent]
@[simp] theorem acceptEvent_smb_err (e : Ev) (s : State) : (acceptEvent s e).smb.err = s.smb.err := by
  simp [acceptEvent]
@[simp] theorem acceptEvent_smb_offset (e : Ev) (s : State) : (acceptEvent s e).smb.offset = s.smb.offset := by
  simp [acceptEvent]
@[simp] theorem acceptEvent_smb_reply (e : Ev) (s : State) : (acceptEvent s e).smb.reply = s.smb.reply := by
  simp [acceptEvent]
@[simp] theorem acceptEvent_smb_nack (e : Ev) (s : State) : (acceptEvent s e).smb.nack = s.smb.nack := by
  simp [acceptEvent]
@[simp] theorem acceptEvent_pcie_up (e : Ev) (s : State) : (acceptEvent s e).pcie.up = s.pcie.up := by
  simp [acceptEvent]
@[simp] theorem acceptEvent_pcie_training (e : Ev) (s : State) : (acceptEvent s e).pcie.training = s.pcie.training := by
  simp [acceptEvent]
@[simp] theorem acceptEvent_pcie_rrs (e : Ev) (s : State) : (acceptEvent s e).pcie.rrs = s.pcie.rrs := by
  simp [acceptEvent]
@[simp] theorem acceptEvent_pcie_gen (e : Ev) (s : State) : (acceptEvent s e).pcie.gen = s.pcie.gen := by
  simp [acceptEvent]
@[simp] theorem acceptEvent_pcie_width (e : Ev) (s : State) : (acceptEvent s e).pcie.width = s.pcie.width := by
  simp [acceptEvent]
@[simp] theorem acceptEvent_pcie_poison (e : Ev) (s : State) : (acceptEvent s e).pcie.poison = s.pcie.poison := by
  simp [acceptEvent]
@[simp] theorem acceptEvent_pcie_aerUr (e : Ev) (s : State) : (acceptEvent s e).pcie.aerUr = s.pcie.aerUr := by
  simp [acceptEvent]
@[simp] theorem acceptEvent_pcie_aerUnc (e : Ev) (s : State) : (acceptEvent s e).pcie.aerUnc = s.pcie.aerUnc := by
  simp [acceptEvent]
@[simp] theorem acceptEvent_pcie_last (e : Ev) (s : State) : (acceptEvent s e).pcie.last = s.pcie.last := by
  simp [acceptEvent]
@[simp] theorem acceptEvent_ev_base (e : Ev) (s : State) : (acceptEvent s e).ev.base = s.ev.base := by
  simp [acceptEvent]
@[simp] theorem acceptEvent_ev_size (e : Ev) (s : State) : (acceptEvent s e).ev.size = s.ev.size := by
  simp [acceptEvent]
@[simp] theorem acceptEvent_ev_head (e : Ev) (s : State) : (acceptEvent s e).ev.head = s.ev.head := by
  simp [acceptEvent]
@[simp] theorem acceptEvent_ev_enable (e : Ev) (s : State) : (acceptEvent s e).ev.enable = s.ev.enable := by
  simp [acceptEvent]
@[simp] theorem acceptEvent_ev_irq (e : Ev) (s : State) : (acceptEvent s e).ev.irq = s.ev.irq := by
  simp [acceptEvent]

@[simp] theorem acceptEvent_pcie (e : Ev) (s : State) : (acceptEvent s e).pcie = s.pcie := by
  simp [acceptEvent]
@[simp] theorem acceptEvent_queue (e : Ev) (s : State) : (acceptEvent s e).ev.queue = s.ev.queue := by
  simp [acceptEvent]

/-- What every acceptance keeps, the collector keeps. -/
theorem acceptAll_keeps {α : Type} (g : State → α) (h : ∀ s e, g (acceptEvent s e) = g s) (es : List Ev) :
    ∀ s, g (es.foldl acceptEvent s) = g s := by
  induction es with
  | nil => intro s; rfl
  | cons e es ih => intro s; rw [List.foldl_cons, ih, h]

@[simp] theorem evInterrupt_pending (s : State) : (evInterrupt s).pending = s.pending := by
  unfold evInterrupt; dsimp only; (repeat' split) <;> rfl
@[simp] theorem evInterrupt_freeCtr (s : State) : (evInterrupt s).freeCtr = s.freeCtr := by
  unfold evInterrupt; dsimp only; (repeat' split) <;> rfl
@[simp] theorem evInterrupt_upNs (s : State) : (evInterrupt s).upNs = s.upNs := by
  unfold evInterrupt; dsimp only; (repeat' split) <;> rfl
@[simp] theorem evInterrupt_clk (s : State) : (evInterrupt s).clk = s.clk := by
  unfold evInterrupt; dsimp only; (repeat' split) <;> rfl
@[simp] theorem evInterrupt_pwr (s : State) : (evInterrupt s).pwr = s.pwr := by
  unfold evInterrupt; dsimp only; (repeat' split) <;> rfl
@[simp] theorem evInterrupt_otp (s : State) : (evInterrupt s).otp = s.otp := by
  unfold evInterrupt; dsimp only; (repeat' split) <;> rfl
@[simp] theorem evInterrupt_cfg (s : State) : (evInterrupt s).cfg = s.cfg := by
  unfold evInterrupt; dsimp only; (repeat' split) <;> rfl
@[simp] theorem evInterrupt_rep (s : State) : (evInterrupt s).rep = s.rep := by
  unfold evInterrupt; dsimp only; (repeat' split) <;> rfl
@[simp] theorem evInterrupt_routes (s : State) : (evInterrupt s).routes = s.routes := by
  unfold evInterrupt; dsimp only; (repeat' split) <;> rfl
@[simp] theorem evInterrupt_mem (s : State) : (evInterrupt s).mem = s.mem := by
  unfold evInterrupt; dsimp only; (repeat' split) <;> rfl
@[simp] theorem evInterrupt_ecc (s : State) : (evInterrupt s).ecc = s.ecc := by
  unfold evInterrupt; dsimp only; (repeat' split) <;> rfl
@[simp] theorem evInterrupt_hbm (s : State) : (evInterrupt s).hbm = s.hbm := by
  unfold evInterrupt; dsimp only; (repeat' split) <;> rfl
@[simp] theorem evInterrupt_vat (s : State) : (evInterrupt s).vat = s.vat := by
  unfold evInterrupt; dsimp only; (repeat' split) <;> rfl
@[simp] theorem evInterrupt_parts (s : State) : (evInterrupt s).parts = s.parts := by
  unfold evInterrupt; dsimp only; (repeat' split) <;> rfl
@[simp] theorem evInterrupt_stms (s : State) : (evInterrupt s).stms = s.stms := by
  unfold evInterrupt; dsimp only; (repeat' split) <;> rfl
@[simp] theorem evInterrupt_jobs (s : State) : (evInterrupt s).jobs = s.jobs := by
  unfold evInterrupt; dsimp only; (repeat' split) <;> rfl
@[simp] theorem evInterrupt_accts (s : State) : (evInterrupt s).accts = s.accts := by
  unfold evInterrupt; dsimp only; (repeat' split) <;> rfl
@[simp] theorem evInterrupt_tps (s : State) : (evInterrupt s).tps = s.tps := by
  unfold evInterrupt; dsimp only; (repeat' split) <;> rfl
@[simp] theorem evInterrupt_cls (s : State) : (evInterrupt s).cls = s.cls := by
  unfold evInterrupt; dsimp only; (repeat' split) <;> rfl
@[simp] theorem evInterrupt_blk (s : State) : (evInterrupt s).blk = s.blk := by
  unfold evInterrupt; dsimp only; (repeat' split) <;> rfl
@[simp] theorem evInterrupt_cul (s : State) : (evInterrupt s).cul = s.cul := by
  unfold evInterrupt; dsimp only; (repeat' split) <;> rfl
@[simp] theorem evInterrupt_streams (s : State) : (evInterrupt s).streams = s.streams := by
  unfold evInterrupt; dsimp only; (repeat' split) <;> rfl
@[simp] theorem evInterrupt_links (s : State) : (evInterrupt s).links = s.links := by
  unfold evInterrupt; dsimp only; (repeat' split) <;> rfl
@[simp] theorem evInterrupt_net (s : State) : (evInterrupt s).net = s.net := by
  unfold evInterrupt; dsimp only; (repeat' split) <;> rfl
@[simp] theorem evInterrupt_ring (s : State) : (evInterrupt s).ring = s.ring := by
  unfold evInterrupt; dsimp only; (repeat' split) <;> rfl
@[simp] theorem evInterrupt_esc (s : State) : (evInterrupt s).esc = s.esc := by
  unfold evInterrupt; dsimp only; (repeat' split) <;> rfl
@[simp] theorem evInterrupt_rgl (s : State) : (evInterrupt s).rgl = s.rgl := by
  unfold evInterrupt; dsimp only; (repeat' split) <;> rfl
@[simp] theorem evInterrupt_tel (s : State) : (evInterrupt s).tel = s.tel := by
  unfold evInterrupt; dsimp only; (repeat' split) <;> rfl
@[simp] theorem evInterrupt_uart (s : State) : (evInterrupt s).uart = s.uart := by
  unfold evInterrupt; dsimp only; (repeat' split) <;> rfl
@[simp] theorem evInterrupt_con (s : State) : (evInterrupt s).con = s.con := by
  unfold evInterrupt; dsimp only; (repeat' split) <;> rfl
@[simp] theorem evInterrupt_pmb (s : State) : (evInterrupt s).pmb = s.pmb := by
  unfold evInterrupt; dsimp only; (repeat' split) <;> rfl
@[simp] theorem evInterrupt_tap (s : State) : (evInterrupt s).tap = s.tap := by
  unfold evInterrupt; dsimp only; (repeat' split) <;> rfl
@[simp] theorem evInterrupt_flt_kfloor (s : State) : (evInterrupt s).flt.kfloor = s.flt.kfloor := by
  unfold evInterrupt; dsimp only; (repeat' split) <;> rfl
@[simp] theorem evInterrupt_flt_krefused (s : State) : (evInterrupt s).flt.krefused = s.flt.krefused := by
  unfold evInterrupt; dsimp only; (repeat' split) <;> rfl
@[simp] theorem evInterrupt_flt_fences (s : State) : (evInterrupt s).flt.fences = s.flt.fences := by
  unfold evInterrupt; dsimp only; (repeat' split) <;> rfl
@[simp] theorem evInterrupt_flt_ksend (s : State) : (evInterrupt s).flt.ksend = s.flt.ksend := by
  unfold evInterrupt; dsimp only; (repeat' split) <;> rfl
@[simp] theorem evInterrupt_flt_counters (s : State) : (evInterrupt s).flt.counters = s.flt.counters := by
  unfold evInterrupt; dsimp only; (repeat' split) <;> rfl
@[simp] theorem evInterrupt_flt_waiting (s : State) : (evInterrupt s).flt.waiting = s.flt.waiting := by
  unfold evInterrupt; dsimp only; (repeat' split) <;> rfl
@[simp] theorem evInterrupt_flt_remap (s : State) : (evInterrupt s).flt.remap = s.flt.remap := by
  unfold evInterrupt; dsimp only; (repeat' split) <;> rfl
@[simp] theorem evInterrupt_flt_selfFence (s : State) : (evInterrupt s).flt.selfFence = s.flt.selfFence := by
  unfold evInterrupt; dsimp only; (repeat' split) <;> rfl
@[simp] theorem evInterrupt_flt_chipClass (s : State) : (evInterrupt s).flt.chipClass = s.flt.chipClass := by
  unfold evInterrupt; dsimp only; (repeat' split) <;> rfl
@[simp] theorem evInterrupt_flt_eccCor (s : State) : (evInterrupt s).flt.eccCor = s.flt.eccCor := by
  unfold evInterrupt; dsimp only; (repeat' split) <;> rfl
@[simp] theorem evInterrupt_flt_eccUnc (s : State) : (evInterrupt s).flt.eccUnc = s.flt.eccUnc := by
  unfold evInterrupt; dsimp only; (repeat' split) <;> rfl
@[simp] theorem evInterrupt_flt_scrubLate (s : State) : (evInterrupt s).flt.scrubLate = s.flt.scrubLate := by
  unfold evInterrupt; dsimp only; (repeat' split) <;> rfl
@[simp] theorem evInterrupt_smb_err (s : State) : (evInterrupt s).smb.err = s.smb.err := by
  unfold evInterrupt; dsimp only; (repeat' split) <;> rfl
@[simp] theorem evInterrupt_smb_offset (s : State) : (evInterrupt s).smb.offset = s.smb.offset := by
  unfold evInterrupt; dsimp only; (repeat' split) <;> rfl
@[simp] theorem evInterrupt_smb_reply (s : State) : (evInterrupt s).smb.reply = s.smb.reply := by
  unfold evInterrupt; dsimp only; (repeat' split) <;> rfl
@[simp] theorem evInterrupt_smb_nack (s : State) : (evInterrupt s).smb.nack = s.smb.nack := by
  unfold evInterrupt; dsimp only; (repeat' split) <;> rfl
@[simp] theorem evInterrupt_pcie_up (s : State) : (evInterrupt s).pcie.up = s.pcie.up := by
  unfold evInterrupt; dsimp only; (repeat' split) <;> rfl
@[simp] theorem evInterrupt_pcie_training (s : State) : (evInterrupt s).pcie.training = s.pcie.training := by
  unfold evInterrupt; dsimp only; (repeat' split) <;> rfl
@[simp] theorem evInterrupt_pcie_rrs (s : State) : (evInterrupt s).pcie.rrs = s.pcie.rrs := by
  unfold evInterrupt; dsimp only; (repeat' split) <;> rfl
@[simp] theorem evInterrupt_pcie_gen (s : State) : (evInterrupt s).pcie.gen = s.pcie.gen := by
  unfold evInterrupt; dsimp only; (repeat' split) <;> rfl
@[simp] theorem evInterrupt_pcie_width (s : State) : (evInterrupt s).pcie.width = s.pcie.width := by
  unfold evInterrupt; dsimp only; (repeat' split) <;> rfl
@[simp] theorem evInterrupt_pcie_poison (s : State) : (evInterrupt s).pcie.poison = s.pcie.poison := by
  unfold evInterrupt; dsimp only; (repeat' split) <;> rfl
@[simp] theorem evInterrupt_pcie_aerUr (s : State) : (evInterrupt s).pcie.aerUr = s.pcie.aerUr := by
  unfold evInterrupt; dsimp only; (repeat' split) <;> rfl
@[simp] theorem evInterrupt_pcie_aerUnc (s : State) : (evInterrupt s).pcie.aerUnc = s.pcie.aerUnc := by
  unfold evInterrupt; dsimp only; (repeat' split) <;> rfl
@[simp] theorem evInterrupt_pcie_last (s : State) : (evInterrupt s).pcie.last = s.pcie.last := by
  unfold evInterrupt; dsimp only; (repeat' split) <;> rfl
@[simp] theorem evInterrupt_ev_base (s : State) : (evInterrupt s).ev.base = s.ev.base := by
  unfold evInterrupt; dsimp only; (repeat' split) <;> rfl
@[simp] theorem evInterrupt_ev_size (s : State) : (evInterrupt s).ev.size = s.ev.size := by
  unfold evInterrupt; dsimp only; (repeat' split) <;> rfl
@[simp] theorem evInterrupt_ev_head (s : State) : (evInterrupt s).ev.head = s.ev.head := by
  unfold evInterrupt; dsimp only; (repeat' split) <;> rfl
@[simp] theorem evInterrupt_ev_enable (s : State) : (evInterrupt s).ev.enable = s.ev.enable := by
  unfold evInterrupt; dsimp only; (repeat' split) <;> rfl
@[simp] theorem evInterrupt_ev_irq (s : State) : (evInterrupt s).ev.irq = s.ev.irq := by
  unfold evInterrupt; dsimp only; (repeat' split) <;> rfl

@[simp] theorem evInterrupt_flt (s : State) : (evInterrupt s).flt = s.flt := by
  unfold evInterrupt; dsimp only; (repeat' split) <;> rfl
@[simp] theorem evInterrupt_smb (s : State) : (evInterrupt s).smb = s.smb := by
  unfold evInterrupt; dsimp only; (repeat' split) <;> rfl
@[simp] theorem evInterrupt_hostMem (s : State) : (evInterrupt s).hostMem = s.hostMem := by
  unfold evInterrupt; dsimp only; (repeat' split) <;> rfl
@[simp] theorem evInterrupt_queue (s : State) : (evInterrupt s).ev.queue = s.ev.queue := by
  unfold evInterrupt; dsimp only; (repeat' split) <;> rfl

@[simp] theorem collect_pending (s : State) : (collect s).pending = s.pending := by
  rw [collect, evInterrupt_pending, acceptAll_keeps (fun x => x.pending) (by simp)]
@[simp] theorem collect_freeCtr (s : State) : (collect s).freeCtr = s.freeCtr := by
  rw [collect, evInterrupt_freeCtr, acceptAll_keeps (fun x => x.freeCtr) (by simp)]
@[simp] theorem collect_upNs (s : State) : (collect s).upNs = s.upNs := by
  rw [collect, evInterrupt_upNs, acceptAll_keeps (fun x => x.upNs) (by simp)]
@[simp] theorem collect_clk (s : State) : (collect s).clk = s.clk := by
  rw [collect, evInterrupt_clk, acceptAll_keeps (fun x => x.clk) (by simp)]
@[simp] theorem collect_pwr (s : State) : (collect s).pwr = s.pwr := by
  rw [collect, evInterrupt_pwr, acceptAll_keeps (fun x => x.pwr) (by simp)]
@[simp] theorem collect_otp (s : State) : (collect s).otp = s.otp := by
  rw [collect, evInterrupt_otp, acceptAll_keeps (fun x => x.otp) (by simp)]
@[simp] theorem collect_cfg (s : State) : (collect s).cfg = s.cfg := by
  rw [collect, evInterrupt_cfg, acceptAll_keeps (fun x => x.cfg) (by simp)]
@[simp] theorem collect_rep (s : State) : (collect s).rep = s.rep := by
  rw [collect, evInterrupt_rep, acceptAll_keeps (fun x => x.rep) (by simp)]
@[simp] theorem collect_routes (s : State) : (collect s).routes = s.routes := by
  rw [collect, evInterrupt_routes, acceptAll_keeps (fun x => x.routes) (by simp)]
@[simp] theorem collect_mem (s : State) : (collect s).mem = s.mem := by
  rw [collect, evInterrupt_mem, acceptAll_keeps (fun x => x.mem) (by simp)]
@[simp] theorem collect_ecc (s : State) : (collect s).ecc = s.ecc := by
  rw [collect, evInterrupt_ecc, acceptAll_keeps (fun x => x.ecc) (by simp)]
@[simp] theorem collect_hbm (s : State) : (collect s).hbm = s.hbm := by
  rw [collect, evInterrupt_hbm, acceptAll_keeps (fun x => x.hbm) (by simp)]
@[simp] theorem collect_vat (s : State) : (collect s).vat = s.vat := by
  rw [collect, evInterrupt_vat, acceptAll_keeps (fun x => x.vat) (by simp)]
@[simp] theorem collect_parts (s : State) : (collect s).parts = s.parts := by
  rw [collect, evInterrupt_parts, acceptAll_keeps (fun x => x.parts) (by simp)]
@[simp] theorem collect_stms (s : State) : (collect s).stms = s.stms := by
  rw [collect, evInterrupt_stms, acceptAll_keeps (fun x => x.stms) (by simp)]
@[simp] theorem collect_jobs (s : State) : (collect s).jobs = s.jobs := by
  rw [collect, evInterrupt_jobs, acceptAll_keeps (fun x => x.jobs) (by simp)]
@[simp] theorem collect_accts (s : State) : (collect s).accts = s.accts := by
  rw [collect, evInterrupt_accts, acceptAll_keeps (fun x => x.accts) (by simp)]
@[simp] theorem collect_tps (s : State) : (collect s).tps = s.tps := by
  rw [collect, evInterrupt_tps, acceptAll_keeps (fun x => x.tps) (by simp)]
@[simp] theorem collect_cls (s : State) : (collect s).cls = s.cls := by
  rw [collect, evInterrupt_cls, acceptAll_keeps (fun x => x.cls) (by simp)]
@[simp] theorem collect_blk (s : State) : (collect s).blk = s.blk := by
  rw [collect, evInterrupt_blk, acceptAll_keeps (fun x => x.blk) (by simp)]
@[simp] theorem collect_cul (s : State) : (collect s).cul = s.cul := by
  rw [collect, evInterrupt_cul, acceptAll_keeps (fun x => x.cul) (by simp)]
@[simp] theorem collect_streams (s : State) : (collect s).streams = s.streams := by
  rw [collect, evInterrupt_streams, acceptAll_keeps (fun x => x.streams) (by simp)]
@[simp] theorem collect_links (s : State) : (collect s).links = s.links := by
  rw [collect, evInterrupt_links, acceptAll_keeps (fun x => x.links) (by simp)]
@[simp] theorem collect_net (s : State) : (collect s).net = s.net := by
  rw [collect, evInterrupt_net, acceptAll_keeps (fun x => x.net) (by simp)]
@[simp] theorem collect_ring (s : State) : (collect s).ring = s.ring := by
  rw [collect, evInterrupt_ring, acceptAll_keeps (fun x => x.ring) (by simp)]
@[simp] theorem collect_esc (s : State) : (collect s).esc = s.esc := by
  rw [collect, evInterrupt_esc, acceptAll_keeps (fun x => x.esc) (by simp)]
@[simp] theorem collect_rgl (s : State) : (collect s).rgl = s.rgl := by
  rw [collect, evInterrupt_rgl, acceptAll_keeps (fun x => x.rgl) (by simp)]
@[simp] theorem collect_tel (s : State) : (collect s).tel = s.tel := by
  rw [collect, evInterrupt_tel, acceptAll_keeps (fun x => x.tel) (by simp)]
@[simp] theorem collect_uart (s : State) : (collect s).uart = s.uart := by
  rw [collect, evInterrupt_uart, acceptAll_keeps (fun x => x.uart) (by simp)]
@[simp] theorem collect_con (s : State) : (collect s).con = s.con := by
  rw [collect, evInterrupt_con, acceptAll_keeps (fun x => x.con) (by simp)]
@[simp] theorem collect_pmb (s : State) : (collect s).pmb = s.pmb := by
  rw [collect, evInterrupt_pmb, acceptAll_keeps (fun x => x.pmb) (by simp)]
@[simp] theorem collect_tap (s : State) : (collect s).tap = s.tap := by
  rw [collect, evInterrupt_tap, acceptAll_keeps (fun x => x.tap) (by simp)]
@[simp] theorem collect_flt_kfloor (s : State) : (collect s).flt.kfloor = s.flt.kfloor := by
  rw [collect, evInterrupt_flt_kfloor, acceptAll_keeps (fun x => x.flt.kfloor) (by simp)]
@[simp] theorem collect_flt_krefused (s : State) : (collect s).flt.krefused = s.flt.krefused := by
  rw [collect, evInterrupt_flt_krefused, acceptAll_keeps (fun x => x.flt.krefused) (by simp)]
@[simp] theorem collect_flt_fences (s : State) : (collect s).flt.fences = s.flt.fences := by
  rw [collect, evInterrupt_flt_fences, acceptAll_keeps (fun x => x.flt.fences) (by simp)]
@[simp] theorem collect_flt_ksend (s : State) : (collect s).flt.ksend = s.flt.ksend := by
  rw [collect, evInterrupt_flt_ksend, acceptAll_keeps (fun x => x.flt.ksend) (by simp)]
@[simp] theorem collect_flt_counters (s : State) : (collect s).flt.counters = s.flt.counters := by
  rw [collect, evInterrupt_flt_counters, acceptAll_keeps (fun x => x.flt.counters) (by simp)]
@[simp] theorem collect_flt_waiting (s : State) : (collect s).flt.waiting = s.flt.waiting := by
  rw [collect, evInterrupt_flt_waiting, acceptAll_keeps (fun x => x.flt.waiting) (by simp)]
@[simp] theorem collect_flt_remap (s : State) : (collect s).flt.remap = s.flt.remap := by
  rw [collect, evInterrupt_flt_remap, acceptAll_keeps (fun x => x.flt.remap) (by simp)]
@[simp] theorem collect_flt_selfFence (s : State) : (collect s).flt.selfFence = s.flt.selfFence := by
  rw [collect, evInterrupt_flt_selfFence, acceptAll_keeps (fun x => x.flt.selfFence) (by simp)]
@[simp] theorem collect_flt_chipClass (s : State) : (collect s).flt.chipClass = s.flt.chipClass := by
  rw [collect, evInterrupt_flt_chipClass, acceptAll_keeps (fun x => x.flt.chipClass) (by simp)]
@[simp] theorem collect_flt_eccCor (s : State) : (collect s).flt.eccCor = s.flt.eccCor := by
  rw [collect, evInterrupt_flt_eccCor, acceptAll_keeps (fun x => x.flt.eccCor) (by simp)]
@[simp] theorem collect_flt_eccUnc (s : State) : (collect s).flt.eccUnc = s.flt.eccUnc := by
  rw [collect, evInterrupt_flt_eccUnc, acceptAll_keeps (fun x => x.flt.eccUnc) (by simp)]
@[simp] theorem collect_flt_scrubLate (s : State) : (collect s).flt.scrubLate = s.flt.scrubLate := by
  rw [collect, evInterrupt_flt_scrubLate, acceptAll_keeps (fun x => x.flt.scrubLate) (by simp)]
@[simp] theorem collect_smb_err (s : State) : (collect s).smb.err = s.smb.err := by
  rw [collect, evInterrupt_smb_err, acceptAll_keeps (fun x => x.smb.err) (by simp)]
@[simp] theorem collect_smb_offset (s : State) : (collect s).smb.offset = s.smb.offset := by
  rw [collect, evInterrupt_smb_offset, acceptAll_keeps (fun x => x.smb.offset) (by simp)]
@[simp] theorem collect_smb_reply (s : State) : (collect s).smb.reply = s.smb.reply := by
  rw [collect, evInterrupt_smb_reply, acceptAll_keeps (fun x => x.smb.reply) (by simp)]
@[simp] theorem collect_smb_nack (s : State) : (collect s).smb.nack = s.smb.nack := by
  rw [collect, evInterrupt_smb_nack, acceptAll_keeps (fun x => x.smb.nack) (by simp)]
@[simp] theorem collect_pcie_up (s : State) : (collect s).pcie.up = s.pcie.up := by
  rw [collect, evInterrupt_pcie_up, acceptAll_keeps (fun x => x.pcie.up) (by simp)]
@[simp] theorem collect_pcie_training (s : State) : (collect s).pcie.training = s.pcie.training := by
  rw [collect, evInterrupt_pcie_training, acceptAll_keeps (fun x => x.pcie.training) (by simp)]
@[simp] theorem collect_pcie_rrs (s : State) : (collect s).pcie.rrs = s.pcie.rrs := by
  rw [collect, evInterrupt_pcie_rrs, acceptAll_keeps (fun x => x.pcie.rrs) (by simp)]
@[simp] theorem collect_pcie_gen (s : State) : (collect s).pcie.gen = s.pcie.gen := by
  rw [collect, evInterrupt_pcie_gen, acceptAll_keeps (fun x => x.pcie.gen) (by simp)]
@[simp] theorem collect_pcie_width (s : State) : (collect s).pcie.width = s.pcie.width := by
  rw [collect, evInterrupt_pcie_width, acceptAll_keeps (fun x => x.pcie.width) (by simp)]
@[simp] theorem collect_pcie_poison (s : State) : (collect s).pcie.poison = s.pcie.poison := by
  rw [collect, evInterrupt_pcie_poison, acceptAll_keeps (fun x => x.pcie.poison) (by simp)]
@[simp] theorem collect_pcie_aerUr (s : State) : (collect s).pcie.aerUr = s.pcie.aerUr := by
  rw [collect, evInterrupt_pcie_aerUr, acceptAll_keeps (fun x => x.pcie.aerUr) (by simp)]
@[simp] theorem collect_pcie_aerUnc (s : State) : (collect s).pcie.aerUnc = s.pcie.aerUnc := by
  rw [collect, evInterrupt_pcie_aerUnc, acceptAll_keeps (fun x => x.pcie.aerUnc) (by simp)]
@[simp] theorem collect_pcie_last (s : State) : (collect s).pcie.last = s.pcie.last := by
  rw [collect, evInterrupt_pcie_last, acceptAll_keeps (fun x => x.pcie.last) (by simp)]
@[simp] theorem collect_ev_base (s : State) : (collect s).ev.base = s.ev.base := by
  rw [collect, evInterrupt_ev_base, acceptAll_keeps (fun x => x.ev.base) (by simp)]
@[simp] theorem collect_ev_size (s : State) : (collect s).ev.size = s.ev.size := by
  rw [collect, evInterrupt_ev_size, acceptAll_keeps (fun x => x.ev.size) (by simp)]
@[simp] theorem collect_ev_head (s : State) : (collect s).ev.head = s.ev.head := by
  rw [collect, evInterrupt_ev_head, acceptAll_keeps (fun x => x.ev.head) (by simp)]
@[simp] theorem collect_ev_enable (s : State) : (collect s).ev.enable = s.ev.enable := by
  rw [collect, evInterrupt_ev_enable, acceptAll_keeps (fun x => x.ev.enable) (by simp)]
@[simp] theorem collect_ev_irq (s : State) : (collect s).ev.irq = s.ev.irq := by
  rw [collect, evInterrupt_ev_irq, acceptAll_keeps (fun x => x.ev.irq) (by simp)]

/-- The collector leaves no posting behind. -/
@[simp] theorem collect_queue (s : State) : (collect s).ev.queue = [] := by
  rw [collect, evInterrupt_queue, acceptAll_keeps (fun x => x.ev.queue) (by simp)]

/-- A command that posts nothing leaves the collector to its interrupt. -/
theorem collect_of_none (s : State) (h : s.ev.queue = []) : collect s = evInterrupt s := by
  have e : { s with ev := { s.ev with queue := [] } } = s := by rw [← h]
  rw [collect, h, e]; rfl

/-- A command that posts one event has it accepted. -/
theorem collect_of_one (s : State) (e : Ev) (h : s.ev.queue = [e]) :
    collect s = evInterrupt (acceptEvent { s with ev := { s.ev with queue := [] } } e) := by
  rw [collect, h]; rfl

@[simp] theorem collect_flt_of_none (s : State) (h : s.ev.queue = []) : (collect s).flt = s.flt := by
  rw [collect_of_none s h, evInterrupt_flt]

@[simp] theorem collect_smb_of_none (s : State) (h : s.ev.queue = []) : (collect s).smb = s.smb := by
  rw [collect_of_none s h, evInterrupt_smb]

@[simp] theorem collect_hostMem_of_none (s : State) (h : s.ev.queue = []) : (collect s).hostMem = s.hostMem := by
  rw [collect_of_none s h, evInterrupt_hostMem]

/-! ### Entries of tables -/

theorem modTp_tps (t : Nat) (f : Tp → Tp) (s : State) : (modTp t f s).tps = tmod {} s.tps t f := rfl
theorem modJob_jobs (j : Nat) (f : Job → Job) (s : State) : (modJob j f s).jobs = tmod {} s.jobs j f := rfl
theorem modPart_parts (p : Nat) (f : Part → Part) (s : State) : (modPart p f s).parts = tmod {} s.parts p f := rfl
theorem modStm_stms (p : Nat) (f : Stm → Stm) (s : State) : (modStm p f s).stms = tmod {} s.stms p f := rfl
theorem modStream_streams (i : Nat) (f : Stream → Stream) (s : State) : (modStream i f s).streams = tmod {} s.streams i f := rfl
theorem modLink_links (n : Nat) (f : Link → Link) (s : State) : (modLink n f s).links = tmod {} s.links n f := rfl

@[simp] theorem getJob_modJob_self (j : Nat) (f : Job → Job) (s : State) : getJob (modJob j f s) j = f (getJob s j) := by
  simp [getJob, modJob]
theorem getJob_modJob_ne (j k : Nat) (f : Job → Job) (s : State) (h : k ≠ j) : getJob (modJob j f s) k = getJob s k := by
  simp [getJob, modJob, tget_tmod, h]
@[simp] theorem getJob_modRun_self (j : Nat) (f : Run → Run) (s : State) :
    getJob (modRun j f s) j = { getJob s j with run := f (getJob s j).run } := by
  simp [getJob, modRun, modJob]
theorem getJob_modRun_ne (j k : Nat) (f : Run → Run) (s : State) (h : k ≠ j) : getJob (modRun j f s) k = getJob s k :=
  getJob_modJob_ne j k _ s h
@[simp] theorem getPart_modPart_self (p : Nat) (f : Part → Part) (s : State) : getPart (modPart p f s) p = f (getPart s p) := by
  simp [getPart, modPart]
theorem getPart_modPart_ne (p q : Nat) (f : Part → Part) (s : State) (h : q ≠ p) : getPart (modPart p f s) q = getPart s q := by
  simp [getPart, modPart, tget_tmod, h]
@[simp] theorem getStm_modStm_self (p : Nat) (f : Stm → Stm) (s : State) : getStm (modStm p f s) p = f (getStm s p) := by
  simp [getStm, modStm]
theorem getStm_modStm_ne (p q : Nat) (f : Stm → Stm) (s : State) (h : q ≠ p) : getStm (modStm p f s) q = getStm s q := by
  simp [getStm, modStm, tget_tmod, h]
@[simp] theorem getStream_modStream_self (i : Nat) (f : Stream → Stream) (s : State) :
    getStream (modStream i f s) i = f (getStream s i) := by
  simp [getStream, modStream]
theorem getStream_modStream_ne (i k : Nat) (f : Stream → Stream) (s : State) (h : k ≠ i) :
    getStream (modStream i f s) k = getStream s k := by
  simp [getStream, modStream, tget_tmod, h]
@[simp] theorem getLink_modLink_self (n : Nat) (f : Link → Link) (s : State) : getLink (modLink n f s) n = f (getLink s n) := by
  simp [getLink, modLink]
theorem getLink_modLink_ne (n k : Nat) (f : Link → Link) (s : State) (h : k ≠ n) : getLink (modLink n f s) k = getLink s k := by
  simp [getLink, modLink, tget_tmod, h]

/-! ### A command's answer -/

theorem run_answers (f : State → State) (s t : State) : run f s = .next t ↔ t = { collect (f s) with pending := s.pending } := by
  simp [run, eq_comm]

theorem runCtl_answers (f : State → State) (s t : State) :
    runCtl f s = .next t ↔ t = { collect (f s) with pending := s.pending, mem := s.mem, tps := s.tps } := by
  simp [runCtl, eq_comm]

/-- Every command leaves the queue, and no posting behind. -/
theorem run_leaves (f : State → State) (s t : State) (h : run f s = .next t) : t.pending = s.pending ∧ t.ev.queue = [] := by
  rw [run_answers] at h; subst h; simp

/-- A command that reaches neither the local space nor the thread processors leaves them. -/
theorem runCtl_leaves (f : State → State) (s t : State) (h : runCtl f s = .next t) :
    t.pending = s.pending ∧ t.ev.queue = [] ∧ t.mem = s.mem ∧ t.tps = s.tps := by
  rw [runCtl_answers] at h; subst h; simp

/-! ### Guards on planes and clocks -/

/-- In Loading an act on a plane that is held in reset does nothing (R315). -/
@[simp] theorem unheld_loading (f : State → State) (s : State) (h : s.pwr.state = .loading) : unheld f s = s := by
  simp [unheld, h]

/-- Outside Loading it acts. -/
@[simp] theorem unheld_acts (f : State → State) (s : State) (h : s.pwr.state ≠ .loading) : unheld f s = f s := by
  simp [unheld, h]

/-- In Dormant an act of the ESC domain does nothing (R299). -/
@[simp] theorem onEsc_dormant (f : State → State) (s : State) (h : s.pwr.state = .dormant) : onEsc f s = s := by
  simp [onEsc, h]

/-- Outside Dormant it acts. -/
@[simp] theorem onEsc_acts (f : State → State) (s : State) (h : s.pwr.state ≠ .dormant) : onEsc f s = f s := by
  simp [onEsc, h]

end Sys2Proof.Machine
end

