-- ==== Sys2Proof/Laws/Answers.lean ====
section
/-! SUPPORT. How a command's answer follows from its effect. -/

namespace Sys2Proof.Machine

/-- A command over `run` gives its effect. -/
theorem gives_run {i : Instr} {s : State} (f : State → State) (u : State) (h : exec i s = run f s) (hu : f s = u) :
    Gives i s u := by
  rw [Gives, h, run, hu]

/-- A command over `runCtl` gives its effect, where the effect reaches neither memory nor the thread processors. -/
theorem gives_runCtl {i : Instr} {s : State} (f : State → State) (u : State) (h : exec i s = runCtl f s) (hu : f s = u)
    (hm : u.mem = s.mem) (ht : u.tps = s.tps) : Gives i s u := by
  rw [Gives, h, runCtl, hu]
  congr 1
  have e1 : (collect u).mem = s.mem := by simp [hm]
  have e2 : (collect u).tps = s.tps := by simp [ht]
  rw [← e1, ← e2]

/-- Two changes of a link are one. -/
@[simp] theorem modLink_modLink (n : Nat) (f g : Link → Link) (s : State) :
    modLink n g (modLink n f s) = modLink n (fun l => g (f l)) s := by
  simp [modLink, tmod]

/-- Two changes of a TP are one. -/
@[simp] theorem modTp_modTp (t : Nat) (f g : Tp → Tp) (s : State) :
    modTp t g (modTp t f s) = modTp t (fun x => g (f x)) s := by
  simp [modTp, tmod]

end Sys2Proof.Machine
end

