-- ==== Sys2Proof/Laws/Threads.lean ====
section
/-! SUPPORT. Frames of the collector, and what the issue and retirement of a thread instruction change. -/

namespace Sys2Proof.Machine

/-! ### The collector's frame -/

theorem reported_trans (a b c : State) (h : b = reported a b) (h' : c = reported b c) : c = reported a c := by
  rw [h'.trans (congrArg (reported · c) h)]; rfl

theorem logEvent_reported (e : Ev) (s : State) : logEvent e s = reported s (logEvent e s) := by
  unfold logEvent; split <;> rfl

theorem ringEvent_reported (e : Ev) (s : State) : ringEvent e s = reported s (ringEvent e s) := by
  unfold ringEvent; dsimp only; split <;> rfl

theorem acceptEvent_reported (e : Ev) (s : State) : acceptEvent s e = reported s (acceptEvent s e) :=
  reported_trans _ _ _ (logEvent_reported e s) (ringEvent_reported e _)

theorem acceptAll_reported (es : List Ev) : ∀ s, es.foldl acceptEvent s = reported s (es.foldl acceptEvent s) := by
  induction es with
  | nil => intro s; rfl
  | cons e es ih => intro s; exact reported_trans _ _ _ (acceptEvent_reported e s) (ih _)

theorem evInterrupt_reported (s : State) : evInterrupt s = reported s (evInterrupt s) := by
  unfold evInterrupt; dsimp only; (repeat' split) <;> rfl

/-- All that the collector changes. -/
theorem collect_reported (s : State) : collect s = reported s (collect s) :=
  reported_trans s { s with ev := { s.ev with queue := [] } } _ rfl
    (reported_trans _ _ _ (acceptAll_reported _ _) (evInterrupt_reported _))

@[simp] theorem reported_reported (a b c : State) : reported (reported a b) c = reported a c := rfl

@[simp] theorem reported_post (src code sev : Nat) (p : List Byte) (s t : State) :
    reported (post src code sev p s) t = reported s t := rfl

@[simp] theorem reported_postIf (c : Bool) (src code sev : Nat) (p : List Byte) (s t : State) :
    reported (postIf c src code sev p s) t = reported s t := by unfold postIf; split <;> rfl

/-- What a command's answer changes beside its effect. -/
theorem run_reported (f : State → State) (s t : State) (h : run f s = .next t) :
    t = { reported (f s) t with pending := s.pending } := by
  rw [run_answers] at h
  subst h
  generalize h : collect (f s) = t
  have e : t = reported (f s) t := h ▸ collect_reported (f s)
  exact congrArg (fun x : State => { x with pending := s.pending }) e

/-! ### Retirement -/

@[simp] theorem getTp_modTp_self (t : Nat) (f : Tp → Tp) (s : State) : getTp (modTp t f s) t = f (getTp s t) := by
  simp [getTp, modTp]

theorem getTp_modTp_ne (t u : Nat) (f : Tp → Tp) (s : State) (h : u ≠ t) : getTp (modTp t f s) u = getTp s u := by
  simp [getTp, modTp, tget_tmod, h]

/-- What the end of arms and bodies changes: bytes of the index registers of the loops named, the TP's own row but for its
tile, its queues and what it waits for, and postings. -/
structure Closes (ds : List Nat) (t : Nat) (s s' : State) : Prop where
  bytes : ∀ x, (∀ d ∈ ds, x < d ∨ d + 8 ≤ x) → memGet s'.mem x = memGet s.mem x
  tps : ∀ u, u ≠ t → getTp s' u = getTp s u
  ready : ∀ a, a ∉ ds → tget 0 (getTp s' t).ready a = tget 0 (getTp s t).ready a
  tp : getTp s' t = { getTp s t with pc := (getTp s' t).pc, nest := (getTp s' t).nest, next := (getTp s' t).next,
                                     ready := (getTp s' t).ready, settled := (getTp s' t).settled }
  rest : s' = { s with mem := s'.mem, tps := s'.tps, ev := { s.ev with queue := s'.ev.queue } }

theorem Closes.refl (ds : List Nat) (t : Nat) (s : State) : Closes ds t s s :=
  ⟨fun _ _ => rfl, fun _ _ => rfl, fun _ _ => rfl, rfl, rfl⟩

theorem Closes.trans {ds : List Nat} {t : Nat} {a b c : State} (h : Closes ds t a b) (h' : Closes ds t b c) : Closes ds t a c :=
  ⟨fun x hx => (h'.bytes x hx).trans (h.bytes x hx), fun u hu => (h'.tps u hu).trans (h.tps u hu),
   fun x hx => (h'.ready x hx).trans (h.ready x hx),
   by rw [h'.tp, h.tp], by rw [h'.rest, h.rest]⟩

theorem Closes.mono {ds ds' : List Nat} {t : Nat} {a b : State} (h : Closes ds t a b) (hs : ∀ d ∈ ds, d ∈ ds') : Closes ds' t a b :=
  ⟨fun x hx => h.bytes x fun d hd => hx d (hs d hd), h.tps, fun x hx => h.ready x fun hd => hx (hs x hd), h.tp, h.rest⟩

/-- A change of a TP's nest, position and next cycle. -/
theorem closes_modTp (ds : List Nat) (t : Nat) (f : Tp → Tp) (s : State)
    (h : ∀ x : Tp, f x = { x with pc := (f x).pc, nest := (f x).nest, next := (f x).next }) : Closes ds t s (modTp t f s) :=
  ⟨fun _ _ => rfl, fun u hu => getTp_modTp_ne t u f s hu, fun a _ => by rw [getTp_modTp_self, h],
   by rw [getTp_modTp_self, h], rfl⟩

/-- The index of an iteration changes at most its register. -/
theorem closes_writeIndex (t : Nat) (n : Nest) (s : State) : Closes n.dst.toList t s (writeIndex t n s) := by
  unfold writeIndex
  split
  · exact Closes.refl _ _ _
  · next a h =>
    refine ⟨fun x hx => ?_, fun u hu => getTp_modTp_ne _ _ _ _ hu, fun k hk => ?_, ?_, rfl⟩
    · have := hx a (by simp [h])
      exact memGet_memWrite_outside _ _ _ _ (by simpa using this)
    · have : k ≠ a := fun e => hk (by simp [h, e])
      rw [getTp_modTp_self, noteReady]
      simp [tget_tput, this, putMemNat, putMem, getTp]
    · rw [getTp_modTp_self]; rfl

theorem writeIndex_tp (t : Nat) (n : Nest) (s : State) :
    ∃ r z, getTp (writeIndex t n s) t = { getTp s t with ready := r, settled := z } := by
  unfold writeIndex
  split
  · exact ⟨_, _, rfl⟩
  · rw [getTp_modTp_self]; exact ⟨_, _, rfl⟩

@[simp] theorem getTp_loopLimit (t u : Nat) (n : Nest) (s : State) : getTp (loopLimit t n s) u = getTp s u := by
  unfold loopLimit; split <;> rfl

theorem closes_loopLimit (ds : List Nat) (t : Nat) (n : Nest) (s : State) : Closes ds t s (loopLimit t n s) := by
  unfold loopLimit
  split
  · exact Closes.refl _ _ _
  · exact ⟨fun _ _ => rfl, fun _ _ => rfl, fun _ _ => rfl, rfl, rfl⟩

/-- The end of arms and bodies changes what their loops' index registers hold, and where the TP goes on. -/
theorem closes_closeNests (t : Nat) : ∀ (k : Nat) (s : State), Closes (loopIndexes (getTp s t)) t s (closeNests t k s) := by
  intro k
  induction k with
  | zero => intro s; exact Closes.refl _ _ _
  | succ k ih =>
    intro s
    rw [closeNests]
    split
    · exact Closes.refl _ _ _
    · next n rest hn =>
      have hd : ∀ d ∈ n.dst.toList, d ∈ loopIndexes (getTp s t) := by
        intro d hd
        simp only [Option.mem_toList] at hd
        simp only [loopIndexes, hn, List.filterMap_cons, hd]
        simp
      have hr : ∀ d ∈ loopIndexes { getTp s t with nest := rest }, d ∈ loopIndexes (getTp s t) := by
        intro d hd
        simp only [loopIndexes, hn, List.filterMap_cons] at hd ⊢
        split <;> simp_all
      split
      · exact Closes.refl _ _ _
      · split
        · refine (closes_modTp _ t _ s (fun _ => rfl)).trans ((ih _).mono fun d hd => hr d ?_)
          rw [getTp_modTp_self] at hd; exact hd
        · dsimp only
          split
          · refine (closes_modTp _ t _ s (fun _ => rfl)).trans ((closes_writeIndex t _ _).mono ?_)
            exact hd
          · have h1 : Closes (loopIndexes (getTp s t)) t s
                (if n.start = n.stop then
                  writeIndex t { n with iter := n.nMax - 1, iterStart := n.issue + 2 + (n.nMax - 1) * (n.bound + 1) } s
                 else s) := by
              split
              · exact (closes_writeIndex t _ s).mono hd
              · exact Closes.refl _ _ _
            refine h1.trans ((closes_modTp _ t _ _ (fun _ => rfl)).trans ((closes_loopLimit _ t _ _).trans ((ih _).mono fun d h => hr d ?_)))
            have e : ∀ (m : Nest) (x : State), getTp (loopLimit t m x) t = getTp x t := by
              intro m x; unfold loopLimit; split <;> rfl
            rw [e, getTp_modTp_self] at h
            exact h

/-- Retirement: the next position, then the end of arms and bodies. -/
theorem closes_retire (t cy : Nat) (s : State) : Closes (loopIndexes (getTp s t)) t s (retire t cy s) := by
  refine (closes_modTp _ t _ s (fun _ => rfl)).trans ((closes_closeNests t 5 _).mono fun d hd => ?_)
  rw [getTp_modTp_self] at hd; exact hd

/-- Outside arms and bodies, retirement leaves the TP at the next code position. -/
theorem retire_steps (t cy : Nat) (s : State) (h : (getTp s t).nest = []) :
    retire t cy s = modTp t (fun x => { x with pc := x.pc + 1, next := cy }) s := by
  rw [retire, closeNests, getTp_modTp_self]
  simp only [h]

theorem closeNests_nil (t k : Nat) (s : State) (h : (getTp s t).nest = []) : closeNests t k s = s := by
  cases k with
  | zero => rfl
  | succ k => rw [closeNests]; simp only [h]

/-- An arm or body that goes on. -/
theorem closeNests_open (t k : Nat) (s : State) (n : Nest) (rest : List Nest) (h : (getTp s t).nest = n :: rest)
    (hpc : (getTp s t).pc ≠ n.stop) : closeNests t k s = s := by
  cases k with
  | zero => rfl
  | succ k =>
    rw [closeNests]; simp only [h]
    simp [hpc]

/-! ### Issue -/

theorem getTp_noteCycle (slot cy u : Nat) (s : State) : getTp (noteCycle slot cy s) u = getTp s u := rfl

/-- What going past the moved ceiling end changes: the tile's note of it. -/
theorem passCeiling_tp (c : TileCtx) (cy : Nat) (s : State) :
    ∃ o : TileRun → Option Nat, getTp (passCeiling c cy s) c.t = { getTp s c.t with tile := (getTp s c.t).tile.map fun x => { x with overAt := o x } } := by
  unfold passCeiling
  split
  · exact ⟨fun _ => some (ctxSlip c), by rw [getTp_modTp_self]⟩
  · refine ⟨fun x => x.overAt, ?_⟩
    cases h : (getTp s c.t).tile with
    | none => rw [show Option.map _ none = none from rfl, ← h]
    | some x => rw [show Option.map _ (some x) = some x from rfl, ← h]

theorem passCeiling_other (c : TileCtx) (cy u : Nat) (s : State) (h : u ≠ c.t) : getTp (passCeiling c cy s) u = getTp s u := by
  unfold passCeiling
  split
  · exact getTp_modTp_ne _ _ _ _ h
  · rfl

theorem passCeiling_rest (c : TileCtx) (cy : Nat) (s : State) :
    passCeiling c cy s = { s with tps := (passCeiling c cy s).tps } := by
  unfold passCeiling; split <;> rfl

/-- The context of a TP's tile is that TP's. -/
theorem tileCtx_tp (s : State) (t : Nat) (c : TileCtx) (h : tileCtx s t = some c) :
    c.t = t ∧ c.tp = getTp s t ∧ c.job = getJob s c.slot := by
  unfold tileCtx at h
  dsimp only at h
  split at h
  · cases h
  · split at h
    · cases h
    · cases h; exact ⟨rfl, rfl, rfl⟩

/-- Serving lines of Vat accesses changes bytes, check bits and what is in flight, and nothing else. -/
theorem serveVat_rest (ok : VatAcc → Bool) : ∀ (k : Nat) (s : State),
    serveVat ok k s = { s with mem := (serveVat ok k s).mem, ecc := (serveVat ok k s).ecc, vat := (serveVat ok k s).vat } := by
  intro k
  induction k with
  | zero => intro s; rfl
  | succ k ih =>
    intro s
    rw [serveVat]
    split
    · rfl
    · next a i _ =>
      have h : ∀ x : State, serveLine a x = { x with mem := (serveLine a x).mem, ecc := (serveLine a x).ecc } := by
        intro x; unfold serveLine; dsimp only; split <;> rfl
      refine (ih _).trans ?_
      generalize (serveVat ok k _).mem = m, (serveVat ok k _).ecc = e, (serveVat ok k _).vat = v
      rw [h]

theorem serveAll_rest (s : State) :
    serveAll s = { s with mem := (serveAll s).mem, ecc := (serveAll s).ecc, vat := (serveAll s).vat } := serveVat_rest _ _ _

/-- With no access in flight there is nothing to serve. -/
@[simp] theorem serveAll_none (s : State) (h : s.vat = []) : serveAll s = s := by simp [serveAll, h, vatLeft, sumNat, serveVat]

@[simp] theorem serveTo_none (cy : Nat) (s : State) (h : s.vat = []) : serveTo cy s = s := by
  simp [serveTo, h, vatLeft, sumNat, serveVat]

@[simp] theorem serveJob_none (j : Nat) (s : State) (h : s.vat = []) : serveJob j s = s := by
  simp [serveJob, h, vatLeft, sumNat, serveVat]

theorem serveTo_rest (cy : Nat) (s : State) :
    serveTo cy s = { s with mem := (serveTo cy s).mem, ecc := (serveTo cy s).ecc, vat := (serveTo cy s).vat } := serveVat_rest _ _ _

/-- The lines served up to an instruction's issue change no TP, no job and no clock. -/
theorem readied_rest {o : OpSpec} {c : TileCtx} {f : TField} {s u : State} {cy : Nat} (h : readied o c f s = some (cy, u)) :
    u = { s with mem := u.mem, ecc := u.ecc, vat := u.vat } := by
  unfold readied at h
  split at h
  · cases h
  · dsimp only at h
    split at h
    · cases h
    · cases h
      refine (serveTo_rest _ _).trans ?_
      generalize (serveTo _ (serveTo _ s)).mem = m, (serveTo _ (serveTo _ s)).ecc = e, (serveTo _ (serveTo _ s)).vat = v
      rw [serveTo_rest]

/-- What an instruction that issues finds of its TP. -/
theorem Issues.tp {o : OpSpec} {t : Fin 128} {f : TField} {s u : State} {c : TileCtx} {cy : Nat} (h : Issues o t f s u c cy) :
    c.t = t.val ∧ c.tp = getTp u c.t := by
  obtain ⟨ht, htp, -⟩ := tileCtx_tp s t.val c h.tile
  refine ⟨ht, ?_⟩
  rw [readied_rest h.at_, ht]; exact htp

/-- Nothing stops an instruction that passes its checks in time. -/
theorem issueEvent_passes {o : OpSpec} {u : State} {c : TileCtx} {f : TField} {cy : Nat} (hs : staticReason o u c f = 0)
    (hl : laterReason o u c f = 0) (ht : ∀ d, deadline c.tp = some d → cy + o.cost u f + frameCycles o f ≤ d)
    (ha : ∀ g n al, o.access u c f = some (g, n, al) → accessReason u c.job g n al = 0) :
    (issueEvent o c f cy u).cycle = cy ∧ (issueEvent o c f cy u).reason = 0 ∧ (issueEvent o c f cy u).access.2 = 0 := by
  have hc : (accessCheck o u c f).2 = 0 := by
    unfold accessCheck
    split
    · split
      · next g n al h => exact ha g n al h
      · rfl
    · rfl
  unfold issueEvent
  rw [hs]
  simp only [if_true, hl]
  cases hd : deadline c.tp with
  | none => simp [hc]
  | some d =>
    have late : ¬ d < cy + o.cost u f + frameCycles o f := Nat.not_lt.mpr (ht d hd)
    simp [late, hc]

/-- The state in which an instruction that issues has its effect. -/
def issued (c : TileCtx) (cy : Nat) (s : State) : State :=
  modTp c.t (fun tp => { tp with stalled := none }) (noteCycle c.slot cy (passCeiling c cy s))

/-- An instruction that issues has its effect. -/
theorem issue_of_issues (o : OpSpec) (t : Fin 128) (f : TField) (act : TileCtx → Nat → State → State) (s u : State)
    (c : TileCtx) (cy : Nat) (h : Issues o t f s u c cy) : issue o t f act s = act c cy (issued c cy u) := by
  have h1 : ¬ c.hdr.codeLen ≤ c.tp.pc := Nat.not_le.mpr h.inCode
  obtain ⟨e1, e2, e3⟩ := issueEvent_passes h.accepted h.passes h.inTime h.access
  have h2 : ¬ haltCycle c < (cy : Int) := by have := h.running; omega
  have h3 : (haltCycle c == (cy : Int)) = false := by have := h.running; simp; omega
  unfold issue
  rw [h.tile]
  simp only [h1, if_false, h.defined_, Bool.false_eq_true, h.at_, e1, e2, e3, h2, h3]
  simp [issued]

@[simp] theorem issued_mem (c : TileCtx) (cy : Nat) (s : State) : (issued c cy s).mem = s.mem := by
  rw [issued, passCeiling_rest]; rfl

theorem issued_rest (c : TileCtx) (cy : Nat) (s : State) :
    issued c cy s = { s with tps := (issued c cy s).tps, jobs := (noteCycle c.slot cy s).jobs } := by
  rw [issued, passCeiling_rest]; rfl

theorem issued_nest (c : TileCtx) (cy : Nat) (s : State) : (getTp (issued c cy s) c.t).nest = (getTp s c.t).nest := by
  obtain ⟨o, h⟩ := passCeiling_tp c cy s
  rw [issued, getTp_modTp_self, getTp_noteCycle, h]

theorem issued_pc (c : TileCtx) (cy : Nat) (s : State) : (getTp (issued c cy s) c.t).pc = (getTp s c.t).pc := by
  obtain ⟨o, h⟩ := passCeiling_tp c cy s
  rw [issued, getTp_modTp_self, getTp_noteCycle, h]

theorem issued_other (c : TileCtx) (cy u : Nat) (s : State) (h : u ≠ c.t) : getTp (issued c cy s) u = getTp s u := by
  rw [issued, getTp_modTp_ne _ _ _ _ h, getTp_noteCycle, passCeiling_other _ _ _ _ h]

/-- The effect of an instruction before it retires: bytes of memory, and its TP's own row but for where it stands. -/
structure Acts (c : TileCtx) (s1 s2 : State) : Prop where
  tps  : ∀ u, u ≠ c.t → getTp s2 u = getTp s1 u
  nest : (getTp s2 c.t).nest = (getTp s1 c.t).nest
  pc   : (getTp s2 c.t).pc = (getTp s1 c.t).pc
  rest : s2 = { s1 with mem := s2.mem, tps := s2.tps }

/-- What an instruction leaves once it has acted and retired: the frame that all of them share. -/
theorem retired_stays (s s2 : State) (c : TileCtx) (cy nx : Nat) (htp : c.tp = getTp s c.t)
    (h : Acts c (issued c cy s) s2) :
    ∀ s', s' = { collect (retire c.t nx s2) with pending := s.pending } →
      Stays s s' c cy ∧ Steps s' c nx ∧
        (∀ x, (∀ d ∈ loopIndexes c.tp, x < d ∨ d + 8 ≤ x) → memGet s'.mem x = memGet s2.mem x) ∧
        (∀ a, a ∉ loopIndexes c.tp → tget 0 (getTp s' c.t).ready a = tget 0 (getTp s2 c.t).ready a) := by
  intro s' hs
  have hl : loopIndexes (getTp s2 c.t) = loopIndexes c.tp := by
    rw [loopIndexes, h.nest, issued_nest, htp]; rfl
  have hr := closes_retire c.t nx s2
  rw [hl] at hr
  have tp' : ∀ u, getTp s' u = getTp (retire c.t nx s2) u := by intro u; rw [hs]; simp [getTp]
  have mem' : s'.mem = (retire c.t nx s2).mem := by rw [hs]; simp
  refine ⟨⟨fun u hu => ?_, ?_, ?_⟩, fun hn => ?_, fun x hx => ?_, fun a ha => ?_⟩
  · rw [tp', hr.tps u hu, h.tps u hu, issued_other _ _ _ _ hu]
  · rw [hs]
    show (collect _).jobs = _
    rw [collect_jobs, hr.rest]
    show s2.jobs = _
    rw [h.rest, issued_rest]
  · have hrep := collect_reported (retire c.t nx s2)
    have e2 : s2 = { s with mem := s2.mem, tps := s2.tps, jobs := (noteCycle c.slot cy s).jobs } :=
      h.rest.trans (congrArg (fun y : State => { y with mem := s2.mem, tps := s2.tps }) (issued_rest c cy s))
    have e1 : retire c.t nx s2 = { s with
        mem := (retire c.t nx s2).mem, tps := (retire c.t nx s2).tps, jobs := (noteCycle c.slot cy s).jobs
        ev := { s.ev with queue := (retire c.t nx s2).ev.queue } } :=
      hr.rest.trans (congrArg (fun y : State => { y with
        mem := (retire c.t nx s2).mem, tps := (retire c.t nx s2).tps
        ev := { y.ev with queue := (retire c.t nx s2).ev.queue } }) e2)
    have hj : s'.jobs = (noteCycle c.slot cy s).jobs := by
      rw [hs]; show (collect _).jobs = _; rw [collect_jobs, e1]
    have ht : s'.tps = (retire c.t nx s2).tps := by rw [hs]; simp
    rw [hj, mem', ht]
    generalize hz : collect (retire c.t nx s2) = z at hs hrep
    rw [hs]
    exact (congrArg (fun y : State => { y with pending := s.pending })
      (hrep.trans (congrArg (fun y => reported y z) e1)))
  · have hn2 : (getTp s2 c.t).nest = [] := by rw [h.nest, issued_nest, ← htp]; exact hn
    rw [tp', retire_steps _ _ _ hn2, getTp_modTp_self]
    exact ⟨by rw [h.pc, issued_pc, ← htp], rfl, hn2⟩
  · rw [mem', hr.bytes x hx]
  · rw [tp', hr.ready a ha]

/-- Instructions that write one result (R73, R78). -/
theorem result_wrote (o : OpSpec) (t : Fin 128) (f : TField) (lat : Nat) (v : TileCtx → State → Nat) (s u : State) (c : TileCtx)
    (cy : Nat) (h : Issues o t f s u c cy) :
    ∃ s', run (issue o t f (result o f lat v)) s = .next s' ∧
      Wrote u s' c cy lat (1 + frameCycles o f) (opAddr t f.thr.toNat f.dst)
        (leBytes (opSize f.dst) (v c (issued c cy u))) := by
  have hrun : run (issue o t f (result o f lat v)) s =
      .next { collect (result o f lat v c cy (issued c cy u)) with pending := u.pending } := by
    have hp : u.pending = s.pending := by rw [readied_rest h.at_]
    rw [run, issue_of_issues o t f _ s u c cy h, hp]
  refine ⟨_, hrun, ?_⟩
  obtain ⟨ht, htp⟩ := h.tp
  have hacts : Acts c (issued c cy u) (modTp c.t (noteReady (opAddr c.t f.thr.toNat f.dst) (cy + lat))
      (writeNum c.t f.thr.toNat f.dst (v c (issued c cy u)) (issued c cy u))) :=
    ⟨fun x hu => by rw [getTp_modTp_ne _ _ _ _ hu]; rfl, by rw [getTp_modTp_self]; rfl, by rw [getTp_modTp_self]; rfl, rfl⟩
  obtain ⟨h1, h2, h3, h4⟩ := retired_stays u _ c cy (cy + (1 + frameCycles o f)) htp hacts _ rfl
  rw [← Nat.add_assoc] at h1 h2 h3 h4
  have hw : ∀ (x a : Nat) (b : List Byte), memGet (putMem a b (issued c cy u)).mem x = memGet (memWrite u.mem a b) x := by
    intro x a b; rw [putMem]; simp
  refine ⟨fun hoff => ?_, fun x hx hd => ?_, fun ha => ?_, by rw [← Nat.add_assoc]; exact h2, h1⟩
  · rw [memRead_congr _ (memWrite u.mem (opAddr t f.thr.toNat f.dst) (leBytes (opSize f.dst) (v c (issued c cy u)))) _ _
      fun x hx1 hx2 => ?_]
    · exact memRead_memWrite _ _ _
    · rw [← ht]
      rw [← ht] at hx1 hx2 hoff
      exact (h3 x fun d hd => by have := hoff d hd; unfold Apart at this; omega).trans (hw _ _ _)
  · refine (h3 x hd).trans ((hw _ _ _).trans ?_)
    rw [ht]
    exact memGet_memWrite_outside _ _ _ _ hx
  · rw [← ht] at ha ⊢
    refine (h4 _ ha).trans ?_
    rw [getTp_modTp_self]; simp [noteReady]

/-- What an accepted instruction meets of R95, reasons 1 to 4. -/
theorem staticReason_zero {o : OpSpec} {s : State} {c : TileCtx} {f : TField} (h : staticReason o s c f = 0) :
    o.modOk f.mod.toNat = true ∧ o.tyOk f.mod.toNat f.ty.toNat = true ∧
      ((specKinds o f).all fun x => kindOk x.1 x.2) = true ∧ o.range s c f = true := by
  unfold staticReason at h
  split at h; · cases h
  split at h; · cases h
  split at h; · cases h
  split at h; · cases h
  rename_i h1 h2 h3 h4
  simp at h1 h2 h4 ⊢
  exact ⟨h1, h2, h4⟩

theorem opSize_wide {o : BitVec 10} (h : isWide o = true) : opSize o = 64 := by
  unfold opSize
  split
  · next e => simp [isWide, e] at h
  · rfl

theorem opSize_scalar {o : BitVec 10} (h : isScalar o = true) : opSize o = 8 := by
  simp [isScalar] at h; simp [opSize, h]

@[simp] theorem readOp_issued (c : TileCtx) (cy : Nat) (s : State) (t i : Nat) (o : BitVec 10) :
    readOp (issued c cy s) t i o = readOp s t i o := by simp [readOp]

@[simp] theorem readNum_issued (c : TileCtx) (cy : Nat) (s : State) (t i : Nat) (o : BitVec 10) :
    readNum (issued c cy s) t i o = readNum s t i o := by simp [readNum]

@[simp] theorem readScalar_issued (c : TileCtx) (cy : Nat) (s : State) (t i : Nat) (o : BitVec 10) :
    readScalar (issued c cy s) t i o = readScalar s t i o := by simp [readScalar]

/-- What closing arms and bodies leaves, once an instruction has acted: the frame that all of them share. -/
theorem closed_stays (s s2 : State) (c : TileCtx) (cy : Nat)
    (htps : ∀ u, u ≠ c.t → getTp s2 u = getTp (issued c cy s) u)
    (hact : s2 = { issued c cy s with
      mem := s2.mem, tps := s2.tps, ev := { (issued c cy s).ev with queue := s2.ev.queue } })
    (ds : List Nat) (hds : ∀ d ∈ loopIndexes (getTp s2 c.t), d ∈ ds) (k : Nat) :
    ∀ s', s' = { collect (closeNests c.t k s2) with pending := s.pending } →
      Stays s s' c cy ∧ (∀ u, getTp s' u = getTp (closeNests c.t k s2) u) ∧ s'.mem = (closeNests c.t k s2).mem ∧
      (∀ x, (∀ d ∈ ds, x < d ∨ d + 8 ≤ x) → memGet s'.mem x = memGet s2.mem x) := by
  intro s' hs
  have hr := (closes_closeNests c.t k s2).mono hds
  have hrest : s2 = { s with
      mem := s2.mem, tps := s2.tps, jobs := (noteCycle c.slot cy s).jobs, ev := { s.ev with queue := s2.ev.queue } } :=
    hact.trans (congrArg (fun y : State => { y with
      mem := s2.mem, tps := s2.tps, ev := { y.ev with queue := s2.ev.queue } }) (issued_rest c cy s))
  have tp' : ∀ u, getTp s' u = getTp (closeNests c.t k s2) u := by intro u; rw [hs]; simp [getTp]
  have mem' : s'.mem = (closeNests c.t k s2).mem := by rw [hs]; simp
  refine ⟨⟨fun u hu => ?_, ?_, ?_⟩, tp', mem', fun x hx => by rw [mem', hr.bytes x hx]⟩
  · rw [tp', hr.tps u hu, htps u hu, issued_other _ _ _ _ hu]
  · rw [hs]
    show (collect _).jobs = _
    rw [collect_jobs, hr.rest]
    show s2.jobs = _
    rw [hrest]
  · have hrep := collect_reported (closeNests c.t k s2)
    have e1 : closeNests c.t k s2 = { s with
        mem := (closeNests c.t k s2).mem, tps := (closeNests c.t k s2).tps, jobs := (noteCycle c.slot cy s).jobs
        ev := { s.ev with queue := (closeNests c.t k s2).ev.queue } } :=
      hr.rest.trans (congrArg (fun y : State => { y with
        mem := (closeNests c.t k s2).mem, tps := (closeNests c.t k s2).tps
        ev := { y.ev with queue := (closeNests c.t k s2).ev.queue } }) hrest)
    have hj : s'.jobs = (noteCycle c.slot cy s).jobs := by
      rw [hs]; show (collect _).jobs = _; rw [collect_jobs, e1]
    have ht : s'.tps = (closeNests c.t k s2).tps := by rw [hs]; simp
    rw [hj, mem', ht]
    generalize hz : collect (closeNests c.t k s2) = z at hs hrep
    rw [hs]
    exact (congrArg (fun y : State => { y with pending := s.pending })
      (hrep.trans (congrArg (fun y => reported y z) e1)))

/-- The answer of a command that ends with the retirement of TP `t`'s instruction. -/
theorem retire_answer (t nx : Nat) (s s2 : State) (ds : List Nat) (hds : loopIndexes (getTp s2 t) = ds) :
    ∀ s', s' = { collect (retire t nx s2) with pending := s.pending } →
      (∀ u, u ≠ t → getTp s' u = getTp s2 u) ∧
      getTp s' t = { getTp s2 t with pc := (getTp s' t).pc, nest := (getTp s' t).nest, next := (getTp s' t).next,
                                     ready := (getTp s' t).ready, settled := (getTp s' t).settled } ∧
      (∀ a, a ∉ ds → tget 0 (getTp s' t).ready a = tget 0 (getTp s2 t).ready a) ∧
      (∀ x, (∀ d ∈ ds, x < d ∨ d + 8 ≤ x) → memGet s'.mem x = memGet s2.mem x) ∧
      ((getTp s2 t).nest = [] → getTp s' t = { getTp s2 t with pc := (getTp s2 t).pc + 1, next := nx } ∧ s'.mem = s2.mem) ∧
      s' = { reported s2 s' with mem := s'.mem, tps := s'.tps, pending := s.pending } := by
  intro s' hs
  have hr := closes_retire t nx s2
  rw [hds] at hr
  have tp' : ∀ u, getTp s' u = getTp (retire t nx s2) u := by intro u; rw [hs]; simp [getTp]
  have mem' : s'.mem = (retire t nx s2).mem := by rw [hs]; simp
  refine ⟨fun u hu => by rw [tp', hr.tps u hu], by rw [tp']; exact hr.tp, fun a ha => by rw [tp', hr.ready a ha],
    fun x hx => by rw [mem', hr.bytes x hx], fun hn => ?_, ?_⟩
  · rw [tp', mem', retire_steps _ _ _ hn, getTp_modTp_self]; exact ⟨rfl, rfl⟩
  · have ht : s'.tps = (retire t nx s2).tps := by rw [hs]; simp
    have hrep := collect_reported (retire t nx s2)
    rw [mem', ht]
    generalize hz : collect (retire t nx s2) = z at hs hrep
    rw [hs]
    exact congrArg (fun y : State => { y with pending := s.pending })
      (hrep.trans (congrArg (fun y => reported y z) hr.rest))

end Sys2Proof.Machine
end

