-- ==== Sys2Proof/Laws/Faults.lean ====
section
/-! SUPPORT. Faults of class job: the job that stops, and what a fault leaves of the others (R53, R241, R242). -/

namespace Sys2Proof.Machine

/-! ### Sorted lists -/

theorem mem_insertBy {α : Type} (lt : α → α → Bool) (x y : α) (l : List α) : y ∈ insertBy lt x l ↔ y = x ∨ y ∈ l := by
  induction l with
  | nil => simp [insertBy]
  | cons z zs ih =>
    rw [insertBy]
    split
    · simp
    · simp only [List.mem_cons, ih]
      constructor
      · rintro (h | h | h) <;> simp [h]
      · rintro (h | h | h) <;> simp [h]

theorem mem_sortBy {α : Type} (lt : α → α → Bool) (y : α) (l : List α) : y ∈ sortBy lt l ↔ y ∈ l := by
  have h : ∀ (l acc : List α), y ∈ l.foldl (fun acc x => insertBy lt x acc) acc ↔ y ∈ l ∨ y ∈ acc := by
    intro l
    induction l with
    | nil => simp
    | cons x xs ih =>
      intro acc
      rw [List.foldl_cons, ih, mem_insertBy]
      simp only [List.mem_cons]
      constructor
      · rintro (h | h | h) <;> simp [h]
      · rintro ((h | h) | h) <;> simp [h]
  simpa [sortBy] using h l []

/-! ### The choice of R241 -/

/-- The chosen job is Ready or Running. -/
theorem chooseJob_state (s : State) (p j : Nat) (h : chooseJob s p = some j) : (getJob s j).state = 2 ∨ (getJob s j).state = 3 := by
  have hm : j ∈ candidates s p := by
    rw [← mem_sortBy (vtLess s)]
    exact List.mem_of_head? h
  simp only [candidates, List.mem_filter, Bool.or_eq_true, Bool.and_eq_true, beq_iff_eq] at hm
  rcases hm.2 with h | h
  · exact Or.inl h.1.1
  · exact Or.inr h

/-- What a job's begin changes of the others. -/
theorem beginRun_other (p j k : Nat) (s : State) (h : k ≠ j) : getJob (beginRun p j s) k = getJob s k := by
  show getJob (makeRunning j s) k = _
  exact getJob_modJob_ne j k _ s h

theorem beginRun_tps (p j : Nat) (s : State) : (beginRun p j s).tps = s.tps := rfl

/-- The incoming job of a switch alone changes. -/
theorem bringIn_other (p : Nat) (out : Option Nat) (j k lines : Nat) (due : Option Nat) (s : State) (h : k ≠ j) :
    getJob (bringIn p out (some j) lines due s) k = getJob s k ∧ (bringIn p out (some j) lines due s).tps = s.tps := by
  unfold bringIn
  split
  · next e => cases e
  · next x e =>
    cases e
    split
    · split
      · exact ⟨beginRun_other p j k _ h, rfl⟩
      · exact ⟨rfl, rfl⟩
    · exact ⟨beginRun_other p j k _ h, rfl⟩

/-- A job that is neither Ready nor Running stays as it is when its partition chooses the next one. -/
theorem startNext_other (p : Nat) (out : Option Nat) (s : State) (k : Nat) (h2 : (getJob s k).state ≠ 2) (h3 : (getJob s k).state ≠ 3) :
    getJob (startNext p out s) k = getJob s k ∧ (startNext p out s).tps = s.tps := by
  unfold startNext
  split
  · exact ⟨rfl, rfl⟩
  · split
    · next j hj =>
      split
      · exact ⟨rfl, rfl⟩
      · refine bringIn_other p out j k 0 none s fun e => ?_
        subst e
        rcases chooseJob_state s p k hj with h | h
        · exact h2 h
        · exact h3 h
    · exact ⟨rfl, rfl⟩

/-- A job that is neither Ready nor Running stays as it is when a ring partition chooses after a fault. -/
theorem ringNext_other (p j : Nat) (x : Job) (s : State) (k : Nat) (h2 : (getJob s k).state ≠ 2) (h3 : (getJob s k).state ≠ 3) :
    getJob (ringNext p j x s) k = getJob s k ∧ (ringNext p j x s).tps = s.tps := by
  unfold ringNext
  split
  · exact startNext_other p (some j) (ringSwing p x s) k h2 h3
  · exact startNext_other p (some j) s k h2 h3

/-- A job that is not Ready stays as it is when units are granted. -/
theorem grantUnits_other (n : Nat) : ∀ (s : State) (k : Nat), (getJob s k).state ≠ 2 →
    getJob (grantUnits n s) k = getJob s k ∧ (grantUnits n s).tps = s.tps := by
  induction n with
  | zero => intros; exact ⟨rfl, rfl⟩
  | succ n ih =>
    intro s k h
    rw [grantUnits]
    dsimp only
    split
    · next j hj =>
      split
      · have hm := List.mem_of_head? hj
        rw [mem_sortBy] at hm
        simp only [List.mem_filter, Bool.and_eq_true, beq_iff_eq] at hm
        have hne : k ≠ j := fun e => h (e ▸ hm.2.1)
        have e1 : getJob (modJob j (fun x => { x with granted := true }) (makeRunning j s)) k = getJob s k := by
          rw [getJob_modJob_ne _ _ _ _ hne, makeRunning, getJob_modJob_ne _ _ _ _ hne]
        obtain ⟨a, b⟩ := ih _ k (by rw [e1]; exact h)
        exact ⟨a.trans e1, b.trans rfl⟩
      · exact ⟨rfl, rfl⟩
    · exact ⟨rfl, rfl⟩

/-! ### The fault -/

theorem modAcct_keeps (a : Nat) (f : Account → Account) (s : State) : modAcct a f s = { s with accts := tmod {} s.accts a f } := rfl

/-- What a fold of account charges changes. -/
theorem foldAcct_keeps {α : Type} (g : α → Nat × (Account → Account)) (xs : List α) : ∀ s : State,
    ∃ t, xs.foldl (fun s x => modAcct (g x).1 (g x).2 s) s = { s with accts := t } := by
  induction xs with
  | nil => intro s; exact ⟨s.accts, rfl⟩
  | cons x xs ih =>
    intro s
    obtain ⟨t, h⟩ := ih (modAcct (g x).1 (g x).2 s)
    exact ⟨t, h⟩

theorem haltTp_runs (j : Nat) (t : Tp) : tpRuns j (haltTp t) = false := rfl

theorem tget_map {α : Type} (d : α) (f : α → α) (hd : f d = d) (t : Table α) (k : Nat) :
    tget d (t.map fun x => (x.1, f x.2)) k = f (tget d t k) := by
  induction t with
  | nil => exact hd.symm
  | cons x xs ih =>
    obtain ⟨a, v⟩ := x
    simp only [List.map_cons, tget]
    split
    · rfl
    · exact ih

/-- No TP runs a tile of a halted job. -/
theorem haltJob_runs (j u : Nat) (s : State) : tpRuns j (getTp (haltJob j s) u) = false := by
  have h := tget_map ({} : Tp) (fun x => if tpRuns j x then haltTp x else x) (by rfl) s.tps u
  simp only [getTp, haltJob]
  rw [h]
  split
  · rfl
  · next hn => simpa using hn

theorem skipPut_tps (n a : Nat) (bs : List Byte) (s : State) : (skipFree n (putMem a bs s)).tps = s.tps := rfl

theorem freeMatrix_tps (ts : List Nat) : ∀ s : State, (freeMatrix ts s).tps = s.tps := by
  induction ts with
  | nil => intro s; rfl
  | cons t ts ih =>
    intro s
    rw [freeMatrix, List.foldl_cons, ← freeMatrix, ih, skipPut_tps]

/-- Dropping a job's work changes no TP. -/
theorem dropWork_tps (j : Nat) (s : State) : (dropWork j s).tps = s.tps := by
  show (freeMatrix (walkedTps s j) (serveJob j s)).tps = s.tps
  rw [freeMatrix_tps, serveJob, serveVat_rest]

/-- A job in a step that faults is Faulted, and no TP runs a tile of it (R53). -/
theorem faultJob_stops (j : Nat) (s : State) (h : stepLives s j = true) :
    (getJob (faultJob j s) j).state = 4 ∧ ∀ u, tpRuns j (getTp (faultJob j s) u) = false := by
  unfold faultJob
  simp only [h, Bool.not_true, Bool.false_eq_true, if_false]
  generalize reportOverruns j _ = s0
  generalize hs1 : chargeStep j false _ = s1
  generalize hs2 : telBound _ (abandonCulture j (dropWork j (haltJob j s1))) = s2
  have ht2 : s2.tps = (haltJob j s1).tps := by
    rw [← hs2]; exact (dropWork_tps j (haltJob j s1) : _)
  generalize hs3 : (if jobServing (getJob s j) = true then releaseLocks (jobPart (getJob s j)) true s2 else s2) = s3
  have ht3 : s3.tps = (haltJob j s1).tps := by rw [← hs3, ← ht2]; split <;> rfl
  generalize hs4 : modJob j _ s3 = s4
  have ht4 : s4.tps = (haltJob j s1).tps := by rw [← hs4, ← ht3]; rfl
  have hj4 : (getJob s4 j).state = 4 := by rw [← hs4, getJob_modJob_self]
  have run : ∀ x : State, x.tps = s4.tps → ∀ u, tpRuns j (getTp x u) = false := by
    intro x hx u
    have : getTp x u = getTp (haltJob j s1) u := by unfold getTp; rw [hx, ht4]
    rw [this]; exact haltJob_runs j u s1
  split
  · generalize hs5 : modPart _ _ s4 = s5
    have hj5 : getJob s5 j = getJob s4 j := by rw [← hs5]; rfl
    have ht5 : s5.tps = s4.tps := by rw [← hs5]; rfl
    split
    · obtain ⟨a, b⟩ := ringNext_other (jobPart (getJob s j)) j (getJob s j) s5 j (by rw [hj5, hj4]; decide) (by rw [hj5, hj4]; decide)
      exact ⟨by rw [a, hj5, hj4], run _ (b.trans ht5)⟩
    · obtain ⟨a, b⟩ := startNext_other (jobPart (getJob s j)) (some j) s5 j (by rw [hj5, hj4]; decide) (by rw [hj5, hj4]; decide)
      exact ⟨by rw [a, hj5, hj4], run _ (b.trans ht5)⟩
  · obtain ⟨a, b⟩ := grantUnits_other 8 s4 j (by rw [hj4]; decide)
    exact ⟨by rw [a, hj4], run _ b⟩

end Sys2Proof.Machine
end

