-- ==== Sys2Proof/Tests/Slice0.lean ====
section
/-! SUPPORT. Tests: ill-formed commands, small steps with results from the spec, and for each statement states that meet its
hypotheses. -/

open Sys2Proof Sys2Proof.Machine

namespace Sys2Proof.Tests

set_option Elab.async false

/-! ### States -/

/-- Power after the handover. -/
def powerUp : Power :=
  { porN := true, perstN := true, state := .running, handedOver := true, otpLoaded := true, factoryOk := true, keyValid := true,
    rampSyncHeld := false }

/-- A device in Running with the defaults of its configuration. -/
def device : State :=
  { State.reset with
    pwr := powerUp, esc := { state := .locked }, upNs := 20000000, clk := { fleet := 10000123 }
    hbm := { stack0 := { inited := true }, stack1 := { inited := true } }, uart := { reported := true } }

/-- A ring of four: this chip is 0, with 1 before it on link 0 and 3 behind it on link 1. -/
def ringLink (role partner : Nat) : Link :=
  { state := .up, width := 4, lanes := 15, role := role, partner := partner, crU := 500, crS := 500, crB := 500, everUp := true }

def ringDevice : State :=
  { device with
    cfg := [(0x0410, 1), (0x0411, 2), (0x0601, 4), (0x0602, 0), (0x0603, 1), (0x0604, 3), (0x0701, 1)]
    routes := [(1, 0x8000_0000), (2, 0x8000_0000), (3, 0x8000_0001)]
    links := [(0, ringLink 1 1), (1, ringLink 2 3)] }

/-- A step that began at 10 ms. -/
def run1 : Run := { active := true, live := 4, origin := 10000000 }

/-- A thread instruction's fields: Mod, Type, operands, immediate. -/
def fld (mod : BitVec 6) (ty : BitVec 4) (dst a b c : BitVec 10) (imm : BitVec 64) : TField :=
  { thr := 0, ty := ty, mod := mod, dst := dst, srcA := a, srcB := b, srcC := c, imm := imm }

/-- No operand. -/
def none10 : BitVec 10 := 0x0FF

/-- A Movement of one tile on TP 0, and one on TP 1. -/
def mov1 : Movement :=
  { grade := 16, ringJob := true, clusterMask := 1, slipLimit := 10, stepBudget := 4, layerCount := 1, stepCycles := 100000
    ringSize := 4
    tracks := [(0, [⟨0, 0, true⟩]), (1, [⟨64, 0, true⟩])]
    tiles := [⟨0, 8, 1000, 0, 0xFF, 4, 0, 1⟩]
    stops := [⟨50000, 0, 0, false, false⟩, ⟨100000, 1, 0, false, true⟩]
    claims := [{ hbmLines := 100, perPc := 50, sBytes := [1000, 1000], loaderMask := 0xFFFF }]
    colls := [{ kind := 0, rowBytes := 64, claimFwd := 1000, claimBwd := 1000, src := 0xC_0000_0000, dst := 0xC_0000_0400,
                recv := 0xC_0000_0800 }] }

/-- A ring job that runs `mov1`, with 64 KiB of the first Vat and of HBM. -/
def job1 : Job :=
  { ctl := 2 ^ 24, state := 3, movement := some mov1, ranges := [(0, (0xC_0000_0000, 0x10000)), (1, (0x1_0000, 0x10000))]
    save := 0x20_0000, run := run1 }

/-- TP 0 in the tile, about to issue. -/
def tp1 : Tp := { tile := some { slot := 0, tile := 0, id := 8, began := 0, ceilEnd := 64000 }, next := 8, lastJob := some 0 }

/-- Job 0 runs on TP 0 in partition 0. -/
def busy : State :=
  { ringDevice with
    jobs := [(0, job1)], tps := [(0, tp1)]
    parts := [(0, { enabled := true, mask := 1, running := some 0, view := [4, 0, 1, 3]
                    routes := ringDevice.routes, roles := [1, 2] })] }

/-- The same with another Movement. -/
def busyWith (f : Movement → Movement) : State := modJob 0 (fun x => { x with movement := some (f mov1) }) busy

/-- The same with another TP 0. -/
def busyTp (f : Tp → Tp) : State := modTp 0 f busy

/-! ### What meets the hypotheses -/

/-- The hypothesis of the thread statements, decided for a tile and a cycle. -/
def issueMeets (o : OpSpec) (f : TField) (u : State) (c : TileCtx) (cy : Nat) : Bool :=
  let inTime := match deadline c.tp with
    | some d => decide (cy + o.cost u f + frameCycles o f ≤ d)
    | none => true
  let reached := match o.access u c f with
    | some (g, n, al) => decide (accessReason u c.job g n al = 0)
    | none => true
  decide (c.tp.pc < c.hdr.codeLen ∧ opUndefined c = false ∧ staticReason o u c f = 0 ∧ laterReason o u c f = 0 ∧ (cy : Int) < haltCycle c) &&
    inTime && reached

/-- The tile of a TP, the cycle in which an instruction issues and the state then, where the instruction issues and runs. -/
def issueOf (o : OpSpec) (t : Fin 128) (f : TField) (s : State) : Option (TileCtx × Nat × State) :=
  match tileCtx s t.val with
  | none => none
  | some c =>
    match readied o c f s with
    | none => none
    | some (cy, u) => if issueMeets o f u c cy = true then some (c, cy, u) else none

/-- `issueOf` answers only where the hypothesis of the thread statements holds. -/
theorem issues_of {o : OpSpec} {t : Fin 128} {f : TField} {s u : State} {c : TileCtx} {cy : Nat}
    (h : issueOf o t f s = some (c, cy, u)) : Issues o t f s u c cy := by
  unfold issueOf at h
  split at h
  · cases h
  · rename_i c' hc
    split at h
    · cases h
    · rename_i cy' u' hcy
      by_cases hh : issueMeets o f u' c' cy' = true
      · rw [if_pos hh] at h
        cases h
        simp only [issueMeets, Bool.and_eq_true, decide_eq_true_eq] at hh
        obtain ⟨⟨⟨h1, hu, h2, h3, h4⟩, h5⟩, h6⟩ := hh
        refine ⟨hc, h1, hu, hcy, h2, h3, ?_, h4, ?_⟩
        · intro d hd
          rw [hd] at h5
          simpa using h5
        · intro g n al ha
          rw [ha] at h6
          simpa using h6
      · rw [if_neg hh] at h
        cases h

/-- Every instruction of a list issues in a state. -/
def allIssue (s : State) (xs : List (OpSpec × TField)) : Bool := xs.all fun x => (issueOf x.1 0 x.2 s).isSome

theorem issues_of_all {s : State} {xs : List (OpSpec × TField)} (h : allIssue s xs = true) :
    ∀ x ∈ xs, ∃ u c cy, Issues x.1 0 x.2 s u c cy := by
  intro x hx
  have h1 := List.all_eq_true.mp h x hx
  obtain ⟨y, hy⟩ := Option.isSome_iff_exists.mp h1
  exact ⟨y.2.2, y.1, y.2.1, issues_of hy⟩

/-- An instruction issues, and the state then, its tile and its cycle meet more. -/
theorem issues_with {o : OpSpec} {t : Fin 128} {f : TField} {s : State} (p : State → TileCtx → Nat → Bool)
    (h : (match issueOf o t f s with | some x => p x.2.2 x.1 x.2.1 | none => false) = true) :
    ∃ u c cy, Issues o t f s u c cy ∧ p u c cy = true := by
  split at h
  · rename_i x hx
    exact ⟨x.2.2, x.1, x.2.1, issues_of hx, h⟩
  · cases h

/-- A frame that a link hands over, decided. -/
def acceptsB (s : State) (l : Fin 8) (fr : Frame) (kind : Nat) : Bool :=
  let age := (beatStamp s + 2 ^ 32 - fr.stamp.toNat) % 2 ^ 32
  decide ((getLink s l.val).state = .up ∧ fr.seq.toNat = (getLink s l.val).rxSeq ∧ frameKindOk fr = true ∧ fr.kind.toNat = kind ∧
    fr.dst.toNat = chipId s ∧ (fr.cls = 0 → fr.dup = false ∧ (age ≤ 1000 ∨ 2 ^ 31 ≤ age)))

theorem accepts_of {s : State} {l : Fin 8} {fr : Frame} {kind : Nat} (h : acceptsB s l fr kind = true) : Accepts s l fr kind := by
  obtain ⟨h1, h2, h3, h4, h5, h6⟩ := of_decide_eq_true h
  exact ⟨h1, h2, h3, h4, h5, h6⟩

/-! ### States of threads and blocks -/

/-- Thread 0's scalars on TP 0: s1 an own Vat address, s2 an HBM address, s3 chip 1's Vat, s4 and s5 zero, s6 and s7 masks of
TPs, s8 the Loader descriptor. -/
def scalarMem : Table Byte :=
  [(0xD_0000_080C, 0x0C), (0xD_0000_0811, 0x80), (0xD_0000_0812, 0x01), (0xD_0000_081C, 0x1C), (0xD_0000_0830, 0x01),
   (0xD_0000_0838, 0x03), (0xD_0000_0841, 0xA0), (0xD_0000_0844, 0x0C)]

/-- `busy` with those scalars. -/
def busyMem : State := { busy with mem := scalarMem }

/-- A plastic layer of 8 experts with 32 slots. -/
def layer1 : LayerDesc :=
  { kind := 1, k := 1, experts := 8, flags := 2, capacity := 32, dmUnits := 1, reserved := 32, scoreLayout := 0xC_0000_1000
    biasBase := 0x1_F000, cultureBase := 0x1_0000, pairBase := 0xC_0000_2000 }

def sep1 : SepHdr := ⟨0, 0xC_0000_3000, 0xC_0000_3100, 0xC_0000_3200, 0xC_0000_3800, 0xC_0000_3A00, 0, 0⟩

def entry1 : GroupEntry :=
  { type := 3, tpMask := 1, rows := 32, kb := 4, nb := 4, act := 0xC_0000_4000, w1 := 0xC_0000_5000, out := 0xC_0000_B800 }

def combine1 : Combine := ⟨0, 5, false, 0xC_0000_1040, 0⟩

/-- The layer's parameter block (R255): LrMant 1, UpdateBudget 100, WInit 1, banks at 0x1_2000 and 0x1_7000, BiasAlt 0x1_F100,
SlotBase 0x1_C000, SnapBase 0x1_D000, HiddenLayout 0xC_0000_1080. -/
def parMem : Table Byte :=
  [(0x1_0002, 0x01), (0x1_0008, 0x64), (0x1_0018, 0x01), (0x1_0021, 0x20), (0x1_0022, 0x01), (0x1_0029, 0x70),
   (0x1_002A, 0x01), (0x1_0039, 0xF1), (0x1_003A, 0x01), (0x1_0041, 0xC0), (0x1_0042, 0x01), (0x1_0049, 0xD0),
   (0x1_004A, 0x01), (0x1_0050, 0x80), (0x1_0051, 0x10), (0x1_0054, 0x0C)]

/-- Layout descriptors (R97): FP32 of 8 by 4 at 0xC_0000_7000, FP32 of 128 by 4 at 0xC_0000_8000, BF16 of 128 by 4 at
0xC_0000_9000; and a Loader descriptor (R100) that copies four FP32 elements from 0xC_0000_B000 to 0xC_0000_B100. -/
def vatMem : Table Byte :=
  [(0xC_0000_1001, 0x70), (0xC_0000_1004, 0x0C), (0xC_0000_1006, 0x25), (0xC_0000_1010, 0x01), (0xC_0000_1015, 0x08),
   (0xC_0000_1018, 0x08), (0xC_0000_101D, 0x04), (0xC_0000_1041, 0x80), (0xC_0000_1044, 0x0C), (0xC_0000_1046, 0x25),
   (0xC_0000_1050, 0x01), (0xC_0000_1055, 0x80), (0xC_0000_1058, 0x80), (0xC_0000_105D, 0x04), (0xC_0000_1081, 0x90),
   (0xC_0000_1084, 0x0C), (0xC_0000_1086, 0x23), (0xC_0000_1090, 0x01), (0xC_0000_1095, 0x80), (0xC_0000_1098, 0x80),
   (0xC_0000_109D, 0x04), (0xC_0000_A001, 0xA2), (0xC_0000_A002, 0xB1), (0xC_0000_A020, 0x04), (0xC_0000_A023, 0x01),
   (0xC_0000_A026, 0x01), (0xC_0000_A029, 0x01), (0xC_0000_A02C, 0x01), (0xC_0000_A02F, 0x01), (0xC_0000_A041, 0xB0),
   (0xC_0000_A044, 0x0C), (0xC_0000_A046, 0x15), (0xC_0000_A050, 0x01), (0xC_0000_A055, 0x04), (0xC_0000_A081, 0xB1),
   (0xC_0000_A084, 0x0C), (0xC_0000_A086, 0x15), (0xC_0000_A090, 0x01), (0xC_0000_A095, 0x04)]

def blockMem : Table Byte := parMem ++ vatMem ++ scalarMem

/-- The job of a Movement with that layer, after its DSP and its walk. -/
def blockJob : Job :=
  { job1 with
    movement := some { mov1 with layers := [layer1], seps := [sep1], entries := [entry1], combines := [combine1] }
    run := { run1 with dspDone := [0], grwDone := [(1, 0)] } }

def blocks : State := { busy with jobs := [(0, blockJob)], mem := blockMem }

/-! ### States of streams and jobs -/

/-- A Movement image (R39 to R43) of one tile on TP 0 that only ends, one stop at cycle 1 600, one claim entry, one dense layer. -/
def imageMem : Table Byte :=
  [(0x30_0000, 0x47), (0x30_0001, 0x4C), (0x30_0002, 0x4A), (0x30_0003, 0x4D), (0x30_0004, 0x01), (0x30_0005, 0x10),
   (0x30_0008, 0xC0), (0x30_0009, 0x06), (0x30_000C, 0x06), (0x30_000E, 0x01), (0x30_0010, 0x04), (0x30_0012, 0x01),
   (0x30_0014, 0x40), (0x30_0015, 0x06), (0x30_0018, 0x01), (0x30_0019, 0x01), (0x30_007C, 0xCA), (0x30_007D, 0x30),
   (0x30_007E, 0x27), (0x30_007F, 0x2E), (0x30_0080, 0x01), (0x30_0085, 0x01), (0x30_0088, 0x08), (0x30_0089, 0x04),
   (0x30_008C, 0x22), (0x30_008D, 0xF7), (0x30_008E, 0x73), (0x30_008F, 0x80), (0x30_0090, 0x02), (0x30_0094, 0x40),
   (0x30_0095, 0x05), (0x30_0098, 0x20), (0x30_009C, 0x91), (0x30_009D, 0xB6), (0x30_009E, 0x83), (0x30_009F, 0x13),
   (0x30_00A0, 0x03), (0x30_00A4, 0x80), (0x30_00A5, 0x05), (0x30_00A8, 0x10), (0x30_00AC, 0x17), (0x30_00AD, 0x58),
   (0x30_00AE, 0x5F), (0x30_00AF, 0x47), (0x30_00B0, 0x05), (0x30_00B4, 0xC0), (0x30_00B5, 0x05), (0x30_00B8, 0x20),
   (0x30_00BC, 0xF4), (0x30_00BD, 0x63), (0x30_00BE, 0xAB), (0x30_00BF, 0x08), (0x30_00C0, 0x06), (0x30_00C5, 0x06),
   (0x30_00C8, 0x80), (0x30_00CC, 0xDB), (0x30_00CD, 0x64), (0x30_00CE, 0x27), (0x30_00CF, 0x08), (0x30_00D0, 0x08),
   (0x30_00D4, 0x80), (0x30_00D5, 0x06), (0x30_00D8, 0x10), (0x30_00DC, 0xE9), (0x30_00DD, 0x19), (0x30_00DE, 0x1B),
   (0x30_00DF, 0xB0), (0x30_0100, 0x01), (0x30_0105, 0x04), (0x30_0500, 0x01), (0x30_0548, 0x01), (0x30_0550, 0xF4),
   (0x30_0551, 0x01), (0x30_0554, 0xC0), (0x30_0555, 0x3F), (0x30_0557, 0x80), (0x30_0558, 0x02), (0x30_0559, 0x01),
   (0x30_0580, 0x01), (0x30_0588, 0xFF), (0x30_0589, 0xFF), (0x30_058A, 0x01), (0x30_058C, 0x40), (0x30_058D, 0x06),
   (0x30_05C0, 0x64), (0x30_05C2, 0x0A), (0x30_068F, 0x01)]

/-- Slot 2 names that image. -/
def installable : State :=
  { busy with
    cfg := [(0x0701, 1)], mem := imageMem, jobs := [(2, { ctl := 2 ^ 8, mov := 0x30_0000, save := 0x20_0000, ranges := [(0, (0xC_0000_0000, 64))] })]
    parts := [(0, { enabled := true, mask := 1 })], tps := [] }

/-! ### States of the serving loop -/

/-- A serving job of partition 0 that runs, not of a ring; streams 0 to 15 are the partition's. -/
def servJob : Job := { job1 with ctl := 2 ^ 25, run := {}, movement := some { mov1 with ringJob := false, ringSize := 1 } }

/-- Partition 0 serves: stream 3 is Idle, 4 in Prefill, 5 decodes, 6 is Paused. -/
def serving : State :=
  { ringDevice with
    jobs := [(0, servJob)], parts := [(0, { enabled := true, mask := 1, running := some 0 })]
    stms := [(0, { sqBase := 0x1000, cqBase := 0x2000, sqSize := 6, cqSize := 6, enable := true, irq := true, streams := 2 ^ 20, step := 40
                   srBase := 0xC_0000_4000, sqTail := 5, sqHead := 3, cqTail := 63, cqHead := 60, admits := 2 })]
    streams := [(3, { state := 1, maxPos := 8, kvBase := 0x1_0000, prBase := 0x1_8000 })
              , (4, { state := 2, maxPos := 9, prompt := 2, prBase := 0x1_9000, admitSeq := 1 })
              , (5, { state := 3, pos := 2, maxPos := 9, prompt := 2, newCount := 1, lastTok := 7, prBase := 0x1_A000, commit := 39 })
              , (6, { state := 4, pos := 1, maxPos := 9, prompt := 2, prBase := 0x1_B000 })] }

/-- A command for a stream. -/
def sub (i : Nat) (a0 a1 a2 : Nat) : SubCmd :=
  { flags := 0, stream := BitVec.ofNat 16 i, client := 1, rsv0 := 0, effStep := 0, cookie := 77, arg0 := BitVec.ofNat 64 a0
    arg1 := BitVec.ofNat 64 a1, arg2 := BitVec.ofNat 64 a2, arg3 := 0xFFFFFFFF_FFFFFFFF, rsv1 := 0 }

/-! ### States of jobs and switches -/

/-- Partition 0 runs job 0; job 1 is Installed, job 2 Installed and of a ring, job 3 Ready, job 4 Running, job 5 Faulted. -/
def jobTable : State :=
  { busy with
    jobs := busy.jobs ++
      [(1, { ctl := 2 ^ 25, state := 1, movement := some { mov1 with ringJob := false }, vt := 5, stepNo := 9 })
      , (2, { ctl := 2 ^ 24, state := 1, movement := some mov1, arg := 11008000 })
      , (3, { ctl := 0, state := 2, movement := some { mov1 with ringJob := false }, asking := true })
      , (4, { ctl := 0, state := 3, movement := some { mov1 with ringJob := false } })
      , (5, { ctl := 0, state := 4, movement := some { mov1 with ringJob := false }, vt := 3, stepNo := 6 })] }

/-- Partition 0 runs nothing; ring job 2 waits for its StartSwing. -/
def startWaits : State :=
  { ringDevice with
    jobs := [(2, { ctl := 2 ^ 24, state := 1, movement := some mov1, arg := 11008000, startSw := some 11008000 })]
    parts := [(0, { enabled := true, mask := 1, view := [4, 0, 1, 3] })] }

/-- A switch of partition 0 with an outgoing or an incoming job. -/
def switching (stage : Nat) (out inc : Option Nat) : State :=
  { ringDevice with
    jobs := [(0, { job1 with saved := some [(0x1_0000, 2)], run := {}, state := if out.isSome then 3 else 2 })]
    mem := [(0x1_0005, 0xAB), (0x20_0000, 0x11), (0x20_007F, 0x22)]
    parts := [(0, { enabled := true, mask := 1, running := out, view := [4, 0, 1, 3]
                    sw := some { stage := stage, lines := 2, outSlot := out, inSlot := inc, due := if stage = 0 then some 10048000 else none } })] }

/-! ### States of block operations, channels and leases -/

/-- An operation of job 0 with a status register, begun in cycle 10. -/
def op1 : BlockOp :=
  { slot := 0, tp := 0, thr := 0, tile := 0, issued := 8, tps := [0], dst := some 0xD_0000_0828, layer := 0, first := 0, count := 1
    bias := 0x1_F000, stepNo := 0, attempt := 0, cost := 200, began := some 10 }

/-- `blocks` with that operation in a block's queue and a second one waiting behind it. -/
def blockRuns (k : Nat) : State :=
  { blocks with jobs := [(0, { blockJob with run := { blockJob.run with cycle := 100 } })]
                blk := { blocks.blk with queues := [(k, [op1, { op1 with began := none }])] } }

/-- An operation that waits to start; a Balance Log entry of two lines for a ring of four, at its last lines. -/
def blockWaits (k : Nat) : State := { blockRuns k with blk := { blocks.blk with queues := [(k, [{ op1 with began := none }])] } }

def balanceLog : State :=
  { blocks with cfg := blocks.cfg ++ [(0x0804, 0x8_0000), (0x0805, 4)]
                blk := { blocks.blk with blogQ := [List.replicate 128 0xA5, List.replicate 64 1], blogWr := 2 } }

/-- A Loader operation of job 0 on channel 3, with a code. -/
def load1 (code : Nat) : LoadOp :=
  { slot := 0, tp := 0, thr := 0, dst := some 0xD_0000_0828, desc := 0xC_0000_A000, code := code, mode := 0, began := 10, cost := 30
    claim := 0, tile := 8, hdr := 0, q := 4, lines := [], held := none }

def loading (o : LoadOp) : State := { blocks with blk := { blocks.blk with channels := [(3, some o)] } }

/-- The same with two lines of it deferred. -/
def loadingLate (o : LoadOp) : State :=
  { loading o with hbm := { (loading o).hbm with deferred := [{
      id := 4, tp := 0, slot := 0, keys := [], tile := 8, hdr := 0, claim := 0, late := [(0, 2)], store := false, lines := 2
      least := 0, due := none, chan := some 3 }] } }

/-- The plastic layer published its buffer 1; function 2 holds lease 9. -/
def leased (leases : List SnapLease) : State :=
  { blocks with mem := (blockMem.filter fun x => x.1 < 0x1_0070) ++ [(0x1_0070, 0x02)] ++ (blockMem.filter fun x => 0x1_0070 < x.1)
                cul := { blocks.cul with prog := [(0x1_0000, { latest := some 1 })], leases := leases, nextId := 65535
                                         snStat := [(2, 1 + 2 ^ 16 * 9)], resumeAt := 0x1_0000 } }

/-! ### States of power, ramp credits and time -/

/-- The domain's pool is this chip, with chip 2 as its backup; windows of 100 ms. -/
def poolChip : State :=
  { ringDevice with
    cfg := ringDevice.cfg ++ [(0x0A01, 5), (0x0A02, 0), (0x0A03, 2), (0x0A04, 100), (0x0A05, 1000), (0x0A06, 1000), (0x0A07, 3)]
    rgl := { epoch := 7, p := 300000000, duty := 64, nextLease := 2
             leases := [⟨.rise, 1, 20, 0, 20000000, 0, 7⟩, ⟨.descent, 1, 10, 0, 20000000, 3, 7⟩]
             reqRise := some ⟨2, 30, 9000000, false⟩
             pool := { active := true, leases := [⟨.rise, 0, 1, 20, 20000000⟩, ⟨.rise, 3, 4, 50, 15000000⟩] } } }

/-- A member of that domain; chip 3 is the pool's chip and this one its backup. -/
def member : State :=
  { poolChip with
    cfg := ringDevice.cfg ++ [(0x0A01, 5), (0x0A02, 3), (0x0A03, 0), (0x0A04, 100), (0x0A05, 1000), (0x0A06, 1000), (0x0A07, 3)]
    rgl := { poolChip.rgl with pool := {}, beaconAt := 1 } }

/-- A frame from the partner of link 1 (chip 3) to this chip. -/
def frame (kind units : Nat) (cls : BitVec 2) (tag : Nat) (arg : BitVec 64) (payload : List Byte) : Frame :=
  { cls := cls, kind := BitVec.ofNat 6 kind, units := BitVec.ofNat 6 units, rsvA := 0, dup := false, seq := 0, ackSeq := 0xFFFF, src := 3, dst := 0
    ttl := 8, rsvB := 0, tag := BitVec.ofNat 16 tag, stamp := 9999, arg := arg, payload := payload, creditClass := 1, creditUnits := 2
    corrected := 0 }

/-- A ramp message's words (R286). -/
def rampFrame (watts id fab dir op epoch : Nat) : Frame :=
  frame 0x13 0 0 0 (BitVec.ofNat 64 (watts + 2 ^ 20 * id + 2 ^ 32 * fab + 2 ^ 43 * dir + 2 ^ 44 * op + 2 ^ 48 * epoch)) []

/-- A time message's words (R303): d, number, residence, replayed, op. -/
def timeFrame (d id res replayed op : Nat) : Frame :=
  frame 0x12 0 0 0 (BitVec.ofNat 64 (d + 2 ^ 32 * id + 2 ^ 40 * res + 2 ^ 60 * replayed + 2 ^ 61 * op)) []

/-- A device in Dormant. -/
def dormantDevice : State := { device with pwr := { powerUp with state := .dormant } }

/-- A device whose Regulator, PMBus engine or Escapement stands so. -/
def withRgl (g : Rgl) : State := { device with rgl := g }
def withPmb (p : Pmb) : State := { device with cfg := [(0x0201, 1), (0x0202, 700), (0x0203, 900)], pmb := p }
def withEsc (root : Nat) (e : Esc) : State := { ringDevice with cfg := ringDevice.cfg ++ [(0x0B01, root)], esc := e }
def frozenPool : State := { poolChip with rgl.pool := { poolChip.rgl.pool with frozen := true, freezeEnd := 300000000 } }
def asked : Table (List (Nat × Nat)) := [(1, [(4, 9999000), (5, 9990000)])]

/-! ### States of links -/

/-- `busyMem` with link 1 changed. -/
def withLink (f : Link → Link) : State := modLink 1 f busyMem

/-- A frame to send, of a class. -/
def toSend (cls : BitVec 2) (kind units : Nat) : TxFrame :=
  { fr := { frame kind units cls 5 0 (List.replicate (64 * units) 0x5A) with src := 0, dst := 3 } }

/-- What the partner's training brings: chip 3 in role 1. -/
def partner3 : LinkParams := ⟨3, 1, 4, 16, 512, 256, 0⟩

/-- A load of 64 B waits for chip 3's answer under tag 5. -/
def remoteWaits : State :=
  { busyMem with net.remotes := [⟨5, 0, 0, 0, 3, 0x3_000C_0000_0100, [0xD_0000_0900], some 0xD_0000_0900, 64, 10⟩] }

/-- The six collectives of the running Movement, of which number 5 is armed. -/
def armedColl (runs : Bool) : State :=
  let c : Coll := { kind := 1, rowBytes := 64, claimFwd := 1000, claimBwd := 1000, src := 0xC_0000_0000, dst := 0xC_0000_0400
                    recv := 0xC_0000_0800 }
  modJob 0 (fun x => { x with run.colls := [(5, { armed := true, running := runs, from_ := 10000000, window := 4 })]
                              movement := some { mov1 with stepBudget := 64, colls := List.replicate 6 c } }) busyMem

/-! ### States of the Keeper, the Fault Unit and the ports -/

/-- A Keeper message of 64 B: an operation at fleet time 12 000 000 with a body, and its Mac. -/
def kmsg (counter op : Nat) (body mac : List Byte) : List Byte :=
  leBytes 8 counter ++ leBytes 8 12000000 ++ leBytes 1 op ++ [0] ++ leBytes 2 0 ++ body ++ List.replicate (28 - body.length) 0 ++ mac

/-- A message that lies under a Keeper operation. -/
def waitsFor (op : Nat) (body : List Byte) : Keeper := ⟨9, 12000000, op, body ++ List.replicate (28 - body.length) 0⟩

/-- `busyMem` with a message of an operation waiting. -/
def keeping (op : Nat) (body : List Byte) : State := { busyMem with flt.waiting := [waitsFor op body] }

/-- HMAC-SHA-256 of an UNFENCE of chip 3 (R371), from 32 zero bytes as the key, for this chip. -/
def mac6 : List Byte := [0x3E, 0x0F, 0x0A, 0x8B, 0x4D, 0xD3, 0xDE, 0x45, 0xC7, 0x35, 0x14, 0x8D, 0x29, 0x6D, 0xEC, 0x7F]

/-- The same for chip 0xFFF. -/
def macF : List Byte := [0xAD, 0xE0, 0x9C, 0x12, 0xAA, 0xB1, 0x62, 0xB9, 0xFA, 0xAF, 0x0B, 0x7F, 0x70, 0x82, 0x4D, 0x5C]

/-- That message in FLT_KSEND. -/
def sending : State :=
  { busyMem with flt.ksend := (upFrom 0 8).map fun i => (i, leNat (((kmsg 9 6 [3] macF).drop (8 * i)).take 8)) }

/-- Correctable errors in HBM and a Vat, an uncorrectable line in each. -/
def soft : State :=
  { device with cfg := [(0x0301, 20)], ecc := { softLines := [0x100, 0x3000_0000 + 1, 0x8000_0000], badLines := [0x101, 0x3000_0002] }
                hbm := { device.hbm with scrubs := 1, scrubFrom := 5 } }

/-- An Event Ring of 64 entries with these indexes, on or off. -/
def events (on : Bool) (h t : Nat) (q : List Ev) : State :=
  { device with ev := { device.ev with base := 0x4000, size := 6, enable := on, head := h, tail := t, queue := q } }

/-- A device whose UART, or whose console, stands so. -/
def withUart (u : Uart) : State := { device with uart := { u with reported := true } }
def console (line : String) (ch : Nat) : State :=
  { withUart { rx := [⟨ch, false, false, false⟩, ⟨65, false, false, false⟩] } with con := { line := strBytes line } }

/-- The host owns the UART, and a long break asks for a reset. -/
def hostUart (u : Uart) : State := { withUart u with cfg := [(0x0C03, 1), (0x0C04, 1)] }

/-! ### States of boot and of the whole machine -/

/-- A device in Starting: HBM not yet initialised, the Escapement as given. -/
def starting (e : EscState) (h : Hbm) : State := { device with pwr := { powerUp with state := .starting }, esc := { state := e }, hbm := h }

/-- A device before its handover. -/
def loadingDevice : State := { device with pwr := { powerUp with handedOver := false, state := .loading } }

/-! ### Thread instructions -/

/-- Result instructions with operands of every class. -/
def resultForms : List (OpSpec × TField) :=
  [(movSpec, fld 0 8 0x03F 0x000 0 0 0), (movSpec, fld 0 5 0x117 0x217 0 0 0), (vbcSpec, fld 0 5 0x300 0x001 0 0 0),
   (vinsSpec, fld 0 6 0x100 0x001 0 0 63), (vextSpec, fld 0 7 0x001 0x3FF 0 0 15), (moviSpec, fld 0 0 0x03F 0 0 0 0xFFFF_FFFF_FFFF_FFFF),
   (valuSpec, fld 11 5 0x101 0x102 0 0 0), (vcvtSpec, fld 5 3 0x101 0x102 0 0 0), (vactSpec, fld 5 5 0x101 0x102 0 0 0),
   (vcmpSpec, fld 3 7 0x001 0x102 0x103 0 0), (vpermSpec, fld 0 6 0x101 0x102 0x103 0 0), (vredSpec, fld 4 5 0x001 0x102 0 0 0),
   (vscanSpec, fld 1 7 0x101 0x102 0 0 0), (saluSpec, fld 45 8 0x001 0x002 0 0 7), (specSpec, fld 0 0 0x001 0 0 0 0)]

theorem witness_ResultInstructions : ∀ x ∈ resultForms, ∃ u c cy, Issues x.1 0 x.2 busyMem u c cy :=
  issues_of_all (by decide +kernel)

theorem witness_ScalarAndIntegerArithmetic : elIsInt .i8 = true ∧ (11 : Nat) ≤ 11 ∧ 63 < elLanes .i8 := by decide

theorem witness_PlainInstructions : ∀ x ∈ [(plainSpec, fld 0 0 0 0 0 0 0),
    ({ plainSpec with range := fun _ _ f => idleN f != 0, cost := fun _ f => idleN f }, fld 0 0 0 0 0 0 65535),
    ({ plainSpec with cost := fun s _ => farCycles s }, fld 0 0 0 0 0 0 0)], ∃ u c cy, Issues x.1 0 x.2 busyMem u c cy :=
  issues_of_all (by decide +kernel)

/-- A loop of one instruction, in its last iteration or before it. -/
def nest1 (iter : Nat) : Nest :=
  { isLoop := true, issue := 8, start := 1, stop := 2, after := 2, bound := 4, nMax := 3, iter := iter, iterStart := 10 + 5 * iter
    counted := true, dst := some (scalarAddr 0 0 5), thr := 0, codeAt := 0 }

def inLoop (iter : Nat) : State :=
  modTp 0 (fun x => { x with pc := 1, next := 10 + 5 * iter, nest := [nest1 iter] }) busyMem

/-- The taken arm of a branch, at its last instruction. -/
def inArm : State := modTp 0 (fun x => { x with pc := 1, next := 10, nest := [{ nest1 0 with isLoop := false, nMax := 0, dst := none }] }) busyMem

theorem issues_one {o : OpSpec} {f : TField} {s : State} (h : (issueOf o 0 f s).isSome = true) : ∃ u c cy, Issues o 0 f s u c cy := by
  obtain ⟨y, hy⟩ := Option.isSome_iff_exists.mp h
  exact ⟨y.2.2, y.1, y.2.1, issues_of hy⟩

theorem witness_BranchesAndLoops :
    (∀ x ∈ [(tbrSpec, fld 0 0 0 0x001 0 0 0x0000_0005_0002_0001), (tbrSpec, fld 0 0 0 0x004 0 0 0x0000_0005_0000_0001),
      (loopSpec, fld 1 0 0x005 0 0 0 0x0000_0004_0003_0001), (loopSpec, fld 0 0 0x0FF 0 0 0 0x0000_0000_FFFF_0000)],
      ∃ u c cy, Issues x.1 0 x.2 { busyMem with jobs := [(0, { job1 with movement := some { mov1 with
        tiles := [⟨0, 8, 65535, 0, 0xFF, 4, 0, 1⟩] } })] } u c cy) ∧
    (∀ i ∈ [0, 2], ∃ u c cy, Issues plainSpec 0 (fld 0 0 0 0 0 0 0) (inLoop i) u c cy ∧ (c.tp.nest == [nest1 i] && c.tp.pc + 1 == 2) = true) ∧
    (∃ u c cy, Issues plainSpec 0 (fld 0 0 0 0 0 0 0) inArm u c cy ∧ (c.tp.nest.length == 1 && c.tp.pc + 1 == 2) = true) ∧
    (∀ r ∈ [0x001, 0x004], ∃ u c cy, Issues brkSpec 0 (fld 0 0 0 r 0 0 0) (inLoop 0) u c cy) := by
  refine ⟨issues_of_all (by decide +kernel), ?_, issues_with _ (by decide +kernel), ?_⟩
  · intro i hi
    simp only [List.mem_cons, List.not_mem_nil, or_false] at hi
    rcases hi with rfl | rfl <;> exact issues_with _ (by decide +kernel)
  · intro r hr
    simp only [List.mem_cons, List.not_mem_nil, or_false] at hr
    rcases hr with rfl | rfl <;> exact issues_one (by decide +kernel)

/-- A CSYNC of TPs 0 and 1 under ID 7. -/
def csyncF : TField := fld 0 0 0 0x007 0x004 0 7

/-- TP 1 runs a tile too, and waits in the barrier or not. -/
def crew (w : Option Waiting) : State :=
  { busyMem with tps := [(0, tp1), (1, { tp1 with wait := w, next := 30, pc := 2 })] }

/-- TP 1 waits since cycle 40. -/
def crewWaits : State :=
  modRun 0 (fun r => { r with syncs := [(7, 1, 40)] }) (modTp 0 (fun x => { x with next := 20 }) (crew (some (.csync 7 40 3 0))))

theorem witness_BarrierAndRendezvous :
    (∃ u c cy, Issues csyncSpec 0 csyncF (crew none) u c cy ∧ (c.t == 0 && c.slot == 0 &&
      (u.tps.all fun x => x.2.wait.isNone) && (getJob u 0).run.syncs.isEmpty && readScalar u 0 0 csyncF.srcA == 3) = true) ∧
    (∃ u c cy, Issues csyncSpec 0 csyncF crewWaits u c cy ∧ (decide (cy ≤ 40) && c.tp.nest.isEmpty && c.slot == 0 &&
      (getTp u 1).wait == some (.csync 7 40 3 0) && tpRuns 0 (getTp u 1) && (getTp u 1).nest.isEmpty &&
      (getJob u 0).run.syncs == [(7, 1, 40)] && (u.tps.map (·.1)) == [0, 1]) = true) ∧
    (∃ u c cy, Issues rdvSpec 0 (fld 0 0 0 0 0 0 0) busyMem u c cy ∧
      (decide (((cy + c.hdr.rvWindow * beatCycles busyMem : Nat) : Int) < movedEnd c) &&
        !(neighbours busyMem).any (isFenced busyMem) && !busyMem.ring.fenceFail && (tget {} c.job.run.colls 0).held.isEmpty) = true) :=
  ⟨issues_with _ (by decide +kernel), issues_with _ (by decide +kernel), issues_with _ (by decide +kernel)⟩

/-- The same with the HBM claim of the beat used up by the tile. -/
def busyClaimed : State := { busyMem with hbm := { busyMem.hbm with useAll := [(8, 100)] } }

theorem witness_LocalLoadsAndStores :
    (∀ x ∈ [(ldSpec, fld 0 8 0x005 0x001 0 0 0), (ldSpec, fld 0 5 0x200 0x002 0 0 0), (mldSpec, fld 0 1 0 0x001 0x004 0 0),
        (stSpec, fld 0 8 0 0x001 0x005 0 8), (stSpec, fld 0 5 0 0x002 0x3FF 0 64), (mstSpec, fld 0 5 0 0x001 0x300 0 (2 ^ 56))],
      ∃ u c cy, Issues x.1 0 x.2 busyMem u c cy) ∧
    (∀ x ∈ [(ldSpec, fld 0 5 0x200 0x002 0 0 0), (stSpec, fld 0 5 0 0x002 0x3FF 0 64)], ∃ u c cy, Issues x.1 0 x.2 busyClaimed u c cy) ∧
    busyMem.vat = [] ∧
    isRemote busyMem (globalAddr busyMem 0 (fld 0 8 0x005 0x001 0 0 0)) = false ∧ lineBad busyMem 0xC_0000_0000 64 = false ∧
    mergesBad busyMem 0xC_0000_0008 8 = false ∧
    (∃ u c cy, Issues ldSpec 0 (fld 0 5 0x200 0x002 0 0 0) busyMem u c cy ∧ (defersHbm c 0x1_8000 64 u == false) = true) ∧
    (∃ u c cy, Issues ldSpec 0 (fld 0 5 0x200 0x002 0 0 0) busyClaimed u c cy ∧ defersHbm c 0x1_8000 64 u = true) :=
  ⟨issues_of_all (by decide +kernel), issues_of_all (by decide +kernel), rfl, by decide +kernel, by decide +kernel, by decide +kernel,
    issues_with _ (by decide +kernel), issues_with _ (by decide +kernel)⟩

theorem witness_RemoteAccesses :
    (∀ x ∈ [(ldSpec, fld 0 8 0x005 0x003 0 0 0), (stSpec, fld 0 5 0 0x003 0x100 0 0)], ∃ u c cy, Issues x.1 0 x.2 busyMem u c cy) ∧
    isRemote busyMem (globalAddr busyMem 0 (fld 0 8 0x005 0x003 0 0 0)) = true ∧
    routeVia (getPart busyMem 0).routes busyMem 1 = some 0 :=
  ⟨issues_of_all (by decide +kernel), by decide +kernel, by decide +kernel⟩

theorem witness_MatrixMultiply :
    ∀ x ∈ [(mmaSpec, fld 0 6 0x3C0 0 0 0 (496 * 65536)), (mmaSpec, fld 1 3 0x300 0 0 0 (32 * 65536))], ∃ u c cy, Issues x.1 0 x.2 busyMem u c cy :=
  issues_of_all (by decide +kernel)

theorem witness_BlockInstructions :
    (∃ u c cy, Issues selSpec 0 (fld 0 0 0x005 0 0 0 0) blocks u c cy ∧ (selStatus u c (layerAt c.mov 0) == 0) = true) ∧
    (∃ u c cy, Issues dspSpec 0 (fld 0 0 0x005 0 0 0 0) blocks u c cy ∧ (dspStatus u c 0 == 0) = true) ∧
    (∃ u c cy, Issues cmbSpec 0 (fld 0 0 0x0FF 0 0 0 0) blocks u c cy ∧ (cmbStatus u c 0 == 0) = true) ∧
    (∃ u c cy, Issues culSpec 0 (fld 0 0 0x005 0 0 0 0) blocks u c cy ∧ (culStatus u c 0 == 0) = true) ∧
    (∃ u c cy, Issues grwSpec 0 (fld 0 0 0x005 0 0 0 0x1_0000) blocks u c cy ∧ ((grwStatus c 0 1).1 == 0) = true) ∧
    (∀ x ∈ [(ldxSpec, fld 0 0 0x005 0x008 0 0 0), (ldxSpec, fld 0 0 0x0FF 0x008 0 0 15)], ∃ u c cy, Issues x.1 0 x.2 blocks u c cy) :=
  ⟨issues_with _ (by decide +kernel), issues_with _ (by decide +kernel), issues_with _ (by decide +kernel),
    issues_with _ (by decide +kernel), issues_with _ (by decide +kernel), issues_of_all (by decide +kernel)⟩

/-- A TP past its code; an undefined opcode; a reserved Mod; an access of the wrong alignment, alone and with a missing operand. -/
theorem witness_ThreadFaults :
    (∃ c, tileCtx (busyTp fun x => { x with pc := 8 }) 0 = some c ∧
      (decide (c.hdr.codeLen ≤ c.tp.pc) && c.tp.nest.isEmpty && c.job.state == 3 && decide ((c.tp.next : Int) < haltCycle c)) = true) ∧
    (∃ c, tileCtx (busyWith fun m => { m with code := [0x0A * 2 ^ 120] }) 0 = some c ∧
      (opUndefined c && c.tp.nest.isEmpty && c.job.state == 3 && decide ((c.tp.next : Int) < haltCycle c)) = true) ∧
    (∃ c, tileCtx busyMem 0 = some c ∧ (decide (c.tp.pc < c.hdr.codeLen) && !opUndefined c && c.tp.nest.isEmpty && c.job.state == 3) = true ∧
      (∀ x ∈ [(movSpec, fld 1 8 0 0 0 0 0), (ldSpec, fld 0 8 0x005 0x001 0 0 4)], ∃ cy u, readied x.1 c x.2 busyMem = some (cy, u) ∧
        (decide ((cy : Int) < haltCycle c)) = true ∧
        (staticReason x.1 u c x.2 ≠ 0 ∨ (staticReason x.1 u c x.2 = 0 ∧ laterReason x.1 u c x.2 = 0 ∧ (accessCheck x.1 u c x.2).2 = 4)))) := by
  refine ⟨⟨_, rfl, by decide +kernel⟩, ⟨_, rfl, by decide +kernel⟩, ⟨_, rfl, by decide +kernel, ?_⟩⟩
  intro x hx
  simp only [List.mem_cons, List.not_mem_nil, or_false] at hx
  rcases hx with rfl | rfl
  · exact ⟨_, _, rfl, by decide +kernel, Or.inl (by decide +kernel)⟩
  · exact ⟨_, _, rfl, by decide +kernel, Or.inr (by decide +kernel)⟩

/-! ### Tiles, stops, fleet time -/

/-- Before the first tiles of the step. -/
def idleTiles : State := { busyMem with tps := [] }

/-- TP 0's tile runs `n` cycles past its ceiling, or fails there. -/
def lateTile (n : Nat) : State := modTp 0 (fun x => { x with next := 64000 + n }) busyMem

def faultPolicy (s : State) : State :=
  { s with jobs := [(0, { job1 with movement := some { mov1 with faultPolicy := true } })] }

/-- Program 0 started at 10 000 µs, with every half received. -/
def collRun1 : CollRun := { running := true, armed := true, from_ := 10000000, window := 4, recvF := 4096, recvB := 4096 }

/-- TP 0 waits in an RDV of program 0 since then. -/
def waitsRdv : State :=
  { busyMem with
    tps := [(0, { tp1 with wait := some (.rdv 0 10000000 20 0) })]
    jobs := [(0, { job1 with run := { run1 with colls := [(0, collRun1)] } })] }

theorem witness_TilesBeginAndEnd :
    (nextEntry idleTiles 0 0 = some ⟨0, 0, true⟩ ∧ nextEntry idleTiles 0 1 = some ⟨64, 0, true⟩ ∧ mayRun idleTiles 0 = true ∧
      (getJob idleTiles 0).run.active = true ∧ (getJob idleTiles 0).run.atStop = false ∧ (getTp idleTiles 0).tile = none ∧
      partitioned idleTiles = true) ∧
    (∀ n ∈ [0, 640 - 1], ∃ u c cy, Issues { plainSpec with settle := 2 } 0 (fld 0 0 0 0 0 0 0) (lateTile n) u c cy ∧
      decide (((cy + 1 : Nat) : Int) < haltCycle c) = true) ∧
    (∃ c, tileAny busyMem 0 = some c ∧ (!c.mov.faultPolicy && c.tile.overAt.isNone) = true) ∧
    (∃ c, tileAny (modTp 0 (fun x => { x with tile := x.tile.map fun y => { y with overAt := some 0 } }) busyMem) 0 = some c ∧
      (!c.mov.faultPolicy && c.tile.overAt.isSome && (rdvWait c).isNone && c.job.state == 3) = true) ∧
    (∃ c, tileAny waitsRdv 0 = some c ∧ (rdvWait c == some (0, 10000000, 20, 0)) = true) ∧
    (∃ c, tileAny (faultPolicy busyMem) 0 = some c ∧ (c.mov.faultPolicy && c.job.state == 3) = true) := by
  refine ⟨by decide +kernel, ?_, ⟨_, rfl, by decide +kernel⟩, ⟨_, rfl, by decide +kernel⟩, ⟨_, rfl, by decide +kernel⟩,
    ⟨_, rfl, by decide +kernel⟩⟩
  intro n hn
  simp only [List.mem_cons, List.not_mem_nil, or_false] at hn
  rcases hn with rfl | rfl <;> exact issues_with (fun _ c cy => decide (((cy + 1 : Nat) : Int) < haltCycle c)) (by decide +kernel)

/-- Both tiles of the step are done at the first stop, or at the step's end. -/
def stopped (ix : Nat) : State :=
  { busyMem with tps := [], jobs := [(0, { job1 with run := { run1 with cursor := [(0, 1), (1, 1)], stopIx := ix } })] }

theorem witness_StopsAndCollectives :
    ((tget {} (getJob waitsRdv 0).run.colls 0).running = true ∧ (tget {} (getJob waitsRdv 0).run.colls 0).done = false ∧
      collReceived waitsRdv 0 0 = true ∧ collAcked waitsRdv 0 = true ∧ (getJob waitsRdv 0).state = 3) ∧
    (∃ c, tileAny waitsRdv 0 = some c ∧ (c.slot == 0 && c.tp.nest.isEmpty && rdvWait c == some (0, 10000000, 20, 0) &&
      decide (max 1 (coreOfNs waitsRdv (waitsRdv.clk.fleet - 10000000)) ≤ c.hdr.rvWindow * beatCycles waitsRdv)) = true) ∧
    (∀ ix ∈ [0, 1], ∃ st, (jobMov (getJob (stopped ix) 0)).stops[ix]? = some st ∧ mayRun (stopped ix) 0 = true ∧
      (getJob (stopped ix) 0).run.stopIx = ix ∧ (getJob (stopped ix) 0).run.active = true ∧
      (getJob (stopped ix) 0).run.atStop = false ∧
      (stopped ix).ring.retryJob ≠ some 0 ∧ partitioned (stopped ix) = true ∧ tilesDone (stopped ix) 0 st.cycle = true ∧
      (stopped ix).hbm.deferred = [] ∧
      lateEnds (getJob (stopped ix) 0).run st.stepEnd (st.cycle + (getJob (stopped ix) 0).run.slip) = [] ∧
      st.swing = false ∧ st.stepEnd = decide (ix = 1)) ∧
    jobBusy (stopped 1) 0 = false ∧ jobRing (getJob (stopped 1) 0) = true ∧ (stopped 1).ring.fwd.digest = none := by
  refine ⟨by decide +kernel, ⟨_, rfl, by decide +kernel⟩, ?_, by decide +kernel, by decide +kernel, by decide +kernel⟩
  intro ix hx
  simp only [List.mem_cons, List.not_mem_nil, or_false] at hx
  rcases hx with rfl | rfl <;> exact ⟨_, rfl, by decide +kernel⟩

/-- A job that waits at StepEnd for its neighbours' digests. -/
def awaitsDigest : State :=
  modJob 0 (fun x => { x with run := { x.run with atStop := true, digestDue := some 10256123 } }) (stopped 1)

theorem witness_StopsAndCollectives_digest :
    (jobMov (getJob awaitsDigest 0)).stops[(getJob awaitsDigest 0).run.stopIx]? = some ⟨100000, 1, 0, false, true⟩ ∧
    mayRun awaitsDigest 0 = true ∧ (getJob awaitsDigest 0).run.active = true ∧ awaitsDigest.ring.retryJob ≠ some 0 ∧
    (getJob awaitsDigest 0).run.atStop = true ∧ (getJob awaitsDigest 0).state = 3 ∧ partitioned awaitsDigest = true ∧
    jobRing (getJob awaitsDigest 0) = true ∧
    (getJob awaitsDigest 0).run.digestDue = some 10256123 ∧ awaitsDigest.ring.fwd.digest = none := by decide +kernel

/-- HBM requests of TP 0's tile whose deferred lines are served: one in a known cycle, a store without contract bandwidth. -/
def served1 : HbmReq :=
  { id := 5, tp := 0, slot := 0, keys := [scalarAddr 0 0 5], tile := 8, hdr := 0, claim := 0, late := [], store := false, lines := 1
    least := 60, due := some 3300, chan := none }
def served2 : HbmReq := { served1 with id := 6, keys := [], store := true, due := none }

/-- Remote accesses: a load and a write whose frame was acknowledged; HBM requests with their lines served. -/
def delayed : State :=
  { busyMem with
    hbm := { busyMem.hbm with deferred := [served1, served2], refFrom := some 700 }
    net := { remotes := [⟨7, 0, 0, 0, 1, 0x1C_0000_0000, [scalarAddr 0 0 5], some (scalarAddr 0 0 5), 8, 10000000⟩,
                         ⟨8, 0, 0, 0, 1, 0x1C_0000_0000, [], none, 8, 10000000⟩] }
    tps := [(0, { tp1 with arriving := [scalarAddr 0 0 5] })] }

theorem witness_BeatsAndSwings :
    (busyMem.pwr.state ≠ .dormant ∧ busyMem.hbm.deferred = [] ∧ busyMem.blk.channels = [] ∧
      (busyMem.parts.all fun x => x.2.sw.isNone) = true ∧ (busyMem.tps.all fun x => x.2.nest.isEmpty) = true ∧
      busyMem.ecc.badTables = [] ∧ busyMem.ring.deciding = none ∧ cfgVal busyMem 0x0601 ≠ 0 ∧ busyMem.pwr.handedOver = true) ∧
    (delayed.hbm.refFrom = some 700 ∧ busyMem.hbm.refFrom = none) ∧
    (∀ m ∈ [4, 16], (sideOf { busyMem with ring.fwd := { misses := m } } .fwd).failed = false ∧
      4 ≤ (sideOf { busyMem with ring.fwd := { misses := m } } .fwd).misses ∧
      (sideOf { busyMem with ring.fwd := { misses := m } } .fwd).suspect = false ∧ isFenced busyMem (sideChip busyMem .fwd) = false ∧
      sideChip busyMem .fwd ≠ chipId busyMem) ∧
    (∀ r ∈ [served1, served2], delayed.hbm.deferred.find? (fun x => x.id == r.id && x.chan.isNone) = some r ∧ r.late = []) ∧
    (∀ tag ∈ [7, 8], ∃ r, delayed.net.remotes.find? (fun x => x.tag == tag) = some r ∧ r.into.isSome = decide (tag = 7)) ∧
    (getJob delayed 0).state = 3 ∧ writeOut delayed 8 = false := by
  refine ⟨by decide +kernel, by decide +kernel, by decide +kernel, by decide +kernel, ?_, by decide +kernel, by decide +kernel⟩
  intro tag ht
  simp only [List.mem_cons, List.not_mem_nil, or_false] at ht
  rcases ht with rfl | rfl <;> exact ⟨_, rfl, rfl⟩

theorem room_of {s : State} {p : Fin 8} (h : (decide (0 < (getStm s p).cqSize) &&
    decide (((getStm s p).cqTail + 1) % ringLen (getStm s p).cqSize ≠ (getStm s p).cqHead) &&
    decide (((getStm s p).cqTail + 2) % ringLen (getStm s p).cqSize ≠ (getStm s p).cqHead)) = true) : cqRoom s p 1 ∧ cqRoom s p 2 := by
  simp only [Bool.and_eq_true, decide_eq_true_eq] at h
  refine ⟨⟨h.1.1, ?_⟩, ⟨h.1.1, ?_⟩⟩ <;> intro k h1 h2
  · obtain rfl : k = 1 := by omega
    exact h.1.2
  · obtain rfl | rfl : k = 1 ∨ k = 2 := by omega
    · exact h.1.2
    · exact h.2

/-- Both rings of a partition, a doorbell and a head at both ends of their ranges, and an entry to read with room for it. -/
theorem witness_SubmissionAndCompletionRings :
    ((getStm serving 0).sqTail < 64 ∧ (getStm serving 0).sqHead < 64 ∧ 2 ^ (getStm serving 0).sqSize = 64 ∧
      (5 + 64 - 3) % 64 + (2 + 64 - 5) % 64 = 63 ∧ (5 + 64 - 3) % 64 + (3 + 64 - 5) % 64 = 64) ∧
    ((getStm serving 0).cqTail < 64 ∧ (getStm serving 0).cqHead < 64 ∧ 2 ^ (getStm serving 0).cqSize = 64 ∧
      (63 + 64 - 60) % 64 = 3 ∧ (0 + 64 - 60) % 64 = 4) ∧
    ((getStm serving 0).enable = true ∧ (getStm serving 1).enable = false) ∧
    ((getStm serving 0).sqHead ≠ (getStm serving 0).sqTail ∧ (getStm serving 0).pend.length < 1024) := by decide +kernel

/-- `serving` with a built step of no rows, after a CANCEL of stream 4. -/
def endServing : State :=
  modStm 0 (fun y => { y with built := some { rows := [], stepNo := 40, lockNs := 10000123, startNs := 10000123 }, ends := [(4, 0, false, 1)] })
    serving

/-- Each submission command passes its checks in a state that its stream may be in; a stream that is not Free refuses an OPEN. -/
theorem witness_SubmissionCommands :
    ((getStm serving 0).built = none ∧ cqRoom serving 0 1 ∧ cqRoom serving 0 2 ∧ Collected serving) ∧
    (∀ i ∈ [0, 3, 4, 5, 6, 15], ownsStream (getStm serving 0) i = true) ∧
    (∀ x ∈ [(1, sub 15 0x1_0000 0x1_8000 8), (2, sub 3 0x1_0000 8 0), (2, sub 4 0x1_0000 7 0), (3, sub 5 0 0 0), (4, sub 6 0 0 0),
        (6, sub 5 12 0x0301 0), (7, sub 5 0 0 0), (5, sub 4 0 0 0)],
      subStatus serving 0 false { op := BitVec.ofNat 8 x.1, cmd := x.2, tokens := [] } = 0) ∧
    (subStatus serving 0 false { op := 3, cmd := sub 6 0 0 0, tokens := [] } = 3 ∧ (getStm serving 0).cqTail < 64) ∧
    (∃ b, (getStm endServing 0).built = some b ∧ b.rows = [] ∧ (getStm endServing 0).ends = [(4, 0, false, 1)] ∧ cqRoom endServing 0 1) :=
  ⟨⟨by decide +kernel, (room_of (by decide +kernel)).1, (room_of (by decide +kernel)).2, rfl⟩, by decide +kernel, by decide +kernel,
    by decide +kernel, ⟨_, rfl, rfl, rfl, (room_of (by decide +kernel)).1⟩⟩

/-- `serving` after a build, its three rows locked. -/
def builtServing : State :=
  let rows := composeStep serving 0 4
  { modStm 0 (fun y => { y with built := some { rows := rows, stepNo := 40, lockNs := 10000123, startNs := 10000123 } }) serving with
    streams := serving.streams.map fun e => (e.1, if e.1 == 5 then { e.2 with locked := true } else e.2) }

theorem witness_StepsAndPartitionResets :
    (builder serving 0 = some 0 ∧ onSwings serving 0 = false ∧ serving.ecc.badTables = [] ∧
      composeStep (applyDue 0 serving) 0 (jobMov (getJob serving 0)).stepBudget ≠ [] ∧ (applyDue 0 serving).clk = serving.clk ∧
      inVat (getStm (applyDue 0 serving) 0).srBase 128 = true ∧
      (stepRecord 0 40 4 10000123 (composeStep (applyDue 0 serving) 0 4)).length = 128) ∧
    (starters builtServing 0 = [0] ∧ onSwings builtServing 0 = false) ∧
    (servingJob builtServing 0 = some 0 ∧ servingJob builtServing 1 = none ∧ (getStm builtServing 0).built ≠ none ∧
      (getStream builtServing 5).locked = true ∧ (getStream builtServing 5).part = 0) := by decide +kernel

/-- The installation of an image that passes every check is a theorem of its own (`install_accepted`), as are each refusal and form. -/
theorem witness_JobCommands :
    (installable.pwr.state ≠ .holding ∧ installStatus 1 jobTable ≠ 0 ∧ (getJob jobTable 1).state = 1 ∧ (getJob jobTable 5).state = 4 ∧
      (getJob jobTable 63).state = 0 ∧ (getJob jobTable 0).state = 3) ∧
    (∀ j ∈ [1, 2, 3, 4, 5], partitioned jobTable = true ∧ (getPart jobTable (jobPart (getJob jobTable j))).running.isSome = true) ∧
    (jobRing (getJob jobTable 1) = false ∧ jobRing (getJob jobTable 2) = true ∧ (getJob jobTable 2).state = 1 ∧
      (getJob jobTable 2).arg % 16000 = 0 ∧ jobTable.clk.fleet + 32000 ≤ (getJob jobTable 2).arg) ∧
    ((getJob jobTable 3).state = 2 ∧ restoring jobTable 3 = false ∧ preemptStatus 3 jobTable = 0 ∧
      (getJob jobTable 4).state = 3 ∧ jobRing (getJob jobTable 4) = false ∧
      jobRing (getJob jobTable 5) = false ∧ jobServing (getJob jobTable 5) = false) := by decide +kernel

theorem witness_JobSwitches :
    ((getJob startWaits 2).startSw = some 11008000 ∧ (getJob startWaits 2).state = 1 ∧ ringHeld startWaits = false ∧
      (getPart startWaits (jobPart (getJob startWaits 2))).running = none ∧ (getPart startWaits 0).sw = none ∧
      jobRing (getJob startWaits 2) = true ∧ (getJob startWaits 2).saved = none ∧
      (startWaits.jobs.all fun x => x.1 == 2 || (x.2.state != 2 && x.2.state != 3)) = true ∧
      2 ∈ startWaits.jobs.map (·.1)) ∧
    (let s := modJob 1 (fun x => { x with startSw := some 11008000 }) jobTable
     (getJob s 1).startSw = some 11008000 ∧ (getJob s 1).state = 1 ∧ ringHeld s = false ∧ (getPart s 0).running.isSome = true) ∧
    ((getPart (switching 0 (some 0) none) 0).sw = some ⟨some 0, none, 0, 2, some 10048000, none⟩) ∧
    (let s := switching 1 (some 0) none
     (getPart s 0).sw = some ⟨some 0, none, 1, 2, none, none⟩ ∧ jobBusy s 0 = false ∧ coreRuns s = true ∧
       (getJob s 0).saved = some [(0x1_0000, 2)] ∧ rangeLines [(0x1_0000, 2)] ≠ 0 ∧
       switchCause s 0 [(0x1_0000, 2)] [(0x1_0000, 128)] = 0) ∧
    (let s := switching 2 none (some 0)
     (getPart s 0).sw = some ⟨none, some 0, 2, 2, none, none⟩ ∧ coreRuns s = true ∧ s.flt.chipClass = false ∧
       (getJob s 0).saved = some [(0x1_0000, 2)] ∧ switchCause s 0 [(0x1_0000, 2)] [((getJob s 0).save, 128)] = 0) := by decide +kernel

/-- An operation that runs, in a live step, over memory without an uncorrectable error. -/
def runsOp (k : Nat) : Bool := headOp (blockRuns k) k == some op1 && opLive (blockRuns k) op1 && (blockRuns k).ecc.badLines.isEmpty

theorem witness_SelectorAndSeparator :
    runsOp 0 = true ∧ runsOp 1 = true ∧ sepOf (jobMov (getJob (blockRuns 1) 0)) 0 = some sep1 ∧
    Apart 0xD_0000_0828 8 layer1.pairBase
      (pairBuffer 0 0 0 (selFromMem (atEnd (blockRuns 0) op1) (layerAt (jobMov (getJob (blockRuns 0) 0)) 0) op1.bias 0 0 4).pairs).length ∧
    headOp busyMem 0 = none ∧ headOp busyMem 1 = none :=
  ⟨by decide +kernel, by decide +kernel, rfl, by unfold Apart; decide +kernel, rfl, rfl⟩

/-- A combine without a late entry, and one whose conservation check finds nothing. -/
theorem witness_WalkerChurnAndCulture :
    runsOp 4 = true ∧ runsOp 11 = true ∧ runsOp 2 = true ∧ runsOp 3 = true ∧ churnReady (blockRuns 2) = true ∧
    (let s := atEnd (blockRuns 2) op1
     let m := jobMov (getJob s 0)
     combineOf m 0 = some combine1 ∧ sepOf m 0 = some sep1 ∧ arrival (layerAt m 0) = false ∧
       conserve s.mem m (layerAt m 0) sep1 (contribs s.mem m (layerAt m 0) sep1 0 4) 4 = ([], 0)) ∧
    headOp busyMem 2 = none ∧ headOp busyMem 3 = none ∧ headOp busyMem 11 = none := by decide +kernel

/-- A combine whose record of a token counts a contribution that no slot brings. -/
def wrongCount : State := { blockRuns 2 with mem := memWrite (blockRuns 2).mem 0xC_0000_3A00 [1] }

theorem witness_ChurnFails :
    headOp wrongCount 2 = some op1 ∧ opLive wrongCount op1 = true ∧ churnReady wrongCount = true ∧ wrongCount.ecc.badLines = [] ∧
    (let s := atEnd wrongCount op1
     let m := jobMov (getJob s 0)
     conserve s.mem m (layerAt m 0) sep1 (contribs s.mem m (layerAt m 0) sep1 0 4) 4 ≠ ([], 0)) := by decide +kernel

/-- Entries that end with the ring's last line. -/
theorem witness_BlockQueuesAndBalanceLog :
    (∀ b ∈ [BlockId.selector, .separator, .churn, .culture], ∃ o rest, queueOf (blockWaits (blockKey b)) (blockKey b) = o :: rest ∧
      o.began = none ∧ coreRuns (blockWaits (blockKey b)) = true) ∧
    (balanceLog.blk.blogQ = [List.replicate 128 0xA5, List.replicate 64 1] ∧ cfgVal balanceLog 0x0805 = 4 ∧
      balanceLog.blk.blogWr % 4 + 2 = 4) := by
  refine ⟨?_, by decide +kernel⟩
  intro b hb
  simp only [List.mem_cons, List.not_mem_nil, or_false] at hb
  rcases hb with rfl | rfl | rfl | rfl <;> exact ⟨_, _, rfl, rfl, rfl⟩

/-- A descriptor at its cost, one whose deferred line waits, one whose deferred lines have come, and a rejected one. -/
theorem witness_LoaderChannels :
    (∀ o ∈ [load1 0, { load1 0 with held := some 50 }, load1 15],
      channelOp (loading o) 3 = some o ∧ coreRuns (loading o) = true ∧ (getJob (loading o) 0).state = 3 ∧
        (getJob (loading o) 0).run.active = true ∧ (loading o).ecc.badLines = []) ∧
    (loadWaits (loading (load1 0)) 3 (load1 0) = false ∧ (loading (load1 0)).hbm.deferred = [] ∧
      channelOp (loadingLate (load1 0)) 3 = some (load1 0) ∧ loadWaits (loadingLate (load1 0)) 3 (load1 0) = true ∧
      loadWaits (loading { load1 0 with held := some 50 }) 3 { load1 0 with held := some 50 } = false) ∧
    (localLd (loading (load1 0)) (readLd (loading (load1 0)).mem (load1 0).desc)).oob < 2 := by decide +kernel

/-- No lease, one of this layer, 15 and 16 of another; an address of no layer; a layer without a snapshot; a layer that is
not Paused. -/
theorem witness_CultureRegisters :
    (blockLayer (leased []) 0x9_9000 = none ∧ (∃ j d, blockLayer (leased []) 0x1_0000 = some (j, d) ∧ d = layer1) ∧
      (tget {} (leased []).cul.prog 0x1_0000).latest = some 1 ∧ (tget {} blocks.cul.prog 0x1_0000).latest = none) ∧
    (((leased [⟨9, 2, 0x1_0000, 1, 11000000⟩]).cul.leases.find? fun l => l.fn == 2 && l.id == 9).isSome = true ∧
      (List.replicate 15 (⟨0, 3, 0x9_0000, 0, 0⟩ : SnapLease)).length < 16 ∧ 16 ≤ (List.replicate 16 (⟨0, 3, 0x9_0000, 0, 0⟩ : SnapLease)).length) ∧
    (bitAt (readPar (leased []).mem 0x1_0000).state 1 = true ∧ bitAt (readPar blocks.mem 0x1_0000).state 1 = false) :=
  ⟨⟨by decide +kernel, ⟨0, layer1, by decide +kernel, rfl⟩, by decide +kernel, by decide +kernel⟩, by decide +kernel, by decide +kernel⟩

/-- The limit is 105 °C; the hottest sensor at it, just under it, 5 °C under it and below. -/
theorem witness_PowerSheds :
    8 * (cfgVal device 0x0909 : Int) = 840 ∧
    ([840, 839, 800, 799, 0xFF00].map fun h => (BitVec.toInt (n := 16) h)) = [840, 839, 800, 799, -256] ∧
    (withRgl {}).rgl.shedding = false ∧ (withRgl {}).pwr.state = .running ∧ dormantDevice.pwr.state = .dormant ∧
    State.reset.pwr.state = .loading ∧
    (let s := withRgl { shedding := true, thermal := true, coolFrom := some 7 }
     s.rgl.shedding = true ∧ s.rgl.thermal = true ∧ s.rgl.coolFrom = some 7 ∧ s.rgl.shedReq = false) ∧
    (let s := { withRgl { shedding := true, shedReq := true } with pwr.pwrShedN := true }
     s.rgl.shedding = true ∧ s.pwr.pwrShedN = true ∧ s.rgl.thermal = false ∧ s.rgl.shedReq = true) := by decide +kernel

theorem witness_CapAndStart :
    (device.pwr.rampSyncHeld = false ∧ device.pwr.rampSyncNet = false) ∧
    ({ device with pwr.rampSyncHeld := true } : State).pwr.rampSyncHeld = true ∧
    ((withRgl { waitTs := true }).rgl.waitTs = true ∧ (withRgl { waitTs := true, ts := some 16000000000 }).rgl.ts = some 16000000000) ∧
    (0 < windowNs poolChip ∧ inDomain poolChip = true ∧ inDomain device = false) := by decide +kernel

theorem witness_EstimatorSamples :
    samples device = true ∧ device.ecc.badTables = [] ∧ device.rgl.shedding = false ∧ device.pwr.state ≠ .holding ∧
    device.pwr.entering = false ∧ samples { device with pwr := { powerUp with state := .holding } } = true ∧
    (withRgl { shedding := true }).rgl.shedding = true := by decide +kernel

/-- The 15th and the 16th failure; a voltage to set, and one right after a set; each rotating reading. -/
theorem witness_PmbusSlots :
    (∀ p ∈ [({} : Pmb), { inRow := 14 }, { inRow := 15 }, { inRow := 20, lost := true }, { rotation := 2 }, { rotation := 3, status := 5 },
        { want := some 760, vout := 757 }, { want := some 760, wroteB := true }, { want := some 760, redo := true }],
      mgmtRuns (withPmb p) = true ∧ (withPmb p).pwr.handedOver = true ∧ (withPmb p).pwr.state ≠ .dormant) ∧
    cfgVal (withPmb {}) 0x0201 = 1 ∧ ({ want := some 760, vout := 757 } : Pmb).avsOff = false ∧ ({ want := some 760, vout := 757 } : Pmb).lost = false ∧
    (withPmb { nextA := device.upNs }).upNs ≤ (withPmb { nextA := device.upNs }).pmb.nextA ∧ linear16 0x14 760 = 3113 := by
  decide +kernel

theorem witness_RampTimers :
    (0 < windowNs poolChip ∧ isPool poolChip = true ∧ cfgVal poolChip 0x0A03 ≠ 0xFFF ∧ poolChip.rgl.pool.queue = [] ∧
      (poolChip.rgl.leases.find? fun l => l.dir == .rise && l.id == 1) = some ⟨.rise, 1, 20, 0, 20000000, 0, 7⟩ ∧ chipId poolChip = 0 ∧
      (poolChip.rgl.pool.leases.find? fun q => q.dir == .rise && q.chip == 0 && q.id == 1) = some ⟨.rise, 0, 1, 20, 20000000⟩ ∧
      (poolChip.rgl.pool.leases.find? fun q => q.dir == .rise && q.chip == 3 && q.id == 4) = some ⟨.rise, 3, 4, 50, 15000000⟩) ∧
    ((poolChip.rgl.leases.find? fun l => l.dir == .descent && l.id == 1) = some ⟨.descent, 1, 10, 0, 20000000, 3, 7⟩) ∧
    (reqOf member .rise = some ⟨2, 30, 9000000, false⟩ ∧ poolOf member = 3 ∧ chipId member = 0 ∧ inDomain member = true ∧
      cfgVal member 0x0A03 = 0 ∧ isPool member = false ∧ member.pwr.handedOver = true) ∧
    (frozenPool.rgl.pool.active = true ∧ frozenPool.rgl.pool.frozen = true ∧ frozenPool.rgl.pool.queue = []) := by decide +kernel

/-- Of another domain, of an older epoch; a request for all that is left and for 1 W more; a pool in its freeze; a chip that is
no pool. -/
theorem witness_RampMessages :
    (∀ f ∈ [rampFrame 10 2 4 0 1 7, rampFrame 10 2 5 0 1 6, rampFrame 930 9 5 0 1 7, rampFrame 931 9 5 0 1 7],
      Accepts poolChip 1 f 0x13 ∧ bits f.arg.toNat 44 4 = 1 ∧ f.src.toNat ≠ chipId poolChip) ∧
    (cfgVal poolChip 0x0A01 = 5 ∧ poolChip.rgl.epoch = 7 ∧ newer 16 7 6 = true ∧ newer 16 7 7 = false ∧ isPool poolChip = true ∧
      poolChip.rgl.pool.frozen = false ∧ poolChip.rgl.pool.queue = [] ∧ available poolChip .rise = 930 ∧ poolSize poolChip .rise = 1000 ∧
      frozenPool.rgl.pool.frozen = true ∧ isPool frozenPool = true) ∧
    (∀ f ∈ [rampFrame 10 2 5 0 2 7, rampFrame 10 2 5 0 3 7, rampFrame 10 4 5 0 4 7, rampFrame 10 4 5 0 6 7, rampFrame 0 0 5 0 7 7],
      Accepts frozenPool 1 f 0x13) ∧
    (∀ x ∈ frozenPool.rgl.leases, x.dir = .rise → x.id ≠ 2) ∧ reqOf frozenPool .rise = some ⟨2, 30, 9000000, false⟩ ∧
    ((frozenPool.rgl.pool.leases.find? fun q => q.dir == .rise && q.chip == 3 && q.id == 4) = some ⟨.rise, 3, 4, 50, 15000000⟩) ∧
    (Accepts member 1 (rampFrame 0 0 5 0 5 8) 0x13 ∧ newer 16 8 member.rgl.epoch = true ∧ member.rgl.pool.active = false) := by
  refine ⟨fun f hf => ⟨accepts_of ?_, ?_, ?_⟩, by decide +kernel, fun f hf => accepts_of ?_, by decide +kernel, by decide +kernel,
    by decide +kernel, accepts_of (by decide +kernel), by decide +kernel, by decide +kernel⟩ <;> revert f <;> decide +kernel

/-- A delay at 20 ns over the least. -/
theorem witness_TimeExchanges :
    (∀ f ∈ [timeFrame 77 4 10 0 0, timeFrame 77 4 10 1 0, timeFrame 557 4 10 0 1],
      Accepts (withEsc 3 { state := .locked, parent := some 1, pending := asked }) 1 f 0x12) ∧
    (let s := withEsc 3 { state := .locked, parent := some 1, pending := asked, delays := [(1, [536])] }
     s.esc.state ≠ .free ∧ (getLink s 1).state = .up ∧ (getLink s 1).role ≠ 0 ∧ (getLink s 5).state ≠ .up ∧
       ((tget [] s.esc.pending 1).find? fun x => x.1 == 4) = some (4, 9999000) ∧ s.esc.big = 0 ∧
       (557 + ((s.clk.fleet : Int) - 9999000 - 557 - 10)) / 2 = 536 + 20 ∧ s.esc.parent = some 1) ∧
    (let s := withEsc 3 { state := .acquire, parent := some 1, stepped := true, good := 15, pending := asked }
     s.esc.stepped = true ∧ 15 ≤ s.esc.good ∧ isRoot s = false ∧ (557 - ((s.clk.fleet : Int) - 9999000 - 557 - 10)) / 2 = 0) := by
  refine ⟨fun f hf => accepts_of ?_, by decide +kernel, by decide +kernel⟩
  revert f
  decide +kernel

/-- Edges 100 µs early and late, and 1 ns more. -/
theorem witness_EscapementTimersAndEdges :
    ((withEsc 3 { state := .locked, parent := some 1, parentOff := some 900000 }).esc.parentOff = some 900000 ∧ device.ecc.badTables = [] ∧
      device.esc.state = .locked ∧ device.esc.parentOff = none) ∧
    (let s := withEsc 3 { state := .holdover, parent := some 0 }
     chooseAgain s = some 1 ∧ s.esc.parent = some 0) ∧
    (let s := withEsc 0 {}
     isRoot s = true ∧ s.esc.state = .free ∧ s.pwr.handedOver = true ∧ s.pwr.state ≠ .holding) ∧
    (let s := { withEsc 3 {} with pwr := { powerUp with lockDue := some 21000000, state := .starting } }
     s.pwr.lockDue = some 21000000 ∧ s.esc.state ≠ .locked ∧ s.pwr.lockPassed = false) ∧
    (let s := { withEsc 0 { edge := some 9000000 } with cfg := ringDevice.cfg ++ [(0x0B01, 0), (0x0B02, 1)] }
     isRoot s = true ∧ cfgVal s 0x0B02 ≠ 0 ∧ s.esc.lost = false ∧ s.esc.edge = some 9000000 ∧ s.esc.parent = none) ∧
    isRoot (withEsc 3 {}) = false ∧ device.pwr.state ≠ .dormant ∧ chooseAgain device = none ∧
    ([999899999, 999900000, 1000100000, 1000100001].map fun d => decide (5 + 999900000 ≤ 5 + d ∧ 5 + d ≤ 5 + 1000100000)) =
      [false, true, true, false] := by decide +kernel

/-- A Nak just under 2 µs ago, and 2 µs ago; control block kinds 4 and 5. -/
theorem witness_ControlBlocks :
    ((getLink busyMem 1).state = .up ∧ busyMem.flt.remap.source = false ∧ (getLink busyMem 5).state ≠ .up ∧
      (getLink busyMem 1).unacked = [] ∧ (getLink (withLink fun x => { x with unacked := [frame 0x10 0 0 0 0 []] }) 1).unacked ≠ []) ∧
    ([9998123, 9998124].map fun t : Nat => decide (t + 2000 ≤ busyMem.clk.fleet)) = [true, false] := by decide +kernel

/-- In turn, ahead of it and behind it; of another form; for another chip, with a Ttl of 0, by a link and by none; of 1 000 µs and
1 001 µs; a duplicate already seen. -/
theorem witness_FrameReception :
    (frameForm (.heartbeat 1 (frame 0x10 0 0 0 0 [])) = some (1, frame 0x10 0 0 0 0 [], 0x10) ∧ busyMem.ecc.badTables = [] ∧
      frameKindOk (frame 0x10 0 0 0 0 []) = true ∧ frameKindOk (frame 0x10 1 0 0 0 []) = false) ∧
    ((getLink busyMem 1).rxSeq = 0 ∧ newer 16 1 0 = true ∧ newer 16 65535 0 = false ∧ (getLink busyMem 5).state ≠ .up ∧
      busyMem.flt.remap.source = false) ∧
    (chipId busyMem = 0 ∧ routeLink busyMem 2 = some 0 ∧ routeLink busyMem 9 = none) ∧
    ([9000, 8999].map fun st => (beatStamp busyMem + 2 ^ 32 - st) % 2 ^ 32) = [1000, 1001] ∧
    (3, 5, 9999000) ∈ ({ busyMem with net.filter := [(3, 5, 9999000)] } : State).net.filter := by decide +kernel

theorem witness_FrameContents :
    (∀ f ∈ [frame 0x08 1 2 5 0xC_0000_0000 (List.replicate 64 1), frame 0x08 1 2 5 0xC_0001_0000 (List.replicate 64 1),
        frame 0x09 0 2 5 0xC_0000_0000 [], frame 0x09 0 2 5 0xC_0001_0000 [], frame 0x0A 1 2 5 0 (List.replicate 64 1), frame 0x0B 0 2 5 0 [],
        frame 0x01 1 1 5 0 (List.replicate 64 1), frame 0x01 1 1 5 0x8002_0000_0000_0040 (List.replicate 64 1), frame 0x10 0 0 0 1 [], frame 0x11 0 0 0 0 []],
      acceptsB busyMem 1 f f.kind.toNat = true ∧ acceptsB remoteWaits 1 f f.kind.toNat = true ∧ acceptsB (armedColl true) 1 f f.kind.toNat = true ∧ acceptsB (armedColl false) 1 f f.kind.toNat = true) ∧
    (busyMem.ecc.badLines = [] ∧ busyMem.vat = [] ∧ remoteOk busyMem 3 0xC_0000_0000 64 = true ∧ remoteOk busyMem 3 0xC_0001_0000 64 = false ∧
      lineBad busyMem 0xC_0000_0000 64 = false) ∧
    ((remoteOf remoteWaits (frame 0x0A 1 2 5 0 [])).isSome = true ∧ remoteOf busyMem (frame 0x0A 1 2 5 0 []) = none) ∧
    (∀ r ∈ [true, false], isFenced (armedColl r) 3 = false ∧ runningRing (armedColl r) = some 0 ∧
      (tget {} (getJob (armedColl r) 0).run.colls 5).armed = true ∧ (tget {} (getJob (armedColl r) 0).run.colls 5).running = r ∧
      ∃ c, (jobMov (getJob (armedColl r) 0)).colls[5]? = some c ∧
        collFits (armedColl r) 0 (jobMov (getJob (armedColl r) 0)) c (frame 0x01 1 1 5 0x8002_0000_0000_0040 (List.replicate 64 1)) = true) ∧
    runningRing ringDevice = none ∧ (sideChip busyMem .fwd = 1 ∧ sideChip busyMem .bwd = 3 ∧ cfgVal busyMem 0x0601 ≠ 0) ∧
    digestSide busyMem 1 3 = some .bwd := by
  refine ⟨by decide +kernel, by decide +kernel, by decide +kernel, ?_, by decide +kernel, by decide +kernel, by decide +kernel⟩
  intro r hr
  simp only [List.mem_cons, List.not_mem_nil, or_false] at hr
  rcases hr with rfl | rfl <;> exact ⟨by decide +kernel, by decide +kernel, by decide +kernel, rfl, _, rfl, by decide +kernel⟩

/-- The heartbeat's side is the one whose chip sent it. -/
theorem witness_FrameContents_heartbeat :
    let s := { busyMem with cfg := [(0x0601, 4), (0x0602, 0), (0x0603, 3), (0x0604, 1)] }
    sideChip s .fwd = 3 ∧ sideChip s .bwd ≠ 3 ∧ cfgVal s 0x0601 ≠ 0 ∧ acceptsB s 1 (frame 0x10 0 0 0 1 []) 0x10 = true := by decide +kernel

/-- The last frames within 2 % of the beat and within the claim, and with the last credit. -/
theorem witness_Transmitter :
    (let s := withLink fun x => { x with qU := [toSend 0 0x10 0], uBeat := 968, crU := 1 }
     let x := getLink s 1
     x.state = .up ∧ x.nakOwed = false ∧ x.replayQ = [] ∧ x.uBeat + frameBytes (toSend 0 0x10 0).fr = 250 * x.width ∧
       replayFits x (toSend 0 0x10 0).fr = true ∧ frameCredits (toSend 0 0x10 0).fr = x.crU) ∧
    (let s := withLink fun x => { x with qS := [toSend 1 1 4], sBeat := 1744 }
     let x := getLink s 1
     x.qU = [] ∧ 64 * 4 + x.sBeat = sClaim s 1 ∧ replayFits x (toSend 1 1 4).fr = true ∧ frameCredits (toSend 1 1 4).fr ≤ x.crS) ∧
    (let s := withLink fun x => { x with qB := [toSend 2 8 1] }
     let x := getLink s 1
     x.qU = [] ∧ x.qS = [] ∧ replayFits x (toSend 2 8 1).fr = true ∧ frameCredits (toSend 2 8 1).fr ≤ x.crB) ∧
    ((getLink busyMem 1).ackOwed = false ∧ (getLink busyMem 1).owedU + (getLink busyMem 1).owedS + (getLink busyMem 1).owedB = 0 ∧
      (getLink busyMem 1).unacked = [] ∧ busyMem.flt.remap.left = [] ∧ markerDue (getLink busyMem 1) = false ∧ (getLink busyMem 5).state ≠ .up) ∧
    (let x := getLink (withLink fun x => { x with blocks := 20 * 16384 }) 1
     x.state = .up ∧ x.qU = [] ∧ x.qS = [] ∧ markerDue x = true) ∧
    (let x := getLink (withLink fun x => { x with nakOwed := true, ackOwed := true, replayQ := [(toSend 0 0x10 0).fr], unacked := [(toSend 0 0x10 0).fr] }) 1
     x.state = .up ∧ x.nakOwed = true ∧ x.ackOwed = true ∧ x.replayQ ≠ [] ∧ x.unacked ≠ []) := by decide +kernel

theorem witness_LinkStates :
    (∀ st ∈ [LinkState.train, .fastRetrain, .failed, .off], (getLink (withLink fun x => { x with state := st }) 1).state = st ∧
      boundary (withLink fun x => { x with state := st }) = false) ∧
    (partnerOk busyMem (getLink busyMem 1).role 3 1 = true ∧ partnerOk busyMem (getLink busyMem 1).role 1 1 = false ∧
      (widthOf (cfgVal busyMem 0x0401) 0).1 = 0 ∧ (widthOf (cfgVal busyMem 0x0401) 8).1 = 1) ∧
    (bitAt (getLink busyMem 1).lanes 3 = true ∧ bitAt (getLink (withLink fun x => { x with lanes := 3 }) 1).lanes 3 = false) ∧
    (getLink busyMem 1).unacked = [] ∧ busyMem.flt.remap.source = false := by decide +kernel

/-- One error under the limit and at it; 16 ms after a fast retrain and 1 ns later. -/
theorem witness_LinkErrors :
    cfgVal busyMem 0x0402 = 8 ∧
    (∀ x ∈ [(7, none), (8, none), (8, some 9999999)], (getLink (withLink fun y => { y with errs := x.1, lastFast := x.2 }) 1).state = .up ∧
      (getLink (withLink fun y => { y with errs := x.1, lastFast := x.2 }) 1).qU = []) ∧
    (let f := toSend 0 0x10 0
     let x := getLink (withLink fun y => { y with errs := 8, qU := [f] }) 1
     x.state = .up ∧ x.qU = [f] ∧ x.replayQ = [] ∧ replayFits x f.fr = true ∧ frameCredits f.fr ≤ x.crU) ∧
    (let s := { busyMem with clk.fleet := 16000010 }
     s.clk.fleet ≤ 10 + 16000000 ∧ 9 + 16000000 < s.clk.fleet) := by decide +kernel

/-- A message with a right Mac and one with a wrong one; a chip to fence, one fenced and this chip; a restore. -/
theorem witness_KeeperMessages :
    (∀ f ∈ [frame 0x14 1 0 0 0 (kmsg 9 6 [3] mac6), frame 0x14 1 0 0 0 (kmsg 9 6 [4] mac6), frame 0x15 0 0 0 0x1200_0000_0000_0003 [],
        frame 0x15 0 0 0 0x1200_0000_0000_0000 [], frame 0x15 0 0 0 0x2000_0000_0000_0000 [], frame 0x0C 4 2 0 0x1000 (List.replicate 256 3)],
      acceptsB busyMem 1 f f.kind.toNat = true) ∧
    (keeperReason busyMem 0 (kmsg 9 6 [3] mac6) = 0 ∧ keeperReason busyMem 0 (kmsg 9 6 [4] mac6) = 3) ∧
    (keeperReason sending 0xFFF (ksendBytes sending) = 0 ∧ keeperReason busyMem 0xFFF (ksendBytes busyMem) ≠ 0) ∧
    (isFenced busyMem 3 = false ∧ chipId busyMem ≠ 3 ∧ 3 ∈ neighbours busyMem ∧ busyMem.flt.fences.length < 16) ∧
    (busyMem.flt.remap.state ≠ 1 ∧ inHbm 0x1000 256 = true ∧
      ({ busyMem with flt.remap := { state := 1, target := true, needLd := true } } : State).flt.remap.source = false) :=
  ⟨by decide +kernel, by decide +kernel, by decide +kernel, by decide +kernel, by decide +kernel⟩

theorem witness_KeeperOperations :
    (∀ x ∈ [(1, [2, 0, 3, 1, 0x80, 0]), (2, [0, 0, 0, 0, 0, 0, 0, 0xFF]), (3, [0, 0, 3, 0, 10, 0, 0, 0, 5]), (3, [9, 0, 3, 0, 10]),
        (4, [0, 1, 2, 0, 5, 0, 0, 0, 0xFF, 0xFF, 0xFF, 0xFF]), (5, [3]), (6, [3]), (6, [0]), (7, [1, 0, 3, 0, 1, 0, 0, 0x10]), (7, [2, 0, 3])],
      nextKeeper (keeping x.1 x.2) x.1 = some (waitsFor x.1 x.2)) ∧
    (isFenced busyMem 3 = false ∧ chipId busyMem = 0) ∧ (buildBegun serving 0 5 = true ∧ buildBegun (keeping 4 []) 0 5 = false) ∧
    restorePlan (keeping 7 []) (waitsFor 7 [1, 0, 3, 0, 0, 0, 0, 0x10, 0, 0, 0, 0, 0, 0, 0x40]).body ≠ [] := by decide +kernel

/-- A head at the tail and one past it. -/
theorem witness_ScrubsAndEventRegisters :
    (0 < 1000000 * cfgVal soft 0x0301 ∧ hbmReady soft = true ∧ hbmReady State.reset = false) ∧
    ((events false 0 0 []).ev.enable = false ∧ (events true 63 1 []).ev.enable = true ∧ evSize (events true 63 1 []) = 64) ∧
    (([1, 2].map fun h => decide ((h + 64 - 63) % 64 ≤ (1 + 64 - 63 % 64) % 64)) = [true, false]) ∧
    (device.pwr.summaryPosted = false ∧ device.ecc.badTables = [] ∧ device.pwr.state ≠ .loading ∧ loadingDevice.pwr.state = .loading) := by decide +kernel

/-- Room for one entry, at the ring's end and elsewhere; a full ring; a ring that is off. -/
theorem witness_EventCollector :
    ([(true, 0, 62), (true, 1, 63), (true, 0, 63), (true, 5, 4), (false, 0, 0)].map fun x =>
      decide ((events x.1 x.2.1 x.2.2 []).ev.enable = true ∧ (x.2.2 + 1) % evSize (events x.1 x.2.1 x.2.2 []) ≠ x.2.1)) =
        [true, true, false, false, false] ∧
    (events true 0 0 [⟨9, 3, 5, 2, 1, List.replicate 16 7⟩, ⟨9, 1, 5, 1, 1, []⟩]).ev.queue =
      [⟨9, 3, 5, 2, 1, List.replicate 16 7⟩, ⟨9, 1, 5, 1, 1, []⟩] := by decide +kernel

/-- FIFOs of 15 and 16; each port; a break asked for or not. -/
theorem witness_UartRegisters :
    ([Port.pf, .smbus, .console, .crown, .vf 0].map fun p => ownsUart (withUart {}) p) = [false, false, false, true, false] ∧
    ([Port.pf, .smbus, .console, .crown, .vf 0].map fun p => ownsUart (hostUart {}) p) = [true, false, false, false, false] ∧
    ownsUart { device with uart := {} } .crown = true ∧
    (uartRuns (withUart {}) = true ∧ (withUart {}).uart.inBreak = false ∧ (withUart { rx := List.replicate 15 ⟨1, false, false, false⟩ }).uart.rx.length < 16) ∧
    ((withUart { tx := List.replicate 15 1 }).uart.tx.length < 16 ∧ 16 ≤ (withUart { tx := List.replicate 16 1 }).uart.tx.length) := by decide +kernel

/-- Twenty character times, of 10 bits each, and 1 cycle less; 250 ms and 1 cycle less. -/
theorem witness_UartLine :
    (uartRuns (hostUart {}) = true ∧ crownOwns (hostUart {}) = false ∧ (hostUart {}).uart.reported = true) ∧
    ((hostUart { inBreak := true }).uart.inBreak = true ∧ cfgVal (hostUart {}) 0x0C04 = 1 ∧ (hostUart {}).pwr.mgmtResetDue = none) ∧
    ([34719, 34720].map fun c => decide (2 * frameBits 0 ≤ c / 1736)) = [false, true] ∧
    ((hostUart { sending := some 5 }).uart.sending = some 5 ∧ (hostUart { brkNow := true, brkTx := some 3 }).uart.brkNow = true) ∧
    (let low := (false, true, false)
     let high := (true, false, true)
     isBreak 0 (List.replicate 8 low) high low = true ∧ isBreak 0 (List.replicate 8 low) low high = false ∧
       isBreak 2 (List.replicate 8 low) high low = false ∧ isBreak 1 (List.replicate 7 low ++ [high]) low low = true) ∧
    (cfgVal { hostUart {} with cfg := [(0x0C03, 1)] } 0x0C04 ≠ 1 ∧ 16 ≤ (List.replicate 16 (⟨1, false, false, false⟩ : RxEntry)).length) := by decide +kernel

/-- A line of 80 characters and one of 81; a known command and an unknown one. -/
theorem witness_ConsoleCommands :
    (consoleServes device = true ∧ consoleServes (hostUart {}) = false ∧ consoleMay 0x3_0020 = true ∧ consoleMay 0xB_0000 = true ∧
      consoleMay 0x3_0024 = false) ∧
    (ownsUart (console "s" 13) .crown = true ∧ (console "s" 13).uart.rx = [⟨13, false, false, false⟩, ⟨65, false, false, false⟩]) ∧
    (knownLine (console "s" 13).con.line = true ∧ knownLine (console "q" 13).con.line = false ∧ (console "s" 13).con.bad = [] ∧
      device.pwr.state ≠ .loading) ∧
    ((List.replicate 80 (0x73 : Byte)).length ≤ 80 ∧ 80 < (List.replicate 81 (0x73 : Byte)).length) := by decide +kernel

/-- A right PEC byte, and a write without one where it is and is not asked for. -/
theorem witness_SmbusCommands :
    (smbRuns device = true ∧ smbRuns { device with pwr := { powerUp with state := .dormant } } = false ∧ Collected device) ∧
    (cfgVal device 0x0C05 ≠ 1 ∧ cfgVal { device with cfg := [(0x0C05, 1)] } 0x0C05 = 1 ∧ pecOf device [0x30, 1] < 256) ∧
    (∃ t, exec .pwrShedNFall device = .next t ∧ (device.rgl.shedding = false ∧ t.rgl.shedding = true)) ∧
    (3 : BitVec 8).toNat ∉ [0x01, 0x02, 0x10, 0x20, 0x30, 0x40, 0x41] :=
  ⟨⟨by decide +kernel, by decide +kernel, rfl⟩, by decide +kernel, ⟨_, rfl, by decide +kernel⟩, by decide +kernel⟩

/-- The fuses' first and last offset that may be set; the ends of the TP registers and of the register space. -/
theorem witness_JtagInstructions :
    (device.pwr.vddAon = true ∧ boundary device = false ∧ boundary { device with tap.ir := .extest } = true) ∧
    ([0x008, 0x009, 0x00A, 0x02F, 0x030].map (mayBurn device)) = [false, true, true, true, false] ∧
    mayBurn { device with otp := [(9, 2)], pwr := { powerUp with otpCopy := [(9, 2)] } } 0x00A = false ∧
    (debugLocked { device with cfg := [(0x1001, 1)] } = false ∧ debugLocked { device with cfg := [(0x1001, 0)] } = true ∧ mgmtRuns device = true) ∧
    (debugLocked { loadingDevice with cfg := [(0x1001, 1)] } = false ∧ mgmtRuns loadingDevice = true) ∧
    ([0, 0xC_0000_0000, 0xD_0000_0000, 0xF_C000_0000].map debugReach) = [false, false, true, true] := by decide +kernel

theorem witness_Resets :
    Collected device ∧ (State.reset.pwr.vddAon = true ∧ State.reset.pwr.porN = false ∧ State.reset.pwr.thermtrip = false) ∧
    (device.pwr.porN = true ∧ ({ device with pwr.mgmtResetDue := some 5 } : State).pwr.mgmtResetDue = some 5) ∧
    ({ device with pwr := { powerUp with vddAon := false } } : State).pwr.vddAon = false :=
  ⟨rfl, by decide +kernel, by decide +kernel, rfl⟩

/-- Flash without an answer gives Holding. -/
theorem witness_Handovers :
    (mgmtRuns loadingDevice = true ∧ loadingDevice.pwr.otpLoaded = true ∧ loadingDevice.pwr.handedOver = false) ∧
    (loadImage (true && loadingDevice.pwr.spiOk) ⟨true, [], []⟩ loadingDevice.pwr.factoryOk (jtagLock loadingDevice) (bar2Lock loadingDevice)).holds = true ∧
    (∃ f ∈ catalogue, f.id = 0x0901 ∧ f.rule = .c ∧ f.hi < 241 ∧ fieldPermits f 240 = true ∧ fieldPermits f 75 = true) ∧
    (∃ f ∈ catalogue, f.id = 0x0702 ∧ f.rule = .d ∧ fieldPermits f 7 = false ∧ fieldPermits f 18 = true ∧ fieldPermits f 19 = false) := by
  decide +kernel

theorem witness_EntryToRunning :
    (let s := starting .acquire {}
     s.pwr.state = .starting ∧ s.hbm.stack0.inited = false ∧ s.hbm.stack1.failed = false ∧ hbmReady s = false) ∧
    (let s := { starting .locked device.hbm with cfg := [(0x0302, 1)] }
     hbmReady s = true ∧ s.esc.state = .locked ∧ cfgVal s 0x0302 = 1 ∧ s.pwr.woke = false) ∧
    (device.pwr.state ≠ .starting ∧ hbmReady (starting .acquire device.hbm) = true ∧ (starting .acquire device.hbm).esc.state ≠ .locked) := by
  decide +kernel

/-- A stack at 85 °C, just under it, at 80 °C and just under it. -/
theorem witness_PinsAndThermalEvents :
    (device.pwr.state ≠ .loading ∧ device.pwr.state ≠ .dormant ∧ dormantReady device = false ∧
      dormantReady { device with pwr := { powerUp with d3hot := true, pmeAcked := true } } = true ∧ (getPart busy 0).enabled = true) ∧
    (device.pwr.entering = false ∧ device.pwr.porN = true ∧ device.pcie.up = false ∧ device.pcie.training = false ∧ device.pwr.wakeDue = none ∧
      device.pwr.thermtrip = false ∧ device.pwr.vddAon = true) ∧
    (cfgVal device 0x0D03 ≠ 1 ∧ cfgVal { device with cfg := [(0x0D03, 1)] } 0x0D03 = 1) ∧
    (samples device = true ∧ samples State.reset = false ∧ ([680, 679, 640, 639].map fun t => decide ((680 : Int) ≤ (BitVec.ofNat 16 t).toInt)) =
      [true, false, false, false]) := by decide +kernel

/-- HBM and Vat, the last byte of a Vat, the first of register space; a job's range and one beside it. -/
theorem witness_HostMemory :
    ((∀ x ∈ [0x1000, 0xB_FFFF_FFFF, 0xC_0000_0000, 0xC_07BF_FFFF], x < 0xF_C000_0000 ∧ bar2Byte device x = 0) ∧ device.ecc.badLines = []) ∧
    (jobTouched busy 0xC_0000_FFFF 1 = some 0 ∧ jobTouched busy 0xC_0001_0000 64 = none ∧ jobTouched device 0xC_0000_0000 64 = none) ∧
    (0x1000 / 64 ∈ ({ device with ecc.badLines := [64] } : State).ecc.badLines) ∧
    (0xF_C000_0000 ≤ 0xF_C000_0002 ∧ ¬ 0xF_C000_0002 % 4 = 0) := by decide +kernel

theorem witness_RegisterWrites :
    ((1 : BitVec 64).getLsbD 0 = true ∧ (5 : BitVec 64).toNat = 5 ∧ (2 : BitVec 32).toNat % 4 ≠ 0 ∧ (0x3_0048 : BitVec 32).toNat / 8 ≠ 0x3_0040 / 8) ∧
    (cfgVal { device with cfg := [(0x0D03, 1)] } 0x0D03 = 1 ∧ cfgVal device 0x0D03 = 0) := by decide +kernel

theorem reset_MemOk : MemOk State.reset := ⟨by decide +kernel, by decide +kernel, by decide +kernel, by decide +kernel⟩

/-- A step from a state that meets the invariant. -/
theorem witness_MemoryCanonical :
    MemOk { busyMem with pending := [.wake] } ∧ ∃ t, step { busyMem with pending := [.wake] } = .next t :=
  ⟨⟨by decide +kernel, by decide +kernel, by decide +kernel, by decide +kernel⟩, _, rfl⟩

theorem witness_ConfigurationFixed : ∃ t, exec .wake ringDevice = .next t ∧ Instr.wake ≠ .ringSet ∧ Instr.wake ≠ .porAssert :=
  ⟨_, rfl, by decide, by decide⟩

theorem witness_FuseBits : ∃ t, exec (.otpProg 0x009 2) { device with otp := [(0x009, 1), (0x1FF, 0x80)] } = .next t ∧
    (memGet t.otp 0x009).getLsbD 0 = true ∧ jtagLock { device with otp := [(0x009, 1)] } = true ∧ jtagLock device = false ∧
    (∀ off b, Instr.wake ≠ .otpProg off b) := by
  refine ⟨_, rfl, by decide +kernel, by decide +kernel, by decide +kernel, ?_⟩
  intro off b h
  cases h

theorem witness_FleetTime :
    (∃ t, exec .wake device = .next t) ∧ (device.pending = [] ∧ -100000 ≤ device.clk.ratePpb ∧ device.clk.frac < 2 ^ 32) ∧
    fleetRuns device = true ∧ fleetRuns State.reset = false := ⟨⟨_, rfl⟩, by decide +kernel, by decide +kernel, by decide +kernel⟩

theorem witness_KeyUnreadable : ∃ key : List Byte, key.length = 32 ∧ (∃ t, exec .smbusSerial device = .next t) ∧
    ∃ u, exec .smbusSerial { device with otp := memWrite device.otp 0x10 key, pwr.otpCopy := memWrite device.pwr.otpCopy 0x10 key } = .next u :=
  ⟨List.replicate 32 7, rfl, ⟨_, rfl⟩, _, rfl⟩

/-! ### Ill-formed commands, one refused for each check -/

theorem test_wf_frame_units : ¬ (Instr.heartbeat 1 (frame 0x10 1 0 0 0 [])).wf = true := by decide +kernel
theorem test_wf_sample_partitions : ¬ (Instr.estimatorSample ⟨1, 1, 1, 1, [0]⟩).wf = true := by decide +kernel
theorem test_wf_append_tokens : ¬ (Instr.appendTokens 0 (sub 3 0x1_0000 8 0) []).wf = true := by decide +kernel
theorem test_wf_entry_tokens : ¬ (Instr.submissionRead 0 ⟨3, [7]⟩).wf = true := by decide +kernel
theorem test_wf_sensors : ¬ (Instr.sensorConversion (List.replicate 15 0)).wf = true := by decide +kernel
theorem test_wf_smbus_known : ¬ (Instr.smbusUnknownCommand 0x41).wf = true := by decide +kernel
theorem test_wf_bar2_write : ¬ (Instr.bar2Write 0 0 []).wf = true := by decide +kernel
theorem test_wf_bar2_read : ¬ (Instr.bar2Read 0 0 0).wf = true := by decide +kernel
theorem test_wf_bar0_fits : ¬ (Instr.bar0UnsupportedAccess 0 0x30008 8 true).wf = true := by decide +kernel
theorem test_wf_write_alignment : ¬ (Instr.registerWrite .pf 0x30004 true 0).wf = true := by decide +kernel
theorem test_wf_pcie_width : ¬ (Instr.pcieLinkUp 5 2).wf = true := by decide +kernel
theorem test_wf_pcie_gen : ¬ (Instr.pcieLinkUp 6 16).wf = true := by decide +kernel
theorem test_wf_break : ¬ (Instr.breakEnd 0).wf = true := by decide +kernel
theorem test_wf_accepts : (Instr.heartbeat 1 (frame 0x10 0 0 0 0 [])).wf = true ∧ (Instr.appendTokens 0 (sub 3 0x1_0000 1 0) [9]).wf = true ∧
    (Instr.bar0UnsupportedAccess 0 0x30004 8 true).wf = true ∧ (Instr.pcieLinkUp 5 16).wf = true := by decide +kernel

/-! ### Single steps, with results from the spec's worked cases -/

/-- One field of what a command leaves. -/
def after {α : Type} (i : Instr) (s : State) (f : State → α) : Option α :=
  match exec i s with
  | .next t => some (f t)
  | _ => none

/-- Chip 0x02A wakes at 500 ms with the default stagger: its steps back begin at 542 ms (the worked case after R419). -/
theorem test_wake_stagger :
    after .wake { device with cfg := [(0x0101, 0x2A)], upNs := 500000000, pwr := { powerUp with state := .dormant, perstN := false } }
      (fun t => t.pwr.wakeDue) = some (some 542000000) := by decide +kernel

/-- One exchange: t1 1 000 000, d 177, residence 3 000, t4 1 003 330, 40 ns ago, give an offset of 12 and a delay of 165; from a parent they
make r 1.5 in 10^6 (the worked case after R304). -/
theorem test_time_exchange :
    let s := { withEsc 3 { state := .locked, parent := some 1, pending := [(1, [(4, 1000000)])] } with clk.fleet := 1003370 }
    let f := { timeFrame 177 4 3000 0 1 with stamp := 1003 }
    after (.timeExchangeResponse 1 ⟨f, 40⟩) s (fun t => (tget none t.esc.offset 1, tget 0 t.esc.delay 1, t.esc.parentOff)) =
      some (some 12, 165, some 12000) := by decide +kernel

theorem test_rate :
    after .rateUpdate (withEsc 3 { state := .locked, parent := some 1, parentOff := some 12000 }) (fun t => t.clk.ratePpb) = some 1500 := by
  decide +kernel

/-- p 100 W, static draw 30 W, demand 180 W: after 1 µs p is 100.002 W and duty 29 (the worked case of the duty throttle). -/
theorem test_duty :
    after (.estimatorSample ⟨180000000, 30000000, 205000000, 100000000, List.replicate 8 0⟩) (withRgl { p := 100000000 })
      (fun t => (t.rgl.p, t.rgl.duty)) = some (100002000, 29) := by decide +kernel

/-- A break of 40 ms at 115 200 baud: UART_BRKLEN 0x1200, and an attention (the worked case of two breaks). -/
theorem test_break :
    after (.breakEnd 8000000) (hostUart { inBreak := true }) (fun t => (t.uart.brkLen, t.uart.attn)) = some (0x1200, true) := by decide +kernel

/-- At beat stamp 0x100 a frame 768 beats old, one 128 beats ahead and one 1 280 beats old, which is stale (the worked case after
R302). -/
theorem test_stale_frames :
    ([0xFFFF_FE00, 0x180, 0xFFFF_FC00].map fun st =>
      after (.routingDigest 1 { frame 0x11 0 0 0 0 [] with stamp := st }) { busyMem with clk.fleet := 256000 }
        (fun t => (getLink t 1).staleDrop)) = [some 0, some 0, some 1] := by decide +kernel

/-- The half-written image (the worked case after R334): six records, then erased flash. -/
def halfImage : List Byte :=
  [0x41, 0x51, 0x43, 0x46, 0x01, 0x00, 0x20, 0x00, 0x07, 0x00, 0x00, 0x00, 0x00, 0x10, 0x00, 0x00, 0x00, 0x00, 0x00, 0x00, 0x00,
   0x00, 0x00, 0x00, 0x00, 0x00, 0x00, 0x00, 0xE8, 0xB3, 0x0D, 0xA8, 0x01, 0x01, 0x02, 0x2A, 0x00, 0x8E, 0x01, 0x09, 0x01, 0xFA,
   0xD1, 0x01, 0x08, 0x02, 0xE8, 0x03, 0xE6, 0x02, 0x07, 0x01, 0x07, 0x3A, 0x04, 0x0A, 0x02, 0xF4, 0x01, 0x83, 0x01, 0x33, 0x04,
   0x00, 0x00, 0x00, 0x00, 0x8E]

/-- Chip ID 0x02A, envelope 240, prefill chunk 896; EndStatus 1; one field Accepted, two Clamped, one OutOfRange, one BadCrc. -/
theorem test_half_written_image :
    let s := { loadingDevice with pwr := { loadingDevice.pwr with spiOk := true } }
    after (.handover ⟨true, halfImage, []⟩ 0x15) s (fun t => (t.cfg, t.rep.endStatus, t.rep.counts, t.rep.extra)) =
      some ([(0x0101, 0x2A), (0x0801, 896)], 1, [1, 2, 1, 1, 0, 0], 1) := by decide +kernel

/-- The searching loop: a body of 18 cycles 16 times costs 306 core cycles. -/
theorem test_loop_cost : loopSpec.cost busyMem (fld 0 0 0x0FF 0 0 0 (18 * 2 ^ 32 + 16 * 2 ^ 16 + 4)) = 306 := by decide +kernel

/-- The command at the front of the queue runs, and leaves it. -/
theorem test_step_queue : ∃ t, step { device with pending := [.pwrShedNFall, .wake] } = .next t ∧ t.pending = [.wake] ∧ t.rgl.duty = 8 :=
  ⟨_, rfl, rfl, rfl⟩

/-- TPs 32 to 39 read a column of rows 0x1000 apart from their own Vat in one cycle: with Shift 0 all lines lie in bank 0, and the
reads complete 12 to 19 cycles later; with the default Shift 12 each has its own bank (the worked case after R63). -/
theorem test_strided_column :
    ([0, 12].map fun shift =>
      let reads : List VatAcc := (upFrom 0 8).map fun k =>
        { slot := 0, tp := 32 + k, base := 0, own := true, lat := 6, lo := 0xC_0200_0000 + 0x1000 * k, size := 64
          into := some 0xD_0000_0800, bytes := [], keys := [], next := 0, want := 6, served := [] }
      (schedule { device with cfg := [(0x0702, shift)] } reads).map vatDoneAt) =
      [[12, 13, 14, 15, 16, 17, 18, 19], List.replicate 8 12] := by decide +kernel

/-! ### An image that passes every check of INSTALL -/

theorem crcReflBytes_append (poly : Nat) (xs ys : List Byte) :
    ∀ c, crcReflBytes poly c (xs ++ ys) = crcReflBytes poly (crcReflBytes poly c xs) ys := by
  induction xs with
  | nil => intro c; rfl
  | cons b bs ih => intro c; exact ih _

/-- A range in which memory lists nothing reads as zeros. -/
theorem memRead_zeros (m : Table Byte) (n : Nat) : ∀ a, (∀ x ∈ m, x.1 < a ∨ a + n ≤ x.1) → memRead m a n = List.replicate n 0 := by
  induction n with
  | zero => intro a _; rfl
  | succ n ih =>
    intro a h
    have h0 : memGet m a = 0 := by
      unfold memGet
      have : ∀ m : Table Byte, (∀ x ∈ m, x.1 ≠ a) → tget 0 m a = 0 := by
        intro m hm
        induction m with
        | nil => rfl
        | cons y ys ih => 
          obtain ⟨k, v⟩ := y
          have hk : k ≠ a := hm (k, v) (by simp)
          simp [tget, hk]
          exact ih fun x hx => hm x (by simp [hx])
      exact this m fun x hx => by have := h x hx; omega
    simp only [memRead, List.replicate_succ, h0]
    rw [ih (a + 1) fun x hx => by have := h x hx; omega]

/-- The register of CRC-32C through the zeros of the tracks section, 64 bytes at a time. -/
theorem crc_zeros : ∀ x ∈ ([0xA4359448, 0x20E68523, 0x3CFED831, 0xAB51EA6D, 0x84B673D4, 0x9B5876B, 0xEBF7219E, 0x676D383D, 0x4694D0F4,
     0x8754854B, 0xCFC63170, 0x9DC204BF, 0x290E7A40, 0xCE98EE44, 0x9D5CEBBA].zip [0x20E68523, 0x3CFED831, 0xAB51EA6D, 0x84B673D4, 0x9B5876B, 0xEBF7219E, 0x676D383D, 0x4694D0F4, 0x8754854B,
     0xCFC63170, 0x9DC204BF, 0x290E7A40, 0xCE98EE44, 0x9D5CEBBA, 0x8BBB42CF] : List (Nat × Nat)),
    crcReflBytes 0x82F63B78 x.1 (List.replicate 64 0) = x.2 := by decide +kernel

theorem memRead_add (m : Table Byte) (n k : Nat) : ∀ a, memRead m a (n + k) = memRead m a n ++ memRead m (a + n) k := by
  induction n with
  | zero => intro a; simp [memRead]
  | succ n ih =>
    intro a
    rw [show n + 1 + k = (n + k) + 1 by omega]
    simp only [memRead, List.cons_append, ih, show a + (n + 1) = a + 1 + n by omega]

/-- One step over 64 zeros, from `crc_zeros`. -/
theorem crc_zeros_step (n : Nat) {c c' : Nat} (h : crcReflBytes 0x82F63B78 c (List.replicate 64 0) = c') :
    crcReflBytes 0x82F63B78 c (List.replicate (64 + n) 0) = crcReflBytes 0x82F63B78 c' (List.replicate n 0) := by
  rw [← List.replicate_append_replicate, crcReflBytes_append, h]

/-- The CRC-32C of the tracks section. -/
theorem tracks_crc : crc32c (memRead imageMem 0x30_0100 1032) = 0x8073F722 := by
  have hz := memRead_zeros imageMem 1016 0x30_0108 (by decide +kernel)
  have h := crc_zeros
  simp only [List.zip_cons_cons, List.zip_nil_right, List.mem_cons, List.not_mem_nil, or_false, forall_eq_or_imp, forall_eq] at h
  obtain ⟨h1, h2, h3, h4, h5, h6, h7, h8, h9, h10, h11, h12, h13, h14, h15⟩ := h
  have hs : crcReflBytes 0x82F63B78 0xA4359448 (List.replicate 1016 0) = 0x1ABE7492 := by
    rw [show (1016 : Nat) = 64 + 952 from rfl, crc_zeros_step _ h1, show (952 : Nat) = 64 + 888 from rfl, crc_zeros_step _ h2,
      show (888 : Nat) = 64 + 824 from rfl, crc_zeros_step _ h3, show (824 : Nat) = 64 + 760 from rfl, crc_zeros_step _ h4,
      show (760 : Nat) = 64 + 696 from rfl, crc_zeros_step _ h5, show (696 : Nat) = 64 + 632 from rfl, crc_zeros_step _ h6,
      show (632 : Nat) = 64 + 568 from rfl, crc_zeros_step _ h7, show (568 : Nat) = 64 + 504 from rfl, crc_zeros_step _ h8,
      show (504 : Nat) = 64 + 440 from rfl, crc_zeros_step _ h9, show (440 : Nat) = 64 + 376 from rfl, crc_zeros_step _ h10,
      show (376 : Nat) = 64 + 312 from rfl, crc_zeros_step _ h11, show (312 : Nat) = 64 + 248 from rfl, crc_zeros_step _ h12,
      show (248 : Nat) = 64 + 184 from rfl, crc_zeros_step _ h13, show (184 : Nat) = 64 + 120 from rfl, crc_zeros_step _ h14,
      show (120 : Nat) = 64 + 56 from rfl, crc_zeros_step _ h15]
    decide +kernel
  rw [show (1032 : Nat) = 8 + (1016 + 8) from rfl, memRead_add, memRead_add, show 0x30_0100 + 8 = 0x30_0108 from rfl, hz,
    show 0x30_0108 + 1016 = 0x30_0500 from rfl, crc32c, crcReflBytes_append, crcReflBytes_append,
    show crcReflBytes 0x82F63B78 0xFFFFFFFF (memRead imageMem 0x30_0100 8) = 0xA4359448 by decide +kernel, hs]
  decide +kernel

/-- The image of slot 2, its section table read. -/
def imageG : Img :=
  { mem := imageMem, base := 0x30_0000, len := 1728
    secs := [⟨1, 0, 256, 1032, 2155083554⟩, ⟨2, 0, 1344, 32, 327399057⟩, ⟨3, 0, 1408, 16, 1197430807⟩, ⟨5, 0, 1472, 32, 145449972⟩,
      ⟨6, 0, 1536, 128, 136799451⟩, ⟨8, 0, 1664, 16, 2954566121⟩] }

/-- The Movement of that image. -/
def imageM : Movement :=
  { grade := 16, clusterMask := 1, stepBudget := 4, layerCount := 1, stepCycles := 1600, ringSize := 1, stopInterval := 1
    blockWait := [0, 0, 0, 0, 0], tracks := [(0, [{ start := 0, tile := 0, last := true }])]
    tiles := [{ codeOff := 0, codeLen := 1, ceiling := 10, claim := 0, layer := 255, rvWindow := 0, cost := 500, mask := 1 }]
    stops := [{ cycle := 1600, stopId := 1, manifest := 65535, swing := false, stepEnd := true }]
    claims := [{ hbmLines := 100, perPc := 10, sBytes := [0, 0, 0, 0, 0, 0, 0, 0], loaderMask := 0 }]
    layers := [{ }], code := [1329227995784915872903807060280344576] }

theorem image_read : slotImage installable 2 = imageG := by
  show readImg imageMem 0x30_0000 = imageG
  have h : (readImg imageMem 0x30_0000).len = imageG.len ∧ (readImg imageMem 0x30_0000).secs = imageG.secs := by decide +kernel
  exact congr (congrArg (Img.mk imageMem 0x30_0000) h.1) h.2

/-- Every TP but TP 0 has an empty track. -/
theorem track_none (t : Nat) (h1 : 1 ≤ t) (h2 : t ≤ 127) : trackIx imageG t = (0, 0) := by
  have hm : ∀ x ∈ imageMem, x.1 < 0x30_0108 ∨ 0x30_0500 ≤ x.1 := by decide +kernel
  have hr : recNat imageG 1 8 t = 0 := by
    show leNat (memRead imageMem (0x30_0000 + (256 + 8 * t)) 8) = 0
    rw [memRead_zeros _ _ _ fun x hx => by have := hm x hx; omega]
    rfl
  simp [trackIx, hr, bits]

theorem track_empty (t : Nat) (h1 : 1 ≤ t) (h2 : t ≤ 127) : trackNats imageG t = [] := by
  simp [trackNats, track_none t h1 h2, upFrom]

theorem upFrom_mem (n : Nat) : ∀ a t, t ∈ upFrom a n → a ≤ t ∧ t < a + n := by
  induction n with
  | zero => intro a t h; simp [upFrom] at h
  | succ n ih =>
    intro a t h
    simp only [upFrom, List.mem_cons] at h
    obtain rfl | h := h
    · omega
    · have := ih _ _ h; omega

theorem movement_read : movementOf imageG = imageM := by
  have ht : ((upFrom 0 128).map fun t => (t, (trackNats imageG t).map trackOf)).filter (fun x => !x.2.isEmpty) = imageM.tracks := by
    have : ((upFrom 0 128).map fun t => (t, (trackNats imageG t).map trackOf)) = (0, (trackNats imageG 0).map trackOf) :: (upFrom 1 127).map fun t => (t, []) := by
      show (0, _) :: (upFrom 1 127).map (fun t => (t, (trackNats imageG t).map trackOf)) = _
      refine congrArg _ (List.map_congr_left fun t ht => ?_)
      have := upFrom_mem _ _ _ ht
      rw [track_empty t (by omega) (by omega)]
      rfl
    rw [this]
    decide +kernel
  unfold movementOf
  rw [ht]
  decide +kernel

theorem tracks_accepted : admSection imageG ⟨1, 0, 256, 1032, 2155083554⟩ = true := by
  have hc : ((2155083554 : Nat) == crc32c (memRead imageG.mem (imageG.base + 256) 1032)) = true := by
    show ((2155083554 : Nat) == crc32c (memRead imageMem 0x30_0100 1032)) = true
    rw [tracks_crc]
    rfl
  unfold admSection
  simp only [Bool.and_eq_true]
  exact ⟨⟨⟨⟨by decide +kernel, by decide +kernel⟩, hc⟩, by decide +kernel⟩, by decide +kernel⟩

theorem refs_accepted : admRefs imageG imageM = true := by
  unfold admRefs
  simp only [Bool.and_eq_true]
  refine ⟨⟨⟨⟨by decide +kernel, ?_⟩, by decide +kernel⟩, by decide +kernel⟩, by decide +kernel⟩
  refine List.all_eq_true.mpr fun t ht => ?_
  have := upFrom_mem _ _ _ ht
  rcases Nat.eq_zero_or_pos t with rfl | h
  · decide +kernel
  · rw [track_none t h (by omega)]
    rfl

theorem sections_accepted : admSections imageG imageM = true := by
  unfold admSections
  simp only [Bool.and_eq_true]
  refine ⟨⟨⟨⟨⟨by decide +kernel, by decide +kernel⟩, by decide +kernel⟩, ?_⟩, by decide +kernel⟩, refs_accepted⟩
  simp only [imageG, List.all_cons, List.all_nil, Bool.and_eq_true]
  exact ⟨tracks_accepted, by decide +kernel, by decide +kernel, by decide +kernel, by decide +kernel, by decide +kernel, trivial⟩

theorem image_checks :
    admMagic imageG = true ∧ (imgNat imageG 4 1 != 1) = false ∧ (imgNat imageG 5 1 != (if gradeOf installable = 16 then 0x10 else 0x0C)) = false ∧
    admRanges installable imageM = true ∧ admCeilings installable imageM = true ∧
    ¬ cfgVal installable 0x0703 < imageM.stopInterval ∧ admTracks installable imageM = true ∧
    admClaims installable 2 (jobPart (getJob installable 2)) imageM = true ∧ admManifests imageG imageM = true ∧
    admLayers imageG imageM = true ∧ admGroups imageG imageM = true ∧ admCombines imageG imageM = true ∧
    admColls installable imageG imageM = true ∧ admWaits installable 2 (jobPart (getJob installable 2)) imageM = true := by
  decide +kernel

theorem image_reserved : admReserved imageG = true := by
  have h : ((upFrom 0 128).all fun t => (trackNats imageG t).all fun v => bits v 1 11 == 0) = true := by
    refine List.all_eq_true.mpr fun t ht => ?_
    have := upFrom_mem _ _ _ ht
    rcases Nat.eq_zero_or_pos t with rfl | h
    · decide +kernel
    · rw [track_empty t h (by omega)]
      rfl
  unfold admReserved
  rw [h]
  decide +kernel

theorem image_admitted : admission installable 2 (jobPart (getJob installable 2)) imageG = 0 := by
  obtain ⟨h1, h2, h3, h5, h6, h7, h8, h9, h10, h11, h12, h13, h14, h15⟩ := image_checks
  simp only [admission, movement_read, h1, h2, h3, sections_accepted, h5, h6, h7, h8, h9, h10, h11, h12, h13, h14, h15, image_reserved,
    Bool.not_true, Bool.false_eq_true, if_false]

/-- Slot 2 passes every check of INSTALL. -/
theorem install_accepted : installStatus 2 installable = 0 := by
  have h : ((getJob installable 2).state != 0) = false ∧ badFields installable (getJob installable 2) = false ∧
      badMovement installable (getJob installable 2) imageM = false ∧
      rangeConflict installable 2 (getJob installable 2) imageM = false ∧ modeConflict installable (getJob installable 2) imageM = false := by
    decide +kernel
  simp only [installStatus, image_read, movement_read, image_admitted, h.1, h.2.1, h.2.2.1, h.2.2.2.1, h.2.2.2.2, Bool.false_eq_true, if_false,
    bne_self_eq_false]

end Sys2Proof.Tests
end

section
/-! PROOFS. The fuses (R319, R360): each operation of the model leaves the OTP as it is, and OTP_PROG burns one byte. -/

namespace Sys2Proof.Machine

/-! ### Choices, folds and answers

One frame lemma for each operation follows, in the order of the model's files. A lemma unfolds its own operation; its simp set
holds the lemmas of those that the operation calls. -/

@[simp] theorem ite_otp (c : Prop) [Decidable c] (s t : State) : (if c then s else t).otp = if c then s.otp else t.otp :=
  apply_ite State.otp c s t

/-- A fold whose step leaves the fuses leaves them. -/
@[simp] theorem foldl_otp {α : Type} (g : State → α → State) (xs : List α) (s : State) (h : ∀ s x, (g s x).otp = s.otp) :
    (xs.foldl g s).otp = s.otp := by
  induction xs generalizing s with
  | nil => rfl
  | cons x xs ih => rw [List.foldl_cons, ih, h]

/-- An answer leaves the fuses of `s` as they are. -/
def KeepsOtp (s : State) (o : Out) : Prop := ∀ t, o = .next t → t.otp = s.otp

@[simp] theorem keepsOtp_run (f : State → State) (s : State) : KeepsOtp s (run f s) ↔ (f s).otp = s.otp := by
  simp [KeepsOtp, run_answers]

@[simp] theorem keepsOtp_runCtl (f : State → State) (s : State) : KeepsOtp s (runCtl f s) ↔ (f s).otp = s.otp := by
  simp [KeepsOtp, runCtl_answers]

/-- The effect taken as an equation between states: the kernel then never compares `.otp` of two forms of it, for which it would
evaluate the effect's own choices on symbolic times. -/
theorem keepsOtp_runCtl_of {f : State → State} {s : State} (h : ∀ u, f s = u → u.otp = s.otp) : KeepsOtp s (runCtl f s) :=
  (keepsOtp_runCtl f s).2 (h _ rfl)

/-- A state whose Escapement changes, stated for any state, so that a use does not evaluate the one at hand. -/
theorem withEsc_otp {u s : State} (e : Esc) (h : u.otp = s.otp) : { u with esc := e }.otp = s.otp := h

/-! ### Ops -/

@[simp] theorem advanceOpt_otp (t : Option Nat) (s : State) : (advanceOpt t s).otp = s.otp := by
  unfold advanceOpt
  split <;> simp

@[simp] theorem passNs_otp (d : Nat) (s : State) : (passNs d s).otp = s.otp := by simp [passNs]
@[simp] theorem passUp_otp (t : Nat) (s : State) : (passUp t s).otp = s.otp := by simp [passUp]

@[simp] theorem unheld_otp (f : State → State) (s : State) (h : ∀ s, (f s).otp = s.otp) : (unheld f s).otp = s.otp := by
  simp [unheld, h]

@[simp] theorem onEsc_otp (f : State → State) (s : State) (h : ∀ s, (f s).otp = s.otp) : (onEsc f s).otp = s.otp := by
  simp [onEsc, h]

@[simp] theorem putMemNat_otp (a n v : Nat) (s : State) : (putMemNat a n v s).otp = s.otp := by simp [putMemNat]
@[simp] theorem storeMem_otp (a : Nat) (bs : List Byte) (s : State) : (storeMem a bs s).otp = s.otp := by simp [storeMem]
@[simp] theorem eccEvent_otp (sev a reader : Nat) (s : State) : (eccEvent sev a reader s).otp = s.otp := by simp [eccEvent]

/-! ### LinkOps -/

@[simp] theorem enqueue_otp (n : Nat) (t : TxFrame) (s : State) : (enqueue n t s).otp = s.otp := by simp [enqueue]

@[simp] theorem frameDiscard_otp (n reason : Nat) (f : Frame) (s : State) : (frameDiscard n reason f s).otp = s.otp := by
  simp [frameDiscard]

@[simp] theorem sendVia_otp (rt : Table Nat) (f : Frame) (s : State) : (sendVia rt f s).otp = s.otp := by
  unfold sendVia
  split <;> simp

@[simp] theorem sendRouted_otp (f : Frame) (s : State) : (sendRouted f s).otp = s.otp := by simp [sendRouted]

@[simp] theorem sendU_otp (kind dst arg : Nat) (payload : List Byte) (s : State) :
    (sendU kind dst arg payload s).otp = s.otp := by
  simp [sendU]

@[simp] theorem sendUOn_otp (n kind arg : Nat) (s : State) : (sendUOn n kind arg s).otp = s.otp := by simp [sendUOn]

@[simp] theorem answerOn_otp (n kind arg asked : Nat) (s : State) : (answerOn n kind arg asked s).otp = s.otp := by
  simp [answerOn]

@[simp] theorem sendB_otp (kind dst arg tag : Nat) (payload : List Byte) (s : State) :
    (sendB kind dst arg tag payload s).otp = s.otp := by
  simp [sendB]

@[simp] theorem checkRemap_otp (s : State) : (checkRemap s).otp = s.otp := by simp [checkRemap]
@[simp] theorem takeAck_otp (n ack : Nat) (s : State) : (takeAck n ack s).otp = s.otp := by simp [takeAck]
@[simp] theorem addCredits_otp (n u c b : Nat) (s : State) : (addCredits n u c b s).otp = s.otp := by simp [addCredits]

@[simp] theorem trailerCredits_otp (n : Nat) (f : Frame) (s : State) : (trailerCredits n f s).otp = s.otp := by
  simp [trailerCredits]

@[simp] theorem oweCredits_otp (n : Nat) (f : Frame) (s : State) : (oweCredits n f s).otp = s.otp := by simp [oweCredits]

@[simp] theorem freeFrames_otp (ts : List TxFrame) (s : State) : (freeFrames ts s).otp = s.otp :=
  foldl_otp _ _ _ fun s t => by split <;> simp

@[simp] theorem noteDropped_otp (fs : List Frame) (s : State) : (noteDropped fs s).otp = s.otp := by simp [noteDropped]
@[simp] theorem linkError_otp (n : Nat) (s : State) : (linkError n s).otp = s.otp := by simp [linkError]
@[simp] theorem oweNak_otp (n : Nat) (s : State) : (oweNak n s).otp = s.otp := by simp [oweNak]

@[simp] theorem setLinkState_otp (n : Nat) (x : LinkState) (s : State) : (setLinkState n x s).otp = s.otp := by
  simp [setLinkState]

@[simp] theorem moveToAlternates_otp (n : Nat) (s : State) : (moveToAlternates n s).otp = s.otp :=
  foldl_otp _ _ _ fun s t => by split <;> simp

@[simp] theorem beginFast_otp (n : Nat) (own : Bool) (s : State) : (beginFast n own s).otp = s.otp := by simp [beginFast]
@[simp] theorem enterTrain_otp (n : Nat) (own : Bool) (s : State) : (enterTrain n own s).otp = s.otp := by simp [enterTrain]
@[simp] theorem beginTrain_otp (n : Nat) (own : Bool) (s : State) : (beginTrain n own s).otp = s.otp := by simp [beginTrain]
@[simp] theorem quiet_otp (n : Nat) (s : State) : (quiet n s).otp = s.otp := by simp [quiet]
@[simp] theorem linkOff_otp (n : Nat) (s : State) : (linkOff n s).otp = s.otp := by simp [linkOff]

@[simp] theorem linkFailed_otp (n stepNo : Nat) (s : State) : (linkFailed n stepNo s).otp = s.otp := by
  simp only [linkFailed, setLinkState_otp, post_otp, modLink_otp, noteDropped_otp, freeFrames_otp]
  exact foldl_otp _ _ _ fun s f => by split <;> simp

@[simp] theorem acceptSeq_otp (n : Nat) (f : Frame) (s : State) : (acceptSeq n f s).otp = s.otp := by simp [acceptSeq]

@[simp] theorem deliver_otp (n : Nat) (f : Frame) (d : State → State) (s : State) (h : ∀ s, (d s).otp = s.otp) :
    (deliver n f d s).otp = s.otp := by
  simp [deliver, h]

@[simp] theorem forward_otp (n : Nat) (f : Frame) (s : State) : (forward n f s).otp = s.otp := by
  unfold forward
  (repeat' split) <;> simp

@[simp] theorem countSymbols_otp (n k : Nat) (s : State) : (countSymbols n k s).otp = s.otp := by simp [countSymbols]
@[simp] theorem openGap_otp (n : Nat) (s : State) : (openGap n s).otp = s.otp := by simp [openGap]

@[simp] theorem receive_otp (l : Fin 8) (f : Frame) (kind : Nat) (d : State → State) (s : State)
    (h : ∀ s, (d s).otp = s.otp) : (receive l f kind d s).otp = s.otp := by
  simp [receive, h]

/-! ### Operands -/

@[simp] theorem writeNum_otp (t i : Nat) (o : BitVec 10) (v : Nat) (s : State) : (writeNum t i o v s).otp = s.otp := by
  simp [writeNum]

/-! ### VatOps -/

@[simp] theorem noteVat_otp (s : State) (a : VatAcc) : (noteVat s a).otp = s.otp := by simp [noteVat]
@[simp] theorem enterVat_otp (a : VatAcc) (s : State) : (enterVat a s).otp = s.otp := by simp [enterVat]

@[simp] theorem serveLine_otp (a : VatAcc) (s : State) : (serveLine a s).otp = s.otp := by
  unfold serveLine
  split <;> simp

/-- Each round serves one line of the Vats. -/
@[simp] theorem serveVat_otp (ok : VatAcc → Bool) (k : Nat) (s : State) : (serveVat ok k s).otp = s.otp := by
  induction k generalizing s with
  | zero => rfl
  | succ k ih =>
    rw [serveVat]
    split
    · rfl
    · rw [ih, serveLine_otp]

@[simp] theorem serveTo_otp (cycle : Nat) (s : State) : (serveTo cycle s).otp = s.otp := by simp [serveTo]
@[simp] theorem serveJob_otp (j : Nat) (s : State) : (serveJob j s).otp = s.otp := by simp [serveJob]
@[simp] theorem serveAll_otp (s : State) : (serveAll s).otp = s.otp := by simp [serveAll]

/-! ### JobOps -/

@[simp] theorem chargeQty_otp (j q : Nat) (add : Nat → Account → Account) (s : State) : (chargeQty j q add s).otp = s.otp :=
  foldl_otp _ _ _ fun _ _ => rfl

@[simp] theorem chargeEngine_otp (j x : Nat) (s : State) : (chargeEngine j x s).otp = s.otp := by simp [chargeEngine]

@[simp] theorem chargeStep_otp (j : Nat) (committed : Bool) (s : State) : (chargeStep j committed s).otp = s.otp := by
  have pre (as : List Nat) (n : Nat) (t : State) : (as.foldl (fun s a => modAcct a (addPre n) s) t).otp = t.otp :=
    foldl_otp _ _ _ fun _ _ => rfl
  simp only [chargeStep]
  (repeat' split) <;> simp [pre]

@[simp] theorem countPre_otp (j : Nat) (s : State) : (countPre j s).otp = s.otp := by simp [countPre]
@[simp] theorem telBound_otp (p : Nat) (s : State) : (telBound p s).otp = s.otp := by simp [telBound]

@[simp] theorem makeReady_otp (j : Nat) (raise : Bool) (s : State) : (makeReady j raise s).otp = s.otp := by
  simp [makeReady]

@[simp] theorem makeRunning_otp (j : Nat) (s : State) : (makeRunning j s).otp = s.otp := by simp [makeRunning]

@[simp] theorem grantUnits_otp (k : Nat) (s : State) : (grantUnits k s).otp = s.otp := by
  induction k generalizing s with
  | zero => rfl
  | succ k ih =>
    simp only [grantUnits]
    split
    · split
      · rw [ih, modJob_otp, makeRunning_otp]
      · rfl
    · rfl

@[simp] theorem askUnit_otp (j : Nat) (s : State) : (askUnit j s).otp = s.otp := by simp [askUnit]

@[simp] theorem freeMatrix_otp (ts : List Nat) (s : State) : (freeMatrix ts s).otp = s.otp :=
  foldl_otp _ _ _ fun s t => by rw [skipFree_otp, putMem_otp]

@[simp] theorem haltJob_otp (j : Nat) (s : State) : (haltJob j s).otp = s.otp := by simp [haltJob]
@[simp] theorem dropWork_otp (j : Nat) (s : State) : (dropWork j s).otp = s.otp := by simp [dropWork]
@[simp] theorem abandonCulture_otp (j : Nat) (s : State) : (abandonCulture j s).otp = s.otp := by simp [abandonCulture]

@[simp] theorem releaseLocks_otp (p : Nat) (replay : Bool) (s : State) : (releaseLocks p replay s).otp = s.otp := by
  simp [releaseLocks]

@[simp] theorem beginRun_otp (p j : Nat) (s : State) : (beginRun p j s).otp = s.otp := by simp [beginRun]
@[simp] theorem zeroTps_otp (mask : Nat) (s : State) : (zeroTps mask s).otp = s.otp := by simp [zeroTps]

@[simp] theorem switchEvent_otp (p : Nat) (out inc : Option Nat) (saved restored : Nat) (s : State) :
    (switchEvent p out inc saved restored s).otp = s.otp := by
  simp [switchEvent]

@[simp] theorem bringIn_otp (p : Nat) (out inc : Option Nat) (lines : Nat) (due : Option Nat) (s : State) :
    (bringIn p out inc lines due s).otp = s.otp := by
  unfold bringIn
  (repeat' split) <;> simp

@[simp] theorem startNext_otp (p : Nat) (out : Option Nat) (s : State) : (startNext p out s).otp = s.otp := by
  unfold startNext
  (repeat' split) <;> simp

@[simp] theorem chargeAttempt_otp (j : Nat) (s : State) : (chargeAttempt j s).otp = s.otp := by simp [chargeAttempt]
@[simp] theorem ringSwing_otp (p : Nat) (x : Job) (s : State) : (ringSwing p x s).otp = s.otp := by simp [ringSwing]
@[simp] theorem ringNext_otp (p j : Nat) (x : Job) (s : State) : (ringNext p j x s).otp = s.otp := by simp [ringNext]

@[simp] theorem overrunEvent_otp (t tile len slip : Nat) (faulted : Bool) (s : State) :
    (overrunEvent t tile len slip faulted s).otp = s.otp := by
  simp [overrunEvent]

@[simp] theorem instrFaultEvent_otp (t thr off reason : Nat) (s : State) :
    (instrFaultEvent t thr off reason s).otp = s.otp := by
  simp [instrFaultEvent]

@[simp] theorem accessFaultEvent_otp (t thr g reason : Nat) (s : State) :
    (accessFaultEvent t thr g reason s).otp = s.otp := by
  simp [accessFaultEvent]

@[simp] theorem reportOverruns_otp (j : Nat) (s : State) : (reportOverruns j s).otp = s.otp :=
  foldl_otp _ _ _ fun s x => by (repeat' split) <;> simp

@[simp] theorem clearDigests_otp (s : State) : (clearDigests s).otp = s.otp := by simp [clearDigests]
@[simp] theorem endAttempts_otp (s : State) : (endAttempts s).otp = s.otp := by simp [endAttempts]
@[simp] theorem faultJob_otp (j : Nat) (s : State) : (faultJob j s).otp = s.otp := by simp [faultJob]
@[simp] theorem holdRing_otp (p : Nat) (s : State) : (holdRing p s).otp = s.otp := by simp [holdRing]
@[simp] theorem freeRing_otp (p : Nat) (s : State) : (freeRing p s).otp = s.otp := by simp [freeRing]
@[simp] theorem failColl_otp (j prog : Nat) (s : State) : (failColl j prog s).otp = s.otp := by simp [failColl]

@[simp] theorem failAllColls_otp (s : State) : (failAllColls s).otp = s.otp := by
  unfold failAllColls
  (repeat' split) <;> simp

@[simp] theorem sendNotice_otp (chip arg : Nat) (s : State) : (sendNotice chip arg s).otp = s.otp := by
  unfold sendNotice
  split <;> simp

@[simp] theorem fenceChip_otp (x reason hops origin : Nat) (from_ : Option Nat) (s : State) :
    (fenceChip x reason hops origin from_ s).otp = s.otp := by
  simp [fenceChip]

@[simp] theorem selfFence_otp (reason : Nat) (s : State) : (selfFence reason s).otp = s.otp := by
  unfold selfFence
  dsimp only
  (repeat' split) <;> simp

@[simp] theorem chipClass_otp (table addr : Nat) (s : State) : (chipClass table addr s).otp = s.otp := by simp [chipClass]

@[simp] theorem onTable_otp (k : Nat) (f : State → State) (s : State) (h : ∀ s, (f s).otp = s.otp) :
    (onTable k f s).otp = s.otp := by
  simp [onTable, h]

/-! ### Issue -/

@[simp] theorem faultTile_otp (t slot tile len slip : Nat) (s : State) :
    (faultTile t slot tile len slip s).otp = s.otp := by
  simp [faultTile]

@[simp] theorem faultOverrun_otp (c : TileCtx) (s : State) : (faultOverrun c s).otp = s.otp := by simp [faultOverrun]

@[simp] theorem raiseSlip_otp (slot base len : Nat) (s : State) : (raiseSlip slot base len s).otp = s.otp := by
  simp [raiseSlip]

@[simp] theorem writeIndex_otp (t : Nat) (n : Nest) (s : State) : (writeIndex t n s).otp = s.otp := by
  unfold writeIndex
  split <;> simp

@[simp] theorem loopLimit_otp (t : Nat) (n : Nest) (s : State) : (loopLimit t n s).otp = s.otp := by simp [loopLimit]

@[simp] theorem closeNests_otp (t k : Nat) (s : State) : (closeNests t k s).otp = s.otp := by
  induction k generalizing s with
  | zero => rfl
  | succ k ih =>
    simp only [closeNests]
    split
    · rfl
    · simp [ih]

@[simp] theorem retire_otp (t cy : Nat) (s : State) : (retire t cy s).otp = s.otp := by simp [retire]

@[simp] theorem deferLines_otp (slot : Nat) (late : List (Nat × Nat)) (s : State) : (deferLines slot late s).otp = s.otp :=
  foldl_otp _ _ _ fun _ _ => rfl

@[simp] theorem addDeferred_otp (r : HbmReq) (s : State) : (addDeferred r s).otp = s.otp := by simp [addDeferred]

@[simp] theorem chargeHbm_otp (c : TileCtx) (a n least : Nat) (keys : List Nat) (store : Bool) (s : State) :
    (chargeHbm c a n least keys store s).otp = s.otp := by
  simp [chargeHbm]

@[simp] theorem failIssue_otp (c : TileCtx) (f : TField) (r : Nat) (acc : Nat × Nat) (halts : Bool) (s : State) :
    (failIssue c f r acc halts s).otp = s.otp := by
  simp [failIssue]

@[simp] theorem failEcc_otp (c : TileCtx) (a n : Nat) (s : State) : (failEcc c a n s).otp = s.otp := by simp [failEcc]
@[simp] theorem runOff_otp (c : TileCtx) (s : State) : (runOff c s).otp = s.otp := by simp [runOff]

@[simp] theorem passCeiling_otp (c : TileCtx) (cy : Nat) (s : State) : (passCeiling c cy s).otp = s.otp := by
  simp [passCeiling]

@[simp] theorem stall_otp (t : Nat) (f : TField) (s : State) : (stall t f s).otp = s.otp := by simp [stall]

/-- Making the operands of an instruction ready serves the Vats alone. -/
theorem readied_otp (o : OpSpec) (c : TileCtx) (f : TField) (s : State) (cy : Nat) (t : State)
    (h : readied o c f s = some (cy, t)) : t.otp = s.otp := by
  simp only [readied] at h
  split at h
  · cases h
  · split at h
    · cases h
    · cases h
      simp

/-- The issue of an instruction leaves the fuses where its act does. -/
@[simp] theorem issue_otp (o : OpSpec) (t : Fin 128) (f : TField) (act : TileCtx → Nat → State → State) (s : State)
    (h : ∀ c cy s, (act c cy s).otp = s.otp) : (issue o t f act s).otp = s.otp := by
  simp only [issue]
  split
  · rfl
  · split
    · simp
    · split
      · simp
      · split
        · simp
        · next hr =>
          have hs := readied_otp _ _ _ _ _ _ hr
          simp [h, hs]

@[simp] theorem result_otp (o : OpSpec) (f : TField) (lat : Nat) (v : TileCtx → State → Nat) (c : TileCtx) (cy : Nat)
    (s : State) : (result o f lat v c cy s).otp = s.otp := by
  simp [result]

/-! ### RingOps -/

@[simp] theorem takeView_otp (p : Nat) (s : State) : (takeView p s).otp = s.otp := by simp [takeView]

@[simp] theorem sendColl_otp (p prog dir stage off : Nat) (data : List Byte) (s : State) :
    (sendColl p prog dir stage off data s).otp = s.otp := by
  unfold sendColl
  split <;> simp

@[simp] theorem sendHalf_otp (p prog dir stage addr n : Nat) (s : State) :
    (sendHalf p prog dir stage addr n s).otp = s.otp := by
  simp [sendHalf]

@[simp] theorem startColl_otp (p prog : Nat) (m : Movement) (c : Coll) (s : State) :
    (startColl p prog m c s).otp = s.otp := by
  simp [startColl]

@[simp] theorem passColl_otp (j prog : Nat) (m : Movement) (c : Coll) (s : State) (f : Frame) :
    (passColl j prog m c s f).otp = s.otp := by
  simp [passColl]

@[simp] theorem landColl_otp (j prog : Nat) (m : Movement) (c : Coll) (f : Frame) (s : State) :
    (landColl j prog m c f s).otp = s.otp := by
  simp [landColl]

@[simp] theorem takeColl_otp (j prog : Nat) (m : Movement) (c : Coll) (f : Frame) (s : State) :
    (takeColl j prog m c f s).otp = s.otp := by
  simp [takeColl]

@[simp] theorem enterColl_otp (j prog : Nat) (m : Movement) (c : Coll) (s : State) :
    (enterColl j prog m c s).otp = s.otp := by
  simp [enterColl]

@[simp] theorem routed_otp (l : Fin 8) (f : Frame) (kind : Nat) (d : State → State) (s : State) (h : ∀ s, (d s).otp = s.otp) :
    (routed l f kind d s).otp = s.otp := by
  simp [routed, h]

/-! ### Control -/

@[simp] theorem endTile_otp (c : TileCtx) (cy : Nat) (s : State) : (endTile c cy s).otp = s.otp := by simp [endTile]

@[simp] theorem execBrk_keepsOtp (t : Fin 128) (f : TField) (s : State) : KeepsOtp s (execBrk t f s) := by
  rw [execBrk, keepsOtp_run]
  refine issue_otp _ _ _ _ _ fun c cy s => ?_
  split
  · simp
  · split <;> simp

@[simp] theorem resume_otp (t thr cy : Nat) (s : State) : (resume t thr cy s).otp = s.otp := by
  unfold resume
  dsimp only
  (repeat' split) <;> simp

@[simp] theorem csyncRelease_otp (j id : Nat) (s : State) : (csyncRelease j id s).otp = s.otp := by simp [csyncRelease]

/-! ### Separator -/

@[simp] theorem queueBalance_otp (entry : List Byte) (s : State) : (queueBalance entry s).otp = s.otp := by
  simp [queueBalance]

@[simp] theorem writeRows_otp (out : Lay) (rows : List (List Nat)) (s : State) : (writeRows out rows s).otp = s.otp := by
  simp [writeRows]

/-! ### Culture -/

@[simp] theorem culUpdate_otp (slot layer n attempt : Nat) (d : LayerDesc) (h : SepHdr) (s : State) :
    (culUpdate slot layer n attempt d h s).1.otp = s.otp := by
  simp [culUpdate, apply_ite Prod.fst]

@[simp] theorem commitLayer_otp (d : LayerDesc) (a n attempt : Nat) (g : CulProg) (s : State) :
    (commitLayer d a n attempt g s).otp = s.otp := by
  simp [commitLayer]

@[simp] theorem commitCulture_otp (slot n attempt : Nat) (s : State) : (commitCulture slot n attempt s).otp = s.otp := by
  simp [commitCulture]

/-! ### BlockIssue -/

@[simp] theorem setQueue_otp (k : Nat) (q : List BlockOp) (s : State) : (setQueue k q s).otp = s.otp := by simp [setQueue]
@[simp] theorem popOp_otp (k : Nat) (s : State) : (popOp k s).otp = s.otp := by simp [popOp]

@[simp] theorem landStatus_otp (slot tp tile : Nat) (dst : Option Nat) (count code cy : Nat) (s : State) :
    (landStatus slot tp tile dst count code cy s).otp = s.otp := by
  unfold landStatus
  split <;> simp

@[simp] theorem landOp_otp (o : BlockOp) (count code : Nat) (s : State) : (landOp o count code s).otp = s.otp := by
  simp [landOp]

@[simp] theorem issueOp_otp (k layer first count cost : Nat) (tps : List Nat) (f : TField) (c : TileCtx) (cy : Nat)
    (s : State) : (issueOp k layer first count cost tps f c cy s).otp = s.otp := by
  simp [issueOp]

@[simp] theorem rejectOp_otp (src code status : Nat) (payload : List Byte) (f : TField) (c : TileCtx) (cy : Nat) (s : State) :
    (rejectOp src code status payload f c cy s).otp = s.otp := by
  simp [rejectOp]

@[simp] theorem lineReads_otp (slot reader : Nat) (reads : Nat → Bool) (act : State → State) (s : State)
    (h : ∀ s, (act s).otp = s.otp) : (lineReads slot reader reads act s).otp = s.otp := by
  unfold lineReads
  split <;> simp [h]

@[simp] theorem blockReads_otp (slot reader : Nat) (rs : List (Nat × Nat)) (ls : List Lay) (act : State → State) (s : State)
    (h : ∀ s, (act s).otp = s.otp) : (blockReads slot reader rs ls act s).otp = s.otp := by
  simp [blockReads, h]

@[simp] theorem completeOp_otp (k : Nat) (act : BlockOp → State → State) (s : State) (h : ∀ o s, (act o s).otp = s.otp) :
    (completeOp k act s).otp = s.otp := by
  unfold completeOp
  split <;> simp [h]

@[simp] theorem selDone_otp (o : BlockOp) (s : State) : (selDone o s).otp = s.otp := by simp [selDone]
@[simp] theorem storeAll_otp (ws : List (Nat × List Byte)) (s : State) : (storeAll ws s).otp = s.otp := by simp [storeAll]

@[simp] theorem dspDone_otp (o : BlockOp) (s : State) : (dspDone o s).otp = s.otp := by
  unfold dspDone
  dsimp only
  (repeat' split) <;> simp

@[simp] theorem logLines_otp (base n k at_ : Nat) (bs : List Byte) (s : State) : (logLines base n k at_ bs s).otp = s.otp := by
  induction k generalizing at_ bs s with
  | zero => rfl
  | succ k ih => rw [logLines, ih, storeMem_otp]

@[simp] theorem execBalanceLogWrite_keepsOtp (s : State) : KeepsOtp s (execBalanceLogWrite s) := by
  simp only [execBalanceLogWrite, keepsOtp_run]
  split <;> simp

@[simp] theorem grwDone_otp (c : Nat) (o : BlockOp) (s : State) : (grwDone c o s).otp = s.otp := by
  refine blockReads_otp _ _ _ _ _ _ fun s => ?_
  simp only [landOp_otp, skipFree_otp, modRun_otp, freeMatrix_otp]
  exact foldl_otp _ _ _ fun s x => by split <;> simp

@[simp] theorem cmbDone_otp (o : BlockOp) (s : State) : (cmbDone o s).otp = s.otp := by
  unfold cmbDone
  dsimp only
  (repeat' split) <;> simp

@[simp] theorem culDone_otp (o : BlockOp) (s : State) : (culDone o s).otp = s.otp := by
  simp only [culDone]
  split
  · rfl
  · exact blockReads_otp _ _ _ _ _ _ fun s => by simp

@[simp] theorem setChannel_otp (ch : Nat) (o : Option LoadOp) (s : State) : (setChannel ch o s).otp = s.otp := by
  simp [setChannel]

@[simp] theorem feedChannel_otp (ch : Nat) (s : State) : (feedChannel ch s).otp = s.otp := by
  unfold feedChannel
  split <;> simp

@[simp] theorem holdLoad_otp (ch cy : Nat) (s : State) : (holdLoad ch cy s).otp = s.otp := by simp [holdLoad]
@[simp] theorem dropLate_otp (id : Nat) (s : State) : (dropLate id s).otp = s.otp := by simp [dropLate]

@[simp] theorem landLoad_otp (o : LoadOp) (count cy : Nat) (s : State) : (landLoad o count cy s).otp = s.otp := by
  simp [landLoad]

@[simp] theorem loadDone_otp (cy : Nat) (o : LoadOp) (s : State) : (loadDone cy o s).otp = s.otp := by simp [loadDone]

@[simp] theorem completeLoad_otp (ch : Nat) (reject : Bool) (act : Nat → LoadOp → State → State) (s : State)
    (h : ∀ n o s, (act n o s).otp = s.otp) : (completeLoad ch reject act s).otp = s.otp := by
  unfold completeLoad
  split <;> simp [h]

@[simp] theorem execBlockQueueStart_keepsOtp (b : BlockId) (s : State) : KeepsOtp s (execBlockQueueStart b s) := by
  simp only [execBlockQueueStart, keepsOtp_run]
  split <;> simp

/-! ### Ramp -/

@[simp] theorem sendRamp_otp (chip op epoch : Nat) (d : Dir) (id watts : Nat) (s : State) :
    (sendRamp chip op epoch d id watts s).otp = s.otp := by
  simp [sendRamp]

@[simp] theorem spend_otp (d : Dir) (x : Nat) (s : State) : (spend d x s).otp = s.otp := by simp [spend]

@[simp] theorem setReq_otp (d : Dir) (r : Option RampReq) (s : State) : (setReq d r s).otp = s.otp := by
  unfold setReq
  split <;> simp

@[simp] theorem takeLease_otp (d : Dir) (id watts g pool epoch : Nat) (s : State) :
    (takeLease d id watts g pool epoch s).otp = s.otp := by
  unfold takeLease
  (repeat' split) <;> simp

@[simp] theorem grantOne_otp (q : PoolReq) (w : Nat) (s : State) : (grantOne q w s).otp = s.otp := by simp [grantOne]

@[simp] theorem grantQueue_otp (k : Nat) (d : Dir) (s : State) : (grantQueue k d s).otp = s.otp := by
  induction k generalizing s with
  | zero => rfl
  | succ k ih =>
    simp only [grantQueue]
    split
    · rfl
    · split
      · rw [ih, grantOne_otp]
      · rfl

@[simp] theorem tellOne_otp (s : State) (q : PoolReq) : (tellOne s q).otp = s.otp := by
  unfold tellOne
  (repeat' split) <;> simp

@[simp] theorem tellQueued_otp (s : State) : (tellQueued s).otp = s.otp := by simp [tellQueued]
@[simp] theorem servePool_otp (d : Dir) (s : State) : (servePool d s).otp = s.otp := by simp [servePool]

@[simp] theorem joinQueue_otp (d : Dir) (chip id watts : Nat) (s : State) : (joinQueue d chip id watts s).otp = s.otp := by
  simp [joinQueue]

@[simp] theorem sendRequest_otp (d : Dir) (r : RampReq) (s : State) : (sendRequest d r s).otp = s.otp := by
  simp [sendRequest]

@[simp] theorem askCredits_otp (d : Dir) (x : Nat) (s : State) : (askCredits d x s).otp = s.otp := by
  unfold askCredits
  split <;> simp

@[simp] theorem returnLease_otp (d : Dir) (chip id : Nat) (s : State) : (returnLease d chip id s).otp = s.otp := by
  unfold returnLease
  split <;> simp

@[simp] theorem announceAll_otp (s : State) : (announceAll s).otp = s.otp := by simp [announceAll]
@[simp] theorem beginHandover_otp (s : State) : (beginHandover s).otp = s.otp := by simp [beginHandover]
@[simp] theorem hearEpoch_otp (e : Nat) (s : State) : (hearEpoch e s).otp = s.otp := by simp [hearEpoch]

@[simp] theorem takeAnnounce_otp (src e at_ : Nat) (s : State) : (takeAnnounce src e at_ s).otp = s.otp := by
  simp [takeAnnounce]

@[simp] theorem takeReport_otp (src watts : Nat) (s : State) : (takeReport src watts s).otp = s.otp := by simp [takeReport]

@[simp] theorem rampIn_otp (op : Nat) (f : Frame) (act : Nat → Dir → Nat → Nat → State → State) (s : State)
    (h : ∀ e d id w s, (act e d id w s).otp = s.otp) : (rampIn op f act s).otp = s.otp := by
  simp [rampIn, h]

@[simp] theorem execRampWindow_keepsOtp (s : State) : KeepsOtp s (execRampWindow s) := by
  refine keepsOtp_runCtl_of fun u hu => ?_
  split at hu
  · rw [hu]
  · simp [← hu]

@[simp] theorem execLeaseEnd_keepsOtp (d : Dir) (id : BitVec 12) (s : State) : KeepsOtp s (execLeaseEnd d id s) := by
  simp only [execLeaseEnd, keepsOtp_runCtl]
  split <;> simp

@[simp] theorem execReclaim_keepsOtp (d : Dir) (chip id : BitVec 12) (s : State) : KeepsOtp s (execReclaim d chip id s) := by
  refine keepsOtp_runCtl_of fun u hu => ?_
  split at hu
  · rw [hu]
  · rw [← hu, servePool_otp, post_otp, advanceTo_otp]

@[simp] theorem execQueued_keepsOtp (l : Fin 8) (fr : Frame) (s : State) : KeepsOtp s (execQueued l fr s) := by
  rw [execQueued, keepsOtp_runCtl]
  refine receive_otp _ _ _ _ _ fun s => rampIn_otp _ _ _ _ fun _ d id _ t => ?_
  split <;> simp

@[simp] theorem execBackupTakeover_keepsOtp (s : State) : KeepsOtp s (execBackupTakeover s) := by
  refine keepsOtp_runCtl_of fun u hu => ?_
  dsimp only at hu
  split at hu
  · rw [← hu, beginHandover_otp, post_otp, advanceTo_otp]
  · rw [hu]

@[simp] theorem execRequestResend_keepsOtp (d : Dir) (s : State) : KeepsOtp s (execRequestResend d s) := by
  simp only [execRequestResend, keepsOtp_runCtl]
  split <;> simp

/-! ### StreamOps -/

@[simp] theorem complete_otp (p : Nat) (c : Compl) (s : State) : (complete p c s).otp = s.otp := by
  simp only [complete]
  split
  · split <;> rfl
  · rw [modStm_otp]

@[simp] theorem complIrq_otp (p : Nat) (before : State) (s : State) : (complIrq p before s).otp = s.otp := by
  simp [complIrq]

@[simp] theorem subEffect_otp (p : Nat) (e : SubEntry) (s : State) : (subEffect p e s).otp = s.otp := by
  unfold subEffect
  split <;> simp

@[simp] theorem applySub_otp (p : Nat) (s : State) (z : SubEntry × Bool) : (applySub p s z).otp = s.otp := by
  simp [applySub]

@[simp] theorem applyDue_otp (p : Nat) (s : State) : (applyDue p s).otp = s.otp := by simp [applyDue]
@[simp] theorem lockRows_otp (p : Nat) (rows : List Row) (s : State) : (lockRows p rows s).otp = s.otp := by simp [lockRows]

@[simp] theorem commitStream_otp (p n budget : Nat) (rows : List (Row × Nat)) (s : State) (i : Nat) :
    (commitStream p n budget rows s i).otp = s.otp := by
  unfold commitStream
  dsimp only
  (repeat' split) <;> simp

@[simp] theorem endCancelled_otp (p n i : Nat) (s : State) : (endCancelled p n i s).otp = s.otp := by simp [endCancelled]

@[simp] theorem commitOne_otp (p n budget : Nat) (rows : List (Row × Nat)) (s : State) (i : Nat) :
    (commitOne p n budget rows s i).otp = s.otp := by
  simp [commitOne]

@[simp] theorem commitStreams_otp (p budget : Nat) (s : State) : (commitStreams p budget s).otp = s.otp := by
  unfold commitStreams
  dsimp only
  (repeat' split) <;> simp

@[simp] theorem abandonStep_otp (j : Nat) (s : State) : (abandonStep j s).otp = s.otp := by simp [abandonStep]

@[simp] theorem resetPart_otp (p : Nat) (s : State) : (resetPart p s).otp = s.otp := by
  unfold resetPart
  split <;> simp

/-! ### Sched -/

@[simp] theorem beginSave_otp (p j : Nat) (inc : Option Nat) (due : Option Nat) (s : State) :
    (beginSave p j inc due s).otp = s.otp := by
  simp [beginSave]

@[simp] theorem jobLeaves_otp (j : Nat) (s : State) : (jobLeaves j s).otp = s.otp := by simp [jobLeaves]

@[simp] theorem switchPoint_otp (p j n ix : Nat) (idle : Bool) (due : Option Nat) (s : State) :
    (switchPoint p j n ix idle due s).otp = s.otp := by
  unfold switchPoint
  split <;> simp

@[simp] theorem switchEcc_otp (cause : Nat) (src : List (Nat × Nat)) (s : State) : (switchEcc cause src s).otp = s.otp := by
  unfold switchEcc
  split <;> simp

@[simp] theorem switchFault_otp (p j which cause : Nat) (s : State) : (switchFault p j which cause s).otp = s.otp := by
  simp [switchFault]

@[simp] theorem spread_otp (rs : List (Nat × Nat)) (bs : List Byte) (s : State) : (spread rs bs s).otp = s.otp := by
  induction rs generalizing bs s with
  | nil => rfl
  | cons r rs ih => rw [spread, ih, storeMem_otp]

@[simp] theorem countSwitch_otp (j lines : Nat) (s : State) : (countSwitch j lines s).otp = s.otp := by simp [countSwitch]

@[simp] theorem saveDone_otp (p : Nat) (w : Switch) (j : Nat) (s : State) : (saveDone p w j s).otp = s.otp := by
  simp [saveDone]

@[simp] theorem execSaveComplete_keepsOtp (p : Fin 8) (s : State) : KeepsOtp s (execSaveComplete p s) := by
  simp only [execSaveComplete, keepsOtp_run]
  (repeat' split) <;> simp

@[simp] theorem restoreDone_otp (p : Nat) (w : Switch) (j : Nat) (s : State) : (restoreDone p w j s).otp = s.otp := by
  simp [restoreDone]

@[simp] theorem execRestoreComplete_keepsOtp (p : Fin 8) (s : State) : KeepsOtp s (execRestoreComplete p s) := by
  simp only [execRestoreComplete, keepsOtp_run]
  (repeat' split) <;> simp

@[simp] theorem execRingSwitch_keepsOtp (p : Fin 8) (s : State) : KeepsOtp s (execRingSwitch p s) := by
  simp only [execRingSwitch, keepsOtp_run]
  split <;> simp

@[simp] theorem jobStatus_otp (j cmd st : Nat) (s : State) : (jobStatus j cmd st s).otp = s.otp := by simp [jobStatus]
@[simp] theorem schIgnored_otp (j off : Nat) (s : State) : (schIgnored j off s).otp = s.otp := by simp [schIgnored]

@[simp] theorem jobCommand_otp (j cmd : Nat) (st : State → Nat) (act : State → State) (s : State)
    (h : ∀ s, (act s).otp = s.otp) : (jobCommand j cmd st act s).otp = s.otp := by
  simp [jobCommand, h]

@[simp] theorem offerJob_otp (j : Nat) (s : State) : (offerJob j s).otp = s.otp := by simp [offerJob]
@[simp] theorem rejectEvent_otp (j : Nat) (s : State) : (rejectEvent j s).otp = s.otp := by simp [rejectEvent]
@[simp] theorem installJob_otp (j : Nat) (s : State) : (installJob j s).otp = s.otp := by simp [installJob]
@[simp] theorem cmdInstall_otp (j : Nat) (s : State) : (cmdInstall j s).otp = s.otp := by simp [cmdInstall]
@[simp] theorem cmdStart_otp (j : Nat) (s : State) : (cmdStart j s).otp = s.otp := by simp [cmdStart]

@[simp] theorem cmdPreempt_otp (j : Nat) (s : State) : (cmdPreempt j s).otp = s.otp :=
  jobCommand_otp _ _ _ _ _ fun _ => rfl

@[simp] theorem endSwings_otp (p : Nat) (s : State) : (endSwings p s).otp = s.otp := by simp [endSwings]
@[simp] theorem cmdRemove_otp (j : Nat) (s : State) : (cmdRemove j s).otp = s.otp := by simp [cmdRemove]
@[simp] theorem zeroThreads_otp (thr : Nat) (s : State) : (zeroThreads thr s).otp = s.otp := by simp [zeroThreads]
@[simp] theorem cmdRestart_otp (j : Nat) (s : State) : (cmdRestart j s).otp = s.otp := by simp [cmdRestart]

@[simp] theorem execJobReady_keepsOtp (slot : Fin 64) (s : State) : KeepsOtp s (execJobReady slot s) := by
  simp only [execJobReady, keepsOtp_run]
  split <;> simp

/-! ### Streams -/

@[simp] theorem doorbellIgnored_otp (p idx head : Nat) (s : State) : (doorbellIgnored p idx head s).otp = s.otp := by
  simp [doorbellIgnored]

@[simp] theorem stmIgnored_otp (p off : Nat) (s : State) : (stmIgnored p off s).otp = s.otp := by simp [stmIgnored]
@[simp] theorem writeSqTail_otp (p idx : Nat) (s : State) : (writeSqTail p idx s).otp = s.otp := by simp [writeSqTail]

@[simp] theorem applyNow_otp (p : Fin 8) (op : Nat) (c : SubCmd) (tokens : List (BitVec 32)) (s : State) :
    (applyNow p op c tokens s).otp = s.otp := by
  simp [applyNow]

@[simp] theorem idleBuild_otp (p j : Nat) (s : State) : (idleBuild p j s).otp = s.otp := by simp [idleBuild]

@[simp] theorem buildStep_otp (p j : Nat) (rows : List Row) (s : State) : (buildStep p j rows s).otp = s.otp := by
  simp [buildStep]

@[simp] theorem execStepBuild_keepsOtp (p : Fin 8) (s : State) : KeepsOtp s (execStepBuild p s) := by
  rw [execStepBuild, keepsOtp_run]
  refine onTable_otp _ _ _ fun s => ?_
  split <;> simp

@[simp] theorem writeCqHead_otp (p idx : Nat) (s : State) : (writeCqHead p idx s).otp = s.otp := by simp [writeCqHead]

@[simp] theorem writeSqSetup_otp (p : Nat) (r : RingReg) (v : Nat) (s : State) : (writeSqSetup p r v s).otp = s.otp := by
  simp [writeSqSetup]

@[simp] theorem writeCqSetup_otp (p : Nat) (r : RingReg) (v : Nat) (s : State) : (writeCqSetup p r v s).otp = s.otp := by
  simp [writeCqSetup]

@[simp] theorem execLockLeaseExpiry_keepsOtp (p : Fin 8) (stream : BitVec 12) (s : State) :
    KeepsOtp s (execLockLeaseExpiry p stream s) := by
  simp only [execLockLeaseExpiry, keepsOtp_run]
  split <;> simp

/-! ### Tiles -/

@[simp] theorem armColls_otp (j : Nat) (s : State) : (armColls j s).otp = s.otp := by
  unfold armColls
  dsimp only
  (repeat' split) <;> simp

@[simp] theorem freshTps_otp (j : Nat) (s : State) : (freshTps j s).otp = s.otp := by simp [freshTps]
@[simp] theorem lateStart_otp (j t : Nat) (s : State) : (lateStart j t s).otp = s.otp := by simp [lateStart]
@[simp] theorem startStep_otp (p : Nat) (s : State) (j : Nat) : (startStep p s j).otp = s.otp := by simp [startStep]

@[simp] theorem beginTile_otp (t j : Nat) (e : TrackEntry) (s : State) : (beginTile t j e s).otp = s.otp := by
  simp [beginTile]

@[simp] theorem execTileBegin_keepsOtp (t : Fin 128) (slot : Fin 64) (waited : Nat) (s : State) :
    KeepsOtp s (execTileBegin t slot waited s) := by
  simp only [execTileBegin, keepsOtp_run]
  split <;> simp

@[simp] theorem execCeilingOverrun_keepsOtp (t : Fin 128) (s : State) : KeepsOtp s (execCeilingOverrun t s) := by
  simp only [execCeilingOverrun, keepsOtp_run]
  split <;> simp

@[simp] theorem execSlipLimitCrossed_keepsOtp (t : Fin 128) (s : State) : KeepsOtp s (execSlipLimitCrossed t s) := by
  simp only [execSlipLimitCrossed, keepsOtp_run]
  (repeat' split) <;> simp

@[simp] theorem execRendezvousOverrun_keepsOtp (t : Fin 128) (s : State) : KeepsOtp s (execRendezvousOverrun t s) := by
  simp only [execRendezvousOverrun, keepsOtp_run]
  (repeat' split) <;> simp

@[simp] theorem endRdv_otp (c : TileCtx) (f cy thr : Nat) (base : Option Nat) (s : State) :
    (endRdv c f cy thr base s).otp = s.otp := by
  simp [endRdv]

@[simp] theorem execCollectiveComplete_keepsOtp (slot : Fin 64) (prog : BitVec 16) (s : State) :
    KeepsOtp s (execCollectiveComplete slot prog s) := by
  simp only [execCollectiveComplete, keepsOtp_run]
  (repeat' split) <;> simp

@[simp] theorem reachCycle_otp (j cycle : Nat) (s : State) : (reachCycle j cycle s).otp = s.otp := by simp [reachCycle]

@[simp] theorem stopWait_otp (j cycle slip : Nat) (s : State) (x : Nat × Nat × Nat) :
    (stopWait j cycle slip s x).otp = s.otp := by
  simp [stopWait]

@[simp] theorem stopWaits_otp (j cycle : Nat) (lates : List (Nat × Nat × Nat)) (s : State) :
    (stopWaits j cycle lates s).1.otp = s.otp := by
  have hs : (lates.foldl (stopWait j cycle (getJob s j).run.slip) s).otp = s.otp :=
    foldl_otp _ _ _ fun s x => stopWait_otp j cycle _ s x
  simp only [stopWaits]
  split <;> simp [hs]

@[simp] theorem unitEnd_otp (j : Nat) (s : State) : (unitEnd j s).otp = s.otp := by simp [unitEnd]
@[simp] theorem chargeTo_otp (j cycle : Nat) (s : State) : (chargeTo j cycle s).otp = s.otp := by simp [chargeTo]
@[simp] theorem passStop_otp (j : Nat) (s : State) : (passStop j s).otp = s.otp := by simp [passStop]
@[simp] theorem nextStepNo_otp (j : Nat) (s : State) : (nextStepNo j s).otp = s.otp := by simp [nextStepNo]
@[simp] theorem dropRewards_otp (p n : Nat) (s : State) : (dropRewards p n s).otp = s.otp := by simp [dropRewards]
@[simp] theorem commitStep_otp (j : Nat) (s : State) : (commitStep j s).otp = s.otp := by simp [commitStep]

@[simp] theorem sendDigest_otp (d : Nat) (s : State) : (sendDigest d s).otp = s.otp := by
  unfold sendDigest
  split
  · exact foldl_otp _ _ _ fun s role => by split <;> simp
  · exact foldl_otp _ _ _ fun s c => sendU_otp ..

@[simp] theorem runAgain_otp (j : Nat) (fm bm : Bool) (s : State) : (runAgain j fm bm s).otp = s.otp := by simp [runAgain]

@[simp] theorem giveVerdict_otp (j : Nat) (fm bm : Bool) (s : State) : (giveVerdict j fm bm s).otp = s.otp := by
  simp [giveVerdict]

@[simp] theorem ringMismatch_otp (j : Nat) (fm bm : Bool) (s : State) : (ringMismatch j fm bm s).otp = s.otp := by
  simp [ringMismatch]

@[simp] theorem mismatch_otp (j : Nat) (fm bm : Bool) (s : State) : (mismatch j fm bm s).otp = s.otp := by simp [mismatch]

@[simp] theorem compareDigests_otp (j : Nat) (s : State) : (compareDigests j s).otp = s.otp := by
  unfold compareDigests
  split <;> simp

@[simp] theorem formDigest_otp (j : Nat) (s : State) : (formDigest j s).otp = s.otp := by simp [formDigest]

@[simp] theorem reachStepEnd_otp (j cycleNs : Nat) (s : State) : (reachStepEnd j cycleNs s).otp = s.otp := by
  simp [reachStepEnd]

@[simp] theorem waitSwing_otp (j : Nat) (s : State) : (waitSwing j s).otp = s.otp := by simp [waitSwing]

@[simp] theorem releaseStop_otp (j : Nat) (st : StopRec) (s : State) : (releaseStop j st s).otp = s.otp := by
  simp [releaseStop]

@[simp] theorem execStopRelease_keepsOtp (slot : Fin 64) (s : State) : KeepsOtp s (execStopRelease slot s) := by
  simp only [execStopRelease, keepsOtp_run]
  split <;> simp

@[simp] theorem execDigestTimeout_keepsOtp (slot : Fin 64) (s : State) : KeepsOtp s (execDigestTimeout slot s) := by
  rw [execDigestTimeout, keepsOtp_run]
  dsimp only
  split
  · split
    · rw [faultJob_otp, foldl_otp _ _ _ fun _ _ => post_otp .., advanceTo_otp]
    · rfl
  · rfl

/-! ### Ticks -/

@[simp] theorem reServe_otp (s : State) (r : HbmReq) : (reServe s r).otp = s.otp := by
  unfold reServe
  dsimp only
  (repeat' split) <;> simp

@[simp] theorem countBeat_otp (s : State) : (countBeat s).otp = s.otp := by simp [countBeat]

@[simp] theorem lateWait_otp (t : Nat) (s : State) : (lateWait t s).otp = s.otp := by
  unfold lateWait
  dsimp only
  (repeat' split) <;> simp

@[simp] theorem lateWaits_otp (s : State) : (lateWaits s).otp = s.otp := by simp [lateWaits]

@[simp] theorem feedSwitch_otp (p : Nat) (s : State) : (feedSwitch p s).otp = s.otp := by
  unfold feedSwitch
  split <;> simp

@[simp] theorem execHbmRefresh_keepsOtp (s : State) : KeepsOtp s (execHbmRefresh s) := by
  simp only [execHbmRefresh, keepsOtp_run]
  split <;> simp

@[simp] theorem finishHbm_otp (r : HbmReq) (s : State) : (finishHbm r s).otp = s.otp := by simp [finishHbm]

@[simp] theorem execHbmAccessComplete_keepsOtp (req : Nat) (s : State) : KeepsOtp s (execHbmAccessComplete req s) := by
  simp only [execHbmAccessComplete, keepsOtp_run]
  split <;> simp

@[simp] theorem failRemote_otp (r : Remote) (reason : Nat) (s : State) : (failRemote r reason s).otp = s.otp := by
  simp [failRemote]

@[simp] theorem execRemoteAccessTimeout_keepsOtp (tag : BitVec 16) (s : State) :
    KeepsOtp s (execRemoteAccessTimeout tag s) := by
  simp only [execRemoteAccessTimeout, keepsOtp_run]
  split <;> simp

@[simp] theorem decideFault_otp (j : Nat) (s : State) : (decideFault j s).otp = s.otp := by
  unfold decideFault
  split <;> simp

@[simp] theorem stepVerdict_otp (s : State) : (stepVerdict s).otp = s.otp := by
  unfold stepVerdict
  split <;> simp

@[simp] theorem sentVerdict_otp (s : State) : (sentVerdict s).otp = s.otp := by
  unfold sentVerdict
  split <;> simp

@[simp] theorem sendHeartbeats_otp (s : State) : (sendHeartbeats s).otp = s.otp := by simp [sendHeartbeats]

@[simp] theorem modSide_otp (n : Side) (f : Neighbour → Neighbour) (s : State) : (modSide n f s).otp = s.otp := by
  unfold modSide
  split <;> simp

/-! ### Keeper -/

@[simp] theorem keeperAccept_otp (dst : Nat) (u : List Byte) (s : State) : (keeperAccept dst u s).otp = s.otp := by
  simp [keeperAccept]

@[simp] theorem writeKdst_otp (v : Nat) (s : State) : (writeKdst v s).otp = s.otp := by simp [writeKdst]

@[simp] theorem atSwing_otp (op : Nat) (act : List Byte → State → State) (s : State) (h : ∀ b s, (act b s).otp = s.otp) :
    (atSwing op act s).otp = s.otp := by
  unfold atSwing
  split <;> simp [h]

@[simp] theorem routeAct_otp (b : List Byte) (s : State) : (routeAct b s).otp = s.otp := by simp [routeAct]
@[simp] theorem roleAct_otp (b : List Byte) (s : State) (n : Nat) : (roleAct b s n).otp = s.otp := by simp [roleAct]
@[simp] theorem ringAct_otp (b : List Byte) (s : State) : (ringAct b s).otp = s.otp := by simp [ringAct]
@[simp] theorem poolAct_otp (b : List Byte) (s : State) : (poolAct b s).otp = s.otp := by simp [poolAct]
@[simp] theorem rewardAct_otp (b : List Byte) (s : State) : (rewardAct b s).otp = s.otp := by simp [rewardAct]
@[simp] theorem unfenceAct_otp (b : List Byte) (s : State) : (unfenceAct b s).otp = s.otp := by simp [unfenceAct]
@[simp] theorem remapAct_otp (b : List Byte) (s : State) : (remapAct b s).otp = s.otp := by simp [remapAct]

@[simp] theorem feedRemap_otp (s : State) : (feedRemap s).otp = s.otp := by
  unfold feedRemap
  dsimp only
  (repeat' split) <;> simp

@[simp] theorem checkRestored_otp (s : State) : (checkRestored s).otp = s.otp := by simp [checkRestored]

/-- Bulk data lands in memory, in stream entries or in the serving state. -/
theorem bulkWrite_otp (s : State) (a : Nat) (bs : List Byte) (t : State) (h : bulkWrite s a bs = some t) : t.otp = s.otp := by
  simp only [bulkWrite] at h
  split at h
  · cases h
  · split at h
    · cases h
      simp
    · split at h
      · split at h
        · cases h
          exact foldl_otp _ _ _ fun s x => rfl
        · cases h
      · split at h <;> cases h
        simp

@[simp] theorem execBulkCopy_keepsOtp (l : Fin 8) (fr : Frame) (s : State) : KeepsOtp s (execBulkCopy l fr s) := by
  rw [execBulkCopy, keepsOtp_run]
  refine routed_otp _ _ _ _ _ fun t => ?_
  split
  · next h => exact bulkWrite_otp _ _ _ _ h
  · rfl

@[simp] theorem writeRemapCmd_otp (v : Nat) (s : State) : (writeRemapCmd v s).otp = s.otp := by simp [writeRemapCmd]
@[simp] theorem scrub_otp (lo hi : Nat) (s : State) : (scrub lo hi s).otp = s.otp := by simp [scrub]
@[simp] theorem writeSum0_otp (v : Nat) (s : State) : (writeSum0 v s).otp = s.otp := by simp [writeSum0]
@[simp] theorem fltIgnored_otp (off : Nat) (s : State) : (fltIgnored off s).otp = s.otp := by simp [fltIgnored]
@[simp] theorem writeEvHead_otp (v : Nat) (s : State) : (writeEvHead v s).otp = s.otp := by simp [writeEvHead]

@[simp] theorem writeEvSetup_otp (r : RingReg) (v : Nat) (s : State) : (writeEvSetup r v s).otp = s.otp := by
  simp [writeEvSetup]

@[simp] theorem configSummary_otp (s : State) : (configSummary s).otp = s.otp := by simp [configSummary]
@[simp] theorem writeEvCtrl_otp (v : Nat) (s : State) : (writeEvCtrl v s).otp = s.otp := by simp [writeEvCtrl]

/-! ### CultureRegs -/

@[simp] theorem setSnStat_otp (fn v : Nat) (s : State) : (setSnStat fn v s).otp = s.otp := by simp [setSnStat]

@[simp] theorem requestLease_otp (fn v : Nat) (s : State) : (requestLease fn v s).otp = s.otp := by
  unfold requestLease
  dsimp only
  (repeat' split) <;> simp

@[simp] theorem dropLease_otp (l : SnapLease) (s : State) : (dropLease l s).otp = s.otp := by simp [dropLease]

@[simp] theorem releaseLease_otp (fn v : Nat) (s : State) : (releaseLease fn v s).otp = s.otp := by
  unfold releaseLease
  split <;> simp

@[simp] theorem releaseFn_otp (fn : Nat) (s : State) : (releaseFn fn s).otp = s.otp := by simp [releaseFn]

@[simp] theorem execLeaseExpired_keepsOtp (id : BitVec 16) (s : State) : KeepsOtp s (execLeaseExpired id s) := by
  simp only [execLeaseExpired, keepsOtp_runCtl]
  split <;> simp

@[simp] theorem writeResume_otp (v : Nat) (s : State) : (writeResume v s).otp = s.otp := by simp [writeResume]

@[simp] theorem armResume_otp (v : Nat) (s : State) : (armResume v s).otp = s.otp := by
  unfold armResume
  split <;> simp

/-! ### Escapement -/

@[simp] theorem setEsc_otp (x : EscState) (s : State) : (setEsc x s).otp = s.otp := by simp [setEsc]
@[simp] theorem acquireFrom_otp (n : Nat) (s : State) : (acquireFrom n s).otp = s.otp := by simp [acquireFrom]

@[simp] theorem escPoll_otp (s : State) : (escPoll s).otp = s.otp := by
  unfold escPoll
  (repeat' split) <;> simp

@[simp] theorem escStart_otp (s : State) : (escStart s).otp = s.otp := by simp [escStart]
@[simp] theorem stepFleet_otp (d : Int) (s : State) : (stepFleet d s).otp = s.otp := by simp [stepFleet]
@[simp] theorem lockNow_otp (s : State) : (lockNow s).otp = s.otp := by simp [lockNow]

@[simp] theorem parentResult_otp (o : Int) (s : State) : (parentResult o s).otp = s.otp := by
  unfold parentResult
  dsimp only
  (repeat' split) <;> simp

@[simp] theorem takeResult_otp (n : Nat) (o d : Int) (s : State) : (takeResult n o d s).otp = s.otp := by simp [takeResult]

@[simp] theorem execTimeExchangeResponse_keepsOtp (l : Fin 8) (r : TimeRx) (s : State) :
    KeepsOtp s (execTimeExchangeResponse l r s) := by
  rw [execTimeExchangeResponse, keepsOtp_runCtl]
  refine receive_otp _ _ _ _ _ fun t => ?_
  dsimp only
  split
  · rfl
  · split <;> simp

@[simp] theorem execTimeExchangeAbandon_keepsOtp (l : Fin 8) (id : BitVec 8) (s : State) :
    KeepsOtp s (execTimeExchangeAbandon l id s) := by
  simp only [execTimeExchangeAbandon, keepsOtp_runCtl]
  split <;> simp

@[simp] theorem steerBy_otp (o : Int) (s : State) : (steerBy o s).otp = s.otp := by simp [steerBy]

@[simp] theorem execRateUpdate_keepsOtp (s : State) : KeepsOtp s (execRateUpdate s) := by
  rw [execRateUpdate, keepsOtp_run]
  refine onEsc_otp _ _ fun s => onTable_otp _ _ _ fun s => ?_
  dsimp only
  split <;> simp

@[simp] theorem execParentChange_keepsOtp (s : State) : KeepsOtp s (execParentChange s) := by
  refine keepsOtp_runCtl_of fun u hu => ?_
  simp only [onEsc] at hu
  split at hu
  · rw [hu]
  · split at hu
    · rw [hu]
    · split at hu
      · split at hu
        · rw [← hu, advanceTo_otp]
        · rw [← hu, post_otp]
          exact withEsc_otp _ (advanceTo_otp ..)
      · rw [← hu, advanceTo_otp]

@[simp] theorem validEdge_otp (s : State) : (validEdge s).otp = s.otp := by simp [validEdge]

@[simp] theorem execBeatInEdge_keepsOtp (s : State) : KeepsOtp s (execBeatInEdge s) := by
  rw [execBeatInEdge, keepsOtp_runCtl]
  refine onEsc_otp _ _ fun s => ?_
  dsimp only
  split
  · rfl
  · split <;> simp

@[simp] theorem execBeatInLost_keepsOtp (s : State) : KeepsOtp s (execBeatInLost s) := by
  refine keepsOtp_runCtl_of fun u hu => ?_
  simp only [onEsc] at hu
  split at hu
  · rw [hu]
  · split at hu
    · rw [hu]
    · rw [← hu, post_otp]
      exact withEsc_otp _ (advanceTo_otp ..)

@[simp] theorem execLockTimeout_keepsOtp (s : State) : KeepsOtp s (execLockTimeout s) := by
  simp only [execLockTimeout, keepsOtp_runCtl]
  split <;> simp

/-! ### ThreadMem -/

@[simp] theorem sendRemote_otp (c : TileCtx) (f : TField) (kind arg g : Nat) (keys : List Nat) (into : Option Nat)
    (size : Nat) (payload : List Byte) (s : State) : (sendRemote c f kind arg g keys into size payload s).otp = s.otp := by
  simp [sendRemote]

@[simp] theorem loadLocal_otp (c : TileCtx) (cy a n into keysFrom nKeys : Nat) (s : State) :
    (loadLocal c cy a n into keysFrom nKeys s).otp = s.otp := by
  simp [loadLocal]

@[simp] theorem storeLocal_otp (c : TileCtx) (cy a : Nat) (bs : List Byte) (s : State) :
    (storeLocal c cy a bs s).otp = s.otp := by
  simp [storeLocal]

/-! ### LinkRx -/

@[simp] theorem ifUp_otp (l : Fin 8) (f : State → State) (s : State) (h : ∀ s, (f s).otp = s.otp) :
    (ifUp l f s).otp = s.otp := by
  simp [ifUp, h]

@[simp] theorem ifBlock_otp (x : BlockRx) (f : State → State) (s : State) (h : ∀ s, (f s).otp = s.otp) :
    (ifBlock x f s).otp = s.otp := by
  simp [ifBlock, h]

@[simp] theorem beginReplay_otp (n : Nat) (s : State) : (beginReplay n s).otp = s.otp := by simp [beginReplay]
@[simp] theorem discardOn_otp (n : Nat) (s : State) : (discardOn n s).otp = s.otp := by simp [discardOn]
@[simp] theorem dropColl_otp (s : State) : (dropColl s).otp = s.otp := by simp [dropColl]

@[simp] theorem collIn_otp (f : Frame) (s : State) : (collIn f s).otp = s.otp := by
  unfold collIn
  dsimp only
  (repeat' split) <;> simp

@[simp] theorem refuse_otp (f : Frame) (s : State) : (refuse f s).otp = s.otp := by simp [refuse]
@[simp] theorem refuseEcc_otp (f : Frame) (a n : Nat) (s : State) : (refuseEcc f a n s).otp = s.otp := by simp [refuseEcc]
@[simp] theorem remoteWriteIn_otp (f : Frame) (s : State) : (remoteWriteIn f s).otp = s.otp := by simp [remoteWriteIn]
@[simp] theorem remoteReadIn_otp (f : Frame) (s : State) : (remoteReadIn f s).otp = s.otp := by simp [remoteReadIn]

@[simp] theorem responseIn_otp (f : Frame) (s : State) : (responseIn f s).otp = s.otp := by
  unfold responseIn
  (repeat' split) <;> simp

@[simp] theorem execRemoteRefusal_keepsOtp (l : Fin 8) (fr : Frame) (s : State) : KeepsOtp s (execRemoteRefusal l fr s) := by
  rw [execRemoteRefusal, keepsOtp_run]
  refine routed_otp _ _ _ _ _ fun t => ?_
  split <;> simp

@[simp] theorem takeBeat_otp (n : Side) (src arg : Nat) (s : State) : (takeBeat n src arg s).otp = s.otp := by
  simp [takeBeat]

@[simp] theorem execRoutingDigest_keepsOtp (l : Fin 8) (fr : Frame) (s : State) : KeepsOtp s (execRoutingDigest l fr s) := by
  rw [execRoutingDigest, keepsOtp_runCtl]
  refine receive_otp _ _ _ _ _ fun t => ?_
  split <;> simp

/-! ### LinkTx -/

@[simp] theorem chargeLink_otp (t : TxFrame) (s : State) : (chargeLink t s).otp = s.otp := by
  unfold chargeLink
  split <;> simp

@[simp] theorem noteSent_otp (n : Nat) (t : TxFrame) (s : State) : (noteSent n t s).otp = s.otp := by simp [noteSent]

@[simp] theorem transmit_otp (n : Nat) (t : TxFrame) (s : State) : (transmit n t s).otp = s.otp := by
  unfold transmit
  split <;> simp

@[simp] theorem holdS_otp (n : Nat) (s : State) : (holdS n s).otp = s.otp := by
  unfold holdS
  split <;> simp

/-- A frame that class S sends. -/
theorem takeS_otp (n : Nat) (s t : State) (h : takeS n s = some t) : t.otp = s.otp := by
  simp only [takeS] at h
  split at h
  · cases h
  · split at h
    · cases h
    · split at h <;> cases h
      simp

/-- A frame that class U sends. -/
theorem takeU_otp (n : Nat) (s t : State) (h : takeU n s = some t) : t.otp = s.otp := by
  simp only [takeU] at h
  split at h
  · cases h
  · split at h <;> cases h
    simp

@[simp] theorem holdU_otp (n : Nat) (s : State) : (holdU n s).otp = s.otp := by
  unfold holdU
  dsimp only
  (repeat' split) <;> simp

/-- A frame that class B sends. -/
theorem takeB_otp (n : Nat) (s t : State) (h : takeB n s = some t) : t.otp = s.otp := by
  simp only [takeB] at h
  split at h
  · cases h
  · split at h <;> cases h
    simp

@[simp] theorem sendBlock_otp (n : Nat) (s : State) : (sendBlock n s).otp = s.otp := by simp [sendBlock]
@[simp] theorem feedB_otp (n : Nat) (s : State) : (feedB n s).otp = s.otp := by simp [feedB]

@[simp] theorem sendRest_otp (n : Nat) (s : State) : (sendRest n s).otp = s.otp := by
  simp only [sendRest]
  split
  · rfl
  · split
    · next h => simp [takeB_otp _ _ _ h]
    · simp

@[simp] theorem sendNext_otp (n : Nat) (s : State) : (sendNext n s).otp = s.otp := by
  simp only [sendNext]
  split
  · rfl
  · split
    · rfl
    · split
      · next h => exact takeU_otp _ _ _ h
      · split
        · next h => simp [takeS_otp _ _ _ h]
        · simp

@[simp] theorem lastU_otp (n : Nat) (s : State) : (lastU n s).otp = s.otp := by
  unfold lastU
  dsimp only
  (repeat' split) <;> simp

@[simp] theorem execErrorWindow_keepsOtp (l : Fin 8) (s : State) : KeepsOtp s (execErrorWindow l s) := by
  refine keepsOtp_runCtl_of fun u hu => ?_
  dsimp only at hu
  rw [← hu, modLink_otp, advanceTo_otp]

@[simp] theorem exchange_otp (n : Nat) (p : LinkParams) (s : State) : (exchange n p s).otp = s.otp := by simp [exchange]
@[simp] theorem moveTo_otp (m n : Nat) (s : State) : (moveTo m n s).otp = s.otp := by simp [moveTo]
@[simp] theorem drainTo_otp (n : Nat) (s : State) : (drainTo n s).otp = s.otp := by simp [drainTo]

@[simp] theorem meetPartner_otp (n : Nat) (p : LinkParams) (s : State) : (meetPartner n p s).otp = s.otp := by
  simp [meetPartner]

@[simp] theorem writeLkCmd_otp (n v : Nat) (s : State) : (writeLkCmd n v s).otp = s.otp := by simp [writeLkCmd]
@[simp] theorem writeMirCmd_otp (v : Nat) (s : State) : (writeMirCmd v s).otp = s.otp := by simp [writeMirCmd]

/-! ### Regulator -/

@[simp] theorem endShortfall_otp (s : State) : (endShortfall s).otp = s.otp := by
  unfold endShortfall
  split <;> simp

@[simp] theorem beginShed_otp (s : State) : (beginShed s).otp = s.otp := by simp [beginShed]
@[simp] theorem takeDraw_otp (cal : Nat) (s : State) : (takeDraw cal s).otp = s.otp := by simp [takeDraw]
@[simp] theorem endShed_otp (s : State) : (endShed s).otp = s.otp := by simp [endShed]
@[simp] theorem updateShed_otp (s : State) : (updateShed s).otp = s.otp := by simp [updateShed]
@[simp] theorem spendChange_otp (old new : Nat) (s : State) : (spendChange old new s).otp = s.otp := by simp [spendChange]
@[simp] theorem setOutputs_otp (x : Sample) (s : State) : (setOutputs x s).otp = s.otp := by simp [setOutputs]

@[simp] theorem checkShortfall_otp (x : Sample) (s : State) : (checkShortfall x s).otp = s.otp := by
  unfold checkShortfall
  split <;> simp

@[simp] theorem askFor_otp (w : Nat) (s : State) : (askFor w s).otp = s.otp := by simp [askFor]
@[simp] theorem controlLaw_otp (x : Sample) (s : State) : (controlLaw x s).otp = s.otp := by simp [controlLaw]

@[simp] theorem shareEnergy_otp (nj total : Nat) (s : State) (x : Nat × Nat) : (shareEnergy nj total s x).otp = s.otp := by
  unfold shareEnergy
  split <;> simp

@[simp] theorem chargeEnergy_otp (x : Sample) (s : State) : (chargeEnergy x s).otp = s.otp := by simp [chargeEnergy]
@[simp] theorem takeLoads_otp (k : Nat) (s : State) : (takeLoads k s).otp = s.otp := by simp [takeLoads]
@[simp] theorem forgetTime_otp (s : State) : (forgetTime s).otp = s.otp := by simp [forgetTime]
@[simp] theorem enterDormant_otp (s : State) : (enterDormant s).otp = s.otp := by simp [enterDormant]

@[simp] theorem descend_otp (x : Sample) (s : State) : (descend x s).otp = s.otp := by
  unfold descend
  split <;> simp

@[simp] theorem noteDuty_otp (s : State) : (noteDuty s).otp = s.otp := by simp [noteDuty]
@[simp] theorem firstTarget_otp (x : Sample) (s : State) : (firstTarget x s).otp = s.otp := by simp [firstTarget]
@[simp] theorem writeShedReq_otp (b : Bool) (s : State) : (writeShedReq b s).otp = s.otp := by simp [writeShedReq]

@[simp] theorem execSensorConversion_keepsOtp (temps : List (BitVec 16)) (s : State) :
    KeepsOtp s (execSensorConversion temps s) := by
  simp only [execSensorConversion, keepsOtp_runCtl]
  split <;> simp

@[simp] theorem execThermalHoldEnd_keepsOtp (s : State) : KeepsOtp s (execThermalHoldEnd s) := by
  simp only [execThermalHoldEnd, keepsOtp_runCtl]
  split <;> simp

@[simp] theorem writeCap_otp (v : Nat) (s : State) : (writeCap v s).otp = s.otp := by simp [writeCap]

@[simp] theorem execStartInstant_keepsOtp (s : State) : KeepsOtp s (execStartInstant s) := by
  simp only [execStartInstant, keepsOtp_runCtl]
  split <;> simp

@[simp] theorem pmbFail_otp (s : State) : (pmbFail s).otp = s.otp := by simp [pmbFail]

@[simp] theorem slotA_otp (a : PmbAnswer) (s : State) : (slotA a s).otp = s.otp := by
  unfold slotA
  split <;> simp

@[simp] theorem rotate_otp (w : BitVec 16) (s : State) : (rotate w s).otp = s.otp := by simp [rotate]

@[simp] theorem slotB_otp (a : PmbAnswer) (s : State) : (slotB a s).otp = s.otp := by
  unfold slotB
  split <;> simp

@[simp] theorem slotEnd_otp (b : Bool) (a : PmbAnswer) (s : State) : (slotEnd b a s).otp = s.otp := by simp [slotEnd]

/-! ### Uart -/

@[simp] theorem uartIgnored_otp (off : Nat) (p : Port) (s : State) : (uartIgnored off p s).otp = s.otp := by
  simp [uartIgnored]

@[simp] theorem byOwner_otp (off : Nat) (p : Port) (f : State → State) (s : State) (h : ∀ s, (f s).otp = s.otp) :
    (byOwner off p f s).otp = s.otp := by
  simp [byOwner, h]

@[simp] theorem takeFormat_otp (s : State) : (takeFormat s).otp = s.otp := by simp [takeFormat]
@[simp] theorem crownFeed_otp (s : State) : (crownFeed s).otp = s.otp := by simp [crownFeed]

@[simp] theorem txNext_otp (s : State) : (txNext s).otp = s.otp := by
  unfold txNext
  dsimp only
  (repeat' split) <;> simp

@[simp] theorem pump_otp (s : State) : (pump s).otp = s.otp := by simp [pump]
@[simp] theorem endReport_otp (s : State) : (endReport s).otp = s.otp := by simp [endReport]
@[simp] theorem crownSay_otp (bs : List Byte) (s : State) : (crownSay bs s).otp = s.otp := by simp [crownSay]
@[simp] theorem reply_otp (bs : List Byte) (s : State) : (reply bs s).otp = s.otp := by simp [reply]
@[simp] theorem consoleChar_otp (e : RxEntry) (s : State) : (consoleChar e s).otp = s.otp := by simp [consoleChar]
@[simp] theorem popRx_otp (s : State) : (popRx s).otp = s.otp := by simp [popRx]

@[simp] theorem execUartDataRead_keepsOtp (port : Port) (s : State) : KeepsOtp s (execUartDataRead port s) := by
  simp only [execUartDataRead, keepsOtp_runCtl]
  (repeat' split) <;> simp

@[simp] theorem pushTx_otp (v : Nat) (s : State) : (pushTx v s).otp = s.otp := by simp [pushTx]

@[simp] theorem writeFormat_otp (r : UartReg) (v : Nat) (s : State) : (writeFormat r v s).otp = s.otp := by
  unfold writeFormat
  split <;> simp

@[simp] theorem askBreak_otp (v : Nat) (s : State) : (askBreak v s).otp = s.otp := by simp [askBreak]
@[simp] theorem loseRx_otp (s : State) : (loseRx s).otp = s.otp := by simp [loseRx]
@[simp] theorem pushRx_otp (e : RxEntry) (s : State) : (pushRx e s).otp = s.otp := by simp [pushRx]
@[simp] theorem takeBreak_otp (s : State) : (takeBreak s).otp = s.otp := by simp [takeBreak]
@[simp] theorem attention_otp (len : Nat) (s : State) : (attention len s).otp = s.otp := by simp [attention]

/-! ### RegWrite -/

@[simp] theorem writeJob_otp (j o : Nat) (w : Wr) (s : State) : (writeJob j o w s).otp = s.otp := by simp [writeJob]
@[simp] theorem writeStmCtrl_otp (p v : Nat) (s : State) : (writeStmCtrl p v s).otp = s.otp := by simp [writeStmCtrl]
@[simp] theorem writeStm_otp (p o : Nat) (w : Wr) (s : State) : (writeStm p o w s).otp = s.otp := by simp [writeStm]
@[simp] theorem writeCul_otp (fn o : Nat) (w : Wr) (s : State) : (writeCul fn o w s).otp = s.otp := by simp [writeCul]
@[simp] theorem writeFlt_otp (o : Nat) (w : Wr) (s : State) : (writeFlt o w s).otp = s.otp := by simp [writeFlt]
@[simp] theorem uartAct_otp (o v : Nat) (s : State) : (uartAct o v s).otp = s.otp := by simp [uartAct]

@[simp] theorem writeUart_otp (p : Option Port) (o : Nat) (w : Wr) (s : State) : (writeUart p o w s).otp = s.otp := by
  unfold writeUart
  split <;> simp

@[simp] theorem writeLk_otp (p : Option Port) (n o : Nat) (w : Wr) (s : State) : (writeLk p n o w s).otp = s.otp := by
  simp [writeLk]

@[simp] theorem writeAcct_otp (a o : Nat) (w : Wr) (s : State) : (writeAcct a o w s).otp = s.otp := by simp [writeAcct]

@[simp] theorem writeSlot_otp (p : Option Port) (off : Nat) (w : Wr) (s : State) : (writeSlot p off w s).otp = s.otp := by
  simp [writeSlot]

@[simp] theorem writeVf_otp (p off : Nat) (w : Wr) (s : State) : (writeVf p off w s).otp = s.otp := by simp [writeVf]

@[simp] theorem writeReg_otp (p : Port) (off : Nat) (wide : Bool) (v : Nat) (s : State) :
    (writeReg p off wide v s).otp = s.otp := by
  unfold writeReg
  split <;> simp

@[simp] theorem unsupported_otp (req off len : Nat) (write : Bool) (s : State) :
    (unsupported req off len write s).otp = s.otp := by
  simp [unsupported]

@[simp] theorem debugRefused_otp (req a n : Nat) (s : State) : (debugRefused req a n s).otp = s.otp := by
  simp [debugRefused]

@[simp] theorem healBar2_otp (a n : Nat) (s : State) : (healBar2 a n s).otp = s.otp := by simp [healBar2]

@[simp] theorem bar2Store_otp (req a : Nat) (bs : List Byte) (s : State) : (bar2Store req a bs s).otp = s.otp := by
  simp only [bar2Store]
  split
  · rfl
  · have ecc (ls : List Nat) (t : State) : (ls.foldl (fun t l => eccEvent 1 (64 * l) 5 t) t).otp = t.otp :=
      foldl_otp _ _ _ fun t l => eccEvent_otp 1 (64 * l) 5 t
    have land (xs : List (Nat × Byte)) (t : State) : (xs.foldl (fun t x => putMem x.1 [x.2] t) t).otp = t.otp :=
      foldl_otp _ _ _ fun t x => putMem_otp t x.1 [x.2]
    rw [land, healBar2_otp, ecc, debugRefused_otp]

@[simp] theorem hostRead_otp (off : Nat) (wide : Bool) (s : State) : (hostRead off wide s).2.otp = s.otp := by
  simp [hostRead]

@[simp] theorem completeRead_otp (c : Completion) (s : State) : (completeRead c s).otp = s.otp := by simp [completeRead]

@[simp] theorem bar2Load_otp (req a n : Nat) (s : State) : (bar2Load req a n s).otp = s.otp := by
  unfold bar2Load
  (repeat' split) <;> simp

/-! ### Ports -/

@[simp] theorem onSmb_otp (f : State → State) (s : State) (h : ∀ s, (f s).otp = s.otp) : (onSmb f s).otp = s.otp := by
  simp [onSmb, h]

@[simp] theorem smbReply_otp (bs : List Byte) (s : State) : (smbReply bs s).otp = s.otp := by simp [smbReply]

@[simp] theorem smbDiscard_otp (code : Nat) (bad : Bool) (s : State) : (smbDiscard code bad s).otp = s.otp := by
  simp [smbDiscard]

@[simp] theorem smbWrite_otp (code : Nat) (bs : List Byte) (pec : Option (BitVec 8)) (act : State → State) (s : State)
    (h : ∀ s, (act s).otp = s.otp) : (smbWrite code bs pec act s).otp = s.otp := by
  unfold smbWrite
  split <;> simp [h]

@[simp] theorem execSmbusTimeout_keepsOtp (code : Option (BitVec 8)) (s : State) : KeepsOtp s (execSmbusTimeout code s) := by
  rw [execSmbusTimeout, keepsOtp_run]
  exact onSmb_otp _ _ fun _ => rfl

@[simp] theorem dropLinks_otp (s : State) : (dropLinks s).otp = s.otp := by simp [dropLinks]
@[simp] theorem dropPcie_otp (s : State) : (dropPcie s).otp = s.otp := by simp [dropPcie]
@[simp] theorem trainPcie_otp (s : State) : (trainPcie s).otp = s.otp := by simp [trainPcie]
@[simp] theorem setIr_otp (i : TapInstr) (s : State) : (setIr i s).otp = s.otp := by simp [setIr]

@[simp] theorem driveCells_otp (i : TapInstr) (cells : List Bool) (s : State) : (driveCells i cells s).otp = s.otp := by
  simp [driveCells]

@[simp] theorem debugAccess_otp (write : Bool) (a v : Nat) (s : State) : (debugAccess write a v s).otp = s.otp := by
  simp only [debugAccess]
  split
  · rfl
  · split
    · split
      · exact writeSlot_otp ..
      · rfl
    · split
      · exact unheld_otp _ _ fun _ => rfl
      · rfl

/-! ### Boot -/

@[simp] theorem coldReset_otp (s : State) : (coldReset s).otp = s.otp := by simp [coldReset]
@[simp] theorem beginLoading_otp (s : State) : (beginLoading s).otp = s.otp := by simp [beginLoading]

@[simp] theorem execManagementResetAssert_keepsOtp (s : State) : KeepsOtp s (execManagementResetAssert s) := by
  simp only [execManagementResetAssert, keepsOtp_run]
  split <;> simp

@[simp] theorem giveViews_otp (s : State) : (giveViews s).otp = s.otp := by simp [giveViews]
@[simp] theorem giveRoles_otp (s : State) : (giveRoles s).otp = s.otp := foldl_otp _ _ _ fun _ _ => rfl
@[simp] theorem startLinks_otp (s : State) : (startLinks s).otp = s.otp := by simp [startLinks]
@[simp] theorem trainLinks_otp (s : State) : (trainLinks s).otp = s.otp := by simp [trainLinks]
@[simp] theorem startRegulator_otp (s : State) : (startRegulator s).otp = s.otp := by simp [startRegulator]
@[simp] theorem limitPcie_otp (s : State) : (limitPcie s).otp = s.otp := by simp [limitPcie]
@[simp] theorem readVoutMode_otp (m : BitVec 8) (s : State) : (readVoutMode m s).otp = s.otp := by simp [readVoutMode]
@[simp] theorem writeReport_otp (x : Loaded) (s : State) : (writeReport x s).otp = s.otp := by simp [writeReport]
@[simp] theorem startPlanes_otp (s : State) : (startPlanes s).otp = s.otp := by simp [startPlanes]
@[simp] theorem handOver_otp (x : Loaded) (s : State) : (handOver x s).otp = s.otp := by simp [handOver]
@[simp] theorem modStack_otp (i : Nat) (f : Stack → Stack) (s : State) : (modStack i f s).otp = s.otp := by simp [modStack]
@[simp] theorem zeroStack_otp (i : Nat) (s : State) : (zeroStack i s).otp = s.otp := by simp [zeroStack]

@[simp] theorem execHbmInitComplete_keepsOtp (stack : Fin 2) (failed : Option (BitVec 8)) (s : State) :
    KeepsOtp s (execHbmInitComplete stack failed s) := by
  simp only [execHbmInitComplete, keepsOtp_run]
  (repeat' split) <;> simp

@[simp] theorem startWake_otp (s : State) : (startWake s).otp = s.otp := by simp [startWake]
@[simp] theorem flr_otp (fn : Nat) (s : State) : (flr fn s).otp = s.otp := by simp [flr]

@[simp] theorem execDormantExit_keepsOtp (s : State) : KeepsOtp s (execDormantExit s) := by
  simp only [execDormantExit, keepsOtp_run]
  split <;> simp

@[simp] theorem heatStack_otp (i : Nat) (t : BitVec 16) (s : State) : (heatStack i t s).otp = s.otp := by simp [heatStack]

/-! ### What a command does to the fuses -/

/-- Every command but OTP_PROG leaves the fuses. The arms that only compose operations are unfolded to their effect here; the
others have a lemma above. -/
theorem exec_keepsOtp (c : Instr) (s : State) (h : ∀ off b, c ≠ .otpProg off b) : KeepsOtp s (exec c s) := by
  cases c
  case otpProg off b => exact absurd rfl (h off b)
  all_goals
    simp [exec,
      execNop, execTend, execTbr, execLoop, execIdle, execCsync, execRdv, execFfence, execSpec, execMov, execVbc, execVins,
      execVext, execMovi, execValu, execVcvt, execVact, execVcmp, execVperm, execVred, execVscan, execSalu, execMma,
      execSel, execSelectorComplete, execDsp, execSeparatorComplete, execGrw, execGroupWalkerComplete, execCmb,
      execChurnComplete, execCul, execCultureComplete, execLdx, execLoaderDescriptorComplete, execLoaderReject, execRequest,
      execGrant, execReturnCredits, execAnnounce, execReport, execBeacon, execBeaconSend, execPoolFreezeEnd, execInstall,
      execStart, execPreempt, execRemove, execRestart, execDoorbell, execSubmissionRead, execOpenStream, execAppendTokens,
      execPauseStream, execResumeStream, execCancelStream, execRewardStream, execNopCommand, execStmCqhead,
      execSubmissionRingSetup, execCompletionRingSetup, execPartitionReset, execStepStart, execCollectiveFailed,
      execBeatTick, execSwingTick, execHeartbeatSuspect, execHeartbeatFailed, execKeeperMessage, execKeeperSend,
      execRouteSet, execRingSet, execPoolSet, execKeeperReward, execFenceChip, execUnfenceChip, execRemapSlice,
      execRestoreDoneNotice, execLoaded, execFenceNotice, execScrubPass, execVatScrub, execFaultClear, execEventRingHead,
      execEventRingSetup, execEventRingEnable, execCulSnreq, execCulSnrel, execCulResumestep, execTimeExchangeStart,
      execTimeExchangeRequest, execHoldoverEntry, execRootFreeTimeout, execLd, execSt, execMld, execMst, execAck, execNak,
      execAlignmentMarker, execRetrainRequest, execReservedControlBlock, execUncorrectableCodeword, execFrameCrcFailure,
      execFrameDiscard, execCollectiveData, execRemoteWrite, execRemoteReadRequest, execRemoteReadResponse, execHeartbeat,
      execFrameBoundary, execReplayTimeout, execErrorLimit, execTrainingComplete, execTrainingFailed,
      execFastRetrainComplete, execFastRetrainTimeout, execFailedRetry, execLossOfSignal, execLossOfBlockLock,
      execFastRetrain, execFullTraining, execMirrorCheck, execEstimatorSample, execPwrShedNFall, execPwrShedNRise,
      execShedRequest, execCapWrite, execRampSyncRise, execPmbusSlot, execUartDataWrite, execUartStatRead, execAttnClear,
      execUartFormatWrite, execUartBrktx, execBreakTxEnd, execCharacterSent, execCharacterReceived, execBreakDetect,
      execBreakEnd, execManagementReset, execRegisterWrite, execConsoleRead, execConsoleWrite, execConsoleStatus,
      execConsoleReport, execBar0UnsupportedAccess, execBar2Write, execBar2Read, execSmbusSerial, execSmbusStatus,
      execSmbusTelemetry, execSmbusFaultSummary, execSmbusShedWrite, execSmbusShedRead, execSmbusOffsetWrite,
      execSmbusRegisterRead, execSmbusUnknownCommand, execAlertResponse, execTapReset, execExtest, execIdcode,
      execSamplePreload, execClamp, execHighz, execExtestPulse, execExtestTrain, execDebug, execBypass, execPorRelease,
      execPorAssert, execHandover, execEnterRunning, execPerstNRelease, execPerstNAssert, execPmeTurnOff, execD3hot,
      execFlr, execPcieLinkUp, execWake, execThermtrip, execRefclkLoss, execHbmTemperatureRead, execVddAonFall,
      execVddAonRise]

/-- The fuses after OTP_PROG has burned the bits `b` of byte `off`. -/
def burn (otp : Table Byte) (off : BitVec 9) (b : BitVec 8) : Table Byte := memPut otp off.toNat (memGet otp off.toNat ||| b)

theorem memGet_burn (otp : Table Byte) (off : BitVec 9) (b : BitVec 8) (a : Nat) :
    memGet (burn otp off b) a = if a = off.toNat then memGet otp a ||| b else memGet otp a := by
  rw [burn, memGet_memPut]
  split
  · next h => rw [h]
  · rfl

/-- OTP_PROG burns where it may, and changes no fuse where it may not (R319, R360). -/
theorem execOtpProg_otp (off : BitVec 9) (b : BitVec 8) (s t : State) (h : execOtpProg off b s = .next t) :
    t.otp = s.otp ∨ mayBurn s off.toNat = true ∧ t.otp = burn s.otp off b := by
  rw [execOtpProg, runCtl_answers] at h
  subst h
  simp only [collect_otp]
  split
  · split
    · next hb => exact .inr ⟨hb, by rw [setIr_otp, burn]⟩
    · exact .inl (setIr_otp ..)
  · exact .inl rfl

/-- All that a command can do to the fuses: nothing, or OTP_PROG's burn of a byte that it may burn. -/
theorem exec_otp (c : Instr) (s t : State) (h : exec c s = .next t) :
    t.otp = s.otp ∨ ∃ off b, c = .otpProg off b ∧ mayBurn s off.toNat = true ∧ t.otp = burn s.otp off b := by
  by_cases hc : ∃ off b, c = .otpProg off b
  · obtain ⟨off, b, rfl⟩ := hc
    exact (execOtpProg_otp off b s t h).imp id fun ht => ⟨off, b, rfl, ht⟩
  · exact .inl (exec_keepsOtp c s (fun off b e => hc ⟨off, b, e⟩) t h)

/-- A burned bit was set or is set now: no fuse bit falls. -/
theorem getLsbD_burn_of_set (otp : Table Byte) (off : BitVec 9) (b : BitVec 8) (a j : Nat) (h : (memGet otp a).getLsbD j = true) :
    (memGet (burn otp off b) a).getLsbD j = true := by
  rw [memGet_burn]
  split
  · rw [BitVec.getLsbD_or, h, Bool.true_or]
  · exact h

/-- OTP_PROG addresses 512 bytes, so a burn leaves those past them. -/
theorem memGet_burn_beyond (otp : Table Byte) (off : BitVec 9) (b : BitVec 8) (a : Nat) (h : 512 ≤ a) :
    memGet (burn otp off b) a = memGet otp a := by
  have : off.toNat < 512 := off.isLt
  rw [memGet_burn, if_neg (by omega)]

/-- SecFlags may always be burned; bytes 0x00A to 0x02F only while JtagLock is clear (R319, R360). -/
theorem mayBurn_iff (s : State) (off : Nat) :
    mayBurn s off = true ↔ off = 9 ∨ jtagLock s = false ∧ 0x00A ≤ off ∧ off < 0x030 := by
  simp [mayBurn, and_assoc]

/-- A byte that may not be burned keeps its fuses through a permitted burn. -/
theorem memGet_burn_of_kept (s : State) (off : BitVec 9) (b : BitVec 8) (a : Nat) (hb : mayBurn s off.toNat = true)
    (h9 : a ≠ 0x009) (h : jtagLock s = true ∨ a < 0x00A ∨ 0x030 ≤ a) : memGet (burn s.otp off b) a = memGet s.otp a := by
  have hne : a ≠ off.toNat := by
    rintro rfl
    rcases (mayBurn_iff s _).1 hb with h9' | ⟨hl, hlo, hhi⟩
    · exact h9 h9'
    · rcases h with hl' | h | h
      · simp [hl] at hl'
      · omega
      · omega
  rw [memGet_burn, if_neg hne]

/-- Settles O57, by the inversion `exec_otp`: a command leaves the fuses, or burns bits of one byte that it may burn. -/
theorem fuseBits : Obligations.FuseBits := by
  unfold Obligations.FuseBits
  intro c s t hstep
  refine ⟨fun a j hset => ?_, fun hin a ha => ?_, fun a h9 hkept => ?_, fun hc => exec_keepsOtp c s hc t hstep⟩
  all_goals rcases exec_otp c s t hstep with ht | ⟨off, b, -, hb, ht⟩ <;> rw [ht]
  · exact hset
  · exact getLsbD_burn_of_set s.otp off b a j hset
  · exact hin a ha
  · rw [memGet_burn_beyond s.otp off b a ha, hin a ha]
  · exact memGet_burn_of_kept s off b a hb h9 hkept

end Sys2Proof.Machine
end

section
/-! PROOFS. The UART's registers (R341 to R345) and its recorded error bits (R344). -/

namespace Sys2Proof.Machine

/-! ### Bits of a number -/

/-- The bits of a number that a mask has too, taken from it. -/
theorem bitAt_sub_and (a b j : Nat) : bitAt (a - (a &&& b)) j = (bitAt a j && !bitAt b j) := by
  simp only [bitAt]
  induction j generalizing a b with
  | zero =>
    have := Nat.and_le_left (n := a) (m := b)
    have := Nat.and_mod_two_eq_one (a := a) (b := b)
    simp only [Nat.testBit_zero]
    grind
  | succ j ih =>
    have half : (a - (a &&& b)) / 2 = a / 2 - (a / 2 &&& b / 2) := by
      have := Nat.and_le_left (n := a) (m := b)
      have := Nat.and_mod_two_eq_one (a := a) (b := b)
      have := Nat.and_div_two (a := a) (b := b)
      omega
    simp only [Nat.testBit_add_one, half, ih]

/-- The flags that a frame's errors raise: ParityErr and FrameErr (R344). -/
theorem bitAt_errorMask (par frm : Bool) (j : Nat) :
    bitAt (b2n par + 2 * b2n frm) j = (j == 0 && par || j == 1 && frm) := by
  match j with
  | 0 | 1 => cases par <;> cases frm <;> rfl
  | j + 2 =>
    have small : b2n par + 2 * b2n frm < 2 ^ (j + 2) :=
      calc b2n par + 2 * b2n frm < 2 ^ 2 := by cases par <;> cases frm <;> decide
        _ ≤ 2 ^ (j + 2) := Nat.pow_le_pow_right (by decide) (by omega)
    rw [bitAt, Nat.testBit_lt_two_pow small]
    simp

/-- UART_STAT shows the four error flags in bits [19:16] (R341). -/
theorem bitAt_uartStat (s : State) (j : Nat) (hrx : s.uart.rx.length < 32) (htx : s.uart.tx.length < 32) (hj : j < 4) :
    bitAt (uartStat s) (16 + j) = bitAt s.uart.flags j := by
  have fits (b : Bool) : b2n b ≤ 1 := by cases b <;> decide
  have split : uartStat s = 2 ^ 16 * (2 ^ 4 * b2n s.uart.attn + s.uart.flags % 2 ^ 4) +
      (s.uart.rx.length + 32 * s.uart.tx.length + 2 ^ 11 * b2n (txIdle s) + 2 ^ 12 * b2n s.uart.brkTx.isSome +
        2 ^ 13 * b2n s.uart.rxHigh) := by
    simp only [uartStat]
    omega
  have low : s.uart.rx.length + 32 * s.uart.tx.length + 2 ^ 11 * b2n (txIdle s) + 2 ^ 12 * b2n s.uart.brkTx.isSome +
      2 ^ 13 * b2n s.uart.rxHigh < 2 ^ 16 := by
    have := fits (txIdle s)
    have := fits s.uart.brkTx.isSome
    have := fits s.uart.rxHigh
    omega
  rw [bitAt, split, Nat.testBit_two_pow_mul_add _ low, if_neg (by omega), Nat.add_sub_cancel_left,
    Nat.testBit_two_pow_mul_add _ (Nat.mod_lt _ (by decide)), if_pos hj, Nat.testBit_mod_two_pow]
  simp [bitAt, hj]

/-! ### What leaves the flags and their record -/

/-- `u` has the UART's error flags, and those that UART_STAT recorded, as `s` has them. -/
@[simp] abbrev SameFlags (u s : State) : Prop := u.uart.flags = s.uart.flags ∧ u.uart.rsq = s.uart.rsq

@[simp] theorem crownFeed_flags (s : State) : SameFlags (crownFeed s) s := by
  unfold crownFeed
  split <;> simp

@[simp] theorem txNext_flags (s : State) : SameFlags (txNext s) s := by
  unfold txNext
  dsimp only
  (repeat' split) <;> simp

@[simp] theorem crownSay_flags (bs : List Byte) (s : State) : SameFlags (crownSay bs s) s := by simp [crownSay, pump]

@[simp] theorem consoleChar_flags (e : RxEntry) (s : State) : SameFlags (consoleChar e s) s := by
  unfold consoleChar
  dsimp only
  (repeat' split) <;> simp [reply]

/-! ### What the UART's operations do -/

/-- A command that reaches neither memory nor the thread processors answers with its effect's UART. -/
theorem runCtl_uart (f : State → State) (s : State) : ∃ t, runCtl f s = .next t ∧ t.uart = (f s).uart :=
  ⟨_, rfl, collect_uart _⟩

/-- The owner's read of UART_DATA pops an entry; after the report the Crown's read may add to the console's line, which leaves the
flags (R338, R344). -/
theorem uartDataRead_owner (p : Port) (s : State) (h : ownsUart s p = true) :
    ∃ t, exec (.uartDataRead p) s = .next t ∧ SameFlags t (popRx s) := by
  refine ⟨_, rfl, ?_⟩
  simp only [SameFlags, collect_uart, h, if_true]
  (repeat' split) <;> simp

/-- With nothing on TX's line and no break asked for, the oldest character goes out in the format of now (R342, R343). -/
theorem txNext_idle (s : State) (c : Nat) (cs : List Nat) (hs : s.uart.sending = none) (hb : s.uart.brkNow = false)
    (hk : s.uart.brkTx = none) (ht : s.uart.tx = c :: cs) :
    txNext s = { s with uart := { s.uart with
      sending := some c, line := lineBits s.uart.ctrl c, tx := cs, txCtrl := s.uart.ctrl, txBaud := s.uart.baud } } := by
  simp [txNext, hs, hb, hk, ht]

/-- While TX's line is in use the next item waits (R343, R345). -/
theorem txNext_busy (s : State) (h : s.uart.sending ≠ none ∨ s.uart.brkNow = true) : txNext s = s := by
  have : (s.uart.sending.isSome || s.uart.brkNow) = true := by simpa [Option.isSome_iff_ne_none] using h
  simp [txNext, this]

/-- A break that is asked for goes out at once where nothing is on TX's line (R345). -/
theorem askBreak_asked (v : Nat) (s : State) (hv : v % 65536 ≠ 0) (hk : s.uart.brkTx = none) :
    askBreak v s = { s with
      uart.brkTx := some (v % 65536), uart.brkNow := s.uart.brkNow || s.uart.sending.isNone } := by
  cases hs : s.uart.sending <;> cases hb : s.uart.brkNow <;> simp [askBreak, txNext, hv, hk, hs, hb]

/-- An entry that finds room is queued, and raises the flags of its errors (R344). -/
theorem pushRx_room (e : RxEntry) (s : State) (h : s.uart.rx.length < 16) :
    pushRx e s = { s with uart := { raiseFlags (b2n e.parity + 2 * b2n e.frame) s.uart with rx := s.uart.rx ++ [e] } } :=
  if_neg (by omega)

/-- A raised flag stands, and is recorded no more (R344). -/
theorem bitAt_raiseFlags (par frm : Bool) (u : Uart) (j : Nat) :
    bitAt (raiseFlags (b2n par + 2 * b2n frm) u).flags j = (bitAt u.flags j || (j == 0 && par) || (j == 1 && frm)) ∧
      bitAt (raiseFlags (b2n par + 2 * b2n frm) u).rsq j = (bitAt u.rsq j && !(j == 0 && par || j == 1 && frm)) := by
  have mask := bitAt_errorMask par frm j
  constructor
  · rw [Bool.or_assoc, ← mask]
    exact Nat.testBit_or ..
  · rw [← mask]
    exact bitAt_sub_and ..

/-- A character that is no break, and finds room, enters the FIFO with the flags of its errors raised (R340, R344). -/
theorem characterReceived_queued (data : List (Bool × Bool × Bool)) (par stop : Bool × Bool × Bool) (s : State)
    (hruns : uartRuns s = true) (hin : s.uart.inBreak = false) (hbreak : isBreak (rxFormat s).1 data par stop = false)
    (hroom : s.uart.rx.length < 16) :
    let e := readFrame (rxFormat s).1 data par stop
    ∃ t, exec (.characterReceived data par stop) s = .next t ∧ t.uart.rx = s.uart.rx ++ [e] ∧
      t.uart.flags = (raiseFlags (b2n e.parity + 2 * b2n e.frame) s.uart).flags ∧
      t.uart.rsq = (raiseFlags (b2n e.parity + 2 * b2n e.frame) s.uart).rsq := by
  refine ⟨_, rfl, ?_⟩
  have acts : (uartRuns s && !s.uart.inBreak) = true := by simp [hruns, hin]
  have noBreak : isBreak (takeFormat s).uart.rxCtrl data par stop = false := hbreak
  simp only [collect_uart, acts, noBreak, if_true, Bool.false_eq_true, if_false]
  rw [pushRx_room _ (takeFormat s) hroom]
  exact ⟨rfl, rfl, rfl⟩

/-- The owner's write has its effect (R341 to R345). -/
theorem gives_owner {i : Instr} {s : State} {off : Nat} {p : Port} (f : State → State) (u : State)
    (hi : exec i s = runCtl (byOwner off p f) s) (h : ownsUart s p = true) (hu : f s = u) (hm : u.mem = s.mem)
    (ht : u.tps = s.tps) : Gives i s u :=
  gives_runCtl _ u hi (by rw [byOwner, if_pos h, hu]) hm ht

/-- Another port's write is ignored and reported (R342, R361). -/
theorem gives_ignored {i : Instr} {s : State} {off : Nat} {p : Port} (f : State → State)
    (hi : exec i s = runCtl (byOwner off p f) s) (h : ownsUart s p = false) : Gives i s (uartIgnored off p s) :=
  gives_runCtl _ _ hi (by simp [byOwner, h]) rfl rfl

/-- A read that does not reach the console's line pops an entry alone (R341, R344). -/
theorem gives_uartDataRead {s : State} {p : Port} (h : ownsUart s p = true) (hp : p ≠ .crown ∨ s.uart.reported = false) :
    Gives (.uartDataRead p) s (popRx s) := by
  refine gives_runCtl _ _ (by rw [exec, execUartDataRead]) ?_ rfl rfl
  rw [if_pos h]
  dsimp only
  split
  · rw [if_neg (by simpa using hp)]
  · rfl

/-! ### The statement -/

/-- Settles O42: each register by its operation's lemma; the flags bit by bit (`bitAt_sub_and`, `bitAt_raiseFlags`). -/
theorem uartRegisters : Obligations.UartRegisters := by
  unfold Obligations.UartRegisters
  refine ⟨fun p data par stop s => ⟨fun owns => ⟨?status, ?data⟩, fun hruns hin hbreak hroom => ?received⟩,
    fun p v s => ⟨fun owns => ⟨?read, ?full, ?queued, ?sent, ?stat, ?attn, ?ctrl, ?baud, ?noBreak, ?brk⟩, fun other => ?others⟩⟩
  case status =>
    refine ⟨_, rfl, ?_⟩
    simp only [collect_uart, owns, if_true, true_and]
    exact fun hrx htx j hj => bitAt_uartStat s j hrx htx hj
  case data =>
    obtain ⟨t, ht, hflags, hrsq⟩ := uartDataRead_owner p s owns
    refine ⟨t, ht, hrsq, fun j => ?_⟩
    rw [hflags]
    exact bitAt_sub_and ..
  case received =>
    obtain ⟨t, ht, hrx, hflags, hrsq⟩ := characterReceived_queued data par stop s hruns hin hbreak hroom
    refine ⟨t, _, ht, hrx, rfl, fun j => ?_⟩
    rw [hflags, hrsq]
    exact bitAt_raiseFlags _ _ s.uart j
  case read =>
    intro hp
    have pops := gives_uartDataRead owns hp
    simp only [popRx, entryWord] at pops
    split <;> simp_all
  case full => exact fun hfull => gives_owner _ _ rfl owns (if_pos hfull) rfl rfl
  case queued =>
    intro hroom hbusy
    exact gives_owner _ _ rfl owns ((if_neg (by omega)).trans (txNext_busy _ hbusy)) rfl rfl
  case sent =>
    intro hempty hidle hbrk
    obtain ⟨hs, hb⟩ : s.uart.sending = none ∧ s.uart.brkNow = false := by simpa using hidle
    refine gives_owner _ _ rfl owns ?_ rfl rfl
    rw [pushTx, if_neg (by simp [hempty]), hempty]
    exact (txNext_idle { s with uart.tx := [v.toNat % 256] } _ [] hs hb hbrk rfl).trans (by rw [← hempty])
  case stat => exact gives_runCtl _ _ (by rw [exec, execUartStatRead]) (by simp [owns]) rfl rfl
  case attn => exact gives_owner _ _ rfl owns rfl rfl rfl
  case ctrl => exact gives_owner _ _ rfl owns rfl rfl rfl
  case baud => exact gives_owner _ _ rfl owns rfl rfl rfl
  case noBreak => exact fun hnone => gives_owner _ _ rfl owns (if_pos (by simpa [Option.isSome_iff_ne_none] using hnone)) rfl rfl
  case brk => exact fun hv hk => gives_owner _ _ rfl owns (askBreak_asked _ s hv hk) rfl rfl
  case others =>
    exact ⟨gives_runCtl _ _ (by rw [exec, execUartDataRead]) (by simp [other]) rfl rfl,
      gives_runCtl _ _ (by rw [exec, execUartStatRead]) (by simp [other]) rfl rfl,
      gives_ignored _ rfl other, gives_ignored _ rfl other, gives_ignored _ rfl other, gives_ignored _ rfl other,
      gives_ignored _ rfl other⟩

end Sys2Proof.Machine
end

section
/-! PROOFS. R353 over every command: a shed that begins, and an event that the Fault Unit logs, leave alert_n low. An operation leaves
alert_n, the log's count and the shed as they are; or it moves the shed (`updateShed`), or resets all three. The collector alone logs. -/

namespace Sys2Proof.Machine

/-- What R353 speaks of: alert_n, the count of logged events, and the shed. -/
def alertOf : State → Bool × Nat × Bool
  | { smb, flt, rgl, .. } => (smb.alertLow, flt.logCnt, rgl.shedding)

/-- A state written out field by field shows its three; a state that is a variable stays folded. -/
@[simp] theorem alertOf_mk : type_of% @alertOf.eq_1 := alertOf.eq_1

/-- The other way, for the fields of one state. Proved by cases and not by `rfl`, so that the kernel never evaluates the state at hand. -/
@[simp] theorem alertOf_fields (s : State) : (s.smb.alertLow, s.flt.logCnt, s.rgl.shedding) = alertOf s := by
  cases s; rfl

/-! ### Choices, folds and the updates of the state -/

@[simp] theorem ite_alert (c : Prop) [Decidable c] (s t : State) :
    alertOf (if c then s else t) = if c then alertOf s else alertOf t :=
  apply_ite alertOf c s t

@[simp] theorem foldl_alert {α : Type} (g : State → α → State) (xs : List α) (s : State)
    (h : ∀ s x, alertOf (g s x) = alertOf s) : alertOf (xs.foldl g s) = alertOf s := by
  induction xs generalizing s with
  | nil => rfl
  | cons x xs ih => rw [List.foldl_cons, ih, h]

@[simp] theorem post_alert (src code sev p s) : alertOf (post src code sev p s) = alertOf s := by simp [post]
@[simp] theorem postIf_alert (c src code sev p s) : alertOf (postIf c src code sev p s) = alertOf s := by simp [postIf]
@[simp] theorem modTp_alert (t f s) : alertOf (modTp t f s) = alertOf s := by simp [modTp]
@[simp] theorem modJob_alert (j f s) : alertOf (modJob j f s) = alertOf s := by simp [modJob]
@[simp] theorem modRun_alert (j f s) : alertOf (modRun j f s) = alertOf s := by simp [modRun]
@[simp] theorem modPart_alert (p f s) : alertOf (modPart p f s) = alertOf s := by simp [modPart]
@[simp] theorem modStm_alert (p f s) : alertOf (modStm p f s) = alertOf s := by simp [modStm]
@[simp] theorem modStream_alert (i f s) : alertOf (modStream i f s) = alertOf s := by simp [modStream]
@[simp] theorem modLink_alert (n f s) : alertOf (modLink n f s) = alertOf s := by simp [modLink]
@[simp] theorem modAcct_alert (a f s) : alertOf (modAcct a f s) = alertOf s := by simp [modAcct]
@[simp] theorem modCl_alert (c f s) : alertOf (modCl c f s) = alertOf s := by simp [modCl]
@[simp] theorem setCfg_alert (id v s) : alertOf (setCfg id v s) = alertOf s := by simp [setCfg]
@[simp] theorem putMem_alert (a bs s) : alertOf (putMem a bs s) = alertOf s := by simp [putMem]
@[simp] theorem healLines_alert (a n s) : alertOf (healLines a n s) = alertOf s := by simp [healLines]
@[simp] theorem countSoft_alert (a n s) : alertOf (countSoft a n s) = alertOf s := by simp [countSoft]
@[simp] theorem skipFree_alert (n s) : alertOf (skipFree n s) = alertOf s := by simp [skipFree]
@[simp] theorem raiseMsix_alert (v s) : alertOf (raiseMsix v s) = alertOf s := by simp [raiseMsix]
@[simp] theorem noteCycle_alert (slot cy s) : alertOf (noteCycle slot cy s) = alertOf s := by simp [noteCycle]
@[simp] theorem advanceTo_alert (t s) : alertOf (advanceTo t s) = alertOf s := by simp [advanceTo]

/-! ### Answers -/

/-- R353: where a shed began or an event was logged, alert_n is low in the answer. -/
def Alerts (s : State) (o : Out) : Prop := ∀ t, o = .next t →
  (s.rgl.shedding = false → t.rgl.shedding = true → t.smb.alertLow = true) ∧
    (s.flt.logCnt < t.flt.logCnt → t.smb.alertLow = true)

/-- From `a` to `b` a shed begins with alert_n low alone, and the log takes no event. -/
def Heeds (a b : Bool × Nat × Bool) : Prop := (a.2.2 = false → b.2.2 = true → b.1 = true) ∧ b.2.1 ≤ a.2.1

@[simp] theorem heeds_rfl (a : Bool × Nat × Bool) : Heeds a a := ⟨fun off on => absurd on (by simp [off]), Nat.le_refl _⟩

@[simp] theorem heeds_ite (c : Prop) [Decidable c] (a x y : Bool × Nat × Bool) :
    Heeds a (if c then x else y) ↔ (c → Heeds a x) ∧ (¬c → Heeds a y) := by
  split <;> simp [*]

theorem ringEvent_alert (e : Ev) (s : State) : alertOf (ringEvent e s) = alertOf s := by
  unfold ringEvent
  dsimp only
  split <;> simp

/-- An accepted event is not logged, or pulls alert_n low (R353, R366). -/
theorem acceptEvent_alert (s : State) (e : Ev) :
    alertOf (acceptEvent s e) = alertOf s ∨ (alertOf (acceptEvent s e)).1 = true := by
  rw [acceptEvent, ringEvent_alert, logEvent]
  split
  · exact .inl rfl
  · exact .inr rfl

theorem acceptAll_alert (es : List Ev) (s : State) :
    alertOf (es.foldl acceptEvent s) = alertOf s ∨ (alertOf (es.foldl acceptEvent s)).1 = true := by
  induction es generalizing s with
  | nil => exact .inl rfl
  | cons e es ih =>
    rw [List.foldl_cons]
    rcases ih (acceptEvent s e) with same | low
    · rw [same]
      exact acceptEvent_alert s e
    · exact .inr low

theorem evInterrupt_alert (s : State) : alertOf (evInterrupt s) = alertOf s := by simp [evInterrupt]

/-- The collector logs nothing, or leaves alert_n low (R353). -/
theorem collect_alert (s : State) : alertOf (collect s) = alertOf s ∨ (alertOf (collect s)).1 = true := by
  rw [collect, evInterrupt_alert]
  exact acceptAll_alert _ { s with ev.queue := [] }

/-- What the collector adds to an effect keeps R353. -/
theorem alerts_of_heeds {s u t : State} (h : Heeds (alertOf s) (alertOf u)) (ht : alertOf t = alertOf (collect u)) :
    Alerts s (.next t) := by
  rintro _ ⟨⟩
  rcases collect_alert u with same | low
  · have kept : Heeds (alertOf s) (alertOf t) := by rwa [ht, same]
    exact kept.imp id fun hle hlt => absurd hlt (Nat.not_lt.2 hle)
  · have low : t.smb.alertLow = true := (congrArg Prod.fst ht).trans low
    exact ⟨fun _ _ => low, fun _ => low⟩

@[simp] theorem alerts_run (f : State → State) (s : State) (h : Heeds (alertOf s) (alertOf (f s))) : Alerts s (run f s) :=
  alerts_of_heeds h rfl

@[simp] theorem alerts_runCtl (f : State → State) (s : State) (h : Heeds (alertOf s) (alertOf (f s))) : Alerts s (runCtl f s) :=
  alerts_of_heeds h rfl

theorem alerts_run_of_same {f : State → State} {s : State} (h : alertOf (f s) = alertOf s) : Alerts s (run f s) :=
  alerts_run f s (by simp [h])

theorem alerts_runCtl_of_same {f : State → State} {s : State} (h : alertOf (f s) = alertOf s) : Alerts s (runCtl f s) :=
  alerts_runCtl f s (by simp [h])

/-! ### Ops -/

@[simp] theorem advanceOpt_alert (t s) : alertOf (advanceOpt t s) = alertOf s := by
  unfold advanceOpt
  split <;> simp

@[simp] theorem passNs_alert (d s) : alertOf (passNs d s) = alertOf s := by simp [passNs]
@[simp] theorem passUp_alert (t s) : alertOf (passUp t s) = alertOf s := by simp [passUp]

@[simp] theorem unheld_alert (f : State → State) (s : State) (h : ∀ s, alertOf (f s) = alertOf s) :
    alertOf (unheld f s) = alertOf s := by
  simp [unheld, h]

@[simp] theorem onEsc_alert (f : State → State) (s : State) (h : ∀ s, alertOf (f s) = alertOf s) :
    alertOf (onEsc f s) = alertOf s := by
  simp [onEsc, h]

@[simp] theorem putMemNat_alert (a n v s) : alertOf (putMemNat a n v s) = alertOf s := by simp [putMemNat]
@[simp] theorem storeMem_alert (a bs s) : alertOf (storeMem a bs s) = alertOf s := by simp [storeMem]
@[simp] theorem eccEvent_alert (sev a reader s) : alertOf (eccEvent sev a reader s) = alertOf s := by simp [eccEvent]

/-! ### LinkOps -/

@[simp] theorem enqueue_alert (n t s) : alertOf (enqueue n t s) = alertOf s := by simp [enqueue]
@[simp] theorem frameDiscard_alert (n reason f s) : alertOf (frameDiscard n reason f s) = alertOf s := by simp [frameDiscard]

@[simp] theorem sendVia_alert (rt f s) : alertOf (sendVia rt f s) = alertOf s := by
  unfold sendVia
  split <;> simp

@[simp] theorem sendRouted_alert (f s) : alertOf (sendRouted f s) = alertOf s := by simp [sendRouted]
@[simp] theorem sendU_alert (kind dst arg payload s) : alertOf (sendU kind dst arg payload s) = alertOf s := by simp [sendU]
@[simp] theorem sendUOn_alert (n kind arg s) : alertOf (sendUOn n kind arg s) = alertOf s := by simp [sendUOn]
@[simp] theorem answerOn_alert (n kind arg asked s) : alertOf (answerOn n kind arg asked s) = alertOf s := by simp [answerOn]

@[simp] theorem sendB_alert (kind dst arg tag payload s) : alertOf (sendB kind dst arg tag payload s) = alertOf s := by
  simp [sendB]

@[simp] theorem checkRemap_alert (s) : alertOf (checkRemap s) = alertOf s := by simp [checkRemap]
@[simp] theorem takeAck_alert (n ack s) : alertOf (takeAck n ack s) = alertOf s := by simp [takeAck]
@[simp] theorem addCredits_alert (n u c b s) : alertOf (addCredits n u c b s) = alertOf s := by simp [addCredits]
@[simp] theorem oweCredits_alert (n f s) : alertOf (oweCredits n f s) = alertOf s := by simp [oweCredits]

@[simp] theorem freeFrames_alert (ts s) : alertOf (freeFrames ts s) = alertOf s :=
  foldl_alert _ _ _ fun s t => by split <;> simp

@[simp] theorem noteDropped_alert (fs s) : alertOf (noteDropped fs s) = alertOf s := by simp [noteDropped]
@[simp] theorem linkError_alert (n s) : alertOf (linkError n s) = alertOf s := by simp [linkError]
@[simp] theorem oweNak_alert (n s) : alertOf (oweNak n s) = alertOf s := by simp [oweNak]
@[simp] theorem setLinkState_alert (n x s) : alertOf (setLinkState n x s) = alertOf s := by simp [setLinkState]

@[simp] theorem moveToAlternates_alert (n s) : alertOf (moveToAlternates n s) = alertOf s :=
  foldl_alert _ _ _ fun s t => by split <;> simp

@[simp] theorem beginFast_alert (n own s) : alertOf (beginFast n own s) = alertOf s := by simp [beginFast]
@[simp] theorem enterTrain_alert (n own s) : alertOf (enterTrain n own s) = alertOf s := by simp [enterTrain]
@[simp] theorem beginTrain_alert (n own s) : alertOf (beginTrain n own s) = alertOf s := by simp [beginTrain]
@[simp] theorem quiet_alert (n s) : alertOf (quiet n s) = alertOf s := by simp [quiet]
@[simp] theorem linkOff_alert (n s) : alertOf (linkOff n s) = alertOf s := by simp [linkOff]

@[simp] theorem linkFailed_alert (n stepNo s) : alertOf (linkFailed n stepNo s) = alertOf s := by
  simp only [linkFailed, setLinkState_alert, post_alert, alertOf_mk, modLink_alert, alertOf_fields,
    noteDropped_alert, freeFrames_alert]
  exact foldl_alert _ _ _ fun s f => by split <;> simp

@[simp] theorem deliver_alert (n : Nat) (f : Frame) (d : State → State) (s : State) (h : ∀ s, alertOf (d s) = alertOf s) :
    alertOf (deliver n f d s) = alertOf s := by
  simp [deliver, h]

@[simp] theorem forward_alert (n f s) : alertOf (forward n f s) = alertOf s := by
  unfold forward
  (repeat' split) <;> simp

@[simp] theorem countSymbols_alert (n k s) : alertOf (countSymbols n k s) = alertOf s := by simp [countSymbols]

@[simp] theorem receive_alert (l : Fin 8) (f : Frame) (kind : Nat) (d : State → State) (s : State)
    (h : ∀ s, alertOf (d s) = alertOf s) : alertOf (receive l f kind d s) = alertOf s := by
  simp [receive, h, acceptSeq, trailerCredits, openGap]

/-! ### Operands -/

@[simp] theorem writeNum_alert (t i o v s) : alertOf (writeNum t i o v s) = alertOf s := by simp [writeNum]

/-! ### VatOps -/

@[simp] theorem enterVat_alert (a s) : alertOf (enterVat a s) = alertOf s := by simp [enterVat, noteVat]

@[simp] theorem serveLine_alert (a s) : alertOf (serveLine a s) = alertOf s := by
  unfold serveLine
  split <;> simp

/-- Each round serves one line of the Vats. -/
@[simp] theorem serveVat_alert (ok k s) : alertOf (serveVat ok k s) = alertOf s := by
  induction k generalizing s with
  | zero => rfl
  | succ k ih =>
    rw [serveVat]
    split <;> simp [ih]

@[simp] theorem serveTo_alert (cycle s) : alertOf (serveTo cycle s) = alertOf s := by simp [serveTo]
@[simp] theorem serveAll_alert (s) : alertOf (serveAll s) = alertOf s := by simp [serveAll]

/-! ### JobOps -/

@[simp] theorem chargeQty_alert (j q add s) : alertOf (chargeQty j q add s) = alertOf s :=
  foldl_alert _ _ _ fun _ _ => rfl

@[simp] theorem chargeEngine_alert (j x s) : alertOf (chargeEngine j x s) = alertOf s := by simp [chargeEngine]

@[simp] theorem chargeStep_alert (j committed s) : alertOf (chargeStep j committed s) = alertOf s := by
  have pre (as : List Nat) (n : Nat) (t : State) : alertOf (as.foldl (fun s a => modAcct a (addPre n) s) t) = alertOf t :=
    foldl_alert _ _ _ fun _ _ => rfl
  simp only [chargeStep]
  (repeat' split) <;> simp [pre]

@[simp] theorem countPre_alert (j s) : alertOf (countPre j s) = alertOf s := by simp [countPre]
@[simp] theorem telBound_alert (p s) : alertOf (telBound p s) = alertOf s := by simp [telBound]
@[simp] theorem makeReady_alert (j raise s) : alertOf (makeReady j raise s) = alertOf s := by simp [makeReady]
@[simp] theorem makeRunning_alert (j s) : alertOf (makeRunning j s) = alertOf s := by simp [makeRunning]

@[simp] theorem grantUnits_alert (k s) : alertOf (grantUnits k s) = alertOf s := by
  induction k generalizing s with
  | zero => rfl
  | succ k ih =>
    simp only [grantUnits]
    split
    · split
      · rw [ih, modJob_alert, makeRunning_alert]
      · rfl
    · rfl

@[simp] theorem askUnit_alert (j s) : alertOf (askUnit j s) = alertOf s := by simp [askUnit]

@[simp] theorem freeMatrix_alert (ts s) : alertOf (freeMatrix ts s) = alertOf s :=
  foldl_alert _ _ _ fun s t => by rw [skipFree_alert, putMem_alert]

@[simp] theorem haltJob_alert (j s) : alertOf (haltJob j s) = alertOf s := by simp [haltJob]
@[simp] theorem dropWork_alert (j s) : alertOf (dropWork j s) = alertOf s := by simp [dropWork, serveJob]
@[simp] theorem abandonCulture_alert (j s) : alertOf (abandonCulture j s) = alertOf s := by simp [abandonCulture]
@[simp] theorem releaseLocks_alert (p replay s) : alertOf (releaseLocks p replay s) = alertOf s := by simp [releaseLocks]
@[simp] theorem beginRun_alert (p j s) : alertOf (beginRun p j s) = alertOf s := by simp [beginRun]
@[simp] theorem zeroTps_alert (mask s) : alertOf (zeroTps mask s) = alertOf s := by simp [zeroTps]

@[simp] theorem switchEvent_alert (p out inc saved restored s) :
    alertOf (switchEvent p out inc saved restored s) = alertOf s := by
  simp [switchEvent]

@[simp] theorem bringIn_alert (p out inc lines due s) : alertOf (bringIn p out inc lines due s) = alertOf s := by
  unfold bringIn
  (repeat' split) <;> simp

@[simp] theorem startNext_alert (p out s) : alertOf (startNext p out s) = alertOf s := by
  unfold startNext
  (repeat' split) <;> simp

@[simp] theorem chargeAttempt_alert (j s) : alertOf (chargeAttempt j s) = alertOf s := by simp [chargeAttempt]

@[simp] theorem overrunEvent_alert (t tile len slip faulted s) :
    alertOf (overrunEvent t tile len slip faulted s) = alertOf s := by
  simp [overrunEvent]

@[simp] theorem instrFaultEvent_alert (t thr off reason s) : alertOf (instrFaultEvent t thr off reason s) = alertOf s := by
  simp [instrFaultEvent]

@[simp] theorem accessFaultEvent_alert (t thr g reason s) : alertOf (accessFaultEvent t thr g reason s) = alertOf s := by
  simp [accessFaultEvent]

@[simp] theorem reportOverruns_alert (j s) : alertOf (reportOverruns j s) = alertOf s :=
  foldl_alert _ _ _ fun s x => by (repeat' split) <;> simp

@[simp] theorem clearDigests_alert (s) : alertOf (clearDigests s) = alertOf s := by simp [clearDigests]
@[simp] theorem endAttempts_alert (s) : alertOf (endAttempts s) = alertOf s := by simp [endAttempts]
@[simp] theorem faultJob_alert (j s) : alertOf (faultJob j s) = alertOf s := by simp [faultJob, ringNext, ringSwing]
@[simp] theorem failColl_alert (j prog s) : alertOf (failColl j prog s) = alertOf s := by simp [failColl, holdRing]

@[simp] theorem failAllColls_alert (s) : alertOf (failAllColls s) = alertOf s := by
  unfold failAllColls
  (repeat' split) <;> simp

@[simp] theorem sendNotice_alert (chip arg s) : alertOf (sendNotice chip arg s) = alertOf s := by
  unfold sendNotice
  split <;> simp

@[simp] theorem fenceChip_alert (x reason hops origin from_ s) :
    alertOf (fenceChip x reason hops origin from_ s) = alertOf s := by
  simp [fenceChip]

@[simp] theorem selfFence_alert (reason s) : alertOf (selfFence reason s) = alertOf s := by
  unfold selfFence
  dsimp only
  (repeat' split) <;> simp

@[simp] theorem chipClass_alert (table addr s) : alertOf (chipClass table addr s) = alertOf s := by simp [chipClass]

@[simp] theorem onTable_alert (k : Nat) (f : State → State) (s : State) (h : ∀ s, alertOf (f s) = alertOf s) :
    alertOf (onTable k f s) = alertOf s := by
  simp [onTable, h]

/-! ### Issue -/

@[simp] theorem faultOverrun_alert (c s) : alertOf (faultOverrun c s) = alertOf s := by simp [faultOverrun, faultTile]
@[simp] theorem raiseSlip_alert (slot base len s) : alertOf (raiseSlip slot base len s) = alertOf s := by simp [raiseSlip]

@[simp] theorem writeIndex_alert (t n s) : alertOf (writeIndex t n s) = alertOf s := by
  unfold writeIndex
  split <;> simp

@[simp] theorem closeNests_alert (t k s) : alertOf (closeNests t k s) = alertOf s := by
  induction k generalizing s with
  | zero => rfl
  | succ k ih =>
    simp only [closeNests]
    split
    · rfl
    · simp [ih, loopLimit]

@[simp] theorem retire_alert (t cy s) : alertOf (retire t cy s) = alertOf s := by simp [retire]

@[simp] theorem deferLines_alert (slot late s) : alertOf (deferLines slot late s) = alertOf s :=
  foldl_alert _ _ _ fun _ _ => rfl

@[simp] theorem addDeferred_alert (r s) : alertOf (addDeferred r s) = alertOf s := by simp [addDeferred]

@[simp] theorem chargeHbm_alert (c a n least keys store s) : alertOf (chargeHbm c a n least keys store s) = alertOf s := by
  simp [chargeHbm]

@[simp] theorem failIssue_alert (c : TileCtx) (f : TField) (r : Nat) (acc : Nat × Nat) (halts : Bool) (s : State) :
    alertOf (failIssue c f r acc halts s) = alertOf s := by
  simp [failIssue]

@[simp] theorem failEcc_alert (c a n s) : alertOf (failEcc c a n s) = alertOf s := by simp [failEcc]
@[simp] theorem runOff_alert (c s) : alertOf (runOff c s) = alertOf s := by simp [runOff]
@[simp] theorem passCeiling_alert (c cy s) : alertOf (passCeiling c cy s) = alertOf s := by simp [passCeiling]
@[simp] theorem stall_alert (t f s) : alertOf (stall t f s) = alertOf s := by simp [stall]

/-- Making the operands of an instruction ready serves the Vats alone. -/
theorem readied_alert (o : OpSpec) (c : TileCtx) (f : TField) (s : State) (cy : Nat) (t : State)
    (h : readied o c f s = some (cy, t)) : alertOf t = alertOf s := by
  simp only [readied] at h
  split at h
  · cases h
  · split at h
    · cases h
    · cases h
      simp

/-- The issue of an instruction leaves the three where its act does. -/
@[simp] theorem issue_alert (o : OpSpec) (t : Fin 128) (f : TField) (act : TileCtx → Nat → State → State) (s : State)
    (h : ∀ c cy s, alertOf (act c cy s) = alertOf s) : alertOf (issue o t f act s) = alertOf s := by
  simp only [issue]
  split
  · rfl
  · split
    · simp
    · split
      · simp
      · split
        · simp
        · next hr =>
          have hs := readied_alert _ _ _ _ _ _ hr
          simp [h, hs]

@[simp] theorem result_alert (o f lat v c cy s) : alertOf (result o f lat v c cy s) = alertOf s := by simp [result]

/-! ### RingOps -/

@[simp] theorem takeView_alert (p s) : alertOf (takeView p s) = alertOf s := by simp [takeView]

@[simp] theorem sendColl_alert (p prog dir stage off data s) : alertOf (sendColl p prog dir stage off data s) = alertOf s := by
  unfold sendColl
  split <;> simp

@[simp] theorem passColl_alert (j prog m c s f) : alertOf (passColl j prog m c s f) = alertOf s := by simp [passColl]

@[simp] theorem enterColl_alert (j prog m c s) : alertOf (enterColl j prog m c s) = alertOf s := by
  simp [enterColl, startColl, sendHalf]

@[simp] theorem routed_alert (l : Fin 8) (f : Frame) (kind : Nat) (d : State → State) (s : State)
    (h : ∀ s, alertOf (d s) = alertOf s) : alertOf (routed l f kind d s) = alertOf s := by
  simp [routed, h]

/-! ### Control -/

@[simp] theorem endTile_alert (c cy s) : alertOf (endTile c cy s) = alertOf s := by simp [endTile]

@[simp] theorem execBrk_alerts (t f s) : Alerts s (execBrk t f s) := by
  refine alerts_run_of_same (issue_alert _ _ _ _ _ fun c cy s => ?_)
  split
  · simp
  · split <;> simp

@[simp] theorem resume_alert (t thr cy s) : alertOf (resume t thr cy s) = alertOf s := by
  unfold resume
  dsimp only
  (repeat' split) <;> simp

@[simp] theorem csyncRelease_alert (j id s) : alertOf (csyncRelease j id s) = alertOf s := by simp [csyncRelease]

/-! ### Separator -/

@[simp] theorem writeRows_alert (out rows s) : alertOf (writeRows out rows s) = alertOf s := by simp [writeRows]

/-! ### Culture -/

@[simp] theorem culUpdate_alert (slot layer n attempt d h s) : alertOf (culUpdate slot layer n attempt d h s).1 = alertOf s := by
  simp [culUpdate, apply_ite Prod.fst]

/-! ### BlockIssue -/

@[simp] theorem setQueue_alert (k q s) : alertOf (setQueue k q s) = alertOf s := by simp [setQueue]

@[simp] theorem landStatus_alert (slot tp tile dst count code cy s) :
    alertOf (landStatus slot tp tile dst count code cy s) = alertOf s := by
  unfold landStatus
  split <;> simp

@[simp] theorem landOp_alert (o count code s) : alertOf (landOp o count code s) = alertOf s := by simp [landOp]

@[simp] theorem issueOp_alert (k layer first count cost tps f c cy s) :
    alertOf (issueOp k layer first count cost tps f c cy s) = alertOf s := by
  simp [issueOp]

@[simp] theorem rejectOp_alert (src code status payload f c cy s) :
    alertOf (rejectOp src code status payload f c cy s) = alertOf s := by
  simp [rejectOp]

@[simp] theorem lineReads_alert (slot reader : Nat) (reads : Nat → Bool) (act : State → State) (s : State)
    (h : ∀ s, alertOf (act s) = alertOf s) : alertOf (lineReads slot reader reads act s) = alertOf s := by
  unfold lineReads
  split <;> simp [h]

@[simp] theorem blockReads_alert (slot reader : Nat) (rs : List (Nat × Nat)) (ls : List Lay) (act : State → State) (s : State)
    (h : ∀ s, alertOf (act s) = alertOf s) : alertOf (blockReads slot reader rs ls act s) = alertOf s := by
  simp [blockReads, h]

@[simp] theorem completeOp_alert (k : Nat) (act : BlockOp → State → State) (s : State)
    (h : ∀ o s, alertOf (act o s) = alertOf s) : alertOf (completeOp k act s) = alertOf s := by
  unfold completeOp
  split <;> simp [h, popOp]

@[simp] theorem selDone_alert (o s) : alertOf (selDone o s) = alertOf s := by simp [selDone]
@[simp] theorem storeAll_alert (ws s) : alertOf (storeAll ws s) = alertOf s := by simp [storeAll]

@[simp] theorem dspDone_alert (o s) : alertOf (dspDone o s) = alertOf s := by
  unfold dspDone
  dsimp only
  (repeat' split) <;> simp [queueBalance]

@[simp] theorem logLines_alert (base n k at_ bs s) : alertOf (logLines base n k at_ bs s) = alertOf s := by
  induction k generalizing at_ bs s with
  | zero => rfl
  | succ k ih => rw [logLines, ih, storeMem_alert]

@[simp] theorem execBalanceLogWrite_alerts (s) : Alerts s (execBalanceLogWrite s) := by
  refine alerts_run_of_same ?_
  dsimp only
  split <;> simp

@[simp] theorem grwDone_alert (c o s) : alertOf (grwDone c o s) = alertOf s := by
  refine blockReads_alert _ _ _ _ _ _ fun s => ?_
  simp only [landOp_alert, skipFree_alert, modRun_alert, freeMatrix_alert]
  exact foldl_alert _ _ _ fun s x => by split <;> simp

@[simp] theorem cmbDone_alert (o s) : alertOf (cmbDone o s) = alertOf s := by
  unfold cmbDone
  dsimp only
  (repeat' split) <;> simp

@[simp] theorem culDone_alert (o s) : alertOf (culDone o s) = alertOf s := by
  simp only [culDone]
  split
  · rfl
  · exact blockReads_alert _ _ _ _ _ _ fun s => by simp

@[simp] theorem setChannel_alert (ch o s) : alertOf (setChannel ch o s) = alertOf s := by simp [setChannel]

@[simp] theorem feedChannel_alert (ch s) : alertOf (feedChannel ch s) = alertOf s := by
  unfold feedChannel
  split <;> simp

@[simp] theorem dropLate_alert (id s) : alertOf (dropLate id s) = alertOf s := by simp [dropLate]
@[simp] theorem landLoad_alert (o count cy s) : alertOf (landLoad o count cy s) = alertOf s := by simp [landLoad]
@[simp] theorem loadDone_alert (cy o s) : alertOf (loadDone cy o s) = alertOf s := by simp [loadDone]

@[simp] theorem completeLoad_alert (ch : Nat) (reject : Bool) (act : Nat → LoadOp → State → State) (s : State)
    (h : ∀ n o s, alertOf (act n o s) = alertOf s) : alertOf (completeLoad ch reject act s) = alertOf s := by
  unfold completeLoad
  split <;> simp [h]

@[simp] theorem execBlockQueueStart_alerts (b s) : Alerts s (execBlockQueueStart b s) := by
  refine alerts_run_of_same ?_
  dsimp only
  split <;> simp

/-! ### Ramp -/

@[simp] theorem sendRamp_alert (chip op epoch d id watts s) : alertOf (sendRamp chip op epoch d id watts s) = alertOf s := by
  simp [sendRamp]

@[simp] theorem spend_alert (d x s) : alertOf (spend d x s) = alertOf s := by
  cases d <;> simp [spend]

@[simp] theorem setReq_alert (d r s) : alertOf (setReq d r s) = alertOf s := by
  unfold setReq
  split <;> simp

@[simp] theorem takeLease_alert (d id watts g pool epoch s) : alertOf (takeLease d id watts g pool epoch s) = alertOf s := by
  unfold takeLease
  (repeat' split) <;> simp

@[simp] theorem grantOne_alert (q w s) : alertOf (grantOne q w s) = alertOf s := by simp [grantOne]

@[simp] theorem grantQueue_alert (k d s) : alertOf (grantQueue k d s) = alertOf s := by
  induction k generalizing s with
  | zero => rfl
  | succ k ih =>
    simp only [grantQueue]
    split
    · rfl
    · split
      · rw [ih, grantOne_alert]
      · rfl

@[simp] theorem tellOne_alert (s q) : alertOf (tellOne s q) = alertOf s := by
  unfold tellOne
  (repeat' split) <;> simp

@[simp] theorem servePool_alert (d s) : alertOf (servePool d s) = alertOf s := by simp [servePool, tellQueued]
@[simp] theorem joinQueue_alert (d chip id watts s) : alertOf (joinQueue d chip id watts s) = alertOf s := by simp [joinQueue]
@[simp] theorem sendRequest_alert (d r s) : alertOf (sendRequest d r s) = alertOf s := by simp [sendRequest]

@[simp] theorem askCredits_alert (d x s) : alertOf (askCredits d x s) = alertOf s := by
  unfold askCredits
  split <;> simp

@[simp] theorem returnLease_alert (d chip id s) : alertOf (returnLease d chip id s) = alertOf s := by
  unfold returnLease
  split <;> simp

@[simp] theorem beginHandover_alert (s) : alertOf (beginHandover s) = alertOf s := by simp [beginHandover, announceAll]
@[simp] theorem takeAnnounce_alert (src e at_ s) : alertOf (takeAnnounce src e at_ s) = alertOf s := by simp [takeAnnounce]
@[simp] theorem takeReport_alert (src watts s) : alertOf (takeReport src watts s) = alertOf s := by simp [takeReport]

@[simp] theorem rampIn_alert (op : Nat) (f : Frame) (act : Nat → Dir → Nat → Nat → State → State) (s : State)
    (h : ∀ e d id w s, alertOf (act e d id w s) = alertOf s) : alertOf (rampIn op f act s) = alertOf s := by
  simp [rampIn, h, hearEpoch]

@[simp] theorem execRampWindow_alerts (s) : Alerts s (execRampWindow s) := by
  refine alerts_runCtl_of_same ?_
  dsimp only
  split <;> simp

@[simp] theorem execLeaseEnd_alerts (d id s) : Alerts s (execLeaseEnd d id s) := by
  refine alerts_runCtl_of_same ?_
  split <;> simp

@[simp] theorem execReclaim_alerts (d chip id s) : Alerts s (execReclaim d chip id s) := by
  refine alerts_runCtl_of_same ?_
  split <;> simp

@[simp] theorem execQueued_alerts (l fr s) : Alerts s (execQueued l fr s) := by
  refine alerts_runCtl_of_same (receive_alert _ _ _ _ _ fun s => rampIn_alert _ _ _ _ fun _ d id _ t => ?_)
  split <;> simp

@[simp] theorem execBackupTakeover_alerts (s) : Alerts s (execBackupTakeover s) := by
  refine alerts_runCtl_of_same ?_
  dsimp only
  split <;> simp

@[simp] theorem execRequestResend_alerts (d s) : Alerts s (execRequestResend d s) := by
  refine alerts_runCtl_of_same ?_
  split <;> simp

/-! ### StreamOps -/

@[simp] theorem complete_alert (p c s) : alertOf (complete p c s) = alertOf s := by
  simp only [complete]
  split
  · split <;> rfl
  · simp

@[simp] theorem complIrq_alert (p before s) : alertOf (complIrq p before s) = alertOf s := by simp [complIrq]

@[simp] theorem subEffect_alert (p e s) : alertOf (subEffect p e s) = alertOf s := by
  unfold subEffect
  split <;> simp

@[simp] theorem applySub_alert (p s z) : alertOf (applySub p s z) = alertOf s := by simp [applySub]
@[simp] theorem applyDue_alert (p s) : alertOf (applyDue p s) = alertOf s := by simp [applyDue]

@[simp] theorem commitStream_alert (p n budget rows s i) : alertOf (commitStream p n budget rows s i) = alertOf s := by
  unfold commitStream
  dsimp only
  (repeat' split) <;> simp

@[simp] theorem commitStreams_alert (p budget s) : alertOf (commitStreams p budget s) = alertOf s := by
  unfold commitStreams
  dsimp only
  (repeat' split) <;> simp [commitOne, endCancelled]

@[simp] theorem resetPart_alert (p s) : alertOf (resetPart p s) = alertOf s := by
  unfold resetPart
  split <;> simp [abandonStep]

/-! ### Sched -/

@[simp] theorem switchPoint_alert (p j n ix idle due s) : alertOf (switchPoint p j n ix idle due s) = alertOf s := by
  unfold switchPoint
  split <;> simp [beginSave]

@[simp] theorem switchEcc_alert (cause src s) : alertOf (switchEcc cause src s) = alertOf s := by
  unfold switchEcc
  split <;> simp

@[simp] theorem switchFault_alert (p j which cause s) : alertOf (switchFault p j which cause s) = alertOf s := by
  simp [switchFault]

@[simp] theorem spread_alert (rs bs s) : alertOf (spread rs bs s) = alertOf s := by
  induction rs generalizing bs s with
  | nil => rfl
  | cons r rs ih => rw [spread, ih, storeMem_alert]

@[simp] theorem countSwitch_alert (j lines s) : alertOf (countSwitch j lines s) = alertOf s := by simp [countSwitch]

@[simp] theorem execSaveComplete_alerts (p s) : Alerts s (execSaveComplete p s) := by
  refine alerts_run_of_same ?_
  (repeat' split) <;> simp [saveDone, jobLeaves]

@[simp] theorem execRestoreComplete_alerts (p s) : Alerts s (execRestoreComplete p s) := by
  refine alerts_run_of_same ?_
  (repeat' split) <;> simp [restoreDone]

@[simp] theorem execRingSwitch_alerts (p s) : Alerts s (execRingSwitch p s) := by
  refine alerts_run_of_same ?_
  split <;> simp

@[simp] theorem schIgnored_alert (j off s) : alertOf (schIgnored j off s) = alertOf s := by simp [schIgnored]

@[simp] theorem jobCommand_alert (j cmd : Nat) (st : State → Nat) (act : State → State) (s : State)
    (h : ∀ s, alertOf (act s) = alertOf s) : alertOf (jobCommand j cmd st act s) = alertOf s := by
  simp [jobCommand, h, jobStatus]

@[simp] theorem offerJob_alert (j s) : alertOf (offerJob j s) = alertOf s := by simp [offerJob]
@[simp] theorem cmdInstall_alert (j s) : alertOf (cmdInstall j s) = alertOf s := by simp [cmdInstall, rejectEvent, installJob]
@[simp] theorem cmdStart_alert (j s) : alertOf (cmdStart j s) = alertOf s := by simp [cmdStart]

@[simp] theorem cmdPreempt_alert (j s) : alertOf (cmdPreempt j s) = alertOf s :=
  jobCommand_alert _ _ _ _ _ fun _ => rfl

@[simp] theorem cmdRemove_alert (j s) : alertOf (cmdRemove j s) = alertOf s := by simp [cmdRemove, endSwings]
@[simp] theorem cmdRestart_alert (j s) : alertOf (cmdRestart j s) = alertOf s := by simp [cmdRestart, zeroThreads]

@[simp] theorem execJobReady_alerts (slot s) : Alerts s (execJobReady slot s) := by
  refine alerts_run_of_same ?_
  dsimp only
  split <;> simp [freeRing]

/-! ### Streams -/

@[simp] theorem doorbellIgnored_alert (p idx head s) : alertOf (doorbellIgnored p idx head s) = alertOf s := by
  simp [doorbellIgnored]

@[simp] theorem stmIgnored_alert (p off s) : alertOf (stmIgnored p off s) = alertOf s := by simp [stmIgnored]
@[simp] theorem writeSqTail_alert (p idx s) : alertOf (writeSqTail p idx s) = alertOf s := by simp [writeSqTail]
@[simp] theorem applyNow_alert (p op c tokens s) : alertOf (applyNow p op c tokens s) = alertOf s := by simp [applyNow]

@[simp] theorem execStepBuild_alerts (p s) : Alerts s (execStepBuild p s) := by
  refine alerts_run_of_same (onTable_alert _ _ _ fun s => ?_)
  split <;> simp [idleBuild, buildStep, lockRows]

@[simp] theorem writeCqHead_alert (p idx s) : alertOf (writeCqHead p idx s) = alertOf s := by simp [writeCqHead]
@[simp] theorem writeSqSetup_alert (p r v s) : alertOf (writeSqSetup p r v s) = alertOf s := by simp [writeSqSetup]
@[simp] theorem writeCqSetup_alert (p r v s) : alertOf (writeCqSetup p r v s) = alertOf s := by simp [writeCqSetup]

@[simp] theorem execLockLeaseExpiry_alerts (p stream s) : Alerts s (execLockLeaseExpiry p stream s) := by
  refine alerts_run_of_same ?_
  dsimp only
  split <;> simp

/-! ### Tiles -/

@[simp] theorem armColls_alert (j s) : alertOf (armColls j s) = alertOf s := by
  unfold armColls
  dsimp only
  (repeat' split) <;> simp

@[simp] theorem startStep_alert (p s j) : alertOf (startStep p s j) = alertOf s := by simp [startStep, freshTps, lateStart]

@[simp] theorem execTileBegin_alerts (t slot waited s) : Alerts s (execTileBegin t slot waited s) := by
  refine alerts_run_of_same ?_
  dsimp only
  split <;> simp [beginTile]

@[simp] theorem execCeilingOverrun_alerts (t s) : Alerts s (execCeilingOverrun t s) := by
  refine alerts_run_of_same ?_
  split <;> simp

@[simp] theorem execSlipLimitCrossed_alerts (t s) : Alerts s (execSlipLimitCrossed t s) := by
  refine alerts_run_of_same ?_
  dsimp only
  (repeat' split) <;> simp

@[simp] theorem execRendezvousOverrun_alerts (t s) : Alerts s (execRendezvousOverrun t s) := by
  refine alerts_run_of_same ?_
  dsimp only
  (repeat' split) <;> simp

@[simp] theorem endRdv_alert (c f cy thr base s) : alertOf (endRdv c f cy thr base s) = alertOf s := by simp [endRdv]

@[simp] theorem execCollectiveComplete_alerts (slot prog s) : Alerts s (execCollectiveComplete slot prog s) := by
  refine alerts_run_of_same ?_
  dsimp only
  (repeat' split) <;> simp

@[simp] theorem reachCycle_alert (j cycle s) : alertOf (reachCycle j cycle s) = alertOf s := by simp [reachCycle]
@[simp] theorem stopWait_alert (j cycle slip s x) : alertOf (stopWait j cycle slip s x) = alertOf s := by simp [stopWait]

@[simp] theorem stopWaits_alert (j cycle lates s) : alertOf (stopWaits j cycle lates s).1 = alertOf s := by
  have hs : alertOf (lates.foldl (stopWait j cycle (getJob s j).run.slip) s) = alertOf s :=
    foldl_alert _ _ _ fun s x => stopWait_alert j cycle _ s x
  simp only [stopWaits]
  split <;> simp [hs]

@[simp] theorem unitEnd_alert (j s) : alertOf (unitEnd j s) = alertOf s := by simp [unitEnd]

@[simp] theorem commitStep_alert (j s) : alertOf (commitStep j s) = alertOf s := by
  simp [commitStep, commitCulture, commitLayer, nextStepNo, dropRewards]

@[simp] theorem sendDigest_alert (d s) : alertOf (sendDigest d s) = alertOf s := by
  unfold sendDigest
  split
  · exact foldl_alert _ _ _ fun s role => by split <;> simp
  · exact foldl_alert _ _ _ fun s c => sendU_alert ..

@[simp] theorem ringMismatch_alert (j fm bm s) : alertOf (ringMismatch j fm bm s) = alertOf s := by
  simp [ringMismatch, runAgain, giveVerdict]

@[simp] theorem mismatch_alert (j fm bm s) : alertOf (mismatch j fm bm s) = alertOf s := by simp [mismatch]

@[simp] theorem compareDigests_alert (j s) : alertOf (compareDigests j s) = alertOf s := by
  unfold compareDigests
  split <;> simp

@[simp] theorem execStopRelease_alerts (slot s) : Alerts s (execStopRelease slot s) := by
  refine alerts_run_of_same ?_
  dsimp only
  split <;> simp [releaseStop, chargeTo, passStop, formDigest, reachStepEnd, waitSwing]

@[simp] theorem execDigestTimeout_alerts (slot s) : Alerts s (execDigestTimeout slot s) := by
  refine alerts_run_of_same ?_
  dsimp only
  split
  · split
    · rw [faultJob_alert, foldl_alert _ _ _ fun _ _ => post_alert .., advanceTo_alert]
    · rfl
  · rfl

/-! ### Ticks -/

@[simp] theorem reServe_alert (s r) : alertOf (reServe s r) = alertOf s := by
  unfold reServe
  dsimp only
  (repeat' split) <;> simp [holdLoad]

@[simp] theorem countBeat_alert (s) : alertOf (countBeat s) = alertOf s := by simp [countBeat]

@[simp] theorem lateWait_alert (t s) : alertOf (lateWait t s) = alertOf s := by
  unfold lateWait
  dsimp only
  (repeat' split) <;> simp

@[simp] theorem lateWaits_alert (s) : alertOf (lateWaits s) = alertOf s := by simp [lateWaits]

@[simp] theorem feedSwitch_alert (p s) : alertOf (feedSwitch p s) = alertOf s := by
  unfold feedSwitch
  split <;> simp

@[simp] theorem execHbmRefresh_alerts (s) : Alerts s (execHbmRefresh s) := by
  refine alerts_run_of_same ?_
  dsimp only
  split <;> simp

@[simp] theorem execHbmAccessComplete_alerts (req s) : Alerts s (execHbmAccessComplete req s) := by
  refine alerts_run_of_same ?_
  dsimp only
  split <;> simp [finishHbm]

@[simp] theorem failRemote_alert (r reason s) : alertOf (failRemote r reason s) = alertOf s := by simp [failRemote]

@[simp] theorem execRemoteAccessTimeout_alerts (tag s) : Alerts s (execRemoteAccessTimeout tag s) := by
  refine alerts_run_of_same ?_
  dsimp only
  split <;> simp

@[simp] theorem decideFault_alert (j s) : alertOf (decideFault j s) = alertOf s := by
  unfold decideFault
  split <;> simp

@[simp] theorem stepVerdict_alert (s) : alertOf (stepVerdict s) = alertOf s := by
  unfold stepVerdict
  split <;> simp

@[simp] theorem sentVerdict_alert (s) : alertOf (sentVerdict s) = alertOf s := by
  unfold sentVerdict
  split <;> simp

@[simp] theorem sendHeartbeats_alert (s) : alertOf (sendHeartbeats s) = alertOf s := by simp [sendHeartbeats]

@[simp] theorem modSide_alert (n f s) : alertOf (modSide n f s) = alertOf s := by
  unfold modSide
  split <;> simp

/-! ### Keeper -/

@[simp] theorem keeperAccept_alert (dst u s) : alertOf (keeperAccept dst u s) = alertOf s := by simp [keeperAccept]
@[simp] theorem writeKdst_alert (v s) : alertOf (writeKdst v s) = alertOf s := by simp [writeKdst]

@[simp] theorem atSwing_alert (op : Nat) (act : List Byte → State → State) (s : State)
    (h : ∀ b s, alertOf (act b s) = alertOf s) : alertOf (atSwing op act s) = alertOf s := by
  unfold atSwing
  split <;> simp [h]

@[simp] theorem routeAct_alert (b s) : alertOf (routeAct b s) = alertOf s := by simp [routeAct]
@[simp] theorem ringAct_alert (b s) : alertOf (ringAct b s) = alertOf s := by simp [ringAct, roleAct]
@[simp] theorem poolAct_alert (b s) : alertOf (poolAct b s) = alertOf s := by simp [poolAct]
@[simp] theorem rewardAct_alert (b s) : alertOf (rewardAct b s) = alertOf s := by simp [rewardAct]
@[simp] theorem unfenceAct_alert (b s) : alertOf (unfenceAct b s) = alertOf s := by simp [unfenceAct]
@[simp] theorem remapAct_alert (b s) : alertOf (remapAct b s) = alertOf s := by simp [remapAct]

@[simp] theorem feedRemap_alert (s) : alertOf (feedRemap s) = alertOf s := by
  unfold feedRemap
  dsimp only
  (repeat' split) <;> simp

@[simp] theorem checkRestored_alert (s) : alertOf (checkRestored s) = alertOf s := by simp [checkRestored]

/-- Bulk data lands in memory, in stream entries or in the serving state. -/
theorem bulkWrite_alert (s : State) (a : Nat) (bs : List Byte) (t : State) (h : bulkWrite s a bs = some t) :
    alertOf t = alertOf s := by
  simp only [bulkWrite] at h
  split at h
  · cases h
  · split at h
    · cases h
      simp
    · split at h
      · split at h
        · cases h
          exact foldl_alert _ _ _ fun s x => rfl
        · cases h
      · split at h <;> cases h
        simp

@[simp] theorem execBulkCopy_alerts (l fr s) : Alerts s (execBulkCopy l fr s) := by
  refine alerts_run_of_same (routed_alert _ _ _ _ _ fun t => ?_)
  split
  · next h => exact bulkWrite_alert _ _ _ _ h
  · rfl

@[simp] theorem writeRemapCmd_alert (v s) : alertOf (writeRemapCmd v s) = alertOf s := by simp [writeRemapCmd]
@[simp] theorem scrub_alert (lo hi s) : alertOf (scrub lo hi s) = alertOf s := by simp [scrub]
@[simp] theorem writeSum0_alert (v s) : alertOf (writeSum0 v s) = alertOf s := by simp [writeSum0]
@[simp] theorem fltIgnored_alert (off s) : alertOf (fltIgnored off s) = alertOf s := by simp [fltIgnored]
@[simp] theorem writeEvHead_alert (v s) : alertOf (writeEvHead v s) = alertOf s := by simp [writeEvHead]
@[simp] theorem writeEvSetup_alert (r v s) : alertOf (writeEvSetup r v s) = alertOf s := by simp [writeEvSetup]
@[simp] theorem writeEvCtrl_alert (v s) : alertOf (writeEvCtrl v s) = alertOf s := by simp [writeEvCtrl, configSummary]

/-! ### CultureRegs -/

@[simp] theorem setSnStat_alert (fn v s) : alertOf (setSnStat fn v s) = alertOf s := by simp [setSnStat]

@[simp] theorem requestLease_alert (fn v s) : alertOf (requestLease fn v s) = alertOf s := by
  unfold requestLease
  dsimp only
  (repeat' split) <;> simp

@[simp] theorem dropLease_alert (l s) : alertOf (dropLease l s) = alertOf s := by simp [dropLease]

@[simp] theorem releaseLease_alert (fn v s) : alertOf (releaseLease fn v s) = alertOf s := by
  unfold releaseLease
  split <;> simp

@[simp] theorem execLeaseExpired_alerts (id s) : Alerts s (execLeaseExpired id s) := by
  refine alerts_runCtl_of_same ?_
  split <;> simp

@[simp] theorem armResume_alert (v s) : alertOf (armResume v s) = alertOf s := by
  unfold armResume
  split <;> simp

/-! ### Escapement -/

@[simp] theorem setEsc_alert (x s) : alertOf (setEsc x s) = alertOf s := by simp [setEsc]

@[simp] theorem escPoll_alert (s) : alertOf (escPoll s) = alertOf s := by
  unfold escPoll
  (repeat' split) <;> simp [acquireFrom]

@[simp] theorem escStart_alert (s) : alertOf (escStart s) = alertOf s := by simp [escStart]

@[simp] theorem parentResult_alert (o s) : alertOf (parentResult o s) = alertOf s := by
  unfold parentResult
  dsimp only
  (repeat' split) <;> simp [stepFleet, lockNow]

@[simp] theorem execTimeExchangeResponse_alerts (l r s) : Alerts s (execTimeExchangeResponse l r s) := by
  refine alerts_runCtl_of_same (receive_alert _ _ _ _ _ fun t => ?_)
  dsimp only
  split
  · rfl
  · split <;> simp [takeResult]

@[simp] theorem execTimeExchangeAbandon_alerts (l id s) : Alerts s (execTimeExchangeAbandon l id s) := by
  refine alerts_runCtl_of_same ?_
  split <;> simp

@[simp] theorem execRateUpdate_alerts (s) : Alerts s (execRateUpdate s) := by
  refine alerts_run_of_same (onEsc_alert _ _ fun s => onTable_alert _ _ _ fun s => ?_)
  dsimp only
  split <;> simp [steerBy]

@[simp] theorem execParentChange_alerts (s) : Alerts s (execParentChange s) := by
  refine alerts_runCtl_of_same ?_
  unfold onEsc
  dsimp only
  (repeat' split) <;> simp

@[simp] theorem execBeatInEdge_alerts (s) : Alerts s (execBeatInEdge s) := by
  refine alerts_runCtl_of_same (onEsc_alert _ _ fun s => ?_)
  dsimp only
  split
  · rfl
  · split <;> simp [validEdge]

@[simp] theorem execBeatInLost_alerts (s) : Alerts s (execBeatInLost s) := by
  refine alerts_runCtl_of_same ?_
  unfold onEsc
  (repeat' split) <;> simp

@[simp] theorem execLockTimeout_alerts (s) : Alerts s (execLockTimeout s) := by
  refine alerts_runCtl_of_same ?_
  split <;> simp

/-! ### ThreadMem -/

@[simp] theorem sendRemote_alert (c f kind arg g keys into size payload s) :
    alertOf (sendRemote c f kind arg g keys into size payload s) = alertOf s := by
  simp [sendRemote]

@[simp] theorem loadLocal_alert (c cy a n into keysFrom nKeys s) :
    alertOf (loadLocal c cy a n into keysFrom nKeys s) = alertOf s := by
  simp [loadLocal]

@[simp] theorem storeLocal_alert (c cy a bs s) : alertOf (storeLocal c cy a bs s) = alertOf s := by simp [storeLocal]

/-! ### LinkRx -/

@[simp] theorem ifUp_alert (l : Fin 8) (f : State → State) (s : State) (h : ∀ s, alertOf (f s) = alertOf s) :
    alertOf (ifUp l f s) = alertOf s := by
  simp [ifUp, h]

@[simp] theorem ifBlock_alert (x : BlockRx) (f : State → State) (s : State) (h : ∀ s, alertOf (f s) = alertOf s) :
    alertOf (ifBlock x f s) = alertOf s := by
  simp [ifBlock, h]

@[simp] theorem beginReplay_alert (n s) : alertOf (beginReplay n s) = alertOf s := by simp [beginReplay]
@[simp] theorem discardOn_alert (n s) : alertOf (discardOn n s) = alertOf s := by simp [discardOn]

@[simp] theorem collIn_alert (f s) : alertOf (collIn f s) = alertOf s := by
  unfold collIn
  dsimp only
  (repeat' split) <;> simp [takeColl, landColl, dropColl]

@[simp] theorem refuse_alert (f s) : alertOf (refuse f s) = alertOf s := by simp [refuse]
@[simp] theorem refuseEcc_alert (f a n s) : alertOf (refuseEcc f a n s) = alertOf s := by simp [refuseEcc]
@[simp] theorem remoteWriteIn_alert (f s) : alertOf (remoteWriteIn f s) = alertOf s := by simp [remoteWriteIn]
@[simp] theorem remoteReadIn_alert (f s) : alertOf (remoteReadIn f s) = alertOf s := by simp [remoteReadIn]

@[simp] theorem responseIn_alert (f s) : alertOf (responseIn f s) = alertOf s := by
  unfold responseIn
  (repeat' split) <;> simp

@[simp] theorem execRemoteRefusal_alerts (l fr s) : Alerts s (execRemoteRefusal l fr s) := by
  refine alerts_run_of_same (routed_alert _ _ _ _ _ fun t => ?_)
  split <;> simp

@[simp] theorem takeBeat_alert (n src arg s) : alertOf (takeBeat n src arg s) = alertOf s := by simp [takeBeat]

@[simp] theorem execRoutingDigest_alerts (l fr s) : Alerts s (execRoutingDigest l fr s) := by
  refine alerts_runCtl_of_same (receive_alert _ _ _ _ _ fun t => ?_)
  split <;> simp

/-! ### LinkTx -/

@[simp] theorem chargeLink_alert (t s) : alertOf (chargeLink t s) = alertOf s := by
  unfold chargeLink
  split <;> simp

@[simp] theorem transmit_alert (n t s) : alertOf (transmit n t s) = alertOf s := by
  unfold transmit
  split <;> simp [noteSent]

@[simp] theorem holdS_alert (n s) : alertOf (holdS n s) = alertOf s := by
  unfold holdS
  split <;> simp

/-- A frame that class S sends. -/
theorem takeS_alert (n : Nat) (s t : State) (h : takeS n s = some t) : alertOf t = alertOf s := by
  simp only [takeS] at h
  split at h
  · cases h
  · split at h
    · cases h
    · split at h <;> cases h
      simp

/-- A frame that class U sends. -/
theorem takeU_alert (n : Nat) (s t : State) (h : takeU n s = some t) : alertOf t = alertOf s := by
  simp only [takeU] at h
  split at h
  · cases h
  · split at h <;> cases h
    simp

@[simp] theorem holdU_alert (n s) : alertOf (holdU n s) = alertOf s := by
  unfold holdU
  dsimp only
  (repeat' split) <;> simp

/-- A frame that class B sends. -/
theorem takeB_alert (n : Nat) (s t : State) (h : takeB n s = some t) : alertOf t = alertOf s := by
  simp only [takeB] at h
  split at h
  · cases h
  · split at h <;> cases h
    simp

@[simp] theorem sendBlock_alert (n s) : alertOf (sendBlock n s) = alertOf s := by simp [sendBlock]
@[simp] theorem feedB_alert (n s) : alertOf (feedB n s) = alertOf s := by simp [feedB]

@[simp] theorem sendRest_alert (n s) : alertOf (sendRest n s) = alertOf s := by
  simp only [sendRest]
  split
  · rfl
  · split
    · next h => simp [takeB_alert _ _ _ h]
    · simp

@[simp] theorem sendNext_alert (n s) : alertOf (sendNext n s) = alertOf s := by
  simp only [sendNext]
  split
  · rfl
  · split
    · rfl
    · split
      · next h => exact takeU_alert _ _ _ h
      · split
        · next h => simp [takeS_alert _ _ _ h]
        · simp

@[simp] theorem lastU_alert (n s) : alertOf (lastU n s) = alertOf s := by
  unfold lastU
  dsimp only
  (repeat' split) <;> simp

@[simp] theorem execErrorWindow_alerts (l s) : Alerts s (execErrorWindow l s) := by
  exact alerts_runCtl_of_same (by simp)

@[simp] theorem meetPartner_alert (n p s) : alertOf (meetPartner n p s) = alertOf s := by
  simp [meetPartner, exchange, drainTo, moveTo]

@[simp] theorem writeLkCmd_alert (n v s) : alertOf (writeLkCmd n v s) = alertOf s := by simp [writeLkCmd]
@[simp] theorem writeMirCmd_alert (v s) : alertOf (writeMirCmd v s) = alertOf s := by simp [writeMirCmd]

/-! ### Regulator -/

@[simp] theorem endShortfall_alert (s) : alertOf (endShortfall s) = alertOf s := by
  unfold endShortfall
  split <;> simp

@[simp] theorem takeDraw_alert (cal s) : alertOf (takeDraw cal s) = alertOf s := by simp [takeDraw]
@[simp] theorem spendChange_alert (old new s) : alertOf (spendChange old new s) = alertOf s := by simp [spendChange]
@[simp] theorem setOutputs_alert (x s) : alertOf (setOutputs x s) = alertOf s := by simp [setOutputs, apply_ite Rgl.shedding]

@[simp] theorem checkShortfall_alert (x s) : alertOf (checkShortfall x s) = alertOf s := by
  unfold checkShortfall
  split <;> simp

@[simp] theorem askFor_alert (w s) : alertOf (askFor w s) = alertOf s := by simp [askFor]
@[simp] theorem controlLaw_alert (x s) : alertOf (controlLaw x s) = alertOf s := by simp [controlLaw]

@[simp] theorem shareEnergy_alert (nj total s x) : alertOf (shareEnergy nj total s x) = alertOf s := by
  unfold shareEnergy
  split <;> simp

@[simp] theorem chargeEnergy_alert (x s) : alertOf (chargeEnergy x s) = alertOf s := by simp [chargeEnergy]
@[simp] theorem takeLoads_alert (k s) : alertOf (takeLoads k s) = alertOf s := by simp [takeLoads]

@[simp] theorem descend_alert (x s) : alertOf (descend x s) = alertOf s := by
  unfold descend
  split <;> simp [enterDormant, forgetTime]

@[simp] theorem noteDuty_alert (s) : alertOf (noteDuty s) = alertOf s := by simp [noteDuty]
@[simp] theorem firstTarget_alert (x s) : alertOf (firstTarget x s) = alertOf s := by simp [firstTarget]
@[simp] theorem writeCap_alert (v s) : alertOf (writeCap v s) = alertOf s := by simp [writeCap]

@[simp] theorem execStartInstant_alerts (s) : Alerts s (execStartInstant s) := by
  refine alerts_runCtl_of_same ?_
  split <;> simp

@[simp] theorem pmbFail_alert (s) : alertOf (pmbFail s) = alertOf s := by simp [pmbFail]

@[simp] theorem slotA_alert (a s) : alertOf (slotA a s) = alertOf s := by
  unfold slotA
  split <;> simp

@[simp] theorem slotB_alert (a s) : alertOf (slotB a s) = alertOf s := by
  unfold slotB
  split <;> simp [rotate]

@[simp] theorem slotEnd_alert (b a s) : alertOf (slotEnd b a s) = alertOf s := by simp [slotEnd]

/-! ### Uart -/

@[simp] theorem byOwner_alert (off : Nat) (p : Port) (f : State → State) (s : State) (h : ∀ s, alertOf (f s) = alertOf s) :
    alertOf (byOwner off p f s) = alertOf s := by
  simp [byOwner, h, uartIgnored]

@[simp] theorem takeFormat_alert (s) : alertOf (takeFormat s) = alertOf s := by simp [takeFormat]

@[simp] theorem txNext_alert (s) : alertOf (txNext s) = alertOf s := by
  unfold txNext
  dsimp only
  (repeat' split) <;> simp

@[simp] theorem pump_alert (s) : alertOf (pump s) = alertOf s := by simp [pump, crownFeed]
@[simp] theorem endReport_alert (s) : alertOf (endReport s) = alertOf s := by simp [endReport]
@[simp] theorem crownSay_alert (bs s) : alertOf (crownSay bs s) = alertOf s := by simp [crownSay]
@[simp] theorem reply_alert (bs s) : alertOf (reply bs s) = alertOf s := by simp [reply]
@[simp] theorem popRx_alert (s) : alertOf (popRx s) = alertOf s := by simp [popRx]

@[simp] theorem execUartDataRead_alerts (port s) : Alerts s (execUartDataRead port s) := by
  refine alerts_runCtl_of_same ?_
  (repeat' split) <;> simp [consoleChar]

@[simp] theorem pushTx_alert (v s) : alertOf (pushTx v s) = alertOf s := by simp [pushTx]

@[simp] theorem writeFormat_alert (r v s) : alertOf (writeFormat r v s) = alertOf s := by
  unfold writeFormat
  split <;> simp

@[simp] theorem askBreak_alert (v s) : alertOf (askBreak v s) = alertOf s := by simp [askBreak]
@[simp] theorem pushRx_alert (e s) : alertOf (pushRx e s) = alertOf s := by simp [pushRx, loseRx]
@[simp] theorem takeBreak_alert (s) : alertOf (takeBreak s) = alertOf s := by simp [takeBreak]
@[simp] theorem attention_alert (len s) : alertOf (attention len s) = alertOf s := by simp [attention]

/-! ### RegWrite -/

@[simp] theorem writeJob_alert (j o w s) : alertOf (writeJob j o w s) = alertOf s := by simp [writeJob]
@[simp] theorem writeStm_alert (p o w s) : alertOf (writeStm p o w s) = alertOf s := by simp [writeStm, writeStmCtrl]
@[simp] theorem writeCul_alert (fn o w s) : alertOf (writeCul fn o w s) = alertOf s := by simp [writeCul, writeResume]
@[simp] theorem writeFlt_alert (o w s) : alertOf (writeFlt o w s) = alertOf s := by simp [writeFlt]

@[simp] theorem writeUart_alert (p o w s) : alertOf (writeUart p o w s) = alertOf s := by
  unfold writeUart
  split <;> simp [uartAct]

@[simp] theorem writeLk_alert (p n o w s) : alertOf (writeLk p n o w s) = alertOf s := by simp [writeLk]
@[simp] theorem writeAcct_alert (a o w s) : alertOf (writeAcct a o w s) = alertOf s := by simp [writeAcct]
@[simp] theorem writeVf_alert (p off w s) : alertOf (writeVf p off w s) = alertOf s := by simp [writeVf]

@[simp] theorem unsupported_alert (req off len write s) : alertOf (unsupported req off len write s) = alertOf s := by
  simp [unsupported]

@[simp] theorem debugRefused_alert (req a n s) : alertOf (debugRefused req a n s) = alertOf s := by simp [debugRefused]
@[simp] theorem healBar2_alert (a n s) : alertOf (healBar2 a n s) = alertOf s := by simp [healBar2]

@[simp] theorem bar2Store_alert (req a bs s) : alertOf (bar2Store req a bs s) = alertOf s := by
  simp only [bar2Store]
  split
  · rfl
  · have ecc (ls : List Nat) (t : State) : alertOf (ls.foldl (fun t l => eccEvent 1 (64 * l) 5 t) t) = alertOf t :=
      foldl_alert _ _ _ fun t l => eccEvent_alert 1 (64 * l) 5 t
    have land (xs : List (Nat × Byte)) (t : State) : alertOf (xs.foldl (fun t x => putMem x.1 [x.2] t) t) = alertOf t :=
      foldl_alert _ _ _ fun t x => putMem_alert x.1 [x.2] t
    rw [land, healBar2_alert, ecc, debugRefused_alert]

@[simp] theorem hostRead_alert (off wide s) : alertOf (hostRead off wide s).2 = alertOf s := by simp [hostRead]
@[simp] theorem completeRead_alert (c s) : alertOf (completeRead c s) = alertOf s := by simp [completeRead]

@[simp] theorem bar2Load_alert (req a n s) : alertOf (bar2Load req a n s) = alertOf s := by
  unfold bar2Load
  (repeat' split) <;> simp

/-! ### Ports -/

@[simp] theorem onSmb_alert (f : State → State) (s : State) (h : ∀ s, alertOf (f s) = alertOf s) :
    alertOf (onSmb f s) = alertOf s := by
  simp [onSmb, h]

@[simp] theorem smbReply_alert (bs s) : alertOf (smbReply bs s) = alertOf s := by simp [smbReply]
@[simp] theorem smbDiscard_alert (code bad s) : alertOf (smbDiscard code bad s) = alertOf s := by simp [smbDiscard]

@[simp] theorem smbWrite_alert (code : Nat) (bs : List Byte) (pec : Option (BitVec 8)) (act : State → State) (s : State)
    (h : ∀ s, alertOf (act s) = alertOf s) : alertOf (smbWrite code bs pec act s) = alertOf s := by
  unfold smbWrite
  split <;> simp [h]

@[simp] theorem execSmbusTimeout_alerts (code s) : Alerts s (execSmbusTimeout code s) := by
  refine alerts_run_of_same ?_
  exact onSmb_alert _ _ fun _ => rfl

@[simp] theorem trainPcie_alert (s) : alertOf (trainPcie s) = alertOf s := by simp [trainPcie]
@[simp] theorem setIr_alert (i s) : alertOf (setIr i s) = alertOf s := by simp [setIr, dropLinks, dropPcie]
@[simp] theorem driveCells_alert (i cells s) : alertOf (driveCells i cells s) = alertOf s := by simp [driveCells]

/-! ### Boot -/

@[simp] theorem beginLoading_alert (s) : alertOf (beginLoading s) = alertOf s := by simp [beginLoading]
@[simp] theorem giveViews_alert (s) : alertOf (giveViews s) = alertOf s := by simp [giveViews]

@[simp] theorem giveRoles_alert (s) : alertOf (giveRoles s) = alertOf s := foldl_alert _ _ _ fun _ _ => rfl

@[simp] theorem startLinks_alert (s) : alertOf (startLinks s) = alertOf s := by simp [startLinks]
@[simp] theorem trainLinks_alert (s) : alertOf (trainLinks s) = alertOf s := by simp [trainLinks]
@[simp] theorem startRegulator_alert (s) : alertOf (startRegulator s) = alertOf s := by simp [startRegulator]
@[simp] theorem limitPcie_alert (s) : alertOf (limitPcie s) = alertOf s := by simp [limitPcie]
@[simp] theorem readVoutMode_alert (m s) : alertOf (readVoutMode m s) = alertOf s := by simp [readVoutMode]
@[simp] theorem writeReport_alert (x s) : alertOf (writeReport x s) = alertOf s := by simp [writeReport]
@[simp] theorem handOver_alert (x s) : alertOf (handOver x s) = alertOf s := by simp [handOver]
@[simp] theorem modStack_alert (i f s) : alertOf (modStack i f s) = alertOf s := by simp [modStack]

@[simp] theorem execHbmInitComplete_alerts (stack failed s) : Alerts s (execHbmInitComplete stack failed s) := by
  refine alerts_run_of_same ?_
  dsimp only
  (repeat' split) <;> simp [zeroStack]

@[simp] theorem startWake_alert (s) : alertOf (startWake s) = alertOf s := by simp [startWake]
@[simp] theorem flr_alert (fn s) : alertOf (flr fn s) = alertOf s := by simp [flr, releaseFn]
@[simp] theorem heatStack_alert (i t s) : alertOf (heatStack i t s) = alertOf s := by simp [heatStack]

/-! ### What begins a shed, and what takes everything back -/

@[simp] theorem beginShed_alert (s : State) : alertOf (beginShed s) = (true, s.flt.logCnt, true) := by
  have hlog : (endShortfall s).flt = s.flt := by
    unfold endShortfall
    split <;> rfl
  simp [beginShed, hlog]

@[simp] theorem endShed_alert (s : State) : alertOf (endShed s) = (s.smb.alertLow, s.flt.logCnt, false) := by simp [endShed]

/-- A shed that its sources begin pulls alert_n low (R291, R353). -/
@[simp] theorem updateShed_heeds {s s' : State} (h : alertOf s' = alertOf s) : Heeds (alertOf s) (alertOf (updateShed s')) := by
  rw [← h]
  unfold updateShed
  (repeat' split)
  · exact heeds_rfl _
  · rw [beginShed_alert]
    exact ⟨fun _ _ => rfl, Nat.le_refl _⟩
  · rw [endShed_alert]
    exact ⟨fun _ on => absurd on Bool.false_ne_true, Nat.le_refl _⟩
  · exact heeds_rfl _

@[simp] theorem writeShedReq_heeds {s s' : State} (b : Bool) (h : alertOf s' = alertOf s) :
    Heeds (alertOf s) (alertOf (writeShedReq b s')) := by
  simp [writeShedReq, unheld, h]

@[simp] theorem writeSlot_heeds {s s' : State} (p : Option Port) (off : Nat) (w : Wr) (h : alertOf s' = alertOf s) :
    Heeds (alertOf s) (alertOf (writeSlot p off w s')) := by
  unfold writeSlot
  dsimp only
  (repeat' split) <;> simp [h]

@[simp] theorem writeReg_heeds (p : Port) (off : Nat) (wide : Bool) (v : Nat) (s : State) :
    Heeds (alertOf s) (alertOf (writeReg p off wide v s)) := by
  unfold writeReg
  split <;> simp

@[simp] theorem debugAccess_heeds {s s' : State} (write : Bool) (a v : Nat) (h : alertOf s' = alertOf s) :
    Heeds (alertOf s) (alertOf (debugAccess write a v s')) := by
  unfold debugAccess
  (repeat' split) <;> simp [h]

@[simp] theorem coldReset_alert (s : State) : alertOf (coldReset s) = (false, 0, false) := by simp [coldReset]

@[simp] theorem heeds_reset (a : Bool × Nat × Bool) : Heeds a (false, 0, false) := by simp [Heeds]

@[simp] theorem execManagementResetAssert_alerts (s : State) : Alerts s (execManagementResetAssert s) := by
  refine alerts_run _ _ ?_
  split <;> simp [beginLoading]

@[simp] theorem execSensorConversion_alerts (temps : List (BitVec 16)) (s : State) : Alerts s (execSensorConversion temps s) := by
  refine alerts_runCtl _ _ ?_
  split <;> simp [unheld]

@[simp] theorem execThermalHoldEnd_alerts (s : State) : Alerts s (execThermalHoldEnd s) := by
  refine alerts_runCtl _ _ ?_
  split <;> simp

@[simp] theorem execDormantExit_alerts (s : State) : Alerts s (execDormantExit s) := by
  refine alerts_run _ _ ?_
  split <;> simp

@[simp] theorem execSmbusShedWrite_alerts (data : BitVec 8) (pec : Option (BitVec 8)) (s : State) :
    Alerts s (execSmbusShedWrite data pec s) := by
  refine alerts_run _ _ ?_
  unfold onSmb smbWrite
  (repeat' split) <;> simp

@[simp] theorem execSmbusOffsetWrite_alerts (data : BitVec 32) (pec : Option (BitVec 8)) (s : State) :
    Alerts s (execSmbusOffsetWrite data pec s) :=
  alerts_run_of_same (onSmb_alert _ _ fun _ => smbWrite_alert _ _ _ _ _ fun _ => by simp)

@[simp] theorem execOtpProg_alerts (off : BitVec 9) (b : BitVec 8) (s : State) : Alerts s (execOtpProg off b s) := by
  refine alerts_runCtl_of_same ?_
  dsimp only
  (repeat' split) <;> simp

@[simp] theorem execAlertResponse_alerts (s : State) : Alerts s (execAlertResponse s) := by
  have released : Heeds (alertOf s) (false, s.flt.logCnt, s.rgl.shedding) :=
    ⟨fun (off : s.rgl.shedding = false) on => absurd on (by simp [off]), Nat.le_refl _⟩
  refine alerts_run _ _ ?_
  simp [onSmb, smbReply, released]

/-! ### Shapes that many commands share -/

/-- A thread instruction whose act touches none of the three. -/
@[simp] theorem alerts_issue (o : OpSpec) (t : Fin 128) (f : TField) (act : TileCtx → Nat → State → State) (s : State)
    (h : ∀ c cy s, alertOf (act c cy s) = alertOf s) : Alerts s (run (issue o t f act) s) :=
  alerts_run_of_same (issue_alert _ _ _ _ _ h)

/-- A Ramp Pool frame whose contents touch none of the three. -/
@[simp] theorem alerts_rampIn (l : Fin 8) (fr : Frame) (op : Nat) (act : Nat → Dir → Nat → Nat → State → State)
    (s : State) (h : ∀ e d id w s, alertOf (act e d id w s) = alertOf s) : Alerts s (runCtl (receive l fr 0x13 (rampIn op fr act)) s) :=
  alerts_runCtl_of_same (receive_alert _ _ _ _ _ fun _ => rampIn_alert _ _ _ _ h)

/-- An act of the ESC domain. -/
@[simp] theorem alerts_onEsc (f : State → State) (s : State) (h : ∀ s, alertOf (f s) = alertOf s) :
    Alerts s (run (onEsc f) s) :=
  alerts_run_of_same (onEsc_alert _ _ h)

/-! ### Every command -/

/-- R353: whatever is commanded, a shed that begins and an event that is logged leave alert_n low. The arms that only compose
operations are unfolded to their effect here; the others have a lemma above. -/
theorem exec_alerts (c : Instr) (s : State) : Alerts s (exec c s) := by
  cases c
  all_goals
    simp [exec, startPlanes,
      execNop, execTend, execTbr, execLoop, execIdle, execCsync, execRdv, execFfence, execSpec, execMov, execVbc, execVins,
      execVext, execMovi, execValu, execVcvt, execVact, execVcmp, execVperm, execVred, execVscan, execSalu, execMma,
      execSel, execSelectorComplete, execDsp, execSeparatorComplete, execGrw, execGroupWalkerComplete, execCmb,
      execChurnComplete, execCul, execCultureComplete, execLdx, execLoaderDescriptorComplete, execLoaderReject, execRequest,
      execGrant, execReturnCredits, execAnnounce, execReport, execBeacon, execBeaconSend, execPoolFreezeEnd, execInstall,
      execStart, execPreempt, execRemove, execRestart, execDoorbell, execSubmissionRead, execOpenStream, execAppendTokens,
      execPauseStream, execResumeStream, execCancelStream, execRewardStream, execNopCommand, execStmCqhead,
      execSubmissionRingSetup, execCompletionRingSetup, execPartitionReset, execStepStart, execCollectiveFailed,
      execBeatTick, execSwingTick, execHeartbeatSuspect, execHeartbeatFailed, execKeeperMessage, execKeeperSend,
      execRouteSet, execRingSet, execPoolSet, execKeeperReward, execFenceChip, execUnfenceChip, execRemapSlice,
      execRestoreDoneNotice, execLoaded, execFenceNotice, execScrubPass, execVatScrub, execFaultClear, execEventRingHead,
      execEventRingSetup, execEventRingEnable, execCulSnreq, execCulSnrel, execCulResumestep, execTimeExchangeStart,
      execTimeExchangeRequest, execHoldoverEntry, execRootFreeTimeout, execLd, execSt, execMld, execMst, execAck, execNak,
      execAlignmentMarker, execRetrainRequest, execReservedControlBlock, execUncorrectableCodeword, execFrameCrcFailure,
      execFrameDiscard, execCollectiveData, execRemoteWrite, execRemoteReadRequest, execRemoteReadResponse, execHeartbeat,
      execFrameBoundary, execReplayTimeout, execErrorLimit, execTrainingComplete, execTrainingFailed,
      execFastRetrainComplete, execFastRetrainTimeout, execFailedRetry, execLossOfSignal, execLossOfBlockLock,
      execFastRetrain, execFullTraining, execMirrorCheck, execEstimatorSample, execPwrShedNFall, execPwrShedNRise,
      execShedRequest, execCapWrite, execRampSyncRise, execPmbusSlot, execUartDataWrite, execUartStatRead, execAttnClear,
      execUartFormatWrite, execUartBrktx, execBreakTxEnd, execCharacterSent, execCharacterReceived, execBreakDetect,
      execBreakEnd, execManagementReset, execRegisterWrite, execConsoleRead, execConsoleWrite, execConsoleStatus,
      execConsoleReport, execBar0UnsupportedAccess, execBar2Write, execBar2Read, execSmbusSerial, execSmbusStatus,
      execSmbusTelemetry, execSmbusFaultSummary, execSmbusShedRead, execSmbusRegisterRead, execSmbusUnknownCommand,
      execTapReset, execExtest, execIdcode, execSamplePreload, execClamp, execHighz, execExtestPulse, execExtestTrain, execDebug, execBypass, execPorRelease,
      execPorAssert, execHandover, execEnterRunning, execPerstNRelease, execPerstNAssert, execPmeTurnOff, execD3hot,
      execFlr, execPcieLinkUp, execWake, execThermtrip, execRefclkLoss, execHbmTemperatureRead, execVddAonFall,
      execVddAonRise]

end Sys2Proof.Machine
end

section
/-! PROOFS. The SMBus target's commands (R350 to R353). -/

namespace Sys2Proof.Machine

/-! ### The target's commands -/

/-- While the target runs, a command has its effect (R350). -/
theorem gives_onSmb {i : Instr} {s : State} (f : State → State) (u : State) (hi : exec i s = run (onSmb f) s)
    (runs : smbRuns s = true) (hu : f s = u) : Gives i s u :=
  gives_run _ u hi (by rw [onSmb, if_pos runs, hu])

/-- While it does not, the command does nothing (R349, R350). -/
theorem gives_onSmb_stopped {i : Instr} {s : State} (f : State → State) (hi : exec i s = run (onSmb f) s)
    (stopped : smbRuns s = false) : Gives i s s :=
  gives_run _ s hi (by simp [onSmb, stopped])

/-- A write is taken with the right PEC byte, or with none where none is asked for (R352). -/
def PecGood (s : State) (pec : Option (BitVec 8)) (bs : List Byte) : Prop :=
  match pec with
  | some c => c.toNat = pecOf s bs
  | none => cfgVal s 0x0C05 ≠ 1

theorem smbWrite_good {s : State} {code : Nat} {bs : List Byte} {pec : Option (BitVec 8)} (act : State → State)
    (h : PecGood s pec (BitVec.ofNat 8 code :: bs)) : smbWrite code bs pec act s = act { s with smb.nack := false } := by
  cases pec with
  | some c => exact if_pos h
  | none => exact if_neg h

/-- Another write is discarded, counted and reported; a wrong PEC byte is NACKed (R352). -/
theorem smbWrite_bad {s : State} {code : Nat} {bs : List Byte} {pec : Option (BitVec 8)} (act : State → State)
    (h : ¬PecGood s pec (BitVec.ofNat 8 code :: bs)) : smbWrite code bs pec act s = smbDiscard code pec.isSome s := by
  cases pec with
  | some c => exact if_neg h
  | none => exact if_pos (Classical.not_not.1 h)

/-- A code that R350 does not name is NACKed (R351). -/
theorem gives_unknownCommand {s : State} (b : BitVec 8) (runs : smbRuns s = true) (hb : b.toNat ∉ smbCodes) :
    Gives (.smbusUnknownCommand b) s { s with smb.reply := [], smb.nack := true } :=
  gives_onSmb _ _ rfl runs (if_neg (by simpa using hb))

/-- R353: the response releases alert_n, and replies with the target's address in bits [7:1]. -/
theorem gives_alertResponse {s : State} (runs : smbRuns s = true) : Gives .alertResponse s
    { s with smb.alertLow := false, smb.nack := false, smb.reply := [BitVec.ofNat 8 (2 * s.pwr.smbAddr)] } :=
  gives_onSmb _ _ rfl runs rfl

/-- R353: nothing that the response posts pulls alert_n low again. -/
theorem alertResponse_releases {s t : State} (ht : exec .alertResponse s = .next t) (runs : smbRuns s = true)
    (hq : Collected s) : t.smb.alertLow = false ∧ t.smb.reply = [BitVec.ofNat 8 (2 * s.pwr.smbAddr)] := by
  have given := gives_alertResponse runs
  rw [Gives, ht] at given
  cases given
  have none : s.ev.queue = [] := hq
  simp [none]

/-- Settles O45: R353 over every command by `exec_alerts`, each command of the target by its own effect. -/
theorem smbusCommands : Obligations.SmbusCommands := by
  unfold Obligations.SmbusCommands
  refine ⟨fun c s t ht => ?alert, fun b w pec code s => ⟨fun runs => ?commands, fun stopped i hi => ?stopped⟩⟩
  case alert =>
    obtain ⟨shed, logged⟩ := exec_alerts c s t ht
    exact ⟨shed, logged, fun hc runs hq => alertResponse_releases (hc ▸ ht) runs hq⟩
  case commands =>
    refine ⟨gives_onSmb _ _ rfl runs rfl, gives_onSmb _ _ rfl runs rfl, gives_onSmb _ _ rfl runs rfl,
      gives_onSmb _ _ rfl runs rfl, gives_onSmb _ _ rfl runs rfl, gives_onSmb _ _ rfl runs rfl,
      fun good => gives_onSmb _ _ rfl runs (smbWrite_good _ good), fun bad => gives_onSmb _ _ rfl runs (smbWrite_bad _ bad),
      fun good => gives_onSmb _ _ rfl runs (smbWrite_good _ good), fun bad => gives_onSmb _ _ rfl runs (smbWrite_bad _ bad),
      gives_unknownCommand b runs, gives_alertResponse runs, gives_onSmb _ _ rfl runs ?timeout⟩
    case timeout => cases code <;> rfl
  case stopped =>
    simp only [List.mem_cons, List.not_mem_nil, or_false] at hi
    rcases hi with rfl | rfl | rfl | rfl | rfl | rfl | rfl | rfl | rfl | rfl | rfl <;>
      exact gives_onSmb_stopped _ rfl stopped

end Sys2Proof.Machine
end

section
/-! PROOFS. What the commands keep of the configuration and the route table (R24, R329), of fleet time (R299) and of the canonical
form of the memories. An operation of the model keeps whatever is held of them (`Since`), but for the few that install, clear or
start anew: those say what they need. -/

namespace Sys2Proof.Machine

/-! ### What is held of a state -/

/-- Something held of the configuration and of the route table; an instant that fleet time has reached; whether the memories are in
canonical form; and whether the device is on no way to Dormant. -/
structure Holding where
  cfg    : Table Nat → Prop
  routes : Table Nat → Prop
  fleet  : Nat
  canon  : Bool
  awake  : Bool

/-- A holding, of the fields that it speaks of. -/
structure Holding.Of (κ : Holding) (cfg routes : Table Nat) (copy : Table Byte) (entering : Bool) (fleet : Nat)
    (mem hostMem : Table Byte) : Prop where
  cfg     : κ.cfg cfg
  routes  : κ.routes routes
  copy    : κ.canon = true → Memory.wf copy = true
  way     : κ.awake = true → entering = false
  fleet   : κ.fleet ≤ fleet
  mem     : κ.canon = true → Memory.wf mem = true
  hostMem : κ.canon = true → Memory.wf hostMem = true

/-- A state of which a holding is true. -/
def Since (κ : Holding) : State → Prop
  | { cfg, routes, pwr, clk, mem, hostMem, .. } => κ.Of cfg routes pwr.otpCopy pwr.entering clk.fleet mem hostMem

/-- A state written out field by field shows its fields; a state that is a variable stays folded. -/
@[simp] theorem since_mk : type_of% @Since.eq_1 := Since.eq_1

/-- The other way, for the fields of one state. Proved by cases and not by `rfl`, so that the kernel never evaluates the state at
hand. -/
@[simp] theorem since_fields (κ : Holding) (s : State) :
    κ.Of s.cfg s.routes s.pwr.otpCopy s.pwr.entering s.clk.fleet s.mem s.hostMem ↔ Since κ s := by
  cases s; rfl

variable {κ : Holding}

/-! ### Choices and folds

One lemma for each operation follows, in the order of the model's files. A lemma unfolds its own operation; its simp set holds the
lemmas of those that the operation calls. -/

@[simp] theorem ite_since (c : Prop) [Decidable c] (s t : State) :
    Since κ (if c then s else t) ↔ if c then Since κ s else Since κ t := by
  split <;> rfl

/-- A fold whose step keeps what is held keeps it. -/
@[simp] theorem foldl_since {α : Type} (g : State → α → State) (xs : List α) (s : State) (h : ∀ s x, Since κ s → Since κ (g s x))
    (hs : Since κ s) : Since κ (xs.foldl g s) := by
  induction xs generalizing s with
  | nil => exact hs
  | cons x xs ih => exact ih _ (h s x hs)

/-- A fold whose step leaves what is held as it is leaves it. -/
@[simp] theorem foldl_since_iff {α : Type} (g : State → α → State) (xs : List α) (s : State) (h : ∀ s x, Since κ (g s x) ↔ Since κ s) :
    Since κ (xs.foldl g s) ↔ Since κ s := by
  induction xs generalizing s with
  | nil => rfl
  | cons x xs ih => rw [List.foldl_cons, ih, h]

/-! ### Updates of the state -/

@[simp] theorem post_since (src code sev p s) : Since κ (post src code sev p s) ↔ Since κ s := by simp [post]
@[simp] theorem postIf_since (c src code sev p s) : Since κ (postIf c src code sev p s) ↔ Since κ s := by simp [postIf]
@[simp] theorem modTp_since (t f s) : Since κ (modTp t f s) ↔ Since κ s := by simp [modTp]
@[simp] theorem modJob_since (j f s) : Since κ (modJob j f s) ↔ Since κ s := by simp [modJob]
@[simp] theorem modRun_since (j f s) : Since κ (modRun j f s) ↔ Since κ s := by simp [modRun]
@[simp] theorem modPart_since (p f s) : Since κ (modPart p f s) ↔ Since κ s := by simp [modPart]
@[simp] theorem modStm_since (p f s) : Since κ (modStm p f s) ↔ Since κ s := by simp [modStm]
@[simp] theorem modStream_since (i f s) : Since κ (modStream i f s) ↔ Since κ s := by simp [modStream]
@[simp] theorem modLink_since (n f s) : Since κ (modLink n f s) ↔ Since κ s := by simp [modLink]
@[simp] theorem modAcct_since (a f s) : Since κ (modAcct a f s) ↔ Since κ s := by simp [modAcct]
@[simp] theorem modCl_since (c f s) : Since κ (modCl c f s) ↔ Since κ s := by simp [modCl]
@[simp] theorem healLines_since (a n s) : Since κ (healLines a n s) ↔ Since κ s := by simp [healLines]
@[simp] theorem countSoft_since (a n s) : Since κ (countSoft a n s) ↔ Since κ s := by simp [countSoft]
@[simp] theorem skipFree_since (n s) : Since κ (skipFree n s) ↔ Since κ s := by simp [skipFree]
@[simp] theorem raiseMsix_since (v s) : Since κ (raiseMsix v s) ↔ Since κ s := by simp [raiseMsix]
@[simp] theorem noteCycle_since (slot cy s) : Since κ (noteCycle slot cy s) ↔ Since κ s := by simp [noteCycle]

/-- A change of the configuration. -/
theorem setCfg_since (hc : ∀ x, κ.cfg x) (id v : Nat) (s : State) : Since κ (setCfg id v s) ↔ Since κ s := by
  rw [← since_fields κ s]
  exact ⟨fun h => { h with cfg := hc _ }, fun h => { h with cfg := hc _ }⟩

theorem fleet_le_advanceTo (n : Nat) (s : State) : s.clk.fleet ≤ (advanceTo n s).clk.fleet := by
  unfold advanceTo
  split
  · exact Nat.le_refl _
  · next h => exact Nat.le_of_lt (Nat.lt_of_not_le h)

theorem lt_nextMultiple {m : Nat} (hm : 0 < m) (t : Nat) : t < nextMultiple m t := by
  have := Nat.div_add_mod t m
  have := Nat.mod_lt t hm
  rw [nextMultiple, Nat.add_mul, Nat.mul_comm (t / m)]
  omega

section
variable {s : State} (hs : Since κ s)
include hs

/-- The fields that a write of the local space shows. -/
@[simp] theorem putMem_of (a bs) : κ.Of s.cfg s.routes s.pwr.otpCopy s.pwr.entering s.clk.fleet (putMem a bs s).mem s.hostMem := by
  obtain ⟨cfg, routes, copy, way, fleet, mem, host⟩ := (since_fields κ s).2 hs
  exact ⟨cfg, routes, copy, way, fleet, fun c => memWrite_wf _ _ _ (mem c), host⟩

@[simp] theorem putMem_since (a bs) : Since κ (putMem a bs s) := putMem_of hs a bs

/-- Bytes cleared from the local space. -/
@[simp] theorem filter_of (p : Nat × Byte → Bool) : κ.Of s.cfg s.routes s.pwr.otpCopy s.pwr.entering s.clk.fleet (s.mem.filter p) s.hostMem := by
  obtain ⟨cfg, routes, copy, way, fleet, mem, host⟩ := (since_fields κ s).2 hs
  exact ⟨cfg, routes, copy, way, fleet, fun c => memFilter_wf _ _ (mem c), host⟩

/-- Bytes written to the host's memory. -/
@[simp] theorem hostWrite_of (a bs) : κ.Of s.cfg s.routes s.pwr.otpCopy s.pwr.entering s.clk.fleet s.mem (memWrite s.hostMem a bs) := by
  obtain ⟨cfg, routes, copy, way, fleet, mem, host⟩ := (since_fields κ s).2 hs
  exact ⟨cfg, routes, copy, way, fleet, mem, fun c => memWrite_wf _ _ _ (host c)⟩

/-- A later instant. -/
theorem later_of (n : Nat) (hn : s.clk.fleet ≤ n) : κ.Of s.cfg s.routes s.pwr.otpCopy s.pwr.entering n s.mem s.hostMem := by
  obtain ⟨cfg, routes, copy, way, fleet, mem, host⟩ := (since_fields κ s).2 hs
  exact ⟨cfg, routes, copy, way, Nat.le_trans fleet hn, mem, host⟩

@[simp] theorem advanceTo_of (n) : κ.Of s.cfg s.routes s.pwr.otpCopy s.pwr.entering (advanceTo n s).clk.fleet s.mem s.hostMem :=
  later_of hs _ (fleet_le_advanceTo n s)

@[simp] theorem advanceTo_since (n) : Since κ (advanceTo n s) := by
  unfold advanceTo
  split
  · exact hs
  · next h => exact later_of hs n (Nat.le_of_lt (Nat.lt_of_not_le h))

/-! ### Answers -/

theorem ringEvent_since (e : Ev) : Since κ (ringEvent e s) := by
  unfold ringEvent
  dsimp only
  split <;> simp [hs]

theorem acceptEvent_since (e : Ev) : Since κ (acceptEvent s e) := by
  refine ringEvent_since (?_ : Since κ (logEvent e s)) e
  unfold logEvent
  split <;> simp [hs]

@[simp] theorem collect_since : Since κ (collect s) := by
  have taken (es : List Ev) : Since κ (es.foldl acceptEvent { s with ev.queue := [] }) :=
    foldl_since _ _ _ (fun _ e h => acceptEvent_since h e) (by simp [hs])
  simp [collect, evInterrupt, taken]

end

/-- An answer of which a holding is true. -/
def Kept (κ : Holding) (o : Out) : Prop := ∀ t, o = .next t → Since κ t

@[simp] theorem kept_run {f : State → State} {s : State} (h : Since κ (f s)) : Kept κ (run f s) := by
  rintro _ ⟨⟩
  exact (since_fields κ _).2 (collect_since h)

/-- A command that reaches neither memory nor the thread processors keeps the local space's form too. -/
@[simp] theorem kept_runCtl {f : State → State} {s : State} (hs : Since κ s) (h : Since κ (f s)) : Kept κ (runCtl f s) := by
  rintro _ ⟨⟩
  obtain ⟨-, -, -, -, -, mem, -⟩ := (since_fields κ s).2 hs
  obtain ⟨cfg, routes, copy, way, fleet, -, host⟩ := (since_fields κ _).2 (collect_since h)
  exact ⟨cfg, routes, copy, way, fleet, mem, host⟩

/-! ### Ops -/

@[simp] theorem advanceOpt_since (t : Option Nat) (s : State) (hs : Since κ s) : Since κ (advanceOpt t s) := by
  unfold advanceOpt
  split <;> simp [hs]

@[simp] theorem passNs_since (d : Nat) (s : State) (hs : Since κ s) : Since κ (passNs d s) := by simp [hs, passNs]
@[simp] theorem passUp_since (t : Nat) (s : State) (hs : Since κ s) : Since κ (passUp t s) := by simp [hs, passUp]

@[simp] theorem unheld_since (f : State → State) (s : State) (h : ∀ s, Since κ s → Since κ (f s)) (hs : Since κ s) : Since κ (unheld f s) := by
  simp [hs, unheld, h]

@[simp] theorem onEsc_since (f : State → State) (s : State) (h : ∀ s, Since κ s → Since κ (f s)) (hs : Since κ s) : Since κ (onEsc f s) := by
  simp [hs, onEsc, h]

@[simp] theorem putMemNat_since (a n v : Nat) (s : State) (hs : Since κ s) : Since κ (putMemNat a n v s) := by simp [hs, putMemNat]
@[simp] theorem storeMem_since (a : Nat) (bs : List Byte) (s : State) (hs : Since κ s) : Since κ (storeMem a bs s) := by simp [hs, storeMem]
@[simp] theorem eccEvent_since (sev a reader : Nat) (s : State) : Since κ (eccEvent sev a reader s) ↔ Since κ s := by simp [eccEvent]

/-! ### LinkOps -/

@[simp] theorem enqueue_since (n : Nat) (t : TxFrame) (s : State) : Since κ (enqueue n t s) ↔ Since κ s := by simp [enqueue]

@[simp] theorem frameDiscard_since (n reason : Nat) (f : Frame) (s : State) : Since κ (frameDiscard n reason f s) ↔ Since κ s := by
  simp [frameDiscard]

@[simp] theorem sendVia_since (rt : Table Nat) (f : Frame) (s : State) : Since κ (sendVia rt f s) ↔ Since κ s := by
  unfold sendVia
  split <;> simp

@[simp] theorem sendRouted_since (f : Frame) (s : State) : Since κ (sendRouted f s) ↔ Since κ s := by simp [sendRouted]

@[simp] theorem sendU_since (kind dst arg : Nat) (payload : List Byte) (s : State) :
    Since κ (sendU kind dst arg payload s) ↔ Since κ s := by
  simp [sendU]

@[simp] theorem sendUOn_since (n kind arg : Nat) (s : State) : Since κ (sendUOn n kind arg s) ↔ Since κ s := by simp [sendUOn]

@[simp] theorem answerOn_since (n kind arg asked : Nat) (s : State) : Since κ (answerOn n kind arg asked s) ↔ Since κ s := by
  simp [answerOn]

@[simp] theorem sendB_since (kind dst arg tag : Nat) (payload : List Byte) (s : State) :
    Since κ (sendB kind dst arg tag payload s) ↔ Since κ s := by
  simp [sendB]

@[simp] theorem checkRemap_since (s : State) : Since κ (checkRemap s) ↔ Since κ s := by simp [checkRemap]
@[simp] theorem takeAck_since (n ack : Nat) (s : State) : Since κ (takeAck n ack s) ↔ Since κ s := by simp [takeAck]
@[simp] theorem addCredits_since (n u c b : Nat) (s : State) : Since κ (addCredits n u c b s) ↔ Since κ s := by simp [addCredits]

@[simp] theorem trailerCredits_since (n : Nat) (f : Frame) (s : State) : Since κ (trailerCredits n f s) ↔ Since κ s := by
  simp [trailerCredits]

@[simp] theorem oweCredits_since (n : Nat) (f : Frame) (s : State) : Since κ (oweCredits n f s) ↔ Since κ s := by simp [oweCredits]

@[simp] theorem freeFrames_since (ts : List TxFrame) (s : State) : Since κ (freeFrames ts s) ↔ Since κ s :=
  foldl_since_iff _ _ _ fun s t => by split <;> simp

@[simp] theorem noteDropped_since (fs : List Frame) (s : State) : Since κ (noteDropped fs s) ↔ Since κ s := by simp [noteDropped]
@[simp] theorem linkError_since (n : Nat) (s : State) : Since κ (linkError n s) ↔ Since κ s := by simp [linkError]
@[simp] theorem oweNak_since (n : Nat) (s : State) : Since κ (oweNak n s) ↔ Since κ s := by simp [oweNak]

@[simp] theorem setLinkState_since (n : Nat) (x : LinkState) (s : State) : Since κ (setLinkState n x s) ↔ Since κ s := by
  simp [setLinkState]

@[simp] theorem moveToAlternates_since (n : Nat) (s : State) : Since κ (moveToAlternates n s) ↔ Since κ s :=
  foldl_since_iff _ _ _ fun s t => by split <;> simp

@[simp] theorem beginFast_since (n : Nat) (own : Bool) (s : State) : Since κ (beginFast n own s) ↔ Since κ s := by simp [beginFast]
@[simp] theorem enterTrain_since (n : Nat) (own : Bool) (s : State) : Since κ (enterTrain n own s) ↔ Since κ s := by simp [enterTrain]
@[simp] theorem beginTrain_since (n : Nat) (own : Bool) (s : State) : Since κ (beginTrain n own s) ↔ Since κ s := by simp [beginTrain]
@[simp] theorem quiet_since (n : Nat) (s : State) : Since κ (quiet n s) ↔ Since κ s := by simp [quiet]
@[simp] theorem linkOff_since (n : Nat) (s : State) : Since κ (linkOff n s) ↔ Since κ s := by simp [linkOff]

@[simp] theorem linkFailed_since (n stepNo : Nat) (s : State) : Since κ (linkFailed n stepNo s) ↔ Since κ s := by
  simp only [linkFailed, setLinkState_since, post_since, since_mk, since_fields, modLink_since, noteDropped_since, freeFrames_since]
  exact foldl_since_iff _ _ _ fun s f => by split <;> simp

@[simp] theorem acceptSeq_since (n : Nat) (f : Frame) (s : State) : Since κ (acceptSeq n f s) ↔ Since κ s := by simp [acceptSeq]

@[simp] theorem deliver_since (n : Nat) (f : Frame) (d : State → State) (s : State) (h : ∀ s, Since κ s → Since κ (d s)) (hs : Since κ s) :
    Since κ (deliver n f d s) := by
  simp [hs, deliver, h]

@[simp] theorem forward_since (n : Nat) (f : Frame) (s : State) : Since κ (forward n f s) ↔ Since κ s := by
  unfold forward
  (repeat' split) <;> simp

@[simp] theorem countSymbols_since (n k : Nat) (s : State) : Since κ (countSymbols n k s) ↔ Since κ s := by simp [countSymbols]
@[simp] theorem openGap_since (n : Nat) (s : State) : Since κ (openGap n s) ↔ Since κ s := by simp [openGap]

@[simp] theorem receive_since (l : Fin 8) (f : Frame) (kind : Nat) (d : State → State) (s : State)
    (h : ∀ s, Since κ s → Since κ (d s)) (hs : Since κ s) : Since κ (receive l f kind d s) := by
  have delivered := deliver_since l.val f d (acceptSeq l.val f (countSymbols l.val f.corrected s)) h (by simp [hs])
  simp [receive, hs, delivered]

/-! ### Operands -/

@[simp] theorem writeNum_since (t i : Nat) (o : BitVec 10) (v : Nat) (s : State) (hs : Since κ s) : Since κ (writeNum t i o v s) := by
  simp [hs, writeNum]

/-! ### VatOps -/

@[simp] theorem noteVat_since (s : State) (a : VatAcc) : Since κ (noteVat s a) ↔ Since κ s := by simp [noteVat]
@[simp] theorem enterVat_since (a : VatAcc) (s : State) : Since κ (enterVat a s) ↔ Since κ s := by simp [enterVat]

@[simp] theorem serveLine_since (a : VatAcc) (s : State) (hs : Since κ s) : Since κ (serveLine a s) := by
  unfold serveLine
  split <;> simp [hs]

/-- Each round serves one line of the Vats. -/
@[simp] theorem serveVat_since (ok : VatAcc → Bool) (k : Nat) (s : State) (hs : Since κ s) : Since κ (serveVat ok k s) := by
  induction k generalizing s with
  | zero => exact hs
  | succ k ih =>
    rw [serveVat]
    split
    · exact hs
    · exact ih _ (by simp [hs])

@[simp] theorem serveTo_since (cycle : Nat) (s : State) (hs : Since κ s) : Since κ (serveTo cycle s) := by simp [hs, serveTo]
@[simp] theorem serveJob_since (j : Nat) (s : State) (hs : Since κ s) : Since κ (serveJob j s) := by simp [hs, serveJob]
@[simp] theorem serveAll_since (s : State) (hs : Since κ s) : Since κ (serveAll s) := by simp [hs, serveAll]

/-! ### JobOps -/

@[simp] theorem chargeQty_since (j q : Nat) (add : Nat → Account → Account) (s : State) : Since κ (chargeQty j q add s) ↔ Since κ s :=
  foldl_since_iff _ _ _ fun _ _ => by simp

@[simp] theorem chargeEngine_since (j x : Nat) (s : State) : Since κ (chargeEngine j x s) ↔ Since κ s := by simp [chargeEngine]

@[simp] theorem chargeStep_since (j : Nat) (committed : Bool) (s : State) : Since κ (chargeStep j committed s) ↔ Since κ s := by
  have pre (as : List Nat) (n : Nat) (t : State) : Since κ (as.foldl (fun s a => modAcct a (addPre n) s) t) ↔ Since κ t :=
    foldl_since_iff _ _ _ fun _ _ => by simp
  simp only [chargeStep]
  (repeat' split) <;> simp [pre]

@[simp] theorem countPre_since (j : Nat) (s : State) : Since κ (countPre j s) ↔ Since κ s := by simp [countPre]
@[simp] theorem telBound_since (p : Nat) (s : State) : Since κ (telBound p s) ↔ Since κ s := by simp [telBound]

@[simp] theorem makeReady_since (j : Nat) (raise : Bool) (s : State) : Since κ (makeReady j raise s) ↔ Since κ s := by
  simp [makeReady]

@[simp] theorem makeRunning_since (j : Nat) (s : State) : Since κ (makeRunning j s) ↔ Since κ s := by simp [makeRunning]

@[simp] theorem grantUnits_since (k : Nat) (s : State) : Since κ (grantUnits k s) ↔ Since κ s := by
  induction k generalizing s with
  | zero => rfl
  | succ k ih =>
    simp only [grantUnits]
    split
    · split
      · rw [ih, modJob_since, makeRunning_since]
      · rfl
    · rfl

@[simp] theorem askUnit_since (j : Nat) (s : State) : Since κ (askUnit j s) ↔ Since κ s := by simp [askUnit]

@[simp] theorem freeMatrix_since (ts : List Nat) (s : State) (hs : Since κ s) : Since κ (freeMatrix ts s) :=
  foldl_since _ _ _ (fun s t h => by simp [h]) hs

@[simp] theorem haltJob_since (j : Nat) (s : State) : Since κ (haltJob j s) ↔ Since κ s := by simp [haltJob]
@[simp] theorem dropWork_since (j : Nat) (s : State) (hs : Since κ s) : Since κ (dropWork j s) := by simp [hs, dropWork]
@[simp] theorem abandonCulture_since (j : Nat) (s : State) : Since κ (abandonCulture j s) ↔ Since κ s := by simp [abandonCulture]

@[simp] theorem releaseLocks_since (p : Nat) (replay : Bool) (s : State) : Since κ (releaseLocks p replay s) ↔ Since κ s := by
  simp [releaseLocks]

@[simp] theorem beginRun_since (p j : Nat) (s : State) : Since κ (beginRun p j s) ↔ Since κ s := by simp [beginRun]
@[simp] theorem zeroTps_since (mask : Nat) (s : State) (hs : Since κ s) : Since κ (zeroTps mask s) := by simp [hs, zeroTps]

@[simp] theorem switchEvent_since (p : Nat) (out inc : Option Nat) (saved restored : Nat) (s : State) :
    Since κ (switchEvent p out inc saved restored s) ↔ Since κ s := by
  simp [switchEvent]

@[simp] theorem bringIn_since (p : Nat) (out inc : Option Nat) (lines : Nat) (due : Option Nat) (s : State) (hs : Since κ s) :
    Since κ (bringIn p out inc lines due s) := by
  unfold bringIn
  (repeat' split) <;> simp [hs]

@[simp] theorem startNext_since (p : Nat) (out : Option Nat) (s : State) (hs : Since κ s) : Since κ (startNext p out s) := by
  unfold startNext
  (repeat' split) <;> simp [hs]

@[simp] theorem chargeAttempt_since (j : Nat) (s : State) : Since κ (chargeAttempt j s) ↔ Since κ s := by simp [chargeAttempt]
@[simp] theorem ringSwing_since (p : Nat) (x : Job) (s : State) : Since κ (ringSwing p x s) ↔ Since κ s := by simp [ringSwing]
@[simp] theorem ringNext_since (p j : Nat) (x : Job) (s : State) (hs : Since κ s) : Since κ (ringNext p j x s) := by simp [hs, ringNext]

@[simp] theorem overrunEvent_since (t tile len slip : Nat) (faulted : Bool) (s : State) :
    Since κ (overrunEvent t tile len slip faulted s) ↔ Since κ s := by
  simp [overrunEvent]

@[simp] theorem instrFaultEvent_since (t thr off reason : Nat) (s : State) :
    Since κ (instrFaultEvent t thr off reason s) ↔ Since κ s := by
  simp [instrFaultEvent]

@[simp] theorem accessFaultEvent_since (t thr g reason : Nat) (s : State) :
    Since κ (accessFaultEvent t thr g reason s) ↔ Since κ s := by
  simp [accessFaultEvent]

@[simp] theorem reportOverruns_since (j : Nat) (s : State) : Since κ (reportOverruns j s) ↔ Since κ s :=
  foldl_since_iff _ _ _ fun s x => by (repeat' split) <;> simp

@[simp] theorem clearDigests_since (s : State) : Since κ (clearDigests s) ↔ Since κ s := by simp [clearDigests]
@[simp] theorem endAttempts_since (s : State) : Since κ (endAttempts s) ↔ Since κ s := by simp [endAttempts]
@[simp] theorem faultJob_since (j : Nat) (s : State) (hs : Since κ s) : Since κ (faultJob j s) := by simp [hs, faultJob]
@[simp] theorem holdRing_since (p : Nat) (s : State) : Since κ (holdRing p s) ↔ Since κ s := by simp [holdRing]
@[simp] theorem freeRing_since (p : Nat) (s : State) : Since κ (freeRing p s) ↔ Since κ s := by simp [freeRing]
@[simp] theorem failColl_since (j prog : Nat) (s : State) (hs : Since κ s) : Since κ (failColl j prog s) := by simp [hs, failColl]

@[simp] theorem failAllColls_since (s : State) (hs : Since κ s) : Since κ (failAllColls s) := by
  unfold failAllColls
  (repeat' split) <;> simp [hs]

@[simp] theorem sendNotice_since (chip arg : Nat) (s : State) : Since κ (sendNotice chip arg s) ↔ Since κ s := by
  unfold sendNotice
  split <;> simp

@[simp] theorem fenceChip_since (x reason hops origin : Nat) (from_ : Option Nat) (s : State) (hs : Since κ s) :
    Since κ (fenceChip x reason hops origin from_ s) := by
  simp +contextual [hs, fenceChip]

@[simp] theorem selfFence_since (reason : Nat) (s : State) (hs : Since κ s) : Since κ (selfFence reason s) := by
  unfold selfFence
  dsimp only
  (repeat' split) <;> simp +contextual [hs]

@[simp] theorem chipClass_since (table addr : Nat) (s : State) (hs : Since κ s) : Since κ (chipClass table addr s) := by
  have faulted (f : State → Nat → State) (hf : ∀ s j, Since κ s → Since κ (f s j)) (js : List Nat) :
      Since κ (js.foldl f (post 0x0B 2 3 (pl1 table ++ pl8 addr) { s with flt.chipClass := true })) :=
    foldl_since f js _ hf (by simp [hs])
  exact selfFence_since _ _ (faulted _ (fun s j h => by simp [h]) _)

@[simp] theorem onTable_since (k : Nat) (f : State → State) (s : State) (h : ∀ s, Since κ s → Since κ (f s)) (hs : Since κ s) :
    Since κ (onTable k f s) := by
  simp [hs, onTable, h]

/-! ### Issue -/

@[simp] theorem faultTile_since (t slot tile len slip : Nat) (s : State) (hs : Since κ s) :
    Since κ (faultTile t slot tile len slip s) := by
  simp [hs, faultTile]

@[simp] theorem faultOverrun_since (c : TileCtx) (s : State) (hs : Since κ s) : Since κ (faultOverrun c s) := by simp [hs, faultOverrun]

@[simp] theorem raiseSlip_since (slot base len : Nat) (s : State) : Since κ (raiseSlip slot base len s) ↔ Since κ s := by
  simp [raiseSlip]

@[simp] theorem writeIndex_since (t : Nat) (n : Nest) (s : State) (hs : Since κ s) : Since κ (writeIndex t n s) := by
  unfold writeIndex
  split <;> simp [hs]

@[simp] theorem loopLimit_since (t : Nat) (n : Nest) (s : State) : Since κ (loopLimit t n s) ↔ Since κ s := by simp [loopLimit]

@[simp] theorem closeNests_since (t k : Nat) (s : State) (hs : Since κ s) : Since κ (closeNests t k s) := by
  induction k generalizing s with
  | zero => exact hs
  | succ k ih =>
    simp only [closeNests]
    split
    · exact hs
    · simp [hs, ih]

@[simp] theorem retire_since (t cy : Nat) (s : State) (hs : Since κ s) : Since κ (retire t cy s) := by simp [hs, retire]

@[simp] theorem deferLines_since (slot : Nat) (late : List (Nat × Nat)) (s : State) : Since κ (deferLines slot late s) ↔ Since κ s :=
  foldl_since_iff _ _ _ fun _ _ => by simp

@[simp] theorem addDeferred_since (r : HbmReq) (s : State) : Since κ (addDeferred r s) ↔ Since κ s := by simp [addDeferred]

@[simp] theorem chargeHbm_since (c : TileCtx) (a n least : Nat) (keys : List Nat) (store : Bool) (s : State) :
    Since κ (chargeHbm c a n least keys store s) ↔ Since κ s := by
  simp [chargeHbm]

@[simp] theorem failIssue_since (c : TileCtx) (f : TField) (r : Nat) (acc : Nat × Nat) (halts : Bool) (s : State) (hs : Since κ s) :
    Since κ (failIssue c f r acc halts s) := by
  simp [hs, failIssue]

@[simp] theorem failEcc_since (c : TileCtx) (a n : Nat) (s : State) (hs : Since κ s) : Since κ (failEcc c a n s) := by simp [hs, failEcc]
@[simp] theorem runOff_since (c : TileCtx) (s : State) (hs : Since κ s) : Since κ (runOff c s) := by simp [hs, runOff]

@[simp] theorem passCeiling_since (c : TileCtx) (cy : Nat) (s : State) : Since κ (passCeiling c cy s) ↔ Since κ s := by
  simp [passCeiling]

@[simp] theorem stall_since (t : Nat) (f : TField) (s : State) : Since κ (stall t f s) ↔ Since κ s := by simp [stall]

theorem readied_since {o : OpSpec} {c : TileCtx} {f : TField} {s : State} {cy : Nat} {t : State}
    (h : readied o c f s = some (cy, t)) (hs : Since κ s) : Since κ t := by
  simp only [readied] at h
  split at h
  · cases h
  · split at h
    · cases h
    · cases h
      simp [hs]

/-- The issue of an instruction keeps what its act keeps. -/
@[simp] theorem issue_since (o : OpSpec) (t : Fin 128) (f : TField) (act : TileCtx → Nat → State → State) (s : State)
    (h : ∀ c cy s, Since κ s → Since κ (act c cy s)) (hs : Since κ s) : Since κ (issue o t f act s) := by
  simp only [issue]
  split
  · exact hs
  · split
    · simp [hs]
    · split
      · simp [hs]
      · split
        · simp [hs]
        · next hr =>
          have ready := readied_since hr hs
          simp [ready, h]

@[simp] theorem result_since (o : OpSpec) (f : TField) (lat : Nat) (v : TileCtx → State → Nat) (c : TileCtx) (cy : Nat)
    (s : State) (hs : Since κ s) : Since κ (result o f lat v c cy s) := by
  simp [hs, result]

/-! ### RingOps -/

@[simp] theorem takeView_since (p : Nat) (s : State) : Since κ (takeView p s) ↔ Since κ s := by simp [takeView]

@[simp] theorem sendColl_since (p prog dir stage off : Nat) (data : List Byte) (s : State) :
    Since κ (sendColl p prog dir stage off data s) ↔ Since κ s := by
  unfold sendColl
  split <;> simp

@[simp] theorem sendHalf_since (p prog dir stage addr n : Nat) (s : State) :
    Since κ (sendHalf p prog dir stage addr n s) ↔ Since κ s := by
  simp [sendHalf]

@[simp] theorem startColl_since (p prog : Nat) (m : Movement) (c : Coll) (s : State) :
    Since κ (startColl p prog m c s) ↔ Since κ s := by
  simp [startColl]

@[simp] theorem passColl_since (j prog : Nat) (m : Movement) (c : Coll) (s : State) (f : Frame) (hs : Since κ s) :
    Since κ (passColl j prog m c s f) := by
  simp [hs, passColl]

@[simp] theorem landColl_since (j prog : Nat) (m : Movement) (c : Coll) (f : Frame) (s : State) (hs : Since κ s) :
    Since κ (landColl j prog m c f s) := by
  simp [hs, landColl]

@[simp] theorem takeColl_since (j prog : Nat) (m : Movement) (c : Coll) (f : Frame) (s : State) (hs : Since κ s) :
    Since κ (takeColl j prog m c f s) := by
  simp [hs, takeColl]

@[simp] theorem enterColl_since (j prog : Nat) (m : Movement) (c : Coll) (s : State) (hs : Since κ s) :
    Since κ (enterColl j prog m c s) := by
  simp +contextual [hs, enterColl]

@[simp] theorem routed_since (l : Fin 8) (f : Frame) (kind : Nat) (d : State → State) (s : State) (h : ∀ s, Since κ s → Since κ (d s)) (hs : Since κ s) :
    Since κ (routed l f kind d s) := by
  have taken (t : State) (ht : Since κ t) : Since κ (receive l f kind d t) := receive_since l f kind d t h ht
  simp only [routed, ite_since]
  split
  · exact onTable_since _ _ _ taken hs
  · exact taken s hs

/-! ### Control -/

@[simp] theorem endTile_since (c : TileCtx) (cy : Nat) (s : State) (hs : Since κ s) : Since κ (endTile c cy s) := by simp [hs, endTile]

@[simp] theorem execBrk_kept (t : Fin 128) (f : TField) (s : State) (hs : Since κ s) : Kept κ (execBrk t f s) := by
  refine kept_run (issue_since _ _ _ _ _ (fun c cy s h => ?_) hs)
  split
  · simp [h]
  · split <;> simp [h]

@[simp] theorem resume_since (t thr cy : Nat) (s : State) (hs : Since κ s) : Since κ (resume t thr cy s) := by
  unfold resume
  dsimp only
  (repeat' split) <;> simp [hs]

@[simp] theorem csyncRelease_since (j id : Nat) (s : State) (hs : Since κ s) : Since κ (csyncRelease j id s) := by simp +contextual [hs, csyncRelease]

/-! ### Separator -/

@[simp] theorem queueBalance_since (entry : List Byte) (s : State) : Since κ (queueBalance entry s) ↔ Since κ s := by
  simp [queueBalance]

@[simp] theorem writeRows_since (out : Lay) (rows : List (List Nat)) (s : State) (hs : Since κ s) : Since κ (writeRows out rows s) :=
  foldl_since _ _ _ (fun s r h => foldl_since _ _ _ (fun s x h => by simp [h]) h) hs

/-! ### Culture: the memories that it works on -/

/-- A fold whose step keeps the canonical form keeps it. -/
theorem foldl_canonical {α : Type} {g : CulMem → α → CulMem} (h : ∀ c x, Memory.wf c.mem = true → Memory.wf (g c x).mem = true)
    (xs : List α) (c : CulMem) (hc : Memory.wf c.mem = true) : Memory.wf (xs.foldl g c).mem = true :=
  xs.foldlRecOn g (motive := fun c => Memory.wf c.mem = true) hc fun c hc x _ => h c x hc

theorem memPutNat_wf {m : Table Byte} (a n v : Nat) (h : Memory.wf m = true) : Memory.wf (memPutNat m a n v) = true :=
  memWrite_wf _ _ _ h

theorem pairTerms_canonical (s : State) (p : CulPar) (d : LayerDesc) (layer slot bank : Nat) (x : Nat × Nat × Nat) (c : CulMem)
    (hc : Memory.wf c.mem = true) : Memory.wf (pairTerms s p d layer slot bank x c).mem = true :=
  foldl_canonical (fun _ _ h => memPutNat_wf _ _ _ h) _ _ hc

theorem pairWork_canonical {s : State} (p : CulPar) (d : LayerDesc) (h : SepHdr) (layer n : Nat) (hm : Memory.wf s.mem = true) :
    Memory.wf (pairWork s p d h layer n).1.mem = true := by
  have zeroed (bs : List Byte) (a : Nat) : Memory.wf (memWrite s.mem a bs) = true := memWrite_wf _ _ _ hm
  simp only [pairWork]
  split
  · exact foldl_canonical (fun _ _ h => memPutNat_wf _ _ _ h) _ _ (zeroed _ _)
  · exact foldl_canonical (fun c x h => pairTerms_canonical _ _ _ _ _ _ x c h) _ _ (zeroed _ _)

theorem foldDense_canonical (p : CulPar) (d : LayerDesc) (rs : Rounds) (c : CulMem) (x : Nat) (hc : Memory.wf c.mem = true) :
    Memory.wf (foldDense p d rs c x).mem = true := by
  simp only [foldDense]
  split
  · split
    · exact memPutNat_wf _ _ _ (memPutNat_wf _ _ _ hc)
    · exact memPutNat_wf _ _ _ hc
  · refine memPutNat_wf _ _ _ ?_
    split
    · exact memPutNat_wf _ _ _ (memPutNat_wf _ _ _ hc)
    · exact memPutNat_wf _ _ _ hc

theorem foldSparse_canonical (p : CulPar) (d : LayerDesc) (rs : Rounds) (c : CulMem) (e : Nat) (hc : Memory.wf c.mem = true) :
    Memory.wf (foldSparse p d rs c e).mem = true := by
  refine memPutNat_wf _ _ _ (memWrite_wf _ _ _ ?_)
  split
  · exact memWrite_wf _ _ _ (memWrite_wf _ _ _ hc)
  · exact memWrite_wf _ _ _ hc

theorem rewriteCopy_canonical (p : CulPar) (d : LayerDesc) (c : CulMem) (hc : Memory.wf c.mem = true) :
    Memory.wf (rewriteCopy p d c).mem = true :=
  List.foldlRecOn (motive := fun m => Memory.wf m = true) _ _ (memWrite_wf _ _ _ hc) fun _ hm _ _ =>
    List.foldlRecOn (motive := fun m => Memory.wf m = true) _ _ hm fun _ hm _ _ => memPutNat_wf _ _ _ hm

theorem foldSpan_canonical (p : CulPar) (d : LayerDesc) (rs : Rounds) (from_ upTo : Nat) (c : CulMem) (hc : Memory.wf c.mem = true) :
    Memory.wf (foldSpan p d rs from_ upTo c).mem = true := by
  have folded (xs : List Nat) : Memory.wf (xs.foldl (fun c x =>
      if (culSparse p && culRule d != 0) = true then foldSparse p d rs c x else foldDense p d rs c x) c).mem = true := by
    refine foldl_canonical (fun c x h => ?_) xs c hc
    split
    · exact foldSparse_canonical p d rs c x h
    · exact foldDense_canonical p d rs c x h
  simp only [foldSpan]
  split
  · exact rewriteCopy_canonical p d _ (folded _)
  · exact folded _

theorem snapRefresh_canonical (s : State) (p : CulPar) (d : LayerDesc) (block layer left : Nat) (g : CulProg) (c : CulMem)
    (hc : Memory.wf c.mem = true) : Memory.wf (snapRefresh s p d block layer left g c).2.1.mem = true := by
  unfold snapRefresh
  extract_lets at_ current fresh other pick buf done body lines n part m1 g1
  have parts : Memory.wf m1 = true := memWrite_wf _ _ _ hc
  clear_value m1 g1 n lines current
  split
  · exact hc
  · split
    · exact hc
    · split
      · dsimp only
        exact memWrite_wf _ _ _ parts
      · exact parts

/-- Bytes of the local space replaced. -/
theorem withMem_since {s : State} {m : Table Byte} (u : Cul) (hs : Since κ s) (hm : Memory.wf s.mem = true → Memory.wf m = true) :
    Since κ { s with mem := m, cul := u } := by
  obtain ⟨cfg, routes, copy, way, fleet, mem, host⟩ := (since_fields κ s).2 hs
  exact ⟨cfg, routes, copy, way, fleet, fun c => hm (mem c), host⟩

/-! ### Culture -/

theorem culUpdate_since (slot layer n attempt : Nat) (d : LayerDesc) (h : SepHdr) (s : State) (hs : Since κ s) :
    Since κ (culUpdate slot layer n attempt d h s).1 := by
  unfold culUpdate
  extract_lets a p part _ g0 put r first resume g1 s1 _ rew g2 steps rs total
  have put_since (g : CulProg) (t : State) (ht : Since κ t) : Since κ (put g t) := by simp [put, ht]
  have started : Since κ s1 := by simp [s1, hs]
  clear_value put s1 g1 g2 rew steps rs total
  split
  · exact put_since _ _ hs
  · split
    · exact put_since _ _ started
    · split
      · exact put_since _ _ (by simp [started])
      · refine put_since _ _ (withMem_since _ (by simp [started]) fun hm =>
          snapRefresh_canonical _ _ _ _ _ _ _ _ (foldSpan_canonical _ _ _ _ _ _ ?_))
        have same (c : CulMem) : (if first then tally rew c else c).mem = c.mem := by split <;> rfl
        rw [same]
        split
        · exact pairWork_canonical _ _ _ _ _ (by simpa [postIf, apply_ite State.mem] using hm)
        · simpa [postIf, apply_ite State.mem] using hm

@[simp] theorem commitLayer_since (d : LayerDesc) (a n attempt : Nat) (g : CulProg) (s : State) (hs : Since κ s) :
    Since κ (commitLayer d a n attempt g s) := by
  have moved (c : Prop) [Decidable c] (x y : Nat) :
      Since κ (if c then putMemNat (a + 0x60) 8 x (putMemNat (a + 0x68) 8 y s) else s) := by
    simp [hs]
  have stated (t : State) (ht : Since κ t) (n v : Nat) : Since κ (putMemNat n 8 v t) := by simp [ht]
  exact (since_fields κ _).2 (stated _ (moved _ _ _) _ _)

@[simp] theorem commitCulture_since (slot n attempt : Nat) (s : State) (hs : Since κ s) : Since κ (commitCulture slot n attempt s) := by
  simp +contextual [hs, commitCulture]

/-! ### BlockIssue -/

@[simp] theorem setQueue_since (k : Nat) (q : List BlockOp) (s : State) : Since κ (setQueue k q s) ↔ Since κ s := by simp [setQueue]
@[simp] theorem popOp_since (k : Nat) (s : State) : Since κ (popOp k s) ↔ Since κ s := by simp [popOp]

@[simp] theorem landStatus_since (slot tp tile : Nat) (dst : Option Nat) (count code cy : Nat) (s : State) (hs : Since κ s) :
    Since κ (landStatus slot tp tile dst count code cy s) := by
  unfold landStatus
  split <;> simp [hs]

@[simp] theorem landOp_since (o : BlockOp) (count code : Nat) (s : State) (hs : Since κ s) : Since κ (landOp o count code s) := by
  simp [hs, landOp]

@[simp] theorem issueOp_since (k layer first count cost : Nat) (tps : List Nat) (f : TField) (c : TileCtx) (cy : Nat)
    (s : State) (hs : Since κ s) : Since κ (issueOp k layer first count cost tps f c cy s) := by
  simp [hs, issueOp]

@[simp] theorem rejectOp_since (src code status : Nat) (payload : List Byte) (f : TField) (c : TileCtx) (cy : Nat) (s : State) (hs : Since κ s) :
    Since κ (rejectOp src code status payload f c cy s) := by
  simp [hs, rejectOp]

@[simp] theorem lineReads_since (slot reader : Nat) (reads : Nat → Bool) (act : State → State) (s : State)
    (h : ∀ s, Since κ s → Since κ (act s)) (hs : Since κ s) : Since κ (lineReads slot reader reads act s) := by
  unfold lineReads
  split <;> simp [hs, h]

@[simp] theorem blockReads_since (slot reader : Nat) (rs : List (Nat × Nat)) (ls : List Lay) (act : State → State) (s : State)
    (h : ∀ s, Since κ s → Since κ (act s)) (hs : Since κ s) : Since κ (blockReads slot reader rs ls act s) :=
  lineReads_since _ _ _ _ _ h hs

@[simp] theorem completeOp_since (k : Nat) (act : BlockOp → State → State) (s : State) (h : ∀ o s, Since κ s → Since κ (act o s)) (hs : Since κ s) :
    Since κ (completeOp k act s) := by
  unfold completeOp
  split <;> simp [hs, h]

@[simp] theorem selDone_since (o : BlockOp) (s : State) (hs : Since κ s) : Since κ (selDone o s) :=
  blockReads_since _ _ _ _ _ _ (fun s h => by simp [h]) hs

@[simp] theorem storeAll_since (ws : List (Nat × List Byte)) (s : State) (hs : Since κ s) : Since κ (storeAll ws s) := by simp +contextual [hs, storeAll]

@[simp] theorem dspDone_since (o : BlockOp) (s : State) (hs : Since κ s) : Since κ (dspDone o s) := by
  unfold dspDone
  dsimp only
  split
  · exact hs
  · exact blockReads_since _ _ _ _ _ _ (fun s h => by simp [h]) hs

@[simp] theorem logLines_since (base n k at_ : Nat) (bs : List Byte) (s : State) (hs : Since κ s) : Since κ (logLines base n k at_ bs s) := by
  induction k generalizing at_ bs s with
  | zero => exact hs
  | succ k ih => exact ih _ _ _ (by simp [hs])

@[simp] theorem execBalanceLogWrite_kept (s : State) (hs : Since κ s) : Kept κ (execBalanceLogWrite s) := by
  refine kept_run ?_
  dsimp only
  split <;> simp [hs]

@[simp] theorem grwDone_since (c : Nat) (o : BlockOp) (s : State) (hs : Since κ s) : Since κ (grwDone c o s) := by
  refine blockReads_since _ _ _ _ _ _ (fun s h => ?_) hs
  have walked (g : State → GroupEntry × Nat → State) (hg : ∀ s x, Since κ s → Since κ (g s x)) (xs : List (GroupEntry × Nat)) :
      Since κ (freeMatrix (walkTps c (xs.map (·.1))) (xs.foldl g s)) :=
    freeMatrix_since _ _ (foldl_since _ _ _ hg h)
  refine landOp_since _ _ _ _ ((skipFree_since _ _).2 ((modRun_since _ _ _).2 (walked _ (fun s x h => ?_) _)))
  split <;> simp [h]

@[simp] theorem cmbDone_since (o : BlockOp) (s : State) (hs : Since κ s) : Since κ (cmbDone o s) := by
  unfold cmbDone
  dsimp only
  split
  · refine lineReads_since _ _ _ _ _ (fun s h => ?_) hs
    split
    · simp [h]
    · exact faultJob_since _ _ (by simp [h])
  · exact hs

@[simp] theorem culDone_since (o : BlockOp) (s : State) (hs : Since κ s) : Since κ (culDone o s) := by
  simp only [culDone]
  split
  · exact hs
  · exact blockReads_since _ _ _ _ _ _ (fun s h => landOp_since _ _ _ _ (culUpdate_since _ _ _ _ _ _ _ h)) hs

@[simp] theorem setChannel_since (ch : Nat) (o : Option LoadOp) (s : State) : Since κ (setChannel ch o s) ↔ Since κ s := by
  simp [setChannel]

@[simp] theorem feedChannel_since (ch : Nat) (s : State) : Since κ (feedChannel ch s) ↔ Since κ s := by
  unfold feedChannel
  split <;> simp

@[simp] theorem holdLoad_since (ch cy : Nat) (s : State) : Since κ (holdLoad ch cy s) ↔ Since κ s := by simp [holdLoad]
@[simp] theorem dropLate_since (id : Nat) (s : State) : Since κ (dropLate id s) ↔ Since κ s := by simp [dropLate]

@[simp] theorem landLoad_since (o : LoadOp) (count cy : Nat) (s : State) (hs : Since κ s) : Since κ (landLoad o count cy s) := by
  simp [hs, landLoad]

@[simp] theorem loadDone_since (cy : Nat) (o : LoadOp) (s : State) (hs : Since κ s) : Since κ (loadDone cy o s) :=
  blockReads_since _ _ _ _ _ _ (fun s h => by simp [h]) hs

@[simp] theorem completeLoad_since (ch : Nat) (reject : Bool) (act : Nat → LoadOp → State → State) (s : State)
    (h : ∀ n o s, Since κ s → Since κ (act n o s)) (hs : Since κ s) : Since κ (completeLoad ch reject act s) := by
  unfold completeLoad
  split <;> simp [hs, h]

@[simp] theorem execBlockQueueStart_kept (b : BlockId) (s : State) (hs : Since κ s) : Kept κ (execBlockQueueStart b s) := by
  refine kept_run ?_
  dsimp only
  split <;> simp [hs]

/-! ### Ramp -/

@[simp] theorem sendRamp_since (chip op epoch : Nat) (d : Dir) (id watts : Nat) (s : State) :
    Since κ (sendRamp chip op epoch d id watts s) ↔ Since κ s := by
  simp [sendRamp]

@[simp] theorem spend_since (d : Dir) (x : Nat) (s : State) : Since κ (spend d x s) ↔ Since κ s := by simp [spend]

@[simp] theorem setReq_since (d : Dir) (r : Option RampReq) (s : State) : Since κ (setReq d r s) ↔ Since κ s := by
  unfold setReq
  split <;> simp

@[simp] theorem takeLease_since (d : Dir) (id watts g pool epoch : Nat) (s : State) :
    Since κ (takeLease d id watts g pool epoch s) ↔ Since κ s := by
  unfold takeLease
  (repeat' split) <;> simp

@[simp] theorem grantOne_since (q : PoolReq) (w : Nat) (s : State) : Since κ (grantOne q w s) ↔ Since κ s := by simp [grantOne]

@[simp] theorem grantQueue_since (k : Nat) (d : Dir) (s : State) : Since κ (grantQueue k d s) ↔ Since κ s := by
  induction k generalizing s with
  | zero => rfl
  | succ k ih =>
    simp only [grantQueue]
    split
    · rfl
    · split
      · rw [ih, grantOne_since]
      · rfl

@[simp] theorem tellOne_since (s : State) (q : PoolReq) : Since κ (tellOne s q) ↔ Since κ s := by
  unfold tellOne
  (repeat' split) <;> simp

@[simp] theorem tellQueued_since (s : State) : Since κ (tellQueued s) ↔ Since κ s := by simp [tellQueued]
@[simp] theorem servePool_since (d : Dir) (s : State) : Since κ (servePool d s) ↔ Since κ s := by simp [servePool]

@[simp] theorem joinQueue_since (d : Dir) (chip id watts : Nat) (s : State) : Since κ (joinQueue d chip id watts s) ↔ Since κ s := by
  simp [joinQueue]

@[simp] theorem sendRequest_since (d : Dir) (r : RampReq) (s : State) : Since κ (sendRequest d r s) ↔ Since κ s := by
  simp [sendRequest]

@[simp] theorem askCredits_since (d : Dir) (x : Nat) (s : State) : Since κ (askCredits d x s) ↔ Since κ s := by
  unfold askCredits
  split <;> simp

@[simp] theorem returnLease_since (d : Dir) (chip id : Nat) (s : State) : Since κ (returnLease d chip id s) ↔ Since κ s := by
  unfold returnLease
  split <;> simp

@[simp] theorem announceAll_since (s : State) : Since κ (announceAll s) ↔ Since κ s := by simp [announceAll]
@[simp] theorem beginHandover_since (s : State) : Since κ (beginHandover s) ↔ Since κ s := by simp [beginHandover]
@[simp] theorem hearEpoch_since (e : Nat) (s : State) : Since κ (hearEpoch e s) ↔ Since κ s := by simp [hearEpoch]

@[simp] theorem takeAnnounce_since (src e at_ : Nat) (s : State) : Since κ (takeAnnounce src e at_ s) ↔ Since κ s := by
  simp [takeAnnounce]

@[simp] theorem takeReport_since (src watts : Nat) (s : State) : Since κ (takeReport src watts s) ↔ Since κ s := by simp [takeReport]

@[simp] theorem rampIn_since (op : Nat) (f : Frame) (act : Nat → Dir → Nat → Nat → State → State) (s : State)
    (h : ∀ e d id w s, Since κ s → Since κ (act e d id w s)) (hs : Since κ s) : Since κ (rampIn op f act s) := by
  simp [hs, rampIn, h]

@[simp] theorem execRampWindow_kept (s : State) (hs : Since κ s) : Kept κ (execRampWindow s) := by
  refine kept_runCtl hs ?_
  split <;> simp [hs]

@[simp] theorem execLeaseEnd_kept (d : Dir) (id : BitVec 12) (s : State) (hs : Since κ s) : Kept κ (execLeaseEnd d id s) := by
  refine kept_runCtl hs ?_
  dsimp only
  split <;> simp [hs]

@[simp] theorem execReclaim_kept (d : Dir) (chip id : BitVec 12) (s : State) (hs : Since κ s) : Kept κ (execReclaim d chip id s) := by
  refine kept_runCtl hs ?_
  split <;> simp [hs]

@[simp] theorem execQueued_kept (l : Fin 8) (fr : Frame) (s : State) (hs : Since κ s) : Kept κ (execQueued l fr s) := by
  refine kept_runCtl hs (receive_since _ _ _ _ _ (fun s h => rampIn_since _ _ _ _ (fun _ d id _ t ht => ?_) h) hs)
  split <;> simp [ht]

@[simp] theorem execBackupTakeover_kept (s : State) (hs : Since κ s) : Kept κ (execBackupTakeover s) := by
  refine kept_runCtl hs ?_
  dsimp only
  split <;> simp [hs]

@[simp] theorem execRequestResend_kept (d : Dir) (s : State) (hs : Since κ s) : Kept κ (execRequestResend d s) := by
  refine kept_runCtl hs ?_
  split <;> simp [hs]

/-! ### StreamOps -/

@[simp] theorem complete_since (p : Nat) (c : Compl) (s : State) (hs : Since κ s) : Since κ (complete p c s) := by
  simp only [complete]
  split
  · split <;> simp [hs]
  · simp [hs]

@[simp] theorem complIrq_since (p : Nat) (before : State) (s : State) : Since κ (complIrq p before s) ↔ Since κ s := by
  simp [complIrq]

@[simp] theorem subEffect_since (p : Nat) (e : SubEntry) (s : State) (hs : Since κ s) : Since κ (subEffect p e s) := by
  unfold subEffect
  split <;> simp [hs]

@[simp] theorem applySub_since (p : Nat) (s : State) (z : SubEntry × Bool) (hs : Since κ s) : Since κ (applySub p s z) := by
  simp [hs, applySub]

@[simp] theorem applyDue_since (p : Nat) (s : State) (hs : Since κ s) : Since κ (applyDue p s) := by simp +contextual [hs, applyDue]
@[simp] theorem lockRows_since (p : Nat) (rows : List Row) (s : State) : Since κ (lockRows p rows s) ↔ Since κ s := by simp [lockRows]

@[simp] theorem commitStream_since (p n budget : Nat) (rows : List (Row × Nat)) (s : State) (i : Nat) (hs : Since κ s) :
    Since κ (commitStream p n budget rows s i) := by
  unfold commitStream
  dsimp only
  (repeat' split) <;> simp [hs]

@[simp] theorem endCancelled_since (p n i : Nat) (s : State) (hs : Since κ s) : Since κ (endCancelled p n i s) := by simp +contextual [hs, endCancelled]

@[simp] theorem commitOne_since (p n budget : Nat) (rows : List (Row × Nat)) (s : State) (i : Nat) (hs : Since κ s) :
    Since κ (commitOne p n budget rows s i) := by
  simp [hs, commitOne]

@[simp] theorem commitStreams_since (p budget : Nat) (s : State) (hs : Since κ s) : Since κ (commitStreams p budget s) := by
  unfold commitStreams
  dsimp only
  split
  · exact hs
  · have committed (g : State → Nat → State) (hg : ∀ s i, Since κ s → Since κ (g s i)) (is : List Nat) := foldl_since g is s hg hs
    rw [complIrq_since, modStm_since]
    exact committed _ (fun s i h => by simp [h]) _

@[simp] theorem abandonStep_since (j : Nat) (s : State) (hs : Since κ s) : Since κ (abandonStep j s) := by
  have charged : Since κ (if (getJob s j).run.active then telBound (jobPart (getJob s j)) (chargeStep j false (chargeAttempt j s)) else s) := by
    simp [hs]
  rw [abandonStep, modJob_since, abandonCulture_since]
  exact dropWork_since j _ (by simpa using charged)

@[simp] theorem resetPart_since (p : Nat) (s : State) (hs : Since κ s) : Since κ (resetPart p s) := by
  unfold resetPart
  split <;> simp [hs]

/-! ### Sched -/

@[simp] theorem beginSave_since (p j : Nat) (inc : Option Nat) (due : Option Nat) (s : State) :
    Since κ (beginSave p j inc due s) ↔ Since κ s := by
  simp [beginSave]

@[simp] theorem jobLeaves_since (j : Nat) (s : State) : Since κ (jobLeaves j s) ↔ Since κ s := by simp [jobLeaves]

@[simp] theorem switchPoint_since (p j n ix : Nat) (idle : Bool) (due : Option Nat) (s : State) :
    Since κ (switchPoint p j n ix idle due s) ↔ Since κ s := by
  unfold switchPoint
  split <;> simp

@[simp] theorem switchEcc_since (cause : Nat) (src : List (Nat × Nat)) (s : State) : Since κ (switchEcc cause src s) ↔ Since κ s := by
  unfold switchEcc
  split <;> simp

@[simp] theorem switchFault_since (p j which cause : Nat) (s : State) (hs : Since κ s) : Since κ (switchFault p j which cause s) := by
  simp [hs, switchFault]

@[simp] theorem spread_since (rs : List (Nat × Nat)) (bs : List Byte) (s : State) (hs : Since κ s) : Since κ (spread rs bs s) := by
  induction rs generalizing bs s with
  | nil => exact hs
  | cons r rs ih => exact ih _ _ (by simp [hs])

@[simp] theorem countSwitch_since (j lines : Nat) (s : State) (hs : Since κ s) : Since κ (countSwitch j lines s) := by simp [hs, countSwitch]

@[simp] theorem saveDone_since (p : Nat) (w : Switch) (j : Nat) (s : State) (hs : Since κ s) : Since κ (saveDone p w j s) := by
  have saved (a : Nat) (bs : List Byte) (n : Nat) : Since κ (jobLeaves j (storeMem a bs (countSwitch j n s))) := by simp [hs]
  simp only [saveDone, ite_since]
  (repeat' split) <;> simp [hs, saved]

@[simp] theorem execSaveComplete_kept (p : Fin 8) (s : State) (hs : Since κ s) : Kept κ (execSaveComplete p s) := by
  refine kept_run ?_
  (repeat' split) <;> simp [hs]

@[simp] theorem restoreDone_since (p : Nat) (w : Switch) (j : Nat) (s : State) (hs : Since κ s) : Since κ (restoreDone p w j s) := by
  have restored (rs : List (Nat × Nat)) (bs : List Byte) (m n : Nat) : Since κ (spread rs bs (zeroTps m (countSwitch j n s))) :=
    spread_since _ _ _ (by simp [hs])
  simp only [restoreDone, ite_since]
  split <;> simp [hs, restored]

@[simp] theorem execRestoreComplete_kept (p : Fin 8) (s : State) (hs : Since κ s) : Kept κ (execRestoreComplete p s) := by
  refine kept_run ?_
  (repeat' split) <;> simp [hs]

@[simp] theorem execRingSwitch_kept (p : Fin 8) (s : State) (hs : Since κ s) : Kept κ (execRingSwitch p s) := by
  refine kept_run ?_
  (repeat' split) <;> simp [hs]

@[simp] theorem jobStatus_since (j cmd st : Nat) (s : State) : Since κ (jobStatus j cmd st s) ↔ Since κ s := by simp [jobStatus]
@[simp] theorem schIgnored_since (j off : Nat) (s : State) : Since κ (schIgnored j off s) ↔ Since κ s := by simp [schIgnored]

@[simp] theorem jobCommand_since (j cmd : Nat) (st : State → Nat) (act : State → State) (s : State)
    (h : ∀ s, Since κ s → Since κ (act s)) (hs : Since κ s) : Since κ (jobCommand j cmd st act s) := by
  simp [jobCommand, h, hs]

@[simp] theorem offerJob_since (j : Nat) (s : State) (hs : Since κ s) : Since κ (offerJob j s) := by simp [hs, offerJob]
@[simp] theorem rejectEvent_since (j : Nat) (s : State) : Since κ (rejectEvent j s) ↔ Since κ s := by simp [rejectEvent]
@[simp] theorem installJob_since (j : Nat) (s : State) : Since κ (installJob j s) ↔ Since κ s := by simp [installJob]
@[simp] theorem cmdInstall_since (j : Nat) (s : State) (hs : Since κ s) : Since κ (cmdInstall j s) := by simp [hs, cmdInstall]
@[simp] theorem cmdStart_since (j : Nat) (s : State) (hs : Since κ s) : Since κ (cmdStart j s) :=
  jobCommand_since _ _ _ _ _ (fun s h => by simp [h]) hs

@[simp] theorem cmdPreempt_since (j : Nat) (s : State) (hs : Since κ s) : Since κ (cmdPreempt j s) :=
  jobCommand_since _ _ _ _ _ (fun s h => by simp [h]) hs

@[simp] theorem endSwings_since (p : Nat) (s : State) : Since κ (endSwings p s) ↔ Since κ s := by simp [endSwings]
@[simp] theorem cmdRemove_since (j : Nat) (s : State) (hs : Since κ s) : Since κ (cmdRemove j s) :=
  jobCommand_since _ _ _ _ _ (fun s h => by simp [h]) hs

@[simp] theorem zeroThreads_since (thr : Nat) (s : State) (hs : Since κ s) : Since κ (zeroThreads thr s) := by simp [hs, zeroThreads]
@[simp] theorem cmdRestart_since (j : Nat) (s : State) (hs : Since κ s) : Since κ (cmdRestart j s) :=
  jobCommand_since _ _ _ _ _ (fun s h => by simp [h]) hs

@[simp] theorem execJobReady_kept (slot : Fin 64) (s : State) (hs : Since κ s) : Kept κ (execJobReady slot s) := by
  refine kept_run ?_
  dsimp only
  split <;> simp [hs]

/-! ### Streams -/

@[simp] theorem doorbellIgnored_since (p idx head : Nat) (s : State) : Since κ (doorbellIgnored p idx head s) ↔ Since κ s := by
  simp [doorbellIgnored]

@[simp] theorem stmIgnored_since (p off : Nat) (s : State) : Since κ (stmIgnored p off s) ↔ Since κ s := by simp [stmIgnored]
@[simp] theorem writeSqTail_since (p idx : Nat) (s : State) : Since κ (writeSqTail p idx s) ↔ Since κ s := by simp [writeSqTail]

@[simp] theorem applyNow_since (p : Fin 8) (op : Nat) (c : SubCmd) (tokens : List (BitVec 32)) (s : State) (hs : Since κ s) :
    Since κ (applyNow p op c tokens s) := by
  simp [hs, applyNow]

@[simp] theorem idleBuild_since (p j : Nat) (s : State) : Since κ (idleBuild p j s) ↔ Since κ s := by simp [idleBuild]

@[simp] theorem buildStep_since (p j : Nat) (rows : List Row) (s : State) (hs : Since κ s) : Since κ (buildStep p j rows s) := by
  simp [hs, buildStep]

@[simp] theorem execStepBuild_kept (p : Fin 8) (s : State) (hs : Since κ s) : Kept κ (execStepBuild p s) := by
  refine kept_run (onTable_since _ _ _ (fun s h => ?_) hs)
  split <;> simp [h]

@[simp] theorem writeCqHead_since (p idx : Nat) (s : State) : Since κ (writeCqHead p idx s) ↔ Since κ s := by simp [writeCqHead]

@[simp] theorem writeSqSetup_since (p : Nat) (r : RingReg) (v : Nat) (s : State) : Since κ (writeSqSetup p r v s) ↔ Since κ s := by
  simp [writeSqSetup]

@[simp] theorem writeCqSetup_since (p : Nat) (r : RingReg) (v : Nat) (s : State) : Since κ (writeCqSetup p r v s) ↔ Since κ s := by
  simp [writeCqSetup]

@[simp] theorem execLockLeaseExpiry_kept (p : Fin 8) (stream : BitVec 12) (s : State) (hs : Since κ s) :
    Kept κ (execLockLeaseExpiry p stream s) := by
  refine kept_run ?_
  dsimp only
  split <;> simp [hs]

/-! ### Tiles -/

@[simp] theorem armColls_since (j : Nat) (s : State) : Since κ (armColls j s) ↔ Since κ s := by
  unfold armColls
  dsimp only
  (repeat' split) <;> simp

@[simp] theorem freshTps_since (j : Nat) (s : State) : Since κ (freshTps j s) ↔ Since κ s := by simp [freshTps]
@[simp] theorem lateStart_since (j t : Nat) (s : State) : Since κ (lateStart j t s) ↔ Since κ s := by simp [lateStart]
@[simp] theorem startStep_since (p : Nat) (s : State) (j : Nat) (hs : Since κ s) : Since κ (startStep p s j) := by
  have timed : Since κ (if onSwings s j = true then advanceTo (getStm s p).nextSw
      (if (jobRing (getJob s j) && (getPart s p).runSteps == 0 && (getJob s j).attempt == 0) = true then lateStart j (getStm s p).nextSw s
        else s) else s) := by
    simp [hs]
  simpa [startStep] using timed

@[simp] theorem execStepStart_kept (p : Fin 8) (s : State) (hs : Since κ s) : Kept κ (execStepStart p s) := by
  refine kept_run ?_
  exact foldl_since (startStep p.val) _ _ (fun _ _ h => startStep_since _ _ _ h) hs

@[simp] theorem beginTile_since (t j : Nat) (e : TrackEntry) (s : State) (hs : Since κ s) : Since κ (beginTile t j e s) := by
  simp [hs, beginTile]

@[simp] theorem execTileBegin_kept (t : Fin 128) (slot : Fin 64) (waited : Nat) (s : State) (hs : Since κ s) :
    Kept κ (execTileBegin t slot waited s) := by
  refine kept_run ?_
  dsimp only
  split <;> simp [hs]

@[simp] theorem execCeilingOverrun_kept (t : Fin 128) (s : State) (hs : Since κ s) : Kept κ (execCeilingOverrun t s) := by
  refine kept_run ?_
  split <;> simp [hs]

@[simp] theorem execSlipLimitCrossed_kept (t : Fin 128) (s : State) (hs : Since κ s) : Kept κ (execSlipLimitCrossed t s) := by
  refine kept_run ?_
  dsimp only
  (repeat' split) <;> simp [hs]

@[simp] theorem execRendezvousOverrun_kept (t : Fin 128) (s : State) (hs : Since κ s) : Kept κ (execRendezvousOverrun t s) := by
  refine kept_run ?_
  dsimp only
  (repeat' split) <;> simp [hs]

@[simp] theorem endRdv_since (c : TileCtx) (f cy thr : Nat) (base : Option Nat) (s : State) (hs : Since κ s) :
    Since κ (endRdv c f cy thr base s) := by
  simp [hs, endRdv]

@[simp] theorem execCollectiveComplete_kept (slot : Fin 64) (prog : BitVec 16) (s : State) (hs : Since κ s) :
    Kept κ (execCollectiveComplete slot prog s) := by
  refine kept_run ?_
  dsimp only
  (repeat' split) <;> simp [hs]

@[simp] theorem reachCycle_since (j cycle : Nat) (s : State) (hs : Since κ s) : Since κ (reachCycle j cycle s) := by simp [hs, reachCycle]

@[simp] theorem stopWait_since (j cycle slip : Nat) (s : State) (x : Nat × Nat × Nat) (hs : Since κ s) :
    Since κ (stopWait j cycle slip s x) := by
  simp [hs, stopWait]

@[simp] theorem stopWaits_since (j cycle : Nat) (lates : List (Nat × Nat × Nat)) (s : State) (hs : Since κ s) :
    Since κ (stopWaits j cycle lates s).1 := by
  have waited : Since κ (lates.foldl (stopWait j cycle (getJob s j).run.slip) s) :=
    foldl_since _ _ _ (fun s x h => stopWait_since j cycle _ s x h) hs
  simp only [stopWaits]
  split <;> simp [waited]

@[simp] theorem unitEnd_since (j : Nat) (s : State) : Since κ (unitEnd j s) ↔ Since κ s := by simp [unitEnd]
@[simp] theorem chargeTo_since (j cycle : Nat) (s : State) : Since κ (chargeTo j cycle s) ↔ Since κ s := by simp [chargeTo]
@[simp] theorem passStop_since (j : Nat) (s : State) (hs : Since κ s) : Since κ (passStop j s) := by simp [hs, passStop]

@[simp] theorem nextStepNo_since (j : Nat) (s : State) : Since κ (nextStepNo j s) ↔ Since κ s := by simp [nextStepNo]
@[simp] theorem dropRewards_since (p n : Nat) (s : State) : Since κ (dropRewards p n s) ↔ Since κ s := by simp [dropRewards]
@[simp] theorem commitStep_since (j : Nat) (s : State) (hs : Since κ s) : Since κ (commitStep j s) := by simp [hs, commitStep]

@[simp] theorem sendDigest_since (d : Nat) (s : State) : Since κ (sendDigest d s) ↔ Since κ s := by
  unfold sendDigest
  split
  · exact foldl_since_iff _ _ _ fun s role => by split <;> simp
  · exact foldl_since_iff _ _ _ fun s c => by simp

@[simp] theorem runAgain_since (j : Nat) (fm bm : Bool) (s : State) (hs : Since κ s) : Since κ (runAgain j fm bm s) := by
  have dropped : Since κ (dropWork j (chargeAttempt j s)) := dropWork_since _ _ (by simp [hs])
  simp [runAgain, dropped]

@[simp] theorem giveVerdict_since (j : Nat) (fm bm : Bool) (s : State) : Since κ (giveVerdict j fm bm s) ↔ Since κ s := by
  simp [giveVerdict]

@[simp] theorem ringMismatch_since (j : Nat) (fm bm : Bool) (s : State) (hs : Since κ s) : Since κ (ringMismatch j fm bm s) := by
  simp [hs, ringMismatch]

@[simp] theorem mismatch_since (j : Nat) (fm bm : Bool) (s : State) (hs : Since κ s) : Since κ (mismatch j fm bm s) := by simp [hs, mismatch]

@[simp] theorem compareDigests_since (j : Nat) (s : State) (hs : Since κ s) : Since κ (compareDigests j s) := by
  unfold compareDigests
  split <;> simp [hs]

@[simp] theorem formDigest_since (j : Nat) (s : State) : Since κ (formDigest j s) ↔ Since κ s := by simp [formDigest]

@[simp] theorem reachStepEnd_since (j cycleNs : Nat) (s : State) (hs : Since κ s) : Since κ (reachStepEnd j cycleNs s) := by
  simp [hs, reachStepEnd]

@[simp] theorem waitSwing_since (j : Nat) (s : State) (hs : Since κ s) : Since κ (waitSwing j s) := by simp [hs, waitSwing]

@[simp] theorem releaseStop_since (j : Nat) (st : StopRec) (s : State) (hs : Since κ s) : Since κ (releaseStop j st s) := by
  simp only [releaseStop]
  have waited := stopWaits_since j (st.cycle + (getJob s j).run.slip) (lateEnds (getJob s j).run st.stepEnd (st.cycle + (getJob s j).run.slip)) s hs
  generalize stopWaits j (st.cycle + (getJob s j).run.slip) (lateEnds (getJob s j).run st.stepEnd (st.cycle + (getJob s j).run.slip)) s = w
    at waited ⊢
  generalize st.cycle + (getJob w.1 j).run.slip = cycle
  generalize (getJob w.1 j).run.origin + nsOfCore w.1 cycle = at_
  have reached : Since κ (reachCycle j cycle w.1) := by simp [waited]
  have charged : Since κ (chargeTo j cycle (noteCycle j cycle
      (if st.swing then waitSwing j (reachCycle j cycle w.1) else reachCycle j cycle w.1))) := by
    simp [reached]
  generalize chargeTo j cycle _ = u at charged ⊢
  (repeat' split) <;> simp [waited, charged]

@[simp] theorem execStopRelease_kept (slot : Fin 64) (s : State) (hs : Since κ s) : Kept κ (execStopRelease slot s) := by
  refine kept_run ?_
  dsimp only
  split <;> simp [hs]

@[simp] theorem execDigestTimeout_kept (slot : Fin 64) (s : State) (hs : Since κ s) : Kept κ (execDigestTimeout slot s) := by
  refine kept_run ?_
  dsimp only
  split
  · split
    · exact faultJob_since _ _ (foldl_since _ _ _ (fun s x h => by simp [h]) (by simp [hs]))
    · exact hs
  · exact hs

/-! ### Ticks -/

@[simp] theorem reServe_since (s : State) (r : HbmReq) : Since κ (reServe s r) ↔ Since κ s := by
  unfold reServe
  dsimp only
  (repeat' split) <;> simp

@[simp] theorem countBeat_since (s : State) : Since κ (countBeat s) ↔ Since κ s := by simp [countBeat]

@[simp] theorem lateWait_since (t : Nat) (s : State) (hs : Since κ s) : Since κ (lateWait t s) := by
  unfold lateWait
  dsimp only
  (repeat' split) <;> simp [hs]

@[simp] theorem lateWaits_since (s : State) (hs : Since κ s) : Since κ (lateWaits s) := by simp +contextual [hs, lateWaits]

@[simp] theorem feedSwitch_since (p : Nat) (s : State) : Since κ (feedSwitch p s) ↔ Since κ s := by
  unfold feedSwitch
  split <;> simp

@[simp] theorem execHbmRefresh_kept (s : State) (hs : Since κ s) : Kept κ (execHbmRefresh s) := by
  refine kept_run ?_
  dsimp only
  split <;> simp [hs]

@[simp] theorem finishHbm_since (r : HbmReq) (s : State) : Since κ (finishHbm r s) ↔ Since κ s := by simp [finishHbm]

@[simp] theorem execHbmAccessComplete_kept (req : Nat) (s : State) (hs : Since κ s) : Kept κ (execHbmAccessComplete req s) := by
  refine kept_run ?_
  dsimp only
  split <;> simp [hs]

@[simp] theorem failRemote_since (r : Remote) (reason : Nat) (s : State) (hs : Since κ s) : Since κ (failRemote r reason s) := by
  simp [hs, failRemote]

@[simp] theorem execRemoteAccessTimeout_kept (tag : BitVec 16) (s : State) (hs : Since κ s) :
    Kept κ (execRemoteAccessTimeout tag s) := by
  refine kept_run ?_
  dsimp only
  split <;> simp [hs]

@[simp] theorem decideFault_since (j : Nat) (s : State) (hs : Since κ s) : Since κ (decideFault j s) := by
  unfold decideFault
  split <;> simp [hs]

@[simp] theorem stepVerdict_since (s : State) (hs : Since κ s) : Since κ (stepVerdict s) := by
  unfold stepVerdict
  split <;> simp [hs]

@[simp] theorem sentVerdict_since (s : State) : Since κ (sentVerdict s) ↔ Since κ s := by
  unfold sentVerdict
  split <;> simp

@[simp] theorem sendHeartbeats_since (s : State) : Since κ (sendHeartbeats s) ↔ Since κ s := by simp [sendHeartbeats]

@[simp] theorem modSide_since (n : Side) (f : Neighbour → Neighbour) (s : State) : Since κ (modSide n f s) ↔ Since κ s := by
  unfold modSide
  split <;> simp

/-! ### Keeper -/

@[simp] theorem keeperAccept_since (dst : Nat) (u : List Byte) (s : State) : Since κ (keeperAccept dst u s) ↔ Since κ s := by
  simp [keeperAccept]

@[simp] theorem writeKdst_since (v : Nat) (s : State) : Since κ (writeKdst v s) ↔ Since κ s := by simp [writeKdst]

@[simp] theorem atSwing_since (op : Nat) (act : List Byte → State → State) (s : State) (h : ∀ b s, Since κ s → Since κ (act b s)) (hs : Since κ s) :
    Since κ (atSwing op act s) := by
  unfold atSwing
  split <;> simp [hs, h]

/-- ROUTE changes the route table. -/
@[simp] theorem routeAct_since (b : List Byte) (s : State) (hr : ∀ x, κ.routes x) (hs : Since κ s) : Since κ (routeAct b s) := by
  refine foldl_since _ _ _ (fun s i h => ?_) hs
  obtain ⟨cfg, -, copy, way, fleet, mem, host⟩ := (since_fields κ s).2 h
  exact ⟨cfg, hr _, copy, way, fleet, mem, host⟩

@[simp] theorem roleAct_since (b : List Byte) (s : State) (n : Nat) : Since κ (roleAct b s n) ↔ Since κ s := by simp [roleAct]
/-- RING changes the configuration. -/
@[simp] theorem ringAct_since (b : List Byte) (s : State) (hc : ∀ x, κ.cfg x) : Since κ (ringAct b s) ↔ Since κ s := by
  simp [ringAct, setCfg_since, hc]

/-- POOL changes the configuration. -/
@[simp] theorem poolAct_since (b : List Byte) (s : State) (hc : ∀ x, κ.cfg x) : Since κ (poolAct b s) ↔ Since κ s := by
  simp only [poolAct, ite_since, beginHandover_since, since_mk, since_fields, setCfg_since hc, ite_self]

@[simp] theorem rewardAct_since (b : List Byte) (s : State) : Since κ (rewardAct b s) ↔ Since κ s := by simp [rewardAct]
@[simp] theorem unfenceAct_since (b : List Byte) (s : State) (hs : Since κ s) : Since κ (unfenceAct b s) := by simp [hs, unfenceAct]
@[simp] theorem remapAct_since (b : List Byte) (s : State) : Since κ (remapAct b s) ↔ Since κ s := by simp [remapAct]

@[simp] theorem feedRemap_since (s : State) : Since κ (feedRemap s) ↔ Since κ s := by
  unfold feedRemap
  dsimp only
  (repeat' split) <;> simp

@[simp] theorem checkRestored_since (s : State) : Since κ (checkRestored s) ↔ Since κ s := by simp [checkRestored]

theorem bulkWrite_since (s : State) (a : Nat) (bs : List Byte) (t : State) (hs : Since κ s) (h : bulkWrite s a bs = some t) : Since κ t := by
  unfold bulkWrite at h
  dsimp only at h
  have counted : Since κ { s with flt.remap.bytes := s.flt.remap.bytes + bs.length } := by simp [hs]
  split at h
  · cases h
  · split at h
    · cases h
      exact storeMem_since _ _ _ counted
    · split at h
      · split at h
        · cases h
          exact (foldl_since_iff _ _ _ fun t i => modStream_since _ _ _).2 (by simp [hs])
        · cases h
      · split at h
        · cases h
          exact (modStm_since _ _ _).2 counted
        · cases h

@[simp] theorem execBulkCopy_kept (l : Fin 8) (fr : Frame) (s : State) (hs : Since κ s) : Kept κ (execBulkCopy l fr s) := by
  refine kept_run (routed_since _ _ _ _ _ (fun t ht => ?_) hs)
  split
  · next u hu => exact bulkWrite_since _ _ _ _ ht hu
  · simp [ht]

@[simp] theorem writeRemapCmd_since (v : Nat) (s : State) : Since κ (writeRemapCmd v s) ↔ Since κ s := by simp [writeRemapCmd]
@[simp] theorem scrub_since (lo hi : Nat) (s : State) : Since κ (scrub lo hi s) ↔ Since κ s := by simp [scrub]
@[simp] theorem writeSum0_since (v : Nat) (s : State) : Since κ (writeSum0 v s) ↔ Since κ s := by simp [writeSum0]
@[simp] theorem fltIgnored_since (off : Nat) (s : State) : Since κ (fltIgnored off s) ↔ Since κ s := by simp [fltIgnored]
@[simp] theorem writeEvHead_since (v : Nat) (s : State) : Since κ (writeEvHead v s) ↔ Since κ s := by simp [writeEvHead]

@[simp] theorem writeEvSetup_since (r : RingReg) (v : Nat) (s : State) : Since κ (writeEvSetup r v s) ↔ Since κ s := by
  simp [writeEvSetup]

@[simp] theorem configSummary_since (s : State) : Since κ (configSummary s) ↔ Since κ s := by simp [configSummary]
@[simp] theorem writeEvCtrl_since (v : Nat) (s : State) (hs : Since κ s) : Since κ (writeEvCtrl v s) := by simp [hs, writeEvCtrl]

/-! ### CultureRegs -/

@[simp] theorem setSnStat_since (fn v : Nat) (s : State) : Since κ (setSnStat fn v s) ↔ Since κ s := by simp [setSnStat]

@[simp] theorem requestLease_since (fn v : Nat) (s : State) : Since κ (requestLease fn v s) ↔ Since κ s := by
  unfold requestLease
  dsimp only
  (repeat' split) <;> simp

@[simp] theorem dropLease_since (l : SnapLease) (s : State) : Since κ (dropLease l s) ↔ Since κ s := by simp [dropLease]

@[simp] theorem releaseLease_since (fn v : Nat) (s : State) : Since κ (releaseLease fn v s) ↔ Since κ s := by
  unfold releaseLease
  split <;> simp

@[simp] theorem releaseFn_since (fn : Nat) (s : State) : Since κ (releaseFn fn s) ↔ Since κ s := by simp [releaseFn]

@[simp] theorem execLeaseExpired_kept (id : BitVec 16) (s : State) (hs : Since κ s) : Kept κ (execLeaseExpired id s) := by
  refine kept_runCtl hs ?_
  split <;> simp [hs]

@[simp] theorem writeResume_since (v : Nat) (s : State) : Since κ (writeResume v s) ↔ Since κ s := by simp [writeResume]

@[simp] theorem armResume_since (v : Nat) (s : State) : Since κ (armResume v s) ↔ Since κ s := by
  unfold armResume
  split <;> simp

/-! ### Escapement -/

@[simp] theorem setEsc_since (x : EscState) (s : State) : Since κ (setEsc x s) ↔ Since κ s := by simp [setEsc]
@[simp] theorem acquireFrom_since (n : Nat) (s : State) : Since κ (acquireFrom n s) ↔ Since κ s := by simp [acquireFrom]

@[simp] theorem escPoll_since (s : State) : Since κ (escPoll s) ↔ Since κ s := by
  unfold escPoll
  (repeat' split) <;> simp

@[simp] theorem escStart_since (s : State) : Since κ (escStart s) ↔ Since κ s := by simp [escStart]
@[simp] theorem stepFleet_since (d : Int) (s : State) (hs : Since κ s) : Since κ (stepFleet d s) :=
  later_of hs _ (Nat.le_add_right _ _)

@[simp] theorem lockNow_since (s : State) : Since κ (lockNow s) ↔ Since κ s := by simp [lockNow]

@[simp] theorem parentResult_since (o : Int) (s : State) (hs : Since κ s) : Since κ (parentResult o s) := by
  unfold parentResult
  dsimp only
  (repeat' split) <;> simp [hs]

@[simp] theorem takeResult_since (n : Nat) (o d : Int) (s : State) (hs : Since κ s) : Since κ (takeResult n o d s) := by simp [hs, takeResult]

@[simp] theorem execTimeExchangeResponse_kept (l : Fin 8) (r : TimeRx) (s : State) (hs : Since κ s) :
    Kept κ (execTimeExchangeResponse l r s) := by
  refine kept_runCtl hs (receive_since _ _ _ _ _ (fun t ht => ?_) hs)
  dsimp only
  (repeat' split) <;> simp [ht]

@[simp] theorem execTimeExchangeAbandon_kept (l : Fin 8) (id : BitVec 8) (s : State) (hs : Since κ s) :
    Kept κ (execTimeExchangeAbandon l id s) := by
  refine kept_runCtl hs ?_
  dsimp only
  split <;> simp [hs]

@[simp] theorem steerBy_since (o : Int) (s : State) : Since κ (steerBy o s) ↔ Since κ s := by simp [steerBy]

@[simp] theorem execRateUpdate_kept (s : State) (hs : Since κ s) : Kept κ (execRateUpdate s) := by
  refine kept_run (onEsc_since _ _ (fun s h => onTable_since _ _ _ (fun t ht => ?_) h) hs)
  dsimp only
  (repeat' split) <;> simp [ht]

@[simp] theorem execParentChange_kept (s : State) (hs : Since κ s) : Kept κ (execParentChange s) := by
  refine kept_runCtl hs (onEsc_since _ _ (fun s h => ?_) hs)
  dsimp only
  (repeat' split) <;> simp [h]

@[simp] theorem validEdge_since (s : State) (hs : Since κ s) : Since κ (validEdge s) := by
  unfold validEdge
  dsimp only
  split
  · rw [setEsc_since]
    exact later_of hs _ (Nat.le_of_lt (lt_nextMultiple (by decide) _))
  · simp [hs]

@[simp] theorem execBeatInEdge_kept (s : State) (hs : Since κ s) : Kept κ (execBeatInEdge s) := by
  refine kept_runCtl hs (onEsc_since _ _ (fun s h => ?_) hs)
  dsimp only
  (repeat' split) <;> simp [h]

@[simp] theorem execBeatInLost_kept (s : State) (hs : Since κ s) : Kept κ (execBeatInLost s) := by
  refine kept_runCtl hs (onEsc_since _ _ (fun s h => ?_) hs)
  dsimp only
  split <;> simp [h]

@[simp] theorem execLockTimeout_kept (s : State) (hs : Since κ s) : Kept κ (execLockTimeout s) := by
  refine kept_runCtl hs ?_
  dsimp only
  split <;> simp [hs]

/-! ### ThreadMem -/

@[simp] theorem sendRemote_since (c : TileCtx) (f : TField) (kind arg g : Nat) (keys : List Nat) (into : Option Nat)
    (size : Nat) (payload : List Byte) (s : State) : Since κ (sendRemote c f kind arg g keys into size payload s) ↔ Since κ s := by
  simp [sendRemote]

@[simp] theorem loadLocal_since (c : TileCtx) (cy a n into keysFrom nKeys : Nat) (s : State) (hs : Since κ s) :
    Since κ (loadLocal c cy a n into keysFrom nKeys s) := by
  simp +contextual [hs, loadLocal]

@[simp] theorem storeLocal_since (c : TileCtx) (cy a : Nat) (bs : List Byte) (s : State) (hs : Since κ s) :
    Since κ (storeLocal c cy a bs s) := by
  simp [hs, storeLocal]

/-! ### LinkRx -/

@[simp] theorem ifUp_since (l : Fin 8) (f : State → State) (s : State) (h : ∀ s, Since κ s → Since κ (f s)) (hs : Since κ s) :
    Since κ (ifUp l f s) := by
  simp [ifUp, h, hs]

@[simp] theorem ifBlock_since (x : BlockRx) (f : State → State) (s : State) (h : ∀ s, Since κ s → Since κ (f s)) (hs : Since κ s) :
    Since κ (ifBlock x f s) :=
  ifUp_since _ _ _ (fun t ht => h _ (by simp [ht])) hs

@[simp] theorem beginReplay_since (n : Nat) (s : State) : Since κ (beginReplay n s) ↔ Since κ s := by simp [beginReplay]
@[simp] theorem discardOn_since (n : Nat) (s : State) : Since κ (discardOn n s) ↔ Since κ s := by simp [discardOn]
@[simp] theorem dropColl_since (s : State) : Since κ (dropColl s) ↔ Since κ s := by simp [dropColl]

@[simp] theorem collIn_since (f : Frame) (s : State) (hs : Since κ s) : Since κ (collIn f s) := by
  unfold collIn
  dsimp only
  (repeat' split) <;> simp [hs]

@[simp] theorem refuse_since (f : Frame) (s : State) : Since κ (refuse f s) ↔ Since κ s := by simp [refuse]
@[simp] theorem refuseEcc_since (f : Frame) (a n : Nat) (s : State) : Since κ (refuseEcc f a n s) ↔ Since κ s := by simp [refuseEcc]
@[simp] theorem remoteWriteIn_since (f : Frame) (s : State) (hs : Since κ s) : Since κ (remoteWriteIn f s) := by simp [hs, remoteWriteIn]
@[simp] theorem remoteReadIn_since (f : Frame) (s : State) : Since κ (remoteReadIn f s) ↔ Since κ s := by simp [remoteReadIn]

@[simp] theorem responseIn_since (f : Frame) (s : State) (hs : Since κ s) : Since κ (responseIn f s) := by
  unfold responseIn
  (repeat' split) <;> simp +contextual [hs]

@[simp] theorem execRemoteRefusal_kept (l : Fin 8) (fr : Frame) (s : State) (hs : Since κ s) : Kept κ (execRemoteRefusal l fr s) := by
  refine kept_run (routed_since _ _ _ _ _ (fun t ht => ?_) hs)
  split <;> simp [ht]

@[simp] theorem takeBeat_since (n : Side) (src arg : Nat) (s : State) : Since κ (takeBeat n src arg s) ↔ Since κ s := by
  simp [takeBeat]

@[simp] theorem execRoutingDigest_kept (l : Fin 8) (fr : Frame) (s : State) (hs : Since κ s) : Kept κ (execRoutingDigest l fr s) := by
  refine kept_runCtl hs (receive_since _ _ _ _ _ (fun t ht => ?_) hs)
  split <;> simp [ht]

/-! ### LinkTx -/

@[simp] theorem chargeLink_since (t : TxFrame) (s : State) : Since κ (chargeLink t s) ↔ Since κ s := by
  unfold chargeLink
  split <;> simp

@[simp] theorem noteSent_since (n : Nat) (t : TxFrame) (s : State) : Since κ (noteSent n t s) ↔ Since κ s := by simp [noteSent]

@[simp] theorem transmit_since (n : Nat) (t : TxFrame) (s : State) : Since κ (transmit n t s) ↔ Since κ s := by
  unfold transmit
  split <;> simp

@[simp] theorem holdS_since (n : Nat) (s : State) : Since κ (holdS n s) ↔ Since κ s := by
  unfold holdS
  split <;> simp

theorem takeS_since {n : Nat} {s t : State} (h : takeS n s = some t) : Since κ t ↔ Since κ s := by
  simp only [takeS] at h
  split at h
  · cases h
  · split at h
    · cases h
    · split at h <;> cases h
      simp

theorem takeU_since {n : Nat} {s t : State} (h : takeU n s = some t) : Since κ t ↔ Since κ s := by
  simp only [takeU] at h
  split at h
  · cases h
  · split at h <;> cases h
    simp

@[simp] theorem holdU_since (n : Nat) (s : State) : Since κ (holdU n s) ↔ Since κ s := by
  unfold holdU
  dsimp only
  (repeat' split) <;> simp

theorem takeB_since {n : Nat} {s t : State} (h : takeB n s = some t) : Since κ t ↔ Since κ s := by
  simp only [takeB] at h
  split at h
  · cases h
  · split at h <;> cases h
    simp

@[simp] theorem sendBlock_since (n : Nat) (s : State) : Since κ (sendBlock n s) ↔ Since κ s := by simp [sendBlock]
@[simp] theorem feedB_since (n : Nat) (s : State) : Since κ (feedB n s) ↔ Since κ s := by simp [feedB]

@[simp] theorem sendRest_since (n : Nat) (s : State) : Since κ (sendRest n s) ↔ Since κ s := by
  simp only [sendRest]
  split
  · simp
  · split
    · next h => rw [takeB_since h, feedB_since]
    · simp

@[simp] theorem sendNext_since (n : Nat) (s : State) : Since κ (sendNext n s) ↔ Since κ s := by
  simp only [sendNext]
  split
  · simp
  · split
    · simp
    · split
      · next h => exact takeU_since h
      · split
        · next h => rw [takeS_since h, holdU_since]
        · simp

@[simp] theorem lastU_since (n : Nat) (s : State) : Since κ (lastU n s) ↔ Since κ s := by
  unfold lastU
  dsimp only
  (repeat' split) <;> simp

@[simp] theorem execErrorWindow_kept (l : Fin 8) (s : State) (hs : Since κ s) : Kept κ (execErrorWindow l s) :=
  kept_runCtl hs (by simp [hs])

@[simp] theorem exchange_since (n : Nat) (p : LinkParams) (s : State) : Since κ (exchange n p s) ↔ Since κ s := by simp [exchange]
@[simp] theorem moveTo_since (m n : Nat) (s : State) : Since κ (moveTo m n s) ↔ Since κ s := by simp [moveTo]
@[simp] theorem drainTo_since (n : Nat) (s : State) : Since κ (drainTo n s) ↔ Since κ s := by simp [drainTo]

@[simp] theorem meetPartner_since (n : Nat) (p : LinkParams) (s : State) (hs : Since κ s) : Since κ (meetPartner n p s) := by
  simp [hs, meetPartner]

@[simp] theorem writeLkCmd_since (n v : Nat) (s : State) : Since κ (writeLkCmd n v s) ↔ Since κ s := by simp [writeLkCmd]
@[simp] theorem writeMirCmd_since (v : Nat) (s : State) : Since κ (writeMirCmd v s) ↔ Since κ s := by simp [writeMirCmd]

/-! ### Regulator -/

@[simp] theorem endShortfall_since (s : State) : Since κ (endShortfall s) ↔ Since κ s := by
  unfold endShortfall
  split <;> simp

@[simp] theorem beginShed_since (s : State) : Since κ (beginShed s) ↔ Since κ s := by simp [beginShed]
@[simp] theorem takeDraw_since (cal : Nat) (s : State) : Since κ (takeDraw cal s) ↔ Since κ s := by simp [takeDraw]
@[simp] theorem endShed_since (s : State) : Since κ (endShed s) ↔ Since κ s := by simp [endShed]
@[simp] theorem updateShed_since (s : State) : Since κ (updateShed s) ↔ Since κ s := by simp [updateShed]
@[simp] theorem spendChange_since (old new : Nat) (s : State) : Since κ (spendChange old new s) ↔ Since κ s := by simp [spendChange]
@[simp] theorem setOutputs_since (x : Sample) (s : State) : Since κ (setOutputs x s) ↔ Since κ s := by simp [setOutputs]

@[simp] theorem checkShortfall_since (x : Sample) (s : State) : Since κ (checkShortfall x s) ↔ Since κ s := by
  unfold checkShortfall
  split <;> simp

@[simp] theorem askFor_since (w : Nat) (s : State) : Since κ (askFor w s) ↔ Since κ s := by simp [askFor]
@[simp] theorem controlLaw_since (x : Sample) (s : State) : Since κ (controlLaw x s) ↔ Since κ s := by simp [controlLaw]

@[simp] theorem shareEnergy_since (nj total : Nat) (s : State) (x : Nat × Nat) : Since κ (shareEnergy nj total s x) ↔ Since κ s := by
  unfold shareEnergy
  split <;> simp

@[simp] theorem chargeEnergy_since (x : Sample) (s : State) : Since κ (chargeEnergy x s) ↔ Since κ s := by simp [chargeEnergy]
@[simp] theorem takeLoads_since (k : Nat) (s : State) : Since κ (takeLoads k s) ↔ Since κ s := by simp [takeLoads]
/-- Fleet time starts anew. -/
theorem forgetTime_since {s : State} (hz : κ.fleet = 0) (hs : Since κ s) : Since κ (forgetTime s) := by
  obtain ⟨cfg, routes, copy, way, -, mem, host⟩ := (since_fields κ s).2 hs
  exact ⟨cfg, routes, copy, way, Nat.le_of_eq hz, mem, host⟩

theorem enterDormant_since {s : State} (hz : κ.fleet = 0) (hs : Since κ s) : Since κ (enterDormant s) := by
  have forgotten := forgetTime_since hz ((takeLoads_since 12 s).2 hs)
  obtain ⟨cfg, routes, copy, -, fleet, mem, host⟩ := (since_fields κ _).2 forgotten
  exact ⟨cfg, routes, copy, fun _ => rfl, fleet, mem, host⟩

theorem descend_since (x : Sample) {s : State} (hz : κ.fleet = 0) (hs : Since κ s) : Since κ (descend x s) := by
  unfold descend
  split
  · simp [hs]
  · dsimp only
    split
    · exact enterDormant_since hz (by simp [hs])
    · simp [hs]

@[simp] theorem noteDuty_since (s : State) : Since κ (noteDuty s) ↔ Since κ s := by simp [noteDuty]
@[simp] theorem firstTarget_since (x : Sample) (s : State) : Since κ (firstTarget x s) ↔ Since κ s := by simp [firstTarget]
@[simp] theorem writeShedReq_since (b : Bool) (s : State) (hs : Since κ s) : Since κ (writeShedReq b s) := by simp [hs, writeShedReq]

@[simp] theorem execSensorConversion_kept (temps : List (BitVec 16)) (s : State) (hs : Since κ s) :
    Kept κ (execSensorConversion temps s) := by
  refine kept_runCtl hs ?_
  dsimp only
  split <;> simp [hs]

@[simp] theorem execThermalHoldEnd_kept (s : State) (hs : Since κ s) : Kept κ (execThermalHoldEnd s) := by
  refine kept_runCtl hs ?_
  dsimp only
  split <;> simp [hs]

@[simp] theorem writeCap_since (v : Nat) (s : State) (hs : Since κ s) : Since κ (writeCap v s) := by simp [hs, writeCap]

@[simp] theorem execStartInstant_kept (s : State) (hs : Since κ s) : Kept κ (execStartInstant s) := by
  refine kept_runCtl hs ?_
  dsimp only
  split <;> simp [hs]

@[simp] theorem pmbFail_since (s : State) : Since κ (pmbFail s) ↔ Since κ s := by simp [pmbFail]

@[simp] theorem slotA_since (a : PmbAnswer) (s : State) : Since κ (slotA a s) ↔ Since κ s := by
  unfold slotA
  split <;> simp

@[simp] theorem rotate_since (w : BitVec 16) (s : State) : Since κ (rotate w s) ↔ Since κ s := by simp [rotate]

@[simp] theorem slotB_since (a : PmbAnswer) (s : State) : Since κ (slotB a s) ↔ Since κ s := by
  unfold slotB
  split <;> simp

@[simp] theorem slotEnd_since (b : Bool) (a : PmbAnswer) (s : State) (hs : Since κ s) : Since κ (slotEnd b a s) := by simp [hs, slotEnd]

/-! ### Uart -/

@[simp] theorem uartIgnored_since (off : Nat) (p : Port) (s : State) : Since κ (uartIgnored off p s) ↔ Since κ s := by
  simp [uartIgnored]

@[simp] theorem byOwner_since (off : Nat) (p : Port) (f : State → State) (s : State) (h : ∀ s, Since κ s → Since κ (f s)) (hs : Since κ s) :
    Since κ (byOwner off p f s) := by
  simp [byOwner, h, hs]

@[simp] theorem takeFormat_since (s : State) : Since κ (takeFormat s) ↔ Since κ s := by simp [takeFormat]
@[simp] theorem crownFeed_since (s : State) : Since κ (crownFeed s) ↔ Since κ s := by simp [crownFeed]

@[simp] theorem txNext_since (s : State) : Since κ (txNext s) ↔ Since κ s := by
  unfold txNext
  dsimp only
  (repeat' split) <;> simp

@[simp] theorem pump_since (s : State) : Since κ (pump s) ↔ Since κ s := by simp [pump]
@[simp] theorem endReport_since (s : State) : Since κ (endReport s) ↔ Since κ s := by simp [endReport]
@[simp] theorem crownSay_since (bs : List Byte) (s : State) : Since κ (crownSay bs s) ↔ Since κ s := by simp [crownSay]
@[simp] theorem reply_since (bs : List Byte) (s : State) : Since κ (reply bs s) ↔ Since κ s := by simp [reply]
@[simp] theorem consoleChar_since (e : RxEntry) (s : State) : Since κ (consoleChar e s) ↔ Since κ s := by simp [consoleChar]
@[simp] theorem popRx_since (s : State) : Since κ (popRx s) ↔ Since κ s := by simp [popRx]

@[simp] theorem execUartDataRead_kept (port : Port) (s : State) (hs : Since κ s) : Kept κ (execUartDataRead port s) := by
  refine kept_runCtl hs ?_
  dsimp only
  (repeat' split) <;> simp [hs]

@[simp] theorem pushTx_since (v : Nat) (s : State) : Since κ (pushTx v s) ↔ Since κ s := by simp [pushTx]

@[simp] theorem writeFormat_since (r : UartReg) (v : Nat) (s : State) : Since κ (writeFormat r v s) ↔ Since κ s := by
  unfold writeFormat
  split <;> simp

@[simp] theorem askBreak_since (v : Nat) (s : State) : Since κ (askBreak v s) ↔ Since κ s := by simp [askBreak]
@[simp] theorem loseRx_since (s : State) : Since κ (loseRx s) ↔ Since κ s := by simp [loseRx]
@[simp] theorem pushRx_since (e : RxEntry) (s : State) : Since κ (pushRx e s) ↔ Since κ s := by simp [pushRx]
@[simp] theorem takeBreak_since (s : State) : Since κ (takeBreak s) ↔ Since κ s := by simp [takeBreak]
@[simp] theorem attention_since (len : Nat) (s : State) : Since κ (attention len s) ↔ Since κ s := by simp [attention]

/-! ### RegWrite -/

@[simp] theorem writeJob_since (j o : Nat) (w : Wr) (s : State) (hs : Since κ s) : Since κ (writeJob j o w s) := by simp [hs, writeJob]
@[simp] theorem writeStmCtrl_since (p v : Nat) (s : State) (hs : Since κ s) : Since κ (writeStmCtrl p v s) := by simp [hs, writeStmCtrl]
@[simp] theorem writeStm_since (p o : Nat) (w : Wr) (s : State) (hs : Since κ s) : Since κ (writeStm p o w s) := by simp [hs, writeStm]
@[simp] theorem writeCul_since (fn o : Nat) (w : Wr) (s : State) : Since κ (writeCul fn o w s) ↔ Since κ s := by simp [writeCul]
@[simp] theorem writeFlt_since (o : Nat) (w : Wr) (s : State) (hs : Since κ s) : Since κ (writeFlt o w s) := by simp [hs, writeFlt]
@[simp] theorem uartAct_since (o v : Nat) (s : State) : Since κ (uartAct o v s) ↔ Since κ s := by simp [uartAct]

@[simp] theorem writeUart_since (p : Option Port) (o : Nat) (w : Wr) (s : State) (hs : Since κ s) : Since κ (writeUart p o w s) := by
  unfold writeUart
  dsimp only
  split
  · exact hs
  · split
    · exact byOwner_since _ _ _ _ (fun t ht => by simp [ht]) hs
    · simp [hs]

@[simp] theorem writeLk_since (p : Option Port) (n o : Nat) (w : Wr) (s : State) : Since κ (writeLk p n o w s) ↔ Since κ s := by
  simp [writeLk]

@[simp] theorem writeAcct_since (a o : Nat) (w : Wr) (s : State) : Since κ (writeAcct a o w s) ↔ Since κ s := by simp [writeAcct]

@[simp] theorem writeSlot_since (p : Option Port) (off : Nat) (w : Wr) (s : State) (hs : Since κ s) : Since κ (writeSlot p off w s) := by
  simp [hs, writeSlot]

@[simp] theorem writeVf_since (p off : Nat) (w : Wr) (s : State) (hs : Since κ s) : Since κ (writeVf p off w s) := by simp [hs, writeVf]

@[simp] theorem writeReg_since (p : Port) (off : Nat) (wide : Bool) (v : Nat) (s : State) (hs : Since κ s) :
    Since κ (writeReg p off wide v s) := by
  unfold writeReg
  split <;> simp [hs]

@[simp] theorem unsupported_since (req off len : Nat) (write : Bool) (s : State) :
    Since κ (unsupported req off len write s) ↔ Since κ s := by
  simp [unsupported]

@[simp] theorem debugRefused_since (req a n : Nat) (s : State) : Since κ (debugRefused req a n s) ↔ Since κ s := by
  simp [debugRefused]

@[simp] theorem healBar2_since (a n : Nat) (s : State) : Since κ (healBar2 a n s) ↔ Since κ s := by simp [healBar2]

@[simp] theorem bar2Store_since (req a : Nat) (bs : List Byte) (s : State) (hs : Since κ s) : Since κ (bar2Store req a bs s) := by
  simp only [bar2Store]
  split
  · simp [hs]
  · have noted (ls : List Nat) : Since κ (ls.foldl (fun t l => eccEvent 1 (64 * l) 5 t) (debugRefused req a bs.length s)) :=
      foldl_since _ _ _ (fun t l h => by simp [h]) (by simp [hs])
    exact foldl_since _ _ _ (fun t x h => by simp [h]) (by simp [noted])

@[simp] theorem hostRead_since (off : Nat) (wide : Bool) (s : State) : Since κ (hostRead off wide s).2 ↔ Since κ s := by
  simp [hostRead]

@[simp] theorem completeRead_since (c : Completion) (s : State) : Since κ (completeRead c s) ↔ Since κ s := by simp [completeRead]

@[simp] theorem bar2Load_since (req a n : Nat) (s : State) : Since κ (bar2Load req a n s) ↔ Since κ s := by
  unfold bar2Load
  (repeat' split) <;> simp

@[simp] theorem execBar2Write_kept (req : BitVec 16) (addr : BitVec 36) (data : List Byte) (s : State) (hs : Since κ s) :
    Kept κ (execBar2Write req addr data s) := by
  have served : Since κ (serveAll s) := by simp [hs]
  refine kept_run ?_
  dsimp only
  (repeat' split) <;> simp [hs, served]

/-! ### Ports -/

@[simp] theorem onSmb_since (f : State → State) (s : State) (h : ∀ s, Since κ s → Since κ (f s)) (hs : Since κ s) : Since κ (onSmb f s) := by
  simp [hs, onSmb, h]

@[simp] theorem smbReply_since (bs : List Byte) (s : State) : Since κ (smbReply bs s) ↔ Since κ s := by simp [smbReply]

@[simp] theorem smbDiscard_since (code : Nat) (bad : Bool) (s : State) : Since κ (smbDiscard code bad s) ↔ Since κ s := by
  simp [smbDiscard]

@[simp] theorem smbWrite_since (code : Nat) (bs : List Byte) (pec : Option (BitVec 8)) (act : State → State) (s : State)
    (h : ∀ s, Since κ s → Since κ (act s)) (hs : Since κ s) : Since κ (smbWrite code bs pec act s) := by
  unfold smbWrite
  split <;> simp [hs, h]

@[simp] theorem execSmbusTimeout_kept (code : Option (BitVec 8)) (s : State) (hs : Since κ s) : Kept κ (execSmbusTimeout code s) := by
  refine kept_run ?_
  dsimp only
  exact onSmb_since _ _ (fun _ h => by simp [h]) hs

@[simp] theorem execSmbusOffsetWrite_kept (data : BitVec 32) (pec : Option (BitVec 8)) (s : State) (hs : Since κ s) :
    Kept κ (execSmbusOffsetWrite data pec s) :=
  kept_run (onSmb_since _ _ (fun _ h => smbWrite_since _ _ _ _ _ (fun _ h => by simp [h]) h) hs)

@[simp] theorem dropLinks_since (s : State) : Since κ (dropLinks s) ↔ Since κ s := by simp [dropLinks]
@[simp] theorem dropPcie_since (s : State) : Since κ (dropPcie s) ↔ Since κ s := by simp [dropPcie]
@[simp] theorem trainPcie_since (s : State) : Since κ (trainPcie s) ↔ Since κ s := by simp [trainPcie]
@[simp] theorem setIr_since (i : TapInstr) (s : State) : Since κ (setIr i s) ↔ Since κ s := by simp [setIr]

@[simp] theorem driveCells_since (i : TapInstr) (cells : List Bool) (s : State) : Since κ (driveCells i cells s) ↔ Since κ s := by
  simp [driveCells]

@[simp] theorem execOtpProg_kept (off : BitVec 9) (b : BitVec 8) (s : State) (hs : Since κ s) : Kept κ (execOtpProg off b s) := by
  refine kept_runCtl hs ?_
  dsimp only
  split <;> simp [hs]

@[simp] theorem debugAccess_since (write : Bool) (a v : Nat) (s : State) (hs : Since κ s) : Since κ (debugAccess write a v s) := by
  simp only [debugAccess]
  split
  · simp [hs]
  · split
    · split
      · simp [hs]
      · simp [hs]
    · split
      · exact unheld_since _ _ (fun t ht => by simp [ht]) hs
      · simp [hs]

/-! ### Boot -/

/-- A reset starts fleet time, the configuration and the routes anew. -/
theorem coldReset_since {s : State} (hc : ∀ x, κ.cfg x) (hr : ∀ x, κ.routes x) (hz : κ.fleet = 0) (hs : Since κ s) : Since κ (coldReset s) := by
  obtain ⟨-, -, -, -, -, -, host⟩ := (since_fields κ s).2 hs
  exact ⟨hc _, hr _, fun _ => rfl, fun _ => rfl, Nat.le_of_eq hz, fun _ => rfl, host⟩

/-- Loading copies the OTP. -/
theorem beginLoading_since {s : State} (ho : κ.canon = true → Memory.wf s.otp = true) (hs : Since κ s) : Since κ (beginLoading s) := by
  obtain ⟨cfg, routes, -, way, fleet, mem, host⟩ := (since_fields κ s).2 hs
  exact ⟨cfg, routes, ho, way, fleet, mem, host⟩

@[simp] theorem giveViews_since (s : State) : Since κ (giveViews s) ↔ Since κ s := by simp [giveViews]
@[simp] theorem giveRoles_since (s : State) : Since κ (giveRoles s) ↔ Since κ s := foldl_since_iff _ _ _ fun _ _ => by simp
@[simp] theorem startLinks_since (s : State) : Since κ (startLinks s) ↔ Since κ s := by simp [startLinks]
@[simp] theorem trainLinks_since (s : State) : Since κ (trainLinks s) ↔ Since κ s := by simp [trainLinks]
@[simp] theorem startRegulator_since (s : State) : Since κ (startRegulator s) ↔ Since κ s := by simp [startRegulator]
@[simp] theorem limitPcie_since (s : State) : Since κ (limitPcie s) ↔ Since κ s := by simp [limitPcie]
@[simp] theorem readVoutMode_since (m : BitVec 8) (s : State) : Since κ (readVoutMode m s) ↔ Since κ s := by simp [readVoutMode]
@[simp] theorem writeReport_since (x : Loaded) (s : State) : Since κ (writeReport x s) ↔ Since κ s := by simp [writeReport]
@[simp] theorem startPlanes_since (s : State) : Since κ (startPlanes s) ↔ Since κ s := by simp [startPlanes]
/-- The handover installs the configuration and the routes. -/
theorem handOver_since (x : Loaded) {s : State} (hc : ∀ x, κ.cfg x) (hr : ∀ x, κ.routes x) (hs : Since κ s) : Since κ (handOver x s) := by
  obtain ⟨-, -, copy, way, fleet, mem, host⟩ := (since_fields κ s).2 hs
  exact ⟨hc _, hr _, copy, way, fleet, mem, host⟩

@[simp] theorem modStack_since (i : Nat) (f : Stack → Stack) (s : State) : Since κ (modStack i f s) ↔ Since κ s := by simp [modStack]
@[simp] theorem zeroStack_since (i : Nat) (s : State) (hs : Since κ s) : Since κ (zeroStack i s) := by simp [zeroStack, hs]

@[simp] theorem execHbmInitComplete_kept (stack : Fin 2) (failed : Option (BitVec 8)) (s : State) (hs : Since κ s) :
    Kept κ (execHbmInitComplete stack failed s) := by
  refine kept_run ?_
  dsimp only
  (repeat' split) <;> simp [hs]

@[simp] theorem startWake_since (s : State) : Since κ (startWake s) ↔ Since κ s := by simp [startWake]
@[simp] theorem flr_since (fn : Nat) (s : State) (hs : Since κ s) : Since κ (flr fn s) := by simp [hs, flr]

@[simp] theorem execDormantExit_kept (s : State) (hs : Since κ s) : Kept κ (execDormantExit s) := by
  refine kept_run ?_
  dsimp only
  split <;> simp [hs]

@[simp] theorem heatStack_since (i : Nat) (t : BitVec 16) (s : State) : Since κ (heatStack i t s) ↔ Since κ s := by simp [heatStack]

/-! ### What a command does -/

/-- What a reset needs: it starts the configuration, the routes and fleet time anew. -/
def Holding.Resets (κ : Holding) : Prop := (∀ x, κ.cfg x) ∧ (∀ x, κ.routes x) ∧ κ.fleet = 0

/-- What a command needs to keep a holding: the commands that install the configuration or the routes, reset, copy the OTP, or lead to
Dormant need something, and the others nothing. -/
def Holding.Allows (κ : Holding) (s : State) : Instr → Prop
  | .ringSet | .poolSet => ∀ x, κ.cfg x
  | .routeSet => ∀ x, κ.routes x
  | .handover _ _ => (∀ x, κ.cfg x) ∧ ∀ x, κ.routes x
  | .porRelease _ _ _ => κ.canon = true → Memory.wf s.otp = true
  | .porAssert | .vddAonFall => κ.Resets
  | .managementResetAssert => κ.Resets ∧ (κ.canon = true → Memory.wf s.otp = true)
  | .perstNAssert => κ.awake = false
  | .estimatorSample _ => κ.awake = true ∨ κ.fleet = 0
  | _ => True

section
variable {s : State} (hs : Since κ s)
include hs

theorem execRingSet_kept (hc : ∀ x, κ.cfg x) : Kept κ (execRingSet s) :=
  kept_runCtl hs (atSwing_since _ _ _ (fun _ _ h => (ringAct_since _ _ hc).2 h) hs)

theorem execPoolSet_kept (hc : ∀ x, κ.cfg x) : Kept κ (execPoolSet s) :=
  kept_runCtl hs (atSwing_since _ _ _ (fun _ _ h => (poolAct_since _ _ hc).2 h) hs)

theorem execRouteSet_kept (hr : ∀ x, κ.routes x) : Kept κ (execRouteSet s) :=
  kept_runCtl hs (atSwing_since _ _ _ (fun _ _ h => routeAct_since _ _ hr h) hs)

theorem execHandover_kept (flash : Flash) (m : BitVec 8) (hc : ∀ x, κ.cfg x) (hr : ∀ x, κ.routes x) :
    Kept κ (execHandover flash m s) := by
  refine kept_run ?_
  dsimp only
  split
  · simp [handOver_since _ hc hr hs]
  · exact hs

theorem execPorRelease_kept (a : Bool) (b : BitVec 2) (c : Bool) (ho : κ.canon = true → Memory.wf s.otp = true) :
    Kept κ (execPorRelease a b c s) := by
  refine kept_run ?_
  dsimp only
  split
  · exact beginLoading_since ho (by simp [hs])
  · exact hs

theorem execPorAssert_kept (h : κ.Resets) : Kept κ (execPorAssert s) := by
  obtain ⟨hc, hr, hz⟩ := h
  exact kept_run (coldReset_since hc hr hz (by simp [hs]))

theorem execVddAonFall_kept (h : κ.Resets) : Kept κ (execVddAonFall s) := by
  obtain ⟨hc, hr, hz⟩ := h
  have reset : Since κ (coldReset { s with pwr.vddAon := false }) := coldReset_since hc hr hz (by simp [hs])
  generalize e : coldReset { s with pwr.vddAon := false } = t at reset
  exact kept_run (by simp [e, reset])

theorem execManagementResetAssert_kept (h : κ.Resets) (ho : κ.canon = true → Memory.wf s.otp = true) :
    Kept κ (execManagementResetAssert s) := by
  obtain ⟨hc, hr, hz⟩ := h
  refine kept_run ?_
  dsimp only
  split
  · next d _ =>
    have reset : Since κ (coldReset (advanceTo d s)) := coldReset_since hc hr hz (advanceTo_since hs d)
    have copied := beginLoading_since (by simpa using ho) reset
    simp [copied]
  · exact hs

theorem execPerstNAssert_kept (hw : κ.awake = false) : Kept κ (execPerstNAssert s) := by
  obtain ⟨cfg, routes, copy, -, fleet, mem, host⟩ := (since_fields κ s).2 hs
  have way (b : Bool) : κ.Of s.cfg s.routes s.pwr.otpCopy b s.clk.fleet s.mem s.hostMem :=
    ⟨cfg, routes, copy, by simp [hw], fleet, mem, host⟩
  refine kept_run ?_
  dsimp only
  split
  · exact way _
  · split
    · exact way _
    · have reset (fns : List Nat) (t : State) (ht : Since κ t) : Since κ (fns.foldl (fun t f => flr f t) t) :=
        foldl_since _ _ _ (fun _ _ h => flr_since _ _ h) ht
      simp [reset, hs]

theorem execEstimatorSample_kept (x : Sample) (hw : κ.awake = true ∨ κ.fleet = 0) : Kept κ (execEstimatorSample x s) := by
  refine kept_run (onTable_since _ _ _ (fun s hs => ?_) hs)
  dsimp only
  split
  · have charged : Since κ (firstTarget x (chargeEnergy x (takeDraw x.cal (advanceTo (s.rgl.sampleAt + 1000) s)))) := by simp [hs]
    generalize firstTarget x _ = u at charged ⊢
    rw [noteDuty_since]
    split
    · exact charged
    · split
      · next way =>
        refine descend_since x (hw.resolve_left fun awake => ?_) charged
        obtain ⟨-, -, -, awaken, -⟩ := (since_fields κ u).2 charged
        rw [awaken awake] at way
        cases way
      · simp [charged]
  · exact hs

end

/-- A command keeps a holding that it allows. The arms that only compose operations are unfolded to their effect here; the others have
a lemma above. -/
theorem exec_kept (c : Instr) (s : State) (h : κ.Allows s c) (hs : Since κ s) : Kept κ (exec c s) := by
  cases c
  case ringSet => exact execRingSet_kept hs h
  case poolSet => exact execPoolSet_kept hs h
  case routeSet => exact execRouteSet_kept hs h
  case handover flash m => exact execHandover_kept hs flash m h.1 h.2
  case porRelease a b c => exact execPorRelease_kept hs a b c h
  case porAssert => exact execPorAssert_kept hs h
  case vddAonFall => exact execVddAonFall_kept hs h
  case managementResetAssert => exact execManagementResetAssert_kept hs h.1 h.2
  case perstNAssert => exact execPerstNAssert_kept hs h
  case estimatorSample x => exact execEstimatorSample_kept hs x h
  case nop | tend | tbr | loop | idle | csync | rdv | ffence | spec | mov | vbc | vins | vext | movi | ld | st | mld | mst |
      mma | valu | vcvt | vact | vcmp | vperm | vred | vscan | salu | sel | dsp | grw | cmb | cul | ldx =>
    exact kept_run (issue_since _ _ _ _ _ (fun _ _ _ h => by simp [h]) hs)
  case selectorComplete | separatorComplete | groupWalkerComplete | cultureComplete =>
    exact kept_run (completeOp_since _ _ _ (fun _ _ h => by simp [h]) hs)
  case loaderDescriptorComplete | loaderReject => exact kept_run (completeLoad_since _ _ _ _ (fun _ _ _ h => by simp [h]) hs)
  case request | grant | returnCredits | announce | report | beacon =>
    exact kept_runCtl hs (receive_since _ _ _ _ _ (fun _ h => rampIn_since _ _ _ _ (fun _ _ _ _ _ h => by simp [h]) h) hs)
  case collectiveData | remoteWrite | remoteReadRequest | remoteReadResponse | heartbeat | fenceNotice =>
    exact kept_run (routed_since _ _ _ _ _ (fun _ h => by simp [h]) hs)
  case fenceChip => exact kept_run (atSwing_since _ _ _ (fun _ _ h => by simp [h]) hs)
  case unfenceChip => exact kept_runCtl hs (atSwing_since _ _ _ (fun _ _ h => by simp [h]) hs)
  case churnComplete => exact kept_run (by have done := completeOp_since 2 cmbDone s (fun _ _ h => cmbDone_since _ _ h) hs; simp [done, hs])
  case holdoverEntry | rootFreeTimeout => exact kept_runCtl hs (onEsc_since _ _ (fun _ h => by simp [h]) hs)
  case beatTick => exact kept_run (onEsc_since _ _ (fun _ h => by simp [h]) hs)
  case swingTick => exact kept_run (onEsc_since _ _ (fun _ h => onTable_since _ _ _ (fun _ h => by simp [h]) h) hs)
  case smbusShedWrite =>
    exact kept_run (onSmb_since _ _ (fun _ h => smbWrite_since _ _ _ _ _ (fun _ h => by simp [h]) h) hs)
  case replayTimeout => exact kept_runCtl hs (ifUp_since _ _ _ (fun _ h => by simp [h]) hs)
  case collectiveFailed => exact kept_run (by simp [hs])
  all_goals
    clear h
    simp [hs, exec,
      execBeaconSend, execPoolFreezeEnd, execInstall, execStart, execPreempt, execRemove, execRestart, execDoorbell,
      execSubmissionRead, execOpenStream, execAppendTokens, execPauseStream, execResumeStream, execCancelStream,
      execRewardStream, execNopCommand, execStmCqhead, execSubmissionRingSetup, execCompletionRingSetup, execPartitionReset,
      execHeartbeatSuspect, execHeartbeatFailed, execKeeperMessage, execKeeperSend, execKeeperReward, execRemapSlice,
      execRestoreDoneNotice, execLoaded, execScrubPass, execVatScrub, execFaultClear, execEventRingHead, execEventRingSetup,
      execEventRingEnable, execCulSnreq, execCulSnrel, execCulResumestep, execTimeExchangeStart, execTimeExchangeRequest,
      execAck, execNak, execAlignmentMarker, execRetrainRequest, execReservedControlBlock, execUncorrectableCodeword,
      execFrameCrcFailure, execFrameDiscard, execFrameBoundary, execErrorLimit, execTrainingComplete, execTrainingFailed,
      execFastRetrainComplete, execFastRetrainTimeout, execFailedRetry, execLossOfSignal, execLossOfBlockLock,
      execFastRetrain, execFullTraining, execMirrorCheck, execPwrShedNFall, execPwrShedNRise, execShedRequest, execCapWrite,
      execRampSyncRise, execPmbusSlot, execUartDataWrite, execUartStatRead, execAttnClear, execUartFormatWrite,
      execUartBrktx, execBreakTxEnd, execCharacterSent, execCharacterReceived, execBreakDetect, execBreakEnd,
      execManagementReset, execRegisterWrite, execConsoleRead, execConsoleWrite, execConsoleStatus, execConsoleReport,
      execBar0UnsupportedAccess, execBar2Read, execSmbusSerial, execSmbusStatus, execSmbusTelemetry, execSmbusFaultSummary,
      execSmbusShedRead, execSmbusRegisterRead, execSmbusUnknownCommand, execAlertResponse, execTapReset, execExtest,
      execIdcode, execSamplePreload, execClamp, execHighz, execExtestPulse, execExtestTrain, execDebug, execBypass,
      execEnterRunning, execPerstNRelease, execPmeTurnOff, execD3hot, execFlr, execPcieLinkUp, execWake, execThermtrip,
      execRefclkLoss, execHbmTemperatureRead, execVddAonRise]

end Sys2Proof.Machine
end

section
/-! PROOFS. The configuration and the routes (R24, R329), the canonical form of the memories, fleet time (R299, R300), and the step. -/

namespace Sys2Proof.Machine

/-! ### The configuration and the routes (R24, R329) -/

/-- Settles O56, by the holding that the configuration, and the one that the routes, are what they were: `exec_kept` asks more only of
the commands that the statement names. -/
theorem configurationFixed : Obligations.ConfigurationFixed := by
  unfold Obligations.ConfigurationFixed
  intro c s t hstep boots
  refine ⟨fun hboot hring hpool => ?_, fun hboot hroute => ?_⟩
  · have start : Since ⟨(· = s.cfg), fun _ => True, 0, false, false⟩ s := ⟨rfl, trivial, nofun, nofun, Nat.zero_le _, nofun, nofun⟩
    have allowed : Holding.Allows ⟨(· = s.cfg), fun _ => True, 0, false, false⟩ s c := by
      unfold Holding.Allows
      split <;> simp_all [boots]
    exact (exec_kept c s allowed start t hstep).cfg
  · have start : Since ⟨fun _ => True, (· = s.routes), 0, false, false⟩ s := ⟨trivial, rfl, nofun, nofun, Nat.zero_le _, nofun, nofun⟩
    have allowed : Holding.Allows ⟨fun _ => True, (· = s.routes), 0, false, false⟩ s c := by
      unfold Holding.Allows
      split <;> simp_all [boots]
    exact (exec_kept c s allowed start t hstep).routes

/-! ### The canonical form of the memories -/

theorem burn_wf {otp : Table Byte} (off : BitVec 9) (b : BitVec 8) (h : Memory.wf otp = true) : Memory.wf (burn otp off b) = true :=
  memPut_wf _ _ _ h

theorem exec_memOk {c : Instr} {s t : State} (hs : MemOk s) (h : exec c s = .next t) : MemOk t := by
  obtain ⟨mem, host, otp, copy⟩ := hs
  have start : Since ⟨fun _ => True, fun _ => True, 0, true, false⟩ s :=
    ⟨trivial, trivial, fun _ => copy, nofun, Nat.zero_le _, fun _ => mem, fun _ => host⟩
  have allowed : Holding.Allows ⟨fun _ => True, fun _ => True, 0, true, false⟩ s c := by
    unfold Holding.Allows
    split <;> simp [Holding.Resets, otp]
  have kept := exec_kept c s allowed start t h
  refine ⟨kept.mem rfl, kept.hostMem rfl, ?_, kept.copy rfl⟩
  rcases exec_otp c s t h with e | ⟨off, b, -, -, e⟩ <;> rw [e]
  · exact otp
  · exact burn_wf off b otp

theorem escCycle_memOk {s : State} (hs : MemOk s) : MemOk (escCycle s) := by
  unfold escCycle
  dsimp only
  split <;> exact hs

/-- Settles O55, by the holding that the memories are canonical, which every command keeps. -/
theorem memoryCanonical : Obligations.MemoryCanonical := by
  unfold Obligations.MemoryCanonical
  intro s t hs h
  unfold step at h
  split at h
  · exact exec_memOk (by exact hs) h
  · cases h
    exact escCycle_memOk hs

/-! ### Fleet time (R299, R300) -/

/-- That fleet time has reached an instant, of a device on no way to Dormant where `awake` says so. -/
def timeHolding (n : Nat) (awake : Bool) : Holding := ⟨fun _ => True, fun _ => True, n, false, awake⟩

theorem since_timeHolding (s : State) (awake : Bool) (h : awake = true → s.pwr.entering = false) :
    Since (timeHolding s.clk.fleet awake) s :=
  ⟨trivial, trivial, nofun, h, Nat.le_refl _, nofun, nofun⟩

/-- A device that has just entered Dormant. -/
def JustDormant (s : State) : Prop := s.pwr.state = .dormant ∧ s.clk.fleet = 0

/-- A sample of the descent keeps what is held, but where it ends in Dormant. -/
theorem descend_since_or (x : Sample) {s : State} (hs : Since κ s) : Since κ (descend x s) ∨ JustDormant (descend x s) := by
  unfold descend
  split
  · exact .inl (by simp [hs])
  · dsimp only
    split
    · exact .inr ⟨rfl, rfl⟩
    · exact .inl (by simp [hs])

/-- What an operation does to every state of a holding it does behind a table's check. -/
theorem onTable_of {p : State → Prop} (k : Nat) (f : State → State) {s : State} (h : ∀ u, Since κ u → p (f u)) (hs : Since κ s) :
    p (onTable k f s) := by
  unfold onTable
  split
  · exact h _ (by simp [hs])
  · exact h _ hs

theorem collect_since_or {s : State} (h : Since κ s ∨ JustDormant s) : Since κ (collect s) ∨ JustDormant (collect s) :=
  h.imp collect_since fun d => by simpa [JustDormant] using d

theorem noteDuty_since_or {s : State} (h : Since κ s ∨ JustDormant s) : Since κ (noteDuty s) ∨ JustDormant (noteDuty s) := by
  refine h.imp (noteDuty_since s).2 fun d => ?_
  unfold noteDuty
  split <;> exact d

theorem execEstimatorSample_since_or (x : Sample) {s t : State} (hs : Since κ s) (h : execEstimatorSample x s = .next t) :
    Since κ t ∨ JustDormant t := by
  cases h
  refine collect_since_or (onTable_of (p := fun u => Since κ u ∨ JustDormant u) _ _ (fun u hu => ?_) hs)
  dsimp only
  split
  · have charged : Since κ (firstTarget x (chargeEnergy x (takeDraw x.cal (advanceTo (u.rgl.sampleAt + 1000) u)))) := by simp [hu]
    generalize firstTarget x _ = v at charged ⊢
    refine noteDuty_since_or ?_
    split
    · exact .inl charged
    · split
      · exact descend_since_or x charged
      · exact .inl ((controlLaw_since x v).2 charged)
  · exact .inl hu

/-- Outside a reset and the entry to Dormant, fleet time is at least what it was. -/
theorem exec_fleet (c : Instr) (s t : State) (h : exec c s = .next t)
    (hp : c ≠ .porAssert) (hm : c ≠ .managementResetAssert) (hv : c ≠ .vddAonFall) :
    s.clk.fleet ≤ t.clk.fleet ∨ (s.pwr.entering = true ∧ t.pwr.state = .dormant ∧ t.clk.fleet = 0) := by
  by_cases way : s.pwr.entering = true
  · have start := since_timeHolding s false nofun
    by_cases sample : ∃ x, c = .estimatorSample x
    · obtain ⟨x, rfl⟩ := sample
      exact (execEstimatorSample_since_or x start h).imp (·.fleet) fun d => ⟨way, d⟩
    · have allowed : (timeHolding s.clk.fleet false).Allows s c := by
        unfold Holding.Allows
        split <;> simp_all [timeHolding]
      exact .inl (exec_kept c s allowed start t h).fleet
  · have start := since_timeHolding s true fun _ => by simpa using way
    by_cases low : c = .perstNAssert
    · have start := since_timeHolding s false nofun
      exact .inl (exec_kept c s (by subst low; rfl) start t h).fleet
    · have allowed : (timeHolding s.clk.fleet true).Allows s c := by
        unfold Holding.Allows
        split <;> simp_all [timeHolding]
      exact .inl (exec_kept c s allowed start t h).fleet

theorem escCycle_upNs (s : State) : (escCycle s).upNs = if s.pwr.porN then s.upNs + 1 else s.upNs := by
  unfold escCycle
  dsimp only
  split <;> rfl

/-- An esc cycle touches the two clocks alone. -/
theorem escCycle_leaves (s : State) : escCycle s =
    { s with upNs := (escCycle s).upNs, clk := { s.clk with fleet := (escCycle s).clk.fleet, frac := (escCycle s).clk.frac } } := by
  unfold escCycle
  dsimp only
  split <;> rfl

theorem escCycle_clk_of_stopped {s : State} (h : fleetRuns s = false) : (escCycle s).clk = s.clk := by simp [escCycle, h]

/-- What fleet time and its fraction gain in one esc cycle, in units of 2^−32 ns. -/
theorem escCycle_gain {s : State} (h : fleetRuns s = true) (hr : -100000 ≤ s.clk.ratePpb) :
    (2 ^ 32 * ((escCycle s).clk.fleet : Int) + (escCycle s).clk.frac) - (2 ^ 32 * (s.clk.fleet : Int) + s.clk.frac) =
      2 ^ 32 * (1000000000 + s.clk.ratePpb) / 1000000000 := by
  have gain : 0 ≤ 2 ^ 32 * (1000000000 + s.clk.ratePpb) / 1000000000 := by omega
  simp only [escCycle, h, if_true]
  omega

theorem escCycle_frac_lt {s : State} (h : fleetRuns s = true) : (escCycle s).clk.frac < 2 ^ 32 := by
  simp only [escCycle, h, if_true]
  exact Nat.mod_lt _ (by decide)

theorem step_of_empty {s : State} (h : s.pending = []) : step s = .next (escCycle s) := by simp [step, h]

/-- Settles O58, by `exec_fleet` and the arithmetic of one esc cycle. -/
theorem fleetTime : Obligations.FleetTime := by
  unfold Obligations.FleetTime
  refine ⟨exec_fleet, fun s empty rate _ => ⟨escCycle s, step_of_empty empty, escCycle_leaves s, escCycle_upNs s,
    escCycle_clk_of_stopped, fun runs => ⟨escCycle_frac_lt runs, escCycle_gain runs rate⟩⟩⟩

/-! ### The queue of commands -/

/-- Settles O53, from the definition of a step. -/
theorem stepRunsFront : Obligations.StepRunsFront := by
  unfold Obligations.StepRunsFront
  intros
  rfl

end Sys2Proof.Machine
end

section
/-! PROOFS. The whole machine: what every command answers (R21), the reset values, and the reads that do not show FleetKey (R320). -/

namespace Sys2Proof.Machine

/-- A next state with nothing left to collect, and the queue of commands as it was. -/
def Answers (s : State) (o : Out) : Prop := ∃ t, o = .next t ∧ Collected t ∧ t.pending = s.pending

theorem answers_run (f : State → State) (s : State) : Answers s (run f s) := by
  obtain ⟨pending, queue⟩ := run_leaves f s _ rfl
  exact ⟨_, rfl, queue, pending⟩

theorem answers_runCtl (f : State → State) (s : State) : Answers s (runCtl f s) := by
  obtain ⟨pending, queue, -⟩ := runCtl_leaves f s _ rfl
  exact ⟨_, rfl, queue, pending⟩

/-- Settles O54: a command's answer is that of an operation, one that reaches neither the local space nor the thread processors, or
one that may. -/
theorem commandsAnswer : Obligations.CommandsAnswer := by
  unfold Obligations.CommandsAnswer
  intro c s
  change Answers s (exec c s)
  unfold exec
  cases c
  case rampWindow | leaseEnd | reclaim | request | grant | queued | returnCredits | announce | report | beacon | beaconSend |
      backupTakeover | poolFreezeEnd | requestResend | keeperMessage | keeperSend | routeSet | ringSet | poolSet |
      keeperReward | unfenceChip | remapSlice | restoreDoneNotice | loaded | scrubPass | vatScrub | faultClear |
      eventRingSetup | eventRingEnable | culSnreq | culSnrel | leaseExpired | culResumestep | timeExchangeStart |
      timeExchangeRequest | timeExchangeResponse | timeExchangeAbandon | holdoverEntry | parentChange | beatInEdge |
      beatInLost | rootFreeTimeout | lockTimeout | ack | nak | alignmentMarker | retrainRequest | reservedControlBlock |
      uncorrectableCodeword | frameCrcFailure | frameDiscard | routingDigest | frameBoundary | replayTimeout | errorLimit |
      errorWindow | trainingComplete | trainingFailed | fastRetrainComplete | fastRetrainTimeout | failedRetry |
      lossOfSignal | lossOfBlockLock | fastRetrain | fullTraining | mirrorCheck | pwrShedNFall | pwrShedNRise | shedRequest
      | sensorConversion | thermalHoldEnd | capWrite | rampSyncRise | startInstant | pmbusSlot | uartDataRead |
      uartDataWrite | uartStatRead | attnClear | uartFormatWrite | uartBrktx | breakTxEnd | characterSent |
      characterReceived | breakDetect | breakEnd | managementReset | tapReset | extest | idcode | samplePreload | clamp |
      highz | extestPulse | extestTrain | otpProg | bypass =>
    exact answers_runCtl _ _
  all_goals exact answers_run _ _

/-! ### The reset values -/

theorem reset_memOk : MemOk State.reset := ⟨rfl, rfl, by decide, rfl⟩

/-- Settles O60: the values stand in the definition of the reset state. -/
theorem resetValues : Obligations.ResetValues := by
  unfold Obligations.ResetValues
  intro s
  exact ⟨rfl, rfl, rfl, rfl, rfl, rfl, rfl, rfl, rfl, rfl, fun n => ⟨rfl, rfl⟩, rfl, rfl, rfl, rfl, rfl, rfl, rfl, rfl, rfl, rfl,
    reset_memOk, rfl⟩

end Sys2Proof.Machine
end

section
/-! PROOFS. The reads that do not show FleetKey (R320): a read commutes with a change of the key. -/

namespace Sys2Proof.Machine

/-- The state with another FleetKey, burnt and copied. -/
def rekeyed (key : List Byte) (s : State) : State :=
  { s with otp := memWrite s.otp 0x10 key, pwr.otpCopy := memWrite s.pwr.otpCopy 0x10 key }

section
variable (key : List Byte) (s : State)

/-! ### What a read shows -/

theorem cfgVal_rekeyed (id : Nat) : cfgVal (rekeyed key s) id = cfgVal s id := rfl
theorem escReg_rekeyed (o : Nat) : escReg (rekeyed key s) o = escReg s o := rfl
theorem rglReg_rekeyed (o : Nat) : rglReg (rekeyed key s) o = rglReg s o := rfl
theorem schReg_rekeyed (o : Nat) : schReg (rekeyed key s) o = schReg s o := rfl
theorem acctReg_rekeyed (a o : Nat) : acctReg (rekeyed key s) a o = acctReg s a o := rfl
theorem stmReg_rekeyed (a o : Nat) : stmReg (rekeyed key s) a o = stmReg s a o := rfl
theorem sepReg_rekeyed (o : Nat) : sepReg (rekeyed key s) o = sepReg s o := rfl
theorem culReg_rekeyed (fn o : Nat) : culReg (rekeyed key s) fn o = culReg s fn o := rfl
theorem fltReg_rekeyed (o : Nat) : fltReg (rekeyed key s) o = fltReg s o := rfl
theorem portReg_rekeyed (b : Bool) (o : Nat) : portReg (rekeyed key s) b o = portReg s b o := rfl
theorem lkReg_rekeyed (n o : Nat) : lkReg (rekeyed key s) n o = lkReg s n o := rfl
theorem clReg_rekeyed (n o : Nat) : clReg (rekeyed key s) n o = clReg s n o := rfl
theorem statusLine_rekeyed : statusLine (rekeyed key s) = statusLine s := rfl
theorem reportText_rekeyed : reportText (rekeyed key s) = reportText s := rfl
theorem smbWord_rekeyed : smbWord (rekeyed key s) = smbWord s := rfl
theorem smbTelemetry_rekeyed : smbTelemetry (rekeyed key s) = smbTelemetry s := rfl
theorem faultSummary_rekeyed : faultSummary (rekeyed key s) = faultSummary s := rfl
theorem bar2Byte_rekeyed (a) : bar2Byte (rekeyed key s) a = bar2Byte s a := rfl
theorem readBad_rekeyed (a n) : readBad (rekeyed key s) a n = readBad s a n := rfl
theorem softCount_rekeyed (a n) : softCount (rekeyed key s) a n = softCount s a n := rfl
theorem stmFree_rekeyed : stmFree (rekeyed key s) = stmFree s := rfl
theorem ldrBusy_rekeyed : ldrBusy (rekeyed key s) = ldrBusy s := rfl
theorem pciLink_rekeyed : pciLink (rekeyed key s) = pciLink s := rfl
theorem getStream_rekeyed i : getStream (rekeyed key s) i = getStream s i := rfl

/-! ### What an operation changes beside the key -/

theorem rekeyed_ite (c : Prop) [Decidable c] (s t : State) :
    rekeyed key (if c then s else t) = if c then rekeyed key s else rekeyed key t := apply_ite _ _ _ _

theorem ringEvent_rekeyed (e : Ev) : ringEvent e (rekeyed key s) = rekeyed key (ringEvent e s) := by
  simp only [ringEvent, rekeyed_ite]
  rfl

theorem logEvent_rekeyed (e : Ev) : logEvent e (rekeyed key s) = rekeyed key (logEvent e s) := by
  simp only [logEvent, rekeyed_ite]
  rfl

theorem evInterrupt_rekeyed : evInterrupt (rekeyed key s) = rekeyed key (evInterrupt s) := by
  simp only [evInterrupt, rekeyed_ite]
  rfl

/-- A fold whose step commutes with the change of the key. -/
theorem foldl_rekeyed {α : Type} (g : State → α → State) (h : ∀ s x, g (rekeyed key s) x = rekeyed key (g s x)) (xs : List α) :
    xs.foldl g (rekeyed key s) = rekeyed key (xs.foldl g s) := by
  induction xs generalizing s with
  | nil => rfl
  | cons x xs ih => rw [List.foldl_cons, h, ih, List.foldl_cons]

theorem acceptEvent_rekeyed (e : Ev) : acceptEvent (rekeyed key s) e = rekeyed key (acceptEvent s e) := by
  rw [acceptEvent, logEvent_rekeyed, ringEvent_rekeyed, acceptEvent]

theorem collect_rekeyed : collect (rekeyed key s) = rekeyed key (collect s) := by
  have taken := foldl_rekeyed key { s with ev.queue := [] } acceptEvent (acceptEvent_rekeyed key)
    (sortBy (fun a b : Ev => decide (a.time < b.time) || (a.time == b.time && decide (a.src < b.src))) s.ev.queue)
  rw [collect, collect, ← evInterrupt_rekeyed, ← taken]
  rfl

theorem txNext_rekeyed : txNext (rekeyed key s) = rekeyed key (txNext s) := by
  have same : (rekeyed key s).uart = s.uart := rfl
  cases h : s.uart.tx
  all_goals
    simp only [txNext, h, rekeyed_ite, same]
    rfl

theorem crownFeed_rekeyed : crownFeed (rekeyed key s) = rekeyed key (crownFeed s) := by
  simp only [crownFeed, rekeyed_ite]
  rfl

theorem reply_rekeyed (bs : List Byte) : reply bs (rekeyed key s) = rekeyed key (reply bs s) := by
  simp only [reply, crownSay, pump]
  rw [← crownFeed_rekeyed, ← txNext_rekeyed, ← crownFeed_rekeyed]
  rfl

/-! ### JTAG's instructions -/

theorem setLinkState_rekeyed (n : Nat) (x : LinkState) : setLinkState n x (rekeyed key s) = rekeyed key (setLinkState n x s) := by
  simp only [setLinkState, rekeyed_ite]
  rfl

theorem moveToAlternates_rekeyed (n : Nat) : moveToAlternates n (rekeyed key s) = rekeyed key (moveToAlternates n s) := by
  simp only [moveToAlternates]
  rw [← foldl_rekeyed]
  · rfl
  · intro s t
    have same : altLink (rekeyed key s) = altLink s := rfl
    cases h : altLink s t.fr.dst.toNat n
    · simp only [h, same]
    · simp only [h, same]
      rfl

theorem beginTrain_rekeyed (n : Nat) (own : Bool) : beginTrain n own (rekeyed key s) = rekeyed key (beginTrain n own s) := by
  have told (t : State) (c : Bool) : modLink n (fun l => { l with wire := if c then l.wire ++ [.retrain 2] else l.wire }) (rekeyed key t) =
      rekeyed key (modLink n (fun l => { l with wire := if c then l.wire ++ [.retrain 2] else l.wire }) t) := rfl
  have counted : modLink n (fun l => { l with fullRt := l.fullRt + 1 }) (rekeyed key s) =
      rekeyed key (modLink n (fun l => { l with fullRt := l.fullRt + 1 }) s) := rfl
  have state (t : State) : getLink (rekeyed key t) n = getLink t n := rfl
  simp only [beginTrain, enterTrain, counted, state, told, setLinkState_rekeyed, moveToAlternates_rekeyed]

theorem dropLinks_rekeyed : dropLinks (rekeyed key s) = rekeyed key (dropLinks s) := by
  have state (t : State) (n : Nat) : getLink (rekeyed key t) n = getLink t n := rfl
  refine foldl_rekeyed key s _ (fun s n => ?_) _
  simp only [rekeyed_ite, beginTrain_rekeyed, state]

theorem trainPcie_rekeyed : trainPcie (rekeyed key s) = rekeyed key (trainPcie s) := by
  simp only [trainPcie, rekeyed_ite]
  rfl

theorem dropPcie_rekeyed : dropPcie (rekeyed key s) = rekeyed key (dropPcie s) := rfl

theorem ite_of_iff {α : Type} {c d : Prop} [Decidable c] [Decidable d] (h : c ↔ d) {x y u v : α} (hx : x = u) (hy : y = v) :
    (if c then x else y) = if d then u else v := ite_congr (propext h) (fun _ => hx) fun _ => hy

theorem setIr_rekeyed (i : TapInstr) : setIr i (rekeyed key s) = rekeyed key (setIr i s) := by
  have dropped (t : State) : dropPcie (dropLinks (rekeyed key t)) = rekeyed key (dropPcie (dropLinks t)) := by
    rw [dropLinks_rekeyed, dropPcie_rekeyed]
  have same (t : State) : boundary (rekeyed key t) = boundary t := rfl
  have entered (t : State) :
      (if boundary (rekeyed key t) && !boundary (rekeyed key s) then dropPcie (dropLinks (rekeyed key t))
        else if boundary (rekeyed key s) && !boundary (rekeyed key t) then trainPcie (rekeyed key t)
        else rekeyed key t) =
      rekeyed key (if boundary t && !boundary s then dropPcie (dropLinks t)
        else if boundary s && !boundary t then trainPcie t
        else t) := by
    simp only [same, dropped, trainPcie_rekeyed, rekeyed_ite]
  simp only [setIr, rekeyed_ite key (tapRuns s = true)]
  exact ite_of_iff Iff.rfl (entered { s with tap := { s.tap with ir := i, hiZ := i == .highz } }) rfl

/-! ### BAR2 -/

theorem serveLine_rekeyed (a : VatAcc) : serveLine a (rekeyed key s) = rekeyed key (serveLine a s) := by
  cases h : a.into <;> simp only [serveLine, h] <;> rfl

theorem serveVat_rekeyed (ok : VatAcc → Bool) (n : Nat) : serveVat ok n (rekeyed key s) = rekeyed key (serveVat ok n s) := by
  induction n generalizing s with
  | zero => rfl
  | succ n ih =>
    simp only [serveVat, show (rekeyed key s).vat = s.vat from rfl]
    split
    · rfl
    · rw [← ih, ← serveLine_rekeyed]
      rfl

theorem serveAll_rekeyed : serveAll (rekeyed key s) = rekeyed key (serveAll s) := serveVat_rekeyed key s _ _

theorem postIf_rekeyed (c : Bool) (src code sev : Nat) (p : List Byte) :
    postIf c src code sev p (rekeyed key s) = rekeyed key (postIf c src code sev p s) := by
  simp only [postIf, rekeyed_ite]
  rfl

theorem debugRefused_rekeyed (req a n : Nat) : debugRefused req a n (rekeyed key s) = rekeyed key (debugRefused req a n s) := by
  rw [debugRefused, debugRefused, ← postIf_rekeyed]
  rfl

theorem countSoft_rekeyed (a n : Nat) : countSoft a n (rekeyed key s) = rekeyed key (countSoft a n s) := rfl
theorem completeRead_rekeyed (c : Completion) : completeRead c (rekeyed key s) = rekeyed key (completeRead c s) := rfl
theorem skipFree_rekeyed (n : Nat) : skipFree n (rekeyed key s) = rekeyed key (skipFree n s) := rfl

theorem bar2Load_rekeyed (req a n : Nat) : bar2Load req a n (rekeyed key s) = rekeyed key (bar2Load req a n s) := by
  have bytes : bar2Get (rekeyed key s) = bar2Get s := rfl
  have free : freeBytes (rekeyed key s) n = freeBytes s n := rfl
  simp only [bar2Load, bytes, free, bar2Byte_rekeyed, readBad_rekeyed, countSoft_rekeyed, debugRefused_rekeyed, ← rekeyed_ite]
  split
  · rfl
  · rw [foldl_rekeyed key _ (fun t l => eccEvent 1 (64 * l) 5 t) (fun _ _ => rfl), skipFree_rekeyed, completeRead_rekeyed]
    rfl

theorem hostRead_rekeyed_state (off : Nat) (wide : Bool) : (hostRead off wide (rekeyed key s)).2 = rekeyed key (hostRead off wide s).2 := by
  simp only [hostRead, rekeyed_ite]
  rfl

end

/-! ### The bytes beside FleetKey -/

section
variable {key : List Byte} (s : State)

theorem memNat_beside_key (m : Table Byte) (a n : Nat) (h : a + n ≤ 0x10) : memNat (memWrite m 0x10 key) a n = memNat m a n := by
  rw [memNat, memRead_memWrite_outside _ _ _ _ _ (.inl h), memNat]

theorem cfgSerial_rekeyed : cfgSerial (rekeyed key s) = cfgSerial s := memNat_beside_key _ _ _ (by decide)

theorem secFlags_rekeyed : secFlags (rekeyed key s) = secFlags s := memNat_beside_key _ _ _ (by decide)

theorem cfgOtp_rekeyed : cfgOtp (rekeyed key s) = cfgOtp s := by
  have beside (a n : Nat) (h : a + n ≤ 0x10) : memNat (rekeyed key s).pwr.otpCopy a n = memNat s.pwr.otpCopy a n :=
    memNat_beside_key _ _ _ h
  have revision : keyRevision (rekeyed key s) = keyRevision s := beside _ _ (by decide)
  simp only [cfgOtp, revision, beside 8 1 (by decide), beside 9 1 (by decide)]
  rfl

theorem miscReg_rekeyed (b o : Nat) : miscReg (rekeyed key s) b o = miscReg s b o := by
  simp only [miscReg, cfgSerial_rekeyed, cfgOtp_rekeyed]
  rfl

theorem regSlot_rekeyed (fn off : Nat) : regSlot (rekeyed key s) fn off = regSlot s fn off := by
  simp only [regSlot, miscReg_rekeyed]
  rfl

theorem regRead_rekeyed (off : Nat) : regRead (rekeyed key s) off = regRead s off := regSlot_rekeyed s 0 _

theorem debugLocked_rekeyed : debugLocked (rekeyed key s) = debugLocked s := by
  simp only [debugLocked, jtagLock, secFlags_rekeyed]
  rfl

theorem hostRead_rekeyed (off : Nat) (wide : Bool) :
    hostRead off wide (rekeyed key s) = ((hostRead off wide s).1, rekeyed key (hostRead off wide s).2) := by
  refine Prod.ext ?_ (hostRead_rekeyed_state key s off wide)
  simp only [hostRead, regSlot_rekeyed]
  rfl

/-! ### The reads -/

theorem run_rekeyed {f : State → State} (h : f (rekeyed key s) = rekeyed key (f s)) {t u : State}
    (ht : run f s = .next t) (hu : run f (rekeyed key s) = .next u) : u = rekeyed key t := by
  rw [run_answers] at ht hu
  rw [hu, ht, h, collect_rekeyed]
  rfl

theorem runCtl_rekeyed {f : State → State} (h : f (rekeyed key s) = rekeyed key (f s)) {t u : State}
    (ht : runCtl f s = .next t) (hu : runCtl f (rekeyed key s) = .next u) : u = rekeyed key t := by
  rw [runCtl_answers] at ht hu
  rw [hu, ht, h, collect_rekeyed]
  rfl

/-- A reply of the console, whose bytes do not show the key. -/
theorem console_rekeyed {bs : State → List Byte} (h : bs (rekeyed key s) = bs s) :
    (if consoleServes (rekeyed key s) then reply (bs (rekeyed key s)) (rekeyed key s) else rekeyed key s) =
      rekeyed key (if consoleServes s then reply (bs s) s else s) := by
  rw [h, reply_rekeyed, rekeyed_ite]
  rfl

/-- A reply of the SMBus target, whose bytes do not show the key. -/
theorem smbus_rekeyed {bs : State → List Byte} (h : bs (rekeyed key s) = bs s) :
    onSmb (fun s => smbReply (bs s) s) (rekeyed key s) = rekeyed key (onSmb (fun s => smbReply (bs s) s) s) := by
  simp only [onSmb, h, rekeyed_ite]
  rfl

theorem execConsoleRead_rekeyed (off : BitVec 32) {t u : State} (ht : execConsoleRead off s = .next t) (hu : execConsoleRead off (rekeyed key s) = .next u) :
    u = rekeyed key t := by
  refine run_rekeyed s ?_ ht hu
  exact console_rekeyed s (bs := fun s => hexDigits 16 (regRead s off.toNat)) (by simp only [regRead_rekeyed])

theorem execConsoleStatus_rekeyed {t u : State} (ht : execConsoleStatus s = .next t) (hu : execConsoleStatus (rekeyed key s) = .next u) :
    u = rekeyed key t := by
  refine run_rekeyed s ?_ ht hu
  exact console_rekeyed s (bs := statusLine) (statusLine_rekeyed key s)

theorem execConsoleReport_rekeyed {t u : State} (ht : execConsoleReport s = .next t) (hu : execConsoleReport (rekeyed key s) = .next u) :
    u = rekeyed key t := by
  refine run_rekeyed s ?_ ht hu
  exact console_rekeyed s (bs := reportText) (reportText_rekeyed key s)

theorem execSmbusSerial_rekeyed {t u : State} (ht : execSmbusSerial s = .next t) (hu : execSmbusSerial (rekeyed key s) = .next u) :
    u = rekeyed key t :=
  run_rekeyed s (smbus_rekeyed s (bs := fun s => leBytes 8 (cfgSerial s) ++ leBytes 1 (cfgOtp s)) (by simp only [cfgSerial_rekeyed, cfgOtp_rekeyed])) ht hu

theorem execSmbusStatus_rekeyed {t u : State} (ht : execSmbusStatus s = .next t) (hu : execSmbusStatus (rekeyed key s) = .next u) :
    u = rekeyed key t :=
  run_rekeyed s (smbus_rekeyed s (bs := fun s => leBytes 2 (smbWord s)) (by simp only [smbWord_rekeyed])) ht hu

theorem execSmbusTelemetry_rekeyed {t u : State} (ht : execSmbusTelemetry s = .next t) (hu : execSmbusTelemetry (rekeyed key s) = .next u) :
    u = rekeyed key t :=
  run_rekeyed s (smbus_rekeyed s (bs := smbTelemetry) (smbTelemetry_rekeyed key s)) ht hu

theorem execSmbusFaultSummary_rekeyed {t u : State} (ht : execSmbusFaultSummary s = .next t) (hu : execSmbusFaultSummary (rekeyed key s) = .next u) :
    u = rekeyed key t :=
  run_rekeyed s (smbus_rekeyed s (bs := faultSummary) (faultSummary_rekeyed key s)) ht hu

theorem execSmbusRegisterRead_rekeyed {t u : State} (ht : execSmbusRegisterRead s = .next t) (hu : execSmbusRegisterRead (rekeyed key s) = .next u) :
    u = rekeyed key t :=
  run_rekeyed s (smbus_rekeyed s (bs := fun s => leBytes 8 (regRead s s.smb.offset)) (by simp only [regRead_rekeyed]; rfl)) ht hu

/-- A read of the TAP's DEBUG instruction. -/
theorem debugRead_rekeyed (a v : Nat) : debugAccess false a v (rekeyed key s) = rekeyed key (debugAccess false a v s) := by
  have shown (d : Nat) : ({ rekeyed key s with tap.data := d } : State) = rekeyed key { s with tap.data := d } := rfl
  have memory (n : Nat) : memNat (rekeyed key s).mem a n = memNat s.mem a n := rfl
  simp only [debugAccess, regRead_rekeyed, rekeyed_ite, Bool.false_eq_true, if_false, memory, shown]

theorem execDebug_rekeyed (addr : BitVec 36) (v : BitVec 64) {t u : State}
    (ht : execDebug false addr v s = .next t) (hu : execDebug false addr v (rekeyed key s) = .next u) : u = rekeyed key t := by
  refine run_rekeyed s ?_ ht hu
  have locked (t : State) (d : Nat) : setIr .bypass { rekeyed key t with tap.data := d } = rekeyed key (setIr .bypass { t with tap.data := d }) :=
    setIr_rekeyed key { t with tap.data := d } .bypass
  have runs (t : State) : mgmtRuns (rekeyed key t) = mgmtRuns t := rfl
  have taps (t : State) : tapRuns (rekeyed key t) = tapRuns t := rfl
  simp only [debugLocked_rekeyed, setIr_rekeyed, debugRead_rekeyed, locked, runs, taps, rekeyed_ite]

theorem execIdcode_rekeyed {t u : State} (ht : execIdcode s = .next t) (hu : execIdcode (rekeyed key s) = .next u) : u = rekeyed key t := by
  refine runCtl_rekeyed s ?_ ht hu
  have chosen (t : State) : setIr .idcode { rekeyed key t with tap.data := idWord } = rekeyed key (setIr .idcode { t with tap.data := idWord }) :=
    setIr_rekeyed key { t with tap.data := idWord } .idcode
  have taps (t : State) : tapRuns (rekeyed key t) = tapRuns t := rfl
  simp only [chosen, taps, rekeyed_ite]

theorem execBar2Read_rekeyed (req : BitVec 16) (addr : BitVec 36) (n : Nat) {t u : State}
    (ht : execBar2Read req addr n s = .next t) (hu : execBar2Read req addr n (rekeyed key s) = .next u) : u = rekeyed key t := by
  refine run_rekeyed s ?_ ht hu
  have denied (off : Nat) : unsupported req.toNat off n false (rekeyed key s) = rekeyed key (unsupported req.toNat off n false s) := rfl
  simp only [hostRead_rekeyed, completeRead_rekeyed, denied, serveAll_rekeyed, bar2Load_rekeyed, rekeyed_ite]

end

/-- Settles O59: each read commutes with the change of the key, and the bytes that it shows lie beside the key. -/
theorem keyUnreadable : Obligations.KeyUnreadable := by
  unfold Obligations.KeyUnreadable
  intro s key i off addr v req n _ hi t u ht hu
  suffices h : u = rekeyed key t by
    rw [h]
    exact ⟨rfl, rfl, rfl, rfl, rfl⟩
  simp only [List.mem_cons, List.not_mem_nil, or_false] at hi
  obtain rfl | rfl | rfl | rfl | rfl | rfl | rfl | rfl | rfl | rfl | rfl := hi
  · exact execConsoleRead_rekeyed s off ht hu
  · exact execConsoleStatus_rekeyed s ht hu
  · exact execConsoleReport_rekeyed s ht hu
  · exact execSmbusSerial_rekeyed s ht hu
  · exact execSmbusStatus_rekeyed s ht hu
  · exact execSmbusTelemetry_rekeyed s ht hu
  · exact execSmbusFaultSummary_rekeyed s ht hu
  · exact execSmbusRegisterRead_rekeyed s ht hu
  · exact execDebug_rekeyed s addr v ht hu
  · exact execIdcode_rekeyed s ht hu
  · exact execBar2Read_rekeyed s req addr n ht hu

end Sys2Proof.Machine
end

section
/-! PROOFS. Instructions with one result (R73, R78, R83, R86), and what SALU and integer VALU compute. -/

namespace Sys2Proof.Machine

section
variable {o : OpSpec} {t : Fin 128} {f : TField} {s u : State} {c : TileCtx} {cy : Nat}

/-- The operands of an instruction that issues are of the kinds that it accepts (R95). -/
theorem Issues.kinds (h : Issues o t f s u c cy) : ∀ x ∈ specKinds o f, kindOk x.1 x.2 = true := by
  obtain ⟨-, -, kinds, -⟩ := staticReason_zero h.accepted
  simpa using kinds

theorem Issues.dst_wide (h : Issues o t f s u c cy) (hk : (o.kinds f.mod.toNat).1 = .wide) : opSize f.dst = 64 :=
  opSize_wide (by simpa [kindOk, hk] using h.kinds ((o.kinds f.mod.toNat).1, f.dst) (by simp [specKinds]))

theorem Issues.dst_scalar (h : Issues o t f s u c cy) (hk : (o.kinds f.mod.toNat).1 = .sc) : opSize f.dst = 8 :=
  opSize_scalar (by simpa [kindOk, hk] using h.kinds ((o.kinds f.mod.toNat).1, f.dst) (by simp [specKinds]))

end

/-- An instruction that writes one result completes (R73, R78). -/
theorem completes_result {i : Instr} {o : OpSpec} {t : Fin 128} {f : TField} {lat : Nat} {v : TileCtx → State → Nat}
    {w : TileCtx → Nat → State → List Byte} (hi : ∀ s, exec i s = run (issue o t f (result o f lat v)) s)
    (hw : ∀ s u c cy, Issues o t f s u c cy → leBytes (opSize f.dst) (v c (issued c cy u)) = w c cy u) : Completes i o t f lat w := by
  intro s u c cy h
  rw [hi, ← hw s u c cy h]
  exact result_wrote o t f lat v s u c cy h

/-- One with a line as its result. -/
theorem completes_line {i : Instr} {o : OpSpec} {t : Fin 128} {f : TField} {lat : Nat} {v : TileCtx → State → Nat}
    (hk : (o.kinds f.mod.toNat).1 = .wide) (hi : ∀ s, exec i s = run (issue o t f (result o f lat v)) s)
    (hv : ∀ c cy u, v c (issued c cy u) = v c u) : Completes i o t f lat fun c _ s => leBytes 64 (v c s) :=
  completes_result hi fun s u c cy h => by rw [h.dst_wide hk, hv]

/-- One with a scalar as its result. -/
theorem completes_scalar {i : Instr} {o : OpSpec} {t : Fin 128} {f : TField} {lat : Nat} {v : TileCtx → State → Nat}
    (hk : (o.kinds f.mod.toNat).1 = .sc) (hi : ∀ s, exec i s = run (issue o t f (result o f lat v)) s)
    (hv : ∀ c cy u, v c (issued c cy u) = v c u) : Completes i o t f lat fun c _ s => leBytes 8 (v c s) :=
  completes_result hi fun s u c cy h => by rw [h.dst_scalar hk, hv]

theorem jobStep_noteCycle (slot cy : Nat) (s : State) (j : Nat) : jobStep (noteCycle slot cy s) j = jobStep s j := by
  unfold jobStep noteCycle
  by_cases h : j = slot
  · subst h
    rw [getJob_modRun_self]
    rfl
  · rw [getJob_modRun_ne _ _ _ _ h]
    rfl

theorem specValue_issued (c : TileCtx) (cy : Nat) (f : TField) (u : State) : specValue c cy f (issued c cy u) = specValue c cy f u := by
  have step : jobStep (issued c cy u) c.slot = jobStep u c.slot :=
    calc jobStep (issued c cy u) c.slot = jobStep (noteCycle c.slot cy (passCeiling c cy u)) c.slot := rfl
      _ = jobStep (passCeiling c cy u) c.slot := jobStep_noteCycle ..
      _ = jobStep u c.slot := by rw [passCeiling_rest]; rfl
  have cfg : chipId (issued c cy u) = chipId u := by rw [issued_rest]; rfl
  have view (p i : Nat) : viewAt (issued c cy u) p i = viewAt u p i := by rw [issued_rest]; rfl
  simp only [specValue, step, cfg, view]

theorem valuKinds_dst (m : Nat) : (valuKinds m).1 = .wide := by
  unfold valuKinds
  (repeat' split) <;> rfl

/-- MOV moves the bytes of an operand as wide as its destination. -/
theorem mov_bytes {t : Fin 128} {f : TField} {s u : State} {c : TileCtx} {cy : Nat} (h : Issues movSpec t f s u c cy) :
    leBytes (opSize f.dst) (valA c f u) = readOp u c.t f.thr.toNat f.srcA := by
  obtain ⟨-, -, -, range⟩ := staticReason_zero h.accepted
  have size : opSize f.dst = (readOp u c.t f.thr.toNat f.srcA).length := by simpa [movSpec, readOp] using range
  rw [valA, readNum, size, leBytes_leNat]

/-- Settles O1, by `result_wrote`: what remains of each instruction is that its value reads nothing that its issue changes. -/
theorem resultInstructions : Obligations.ResultInstructions := by
  unfold Obligations.ResultInstructions
  intro t f a b d ty m
  refine ⟨?_, ?_, ?_, ?_, ?_, ?_, ?_, ?_, ?_, ?_, ?_, ?_, ?_, ?_⟩
  · have lat : (if opClass f.dst = 0 ∧ opClass f.srcA = 0 then 1 else 5) = if opClass f.dst == 0 && opClass f.srcA == 0 then 1 else 5 := by
      simp
    rw [lat]
    refine completes_result (fun _ => rfl) fun s u c cy h => ?_
    rw [← mov_bytes h]
    simp [valA]
  · exact completes_line rfl (fun _ => rfl) fun c cy u => by simp [a]
  · exact completes_line rfl (fun _ => rfl) fun c cy u => by simp [a]
  · exact completes_scalar rfl (fun _ => rfl) fun c cy u => by simp [a]
  · exact completes_scalar rfl (fun _ => rfl) fun c cy u => rfl
  · exact completes_line (valuKinds_dst m) (fun _ => rfl) fun c cy u => by simp [a, b, d]
  · exact completes_line rfl (fun _ => rfl) fun c cy u => by simp [a]
  · exact completes_line rfl (fun _ => rfl) fun c cy u => by simp [a]
  · exact completes_scalar rfl (fun _ => rfl) fun c cy u => by simp [a, b]
  · exact completes_line rfl (fun _ => rfl) fun c cy u => by simp [a, b]
  · exact completes_scalar rfl (fun _ => rfl) fun c cy u => by simp [a]
  · exact completes_line rfl (fun _ => rfl) fun c cy u => by simp [a]
  · exact completes_scalar rfl (fun _ => rfl) fun c cy u => by simp [a, b]
  · intro s u c cy h
    have run_spec : exec (.spec t f) s = run (issue specSpec t f (result specSpec f 1 fun c s => specValue c cy f s)) s := by
      change run _ s = run _ s
      rw [run, run, issue_of_issues _ _ _ _ _ _ _ _ h, issue_of_issues _ _ _ _ _ _ _ _ h]
    dsimp only
    rw [run_spec, ← specValue_issued, ← h.dst_scalar rfl]
    exact result_wrote specSpec t f 1 (fun c s => specValue c cy f s) s u c cy h

/-! ### SALU -/

theorem wrapInt_eq_ofInt (w : Nat) (i : Int) : wrapInt w i = (BitVec.ofInt w i).toNat := by
  rw [wrapInt, BitVec.toNat_ofInt]

theorem signed_eq_toInt {w : Nat} (hw : 0 < w) (x : BitVec w) : signed w x.toNat = x.toInt := by
  have half : 2 ^ w = 2 * 2 ^ (w - 1) := by rw [← Nat.pow_succ', Nat.succ_eq_add_one, Nat.sub_add_cancel hw]
  rw [signed, BitVec.toInt_eq_toNat_cond]
  congr 1
  exact propext (by omega)

theorem signed64 (x : BitVec 64) : signed 64 x.toNat = x.toInt := signed_eq_toInt (by decide) x

theorem wrapInt_add_toInt (x y : BitVec 64) : wrapInt 64 (x.toInt + y.toInt) = (x + y).toNat := by
  rw [wrapInt_eq_ofInt, BitVec.ofInt_add, BitVec.ofInt_toInt, BitVec.ofInt_toInt]

theorem wrapInt_sub_toInt (x y : BitVec 64) : wrapInt 64 (x.toInt - y.toInt) = (x - y).toNat := by
  rw [wrapInt_eq_ofInt, Int.sub_eq_add_neg, BitVec.ofInt_add, BitVec.ofInt_neg, BitVec.ofInt_toInt, BitVec.ofInt_toInt, BitVec.sub_eq_add_neg]

theorem wrapInt_mul_toInt (x y : BitVec 64) : wrapInt 64 (x.toInt * y.toInt) = (x * y).toNat := by
  rw [wrapInt_eq_ofInt, BitVec.ofInt_mul, BitVec.ofInt_toInt, BitVec.ofInt_toInt]

theorem shiftLeft_toNat (x : BitVec 64) (n : Nat) : (if 64 ≤ n then 0 else (x.toNat <<< n) % 2 ^ 64) = (x <<< n).toNat := by
  split
  · next h => simp [BitVec.shiftLeft_eq_zero h]
  · rw [BitVec.toNat_shiftLeft]

theorem shiftRight_toNat (x : BitVec 64) (n : Nat) : (if 64 ≤ n then 0 else x.toNat >>> n) = (x >>> n).toNat := by
  split
  · next h => simp [BitVec.ushiftRight_eq_zero h]
  · rw [BitVec.toNat_ushiftRight]

/-- A signed shift by more than the width gives the sign fill, as one by the width does. -/
theorem div_min_toInt (x : BitVec 64) (n : Nat) : x.toInt / (2 ^ min n 64 : Nat) = x.toInt / (2 ^ n : Nat) := by
  rcases Nat.le_total n 64 with h | h
  · rw [Nat.min_eq_left h]
  · rw [Nat.min_eq_right h]
    have grown : (2 : Nat) ^ 64 ≤ 2 ^ n := Nat.pow_le_pow_right (by decide) h
    have low := x.le_toInt
    have high := x.toInt_lt
    generalize (2 : Nat) ^ n = p at grown
    rcases Int.lt_or_le x.toInt 0 with neg | pos
    · rw [Int.ediv_eq_neg_one_of_neg_of_le neg (by omega), Int.ediv_eq_neg_one_of_neg_of_le neg (by omega)]
    · rw [Int.ediv_eq_zero_of_lt pos (by omega), Int.ediv_eq_zero_of_lt pos (by omega)]

theorem wrapInt_div_toInt (x : BitVec 64) (n : Nat) : wrapInt 64 (x.toInt / (2 ^ min n 64 : Nat)) = (x.sshiftRight n).toNat := by
  rw [div_min_toInt, wrapInt_eq_ofInt, ← Int.shiftRight_eq_div_pow]
  rfl

/-- The operations of SALU, with the second operand in a register or immediate. -/
theorem saluOps (x y : BitVec 64) (im : Nat) (him : im = 0 ∨ im = 32) :
   saluOp (im + 0) x.toNat y.toNat = (x + y).toNat ∧
   saluOp (im + 1) x.toNat y.toNat = (x - y).toNat ∧
   saluOp (im + 2) x.toNat y.toNat = (x * y).toNat ∧
   saluOp (im + 3) x.toNat y.toNat = (x &&& y).toNat ∧
   saluOp (im + 4) x.toNat y.toNat = (x ||| y).toNat ∧
   saluOp (im + 5) x.toNat y.toNat = (x ^^^ y).toNat ∧
   saluOp (im + 6) x.toNat y.toNat = (x <<< y.toNat).toNat ∧
   saluOp (im + 7) x.toNat y.toNat = (x >>> y.toNat).toNat ∧
   saluOp (im + 8) x.toNat y.toNat = (x.sshiftRight y.toNat).toNat ∧
   saluOp (im + 9) x.toNat y.toNat = (if y.slt x then y else x).toNat ∧
   saluOp (im + 10) x.toNat y.toNat = (if x.slt y then y else x).toNat ∧
   saluOp (im + 11) x.toNat y.toNat = (if x = y then 1 else 0) ∧
   saluOp (im + 12) x.toNat y.toNat = (if x.slt y then 1 else 0) ∧
   saluOp (im + 13) x.toNat y.toNat = (if x.ult y then 1 else 0) := by
  have direct (k : Nat) : saluOp (im + k) x.toNat y.toNat = saluOp k x.toNat y.toNat := by
    have same : (im + k) % 16 = k % 16 := by omega
    simp only [saluOp, same]
  refine ⟨?_, ?_, ?_, ?_, ?_, ?_, ?_, ?_, ?_, ?_, ?_, ?_, ?_, ?_⟩
  all_goals
    rw [direct]
    simp only [saluOp, signed64, Nat.reduceMod]
  · exact wrapInt_add_toInt x y
  · exact wrapInt_sub_toInt x y
  · exact wrapInt_mul_toInt x y
  · exact (BitVec.toNat_and ..).symm
  · exact (BitVec.toNat_or ..).symm
  · exact (BitVec.toNat_xor ..).symm
  · exact shiftLeft_toNat x y.toNat
  · exact shiftRight_toNat x y.toNat
  · exact wrapInt_div_toInt x y.toNat
  · simp [BitVec.slt_eq_decide, apply_ite BitVec.toNat]
  · simp [BitVec.slt_eq_decide, apply_ite BitVec.toNat]
  · simp [b2n, BitVec.toNat_eq]
  · simp [b2n, BitVec.slt_eq_decide]
  · simp [b2n, BitVec.ult]

/-! ### Lanes -/

theorem upFrom_eq_range (a n : Nat) : upFrom a n = List.range' a n := by
  induction n generalizing a with
  | zero => rfl
  | succ n ih => rw [upFrom, ih, List.range'_succ]

theorem bits_lt (v lo w : Nat) : bits v lo w < 2 ^ w := Nat.mod_lt _ (Nat.two_pow_pos w)

/-- Lane i of the number of some lanes. -/
theorem bits_ofLanes (w : Nat) (xs : List Nat) (i : Nat) : bits (ofLanes w xs) (w * i) w = xs.getD i 0 % 2 ^ w := by
  have pos : 0 < 2 ^ w := Nat.two_pow_pos w
  induction xs generalizing i with
  | nil => simp [ofLanes, bits]
  | cons x xs ih =>
    cases i with
    | zero => simp [ofLanes, bits, Nat.add_mul_mod_self_left]
    | succ i =>
      rw [List.getD_cons_succ, ← ih i, bits, bits, ofLanes, Nat.mul_succ, Nat.add_comm (w * i), Nat.shiftRight_add,
        Nat.shiftRight_eq_div_pow _ w, Nat.add_mul_div_left _ _ pos, Nat.div_eq_of_lt (Nat.mod_lt _ pos), Nat.zero_add]

theorem getD_lanesOf {w n v i : Nat} (h : i < n) : (lanesOf w n v).getD i 0 = bits v (w * i) w := by
  simp [lanesOf, upFrom_eq_range, h]

theorem getD_zip3 (f : Nat → Nat → Nat → Nat → Nat) (n : Nat) (as bs cs : List Nat) (i : Nat)
    (ha : i < as.length) (hb : i < bs.length) (hc : i < cs.length) :
    (zip3 f n as bs cs).getD i 0 = f (n + i) (as.getD i 0) (bs.getD i 0) (cs.getD i 0) := by
  induction i generalizing n as bs cs with
  | zero =>
    obtain ⟨a, as, rfl⟩ := List.exists_cons_of_length_pos ha
    obtain ⟨b, bs, rfl⟩ := List.exists_cons_of_length_pos hb
    obtain ⟨c, cs, rfl⟩ := List.exists_cons_of_length_pos hc
    rfl
  | succ i ih =>
    obtain ⟨a, as, rfl⟩ := List.exists_cons_of_length_pos (Nat.zero_lt_of_lt ha)
    obtain ⟨b, bs, rfl⟩ := List.exists_cons_of_length_pos (Nat.zero_lt_of_lt hb)
    obtain ⟨c, cs, rfl⟩ := List.exists_cons_of_length_pos (Nat.zero_lt_of_lt hc)
    have next := ih (n + 1) as bs cs (by simpa using ha) (by simpa using hb) (by simpa using hc)
    simpa [zip3, Nat.add_assoc, Nat.add_comm 1 i] using next

/-- Lane i of a VALU result. -/
theorem bits_valuLine (ty : ElTy) (m mask a b c i : Nat) (hi : i < elLanes ty) :
    let ln := fun v => bits v (elBits ty * i) (elBits ty)
    ln (valuLine ty m mask a b c) = valuLane ty m (bitAt mask i) (ln a) (ln b) (ln c) % 2 ^ elBits ty := by
  have len (v : Nat) : i < (lineLanes ty v).length := by simpa [lineLanes, lanesOf, upFrom_eq_range] using hi
  simp only [valuLine, lineOf, bits_ofLanes]
  rw [getD_zip3 _ _ _ _ _ _ (len a) (len b) (len c), Nat.zero_add]
  simp only [lineLanes, getD_lanesOf hi]

theorem wrapInt_lt (w : Nat) (v : Int) : wrapInt w v < 2 ^ w := by
  rw [wrapInt_eq_ofInt]
  exact BitVec.isLt _

/-- What VALU computes on integer lanes lies within the lane. -/
theorem valuLane_int (ty : ElTy) (m : Nat) (sel : Bool) (a b c : Nat) (hty : elIsInt ty = true) (hm : m ≤ 11)
    (ha : a < 2 ^ elBits ty) (hb : b < 2 ^ elBits ty) :
    let w := elBits ty
    let sg := signed w
    valuLane ty m sel a b c % 2 ^ elBits ty =
     if m = 0 then wrapInt w (sg a + sg b) else if m = 1 then wrapInt w (sg a - sg b)
     else if m = 2 then wrapInt w (sg a * sg b)
     else if m = 3 then (if sg a < sg b then b else a) else if m = 4 then (if sg b < sg a then b else a)
     else if m = 5 then a &&& b else if m = 6 then a ||| b else if m = 7 then a ^^^ b
     else if m = 8 then wrapInt w (sg a * sg b + sg c)
     else if m = 9 then (if sel then a else b)
     else if m = 10 then wrapInt w (Int.natAbs (sg a)) else wrapInt w (-(sg a)) := by
  have wrapped (v : Int) : wrapInt (elBits ty) v % 2 ^ elBits ty = wrapInt (elBits ty) v := Nat.mod_eq_of_lt (wrapInt_lt _ _)
  have chosen (p : Prop) [Decidable p] (x y : Nat) (hx : x < 2 ^ elBits ty) (hy : y < 2 ^ elBits ty) :
      (if p then x else y) % 2 ^ elBits ty = if p then x else y := Nat.mod_eq_of_lt (by split <;> assumption)
  have magnitude (v : Int) : (if v < 0 then -v else v) = (v.natAbs : Int) := by split <;> omega
  intro w sg
  have one : m = 0 ∨ m = 1 ∨ m = 2 ∨ m = 3 ∨ m = 4 ∨ m = 5 ∨ m = 6 ∨ m = 7 ∨ m = 8 ∨ m = 9 ∨ m = 10 ∨ m = 11 := by omega
  rcases one with rfl | rfl | rfl | rfl | rfl | rfl | rfl | rfl | rfl | rfl | rfl | rfl
  all_goals simp only [valuLane, lnAdd, lnSub, lnMul, lnMax, lnMin, lnFma, lnAbs, lnNeg, hty, if_true, intLane, sgn]
  · exact wrapped _
  · exact wrapped _
  · exact wrapped _
  · exact chosen _ _ _ hb ha
  · exact chosen _ _ _ hb ha
  · exact Nat.mod_eq_of_lt (Nat.and_lt_two_pow _ hb)
  · exact Nat.mod_eq_of_lt (Nat.or_lt_two_pow ha hb)
  · exact Nat.mod_eq_of_lt (Nat.xor_lt_two_pow ha hb)
  · exact wrapped _
  · exact chosen _ _ _ ha hb
  · exact (congrArg (wrapInt w · % 2 ^ w) (magnitude (sg a))).trans (wrapped _)
  · exact wrapped _

/-- Settles O2, by the operations of SALU one by one, and for VALU lane by lane. -/
theorem scalarAndIntegerArithmetic : Obligations.ScalarAndIntegerArithmetic := by
  unfold Obligations.ScalarAndIntegerArithmetic
  refine ⟨saluOps, fun ty m mask a b c i hty hm hi => ?_⟩
  intro w ln sg
  exact (bits_valuLine ty m mask a b c i hi).trans
    (valuLane_int ty m (bitAt mask i) (ln a) (ln b) (ln c) hty hm (bits_lt _ _ _) (bits_lt _ _ _))

end Sys2Proof.Machine
end

section
/-! PROOFS. NOP, IDLE and FFENCE; TBR, LOOP and BRK, and the ends of their arms and bodies (R76, R92, R93). -/

namespace Sys2Proof.Machine

section
variable {o : OpSpec} {t : Fin 128} {f : TField} {s u : State} {c : TileCtx} {cy : Nat}

/-- The answer of an instruction that issues: its effect on the issued state, collected. -/
theorem run_issue (h : Issues o t f s u c cy) (act : TileCtx → Nat → State → State) :
    run (issue o t f act) s = .next { collect (act c cy (issued c cy u)) with pending := u.pending } := by
  have queue : u.pending = s.pending := by rw [readied_rest h.at_]
  rw [run, issue_of_issues o t f act s u c cy h, queue]

/-- An effect that is only the retirement. -/
theorem acts_refl (c : TileCtx) (s : State) : Acts c s s := ⟨fun _ _ => rfl, rfl, rfl, rfl⟩

/-- An instruction that only retires advances. -/
theorem retire_advanced (h : Issues o t f s u c cy) {act : TileCtx → Nat → State → State} {nx : Nat}
    (hact : act c cy (issued c cy u) = retire c.t nx (issued c cy u)) :
    ∃ s', run (issue o t f act) s = .next s' ∧ Advanced u s' c cy nx := by
  obtain ⟨-, htp⟩ := h.tp
  rw [run_issue h, hact]
  obtain ⟨stays, steps, bytes, -⟩ := retired_stays u _ c cy nx htp (acts_refl c _) _ rfl
  exact ⟨_, rfl, fun x _ hx => (bytes x hx).trans (by rw [issued_mem]), steps, stays⟩

end

/-- Settles O3, by `retire_advanced`. -/
theorem plainInstructions : Obligations.PlainInstructions := by
  unfold Obligations.PlainInstructions
  intro t f s u c cy
  refine ⟨fun h => retire_advanced h rfl, fun h => ⟨?_, retire_advanced h rfl⟩, fun h => retire_advanced h ?_⟩
  · obtain ⟨-, -, -, range⟩ := staticReason_zero h.accepted
    exact Nat.pos_of_ne_zero (by simpa [idleN] using range)
  · have same : farCycles (issued c cy u) = farCycles u := by rw [issued_rest]; rfl
    rw [same]

/-! ### The ends of arms and bodies (R92, R93) -/

section
variable {t k : Nat} {s : State} {n : Nest} {rest : List Nest}

/-- An arm that ends: the TP goes on behind both arms. -/
theorem closeNests_arm (h : (getTp s t).nest = n :: rest) (hpc : (getTp s t).pc = n.stop) (hl : n.isLoop = false) :
    closeNests t (k + 1) s =
      closeNests t k (modTp t (fun x => { x with nest := rest, pc := n.after, next := n.issue + 2 + n.bound }) s) := by
  rw [closeNests]
  simp [h, hpc, hl]

/-- A nest within its iterations, at its next one. -/
def Nest.round (n : Nest) : Nest := { n with iter := n.iter + 1, iterStart := n.iterStart + n.bound + 1 }

/-- A nest of an empty body, at its last iteration. -/
def Nest.last (n : Nest) : Nest := { n with iter := n.nMax - 1, iterStart := n.issue + 2 + (n.nMax - 1) * (n.bound + 1) }

/-- A body that goes round. -/
theorem closeNests_round (h : (getTp s t).nest = n :: rest) (hpc : (getTp s t).pc = n.stop) (hl : n.isLoop = true)
    (more : n.iter + 1 < n.nMax) (body : n.start ≠ n.stop) :
    closeNests t (k + 1) s = writeIndex t n.round
      (modTp t (fun x => { x with nest := n.round :: rest, pc := n.start, next := n.round.iterStart }) s) := by
  rw [closeNests]
  simp [h, hpc, hl, more, body, Nest.round]

/-- A body that ends, its iterations run out, where its loop is the only nest. -/
theorem closeNests_end (h : (getTp s t).nest = [n]) (hpc : (getTp s t).pc = n.stop) (hl : n.isLoop = true)
    (done : n.nMax ≤ n.iter + 1 ∨ n.start = n.stop) :
    closeNests t (k + 1) s = loopLimit t n
      (modTp t (fun x => { x with nest := [], pc := n.after, next := n.issue + 2 + n.nMax * (n.bound + 1) })
        (if n.start = n.stop then writeIndex t n.last s else s)) := by
  have go : ¬ (n.iter + 1 < n.nMax ∧ n.start ≠ n.stop) := by omega
  rw [closeNests]
  simp only [h, hpc, hl, bne_self_eq_false, Bool.false_eq_true, if_false, Bool.not_true]
  rw [if_neg (by simpa using go)]
  refine closeNests_nil _ _ _ ?_
  rw [getTp_loopLimit, getTp_modTp_self]

end

theorem loopLimit_mem (t : Nat) (n : Nest) (s : State) : (loopLimit t n s).mem = s.mem := by
  unfold loopLimit
  split <;> rfl

/-- The index register of a loop holds the iteration. -/
theorem memNat_writeIndex {t : Nat} {n : Nest} {s : State} {d : Nat} (h : n.dst = some d) :
    memNat (writeIndex t n s).mem d 8 = n.iter % 2 ^ 64 := by
  simp only [writeIndex, h]
  exact memNat_memWrite s.mem d 8 n.iter

theorem ready_writeIndex {t : Nat} {n : Nest} {s : State} {d : Nat} (h : n.dst = some d) :
    tget 0 (getTp (writeIndex t n s) t).ready d = n.iterStart := by
  simp only [writeIndex, h, getTp_modTp_self, noteReady, tget_tput_self]

theorem writeIndex_none {t : Nat} {n : Nest} {s : State} (h : n.dst = none) : writeIndex t n s = s := by
  simp only [writeIndex, h]

theorem writeIndex_pc (t : Nat) (n : Nest) (s : State) : (getTp (writeIndex t n s) t).pc = (getTp s t).pc := by
  obtain ⟨r, z, e⟩ := writeIndex_tp t n s
  rw [e]

theorem writeIndex_next (t : Nat) (n : Nest) (s : State) : (getTp (writeIndex t n s) t).next = (getTp s t).next := by
  obtain ⟨r, z, e⟩ := writeIndex_tp t n s
  rw [e]

theorem writeIndex_nest (t : Nat) (n : Nest) (s : State) : (getTp (writeIndex t n s) t).nest = (getTp s t).nest := by
  obtain ⟨r, z, e⟩ := writeIndex_tp t n s
  rw [e]

section
variable {o : OpSpec} {t : Fin 128} {f : TField} {s u : State} {c : TileCtx} {cy : Nat}

theorem Issues.nest_issued (h : Issues o t f s u c cy) : (getTp (issued c cy u) c.t).nest = c.tp.nest := by
  obtain ⟨-, htp⟩ := h.tp
  rw [issued_nest, ← htp]

theorem Issues.pc_issued (h : Issues o t f s u c cy) : (getTp (issued c cy u) c.t).pc = c.tp.pc := by
  obtain ⟨-, htp⟩ := h.tp
  rw [issued_pc, ← htp]

/-- An instruction that enters or leaves arms and bodies answers with its TP as the ends of those leave it. -/
theorem nest_answer {i : Instr} {act : TileCtx → Nat → State → State} (hi : exec i s = run (issue o t f act) s)
    (h : Issues o t f s u c cy) {s2 : State} (hact : act c cy (issued c cy u) = closeNests c.t 5 s2) (htps : ∀ x, x ≠ c.t → getTp s2 x = getTp (issued c cy u) x)
    (hrest : s2 = { issued c cy u with mem := s2.mem, tps := s2.tps, ev := { (issued c cy u).ev with queue := s2.ev.queue } })
    {ds : List Nat} (hds : ∀ d ∈ loopIndexes (getTp s2 c.t), d ∈ ds) :
    ∃ s', exec i s = .next s' ∧ Stays u s' c cy ∧ (∀ x, getTp s' x = getTp (closeNests c.t 5 s2) x) ∧
      s'.mem = (closeNests c.t 5 s2).mem ∧ ∀ x, (∀ d ∈ ds, x < d ∨ d + 8 ≤ x) → memGet s'.mem x = memGet s2.mem x := by
  rw [hi, run_issue h, hact]
  exact ⟨_, rfl, closed_stays u s2 c cy htps hrest ds hds 5 _ rfl⟩

end

/-! ### TBR and LOOP -/

/-- A TP that has entered a nest, before its index is written and empty arms and bodies end. -/
def entered (c : TileCtx) (cy : Nat) (n : Nest) (u : State) : State :=
  modTp c.t (fun tp => { tp with nest := n :: tp.nest, pc := n.start, next := cy + 2 }) (issued c cy u)

section
variable {o : OpSpec} {t : Fin 128} {f : TField} {s u : State} {c : TileCtx} {cy : Nat} {n : Nest}

theorem entered_tp (c : TileCtx) (cy : Nat) (n : Nest) (u : State) :
    getTp (entered c cy n u) c.t = { getTp (issued c cy u) c.t with nest := n :: (getTp (issued c cy u) c.t).nest, pc := n.start, next := cy + 2 } := by
  rw [entered, getTp_modTp_self]

/-- Entering a nest leaves memory but its loop's index register. -/
theorem enter_answer {i : Instr} {act : TileCtx → Nat → State → State} (hi : exec i s = run (issue o t f act) s)
    (h : Issues o t f s u c cy) (hact : act c cy (issued c cy u) = closeNests c.t 5 (writeIndex c.t n (entered c cy n u))) :
    ∃ s', exec i s = .next s' ∧ Stays u s' c cy ∧
      getTp s' c.t = getTp (closeNests c.t 5 (writeIndex c.t n (entered c cy n u))) c.t ∧
      s'.mem = (closeNests c.t 5 (writeIndex c.t n (entered c cy n u))).mem ∧
      ∀ x, (∀ d ∈ n.dst.toList ++ loopIndexes c.tp, x < d ∨ d + 8 ≤ x) → memGet s'.mem x = memGet u.mem x := by
  have index := closes_writeIndex c.t n (entered c cy n u)
  have nest : (getTp (writeIndex c.t n (entered c cy n u)) c.t).nest = n :: c.tp.nest := by
    rw [writeIndex_nest, entered_tp, h.nest_issued]
  have indexes : ∀ d ∈ loopIndexes (getTp (writeIndex c.t n (entered c cy n u)) c.t), d ∈ n.dst.toList ++ loopIndexes c.tp := by
    intro d hd
    rw [loopIndexes, nest, List.filterMap_cons] at hd
    cases e : n.dst with
    | none => simpa [e, loopIndexes] using hd
    | some a => simpa [e, loopIndexes] using hd
  obtain ⟨s', hs', stays, tps, mem, bytes⟩ := nest_answer hi h hact
    (fun x hx => (index.tps x hx).trans (getTp_modTp_ne _ _ _ _ hx)) (index.rest.trans rfl) indexes
  refine ⟨s', hs', stays, tps _, mem, fun x hx => (bytes x hx).trans ?_⟩
  rw [index.bytes x fun d hd => hx d (List.mem_append_left _ hd)]
  exact congrArg (memGet · x) (issued_mem c cy u)

/-- A nest with instructions is entered. -/
theorem closeNests_entered (hn : n.start ≠ n.stop) (k : Nat) :
    closeNests c.t k (writeIndex c.t n (entered c cy n u)) = writeIndex c.t n (entered c cy n u) := by
  refine closeNests_open _ _ _ n (getTp (issued c cy u) c.t).nest ?_ ?_
  · rw [writeIndex_nest, entered_tp]
  · rw [writeIndex_pc, entered_tp]
    exact hn

end

/-- The nest of the arm that a TBR chooses. -/
def armNest (c : TileCtx) (f : TField) (cy : Nat) (taken : Bool) : Nest :=
  let (a, b, cost) := tbrArms f
  let pc := c.tp.pc
  { isLoop := false, issue := cy, start := if taken then pc + 1 else pc + 1 + a, stop := if taken then pc + 1 + a else pc + 1 + a + b
    after := pc + 1 + a + b, bound := cost, nMax := 0, iter := 0, iterStart := cy + 2, counted := true, dst := none
    thr := f.thr.toNat, codeAt := codeOffset c }

/-- The nest of a LOOP's body. -/
def bodyNest (c : TileCtx) (f : TField) (cy : Nat) : Nest :=
  let (len, nMax, cost) := loopBody f
  let pc := c.tp.pc
  { isLoop := true, issue := cy, start := pc + 1, stop := pc + 1 + len, after := pc + 1 + len, bound := cost, nMax := nMax, iter := 0
    iterStart := cy + 2, counted := bitAt f.mod.toNat 0, dst := if noOperand f.dst then none else some (opAddr c.t f.thr.toNat f.dst)
    thr := f.thr.toNat, codeAt := codeOffset c }

theorem readScalar_ne_issued (c : TileCtx) (cy : Nat) (f : TField) (u : State) :
    (readScalar (issued c cy u) c.t f.thr.toNat f.srcA != 0) = (readScalar u c.t f.thr.toNat f.srcA != 0) := by
  rw [readScalar_issued]

/-- TBR enters the nest of the arm that it chooses. -/
theorem execTbr_enters (t : Fin 128) (f : TField) (s : State) :
    execTbr t f s = run (issue tbrSpec t f fun c cy s => closeNests c.t 5 (modTp c.t (fun tp => { tp with
        nest := armNest c f cy (readScalar s c.t f.thr.toNat f.srcA != 0) :: tp.nest
        pc := (armNest c f cy (readScalar s c.t f.thr.toNat f.srcA != 0)).start, next := cy + 2 }) s)) s := by
  unfold execTbr armNest tbrArms
  dsimp only

theorem tbr_answer {t : Fin 128} {f : TField} {s u : State} {c : TileCtx} {cy : Nat} (h : Issues tbrSpec t f s u c cy) :
    let n := armNest c f cy (readScalar u c.t f.thr.toNat f.srcA != 0)
    ∃ s', exec (.tbr t f) s = .next s' ∧ Stays u s' c cy ∧ BytesBut u s' c 0 0 ∧
      getTp s' c.t = getTp (closeNests c.t 5 (entered c cy n u)) c.t := by
  intro n
  have none : writeIndex c.t n (entered c cy n u) = entered c cy n u := writeIndex_none rfl
  obtain ⟨s', hs', stays, tp, -, bytes⟩ := enter_answer (i := .tbr t f) (n := n) (execTbr_enters t f s) h
    (by rw [none, entered]; simp only [readScalar_issued]; rfl)
  refine ⟨s', hs', stays, fun x _ hx => bytes x (by simpa [n, armNest] using hx), ?_⟩
  rw [tp, none]

theorem loop_answer {t : Fin 128} {f : TField} {s u : State} {c : TileCtx} {cy : Nat} (h : Issues loopSpec t f s u c cy) :
    let n := bodyNest c f cy
    ∃ s', exec (.loop t f) s = .next s' ∧ Stays u s' c cy ∧
      getTp s' c.t = getTp (closeNests c.t 5 (writeIndex c.t n (entered c cy n u))) c.t ∧
      s'.mem = (closeNests c.t 5 (writeIndex c.t n (entered c cy n u))).mem ∧
      ∀ x, (∀ d ∈ n.dst.toList ++ loopIndexes c.tp, x < d ∨ d + 8 ≤ x) → memGet s'.mem x = memGet u.mem x := by
  intro n
  exact enter_answer (i := .loop t f) (n := n) rfl h rfl

/-- The end of an empty body, whose iterations run out at once. -/
theorem closeNests_empty {c : TileCtx} {cy : Nat} {n : Nest} {u : State} (hl : n.isLoop = true) (hempty : n.start = n.stop)
    (hn : (getTp (issued c cy u) c.t).nest = []) :
    closeNests c.t 5 (writeIndex c.t n (entered c cy n u)) = loopLimit c.t n
      (modTp c.t (fun x => { x with nest := [], pc := n.after, next := n.issue + 2 + n.nMax * (n.bound + 1) })
        (writeIndex c.t n.last (writeIndex c.t n (entered c cy n u)))) := by
  rw [closeNests_end (n := n) ?_ ?_ hl (.inr hempty), if_pos hempty]
  · rw [writeIndex_nest, entered_tp, hn]
  · rw [writeIndex_pc, entered_tp]
    exact hempty

/-! ### BRK -/

theorem innerLoop_of_any (ns : List Nest) (h : ns.any (fun n => n.isLoop) = true) : ∃ n rest, innerLoop ns = some (n, rest) := by
  induction ns with
  | nil => simp at h
  | cons n ns ih =>
    cases hl : n.isLoop with
    | true => exact ⟨n, ns, by simp [innerLoop, hl]⟩
    | false =>
      obtain ⟨m, rest, e⟩ := ih (by simpa [hl] using h)
      exact ⟨m, rest, by simp [innerLoop, hl, e]⟩

theorem innerLoop_suffix {ns : List Nest} {n : Nest} {rest : List Nest} (h : innerLoop ns = some (n, rest)) : rest <:+ ns := by
  induction ns with
  | nil => simp [innerLoop] at h
  | cons m ns ih =>
    rw [innerLoop] at h
    split at h
    · cases h
      exact List.suffix_cons _ _
    · exact (ih h).trans (List.suffix_cons _ _)

/-- A BRK that issues is inside a loop (R95). -/
theorem Issues.inner_loop {t : Fin 128} {f : TField} {s u : State} {c : TileCtx} {cy : Nat} (h : Issues brkSpec t f s u c cy) :
    ∃ n rest, innerLoop c.tp.nest = some (n, rest) := by
  refine innerLoop_of_any _ ?_
  have passes := h.passes
  unfold laterReason at passes
  split at passes
  · cases passes
  · next inside => simpa [brkSpec] using inside

/-- BRK leaves the innermost loop, whose cost stays fixed. -/
theorem brk_answer {t : Fin 128} {f : TField} {s u : State} {c : TileCtx} {cy : Nat} (h : Issues brkSpec t f s u c cy)
    (hz : readScalar u c.t f.thr.toNat f.srcA ≠ 0) {n : Nest} {rest : List Nest} (hn : innerLoop c.tp.nest = some (n, rest)) :
    ∃ s', exec (.brk t f) s = .next s' ∧ BytesBut u s' c 0 0 ∧ Stays u s' c cy ∧
      getTp s' c.t = getTp (closeNests c.t 5 (modTp c.t (fun tp => { tp with
        nest := rest, pc := n.after, next := n.issue + 2 + n.nMax * (n.bound + 1) }) (issued c cy u))) c.t := by
  have indexes : ∀ d ∈ rest.filterMap (·.dst), d ∈ loopIndexes c.tp := by
    intro d hd
    exact ((innerLoop_suffix hn).sublist.filterMap _).subset hd
  obtain ⟨s', hs', stays, tps, -, bytes⟩ := nest_answer (i := .brk t f) (ds := loopIndexes c.tp) rfl h
    (s2 := modTp c.t (fun tp => { tp with nest := rest, pc := n.after, next := n.issue + 2 + n.nMax * (n.bound + 1) }) (issued c cy u))
    (by simp only [readScalar_issued, hz, if_false, hn]) (fun x hx => getTp_modTp_ne _ _ _ _ hx) rfl
    (by rw [loopIndexes, getTp_modTp_self]; exact indexes)
  exact ⟨s', hs', fun x _ hx => (bytes x hx).trans (congrArg (memGet · x) (issued_mem c cy u)), stays, tps _⟩

/-! ### The last instruction of an arm or body -/

/-- The answer of a NOP. -/
theorem nop_answer {t : Fin 128} {f : TField} {s u : State} {c : TileCtx} {cy : Nat} (h : Issues plainSpec t f s u c cy) :
    ∃ s', exec (.nop t f) s = .next s' ∧ Stays u s' c cy ∧ getTp s' c.t = getTp (retire c.t (cy + 1) (issued c cy u)) c.t ∧
      s'.mem = (retire c.t (cy + 1) (issued c cy u)).mem := by
  obtain ⟨-, htp⟩ := h.tp
  obtain ⟨stays, -⟩ := retired_stays u _ c cy (cy + 1) htp (acts_refl c _) _ rfl
  exact ⟨_, run_issue h _, stays, by simp [getTp], by simp⟩

/-- Settles O4, by what entering, ending and leaving a nest do. -/
theorem branchesAndLoops : Obligations.BranchesAndLoops := by
  unfold Obligations.BranchesAndLoops
  refine ⟨fun t f s u c cy h => ?_, fun t f s u c cy h => ?_, fun t f s u c cy n h hn hpc => ?_, fun t f s u c cy h => ⟨fun hz => ?_, fun hz => ?_⟩⟩
  · intro thn els pc yes
    obtain ⟨s', hs', stays, bytes, tp⟩ := tbr_answer h
    refine ⟨s', hs', bytes, stays, fun start stop arm => ?_⟩
    generalize hn : armNest c f cy (readScalar u c.t f.thr.toNat f.srcA != 0) = n at tp
    have chosen : n.start = start ∧ n.stop = stop := by
      rw [← hn]
      rcases arm with ⟨hyes, rfl, rfl⟩ | ⟨hno, rfl, rfl⟩ <;> simp_all [armNest, tbrArms, yes, pc, thn, els]
    have fixed : n.isLoop = false ∧ n.issue = cy ∧ n.after = pc + 1 + thn + els ∧ n.bound = bits f.imm.toNat 32 32 ∧ n.dst = none := by
      rw [← hn]
      exact ⟨rfl, rfl, rfl, rfl, rfl⟩
    obtain ⟨rfl, rfl⟩ := chosen
    obtain ⟨arm, issue, after, bound, dst⟩ := fixed
    have nest := entered_tp c cy n u
    refine ⟨fun go => ?_, fun empty hnest => ?_⟩
    · have open_ := closeNests_entered (c := c) (cy := cy) (u := u) go 5
      rw [writeIndex_none dst] at open_
      rw [tp, open_, nest]
      exact ⟨rfl, rfl, n, by rw [h.nest_issued], arm, issue, rfl, after, bound⟩
    · rw [closeNests_arm (n := n) (rest := []) (by rw [nest, h.nest_issued, hnest]) (by rw [nest]; exact empty) arm,
        closeNests_nil _ _ _ (by rw [getTp_modTp_self]), getTp_modTp_self] at tp
      rw [tp, ← after, ← bound, issue]
      exact ⟨rfl, rfl, rfl⟩
  · intro len n cost d
    obtain ⟨-, -, -, range⟩ := staticReason_zero h.accepted
    obtain ⟨s', hs', stays, tp, mem, bytes⟩ := loop_answer h
    have iters : 0 < n := Nat.pos_of_ne_zero (by simpa [loopSpec, loopBody] using range)
    have dst (hd : noOperand f.dst = false) : (bodyNest c f cy).dst = some d := by simp [bodyNest, hd, d]
    refine ⟨iters, s', hs', stays, fun hd => ?_, fun hd => ?_, fun hlen => ?_, fun hlen hnest => ?_⟩
    · refine fun x _ hx => bytes x ?_
      simpa [bodyNest, hd] using hx
    · refine fun x hx hxs => bytes x ?_
      rw [dst hd]
      rintro y hy
      rcases List.mem_append.1 hy with hy | hy
      · simp at hy
        omega
      · exact hxs y hy
    · have body : (bodyNest c f cy).start ≠ (bodyNest c f cy).stop := by
        change c.tp.pc + 1 ≠ c.tp.pc + 1 + len
        omega
      rw [closeNests_entered body] at tp mem
      rw [tp, writeIndex_pc, writeIndex_next, writeIndex_nest, entered_tp, h.nest_issued, mem]
      exact ⟨rfl, rfl, fun hd => ⟨memNat_writeIndex (dst hd), ready_writeIndex (dst hd)⟩, _, rfl, rfl, rfl, rfl, rfl, rfl, rfl, rfl, rfl, rfl⟩
    · have empty : (bodyNest c f cy).start = (bodyNest c f cy).stop := by
        change c.tp.pc + 1 = c.tp.pc + 1 + len
        omega
      rw [closeNests_empty rfl empty (by rw [h.nest_issued, hnest])] at tp mem
      rw [getTp_loopLimit, getTp_modTp_self] at tp
      rw [loopLimit_mem] at mem
      refine ⟨by rw [tp]; exact empty.symm, by rw [tp]; rfl, by rw [tp], fun hd => ?_⟩
      have lim : n < 2 ^ 16 := bits_lt _ _ _
      rw [mem]
      refine (memNat_writeIndex (n := (bodyNest c f cy).last) (dst hd)).trans ?_
      exact Nat.mod_eq_of_lt (show n - 1 < 2 ^ 64 by omega)
  · obtain ⟨s', hs', stays, tp, mem⟩ := nop_answer h
    have nest : (getTp (modTp c.t (fun x => { x with pc := x.pc + 1, next := cy + 1 }) (issued c cy u)) c.t).nest = [n] := by
      rw [getTp_modTp_self, h.nest_issued, hn]
    have pc : (getTp (modTp c.t (fun x => { x with pc := x.pc + 1, next := cy + 1 }) (issued c cy u)) c.t).pc = n.stop := by
      rw [getTp_modTp_self, h.pc_issued, hpc]
    refine ⟨s', hs', stays, fun arm => ?_, fun loop body => ⟨fun more => ?_, fun done => ?_⟩⟩
    · rw [retire, closeNests_arm nest pc arm, closeNests_nil _ _ _ (by rw [getTp_modTp_self]), getTp_modTp_self] at tp
      rw [tp]
      exact ⟨rfl, rfl, rfl⟩
    · rw [retire, closeNests_round nest pc loop more body] at tp mem
      rw [tp, writeIndex_pc, writeIndex_next, getTp_modTp_self, mem]
      exact ⟨rfl, rfl, fun d hd => memNat_writeIndex (n := n.round) hd⟩
    · rw [retire, closeNests_end nest pc loop (.inl done), if_neg body, getTp_loopLimit, getTp_modTp_self] at tp
      rw [tp]
      exact ⟨rfl, rfl, rfl⟩
  · exact retire_advanced h (by simp [hz])
  · obtain ⟨n, rest, hn⟩ := h.inner_loop
    obtain ⟨s', hs', bytes, stays, tp⟩ := brk_answer h hz hn
    refine ⟨n, rest, hn, s', hs', bytes, stays, fun hrest => ?_⟩
    rw [closeNests_nil _ _ _ (by rw [getTp_modTp_self]; exact hrest), getTp_modTp_self] at tp
    rw [tp]
    exact ⟨rfl, rfl, hrest⟩

end Sys2Proof.Machine
end

section
/-! PROOFS. CSYNC and RDV (R48, R87, R88). -/

namespace Sys2Proof.Machine

/-! ### What the collector leaves, row by row -/

@[simp] theorem getTp_collect (s : State) (x : Nat) : getTp (collect s) x = getTp s x := by simp [getTp]
@[simp] theorem getJob_collect (s : State) (j : Nat) : getJob (collect s) j = getJob s j := by simp [getJob]

/-- A TP after an answer. -/
theorem getTp_answer (p : List Instr) (s : State) (x : Nat) : getTp { collect s with pending := p } x = getTp s x := getTp_collect s x

/-- A job after an answer. -/
theorem getJob_answer (p : List Instr) (s : State) (j : Nat) : getJob { collect s with pending := p } j = getJob s j := getJob_collect s j

/-- The answer of an effect, against the state before it. -/
theorem answer_reported (p : List Instr) (s : State) :
    ({ collect s with pending := p } : State) = { reported s { collect s with pending := p } with pending := p } :=
  run_reported (fun _ => s) { s with pending := p } _ rfl

/-- What an effect on TPs and jobs leaves of the rest, collected. -/
theorem answer_tps_jobs {s u s' : State} (h : s = { u with tps := s.tps, jobs := s.jobs })
    (hs : s' = { collect s with pending := u.pending }) : s' = { reported u s' with tps := s'.tps, jobs := s'.jobs } := by
  have own : s' = { reported s s' with pending := u.pending } := by
    rw [hs]
    exact answer_reported u.pending s
  have tps : s'.tps = s.tps := by rw [hs]; exact collect_tps s
  have jobs : s'.jobs = s.jobs := by rw [hs]; exact collect_jobs s
  rw [tps, jobs]
  exact own.trans (congrArg (fun y : State => { reported y s' with pending := u.pending }) h)

/-- A fold none of whose steps does anything. -/
theorem foldl_fixed {α β : Type} (g : β → α → β) (xs : List α) (s : β) (h : ∀ x ∈ xs, g s x = s) : xs.foldl g s = s := by
  induction xs with
  | nil => rfl
  | cons x xs ih => rw [List.foldl_cons, h x (by simp), ih fun y hy => h y (by simp [hy])]

/-! ### CSYNC -/

/-- The state in which a CSYNC has arrived, before it releases anyone. -/
def arrived (c : TileCtx) (cy id m thr : Nat) (u : State) : State :=
  modTp c.t (fun tp => { tp with wait := some (.csync id cy m thr) })
    (modRun c.slot (fun r => { r with syncs := r.syncs ++ [(id, c.t, cy)] }) (issued c cy u))

section
variable {t : Fin 128} {f : TField} {s u : State} {c : TileCtx} {cy id m thr : Nat}

theorem csyncMask_issued (c : TileCtx) (cy : Nat) (f : TField) (u : State) : csyncMask (issued c cy u) c.t f = csyncMask u c.t f := by
  simp [csyncMask]

/-- A CSYNC arrives, and releases its waiters where it is the last. -/
theorem csync_answer (h : Issues csyncSpec t f s u c cy) :
    exec (.csync t f) s = .next { collect (csyncRelease c.slot (bits f.imm.toNat 0 16)
      (arrived c cy (bits f.imm.toNat 0 16) (csyncMask u c.t f) f.thr.toNat u)) with pending := u.pending } := by
  rw [← csyncMask_issued c cy f u]
  exact run_issue h _

theorem arrived_other (x : Nat) (hx : x ≠ c.t) : getTp (arrived c cy id m thr u) x = getTp u x := by
  rw [arrived, getTp_modTp_ne _ _ _ _ hx]
  exact issued_other c cy x u hx

theorem arrived_wait : (getTp (arrived c cy id m thr u) c.t).wait = some (.csync id cy m thr) := by
  rw [arrived, getTp_modTp_self]

theorem arrived_syncs (j i x a : Nat) (hj : j = c.slot) :
    Synced (arrived c cy id m thr u) j i x a ↔ Synced u j i x a ∨ (i = id ∧ x = c.t ∧ a = cy) := by
  subst hj
  have cycles : (getJob (issued c cy u) c.slot).run.syncs = (getJob u c.slot).run.syncs := by
    have same : getJob (issued c cy u) c.slot = getJob (noteCycle c.slot cy u) c.slot := by
      rw [getJob, issued_rest]
      rfl
    rw [same, noteCycle, getJob_modRun_self]
  have grown : (getJob (arrived c cy id m thr u) c.slot).run.syncs = (getJob u c.slot).run.syncs ++ [(id, c.t, cy)] := by
    have same : getJob (arrived c cy id m thr u) c.slot =
        getJob (modRun c.slot (fun r => { r with syncs := r.syncs ++ [(id, c.t, cy)] }) (issued c cy u)) c.slot := rfl
    rw [same, getJob_modRun_self, cycles]
  simp [Synced, grown]

theorem arrived_job (j : Nat) (hj : j ≠ c.slot) : getJob (arrived c cy id m thr u) j = getJob u j := by
  have cycles : getJob (issued c cy u) j = getJob u j := by
    have same : getJob (issued c cy u) j = getJob (noteCycle c.slot cy u) j := by
      rw [getJob, issued_rest]
      rfl
    rw [same, noteCycle, getJob_modRun_ne _ _ _ _ hj]
  exact (getJob_modRun_ne _ _ (fun r => { r with syncs := r.syncs ++ [(id, c.t, cy)] }) (issued c cy u) hj).trans cycles

theorem arrived_rest : arrived c cy id m thr u =
    { u with tps := (arrived c cy id m thr u).tps, jobs := (arrived c cy id m thr u).jobs } := by
  rw [arrived]
  exact congrArg (fun y : State => { y with
    tps := (arrived c cy id m thr u).tps, jobs := (arrived c cy id m thr u).jobs }) (issued_rest c cy u)

/-- The job of a tile that has begun is the one that its TP runs. -/
theorem Issues.runs {o : OpSpec} (h : Issues o t f s u c cy) : c.tp.tile = some c.tile ∧ tpRuns c.slot c.tp = true := by
  have tile := h.tile
  unfold tileCtx at tile
  dsimp only at tile
  split at tile
  · cases tile
  · next r hr =>
    split at tile
    · cases tile
    · cases tile
      exact ⟨hr, by simp [tpRuns, hr]⟩

theorem tpRuns_issued (j : Nat) : tpRuns j (getTp (issued c cy u) c.t) = tpRuns j (getTp u c.t) := by
  obtain ⟨g, e⟩ := passCeiling_tp c cy u
  rw [issued, getTp_modTp_self, getTp_noteCycle, e]
  cases h : (getTp u c.t).tile <;> simp [tpRuns, h]

theorem arrived_runs {o : OpSpec} (h : Issues o t f s u c cy) : tpRuns c.slot (getTp (arrived c cy id m thr u) c.t) = true := by
  obtain ⟨-, htp⟩ := h.tp
  obtain ⟨-, runs⟩ := h.runs
  have same : tpRuns c.slot (getTp (arrived c cy id m thr u) c.t) = tpRuns c.slot (getTp (issued c cy u) c.t) := by
    rw [arrived, getTp_modTp_self]
    rfl
  rw [same, tpRuns_issued, ← htp, runs]

end

/-! ### Who waits, and who has arrived -/

theorem mem_csyncWaiters (s : State) (j id x mask thr : Nat) :
    (x, mask, thr) ∈ csyncWaiters s j id ↔
      x < 128 ∧ (∃ a, (getTp s x).wait = some (.csync id a mask thr)) ∧ tpRuns j (getTp s x) = true := by
  simp only [csyncWaiters, List.mem_filterMap, upFrom_eq_range, List.mem_range'_1]
  constructor
  · rintro ⟨y, hy, hw⟩
    split at hw
    · next i a k r e =>
      split at hw
      · next hc =>
        cases hw
        simp only [Bool.and_eq_true, beq_iff_eq] at hc
        obtain ⟨rfl, runs⟩ := hc
        exact ⟨by omega, ⟨_, e⟩, runs⟩
      · cases hw
    · cases hw
  · rintro ⟨hx, ⟨a, e⟩, runs⟩
    exact ⟨x, by omega, by simp [e, runs]⟩

/-- What is found at some elements, each under its own name, lies in their order. -/
theorem filterMap_sublist {α β : Type} (f : α → Option β) (g : β → α) (h : ∀ x w, f x = some w → g w = x) (xs : List α) :
    ((xs.filterMap f).map g).Sublist xs := by
  induction xs with
  | nil => exact .slnil
  | cons x xs ih =>
    rw [List.filterMap_cons]
    split
    · exact ih.cons x
    · next w hw =>
      rw [List.map_cons, h x w hw]
      exact ih.cons_cons x

theorem csyncWaiters_nodup (s : State) (j id : Nat) : ((csyncWaiters s j id).map (·.1)).Nodup := by
  rw [csyncWaiters, upFrom_eq_range]
  refine List.Nodup.sublist (filterMap_sublist _ _ (fun x w hw => ?_) _) List.nodup_range'
  split at hw
  · split at hw
    · cases hw
      rfl
    · cases hw
  · cases hw

theorem mem_csyncIssues (s : State) (j id mask x a : Nat) :
    (x, a) ∈ csyncIssues s j id mask ↔ Synced s j id x a ∧ mask.testBit x = true := by
  simp only [csyncIssues, Synced, bitAt, List.mem_map, List.mem_filter, Bool.and_eq_true, beq_iff_eq]
  constructor
  · rintro ⟨⟨i, y, b⟩, ⟨listed, rfl, member⟩, e⟩
    cases e
    exact ⟨listed, member⟩
  · rintro ⟨listed, member⟩
    exact ⟨(id, x, a), ⟨listed, rfl, member⟩, rfl⟩

/-! ### The release -/

/-- A TP that goes on after a CSYNC. -/
def goOn (cy : Nat) (tp : Tp) : Tp := { tp with wait := none, pc := tp.pc + 1, next := cy }

/-- A TP outside arms and bodies that is resumed goes on at its next instruction. -/
theorem resume_outside {t thr cy : Nat} {s : State} (h : (getTp s t).nest = []) : resume t thr cy s = modTp t (goOn cy) s := by
  have none : deadline (getTp s t) = none := by simp [deadline, h]
  have away : (getTp (modTp t (fun x => { x with wait := Option.none }) s) t).nest = [] := by rw [getTp_modTp_self, h]
  have on : retire t cy (modTp t (fun x => { x with wait := Option.none }) s) = modTp t (goOn cy) s := by
    rw [retire_steps _ _ _ away, modTp_modTp]
    rfl
  cases tile : (getTp s t).tile <;> simp [resume, none, on, tile]

/-- Some TPs, each another, that go on. -/
theorem getTp_foldl_goOn (cy : Nat) (ws : List (Nat × Nat × Nat)) (h : (ws.map (·.1)).Nodup) (s : State) (x : Nat) :
    getTp (ws.foldl (fun s w => modTp w.1 (goOn cy) s) s) x = if x ∈ ws.map (·.1) then goOn cy (getTp s x) else getTp s x := by
  induction ws generalizing s with
  | nil => simp
  | cons w ws ih =>
    obtain ⟨fresh, rest⟩ := List.nodup_cons.1 h
    rw [List.foldl_cons, ih rest]
    by_cases e : x = w.1
    · subst e
      rw [if_neg fresh, getTp_modTp_self]
      exact (if_pos (List.mem_cons_self ..)).symm
    · rw [getTp_modTp_ne _ _ _ _ e]
      exact ite_of_iff (by rw [List.map_cons, List.mem_cons, or_iff_right e]) rfl rfl

/-- A CSYNC whose members have all arrived releases its waiters. -/
theorem csyncRelease_all {s : State} {j id m : Nat} (hm : ∀ w ∈ csyncWaiters s j id, w.2.1 = m)
    (hn : ∀ w ∈ csyncWaiters s j id, (getTp s w.1).nest = [])
    (hall : (maskBits 128 m).all (fun x => (csyncIssues s j id m).any fun y => y.1 == x) = true) :
    csyncRelease j id s =
      (csyncWaiters s j id).foldl (fun v w => modTp w.1 (goOn (maxNat ((csyncIssues s j id m).map (·.2)) + 4)) v) s := by
  have steps (ws : List (Nat × Nat × Nat)) (hw : ∀ w ∈ ws, w.2.1 = m) (v : State) (hj : v.jobs = s.jobs)
      (hv : ∀ w ∈ ws, (getTp v w.1).nest = []) :
      ws.foldl (fun s w =>
        let xs := csyncIssues s j id w.2.1
        if (maskBits 128 w.2.1).all fun m => xs.any fun x => x.1 == m then resume w.1 w.2.2 (maxNat (xs.map (·.2)) + 4) s else s) v =
      ws.foldl (fun v w => modTp w.1 (goOn (maxNat ((csyncIssues s j id m).map (·.2)) + 4)) v) v := by
    induction ws generalizing v with
    | nil => rfl
    | cons w ws ih =>
      have issues : csyncIssues v j id m = csyncIssues s j id m := by rw [csyncIssues, csyncIssues, getJob, getJob, hj]
      have mask : w.2.1 = m := hw w (by simp)
      rw [List.foldl_cons, List.foldl_cons]
      simp only [mask, issues, hall, if_true]
      rw [resume_outside (hv w (by simp))]
      refine ih (fun w h => hw w (by simp [h])) _ hj fun w' h => ?_
      by_cases e : w'.1 = w.1
      · rw [e, getTp_modTp_self]
        exact hv w (by simp)
      · rw [getTp_modTp_ne _ _ _ _ e]
        exact hv w' (by simp [h])
  rw [csyncRelease]
  exact (steps _ hm s rfl hn)

theorem goOn_mem (cy : Nat) (ws : List (Nat × Nat × Nat)) (s : State) : (ws.foldl (fun s w => modTp w.1 (goOn cy) s) s).mem = s.mem := by
  induction ws generalizing s with
  | nil => rfl
  | cons w ws ih => rw [List.foldl_cons, ih]; rfl

/-- A CSYNC that is not the last arrival waits. -/
theorem csync_waits {f : TField} {u : State} {c : TileCtx} {cy x : Nat} (hx : x < 128) (hm : (csyncMask u c.t f).testBit x = true) (hxc : x ≠ c.t)
    (missing : ∀ a, ¬ Synced u c.slot (bits f.imm.toNat 0 16) x a)
    (alone : ∀ y mask a, ¬ InBarrier u c.slot (bits f.imm.toNat 0 16) mask y a) :
    csyncRelease c.slot (bits f.imm.toNat 0 16) (arrived c cy (bits f.imm.toNat 0 16) (csyncMask u c.t f) f.thr.toNat u) =
      arrived c cy (bits f.imm.toNat 0 16) (csyncMask u c.t f) f.thr.toNat u := by
  refine foldl_fixed _ _ _ ?_
  rintro ⟨y, mask, thr⟩ hw
  obtain ⟨-, ⟨a, wait⟩, runs⟩ := (mem_csyncWaiters _ _ _ _ _ _).1 hw
  by_cases hy : y = c.t
  · subst hy
    rw [arrived_wait] at wait
    cases wait
    dsimp only
    rw [if_neg]
    intro hall
    have there := List.all_eq_true.1 hall x (by simp [maskBits, upFrom_eq_range, hx, bitAt, hm])
    obtain ⟨⟨z, b⟩, hz, same⟩ := List.any_eq_true.1 there
    obtain rfl : z = x := by simpa using same
    rcases (arrived_syncs _ _ _ _ rfl).1 ((mem_csyncIssues _ _ _ _ _ _).1 hz).1 with synced | ⟨-, self, -⟩
    · exact missing b synced
    · exact hxc self
  · rw [arrived_other y hy] at wait runs
    exact absurd ⟨thr, wait, runs⟩ (alone y mask a)

/-- What an instruction that issues passes of R95, reasons 5 to 7. -/
theorem laterReason_zero {o : OpSpec} {s : State} {c : TileCtx} {f : TField} (h : laterReason o s c f = 0) :
    o.bad5 c f = false ∧ o.bad6 s c f = false ∧ o.bad7 s c f = false := by
  unfold laterReason at h
  split at h; · cases h
  split at h; · cases h
  split at h; · cases h
  simp_all

/-- A TP of a CSYNC is in its own mask (R95). -/
theorem Issues.in_mask {t : Fin 128} {f : TField} {s u : State} {c : TileCtx} {cy : Nat} (h : Issues csyncSpec t f s u c cy) :
    (csyncMask u c.t f).testBit c.t = true := by
  obtain ⟨-, -, ok⟩ := laterReason_zero h.passes
  have ok' : csyncBad u c f = false := ok
  simp only [csyncBad, bitAt, Bool.or_eq_false_iff, Bool.not_eq_false'] at ok'
  exact ok'.1

theorem maxNat_eq {xs : List Nat} {m : Nat} (hm : m ∈ xs) (hle : ∀ x ∈ xs, x ≤ m) : maxNat xs = m := by
  have le (ys : List Nat) (n : Nat) (h : ∀ y ∈ ys, y ≤ n) : maxNat ys ≤ n := by
    induction ys with
    | nil => exact Nat.zero_le n
    | cons y ys ih => exact Nat.max_le.2 ⟨h y (by simp), ih fun z hz => h z (by simp [hz])⟩
  have ge (ys : List Nat) (y : Nat) (h : y ∈ ys) : y ≤ maxNat ys := by
    induction ys with
    | nil => simp at h
    | cons z ys ih =>
      rcases List.mem_cons.1 h with rfl | h
      · exact Nat.le_max_left _ _
      · exact Nat.le_trans (ih h) (Nat.le_max_right _ _)
  exact Nat.le_antisymm (le xs m hle) (ge xs m hm)

section
variable {t : Fin 128} {f : TField} {s u : State} {c : TileCtx} {cy id m thr : Nat} (h : Issues csyncSpec t f s u c cy)
include h

theorem arrived_pc (x : Nat) : (getTp (arrived c cy id m thr u) x).pc = (getTp s x).pc := by
  have same : getTp u x = getTp s x := by rw [getTp, readied_rest h.at_]; rfl
  by_cases hx : x = c.t
  · subst hx
    rw [arrived, getTp_modTp_self]
    exact (issued_pc c cy u).trans (congrArg Tp.pc same)
  · rw [arrived_other x hx, same]

theorem arrived_nest : (getTp (arrived c cy id m thr u) c.t).nest = c.tp.nest := by
  rw [arrived, getTp_modTp_self]
  exact h.nest_issued

section
variable (others : ∀ x, x < 128 → m.testBit x = true → x ≠ c.t →
    (getTp u x).nest = [] ∧ ∃ a, InBarrier u c.slot id m x a ∧ Synced u c.slot id x a)
  (waiters : ∀ y mask a, InBarrier u c.slot id mask y a → mask = m ∧ m.testBit y = true) (own : m.testBit c.t = true)
include others waiters own

/-- Where the last member arrives, those that wait wait with its mask, are members, and are outside arms and bodies. -/
theorem waiter_of_last {y mask thr' : Nat} (nest : c.tp.nest = []) (hw : (y, mask, thr') ∈ csyncWaiters (arrived c cy id m thr u) c.slot id) :
    mask = m ∧ m.testBit y = true ∧ (getTp (arrived c cy id m thr u) y).nest = [] := by
  obtain ⟨hy, ⟨a, wait⟩, runs⟩ := (mem_csyncWaiters _ _ _ _ _ _).1 hw
  by_cases e : y = c.t
  · subst e
    rw [arrived_wait] at wait
    cases wait
    exact ⟨rfl, own, by rw [arrived_nest h, nest]⟩
  · rw [arrived_other y e] at wait runs ⊢
    obtain ⟨rfl, member⟩ := waiters y mask a ⟨thr', wait, runs⟩
    exact ⟨rfl, member, (others y hy member e).1⟩

omit waiters own in
/-- Where the last member arrives, every member waits. -/
theorem member_waits {x : Nat} (hx : x < 128) (hm : m.testBit x = true) :
    ∃ w ∈ csyncWaiters (arrived c cy id m thr u) c.slot id, w.1 = x := by
  by_cases e : x = c.t
  · subst e
    exact ⟨_, (mem_csyncWaiters _ _ _ c.t m thr).2 ⟨hx, ⟨cy, arrived_wait⟩, arrived_runs h⟩, rfl⟩
  · obtain ⟨-, a, ⟨thr', wait, runs⟩, -⟩ := others x hx hm e
    rw [← arrived_other (cy := cy) (id := id) (m := m) (thr := thr) x e] at wait runs
    exact ⟨_, (mem_csyncWaiters _ _ _ x m thr').2 ⟨hx, ⟨a, wait⟩, runs⟩, rfl⟩

omit h waiters own in
/-- Where the last member arrives, every member has issued its CSYNC. -/
theorem member_issued {x : Nat} (hx : x < 128) (hm : m.testBit x = true) :
    ∃ y ∈ csyncIssues (arrived c cy id m thr u) c.slot id m, y.1 = x := by
  by_cases e : x = c.t
  · exact ⟨(x, cy), (mem_csyncIssues _ _ _ _ _ _).2 ⟨(arrived_syncs _ _ _ _ rfl).2 (.inr ⟨rfl, e, rfl⟩), hm⟩, rfl⟩
  · obtain ⟨-, a, -, synced⟩ := others x hx hm e
    exact ⟨(x, a), (mem_csyncIssues _ _ _ _ _ _).2 ⟨(arrived_syncs _ _ _ _ rfl).2 (.inl synced), hm⟩, rfl⟩

omit h others waiters in
theorem latest_issue {latest : Nat} (bound : ∀ x a, m.testBit x = true → Synced u c.slot id x a → a ≤ latest) (hcy : cy ≤ latest)
    (reached : latest = cy ∨ ∃ x, m.testBit x = true ∧ Synced u c.slot id x latest) :
    maxNat ((csyncIssues (arrived c cy id m thr u) c.slot id m).map (·.2)) = latest := by
  refine maxNat_eq ?_ fun a ha => ?_
  · rcases reached with rfl | ⟨x, hx, synced⟩
    · exact List.mem_map.2 ⟨(c.t, latest), (mem_csyncIssues _ _ _ _ _ _).2 ⟨(arrived_syncs _ _ _ _ rfl).2 (.inr ⟨rfl, rfl, rfl⟩), own⟩, rfl⟩
    · exact List.mem_map.2 ⟨(x, latest), (mem_csyncIssues _ _ _ _ _ _).2 ⟨(arrived_syncs _ _ _ _ rfl).2 (.inl synced), hx⟩, rfl⟩
  · obtain ⟨⟨x, b⟩, hb, rfl⟩ := List.mem_map.1 ha
    obtain ⟨synced, hx⟩ := (mem_csyncIssues _ _ _ _ _ _).1 hb
    rcases (arrived_syncs _ _ _ _ rfl).1 synced with synced | ⟨-, -, rfl⟩
    · exact bound x b hx synced
    · exact hcy

end
end

/-! ### RDV -/

theorem enqueue_links (n : Nat) (x : TxFrame) (s : State) : enqueue n x s = { s with links := (enqueue n x s).links } := rfl

theorem sendColl_links (p prog dir stage off : Nat) (data : List Byte) (s : State) :
    sendColl p prog dir stage off data s = { s with links := (sendColl p prog dir stage off data s).links } := by
  unfold sendColl
  split <;> rfl

/-- A fold whose steps change the links alone. -/
theorem foldl_links {β : Type} (g : State → β → State) (hg : ∀ s x, g s x = { s with links := (g s x).links }) (xs : List β) (s : State) :
    xs.foldl g s = { s with links := (xs.foldl g s).links } := by
  induction xs generalizing s with
  | nil => rfl
  | cons x xs ih => rw [List.foldl_cons, ih, hg s x]

theorem sendHalf_links (p prog dir stage addr n : Nat) (s : State) :
    sendHalf p prog dir stage addr n s = { s with links := (sendHalf p prog dir stage addr n s).links } :=
  foldl_links _ (fun _ _ => sendColl_links ..) _ _

/-- The start of a program queues frames, and changes nothing else. -/
theorem startColl_links (p prog : Nat) (m : Movement) (c : Coll) (s : State) :
    startColl p prog m c s = { s with links := (startColl p prog m c s).links } := by
  unfold startColl
  dsimp only
  split
  · rfl
  · rw [sendHalf_links, sendHalf_links _ _ 0]

/-- A TP that waits in an RDV of a window of `n` cycles, charged at once (R48, R88). -/
def rdvWaits (prog from_ cy thr n : Nat) (tp : Tp) : Tp :=
  { tp with
    wait := some (.rdv prog from_ cy thr)
    tile := tp.tile.map fun r => { r with ceilEnd := r.ceilEnd - (n : Int) } }

/-- A program that an RDV of a window runs. -/
def rdvRuns (t now w : Nat) (x : CollRun) : CollRun := { x with running := true, tp := t, from_ := now, window := w }

/-- The state in which an RDV waits, with no frame sent. -/
def rdvState (c : TileCtx) (prog cy thr : Nat) (s u : State) : State :=
  modRun c.slot (fun r => { r with colls := tmod {} r.colls prog (rdvRuns c.t s.clk.fleet c.hdr.rvWindow) })
    (modTp c.t (rdvWaits prog s.clk.fleet cy thr (c.hdr.rvWindow * beatCycles s)) (issued c cy u))

/-- A program that holds no data begins: its frames are queued, and no frame of it counts as dropped. -/
theorem enterColl_fresh {s : State} {j prog : Nat} (h : (tget {} (getJob s j).run.colls prog).held = []) (m : Movement) (c : Coll) :
    enterColl j prog m c s = startColl (jobPart (getJob s j)) prog m c
      { modRun j (fun r => { r with colls := tmod {} r.colls prog fun x => { x with held := [] } }) s with
        net.dropped := s.net.dropped.filter fun x => x != (1, prog) } := by
  simp only [enterColl, h, List.foldl_nil]

section
variable {t : Fin 128} {f : TField} {s u : State} {c : TileCtx} {cy prog thr : Nat} (h : Issues rdvSpec t f s u c cy)
include h

theorem issued_tp_early (early : (cy : Int) < movedEnd c) : getTp (issued c cy u) c.t = { c.tp with stalled := none } := by
  have past : decide (movedEnd c ≤ cy) = false := decide_eq_false (Int.not_le.2 early)
  have still : passCeiling c cy u = u := by simp [passCeiling, past]
  obtain ⟨-, htp⟩ := h.tp
  rw [issued, getTp_modTp_self, getTp_noteCycle, still, ← htp]

theorem rdv_answer (hfence : (neighbours s).any (isFenced s) = false) (hrun : s.ring.fenceFail = false)
    (hlate : ((cy + c.hdr.rvWindow * beatCycles s : Nat) : Int) < movedEnd c) :
    exec (.rdv t f) s = .next { collect (enterColl c.slot (bits f.imm.toNat 0 16) c.mov ((c.mov.colls[bits f.imm.toNat 0 16]?).getD {})
      (rdvState c (bits f.imm.toNat 0 16) cy f.thr.toNat s u)) with pending := u.pending } := by
  have same : issued c cy u = { s with mem := u.mem, ecc := u.ecc, vat := u.vat, tps := (issued c cy u).tps, jobs := (issued c cy u).jobs } := by
    rw [issued_rest, readied_rest h.at_]
  have clk : (issued c cy u).clk = s.clk := by rw [same]
  have beats : beatCycles (issued c cy u) = beatCycles s := by rw [same]; rfl
  have inTime : decide (movedEnd c ≤ ((cy + c.hdr.rvWindow * beatCycles s : Nat) : Int)) = false := decide_eq_false (Int.not_le.2 hlate)
  have fences : ((issued c cy u).ring.fenceFail || (neighbours (issued c cy u)).any (isFenced (issued c cy u))) = false := by
    rw [same]
    exact (Bool.or_eq_false_iff).2 ⟨hrun, hfence⟩
  rw [exec, execRdv, run_issue h]
  simp only [beats, clk, inTime, fences, Bool.false_and, Bool.false_eq_true, if_false]
  rfl

theorem issued_colls : (getJob (issued c cy u) c.slot).run.colls = c.job.run.colls := by
  obtain ⟨-, -, job⟩ := tileCtx_tp s t.val c h.tile
  have cycles : getJob (issued c cy u) c.slot = getJob (noteCycle c.slot cy u) c.slot := by
    rw [getJob, issued_rest]
    rfl
  have same : getJob u c.slot = getJob s c.slot := by rw [getJob, readied_rest h.at_]; rfl
  rw [cycles, noteCycle, getJob_modRun_self, same, ← job]

theorem rdvState_coll : tget {} (getJob (rdvState c prog cy thr s u) c.slot).run.colls prog =
    rdvRuns c.t s.clk.fleet c.hdr.rvWindow (tget {} c.job.run.colls prog) := by
  have colls : (getJob (rdvState c prog cy thr s u) c.slot).run.colls =
      tmod {} (getJob (issued c cy u) c.slot).run.colls prog (rdvRuns c.t s.clk.fleet c.hdr.rvWindow) := by
    rw [rdvState, getJob_modRun_self]
    rfl
  rw [colls, tget_tmod_self, issued_colls h]

/-- The rows of TPs and jobs, and the memory, of the state in which an RDV has begun. -/
theorem rdv_rows (m : Movement) (k : Coll) (held : (tget {} c.job.run.colls prog).held = []) :
    let e := enterColl c.slot prog m k (rdvState c prog cy thr s u)
    e.mem = u.mem ∧ (∀ x, getTp e x = getTp (modTp c.t (rdvWaits prog s.clk.fleet cy thr (c.hdr.rvWindow * beatCycles s)) (issued c cy u)) x) ∧
      (∀ j, getJob e j = getJob (modRun c.slot (fun r => { r with colls := tmod {} r.colls prog fun x => { x with held := [] } })
        (rdvState c prog cy thr s u)) j) := by
  have colls : (tget {} (getJob (rdvState c prog cy thr s u) c.slot).run.colls prog).held = [] := by rw [rdvState_coll h]; exact held
  dsimp only
  rw [enterColl_fresh colls, startColl_links]
  refine ⟨?_, fun x => ?_, fun j => ?_⟩
  · simp [modRun, modJob, rdvState, modTp]
  · simp [modRun, modJob, rdvState, getTp, modTp]
  · simp [modRun, modJob, rdvState, getJob]

end

/-- Settles O5, by who waits at the barrier after the arrival, and by an RDV's answer. -/
theorem barrierAndRendezvous : Obligations.BarrierAndRendezvous := by
  unfold Obligations.BarrierAndRendezvous
  refine ⟨fun t f s u c cy h => ?_, fun t f s u c cy h hfence hrun hlate => ?_⟩
  · intro m id
    obtain ⟨ht, htp⟩ := h.tp
    have mask : csyncMask u c.t f = m := by rw [ht]; rfl
    have answer := csync_answer h
    refine ⟨fun x hx hm hxc missing alone => ?_, fun latest others waiters bound nest hcy reached => ?_⟩
    · rw [csync_waits hx (by rw [mask]; exact hm) hxc missing alone, mask] at answer
      refine ⟨_, answer, by simp [arrived], ?_, ?_, ?_, ⟨fun y hy => ?_, fun j hj => ?_⟩, answer_tps_jobs arrived_rest rfl⟩
      · exact (congrArg Tp.wait (getTp_answer _ _ _)).trans arrived_wait
      · refine (congrArg Tp.pc (getTp_answer _ _ _)).trans ?_
        rw [arrived, getTp_modTp_self]
        exact h.pc_issued
      · have synced := (arrived_syncs (c := c) (cy := cy) (id := id) (m := m) (thr := f.thr.toNat) (u := u) c.slot id c.t cy rfl).2 (.inr ⟨rfl, rfl, rfl⟩)
        rw [Synced, ← getJob_collect] at synced
        exact synced
      · exact (getTp_answer _ _ _).trans (arrived_other y hy)
      · exact (getJob_answer _ _ _).trans (arrived_job j hj)
    · have own : m.testBit c.t = true := by rw [← mask]; exact h.in_mask
      rw [mask, csyncRelease_all (m := m)
        (fun w hw => (waiter_of_last h others waiters own nest hw).1)
        (fun w hw => (waiter_of_last h others waiters own nest hw).2.2)
        (List.all_eq_true.2 fun x hx => by
          obtain ⟨hx, hm⟩ : x < 128 ∧ m.testBit x = true := by simpa [maskBits, upFrom_eq_range, bitAt] using hx
          obtain ⟨y, hy, rfl⟩ := member_issued (cy := cy) (thr := f.thr.toNat) others hx hm
          exact List.any_eq_true.2 ⟨y, hy, by simp⟩),
        latest_issue own bound hcy reached] at answer
      have tps := getTp_foldl_goOn (latest + 4) _ (csyncWaiters_nodup (arrived c cy id m f.thr.toNat u) c.slot id)
        (arrived c cy id m f.thr.toNat u)
      refine ⟨_, answer, ?_, fun x hx hm => ?_, fun x hm => ?_⟩
      · refine (collect_mem _).trans ((goOn_mem _ _ _).trans ?_)
        simp [arrived]
      · obtain ⟨w, hw, rfl⟩ := member_waits (cy := cy) (id := id) (thr := f.thr.toNat) h others hx hm
        have gone := (getTp_answer u.pending _ w.1).trans ((tps w.1).trans (if_pos (List.mem_map_of_mem hw)))
        refine ⟨congrArg Tp.wait gone, (congrArg Tp.pc gone).trans ?_, congrArg Tp.next gone⟩
        exact congrArg (· + 1) (arrived_pc h w.1)
      · have apart : x ≠ c.t := fun e => by simp [e, own] at hm
        have absent : x ∉ (csyncWaiters (arrived c cy id m f.thr.toNat u) c.slot id).map (·.1) := by
          rintro hx
          obtain ⟨⟨y, mask, thr'⟩, hw, rfl⟩ := List.mem_map.1 hx
          obtain ⟨-, member, -⟩ := waiter_of_last h others waiters own nest hw
          simp [member] at hm
        have same : getTp u x = getTp s x := by rw [getTp, readied_rest h.at_]; rfl
        have kept := (getTp_answer u.pending _ x).trans ((tps x).trans (if_neg absent))
        exact kept.trans ((arrived_other x apart).trans same)
  · intro prog held
    obtain ⟨mem, tps, jobs⟩ := rdv_rows (prog := prog) (cy := cy) (thr := f.thr.toNat) h c.mov ((c.mov.colls[prog]?).getD {}) held
    have early : (cy : Int) < movedEnd c := by
      have : (cy : Int) ≤ ((cy + c.hdr.rvWindow * beatCycles s : Nat) : Int) := by omega
      omega
    have answer := rdv_answer h hfence hrun hlate
    have coll := rdvState_coll (prog := prog) (cy := cy) (thr := f.thr.toNat) h
    generalize hr : rdvState c (bits f.imm.toNat 0 16) cy f.thr.toNat s u = r at answer mem tps jobs coll
    generalize enterColl c.slot (bits f.imm.toNat 0 16) c.mov ((c.mov.colls[bits f.imm.toNat 0 16]?).getD {}) r = e at answer mem tps jobs
    have own := (getTp_answer u.pending _ c.t).trans (tps c.t)
    rw [getTp_modTp_self, issued_tp_early h early] at own
    obtain ⟨tile, -⟩ := h.runs
    refine ⟨_, answer, (collect_mem e).trans mem, (congrArg Tp.wait own).trans rfl, (congrArg Tp.pc own).trans rfl, ?_, ?_, ⟨fun y hy => ?_, fun j hj => ?_⟩⟩
    · refine (congrArg Tp.tile own).trans ?_
      simp [rdvWaits, tile]
    · have run := congrArg (fun x : Job => tget {} x.run.colls prog) ((getJob_answer u.pending _ c.slot).trans (jobs c.slot))
      rw [getJob_modRun_self] at run
      simp only [tget_tmod_self, coll] at run
      exact ⟨_, rfl, (congrArg CollRun.running run).trans rfl, (congrArg CollRun.tp run).trans rfl, (congrArg CollRun.from_ run).trans rfl,
        (congrArg CollRun.window run).trans rfl⟩
    · refine (getTp_answer u.pending _ y).trans ((tps y).trans ?_)
      rw [getTp_modTp_ne _ _ _ _ hy]
      exact issued_other c cy y u hy
    · refine (getJob_answer u.pending _ j).trans ((jobs j).trans ?_)
      rw [getJob_modRun_ne _ _ _ _ hj, ← hr, rdvState, getJob_modRun_ne _ _ _ _ hj]
      have cycles : getJob (issued c cy u) j = getJob (noteCycle c.slot cy u) j := by
        rw [getJob, issued_rest]
        rfl
      exact cycles.trans (getJob_modRun_ne _ _ _ _ hj)

end Sys2Proof.Machine
end

section
/-! PROOFS. Sheds, the cap and the start instant (R278, R283, R291, R293), and the registers of snapshot leases (R266, R272, R273). -/

namespace Sys2Proof.Machine

/-! ### The cap and the start -/

theorem alignUp_le (a : Nat) {n : Nat} (h : 0 < n) : a ≤ alignUp a n ∧ alignUp a n < a + n := by
  have split := Nat.div_add_mod (a + n - 1) n
  have rest := Nat.mod_lt (a + n - 1) h
  have comm : (a + n - 1) / n * n = n * ((a + n - 1) / n) := Nat.mul_comm ..
  unfold alignUp cdiv
  rw [comm]
  omega

/-- The start instant's grid lies in its window (R283). -/
theorem startGrid_window (s : State) (entry sync : Nat) :
    let w := if inDomain s then windowNs s else 1000000000
    0 < w → startGrid s entry sync % w = 0 ∧ max entry sync + 1000000 ≤ startGrid s entry sync ∧
      startGrid s entry sync < max entry sync + 1000000 + w := by
  intro w hw
  exact ⟨Nat.mul_mod_left _ _, alignUp_le _ hw⟩

/-- Settles O25, by the effect of each command and the grid of the start. -/
theorem capAndStart : Obligations.CapAndStart := by
  intro v s
  refine ⟨fun h => ?_, fun h => ?_, fun h => ?_, fun held net wait => ⟨startInstantOf s s.flt.kfloor s.clk.fleet, ?_, ?_⟩,
    fun held net wait => ?_, fun t ts wait => ?_⟩
  · exact gives_runCtl (writeCap v.toNat) _ rfl (by simp [writeCap, unheld, clampCap, h]) rfl rfl
  · exact gives_runCtl (writeCap v.toNat) _ rfl (by simp [writeCap, unheld, h]) rfl rfl
  · exact gives_runCtl _ _ (execRampSyncRise.eq_1 s) (if_pos (by simpa using h)) rfl rfl
  · exact gives_runCtl _ _ (execRampSyncRise.eq_1 s) (by simp [held, net, wait]) rfl rfl
  · rw [startInstantOf, Nat.add_sub_cancel]
    exact startGrid_window s _ _
  · exact gives_runCtl _ _ (execRampSyncRise.eq_1 s) (by simp [held, net, wait]) rfl rfl
  · exact gives_runCtl _ _ (execStartInstant.eq_1 s) (by simp [ts, wait, pl8]) (by simp) (by simp)

/-! ### The shed -/

/-- What an answer that changes the pin, the Regulator, the sensors and alert_n leaves. -/
theorem answer_power {s u : State} {a : Bool} {b : Rgl} {d : Tel} {q : List Ev} {l : Bool}
    (hu : u = { s with pwr.pwrShedN := a, rgl := b, tel := d, ev.queue := q, smb.alertLow := l }) :
    let s' : State := { collect u with pending := s.pending }
    s' = { reported s s' with pwr.pwrShedN := s'.pwr.pwrShedN, rgl := s'.rgl, tel := s'.tel } ∧
      s'.pwr.pwrShedN = a ∧ s'.rgl = b ∧ s'.tel = d ∧ (l = true → s'.smb.alertLow = true) := by
  intro s'
  have own : s' = { reported u s' with pending := s.pending } := answer_reported s.pending u
  have pwr : s'.pwr = u.pwr := collect_pwr u
  have rgl : s'.rgl = u.rgl := collect_rgl u
  have tel : s'.tel = u.tel := collect_tel u
  have low : s'.smb.alertLow = u.smb.alertLow ∨ s'.smb.alertLow = true := (collect_alert u).imp_left fun h => congrArg Prod.fst h
  clear_value s'
  subst hu
  refine ⟨?_, congrArg Power.pwrShedN pwr, rgl, tel, fun hl => low.elim (fun h => h.trans hl) id⟩
  rw [pwr, rgl, tel]
  exact own

theorem endShortfall_post (s : State) : ∃ q, endShortfall s = { s with rgl.shortfall := none, ev.queue := q } := by
  unfold endShortfall
  split
  · next h => exact ⟨s.ev.queue, by rw [← h]⟩
  · exact ⟨_, rfl⟩

/-- The Regulator at the begin of a shed. -/
def shedBegun (g : Rgl) : Rgl :=
  { g with shortfall := none, shedding := true, duty := 8, ballast := false, density := 0, shedCnt := g.shedCnt + 1, shedOver := 0 }

/-- The Regulator at the end of a shed. -/
def shedEnded (g : Rgl) : Rgl := { g with shedding := false, p := g.cal, slopeBrk := g.slopeBrk + g.shedOver }

section
variable {s : State} (hl : s.pwr.state ≠ .loading) (hd : s.pwr.state ≠ .dormant)
include hl hd

theorem updateShed_begins (hs : shedSources s ≠ 0) (h : s.rgl.shedding = false) :
    ∃ q, updateShed s = { s with rgl := shedBegun s.rgl, ev.queue := q, smb.alertLow := true } := by
  obtain ⟨q, e⟩ := endShortfall_post s
  exact ⟨_, by simp [updateShed, hl, hd, hs, h, beginShed, e, shedBegun, post]; rfl⟩

theorem updateShed_ends (hs : shedSources s = 0) (h : s.rgl.shedding = true) :
    ∃ q, updateShed s = { s with rgl := shedEnded s.rgl, ev.queue := q } :=
  ⟨_, by simp [updateShed, hl, hd, hs, h, endShed, shedEnded, post]; rfl⟩

omit hl hd in
theorem updateShed_stays (h : s.rgl.shedding = true ↔ shedSources s ≠ 0) : updateShed s = s := by
  cases hc : s.rgl.shedding <;> simp_all [updateShed]

end

theorem shedSources_zero (s : State) : shedSources s = 0 ↔ s.pwr.pwrShedN = true ∧ s.rgl.shedReq = false ∧ s.rgl.thermal = false := by
  cases h1 : s.pwr.pwrShedN <;> cases h2 : s.rgl.shedReq <;> cases h3 : s.rgl.thermal <;> simp [shedSources, b2n, h1, h2, h3]

theorem updateShed_rest (s : State) : ∃ g q l, updateShed s = { s with rgl := g, ev.queue := q, smb.alertLow := l } := by
  by_cases hw : s.pwr.state = .loading ∨ s.pwr.state = .dormant
  · exact ⟨_, _, _, show updateShed s = s by rcases hw with h | h <;> simp [updateShed, h]⟩
  · obtain ⟨hl, hd⟩ := not_or.1 hw
    by_cases h : s.rgl.shedding = true ↔ shedSources s ≠ 0
    · exact ⟨_, _, _, updateShed_stays h⟩
    · cases hc : s.rgl.shedding
      · obtain ⟨q, e⟩ := updateShed_begins hl hd (fun hs => h (by simp [hc, hs])) hc
        exact ⟨_, _, _, e⟩
      · obtain ⟨q, e⟩ := updateShed_ends hl hd (by simpa [hc] using h) hc
        exact ⟨_, _, _, e⟩

@[simp] theorem updateShed_mem (s : State) : (updateShed s).mem = s.mem := by
  obtain ⟨g, q, l, e⟩ := updateShed_rest s
  rw [e]

@[simp] theorem updateShed_tps (s : State) : (updateShed s).tps = s.tps := by
  obtain ⟨g, q, l, e⟩ := updateShed_rest s
  rw [e]

@[simp] theorem updateShed_clk (s : State) : (updateShed s).clk = s.clk := by
  obtain ⟨g, q, l, e⟩ := updateShed_rest s
  rw [e]

@[simp] theorem updateShed_pwr (s : State) : (updateShed s).pwr = s.pwr := by
  obtain ⟨g, q, l, e⟩ := updateShed_rest s
  rw [e]

theorem updateShed_thermal (s : State) : (updateShed s).rgl.thermal = s.rgl.thermal := by
  by_cases hw : s.pwr.state = .loading ∨ s.pwr.state = .dormant
  · rcases hw with h | h <;> simp [updateShed, h]
  · obtain ⟨hl, hd⟩ := not_or.1 hw
    by_cases h : s.rgl.shedding = true ↔ shedSources s ≠ 0
    · rw [updateShed_stays h]
    · cases hc : s.rgl.shedding
      · obtain ⟨q, e⟩ := updateShed_begins hl hd (fun hs => h (by simp [hc, hs])) hc
        rw [e]; rfl
      · obtain ⟨q, e⟩ := updateShed_ends hl hd (by simpa [hc] using h) hc
        rw [e]; rfl

/-- Fleet time has reached an instant that it was brought up to. -/
theorem le_clk_advanceTo (t : Nat) (s : State) : t ≤ (advanceTo t s).clk.fleet := by
  unfold advanceTo
  split
  · assumption
  · exact Nat.le_refl t

/-- No source asks for a shed: the pin, RGL_SHEDREQ and the sensors (R291). -/
def NoSource (pin : Bool) (g : Rgl) : Prop := pin = true ∧ g.shedReq = false ∧ g.thermal = false

/-- The answer of a command that moves the shed after its sources, against the state before. -/
theorem shed_answer (s : State) (a : Bool) (g : Rgl) (d : Tel) (hl : s.pwr.state ≠ .loading) (hd : s.pwr.state ≠ .dormant) :
    let s' : State := { collect (updateShed { s with pwr.pwrShedN := a, rgl := g, tel := d }) with pending := s.pending }
    s' = { reported s s' with pwr.pwrShedN := s'.pwr.pwrShedN, rgl := s'.rgl, tel := s'.tel } ∧ s'.tel = d ∧ s'.pwr.pwrShedN = a ∧
      (¬NoSource a g → g.shedding = false → s'.rgl = shedBegun g ∧ s'.smb.alertLow = true) ∧
      (NoSource a g → g.shedding = true → s'.rgl = shedEnded g) ∧ ((g.shedding = true ↔ ¬NoSource a g) → s'.rgl = g) := by
  have sources : shedSources { s with pwr.pwrShedN := a, rgl := g, tel := d } = 0 ↔ NoSource a g := shedSources_zero _
  by_cases hq : NoSource a g
  · cases hg : g.shedding
    · rw [updateShed_stays (by simp [hg, sources, hq])]
      obtain ⟨only, pin, rgl, tel, -⟩ := answer_power (s := s) (a := a) (b := g) (d := d) (q := s.ev.queue) (l := s.smb.alertLow) rfl
      exact ⟨only, tel, pin, fun h => absurd hq h, nofun, fun _ => rgl⟩
    · obtain ⟨q, e⟩ := updateShed_ends (s := { s with pwr.pwrShedN := a, rgl := g, tel := d }) hl hd (sources.2 hq) hg
      rw [e]
      obtain ⟨only, pin, rgl, tel, -⟩ := answer_power (s := s) (a := a) (b := shedEnded g) (d := d) (q := q) (l := s.smb.alertLow) rfl
      exact ⟨only, tel, pin, nofun, fun _ _ => rgl, fun h => absurd hq (h.1 rfl)⟩
  · cases hg : g.shedding
    · obtain ⟨q, e⟩ := updateShed_begins (s := { s with pwr.pwrShedN := a, rgl := g, tel := d }) hl hd (mt sources.1 hq) hg
      rw [e]
      obtain ⟨only, pin, rgl, tel, low⟩ := answer_power (s := s) (a := a) (b := shedBegun g) (d := d) (q := q) (l := true) rfl
      exact ⟨only, tel, pin, fun _ _ => ⟨rgl, low rfl⟩, fun h => absurd h hq, fun h => nomatch h.2 hq⟩
    · rw [updateShed_stays (by simp [hg, sources, hq])]
      obtain ⟨only, pin, rgl, tel, -⟩ := answer_power (s := s) (a := a) (b := g) (d := d) (q := s.ev.queue) (l := s.smb.alertLow) rfl
      exact ⟨only, tel, pin, nofun, fun h => absurd h hq, fun _ => rgl⟩

theorem hottest_spec : ∀ {xs : List (BitVec 16)} {h : BitVec 16}, h ∈ xs → ∃ y, hottest xs = some y ∧ y ∈ xs ∧ ∀ x ∈ xs, x.toInt ≤ y.toInt
  | x :: xs, h, hh => by
    cases xs with
    | nil => exact ⟨x, rfl, by simp, by simp⟩
    | cons z zs =>
      obtain ⟨y, hy, mem, most⟩ := hottest_spec (xs := z :: zs) (h := z) (by simp)
      rw [hottest, hy]
      dsimp only
      split
      · next lt =>
        refine ⟨x, rfl, by simp, fun w hw => ?_⟩
        rcases List.mem_cons.1 hw with rfl | hw
        · exact Int.le_refl _
        · exact Int.le_trans (most w hw) (Int.le_of_lt lt)
      · next le =>
        refine ⟨y, rfl, by simp [mem], fun w hw => ?_⟩
        rcases List.mem_cons.1 hw with rfl | hw
        · exact Int.not_lt.1 le
        · exact most w hw

theorem hottest_eq {xs : List (BitVec 16)} {h : BitVec 16} (hh : h ∈ xs) (most : ∀ x ∈ xs, x.toInt ≤ h.toInt) : hottest xs = some h := by
  obtain ⟨y, hy, mem, top⟩ := hottest_spec hh
  rw [hy, BitVec.toInt_inj.1 (Int.le_antisymm (most y mem) (top h hh))]

theorem gives_updateShed (i : Instr) {s u : State} (f : State → State) (h : exec i s = runCtl f s) (hf : f s = updateShed u)
    (hm : u.mem = s.mem) (ht : u.tps = s.tps) : Gives i s (updateShed u) :=
  gives_runCtl f _ h hf (by simp [hm]) (by simp [ht])

/-- Settles O24, by what a move of the shed does in each state of its sources. -/
theorem powerSheds : Obligations.PowerSheds := by
  intro v temps s
  dsimp only
  refine ⟨fun h => ?_, fun h => ?_, fun hl hd => ⟨?_, ?_, ?_, ?_, ?_⟩⟩
  · have still (b : Bool) : updateShed { s with pwr.pwrShedN := b } = { s with pwr.pwrShedN := b } := by
      rcases h with h | h <;> simp [updateShed, h]
    exact ⟨gives_runCtl _ _ (execPwrShedNFall.eq_1 s) (still false) rfl rfl, gives_runCtl _ _ (execPwrShedNRise.eq_1 s) (still true) rfl rfl⟩
  · exact gives_runCtl _ _ (execShedRequest.eq_1 v s) (by simp [writeShedReq, unheld, h]) rfl rfl
  · have given := gives_updateShed .pwrShedNFall _ (execPwrShedNFall.eq_1 s) rfl rfl rfl
    obtain ⟨only, tel, pin, begins, -, stays⟩ := shed_answer s false s.rgl s.tel hl hd
    exact ⟨_, given, only, tel, pin, begins (by simp [NoSource]), fun h => stays (by simp [NoSource, h])⟩
  · have given := gives_updateShed .pwrShedNRise _ (execPwrShedNRise.eq_1 s) rfl rfl rfl
    obtain ⟨only, tel, pin, -, ends, stays⟩ := shed_answer s true s.rgl s.tel hl hd
    exact ⟨_, given, only, tel, pin, fun h req hot => ends ⟨rfl, req, hot⟩ h, fun h on => stays (by rcases on with on | on <;> simp [NoSource, h, on])⟩
  · have given := gives_updateShed (.shedRequest v) (u := { s with rgl.shedReq := v.getLsbD 0 }) _ (execShedRequest.eq_1 v s) (by simp [writeShedReq, unheld, hl]) rfl rfl
    obtain ⟨only, tel, pin, begins, ends, stays⟩ := shed_answer s s.pwr.pwrShedN { s.rgl with shedReq := v.getLsbD 0 } s.tel hl hd
    refine ⟨_, given, only, tel, pin, ?_, fun on off => ?_, fun off on pin hot => ?_⟩
    rotate_left
    · rw [on] at begins ⊢
      exact begins (fun h => nomatch h.2.1) off
    · rw [off] at ends ⊢
      exact ends ⟨pin, rfl, hot⟩ on
    by_cases hq : NoSource s.pwr.pwrShedN { s.rgl with shedReq := v.getLsbD 0 } <;> cases hs : s.rgl.shedding
    · rw [stays (iff_of_false (Bool.eq_false_iff.1 hs) (fun no => no hq))]
    · rw [ends hq hs]; rfl
    · rw [(begins hq hs).1]; rfl
    · rw [stays (iff_of_true hs hq)]
  · intro h hh most
    have found := hottest_eq hh most
    have limit : cfgVal { s with tel.tempMax := h.toNat } 0x0909 = cfgVal s 0x0909 := rfl
    by_cases hot : 8 * (cfgVal s 0x0909 : Int) ≤ h.toInt
    · have given := gives_updateShed (.sensorConversion temps) (u := { s with rgl.thermal := true, rgl.coolFrom := none, tel.tempMax := h.toNat }) _
        (execSensorConversion.eq_1 temps s) (by simp [found, unheld, hl, hot, limit]) rfl rfl
      obtain ⟨only, tel, pin, begins, ends, stays⟩ := shed_answer s s.pwr.pwrShedN { s.rgl with thermal := true, coolFrom := none }
        { s.tel with tempMax := h.toNat } hl hd
      have source : ¬NoSource s.pwr.pwrShedN { s.rgl with thermal := true, coolFrom := none } := by simp [NoSource]
      refine ⟨_, given, only, pin, by rw [tel], by rw [tel], fun _ => ?_, fun _ off => begins source off, fun cold => by omega⟩
      cases hs : s.rgl.shedding
      · rw [(begins source hs).1]; exact ⟨rfl, rfl⟩
      · rw [stays (iff_of_true hs source)]; exact ⟨rfl, hs⟩
    · have given := gives_runCtl (i := .sensorConversion temps) _ { s with
          rgl.coolFrom := if isCool s h then some (s.rgl.coolFrom.getD s.clk.fleet) else none, tel.tempMax := h.toNat }
        (execSensorConversion.eq_1 temps s) (by
          have cool : isCool { s with tel.tempMax := h.toNat } h = isCool s h := rfl
          cases hc : s.rgl.coolFrom <;> cases hi : isCool s h <;> simp [found, unheld, hl, hot, limit, cool, hi, hc]) rfl rfl
      obtain ⟨only, pin, rgl, tel, -⟩ := answer_power (s := s) (a := s.pwr.pwrShedN)
        (b := { s.rgl with coolFrom := if isCool s h then some (s.rgl.coolFrom.getD s.clk.fleet) else none })
        (d := { s.tel with tempMax := h.toNat }) (q := s.ev.queue) (l := s.smb.alertLow) rfl
      refine ⟨_, given, only, pin, by rw [tel], by rw [tel], fun hot' => absurd hot' hot, fun hot' => absurd hot' hot,
        fun _ => ⟨by rw [rgl], fun warm => ?_, fun cold => ?_⟩⟩
      · rw [rgl]
        exact if_neg (by simp only [isCool, decide_eq_true_eq]; omega)
      · rw [rgl]
        exact if_pos (by simp only [isCool, decide_eq_true_eq]; omega)
  · intro t cool hot
    have wl : (advanceTo (t + 1000000) s).pwr.state ≠ .loading := by simpa using hl
    have wd : (advanceTo (t + 1000000) s).pwr.state ≠ .dormant := by simpa using hd
    have given := gives_updateShed .thermalHoldEnd (u := { advanceTo (t + 1000000) s with rgl.thermal := false }) _
      (execThermalHoldEnd.eq_1 s) (by simp [cool, hot]) (by simp) (by simp)
    have answer := shed_answer (advanceTo (t + 1000000) s) (advanceTo (t + 1000000) s).pwr.pwrShedN
      { (advanceTo (t + 1000000) s).rgl with thermal := false } (advanceTo (t + 1000000) s).tel wl wd
    simp only [advanceTo_pwr, advanceTo_rgl, advanceTo_tel, advanceTo_pending] at given answer
    obtain ⟨only, -, pin, -, ends, stays⟩ := answer
    refine ⟨_, given, ?_, ?_, ?_, fun on pin req => ends ⟨pin, req, rfl⟩ on⟩
    · exact Nat.le_trans (le_clk_advanceTo (t + 1000000) s) (Nat.le_of_eq (by rw [collect_clk, updateShed_clk]))
    · exact (congrArg Rgl.thermal (collect_rgl _)).trans (updateShed_thermal _)
    · exact (collect_pwr _).trans (updateShed_pwr _)


/-! ### Snapshot leases -/

theorem leNat_lt (bs : List Byte) : leNat bs < 256 ^ bs.length := by
  induction bs with
  | nil => simp [leNat]
  | cons b bs ih =>
    have byte := b.isLt
    rw [leNat, List.length_cons, Nat.pow_succ]
    omega

theorem memNat_lt (m : Table Byte) (a n : Nat) : memNat m a n < 256 ^ n := by
  have bound := leNat_lt (memRead m a n)
  rwa [memRead_length] at bound

theorem snWord_code (code : Nat) : snWord code 0 0 = code := by simp [snWord]

/-- What the register of a dropped lease shows, where it shows that lease. -/
theorem dropLease_eq (l : SnapLease) (s : State) : dropLease l s = { s with
    cul.leases := s.cul.leases.erase l
    cul.snStat := if bits (tget 0 s.cul.snStat l.fn) 0 2 = 1 ∧ bits (tget 0 s.cul.snStat l.fn) 16 16 = l.id
      then tput s.cul.snStat l.fn 0 else s.cul.snStat } := by
  by_cases h : bits (tget 0 s.cul.snStat l.fn) 0 2 = 1 ∧ bits (tget 0 s.cul.snStat l.fn) 16 16 = l.id <;>
    simp [dropLease, setSnStat, h]

/-- Settles O23, by the cases of a request and of the resume. -/
theorem cultureRegisters : Obligations.CultureRegisters := by
  refine ⟨fun fn v id s => ⟨fun absent => ?_, fun j d found => ⟨fun fresh => ?_, fun b has busy => ?_, fun b has free => ?_⟩,
    fun l held => ?_, fun l held => ?_⟩, fun v s => ⟨fun j d found paused => ?_, fun running => ?_⟩⟩
  · exact gives_runCtl _ _ (execCulSnreq.eq_1 fn v s) (by simp [requestLease, absent, setSnStat, snWord_code]) rfl rfl
  · exact gives_runCtl _ _ (execCulSnreq.eq_1 fn v s) (by simp [requestLease, found, fresh, setSnStat, snWord_code]) rfl rfl
  · exact gives_runCtl _ _ (execCulSnreq.eq_1 fn v s) (by simp [requestLease, found, has, busy, setSnStat, snWord_code]) rfl rfl
  · refine gives_runCtl _ _ (execCulSnreq.eq_1 fn v s) ?_ rfl rfl
    have open_ : (decide (16 ≤ s.cul.leases.length) || s.cul.leases.any fun l => l.block == d.cultureBase) = false := by
      simpa using free
    have step : memNat s.mem ((readPar s.mem d.cultureBase).snap + b * snapPitch (readPar s.mem d.cultureBase) d) 4 < 2 ^ 32 := memNat_lt _ _ 4
    have due (ms : Nat) : s.clk.fleet + ms * 1000000 = s.clk.fleet + 1000000 * ms := by rw [Nat.mul_comm]
    simp only [requestLease, found, has, open_, setSnStat, snWord, Nat.mod_eq_of_lt step, due, Bool.false_eq_true, if_false, Nat.mul_comm _ (2 ^ 16), Nat.mul_comm _ (2 ^ 32)] <;> rfl
  · exact gives_runCtl _ _ (execCulSnrel.eq_1 fn v s) (by simp only [releaseLease, held, dropLease_eq]) rfl rfl
  · exact gives_runCtl _ _ (execLeaseExpired.eq_1 id s) (by simp [held, dropLease_eq, post, pl2]) (by simp) (by simp)
  · refine gives_runCtl _ _ (execCulResumestep.eq_1 v s) ?_ rfl rfl
    simp [armResume, found, paused]
  · refine gives_runCtl _ _ (execCulResumestep.eq_1 v s) ?_ rfl rfl
    cases found : blockLayer s s.cul.resumeAt with
    | none => simp [armResume, found]
    | some x => simp [armResume, found, running x.1 x.2 found]

end Sys2Proof.Machine
end

section
/-! PROOFS. Scrub passes, FLT_SUM0, the registers of the Event Ring (R21, R363 to R366, R399), and the collector (R20 to R22). -/

namespace Sys2Proof.Machine

/-! ### Scrubs -/

/-- The reports of bad lines in a scrub. -/
theorem eccEvents_rest (xs : List Nat) (s : State) : ∃ q n f,
    xs.foldl (fun t l => eccEvent 1 (64 * l) 6 t) s = { s with ev.queue := q, flt.eccUnc := n, flt.flags := f } := by
  induction xs generalizing s with
  | nil => exact ⟨_, _, _, rfl⟩
  | cons x xs ih =>
    obtain ⟨q, n, f, e⟩ := ih (eccEvent 1 (64 * x) 6 s)
    exact ⟨q, n, f, e⟩

/-- Whether a line lies in a scrubbed memory. -/
def inScrub (lo hi k : Nat) : Bool := decide (lo ≤ 64 * k) && decide (64 * k < hi)

/-- A scrub, but for its reports. -/
theorem scrub_rest (lo hi : Nat) (s : State) : ∃ q n f, scrub lo hi s = { s with
    ecc.softLines := s.ecc.softLines.filter fun k => !inScrub lo hi k
    flt := { s.flt with eccCor := s.flt.eccCor + (s.ecc.softLines.filter (inScrub lo hi)).length, eccUnc := n, flags := f }
    ev.queue := q } := by
  obtain ⟨q, n, f, e⟩ := eccEvents_rest (s.ecc.badLines.filter (inScrub lo hi)) { s with
    ecc.softLines := s.ecc.softLines.filter fun k => !inScrub lo hi k
    flt.eccCor := s.flt.eccCor + (s.ecc.softLines.filter (inScrub lo hi)).length }
  exact ⟨q, n, f, e⟩

/-- A scrub command's answer. -/
theorem scrub_answer {i : Instr} {s w : State} (f : State → State) (lo hi : Nat) (h : exec i s = runCtl f s) (hf : f s = scrub lo hi w)
    (hm : w.mem = s.mem) (ht : w.tps = s.tps) : ∃ s', exec i s = .next s' ∧ s'.clk = w.clk ∧ s'.hbm = w.hbm ∧
      s'.ecc = { w.ecc with softLines := w.ecc.softLines.filter fun k => !inScrub lo hi k } ∧
      s'.flt.eccCor = w.flt.eccCor + (w.ecc.softLines.filter (inScrub lo hi)).length ∧ s'.mem = s.mem ∧
      s'.flt.scrubLate = w.flt.scrubLate := by
  obtain ⟨q, n, g, e⟩ := scrub_rest lo hi w
  have given := gives_runCtl f _ h (hf.trans e) hm ht
  exact ⟨_, given, by simp, by simp, by simp, by simp, by simp [hm], by simp⟩

theorem nextMultiple_spec {m : Nat} (t : Nat) (h : 0 < m) : nextMultiple m t % m = 0 ∧ t < nextMultiple m t ∧ nextMultiple m t ≤ t + m := by
  have split := Nat.div_add_mod t m
  have rest := Nat.mod_lt t h
  refine ⟨Nat.mul_mod_left _ _, ?_⟩
  rw [nextMultiple, Nat.add_mul, Nat.one_mul, Nat.mul_comm]
  omega

theorem advanceTo_clk_of_lt {t : Nat} {s : State} (h : s.clk.fleet < t) : (advanceTo t s).clk.fleet = t := by
  simp [advanceTo, Nat.not_le.2 h]

theorem scrubPass_answer (s : State) : 
   let per := 1000000 * cfgVal s 0x0301
   (0 < per → hbmReady s = true → ∃ s', exec .scrubPass s = .next s' ∧ s.hbm.scrubFrom + per ≤ s'.clk.fleet ∧
     s'.hbm = { s.hbm with scrubs := s.hbm.scrubs + 1, scrubFrom := s'.clk.fleet } ∧
     s'.ecc = { s.ecc with softLines := s.ecc.softLines.filter fun k => !decide (64 * k < 0xC_0000_0000) } ∧
     s'.flt.eccCor = s.flt.eccCor + (s.ecc.softLines.filter fun k => decide (64 * k < 0xC_0000_0000)).length ∧ s'.mem = s.mem ∧
     s'.flt.scrubLate = s.flt.scrubLate + (if s.hbm.scrubFrom + per < s.clk.fleet ∧ s.hbm.scrubs ≠ 0 then 1 else 0)) := by
  intro per hper ready
  have scrubs : inScrub 0 0xC_0000_0000 = fun k => decide (64 * k < 0xC_0000_0000) := funext fun k => by simp [inScrub]
  have per_eq : cfgVal s 0x0301 * 1000000 = per := Nat.mul_comm _ _
  obtain ⟨s', given, clk, hbm, ecc, cor, mem, late⟩ := scrub_answer (i := .scrubPass) (s := s) _ 0 0xC_0000_0000
    (execScrubPass.eq_1 s) (by simp [per_eq, (Nat.ne_of_gt hper), ready]; rfl) (by simp) (by simp)
  rw [scrubs] at ecc cor
  refine ⟨s', given, ?_, ?_, ?_, ?_, mem, ?_⟩
  · rw [clk]
    exact le_clk_advanceTo _ _
  · rw [hbm, clk]
  · rw [ecc]
  · rw [cor]
  · rw [late]
    by_cases h1 : s.hbm.scrubFrom + per < s.clk.fleet <;> by_cases h2 : s.hbm.scrubs = 0 <;> simp [b2n, h1, h2]

/-- A scrub of the Vats at an instant to come. -/
theorem vatScrub_at {i : Instr} {s : State} (f : State → State) (lo hi t : Nat) (h : exec i s = runCtl f s)
    (hf : f s = scrub lo hi { advanceTo t s with hbm.vatScrubs := (advanceTo t s).hbm.vatScrubs + 1 }) (later : s.clk.fleet < t) :
    ∃ s', exec i s = .next s' ∧ s'.clk.fleet = t ∧ s'.ecc.badLines = s.ecc.badLines ∧
      (∀ k ∈ s.ecc.softLines.filter (inScrub lo hi), k ∉ s'.ecc.softLines) ∧
      s'.flt.eccCor = s.flt.eccCor + (s.ecc.softLines.filter (inScrub lo hi)).length ∧
      s'.hbm = { s.hbm with vatScrubs := s.hbm.vatScrubs + 1 } ∧ s'.mem = s.mem := by
  obtain ⟨s', given, clk, hbm, ecc, cor, mem, -⟩ := scrub_answer f lo hi h hf (by simp) (by simp)
  refine ⟨s', given, (congrArg Clock.fleet clk).trans (advanceTo_clk_of_lt later), by rw [ecc]; simp, fun k hk => ?_, by rw [cor]; simp,
    by rw [hbm]; simp, mem⟩
  obtain ⟨-, lies⟩ := List.mem_filter.1 hk
  rw [ecc, List.mem_filter, lies]
  exact fun h => nomatch h.2

theorem vatScrub_answer (s : State) :
    ∃ s', exec .vatScrub s = .next s' ∧ s'.clk.fleet = nextMultiple 100000000 s.clk.fleet ∧ s'.ecc.badLines = s.ecc.badLines ∧
      (∀ k ∈ s.ecc.softLines.filter (inScrub 0xC_0000_0000 0xC_0800_0000), k ∉ s'.ecc.softLines) ∧
      s'.flt.eccCor = s.flt.eccCor + (s.ecc.softLines.filter (inScrub 0xC_0000_0000 0xC_0800_0000)).length ∧
      s'.hbm = { s.hbm with vatScrubs := s.hbm.vatScrubs + 1 } ∧ s'.mem = s.mem :=
  vatScrub_at _ _ _ _ (execVatScrub.eq_1 s) rfl (nextMultiple_spec s.clk.fleet (by decide)).2.1

theorem clears_w1c (j : Nat) : bitAt w1cFlags j = decide (j = 0 ∨ j = 4 ∨ j = 6 ∨ j = 8 ∨ j = 9) := by
  by_cases h : j < 10
  · have low : ∀ j < 10, bitAt w1cFlags j = decide (j = 0 ∨ j = 4 ∨ j = 6 ∨ j = 8 ∨ j = 9) := by decide
    exact low j h
  · have small : w1cFlags < 2 ^ j := Nat.lt_of_lt_of_le (show w1cFlags < 2 ^ 10 by decide) (Nat.pow_le_pow_right (by decide) (by omega))
    rw [bitAt, Nat.testBit_lt_two_pow small, eq_comm, decide_eq_false_iff_not]
    omega

/-- Settles O40, by what a scrub leaves and the effect of each register write. -/
theorem scrubsAndEventRegisters : Obligations.ScrubsAndEventRegisters := by
  refine ⟨fun s => ⟨scrubPass_answer s, fun h => ?_, ?_⟩, fun v w s => ?_⟩
  · refine gives_runCtl _ _ (execScrubPass.eq_1 s) ?_ rfl rfl
    rcases h with h | h
    · have none : cfgVal s 0x0301 = 0 := by omega
      simp [none]
    · simp [h]
  · obtain ⟨s', given, now, rest⟩ := vatScrub_answer s
    obtain ⟨fits, later, near⟩ := nextMultiple_spec (m := 100000000) s.clk.fleet (by decide)
    exact ⟨s', given, by rw [now, fits], by rw [now]; exact later, by rw [now]; exact near, rest⟩
  · intro clears n to_ ignored empty set_
    have bit0 : bitAt w.toNat 0 = w.getLsbD 0 := rfl
    refine ⟨⟨_, gives_runCtl _ _ (execFaultClear.eq_1 v s) rfl rfl rfl, fun j => ?_⟩, fun off => ?_, fun off => ?_, fun on => ⟨?_, ?_⟩,
      fun good fits => ?_, fun good beyond => ?_, fun hl => ?_, fun hl h => ?_, fun hl on first => ?_⟩
    · have both : bitAt (v.toNat &&& w1cFlags) j = (v.getLsbD j && bitAt w1cFlags j) := Nat.testBit_and ..
      rw [bitAt_sub_and, both, clears_w1c, Bool.and_comm (v.getLsbD j)]
    · exact gives_runCtl _ _ (execEventRingSetup.eq_1 .base v s) (by simp [writeEvSetup, off, empty]) rfl rfl
    · exact gives_runCtl _ _ (execEventRingSetup.eq_1 .size v s) (by simp [writeEvSetup, off, empty]) rfl rfl
    · exact gives_runCtl _ _ (execEventRingSetup.eq_1 .base v s) (by simp [writeEvSetup, on, fltIgnored, ignored, pl4]) rfl rfl
    · exact gives_runCtl _ _ (execEventRingSetup.eq_1 .size v s) (by simp [writeEvSetup, on, fltIgnored, ignored, pl4]) rfl rfl
    · refine gives_run _ _ (execEventRingHead.eq_1 w s) ?_
      have straight (g : State → State) : onTable 3 g s = g s := by simp [onTable, good]
      rw [straight]
      exact if_neg (Nat.not_lt.2 fits)
    · refine gives_run _ _ (execEventRingHead.eq_1 w s) ?_
      have straight (g : State → State) : onTable 3 g s = g s := by simp [onTable, good]
      rw [straight]
      exact if_pos beyond
    · exact gives_runCtl _ _ (execEventRingEnable.eq_1 w s) (by simp [writeEvCtrl, unheld, hl]) rfl rfl
    · refine gives_runCtl _ _ (execEventRingEnable.eq_1 w s) ?_ rfl rfl
      have kept : (bitAt w.toNat 0 && !s.pwr.summaryPosted) = false := by rw [bit0]; rcases h with h | h <;> simp only [h, Bool.false_and, Bool.not_true, Bool.and_false]
      rw [writeEvCtrl, unheld, if_neg (by simpa using hl)]
      exact if_neg (Bool.eq_false_iff.1 kept)
    · refine gives_runCtl _ _ (execEventRingEnable.eq_1 w s) ?_ rfl rfl
      have posts : (bitAt w.toNat 0 && !s.pwr.summaryPosted) = true := by rw [bit0, on, first]; rfl
      rw [writeEvCtrl, unheld, if_neg (by simpa using hl)]
      exact if_pos posts

/-! ### The collector -/

theorem evBytes_length (e : Ev) (seq stamp : Nat) (ph : Bool) : (evBytes e seq stamp ph).length = 32 := by
  simp [evBytes]

/-- A part of a list. -/
theorem part_of_append {p f r : List Byte} {n m : Nat} (hp : p.length = n) (hf : f.length = m) : ((p ++ f ++ r).drop n).take m = f := by
  rw [List.append_assoc, List.drop_left' hp, List.take_left' hf]

/-- The first 8 B of an entry: its phase, severity and plane, its source, code and Seq. -/
def entryHead (e : Ev) (seq : Nat) (phase : Bool) : List Byte :=
  BitVec.ofNat 8 (b2n phase + 16 * e.sev + 64 * e.plane) :: BitVec.ofNat 8 e.src :: leBytes 2 e.code ++ leBytes 4 seq

theorem evBytes_parts (e : Ev) (seq stamp : Nat) (ph : Bool) :
    evBytes e seq stamp ph = entryHead e seq ph ++ leBytes 8 stamp ++ (e.payload ++ List.replicate 16 0).take 16 := rfl

/-- The fields of an entry (R20). -/
theorem evBytes_fields (e : Ev) (seq stamp : Nat) (ph : Bool) :
    bitAt (leNat (evBytes e seq stamp ph)) 0 = ph ∧ leNat (((evBytes e seq stamp ph).drop 1).take 1) = e.src % 2 ^ 8 ∧
      leNat (((evBytes e seq stamp ph).drop 2).take 2) = e.code % 2 ^ 16 ∧
      leNat (((evBytes e seq stamp ph).drop 4).take 4) = seq % 2 ^ 32 ∧
      leNat (((evBytes e seq stamp ph).drop 8).take 8) = stamp % 2 ^ 64 ∧
      (e.payload.length = 16 → (evBytes e seq stamp ph).drop 16 = e.payload) := by
  have word (n v k : Nat) (h : 256 ^ n = 2 ^ k) : leNat (leBytes n v) = v % 2 ^ k := by rw [leNat_leBytes, h]
  have code : evBytes e seq stamp ph = (entryHead e seq ph).take 2 ++ leBytes 2 e.code ++ (leBytes 4 seq ++
      (leBytes 8 stamp ++ (e.payload ++ List.replicate 16 0).take 16)) := by simp [evBytes, entryHead]
  have number : evBytes e seq stamp ph = (entryHead e seq ph).take 4 ++ leBytes 4 seq ++
      (leBytes 8 stamp ++ (e.payload ++ List.replicate 16 0).take 16) := by
    simp [evBytes, entryHead, List.take_append_of_le_length, List.take_of_length_le]
  refine ⟨?_, ?_, ?_, ?_, ?_, fun h => ?_⟩
  · have parity : leNat (evBytes e seq stamp ph) % 2 = b2n ph := by
      have bit : b2n ph < 2 := by cases ph <;> decide
      simp only [evBytes, List.cons_append, leNat, BitVec.toNat_ofNat]
      omega
    rw [bitAt, Nat.testBit_zero, parity]
    cases ph <;> rfl
  · simp [evBytes, leNat]
  · rw [code, part_of_append (by simp [entryHead]) (leBytes_length ..), word _ _ 16 rfl]
  · rw [number, part_of_append (by simp [entryHead]) (leBytes_length ..), word _ _ 32 rfl]
  · rw [evBytes_parts, part_of_append (by simp [entryHead]) (leBytes_length ..), word _ _ 64 rfl]
  · rw [evBytes_parts, List.drop_left' (by simp [entryHead]), List.take_left' h]

theorem collect_one {s : State} {e : Ev} (h : s.ev.queue = [e]) : collect s = evInterrupt (acceptEvent { s with ev.queue := [] } e) := by
  rw [collect, h]
  rfl

/-- Two postings are taken in order of time, and those of one time in ascending order of their sources (R21). -/
theorem collect_two {s : State} {e e2 : Ev} (h : s.ev.queue = [e, e2]) : collect s = evInterrupt
    (if e2.time < e.time ∨ e2.time = e.time ∧ e2.src < e.src then acceptEvent (acceptEvent { s with ev.queue := [] } e2) e
     else acceptEvent (acceptEvent { s with ev.queue := [] } e) e2) := by
  rw [collect, h]
  by_cases before : e2.time < e.time ∨ e2.time = e.time ∧ e2.src < e.src
  · simp [sortBy, insertBy, before]
  · simp [sortBy, insertBy, before]

/-- The ring's part of an acceptance, where an entry has room. -/
theorem acceptEvent_room {s : State} {e : Ev} (on : s.ev.enable = true) (room : (s.ev.tail + 1) % evSize s ≠ s.ev.head) :
    acceptEvent s e = { logEvent e s with
      hostMem := memWrite s.hostMem (s.ev.base + 32 * s.ev.tail) (evBytes e s.ev.seq e.time s.ev.phase)
      ev := { s.ev with
        tail := (s.ev.tail + 1) % evSize s, phase := if (s.ev.tail + 1) % evSize s = 0 then !s.ev.phase else s.ev.phase
        seq := (s.ev.seq + 1) % 2 ^ 32, irqOwed := s.ev.irqOwed || s.ev.irq } } := by
  have size : evSize (logEvent e s) = evSize s := by simp [evSize]
  simp [acceptEvent, ringEvent, size, on, room]

/-- The ring's part of an acceptance, where an entry is dropped. -/
theorem acceptEvent_full {s : State} {e : Ev} (full : ¬(s.ev.enable = true ∧ (s.ev.tail + 1) % evSize s ≠ s.ev.head)) :
    acceptEvent s e = { logEvent e s with ev := { s.ev with drop := s.ev.drop + 1, seq := (s.ev.seq + 1) % 2 ^ 32 } } := by
  have size : evSize (logEvent e s) = evSize s := by simp [evSize]
  simp only [acceptEvent, ringEvent, size, logEvent_ev]
  exact if_neg (by simpa using full)

/-- Settles O41, by the two branches of an acceptance and the two of the Fault Unit's log. -/
theorem eventCollector : Obligations.EventCollector := by
  intro e e2 s
  dsimp only
  refine ⟨⟨evBytes_length .., evBytes_fields ..⟩, collect_one, collect_two, fun room => ?_, fun full => ?_, ?_, ?_, fun fault => ?_, fun event => ?_⟩
  · rw [acceptEvent_room room.1 room.2]
    have entry := memRead_memWrite (evBytes e s.ev.seq e.time s.ev.phase) s.hostMem (s.ev.base + 32 * s.ev.tail)
    rw [evBytes_length] at entry
    refine ⟨entry, fun a ha => memGet_memWrite_outside _ _ _ _ (by rwa [evBytes_length]), rfl, rfl, rfl, rfl⟩
  · rw [acceptEvent_full full]
    exact ⟨by simp, rfl, rfl, rfl⟩
  · by_cases room : s.ev.enable = true ∧ (s.ev.tail + 1) % evSize s ≠ s.ev.head
    · rw [acceptEvent_room room.1 room.2]
    · rw [acceptEvent_full room]
  · exact acceptEvent_reported e s
  · obtain ⟨low, count⟩ : (logEvent e s).smb.alertLow = true ∧ (logEvent e s).flt.logCnt = s.flt.logCnt + 1 := by
      simp [logEvent, Nat.not_lt.2 fault]
    by_cases room : s.ev.enable = true ∧ (s.ev.tail + 1) % evSize s ≠ s.ev.head
    · rw [acceptEvent_room room.1 room.2]
      exact ⟨low, count⟩
    · rw [acceptEvent_full room]
      exact ⟨low, count⟩
  · have quiet : logEvent e s = s := if_pos event
    by_cases room : s.ev.enable = true ∧ (s.ev.tail + 1) % evSize s ≠ s.ev.head
    · rw [acceptEvent_room room.1 room.2, quiet]
      exact ⟨rfl, rfl⟩
    · rw [acceptEvent_full room, quiet]
      exact ⟨rfl, rfl⟩

end Sys2Proof.Machine
end

section
/-! PROOFS. The rings of a partition (R214, R215, R217). -/

namespace Sys2Proof.Machine

@[simp] theorem getStm_collect (s : State) (p : Nat) : getStm (collect s) p = getStm s p := by simp [getStm]

/-- What a command at a partition's rings leaves. -/
structure RingsOnly (s t : State) (p : Nat) : Prop where
  others  : ∀ q, q ≠ p → getStm t q = getStm s q
  mem     : t.mem = s.mem
  streams : t.streams = s.streams
  jobs    : t.jobs = s.jobs

theorem ringsOnly_modStm (p : Nat) (f : Stm → Stm) (s : State) : RingsOnly s (modStm p f s) p :=
  ⟨fun q hq => getStm_modStm_ne p q f s hq, rfl, rfl, rfl⟩

theorem ringsOnly_post (p src code sev : Nat) (pl : List Byte) (s : State) : RingsOnly s (post src code sev pl s) p :=
  ⟨fun _ _ => rfl, rfl, rfl, rfl⟩

theorem ringsOnly_refl (p : Nat) (s : State) : RingsOnly s s p := ⟨fun _ _ => rfl, rfl, rfl, rfl⟩

/-- A command at a partition's rings answers. -/
theorem rings_answer {i : Instr} {s u : State} {p : Nat} (f : State → State) (h : exec i s = run f s) (hf : f s = u) (only : RingsOnly s u p) :
    ∃ s', exec i s = .next s' ∧ ((∀ q, q ≠ p → getStm s' q = getStm s q) ∧ s'.mem = s.mem ∧ s'.streams = s.streams ∧ s'.jobs = s.jobs) ∧
      getStm s' p = getStm u p := by
  have stm (q : Nat) : getStm { collect u with pending := s.pending } q = getStm u q := getStm_collect u q
  refine ⟨_, gives_run f u h hf, ⟨fun q hq => (stm q).trans (only.others q hq), ?_, ?_, ?_⟩, stm p⟩
  · exact (collect_mem u).trans only.mem
  · exact (collect_streams u).trans only.streams
  · exact (collect_jobs u).trans only.jobs

theorem ringGap_of_lt {n a : Nat} (b : Nat) (h : a < n) : ringGap n a b = (b + n - a) % n := by
  rw [ringGap, Nat.mod_eq_of_lt h]

/-- A command that changes a partition's rings, where it does not ignore its value. -/
theorem ring_write {i : Instr} {s : State} {p : Nat} (f : State → State) (g : Stm → Stm) (src code sev : Nat) (pl : List Byte) {c : Prop} [Decidable c]
    (h : exec i s = run f s) (hf : f s = if c then post src code sev pl s else modStm p g s) :
    ∃ s', exec i s = .next s' ∧ ((∀ q, q ≠ p → getStm s' q = getStm s q) ∧ s'.mem = s.mem ∧ s'.streams = s.streams ∧ s'.jobs = s.jobs) ∧
      getStm s' p = if c then getStm s p else g (getStm s p) := by
  by_cases hc : c
  · rw [if_pos hc] at hf ⊢
    obtain ⟨s', given, only, stm⟩ := rings_answer f h hf (ringsOnly_post ..)
    exact ⟨s', given, only, stm⟩
  · rw [if_neg hc] at hf ⊢
    obtain ⟨s', given, only, stm⟩ := rings_answer f h hf (ringsOnly_modStm ..)
    exact ⟨s', given, only, stm.trans (getStm_modStm_self ..)⟩

/-- Settles O14, by the one condition on which each ring register ignores a value. -/
theorem submissionAndCompletionRings : Obligations.SubmissionAndCompletionRings := by
  refine ⟨fun p s idx v => ⟨fun ht hh => ?_, fun ht hh => ?_, ?_, ?_, ?_, ?_⟩, fun p v toks s => ⟨?_, ?_⟩⟩
  · obtain ⟨s', given, only, stm⟩ := ring_write (i := .doorbell p idx) (s := s) (p := p.val) _ _ _ _ _ _ (execDoorbell.eq_1 p idx s) rfl
    rw [ringLen, ringGap_of_lt _ hh, ringGap_of_lt _ ht] at stm
    refine ⟨s', given, only, fun fits => ?_, fun beyond => ?_⟩
    · exact stm.trans (if_neg (by omega))
    · exact stm.trans (if_pos (by omega))
  · obtain ⟨s', given, only, stm⟩ := ring_write (i := .stmCqhead p idx) (s := s) (p := p.val) _ _ _ _ _ _ (execStmCqhead.eq_1 p idx s) rfl
    rw [ringLen, ringGap_of_lt _ hh, ringGap_of_lt _ hh] at stm
    exact ⟨s', given, only, fun fits => stm.trans (if_neg (Nat.not_lt.2 fits)), fun beyond => stm.trans (if_pos beyond)⟩
  · exact ring_write (i := .submissionRingSetup p .base v) _ _ _ _ _ _ (execSubmissionRingSetup.eq_1 p .base v s) rfl
  · exact ring_write (i := .submissionRingSetup p .size v) _ _ _ _ _ _ (execSubmissionRingSetup.eq_1 p .size v s) rfl
  · exact ring_write (i := .completionRingSetup p .base v) _ _ _ _ _ _ (execCompletionRingSetup.eq_1 p .base v s) rfl
  · exact ring_write (i := .completionRingSetup p .size v) _ _ _ _ _ _ (execCompletionRingSetup.eq_1 p .size v s) rfl
  · simp [subEntryOf, bits]
  · by_cases reads : (getStm s p).enable = true ∧ (getStm s p).sqHead ≠ (getStm s p).sqTail ∧ (getStm s p).pend.length < 1024
    · obtain ⟨on, some_, room⟩ := reads
      obtain ⟨s', given, ⟨others, mem, streams, -⟩, stm⟩ := rings_answer (i := .submissionRead p ⟨v, toks⟩) (s := s) _ (execSubmissionRead.eq_1 p ⟨v, toks⟩ s)
        (if_pos (by simp [on, some_, room])) (ringsOnly_modStm p.val _ s)
      rw [getStm_modStm_self] at stm
      refine ⟨s', given, mem, streams, others, fun _ _ _ => ?_, fun h => ?_⟩
      · rw [stm]
        exact ⟨rfl, _, rfl⟩
      · rcases h with h | h | h
        · simp [on] at h
        · exact absurd h some_
        · omega
    · obtain ⟨s', given, ⟨others, mem, streams, -⟩, stm⟩ := rings_answer (i := .submissionRead p ⟨v, toks⟩) (s := s) _ (execSubmissionRead.eq_1 p ⟨v, toks⟩ s)
        (if_neg (by simpa [and_assoc] using reads)) (ringsOnly_refl p.val s)
      exact ⟨s', given, mem, streams, others, fun on some_ room => absurd ⟨on, some_, room⟩ reads, fun _ => stm⟩

end Sys2Proof.Machine
end

section
/-! PROOFS. What link operations leave, and control blocks on an Up link (R168, R174, R177 to R182). -/

namespace Sys2Proof.Machine

/-! ### Changes of links alone -/

/-- Of the machine only links have changed, and postings have been made. -/
def LinksOnly (s t : State) : Prop := t = { s with links := t.links, ev.queue := t.ev.queue }

theorem LinksOnly.refl (s : State) : LinksOnly s s := rfl

theorem LinksOnly.trans {s t u : State} (h : LinksOnly s t) (h' : LinksOnly t u) : LinksOnly s u := by
  rw [LinksOnly] at *
  rw [h', h]

theorem linksOnly_modLink (n : Nat) (f : Link → Link) (s : State) : LinksOnly s (modLink n f s) := rfl
theorem linksOnly_post (src code sev : Nat) (p : List Byte) (s : State) : LinksOnly s (post src code sev p s) := rfl
theorem linksOnly_enqueue (n : Nat) (x : TxFrame) (s : State) : LinksOnly s (enqueue n x s) := rfl

theorem linksOnly_ite {c : Prop} [Decidable c] {s t u : State} (ht : LinksOnly s t) (hu : LinksOnly s u) : LinksOnly s (if c then t else u) := by
  split
  · exact ht
  · exact hu

theorem linksOnly_foldl {β : Type} (g : State → β → State) (hg : ∀ s x, LinksOnly s (g s x)) (xs : List β) (s : State) :
    LinksOnly s (xs.foldl g s) := by
  induction xs generalizing s with
  | nil => exact .refl s
  | cons x xs ih => exact (hg s x).trans (ih _)

theorem linksOnly_setLinkState (n : Nat) (x : LinkState) (s : State) : LinksOnly s (setLinkState n x s) :=
  linksOnly_ite (.refl s) ((linksOnly_modLink ..).trans (linksOnly_post ..))

theorem linksOnly_moveToAlternates (n : Nat) (s : State) : LinksOnly s (moveToAlternates n s) := by
  refine (linksOnly_modLink n _ s).trans (linksOnly_foldl _ (fun t x => ?_) _ _)
  split
  · exact linksOnly_enqueue ..
  · exact .refl t

theorem linksOnly_beginFast (n : Nat) (own : Bool) (s : State) : LinksOnly s (beginFast n own s) :=
  ((linksOnly_modLink ..).trans (linksOnly_setLinkState ..)).trans (linksOnly_moveToAlternates ..)

theorem linksOnly_beginTrain (n : Nat) (own : Bool) (s : State) : LinksOnly s (beginTrain n own s) :=
  (linksOnly_modLink ..).trans (((linksOnly_modLink ..).trans (linksOnly_setLinkState ..)).trans (linksOnly_moveToAlternates ..))

theorem linksOnly_dropLinks (s : State) : LinksOnly s (dropLinks s) :=
  linksOnly_foldl _ (fun t n => linksOnly_ite (linksOnly_beginTrain n false t) (.refl t)) _ s

/-- A command that changes links alone answers. -/
theorem links_answer {i : Instr} {s u : State} (f : State → State) (h : exec i s = runCtl f s) (hf : f s = u) (only : LinksOnly s u) :
    ∃ s', exec i s = .next s' ∧ (∀ k, getLink s' k = getLink u k) ∧ s' = { reported s s' with links := s'.links } := by
  have given := gives_runCtl f u h hf (by rw [only]) (by rw [only])
  have links : ({ collect u with pending := s.pending } : State).links = u.links := collect_links u
  have own := answer_reported s.pending u
  refine ⟨_, given, fun k => (congrArg (fun t : Table Link => tget {} t k) links :), ?_⟩
  generalize ({ collect u with pending := s.pending } : State) = s' at links own ⊢
  rw [links]
  exact own.trans (congrArg (fun y : State => { reported y s' with pending := s.pending }) only)

/-! ### One link -/

theorem modLink_eq (n : Nat) (f : Link → Link) (s : State) : modLink n f s = { s with links := tput s.links n (f (getLink s n)) } := rfl

/-- A link's change depends on the link alone. -/
theorem modLink_congr {n : Nat} {f g : Link → Link} {s : State} (h : f (getLink s n) = g (getLink s n)) : modLink n f s = modLink n g s := by
  rw [modLink_eq, h, modLink_eq]

/-- A link but for what waits on it. -/
def Link.core (l : Link) : Link := { l with qU := [], qS := [], qB := [], uExcess := 0, sExcess := 0 }

/-- Links that differ in what waits on them alone. -/
def CoresOf (s t : State) : Prop := ∀ k, (getLink t k).core = (getLink s k).core

theorem CoresOf.trans {s t u : State} (h : CoresOf s t) (h' : CoresOf t u) : CoresOf s u := fun k => (h' k).trans (h k)

theorem coresOf_modLink {n : Nat} {f : Link → Link} {s : State} (h : (f (getLink s n)).core = (getLink s n).core) : CoresOf s (modLink n f s) := by
  intro k
  by_cases hk : k = n
  · rw [hk, getLink_modLink_self, h]
  · rw [getLink_modLink_ne _ _ _ _ hk]

theorem coresOf_enqueue (n : Nat) (x : TxFrame) (s : State) : CoresOf s (enqueue n x s) :=
  coresOf_modLink (by
    split
    · rfl
    · split <;> rfl)

theorem coresOf_foldl {β : Type} (g : State → β → State) (hg : ∀ s x, CoresOf s (g s x)) (xs : List β) (s : State) :
    CoresOf s (xs.foldl g s) := by
  induction xs generalizing s with
  | nil => exact fun _ => rfl
  | cons x xs ih => exact (hg s x).trans (ih _)

theorem coresOf_moveToAlternates (n : Nat) (s : State) : CoresOf s (moveToAlternates n s) := by
  refine CoresOf.trans (coresOf_modLink rfl) (coresOf_foldl _ (fun t x => ?_) _ _)
  split
  · exact coresOf_enqueue _ _ _
  · exact fun _ => rfl

/-- What is read of a link but for what waits on it. -/
theorem CoresOf.read {s t : State} (h : CoresOf s t) {α : Type} (f : Link → α) (hf : ∀ l : Link, f l.core = f l) (k : Nat) :
    f (getLink t k) = f (getLink s k) := by
  rw [← hf, h k, hf]

theorem getLink_post (src code sev : Nat) (p : List Byte) (s : State) (k : Nat) : getLink (post src code sev p s) k = getLink s k := rfl

/-- A link that goes to a state other than Up. -/
theorem setLinkState_self {n : Nat} {x : LinkState} (hx : x ≠ .up) (s : State) :
    getLink (setLinkState n x s) n = { getLink s n with state := x } := by
  rw [setLinkState]
  split
  · next h => rw [← h]
  · simp [getLink_post, hx]

theorem setLinkState_ne {n k : Nat} (x : LinkState) (s : State) (h : k ≠ n) : getLink (setLinkState n x s) k = getLink s k := by
  rw [setLinkState]
  split
  · rfl
  · rw [getLink_post, getLink_modLink_ne _ _ _ _ h]

/-- A link that retrains fast. -/
theorem beginFast_core (n : Nat) (own : Bool) (s : State) : (getLink (beginFast n own s) n).core =
    { (getLink s n).core with state := .fastRetrain, fastRt := (getLink s n).fastRt + 1
                              wire := if own then (getLink s n).wire ++ [.retrain 1] else (getLink s n).wire } := by
  rw [beginFast, coresOf_moveToAlternates, setLinkState_self (by decide), getLink_modLink_self]
  rfl

/-- A link that trains. -/
theorem beginTrain_core (n : Nat) (own : Bool) (s : State) : (getLink (beginTrain n own s) n).core =
    { (getLink s n).core with
      state := .train, fullRt := (getLink s n).fullRt + 1
      wire := if own && (getLink s n).state == .up then (getLink s n).wire ++ [.retrain 2] else (getLink s n).wire } := by
  rw [beginTrain, enterTrain, coresOf_moveToAlternates, setLinkState_self (by decide), getLink_modLink_self, getLink_modLink_self]
  rfl

theorem beginTrain_ne {n k : Nat} (own : Bool) (s : State) (h : k ≠ n) : (getLink (beginTrain n own s) k).core = (getLink s k).core := by
  rw [beginTrain, enterTrain, coresOf_moveToAlternates, setLinkState_ne _ _ h, getLink_modLink_ne _ _ _ _ h, getLink_modLink_ne _ _ _ _ h]

/-! ### Control blocks -/

theorem linkUp_iff (s : State) (n : Nat) : linkUp s n = true ↔ (getLink s n).state = .up := by simp [linkUp]

theorem ifUp_up {l : Fin 8} {s : State} (h : (getLink s l.val).state = .up) (f : State → State) : ifUp l f s = f s :=
  if_pos ((linkUp_iff s l).2 h)

theorem ifUp_down {l : Fin 8} {s : State} (h : (getLink s l.val).state ≠ .up) (f : State → State) : ifUp l f s = s :=
  if_neg (mt (linkUp_iff s l).1 h)

theorem checkRemap_idle {s : State} (h : s.flt.remap.source = false) : checkRemap s = s := by
  simp [checkRemap, h]

/-- The change of a link at an acknowledgement. -/
def acked (now ack : Nat) (y : Link) : Link :=
  let held := y.unacked.dropWhile fun f => !newer 16 f.seq.toNat ack
  { y with
    unacked := held, replayQ := y.replayQ.filter fun f => newer 16 f.seq.toNat ack
    ackAt := if held.length < y.unacked.length then now else y.ackAt }

theorem takeAck_eq {s : State} (n ack : Nat) (h : s.flt.remap.source = false) : takeAck n ack s = modLink n (acked s.clk.fleet ack) s := by
  refine (checkRemap_idle ?_).trans (modLink_congr rfl)
  exact h

/-- The change of a link that owes a Nak. -/
def owesNak (now : Nat) (y : Link) : Link :=
  if (match y.nakAt with | none => true | some t => decide (t + 2000 ≤ now)) then { y with nakOwed := true, nakAt := some now } else y

/-- A link after a fault in a frame. -/
theorem discardOn_eq (n : Nat) (s : State) : discardOn n s = modLink n (fun y => owesNak s.clk.fleet { y with gap := true }) s := by
  have link : getLink (modLink n (fun l => { l with gap := true }) s) n = { getLink s n with gap := true } := getLink_modLink_self ..
  unfold discardOn oweNak
  dsimp only
  rw [link]
  by_cases h : (match (getLink s n).nakAt with | none => true | some t => decide (t + 2000 ≤ s.clk.fleet)) = true
  · refine (if_pos h).trans ?_
    rw [modLink_modLink]
    exact modLink_congr (if_pos h).symm
  · exact (if_neg h).trans (modLink_congr (if_neg h).symm)

section
variable {l : Fin 8} {s : State} (down : (getLink s l.val).state ≠ .up)
include down

/-- A block at a link that is not Up does nothing. -/
theorem gives_ifBlock_down {i : Instr} (x : BlockRx) (hx : x.link = l) (f : State → State) (h : exec i s = runCtl (ifBlock x f) s) : Gives i s s := by
  subst hx
  exact gives_runCtl _ _ h (ifUp_down down _) rfl rfl

theorem gives_ifUp_down {i : Instr} (f : State → State) (h : exec i s = runCtl (ifUp l f) s) : Gives i s s :=
  gives_runCtl _ _ h (ifUp_down down _) rfl rfl

end

/-- Settles O32, by what each block does to its link. -/
theorem controlBlocks : Obligations.ControlBlocks := by
  intro l q u c b k w inFrame sym s n x nak asked
  refine ⟨fun up => ?_, fun up idle => ?_, fun up some_ => ?_, fun up none_ => ?_, fun up res => ?_, fun up => ?_, fun up => ?_,
    fun up fast => ?_, fun up full => ?_, fun down => ⟨?_, ?_, ?_, ?_, ?_, ?_, ?_⟩⟩
  · refine gives_runCtl _ _ (execAlignmentMarker.eq_1 ⟨l, sym⟩ k w s) ?_ rfl rfl
    rw [ifBlock, ifUp_up up, Function.comp_apply, countSymbols, id, modLink_modLink]
    exact modLink_congr rfl
  · refine gives_runCtl _ _ (execAck.eq_1 ⟨l, sym⟩ q u c b s) ?_ rfl rfl
    rw [ifBlock, ifUp_up up, Function.comp_apply, Function.comp_apply]
    refine (takeAck_eq _ _ ?_).trans ?_
    · exact idle
    · rw [countSymbols, addCredits, modLink_modLink, modLink_modLink]
      refine modLink_congr ?_
      unfold acked
      rfl
  · refine gives_runCtl _ _ (execNak.eq_1 ⟨l, sym⟩ q s) ?_ rfl rfl
    rw [ifBlock, ifUp_up up, Function.comp_apply, beginReplay, countSymbols, if_neg (by simpa using some_), modLink_modLink]
    exact modLink_congr rfl
  · refine gives_runCtl _ _ (execNak.eq_1 ⟨l, sym⟩ q s) ?_ rfl rfl
    rw [ifBlock, ifUp_up up, Function.comp_apply, beginReplay, countSymbols, if_pos (by simpa using none_)]
    exact modLink_congr rfl
  · refine gives_runCtl _ _ (execReservedControlBlock.eq_1 ⟨l, sym⟩ k s) ?_ rfl rfl
    rw [ifBlock, ifUp_up up, Function.comp_apply, if_pos res, linkError, countSymbols, modLink_modLink]
    exact modLink_congr rfl
  · refine gives_runCtl _ _ (execUncorrectableCodeword.eq_1 l inFrame s) ?_ rfl rfl
    rw [ifUp_up up, linkError, modLink_modLink]
    cases inFrame
    · exact modLink_congr rfl
    · rw [if_pos rfl, discardOn_eq, modLink_modLink]
      exact modLink_congr rfl
  · refine gives_runCtl _ _ (execFrameCrcFailure.eq_1 l s) ?_ rfl rfl
    rw [ifUp_up up, linkError, modLink_modLink, discardOn_eq, modLink_modLink]
    exact modLink_congr rfl
  · obtain ⟨s', given, links, only⟩ := links_answer (i := .retrainRequest ⟨l, sym⟩ k) (s := s) (u := beginFast n false (countSymbols n sym s)) _
      (execRetrainRequest.eq_1 ⟨l, sym⟩ k s) (by rw [ifBlock, ifUp_up up, Function.comp_apply, if_pos fast])
      ((linksOnly_modLink ..).trans (linksOnly_beginFast ..))
    have core := beginFast_core n false (countSymbols n sym s)
    have link : getLink (countSymbols n sym s) n = { x with corrSym := x.corrSym + sym } := getLink_modLink_self ..
    rw [link] at core
    rw [← links] at core
    exact ⟨s', given, congrArg Link.state core, congrArg Link.fastRt core, only⟩
  · obtain ⟨s', given, links, only⟩ := links_answer (i := .retrainRequest ⟨l, sym⟩ k) (s := s) (u := beginTrain n false (countSymbols n sym s)) _
      (execRetrainRequest.eq_1 ⟨l, sym⟩ k s) (by rw [ifBlock, ifUp_up up, Function.comp_apply, if_neg (by rw [full]; decide), if_pos full])
      ((linksOnly_modLink ..).trans (linksOnly_beginTrain ..))
    have core := beginTrain_core n false (countSymbols n sym s)
    have link : getLink (countSymbols n sym s) n = { x with corrSym := x.corrSym + sym } := getLink_modLink_self ..
    rw [link] at core
    rw [← links] at core
    exact ⟨s', given, congrArg Link.state core, congrArg Link.fullRt core, only⟩
  · exact gives_ifBlock_down down _ rfl _ (execAck.eq_1 ⟨l, sym⟩ q u c b s)
  · exact gives_ifBlock_down down _ rfl _ (execNak.eq_1 ⟨l, sym⟩ q s)
  · exact gives_ifBlock_down down _ rfl _ (execReservedControlBlock.eq_1 ⟨l, sym⟩ k s)
  · exact gives_ifUp_down down _ (execUncorrectableCodeword.eq_1 l inFrame s)
  · exact gives_ifUp_down down _ (execFrameCrcFailure.eq_1 l s)
  · exact gives_ifBlock_down down _ rfl _ (execRetrainRequest.eq_1 ⟨l, sym⟩ k s)
  · refine gives_runCtl _ _ (execAlignmentMarker.eq_1 ⟨l, sym⟩ k w s) ?_ rfl rfl
    rw [ifBlock, ifUp_down down]

end Sys2Proof.Machine
end

section
/-! PROOFS. The error window and limit of a link, the mirror check (R181, R182, R185, R208), and the TAP (R358 to R360). -/

namespace Sys2Proof.Machine

/-! ### A frame on the wire -/

@[simp] theorem getLink_chargeLink (x : TxFrame) (s : State) (k : Nat) : getLink (chargeLink x s) k = getLink s k := by
  unfold chargeLink
  split
  · split <;> rfl
  · rfl

@[simp] theorem getLink_noteSent (n : Nat) (x : TxFrame) (s : State) (k : Nat) : getLink (noteSent n x s) k = getLink s k := by
  unfold noteSent
  split <;> rfl

/-- Credits owed change neither the wire nor the state of a link. -/
theorem oweCredits_wire (m : Nat) (f : Frame) (s : State) (k : Nat) :
    (getLink (oweCredits m f s) k).wire = (getLink s k).wire ∧ (getLink (oweCredits m f s) k).state = (getLink s k).state := by
  by_cases hk : k = m
  · rw [hk, oweCredits, getLink_modLink_self]
    split
    · exact ⟨rfl, rfl⟩
    · split <;> exact ⟨rfl, rfl⟩
  · rw [oweCredits, getLink_modLink_ne _ _ _ _ hk]
    exact ⟨rfl, rfl⟩

/-- The frame that a link sends (R170, R177). -/
def sentFrame (n : Nat) (x : TxFrame) (s : State) : Frame :=
  { stampFrame s x with
    seq := BitVec.ofNat 16 (getLink s n).txSeq, ackSeq := BitVec.ofNat 16 ((getLink s n).rxSeq + 65535)
    creditClass := BitVec.ofNat 2 (owedTrailer (getLink s n)).1, creditUnits := BitVec.ofNat 10 (owedTrailer (getLink s n)).2 }

/-- A link after it has sent a frame. -/
def sentLink (now : Nat) (f : Frame) (l : Link) : Link :=
  let cc := (owedTrailer l).1
  let cu := (owedTrailer l).2
  let k := frameCredits f
  let b := frameBytes f
  { l with
    txSeq := (l.txSeq + 1) % 65536, ackOwed := false, unacked := l.unacked ++ [f], wire := l.wire ++ [.frame f (frameWire f)]
    blocks := l.blocks + frameBlocks f
    ackAt := if l.unacked.isEmpty then now else l.ackAt
    owedU := if cc = 0 then l.owedU - cu else l.owedU, owedS := if cc = 1 then l.owedS - cu else l.owedS
    owedB := if cc = 2 then l.owedB - cu else l.owedB
    crU := if f.cls = 0 then l.crU - k else l.crU, crS := if f.cls = 1 then l.crS - k else l.crS
    crB := if f.cls = 2 then l.crB - k else l.crB
    txU := if f.cls = 0 then l.txU + b else l.txU, txS := if f.cls = 1 then l.txS + b else l.txS
    txB := if f.cls = 2 then l.txB + b else l.txB
    uBeat := if f.cls = 0 then l.uBeat + b else l.uBeat
    sBeat := if f.cls = 1 then l.sBeat + 64 * f.units.toNat else l.sBeat }

/-- A frame of this chip on the wire. -/
theorem transmit_own {x : TxFrame} (h : x.from_ = none) (n : Nat) (s : State) :
    getLink (transmit n x s) n = sentLink s.clk.fleet (sentFrame n x s) (getLink s n) := by
  unfold transmit
  simp only [h, getLink_noteSent, getLink_chargeLink, getLink_modLink_self]
  rfl

theorem stampFrame_kind (s : State) (x : TxFrame) :
    (stampFrame s x).kind = x.fr.kind ∧ (stampFrame s x).dst = x.fr.dst ∧ (stampFrame s x).cls = x.fr.cls ∧
      (stampFrame s x).units = x.fr.units ∧ (stampFrame s x).payload = x.fr.payload := by
  unfold stampFrame
  split
  · exact ⟨rfl, rfl, rfl, rfl, rfl⟩
  · split <;> exact ⟨rfl, rfl, rfl, rfl, rfl⟩

/-- Any frame on the wire. -/
theorem transmit_wire (n : Nat) (x : TxFrame) (s : State) : (getLink (transmit n x s) n).wire =
    (getLink s n).wire ++ [.frame (sentFrame n x s) (frameWire (sentFrame n x s))] ∧ (getLink (transmit n x s) n).state = (getLink s n).state := by
  cases h : x.from_ with
  | none =>
    rw [transmit_own h]
    exact ⟨rfl, rfl⟩
  | some m =>
    unfold transmit
    simp only [h, getLink_noteSent, getLink_chargeLink, oweCredits_wire, getLink_modLink_self]
    exact ⟨rfl, trivial⟩

/-! ### The error limit -/

theorem dupLink_ne {s : State} {d n m : Nat} (h : dupLink s d n = some m) : m ≠ n := by
  unfold dupLink at h
  dsimp only at h
  split at h
  · next hc =>
    cases h
    simp only [Bool.and_eq_true, bne_iff_ne] at hc
    exact hc.1.2
  · cases h

theorem lastU_none {n : Nat} {s : State} (h : (getLink s n).qU = []) : lastU n s = s := by
  simp [lastU, h]

/-- The last U frame of a link that leaves Up. -/
theorem lastU_some {n : Nat} {s : State} {x : TxFrame} {rest : List TxFrame} (h : (getLink s n).qU = x :: rest)
    (fits : replayFits (getLink s n) x.fr = true) (credits : frameCredits x.fr ≤ (getLink s n).crU) (none_ : (getLink s n).replayQ = []) :
    ∃ g, g.kind = x.fr.kind ∧ g.dst = x.fr.dst ∧ (getLink (lastU n s) n).wire = (getLink s n).wire ++ [.frame g (frameWire g)] ∧
      (getLink (lastU n s) n).state = (getLink s n).state := by
  have own : getLink (modLink n (fun l => { l with qU := rest }) s) n = { getLink s n with qU := rest } := getLink_modLink_self ..
  have goes : (!replayFits (getLink s n) x.fr || decide ((getLink s n).crU < frameCredits x.fr) || !(getLink s n).replayQ.isEmpty) = false := by
    simp [fits, none_, credits]
  unfold lastU
  simp only [h, goes, Bool.false_eq_true, if_false]
  split
  · next m hm =>
    have other : m ≠ n := by
      obtain ⟨hd, -⟩ := Option.filter_eq_some_iff.1 hm
      exact dupLink_ne hd
    let d : TxFrame := { x with fr := { x.fr with dup := true } }
    let u := modLink m (fun l => { l with qU := { d with from_ := none } :: l.qU }) (modLink n (fun l => { l with qU := rest }) s)
    obtain ⟨kind, dst, -⟩ := stampFrame_kind u d
    obtain ⟨wire, state⟩ := transmit_wire n d u
    refine ⟨sentFrame n d u, kind, dst, wire.trans ?_, state.trans ?_⟩
    · rw [getLink_modLink_ne _ _ _ _ other.symm, own]
    · rw [getLink_modLink_ne _ _ _ _ other.symm, own]
  · let u := modLink n (fun l => { l with qU := rest }) s
    obtain ⟨kind, dst, -⟩ := stampFrame_kind u x
    obtain ⟨wire, state⟩ := transmit_wire n x u
    refine ⟨sentFrame n x u, kind, dst, wire.trans ?_, state.trans ?_⟩
    · rw [own]
    · rw [own]

theorem nextBoundary_last (s : State) (last : Nat) : nextBoundary 1000000 last s.clk.fleet =
    if last < s.clk.fleet / 1000000 * 1000000 then s.clk.fleet / 1000000 * 1000000 else s.clk.fleet / 1000000 * 1000000 + 1000000 := by
  rw [nextBoundary, nextMultiple, Nat.add_mul, Nat.one_mul]

/-- Whether a fast retrain was completed within 16 ms (R185). -/
def fastAgain (l : Link) (now : Nat) : Bool :=
  match l.lastFast with
  | some f => decide (now ≤ f + 16000000)
  | none => false

theorem fastAgain_none {l : Link} (h : l.lastFast = none) (now : Nat) : fastAgain l now = false := by
  simp [fastAgain, h]

theorem fastAgain_some {l : Link} {t : Nat} (h : l.lastFast = some t) (now : Nat) : fastAgain l now = decide (now ≤ t + 16000000) := by
  simp [fastAgain, h]

/-- The state in which a link at its error limit leaves Up. -/
def atLimit (n : Nat) (s : State) : State :=
  lastU n (quiet n (post (0x10 + n) 2 1 (pl4 (getLink s n).errs ++ pl8 (getLink s n).winFrom) s))

/-- A change of a link at an instant reaches neither memory nor the thread processors. Stated for any instant, so that a use does not
evaluate the one at hand. -/
theorem modLink_advanceTo_mem (n t : Nat) (f : Link → Link) (s : State) :
    (modLink n f (advanceTo t s)).mem = s.mem ∧ (modLink n f (advanceTo t s)).tps = s.tps := by
  simp [modLink]

theorem errorWindow_gives (l : Fin 8) (s : State) : Gives (.errorWindow l) s
    (modLink l.val (fun y => { y with errs := 0, winFrom := (advanceTo (nextBoundary 1000000 (getLink s l.val).winFrom s.clk.fleet) s).clk.fleet })
      (advanceTo (nextBoundary 1000000 (getLink s l.val).winFrom s.clk.fleet) s)) :=
  gives_runCtl _ _ (execErrorWindow.eq_1 l s) rfl (modLink_advanceTo_mem ..).1 (modLink_advanceTo_mem ..).2

/-- How a link at its limit leaves Up. -/
def leaveUp (n : Nat) (s : State) : State :=
  if fastAgain (getLink s n) s.clk.fleet then beginTrain n true (atLimit n s) else beginFast n true (atLimit n s)

section
variable {l : Fin 8} {s : State} (up : (getLink s l.val).state = .up)
include up

theorem errorLimit_below (h : (getLink s l.val).errs < cfgVal s 0x0402) : Gives (.errorLimit l) s s :=
  gives_runCtl _ _ (execErrorLimit.eq_1 l s) ((ifUp_up up _).trans (if_pos h)) rfl rfl

/-- The effect of the limit, on a link that has reached it. -/
theorem errorLimit_effect (h : cfgVal s 0x0402 ≤ (getLink s l.val).errs) :
    ∃ f, exec (.errorLimit l) s = runCtl f s ∧ f s = leaveUp l.val s :=
  ⟨_, execErrorLimit.eq_1 l s, (ifUp_up up _).trans (if_neg (Nat.not_lt.2 h))⟩

end

/-- The links after the answer of a command that reaches neither memory nor the thread processors. -/
theorem ctl_links {i : Instr} {s u : State} {f : State → State} (h : exec i s = runCtl f s) (hf : f s = u) :
    ∃ s', exec i s = .next s' ∧ ∀ k, getLink s' k = getLink u k := by
  have links : (collect u).links = u.links := collect_links u
  refine ⟨{ collect u with pending := s.pending, mem := s.mem, tps := s.tps }, ?_, fun k => (congrArg (fun t : Table Link => tget {} t k) links :)⟩
  rw [h, runCtl, hf]

theorem linksOnly_leaveUp {n : Nat} {s : State} (h : LinksOnly s (atLimit n s)) : LinksOnly s (leaveUp n s) :=
  linksOnly_ite (h.trans (linksOnly_beginTrain ..)) (h.trans (linksOnly_beginFast ..))

/-- A link at its error limit leaves Up for the training that it asks its partner for. -/
theorem leaveUp_link {n : Nat} {s : State} {w : List Wire} (up : (getLink (atLimit n s) n).state = .up) (wire : (getLink (atLimit n s) n).wire = w) :
    (getLink (leaveUp n s) n).state = (if fastAgain (getLink s n) s.clk.fleet then .train else .fastRetrain) ∧
      (getLink (leaveUp n s) n).wire = w ++ [.retrain (if (getLink (leaveUp n s) n).state = .train then 2 else 1)] ∧
      (fastAgain (getLink s n) s.clk.fleet = false → (getLink (leaveUp n s) n).fastRt = (getLink (atLimit n s) n).fastRt + 1) := by
  unfold leaveUp
  split
  · next again =>
    have core := beginTrain_core n true (atLimit n s)
    have state := congrArg Link.state core
    have sent := congrArg Link.wire core
    dsimp only [Link.core] at state sent
    rw [state, sent, up, wire]
    exact ⟨rfl, rfl, fun h => absurd again (Bool.eq_false_iff.1 h)⟩
  · have core := beginFast_core n true (atLimit n s)
    have state := congrArg Link.state core
    have sent := congrArg Link.wire core
    have fast := congrArg Link.fastRt core
    dsimp only [Link.core] at state sent fast
    rw [state, sent, fast, wire]
    exact ⟨rfl, rfl, fun _ => rfl⟩

/-- Settles O37, by the link's state and wire at its error limit. -/
theorem linkErrors : Obligations.LinkErrors := by
  intro l s n x last t a b
  refine ⟨?_, fun h => ?_, fun up full none_ => ?_, fun f rest up full queue fresh fits credits => ?_, ?_⟩
  · have given := errorWindow_gives l s
    rw [nextBoundary_last] at given
    exact given
  · by_cases up : x.state = .up
    · exact errorLimit_below up (h.resolve_left (fun no => no up))
    · exact gives_runCtl _ _ (execErrorLimit.eq_1 l s) (ifUp_down up _) rfl rfl
  · obtain ⟨e, effect, result⟩ := errorLimit_effect up full
    have limit : atLimit n s = quiet n (post (0x10 + n) 2 1 (pl4 x.errs ++ pl8 x.winFrom) s) := lastU_none (by rw [quiet, getLink_modLink_self]; exact none_)
    have own : getLink (atLimit n s) n = { x with wire := [] } := by rw [limit, quiet, getLink_modLink_self]; rfl
    obtain ⟨s', given, links, only⟩ := links_answer e effect result
      (linksOnly_leaveUp (by rw [limit]; exact (linksOnly_post ..).trans (linksOnly_modLink ..)))
    obtain ⟨state, wire, fast⟩ := leaveUp_link (n := n) (s := s) (w := []) (by rw [own]; exact up) (by rw [own])
    rw [← links] at state wire fast
    rw [own] at fast
    refine ⟨s', given, fun none_ => ?_, fun t since past => ?_, fun t since near => ?_, wire, only⟩
    · have once : fastAgain (getLink s n) s.clk.fleet = false := fastAgain_none none_ _
      exact ⟨by rw [state, once]; rfl, fast once⟩
    · have once : fastAgain (getLink s n) s.clk.fleet = false := (fastAgain_some since _).trans (decide_eq_false (Nat.not_le.2 past))
      rw [state, once]; rfl
    · have again : fastAgain (getLink s n) s.clk.fleet = true := (fastAgain_some since _).trans (decide_eq_true near)
      rw [state, again]; rfl
  · obtain ⟨e, effect, result⟩ := errorLimit_effect up full
    have quiet_ : getLink (quiet n (post (0x10 + n) 2 1 (pl4 x.errs ++ pl8 x.winFrom) s)) n = { x with wire := [] } := getLink_modLink_self ..
    obtain ⟨g, kind, dst, sent, state⟩ := lastU_some (n := n) (s := quiet n (post (0x10 + n) 2 1 (pl4 x.errs ++ pl8 x.winFrom) s)) (x := f)
      (rest := rest) (by rw [quiet_]; exact queue) (by rw [quiet_]; exact fits) (by rw [quiet_]; exact credits) (by rw [quiet_]; exact fresh)
    rw [quiet_] at sent state
    obtain ⟨-, wire, -⟩ := leaveUp_link (n := n) (s := s) (state.trans up) sent
    obtain ⟨s', given, links⟩ := ctl_links effect result
    rw [← links] at wire
    exact ⟨s', g, given, kind, dst, wire⟩
  · exact gives_runCtl _ _ (execMirrorCheck.eq_1 s) rfl rfl rfl

theorem LinksOnly.tap {s t : State} (h : LinksOnly s t) : t.tap = s.tap := by rw [h]
theorem LinksOnly.otp {s t : State} (h : LinksOnly s t) : t.otp = s.otp := by rw [h]

/-! ### Boundary scan -/

/-- A link that no longer carries frames. -/
def Link.down (l : Link) : Prop := l.state ≠ .up ∧ l.state ≠ .fastRetrain

theorem down_of_core {l m : Link} (h : m.core = l.core) : m.down ↔ l.down := by
  have state : m.core.state = l.core.state := by rw [h]
  have state : m.state = l.state := state
  rw [Link.down, Link.down, state]

/-- A link goes down where it carries frames. -/
def dropLink (s : State) (n : Nat) : State :=
  if (getLink s n).state == .up || (getLink s n).state == .fastRetrain then beginTrain n false s else s

theorem dropLink_own (s : State) (n : Nat) : (getLink (dropLink s n) n).down := by
  unfold dropLink
  split
  · have state := congrArg Link.state (beginTrain_core n false s)
    dsimp only [Link.core] at state
    simp [Link.down, state]
  · next h => simpa [Link.down, not_or] using h

theorem dropLink_down {s : State} {n k : Nat} (h : (getLink s k).down) : (getLink (dropLink s n) k).down := by
  by_cases hk : k = n
  · rw [hk]
    exact dropLink_own s n
  · unfold dropLink
    split
    · exact (down_of_core (beginTrain_ne false s hk)).2 h
    · exact h

theorem dropLinks_down (s : State) {n : Nat} (hn : n < 8) : (getLink (dropLinks s) n).down := by
  have all (xs : List Nat) (s : State) (h : n ∈ xs ∨ (getLink s n).down) : (getLink (xs.foldl dropLink s) n).down := by
    induction xs generalizing s with
    | nil => exact h.resolve_left List.not_mem_nil
    | cons x xs ih =>
      rw [List.foldl_cons]
      refine ih _ (h.elim (fun hx => ?_) fun hx => .inr (dropLink_down hx))
      rcases List.mem_cons.1 hx with rfl | hx
      · exact .inr (dropLink_own s n)
      · exact .inl hx
  exact all _ s (.inl (by rw [upFrom_eq_range, List.mem_range'_1]; omega))

/-! ### The TAP -/

/-- The TAP with an instruction selected. -/
def selected (i : TapInstr) (s : State) : State := { s with tap := { s.tap with ir := i, hiZ := i == .highz } }

section
variable {s w : State} {i : TapInstr} {c : Instr} {f : State → State} (on : w.pwr.vddAon = true) (h : exec c s = runCtl f s)
  (hf : f s = setIr i w) (hm : w.mem = s.mem)
include on

/-- An instruction that neither enters nor leaves boundary scan changes the TAP alone. -/
theorem setIr_stays {b : Bool} (hi : boundary (selected i w) = b) (hw : boundary w = b) : setIr i w = selected i w := by
  unfold setIr tapRuns
  rw [on, if_pos rfl]
  have same : boundary { w with tap := { w.tap with ir := i, hiZ := i == .highz } } = boundary w := hi.trans hw.symm
  simp only [same, Bool.and_not_self, Bool.false_eq_true, if_false]
  rfl

theorem setIr_enters (hi : boundary (selected i w) = true) (hw : boundary w = false) : setIr i w = dropPcie (dropLinks (selected i w)) := by
  unfold setIr tapRuns
  rw [on, if_pos rfl]
  have enters : boundary { w with tap := { w.tap with ir := i, hiZ := i == .highz } } = true := hi
  simp only [enters, hw, Bool.not_false, Bool.and_self, if_true]
  rfl

include h hf hm

theorem gives_stays {b : Bool} (ht : w.tps = s.tps) (hi : boundary (selected i w) = b) (hw : boundary w = b) : Gives c s (selected i w) :=
  gives_runCtl f _ h (hf.trans (setIr_stays on hi hw)) hm ht

end

/-- The outputs are driven: every link and PCIe are down. -/
theorem enters_answer {c : Instr} {s u : State} {f : State → State} (h : exec c s = runCtl f s) (hf : f s = dropPcie u) {t : Tap} (tap : u.tap = t)
    (links : ∀ n, n < 8 → (getLink u n).down) (otp : u.otp = s.otp) :
    ∃ s', exec c s = .next s' ∧ s'.tap = t ∧ s'.pcie.up = false ∧ s'.pcie.training = false ∧
      (∀ n, n < 8 → (getLink s' n).state ≠ .up ∧ (getLink s' n).state ≠ .fastRetrain) ∧ s'.mem = s.mem ∧ s'.otp = s.otp := by
  have same : (collect (dropPcie u)).links = u.links := collect_links _
  refine ⟨{ collect (dropPcie u) with pending := s.pending, mem := s.mem, tps := s.tps }, by rw [h, runCtl, hf], (collect_tap _).trans tap,
    collect_pcie_up _, collect_pcie_training _, fun n hn => ?_, rfl, (collect_otp _).trans otp⟩
  have link := links n hn
  rw [Link.down, getLink, ← same] at link
  exact link

/-- An instruction that enters boundary scan. -/
theorem enters_of_setIr {c : Instr} {s w : State} {i : TapInstr} {f : State → State} (on : w.pwr.vddAon = true) (h : exec c s = runCtl f s)
    (hf : f s = setIr i w) (hi : boundary (selected i w) = true) (hw : boundary w = false) (ho : w.otp = s.otp) :
    ∃ s', exec c s = .next s' ∧ s'.tap = (selected i w).tap ∧ s'.pcie.up = false ∧ s'.pcie.training = false ∧
      (∀ n, n < 8 → (getLink s' n).state ≠ .up ∧ (getLink s' n).state ≠ .fastRetrain) ∧ s'.mem = s.mem ∧ s'.otp = s.otp := by
  have drops := linksOnly_dropLinks (selected i w)
  exact enters_answer h (hf.trans (setIr_enters on hi hw)) drops.tap (fun n hn => dropLinks_down _ hn)
    (drops.otp.trans ho)

theorem regRead_tap (t : Tap) (o : Nat) (s : State) : regRead { s with tap := t } o = regRead s o := rfl

section
variable {a v : Nat} {wr : Bool} {s : State}

theorem debugAccess_beyond (h : debugReach a = false) : debugAccess wr a v s = { s with tap.data := 0 } := by
  simp [debugAccess, h]

theorem debugAccess_mem (h : debugReach a = true) (low : a < 0xF_C000_0000) :
    debugAccess wr a v s = if wr then unheld (putMem a (leBytes 8 v)) s else { s with tap.data := memNat s.mem a 8 } := by
  rw [debugAccess, h, if_neg (by decide), if_neg (Nat.not_le.2 low)]

theorem debugAccess_reg (h : debugReach a = true) (high : 0xF_C000_0000 ≤ a) :
    debugAccess false a v s = { s with tap.data := regRead s (a - 0xF_C000_0000) } := by
  rw [debugAccess, h, if_neg (by decide), if_pos high]
  rfl

end

/-- Settles O46, by what the selection of an instruction does to boundary scan. -/
theorem jtagInstructions : Obligations.JtagInstructions := by
  intro cells more off b wr addr v s on tap down
  have runs : tapRuns s = true := on
  refine ⟨fun out => ⟨?_, ?_, ?_, ?_, ?_, ?_, ?_, ?_, ?_⟩, fun inside => ⟨?_, ?_, ?_, ?_, ?_⟩, fun out => ⟨fun may => ?_, fun may => ?_, fun locked => ?_,
    fun free mgmt => ?_⟩⟩
  · exact gives_stays (c := .tapReset) (i := .idcode) (w := { s with tap.data := 0 }) on (execTapReset.eq_1 s) (if_pos runs) rfl rfl rfl out
  · exact gives_stays (c := .idcode) (i := .idcode) (w := { s with tap.data := idWord }) on (execIdcode.eq_1 s) (if_pos runs) rfl rfl rfl out
  · exact gives_stays (c := .samplePreload cells more) (i := .samplePreload) (w := { s with tap.sample := cells, tap.cells := more }) on (execSamplePreload.eq_1 cells more s) (if_pos runs) rfl rfl rfl out
  · exact gives_stays (c := .bypass) (i := .bypass) (w := { s with tap.data := 0 }) on (execBypass.eq_1 s) (if_pos runs) rfl rfl rfl out
  · exact enters_of_setIr (c := .extest cells) (i := .extest) (w := { s with tap.cells := cells }) on (execExtest.eq_1 cells s) (if_pos runs) rfl out rfl
  · exact enters_of_setIr (c := .clamp) (i := .clamp) (w := { s with tap.data := 0 }) on (execClamp.eq_1 s) (if_pos runs) rfl out rfl
  · exact enters_of_setIr (c := .highz) (i := .highz) (w := { s with tap.data := 0 }) on (execHighz.eq_1 s) (if_pos runs) rfl out rfl
  · exact enters_of_setIr (c := .extestPulse cells) (i := .extestPulse) (w := { s with tap.cells := cells }) on (execExtestPulse.eq_1 cells s) (if_pos runs) rfl out rfl
  · exact enters_of_setIr (c := .extestTrain cells) (i := .extestTrain) (w := { s with tap.cells := cells }) on (execExtestTrain.eq_1 cells s) (if_pos runs) rfl out rfl
  · exact gives_stays (c := .extest cells) (i := .extest) (w := { s with tap.cells := cells }) on (execExtest.eq_1 cells s) (if_pos runs) rfl rfl rfl inside
  · exact gives_stays (c := .clamp) (i := .clamp) (w := { s with tap.data := 0 }) on (execClamp.eq_1 s) (if_pos runs) rfl rfl rfl inside
  · exact gives_stays (c := .highz) (i := .highz) (w := { s with tap.data := 0 }) on (execHighz.eq_1 s) (if_pos runs) rfl rfl rfl inside
  · exact gives_stays (c := .extestPulse cells) (i := .extestPulse) (w := { s with tap.cells := cells }) on (execExtestPulse.eq_1 cells s) (if_pos runs) rfl rfl rfl inside
  · exact gives_stays (c := .extestTrain cells) (i := .extestTrain) (w := { s with tap.cells := cells }) on (execExtestTrain.eq_1 cells s) (if_pos runs) rfl rfl rfl inside
  · refine gives_runCtl _ _ (execOtpProg.eq_1 off b s) ((if_pos runs).trans ?_) rfl rfl
    exact (if_pos may).trans (by rw [setIr_stays (b := false) on rfl out]; rfl)
  · refine gives_runCtl _ _ (execOtpProg.eq_1 off b s) ((if_pos runs).trans ?_) rfl rfl
    exact (if_neg (Bool.eq_false_iff.1 may)).trans (setIr_stays (b := false) on rfl out)
  · refine gives_run _ _ (execDebug.eq_1 wr addr v s) ((if_pos locked).trans ?_)
    exact (if_pos runs).trans (setIr_stays (b := false) on rfl out)
  · intro a held
    have effect (wr : Bool) (u : State) (hu : debugAccess wr a v.toNat (selected .debug s) = u) : Gives (.debug wr addr v) s u := by
      refine gives_run _ _ (execDebug.eq_1 wr addr v s) ((if_neg (Bool.eq_false_iff.1 free)).trans ((if_pos mgmt).trans ?_))
      rw [setIr_stays (b := false) on rfl out]
      exact hu
    refine ⟨fun beyond => effect wr _ (debugAccess_beyond beyond), fun reach low loading => effect true _ ?_,
      fun reach low running => effect true _ ?_, fun reach low => effect false _ ?_, fun reach high => effect false _ ?_⟩
    · rw [debugAccess_mem reach low]
      exact (if_pos rfl).trans (if_pos (beq_iff_eq.2 loading))
    · rw [debugAccess_mem reach low]
      exact (if_pos rfl).trans (if_neg (mt beq_iff_eq.1 running))
    · rw [debugAccess_mem reach low]
      rfl
    · rw [debugAccess_reg reach high]
      rfl

end Sys2Proof.Machine
end

section
/-! PROOFS. The resets (R316, R320, R348, R408, R411), the entry to Running (R283, R318, R376, R418). -/

namespace Sys2Proof.Machine

/-! ### Resets -/

/-- The collector does nothing where nothing is posted and no interrupt is owed. -/
theorem collect_still {u : State} (hq : u.ev.queue = []) (hi : u.ev.irqOwed = false) : collect u = u := by
  rw [collect_of_none _ hq, evInterrupt]
  simp [hi]

/-- A command over `run` answers its effect where the collector has nothing to do. -/
theorem run_still {i : Instr} {s u : State} (f : State → State) (h : exec i s = run f s) (hf : f s = u) (hq : u.ev.queue = [])
    (hi : u.ev.irqOwed = false) : exec i s = .next { u with pending := s.pending } := by
  rw [h, run, hf, collect_still hq hi]

theorem coldReset_advanceTo (d : Nat) (s : State) : coldReset (advanceTo d s) = coldReset s := by
  simp [coldReset]

/-- Settles O47, by what `coldReset` and `beginLoading` leave. -/
theorem resets : Obligations.Resets := by
  intro spi hv adr s calm kept cleared loads
  refine ⟨fun on low cool => ?_, fun h => ?_, ?_, fun d due => ?_, ?_, fun off => ?_, fun on => ?_⟩
  · have given := gives_run (i := .porRelease spi adr hv) _ _ (execPorRelease.eq_1 spi adr hv s) (if_pos (by simp [on, low, cool]))
    refine ⟨_, given, ⟨?_, ?_, rfl⟩, ⟨?_, ?_, ?_, ?_, ?_, ?_⟩, ?_, ?_, ?_⟩
    · exact collect_otp _
    · exact collect_hostMem_of_none _ calm
    · exact congrArg Power.state (collect_pwr _)
    · exact congrArg Power.otpLoaded (collect_pwr _)
    · exact congrArg Power.otpCopy (collect_pwr _)
    · exact congrArg Power.factoryOk (collect_pwr _)
    · exact congrArg Power.keyValid (collect_pwr _)
    · exact collect_pcie_rrs _
    · exact congrArg Power.porN (collect_pwr _)
    · exact congrArg Power.smbAddr (collect_pwr _)
    · exact congrArg Power.spiOk (collect_pwr _)
  · refine gives_run _ _ (execPorRelease.eq_1 spi adr hv s) (if_neg ?_)
    rcases h with h | h | h <;> simp [h]
  · refine ⟨_, run_still _ (execPorAssert.eq_1 s) rfl rfl rfl, ⟨rfl, rfl, rfl⟩, ?_, rfl, rfl, rfl, rfl, rfl, rfl⟩
    repeat' constructor
  · have effect : (match s.pwr.mgmtResetDue with
        | some d => { beginLoading (coldReset (advanceTo d s)) with uart.waitIdle := true }
        | none => s) = { beginLoading (coldReset s) with uart.waitIdle := true } := by
      simp only [due, coldReset_advanceTo]
    refine ⟨_, run_still _ (execManagementResetAssert.eq_1 s) effect rfl rfl, ⟨rfl, rfl, rfl⟩, ?_, ⟨rfl, rfl, rfl, rfl, rfl, rfl⟩, rfl, rfl, rfl⟩
    repeat' constructor
  · refine ⟨_, run_still _ (execVddAonFall.eq_1 s) rfl rfl rfl, ⟨rfl, rfl, rfl⟩, ?_, rfl, rfl, rfl, rfl, rfl⟩
    repeat' constructor
  · exact gives_run _ _ (execVddAonRise.eq_1 s) (if_neg (by simp [off]))
  · exact gives_run _ _ (execVddAonRise.eq_1 s) (if_pos on)

/-! ### Flags -/

/-- Flags of the Fault Unit that are set. -/
def flagged (m : Nat) (s : State) : Prop := s.flt.flags &&& m = m

theorem or_and_self (a m : Nat) : (a ||| m) &&& m = m := by
  apply Nat.eq_of_testBit_eq
  intro i
  simp only [Nat.testBit_or, Nat.testBit_and]
  cases m.testBit i <;> simp

theorem flagged_or {a m : Nat} (b : Nat) (h : a &&& m = m) : (a ||| b) &&& m = m := by
  rw [Nat.and_or_distrib_right, h]
  apply Nat.eq_of_testBit_eq
  intro i
  simp only [Nat.testBit_or, Nat.testBit_and]
  cases m.testBit i <;> simp

theorem flagged_acceptEvent {m : Nat} {s : State} (e : Ev) (h : flagged m s) : flagged m (acceptEvent s e) := by
  have log : flagged m (logEvent e s) := by
    unfold logEvent
    split
    · exact h
    · exact flagged_or _ h
  unfold acceptEvent ringEvent
  dsimp only
  split <;> exact log

/-- The collector sets flags, and clears none (R366). -/
theorem collect_flags {m : Nat} (s : State) (h : s.flt.flags &&& m = m) : (collect s).flt.flags &&& m = m := by
  have all (es : List Ev) (s : State) (h : flagged m s) : flagged m (es.foldl acceptEvent s) := by
    induction es generalizing s with
    | nil => exact h
    | cons e es ih => exact ih _ (flagged_acceptEvent e h)
  rw [collect, evInterrupt_flt]
  exact all _ _ h

/-! ### HBM's initialisation, and the entry to Running -/

/-- Where a stack's contents lie. -/
def inStack (i a : Nat) : Bool := decide (a < 0xC_0000_0000) && (hbmChannel a / 32 == i)

theorem tget_filter {α : Type} (d : α) (p : Nat → Bool) (m : Table α) (a : Nat) :
    tget d (m.filter fun x => !p x.1) a = if p a then d else tget d m a := by
  induction m with
  | nil => simp [tget]
  | cons x m ih =>
    by_cases hp : p x.1 <;> by_cases ha : x.1 = a
    · subst ha
      simp [hp, ih]
    · simp [hp, tget, ha, ih]
    · subst ha
      simp [hp, tget]
    · simp [hp, tget, ha, ih]

theorem zeroStack_mem (i : Nat) (s : State) (a : Nat) : memGet (zeroStack i s).mem a = if inStack i a then 0 else memGet s.mem a :=
  tget_filter 0 (inStack i) s.mem a

theorem hbm_not_waiting {s : State} {x : Stack} (h : s.pwr.state ≠ .starting ∨ x.inited = true ∨ x.failed = true) :
    (s.pwr.state != .starting || x.inited || x.failed) = true := by
  rcases h with h | h | h <;> simp [h]

section
variable {k : Fin 2} {s : State} {x : Stack} (hx : x = if k.val = 0 then s.hbm.stack0 else s.hbm.stack1)
  (starting : s.pwr.state = .starting) (fresh : x.inited = false) (good : x.failed = false)
include hx starting fresh good

theorem hbm_waiting : (s.pwr.state != .starting || (if k.val = 0 then s.hbm.stack0 else s.hbm.stack1).inited ||
    (if k.val = 0 then s.hbm.stack0 else s.hbm.stack1).failed) = false := by
  rw [← hx, starting, fresh, good]
  rfl

theorem gives_stackFails (st : BitVec 8) : Gives (.hbmInitComplete k (some st)) s (post (0x18 + k.val) 4 3 (pl1 st.toNat)
    { modStack k.val (fun y => { y with failed := true }) s with pwr.hbmFail := true, flt.flags := s.flt.flags ||| 8 }) :=
  gives_run _ _ (execHbmInitComplete.eq_1 k (some st) s) (if_neg (Bool.eq_false_iff.1 (hbm_waiting hx starting fresh good)))

/-- Whether a stack is zeroed at its end (R318). -/
def zeroes (s : State) : Bool := cfgVal s 0x0302 == 1 && !s.pwr.woke

theorem gives_stackReady : Gives (.hbmInitComplete k none) s
    (modStack k.val (fun y => { y with inited := true, zeroFilled := y.zeroFilled || zeroes s })
      (if zeroes s then zeroStack k.val { s with hbm.refFrom := some (s.hbm.refFrom.getD s.upNs) }
        else { s with hbm.refFrom := some (s.hbm.refFrom.getD s.upNs) })) :=
  gives_run _ _ (execHbmInitComplete.eq_1 k none s) (if_neg (Bool.eq_false_iff.1 (hbm_waiting hx starting fresh good)))

end

/-- Settles O49, by the two ends of an initialisation and the one condition of the entry. -/
theorem entryToRunning : Obligations.EntryToRunning := by
  intro k st s x put zero
  refine ⟨fun starting fresh good => ⟨?_, ?_⟩, fun h => ⟨?_, ?_⟩, fun h => ?_, fun starting ready locked => ?_, fun starting h => ?_⟩
  · have asks : zeroes s = decide zero := by
      have stored : zeroes s = true ↔ zero := by simp [zeroes, zero]
      rw [← Bool.decide_coe (zeroes s)]
      exact decide_eq_decide.2 stored
    have given := gives_stackReady (k := k) (x := x) rfl starting fresh good
    rw [asks] at given
    refine ⟨_, given, ?_, ?_, ?_, fun a => ?_⟩
    · refine (collect_hbm _).trans ?_
      by_cases first : k.val = 0 <;> by_cases hz : zero <;> simp [modStack, put, x, first, hz, zeroStack]
    · refine (collect_pwr _).trans ?_
      by_cases hz : zero <;> simp [modStack, hz, zeroStack]
    · refine (collect_jobs _).trans ?_
      by_cases hz : zero <;> simp [modStack, hz, zeroStack]
    · refine (congrArg (memGet · a) (collect_mem _)).trans ?_
      by_cases hz : zero
      · have zeroed := zeroStack_mem k.val { s with hbm.refFrom := some (s.hbm.refFrom.getD s.upNs) } a
        rw [decide_eq_true hz, if_pos rfl]
        refine zeroed.trans (ite_of_iff ?_ rfl rfl)
        simp [inStack, hz]
      · rw [decide_eq_false hz, if_neg Bool.false_ne_true, if_neg fun h => hz h.1]
        rfl
  · have given := gives_stackFails (k := k) (x := x) rfl starting fresh good st
    refine ⟨_, given, ?_, collect_pwr _, collect_flags _ (or_and_self s.flt.flags 8), collect_mem _⟩
    refine (collect_hbm _).trans ?_
    by_cases first : k.val = 0
    · simp only [post_hbm, modStack, put, x, if_pos first]
    · simp only [post_hbm, modStack, put, x, if_neg first]
  · exact gives_run _ _ (execHbmInitComplete.eq_1 k none s) (if_pos (hbm_not_waiting h))
  · exact gives_run _ _ (execHbmInitComplete.eq_1 k (some st) s) (if_pos (hbm_not_waiting h))
  · exact gives_run _ _ (execEnterRunning.eq_1 s) (if_neg (by simp [h]))
  · exact gives_run _ _ (execEnterRunning.eq_1 s) (if_pos (by simp [starting, ready, locked]))
  · refine gives_run _ _ (execEnterRunning.eq_1 s) (if_neg ?_)
    rcases h with h | h <;> simp [h]

end Sys2Proof.Machine
end

section
/-! PROOFS. The PMBus slots (R278, R354 to R356). -/

namespace Sys2Proof.Machine

/-! ### The time of a slot -/

theorem slotStart_ahead {next now : Nat} (h : now ≤ next) : slotStart next now = next := by
  simp [slotStart, Nat.sub_eq_zero_of_le h, alignUp, cdiv]

theorem passUp_upNs {s : State} {t : Nat} (h : s.pwr.handedOver = true) (ht : s.upNs ≤ t) : (passUp t s).upNs = t := by
  rw [passUp, if_pos h, passNs, advanceTo]
  split
  · omega
  · dsimp only; omega

@[simp] theorem passUp_pmb (t : Nat) (s : State) : (passUp t s).pmb = s.pmb := by
  unfold passUp passNs advanceTo; split_ifs <;> rfl

@[simp] theorem passUp_rgl (t : Nat) (s : State) : (passUp t s).rgl = s.rgl := by
  unfold passUp passNs advanceTo; split_ifs <;> rfl

@[simp] theorem passUp_flt (t : Nat) (s : State) : (passUp t s).flt = s.flt := by
  unfold passUp passNs advanceTo; split_ifs <;> rfl

@[simp] theorem passUp_cfg (t : Nat) (s : State) : (passUp t s).cfg = s.cfg := by
  unfold passUp passNs advanceTo; split_ifs <;> rfl

@[simp] theorem passUp_mem (t : Nat) (s : State) : (passUp t s).mem = s.mem := by
  unfold passUp passNs advanceTo; split_ifs <;> rfl

@[simp] theorem passUp_tps (t : Nat) (s : State) : (passUp t s).tps = s.tps := by
  unfold passUp passNs advanceTo; split_ifs <;> rfl

section
variable (b : Bool) (a : PmbAnswer) (s : State)

@[simp] theorem slotEnd_mem : (slotEnd b a s).mem = s.mem := passUp_mem _ _
@[simp] theorem slotEnd_tps : (slotEnd b a s).tps = s.tps := passUp_tps _ _
@[simp] theorem slotEnd_cfg : (slotEnd b a s).cfg = s.cfg := passUp_cfg _ _
@[simp] theorem slotEnd_rgl : (slotEnd b a s).rgl = s.rgl := passUp_rgl _ _
@[simp] theorem slotEnd_flt : (slotEnd b a s).flt = s.flt := passUp_flt _ _
@[simp] theorem cfgVal_slotEnd (id : Nat) : cfgVal (slotEnd b a s) id = cfgVal s id := by simp [cfgVal]

theorem slotEnd_pmbA : (slotEnd false a s).pmb =
    { s.pmb with want := a.vout.or s.pmb.want, nextA := slotStart s.pmb.nextA s.upNs + 100000 } := passUp_pmb _ _

theorem slotEnd_pmbB : (slotEnd true a s).pmb =
    { s.pmb with want := a.vout.or s.pmb.want, nextB := slotStart s.pmb.nextB s.upNs + 100000 } := passUp_pmb _ _

end

/-! ### What a slot does -/

/-- Slot B carries a new voltage (R354 to R356). -/
def SlotSets (a : PmbAnswer) (s : State) : Prop :=
  a.vout.or s.pmb.want ≠ none ∧ cfgVal s 0x0201 = 1 ∧ s.pmb.avsOff = false ∧ s.pmb.wroteB = false ∧ s.pmb.redo = false ∧ s.pmb.lost = false

theorem setsVout_of_sets {a : PmbAnswer} {s u : State} (hp : u.pmb = { s.pmb with want := a.vout.or s.pmb.want, nextB := u.pmb.nextB })
    (hc : cfgVal u 0x0201 = cfgVal s 0x0201) (h : SlotSets a s) : setsVout u = a.vout.or s.pmb.want := by
  obtain ⟨-, cfg, off, wrote, redo, lost⟩ := h
  rw [setsVout, hc, hp]
  simp [cfg, off, wrote, redo, lost]

theorem setsVout_of_not_sets {a : PmbAnswer} {s u : State}
    (hp : u.pmb = { s.pmb with want := a.vout.or s.pmb.want, nextB := u.pmb.nextB })
    (hc : cfgVal u 0x0201 = cfgVal s 0x0201) (h : ¬SlotSets a s) : setsVout u = none := by
  rw [setsVout, hc, hp]
  dsimp only
  split
  · next free =>
    simp only [Bool.and_eq_true, beq_iff_eq, Bool.not_eq_true'] at free
    obtain ⟨⟨⟨⟨cfg, off⟩, wrote⟩, redo⟩, lost⟩ := free
    exact Option.eq_none_iff_forall_not_mem.2 fun v hv => h ⟨Option.ne_none_iff_exists'.2 ⟨v, hv⟩, cfg, off, wrote, redo, lost⟩
  · rfl

theorem setsVout_slotEnd {a : PmbAnswer} {s : State} (h : SlotSets a s) : setsVout (slotEnd true a s) = a.vout.or s.pmb.want :=
  setsVout_of_sets (by rw [slotEnd_pmbB]) (cfgVal_slotEnd ..) h

theorem setsVout_slotEnd_none {a : PmbAnswer} {s : State} (h : ¬SlotSets a s) : setsVout (slotEnd true a s) = none :=
  setsVout_of_not_sets (by rw [slotEnd_pmbB]) (cfgVal_slotEnd ..) h

/-- A slot A that starts on time is a read (R355). -/
theorem slotEnd_upNsA {a : PmbAnswer} {s : State} (hh : s.pwr.handedOver = true) (h : s.upNs ≤ s.pmb.nextA) :
    (slotEnd false a s).upNs = s.pmb.nextA + 48000 := by
  let s1 : State := { s with pmb.want := a.vout.or s.pmb.want, pmb.nextA := slotStart s.pmb.nextA s.upNs + 100000 }
  have what : slotEnd false a s = passUp (slotStart s.pmb.nextA s.upNs + 48000) s1 := rfl
  rw [what, slotStart_ahead h]
  exact passUp_upNs (s := s1) hh (Nat.le_trans h (Nat.le_add_right ..))

/-- A slot B that starts on time lasts 38 µs as a write and 48 µs as a read (R355). -/
theorem slotEnd_upNsB {a : PmbAnswer} {s : State} (hh : s.pwr.handedOver = true) (h : s.upNs ≤ s.pmb.nextB) :
    (SlotSets a s → (slotEnd true a s).upNs = s.pmb.nextB + 38000) ∧ (¬SlotSets a s → (slotEnd true a s).upNs = s.pmb.nextB + 48000) := by
  let s1 : State := { s with pmb.want := a.vout.or s.pmb.want, pmb.nextB := slotStart s.pmb.nextB s.upNs + 100000 }
  have ends (d : Nat) : (passUp (slotStart s.pmb.nextB s.upNs + d) s1).upNs = s.pmb.nextB + d := by
    rw [slotStart_ahead h]
    exact passUp_upNs (s := s1) hh (Nat.le_trans h (Nat.le_add_right ..))
  have what : slotEnd true a s = passUp (slotStart s.pmb.nextB s.upNs + if (setsVout s1).isSome then 38000 else 48000) s1 := rfl
  constructor <;> intro hs <;> rw [what, ends]
  · rw [setsVout_of_sets (u := s1) rfl rfl hs, if_pos (Option.isSome_iff_ne_none.2 hs.1)]
  · rw [setsVout_of_not_sets (u := s1) rfl rfl hs]; rfl

/-- Where the host answers PMBus, a slot is its transaction and what the slot does with the answer. -/
theorem gives_slot {b : Bool} {a : PmbAnswer} {s u : State} (hm : mgmtRuns s = true) (hh : s.pwr.handedOver = true)
    (hd : s.pwr.state ≠ .dormant) (hu : (if b then slotB a (slotEnd b a s) else slotA a (slotEnd b a s)) = u)
    (mem : u.mem = s.mem) (tps : u.tps = s.tps) : Gives (.pmbusSlot b a) s u :=
  gives_runCtl _ _ (execPmbusSlot.eq_1 b a s) (by simpa [hm, hh, hd] using hu) mem tps

theorem rotate_reading {w : BitVec 16} {s : State} (h : s.pmb.rotation < 3) : rotate w s = { s with
    pmb.rotation := s.pmb.rotation + 1
    pmb.iin := if s.pmb.rotation = 0 then reading w else s.pmb.iin
    pmb.vin := if s.pmb.rotation = 1 then reading w else s.pmb.vin
    pmb.iout := if s.pmb.rotation = 2 then reading w else s.pmb.iout } := by
  have step : (s.pmb.rotation + 1) % 4 = s.pmb.rotation + 1 := Nat.mod_eq_of_lt (by omega)
  have which : s.pmb.rotation = 0 ∨ s.pmb.rotation = 1 ∨ s.pmb.rotation = 2 := by omega
  rw [rotate, step]
  rcases which with h | h | h <;> simp [h]

theorem rotate_status {w : BitVec 16} {s : State} (h : s.pmb.rotation = 3) : rotate w s =
    if s.pmb.status = w.toNat then { s with pmb.rotation := 0, pmb.status := w.toNat }
    else post 0x0E 0x12 1 (leBytes 2 s.pmb.status ++ leBytes 2 w.toNat) { s with pmb.rotation := 0, pmb.status := w.toNat } := by
  by_cases same : s.pmb.status = w.toNat <;> simp [rotate, h, same, postIf, pl2]

/-- Settles O27, by the answer of each slot. -/
theorem pmbusSlots : Obligations.PmbusSlots := by
  intro a s sA s0 want sets found hm hh hd
  have timeA := slotEnd_pmbA a s
  have timeB := slotEnd_pmbB a s
  refine ⟨⟨by rw [timeA], by rw [timeB], fun ht => ⟨?_, ?_⟩, fun ht => ⟨(slotEnd_upNsB hh ht).1, (slotEnd_upNsB hh ht).2, ?_⟩⟩, fun hw hl => ?_, fun hw hl => ?_,
    fun hw hi => ?_, fun hw hi hl => ?_, fun v hs hv hw => ?_, fun w hw hs hr => ?_, fun w hw hs hr => ?_, fun hw hs => ?_, fun hw hs => ?_⟩
  · exact slotEnd_upNsA hh ht
  · rw [timeA, slotStart_ahead ht]
  · rw [timeB, slotStart_ahead ht]
  · obtain ⟨w, hw⟩ := Option.ne_none_iff_exists'.1 hw
    exact gives_slot hm hh hd (by simp [slotA, hw, found, sA, timeA, hl, postIf]) (by simp [found, sA]) (by simp [found, sA])
  · obtain ⟨w, hw⟩ := Option.ne_none_iff_exists'.1 hw
    exact gives_slot hm hh hd (by simp [slotA, hw, found, sA, timeA, hl, postIf]) (by simp [found, sA, post]) (by simp [found, sA, post])
  · refine gives_slot hm hh hd ?_ (by simp [sA]) (by simp [sA])
    rcases hi with few | lost
    · simp [slotA, hw, sA, timeA, pmbFail, Nat.not_le.2 few]
    · simp [slotA, hw, sA, timeA, pmbFail, lost]
  · refine gives_slot hm hh hd ?_ (by simp [sA, post]) (by simp [sA, post])
    simp [slotA, hw, sA, timeA, hi, hl, pmbFail]
  · obtain ⟨w, hw⟩ := Option.ne_none_iff_exists'.1 hw
    refine gives_slot hm hh hd ?_ (by simp [s0]) (by simp [s0])
    simp [slotB, hw, setsVout_slotEnd hs, hv, nextVout, s0, timeB, want]
  · refine gives_slot hm hh hd ?_ (by simp [s0]) (by simp [s0])
    simp [slotB, hw, setsVout_slotEnd_none hs, rotate_reading, hr, timeB, s0]
  · refine gives_slot hm hh hd ?_ ?_ ?_
    · simp [slotB, hw, setsVout_slotEnd_none hs, rotate_status, hr, timeB, s0]
    · split <;> simp [s0, post]
    · split <;> simp [s0, post]
  · refine gives_slot hm hh hd ?_ (by simp [s0]) (by simp [s0])
    obtain ⟨v, hv⟩ := Option.ne_none_iff_exists'.1 hs.1
    simp [slotB, hw, setsVout_slotEnd hs, show a.vout.or s.pmb.want = some v from hv, pmbFail, s0, timeB]
  · refine gives_slot hm hh hd ?_ (by simp [s0]) (by simp [s0])
    simp [slotB, hw, setsVout_slotEnd_none hs, pmbFail, s0, timeB]

end Sys2Proof.Machine
end

section
/-! PROOFS. What sending leaves: of the machine only links, the net's tables and postings change (R171 to R180, R189). -/

namespace Sys2Proof.Machine

/-- Of the machine only links and the net's tables have changed, and postings have been made. -/
def SendsOnly (s t : State) : Prop := t = { s with links := t.links, net := t.net, ev.queue := t.ev.queue }

theorem SendsOnly.refl (s : State) : SendsOnly s s := rfl

theorem SendsOnly.trans {s t u : State} (h : SendsOnly s t) (h' : SendsOnly t u) : SendsOnly s u := by
  rw [SendsOnly] at *
  rw [h', h]

theorem LinksOnly.sends {s t : State} (h : LinksOnly s t) : SendsOnly s t := by
  rw [LinksOnly] at h
  rw [h]; rfl

theorem SendsOnly.ite {c : Prop} [Decidable c] {s t u : State} (ht : SendsOnly s t) (hu : SendsOnly s u) :
    SendsOnly s (if c then t else u) := by
  split
  · exact ht
  · exact hu

/-- What is read of neither links nor the net's tables nor postings is as before. -/
theorem SendsOnly.keeps {s t : State} (h : SendsOnly s t) {α : Type} (g : State → α)
    (hg : ∀ (x : State) l n q, g { x with links := l, net := n, ev.queue := q } = g x) : g t = g s := by
  rw [SendsOnly] at h
  rw [h, hg]

theorem SendsOnly.mem {s t : State} (h : SendsOnly s t) : t.mem = s.mem := h.keeps _ fun _ _ _ _ => rfl
theorem SendsOnly.tps {s t : State} (h : SendsOnly s t) : t.tps = s.tps := h.keeps _ fun _ _ _ _ => rfl
theorem LinksOnly.mem {s t : State} (h : LinksOnly s t) : t.mem = s.mem := h.sends.mem
theorem LinksOnly.tps {s t : State} (h : LinksOnly s t) : t.tps = s.tps := h.sends.tps

theorem sendsOnly_sendVia (rt : Table Nat) (f : Frame) (s : State) : SendsOnly s (sendVia rt f s) := by
  unfold sendVia
  split
  · exact (linksOnly_enqueue ..).sends
  · exact ((linksOnly_modLink ..).trans (linksOnly_post ..)).sends

theorem sendsOnly_sendU (kind dst arg : Nat) (payload : List Byte) (s : State) : SendsOnly s (sendU kind dst arg payload s) :=
  .trans (t := { s with net.useq := tput s.net.useq dst ((nextUSeq s dst + 1) % 65536) }) rfl (sendsOnly_sendVia _ _ _)

theorem sendsOnly_sendUOn (n kind arg : Nat) (s : State) : SendsOnly s (sendUOn n kind arg s) := rfl

theorem sendsOnly_answerOn (n kind arg asked : Nat) (s : State) : SendsOnly s (answerOn n kind arg asked s) := rfl

theorem sendsOnly_sendB (kind dst arg tag : Nat) (payload : List Byte) (s : State) : SendsOnly s (sendB kind dst arg tag payload s) :=
  sendsOnly_sendVia _ _ _

end Sys2Proof.Machine
end

section
/-! PROOFS. Register writes (R24, R214, R230, R234, R235, R278, R366, R393 to R401). -/

namespace Sys2Proof.Machine

/-! ### What a write reaches -/

/-- A command that reaches neither memory nor the thread processors answers alike either way. -/
theorem run_eq_runCtl {f g : State → State} {s : State} (h : f s = g s) (hm : (g s).mem = s.mem) (ht : (g s).tps = s.tps) :
    run f s = runCtl g s := by
  rw [run, runCtl, h]
  have e1 : (collect (g s)).mem = s.mem := by simp [hm]
  have e2 : (collect (g s)).tps = s.tps := by simp [ht]
  rw [← e1, ← e2]

/-- A write of eight bytes at an aligned offset is the port's write. -/
theorem exec_write_wide (p : Port) {o : Nat} (v : BitVec 64) (s : State) (h8 : o % 8 = 0) (hlt : o < 2 ^ 32) :
    exec (.registerWrite p (BitVec.ofNat 32 o) true v) s = run (writeReg p o true v.toNat) s := by
  have off : (BitVec.ofNat 32 o).toNat = o := by simpa using hlt
  show run _ s = _
  rw [run, run, off, if_pos (by simp [aligned, h8])]

/-- The eight bytes that the physical function writes. -/
def wideWrite (v : BitVec 64) : Wr := { wide := true, high := false, v := v.toNat }

theorem gives_write_wide (p : Port) {o : Nat} (v : BitVec 64) {s u : State} (h8 : o % 8 = 0) (hlt : o < 2 ^ 32)
    (hu : writeReg p o true v.toNat s = u) : Gives (.registerWrite p (BitVec.ofNat 32 o) true v) s u := by
  rw [Gives, exec_write_wide p v s h8 hlt, run, hu]

/-- A write that the port may not make does nothing. -/
theorem gives_write_none {p : Port} {off : BitVec 32} {wide : Bool} {v : BitVec 64} {s : State}
    (h : aligned off.toNat wide = true → writeReg p off.toNat wide v.toNat s = s) : Gives (.registerWrite p off wide v) s s := by
  refine gives_run _ _ (execRegisterWrite.eq_1 p off wide v s) ?_
  split
  · next al => exact h al
  · rfl

theorem exec_write_pf {b r : Nat} (v : BitVec 64) (s : State) (h8 : r % 8 = 0) (hb : b < 0x1_0000) (hr : r < 0x1_0000) :
    exec (.registerWrite .pf (BitVec.ofNat 32 (0x1_0000 * b + r)) true v) s =
      run (writeSlot (some .pf) (0x1_0000 * b + r) (wideWrite v)) s := by
  rw [exec_write_wide .pf v s (by omega) (by omega), run, run, writeReg]
  have slot : (0x1_0000 * b + r) / 8 * 8 = 0x1_0000 * b + r := by omega
  rw [slot]
  rfl

@[simp] theorem wideWrite_low (v : BitVec 64) : (wideWrite v).low = true := rfl
@[simp] theorem wideWrite_v (v : BitVec 64) : (wideWrite v).v = v.toNat := rfl
@[simp] theorem wideWrite_high (v : BitVec 64) : (wideWrite v).high = false := rfl

@[simp] theorem wideWrite_merge (v : BitVec 64) (n : Nat) : (wideWrite v).merge n = v.toNat :=
  Nat.mod_eq_of_lt v.isLt

@[simp] theorem wideWrite_only (v : BitVec 64) : (wideWrite v).only = v.toNat := wideWrite_merge v 0

@[simp] theorem toNat_low (v : BitVec 64) : (v.setWidth 32).toNat = v.toNat % 2 ^ 32 := by simp

section
variable (p : Option Port) (w : Wr) {s : State} (hs : s.pwr.state ≠ .loading) {r : Nat} (hr : r < 0x1_0000)
include hr

theorem slot_split (b : Nat) : (0x1_0000 * b + r) / 0x1_0000 = b ∧ (0x1_0000 * b + r) % 0x1_0000 = r := by omega

include hs

theorem writeSlot_rgl (hw : w.low = true) : writeSlot p (0x1_0000 * 3 + r) w s =
    if r = 0x20 then writeCap (w.v % 2 ^ 32) s else if r = 0x40 then writeShedReq (bitAt w.v 0) s else s := by
  obtain ⟨hb, ho⟩ := slot_split hr 3
  simp [writeSlot, hb, ho, hs, hw]

theorem writeSlot_jobs (hj : 0x8000 ≤ r) : writeSlot p (0x1_0000 * 4 + r) w s = writeJob ((r - 0x8000) / 0x200) (r % 0x200) w s := by
  obtain ⟨hb, ho⟩ := slot_split hr 4
  simp [writeSlot, hb, ho, hs, hj]

theorem writeSlot_cul : writeSlot p (0x1_0000 * 9 + r) w s = writeCul 0 r w s := by
  obtain ⟨hb, ho⟩ := slot_split hr 9
  simp [writeSlot, hb, ho, hs]

theorem writeSlot_flt : writeSlot p (0x1_0000 * 0xB + r) w s = writeFlt r w s := by
  obtain ⟨hb, ho⟩ := slot_split hr 0xB
  simp [writeSlot, hb, ho, hs]

theorem writeSlot_lk (n : Fin 8) : writeSlot p (0x1_0000 * (0x10 + n.val) + r) w s = writeLk p n r w s := by
  obtain ⟨hb, ho⟩ := slot_split hr (0x10 + n.val)
  have n8 : n.val < 8 := n.isLt
  simp only [writeSlot, hb, ho]
  rw [if_neg (by simp [hs]), if_neg (by omega), if_neg (by omega), if_neg (by omega), if_neg (by omega), if_neg (by omega), if_neg (by omega),
    if_neg (by omega), if_pos (by simp; omega), Nat.add_sub_cancel_left]

end

theorem writeReg_vf (q : Fin 8) (off : Nat) (wide : Bool) (v : Nat) (s : State) : writeReg (.vf q) off wide v s =
    writeVf q.val (off / 8 * 8) { wide := wide, high := !wide && off % 8 == 4, v := v } s := rfl

/-- In Loading no block but the UART's takes a write (R315). -/
theorem writeSlot_loading {p : Option Port} {off : Nat} {w : Wr} {s : State} (hs : s.pwr.state = .loading) (hb : off / 0x1_0000 ≠ 0x0D) :
    writeSlot p off w s = s := by
  simp [writeSlot, hs, hb]

/-! ### What the registers' writes leave -/

section
variable (s : State)

theorem unheld_leaves {α : Type} (g : State → α) (f : State → State) (h : g (f s) = g s) : g (unheld f s) = g s := by
  unfold unheld; split
  · rfl
  · exact h

theorem writeKdst_local (v : Nat) : (writeKdst v s).mem = s.mem ∧ (writeKdst v s).tps = s.tps := by
  unfold writeKdst keeperAccept
  dsimp only
  split
  · split <;> exact ⟨rfl, rfl⟩
  · exact ⟨(sendsOnly_sendU ..).mem, (sendsOnly_sendU ..).tps⟩

theorem writeRemapCmd_local (v : Nat) : (writeRemapCmd v s).mem = s.mem ∧ (writeRemapCmd v s).tps = s.tps := by
  unfold writeRemapCmd checkRestored
  dsimp only
  split
  · split <;> exact ⟨rfl, rfl⟩
  · exact ⟨rfl, rfl⟩

theorem writeEvSetup_local (r : RingReg) (v : Nat) : (writeEvSetup r v s).mem = s.mem ∧ (writeEvSetup r v s).tps = s.tps := by
  unfold writeEvSetup
  dsimp only
  split <;> exact ⟨rfl, rfl⟩

theorem writeEvCtrl_local (v : Nat) : (writeEvCtrl v s).mem = s.mem ∧ (writeEvCtrl v s).tps = s.tps := by
  unfold writeEvCtrl unheld
  dsimp only
  split_ifs <;> exact ⟨rfl, rfl⟩

theorem armResume_local (v : Nat) : (armResume v s).mem = s.mem ∧ (armResume v s).tps = s.tps := by
  unfold armResume
  split
  · split <;> exact ⟨rfl, rfl⟩
  · exact ⟨rfl, rfl⟩

theorem requestLease_local (fn v : Nat) : (requestLease fn v s).mem = s.mem ∧ (requestLease fn v s).tps = s.tps := by
  unfold requestLease
  dsimp only
  split
  · exact ⟨rfl, rfl⟩
  · split
    · exact ⟨rfl, rfl⟩
    · split <;> exact ⟨rfl, rfl⟩

theorem releaseLease_local (fn v : Nat) : (releaseLease fn v s).mem = s.mem ∧ (releaseLease fn v s).tps = s.tps := by
  unfold releaseLease dropLease
  dsimp only
  split
  · split <;> exact ⟨rfl, rfl⟩
  · exact ⟨rfl, rfl⟩

theorem writeMirCmd_local (v : Nat) : (writeMirCmd v s).mem = s.mem ∧ (writeMirCmd v s).tps = s.tps := by
  unfold writeMirCmd
  split <;> exact ⟨rfl, rfl⟩

theorem writeMirCmd_odd {v : Nat} (h : bitAt v 0 = true) : writeMirCmd v s = writeMirCmd 1 s := by
  have one : bitAt 1 0 = true := rfl
  simp only [writeMirCmd, h, one, if_true]

theorem linksOnly_writeLkCmd (n v : Nat) : LinksOnly s (writeLkCmd n v s) := by
  unfold writeLkCmd
  dsimp only
  split_ifs
  · exact .refl s
  · exact linksOnly_beginTrain ..
  · exact .refl s
  · exact (linksOnly_modLink ..).trans (linksOnly_beginTrain ..)
  · exact (linksOnly_modLink ..).trans (linksOnly_beginFast ..)

theorem writeLkCmd_local (n v : Nat) : (writeLkCmd n v s).mem = s.mem ∧ (writeLkCmd n v s).tps = s.tps := by
  have only := linksOnly_writeLkCmd s n v
  exact ⟨only.mem, only.tps⟩

end

/-! ### The commands of the registers -/

/-- The physical function's write at a register is the command that has the register's effect. -/
theorem write_is {i : Instr} {b r : Nat} {v : BitVec 64} {s : State} {g : State → State} (h : exec i s = runCtl g s)
    (h8 : r % 8 = 0) (hb : b < 0x1_0000) (hr : r < 0x1_0000)
    (hw : writeSlot (some .pf) (0x1_0000 * b + r) (wideWrite v) s = g s) (loc : (g s).mem = s.mem ∧ (g s).tps = s.tps) :
    exec (.registerWrite .pf (BitVec.ofNat 32 (0x1_0000 * b + r)) true v) s = exec i s := by
  rw [exec_write_pf v s h8 hb hr, h]
  exact run_eq_runCtl hw loc.1 loc.2

section
variable (v : BitVec 64) {s : State} (hs : s.pwr.state ≠ .loading)
include hs

theorem write_capWrite : exec (.registerWrite .pf (BitVec.ofNat 32 0x3_0020) true v) s = exec (.capWrite (v.setWidth 32)) s :=
  write_is (b := 3) (r := 0x20) rfl (by decide) (by decide) (by decide)
    (by rw [writeSlot_rgl _ _ hs (by decide) rfl, if_pos rfl, toNat_low]; rfl)
    ⟨unheld_leaves s State.mem _ rfl, unheld_leaves s State.tps _ rfl⟩

theorem write_shedRequest : exec (.registerWrite .pf (BitVec.ofNat 32 0x3_0040) true v) s = exec (.shedRequest (v.setWidth 32)) s := by
  have bit : bitAt v.toNat 0 = (v.setWidth 32).getLsbD 0 := by simp [bitAt, BitVec.getLsbD]
  exact write_is (b := 3) (r := 0x40) rfl (by decide) (by decide) (by decide)
    (by rw [writeSlot_rgl _ _ hs (by decide) rfl, if_neg (by decide), if_pos rfl]; exact congrArg (writeShedReq · s) bit)
    ⟨unheld_leaves s State.mem _ (updateShed_mem _), unheld_leaves s State.tps _ (updateShed_tps _)⟩

/-- A write at a register of the Fault Unit. -/
theorem write_flt {i : Instr} {r : Nat} {g : State → State} (h : exec i s = runCtl g s) (h8 : r % 8 = 0) (hr : r < 0x1_0000)
    (hw : writeFlt r (wideWrite v) s = g s) (loc : (g s).mem = s.mem ∧ (g s).tps = s.tps) :
    exec (.registerWrite .pf (BitVec.ofNat 32 (0x1_0000 * 0xB + r)) true v) s = exec i s :=
  write_is h h8 (by decide) hr (by rw [writeSlot_flt _ _ hs hr, hw]) loc

theorem write_cul {i : Instr} {r : Nat} {g : State → State} (h : exec i s = runCtl g s) (h8 : r % 8 = 0) (hr : r < 0x1_0000)
    (hw : writeCul 0 r (wideWrite v) s = g s) (loc : (g s).mem = s.mem ∧ (g s).tps = s.tps) :
    exec (.registerWrite .pf (BitVec.ofNat 32 (0x1_0000 * 9 + r)) true v) s = exec i s :=
  write_is h h8 (by decide) hr (by rw [writeSlot_cul _ _ hs hr, hw]) loc

theorem write_lk {i : Instr} {r : Nat} {n : Fin 8} {g : State → State} (h : exec i s = runCtl g s) (h8 : r % 8 = 0) (hr : r < 0x1_0000)
    (hw : writeLk (some .pf) n r (wideWrite v) s = g s) (loc : (g s).mem = s.mem ∧ (g s).tps = s.tps) :
    exec (.registerWrite .pf (BitVec.ofNat 32 (0x1_0000 * (0x10 + n.val) + r)) true v) s = exec i s :=
  write_is h h8 (by omega) hr (by rw [writeSlot_lk _ _ hs hr, hw]) loc

end

/-- LK_CMD's bits are the retrain commands (R191). -/
theorem write_lkCmd {v : BitVec 64} {i : Instr} {n : Fin 8} {s : State} (hs : s.pwr.state ≠ .loading)
    (h : exec i s = runCtl (writeLkCmd n.val v.toNat) s) :
    exec (.registerWrite .pf (BitVec.ofNat 32 (0x10_0008 + 0x1_0000 * n.val)) true v) s = exec i s := by
  have at_ : 0x10_0008 + 0x1_0000 * n.val = 0x1_0000 * (0x10 + n.val) + 8 := by omega
  rw [at_]
  exact write_lk v hs h (by decide) (by decide) rfl (writeLkCmd_local ..)

/-- SCH_JCMD of a slot runs the command of its code (R235). -/
theorem write_jobCmd {v : BitVec 64} {i : Instr} {j : Fin 64} {s : State} {g : State → State} (hs : s.pwr.state ≠ .loading)
    (h : exec i s = run g s) (hw : writeJob j.val 0x20 (wideWrite v) s = g s) :
    exec (.registerWrite .pf (BitVec.ofNat 32 (0x4_8020 + 0x200 * j.val)) true v) s = exec i s := by
  have at_ : 0x4_8020 + 0x200 * j.val = 0x1_0000 * 4 + (0x8000 + 0x200 * j.val + 0x20) := by omega
  have slot : (0x8000 + 0x200 * j.val + 0x20 - 0x8000) / 0x200 = j.val ∧ (0x8000 + 0x200 * j.val + 0x20) % 0x200 = 0x20 := by omega
  rw [at_, exec_write_pf v s (by omega) (by decide) (by omega), h, run, run,
    writeSlot_jobs _ _ hs (by omega) (by omega), slot.1, slot.2, hw]

/-- A protected write is dropped and reported with its port (R24, R210, R395). -/
theorem writeLk_protected {p : Port} {v : BitVec 64} {s : State} {k : Nat} (hk : k < 0x801) :
    writeLk (some p) 0 (0x4000 + 8 * k) (wideWrite v) s =
      post 0x10 0x0A 1 (leBytes 4 (0x4000 + 8 * k) ++ leBytes 1 (portNum p)) s := by
  have guard : protectedLk 0 (0x4000 + 8 * k) (wideWrite v) = true := by
    simp [protectedLk]
    omega
  rw [writeLk, if_neg (by omega), if_neg (by simp; omega), if_pos guard]
  rfl

/-- Settles O52, register by register. -/
theorem registerWrites : Obligations.RegisterWrites := by
  intro v wide off s
  dsimp only
  refine ⟨fun hs => ⟨write_capWrite v hs, write_shedRequest v hs, ?_, ?_, ?_, ?_, ?_, ?_, ?_, ?_, fun odd => ?_, fun n one => ?_, fun n two => ?_,
    fun j c i listed code => ?_, fun k hk => ⟨?_, ?_⟩⟩, fun hs hb => ?_, fun odd p => ?_, fun away out => ?_, fun p on => ?_, fun p away => ?_⟩
  · exact write_flt (r := 0) v hs (execFaultClear.eq_1 v s) (by decide) (by decide) (by simp [writeFlt]) ⟨rfl, rfl⟩
  · exact write_flt (r := 0x440) v hs (execKeeperSend.eq_1 _ s) (by decide) (by decide) (by simp [writeFlt]) (writeKdst_local ..)
  · exact write_flt (r := 0x450) v hs (execLoaded.eq_1 _ s) (by decide) (by decide) (by simp [writeFlt]) (writeRemapCmd_local ..)
  · exact write_flt (r := 0x800) v hs (execEventRingSetup.eq_1 _ v s) (by decide) (by decide) (by simp [writeFlt]) (writeEvSetup_local ..)
  · exact write_flt (r := 0x828) v hs (execEventRingEnable.eq_1 _ s) (by decide) (by decide) (by simp [writeFlt]) (writeEvCtrl_local ..)
  · exact write_cul (r := 0x228) v hs (execCulResumestep.eq_1 v s) (by decide) (by decide) (by simp [writeCul]) (armResume_local ..)
  · exact write_cul (r := 0x200) v hs (execCulSnreq.eq_1 0 v s) (by decide) (by decide) (by simp [writeCul]) (requestLease_local ..)
  · exact write_cul (r := 0x218) v hs (execCulSnrel.eq_1 0 v s) (by decide) (by decide) (by simp [writeCul]) (releaseLease_local ..)
  · have bit : bitAt v.toNat 0 = true := odd
    refine write_lk (r := 0x8030) (n := 0) v hs (execMirrorCheck.eq_1 s) (by decide) (by decide) ?_ (writeMirCmd_local ..)
    simp [writeLk, writeMirCmd_odd s bit]
  · exact write_lkCmd hs (by rw [one]; rfl)
  · exact write_lkCmd hs (by rw [two]; rfl)
  · simp only [List.mem_cons, Prod.mk.injEq, List.not_mem_nil, or_false] at listed
    rcases listed with ⟨rfl, rfl⟩ | ⟨rfl, rfl⟩ | ⟨rfl, rfl⟩ | ⟨rfl, rfl⟩ | ⟨rfl, rfl⟩ <;>
      exact write_jobCmd hs rfl (by simp [writeJob, code])
  · have at_ : 0x10_4000 + 8 * k = 0x1_0000 * (0x10 + (0 : Fin 8).val) + (0x4000 + 8 * k) := by simp; omega
    rw [at_, Gives, exec_write_pf v s (by omega) (by decide) (by omega), run, writeSlot_lk _ _ hs (by omega) 0]
    rw [show ((0 : Fin 8) : Nat) = 0 from rfl, writeLk_protected hk]
    rfl
  · refine gives_write_wide .smbus v (by omega) (by omega) ?_
    have at_ : 0x10_4000 + 8 * k = 0x1_0000 * (0x10 + (0 : Fin 8).val) + (0x4000 + 8 * k) := by simp; omega
    have guard : protectedLk 0 (0x10_4000 + 8 * k - 0x10_0000) (wideWrite v) = true := by
      simp [protectedLk]
      omega
    have slot : (0x10_4000 + 8 * k) / 8 * 8 = 0x10_4000 + 8 * k := by omega
    have write : writeReg .smbus (0x10_4000 + 8 * k) true v.toNat s = writeSlot (some .smbus) (0x10_4000 + 8 * k) (wideWrite v) s := by
      rw [writeReg, slot]
      exact if_pos (Bool.or_eq_true_iff.2 (Or.inr guard))
    rw [write, at_, writeSlot_lk _ _ hs (by omega) 0]
    exact writeLk_protected hk
  · refine gives_write_none fun _ => writeSlot_loading hs ?_
    omega
  · exact gives_write_none fun al => absurd (by simpa [aligned] using al) odd
  · refine gives_write_none fun _ => if_neg ?_
    simp [protectedLk]
    omega
  · have write : writeReg (.vf p) 0x10 true v.toNat s = writeSqTail p.val (v.setWidth 32).toNat s := by
      rw [writeReg_vf, writeVf, if_neg (by simp [on]), if_pos (by decide), toNat_low]
      rfl
    exact (exec_write_wide (.vf p) v s (by decide) (by decide)).trans (by rw [run, write]; rfl)
  · refine gives_write_none fun _ => ?_
    rw [writeReg_vf, writeVf]
    rcases away with off_ | hidden | hidden
    · exact if_pos off_
    all_goals
      split
      · rfl
      · rw [if_neg (by omega), if_neg (by simp; omega)]

end Sys2Proof.Machine
end

section
/-! PROOFS. The host's accesses through BAR2 (R58, R60, R364, R393). -/

namespace Sys2Proof.Machine

/-- What an answer over `run` shows is what its collected effect shows. -/
theorem exists_answer {i : Instr} {s : State} (f : State → State) (h : exec i s = run f s) {P : State → Prop}
    (hp : P { collect (f s) with pending := s.pending }) : ∃ s', exec i s = .next s' ∧ P s' :=
  ⟨_, h, hp⟩

/-! ### Bytes one by one -/

theorem mem_upFrom {a n x : Nat} : x ∈ upFrom a n ↔ a ≤ x ∧ x < a + n := by
  rw [upFrom_eq_range]; simp [List.mem_range'_1]

/-- Bytes put one after the other stand as they do when written at once. -/
theorem foldl_putMem (bs : List Byte) (a : Nat) (s : State) :
    ((upFrom a bs.length).zip bs).foldl (fun t x => putMem x.1 [x.2] t) s = putMem a bs s := by
  induction bs generalizing a s with
  | nil => rfl
  | cons b bs ih =>
    rw [List.length_cons, upFrom, List.zip_cons_cons, List.foldl_cons, ih]
    rfl

theorem map_memGet (m : Table Byte) (n a : Nat) : (upFrom a n).map (memGet m) = memRead m a n := by
  induction n generalizing a with
  | zero => rfl
  | succ n ih => rw [upFrom, List.map_cons, ih]; rfl

/-! ### What BAR2 looks at -/

/-- What BAR2 does with a byte depends on neither the lines in flight nor what they bring. -/
theorem bar2Byte_serveAll (s : State) : bar2Byte (serveAll s) = bar2Byte s := by
  funext a
  rw [serveAll_rest]
  rfl

theorem jobTouched_serveAll (s : State) (a n : Nat) : jobTouched (serveAll s) a n = jobTouched s a n := by
  rw [serveAll_rest]
  rfl

/-- No line is bad that was not. -/
theorem serveVat_badLines (ok : VatAcc → Bool) (k : Nat) (s : State) (h : s.ecc.badLines = []) : (serveVat ok k s).ecc.badLines = [] := by
  induction k generalizing s with
  | zero => exact h
  | succ k ih =>
    rw [serveVat]
    split
    · exact h
    · refine ih _ ?_
      unfold serveLine
      dsimp only
      split
      · exact h
      · simp [storeMem, healLines, h]

theorem serveAll_badLines (s : State) (h : s.ecc.badLines = []) : (serveAll s).ecc.badLines = [] := serveVat_badLines _ _ s h

section
variable {s : State} {a n k : Nat} (all : ∀ x, a ≤ x → x < a + n → bar2Byte s x = k)
include all

/-- A debug access is refused where a byte asks for it alone. -/
theorem debugRefused_none (hk : k ≠ 2) (req : Nat) : debugRefused req a n s = s := by
  have none_ : ((upFrom a n).any fun x => bar2Byte s x == 2) = false := by
    rw [List.any_eq_false]
    intro x hx
    obtain ⟨lo, hi⟩ := mem_upFrom.1 hx
    simp [all x lo hi, hk]
  rw [debugRefused, none_, postIf, if_neg Bool.false_ne_true]

end

/-! ### Writes -/

section
variable {s : State} {a : Nat} {bs : List Byte} (req : Nat) (free : jobTouched s a bs.length = none) (sound : s.ecc.badLines = [])
include free sound

/-- A write that every byte accepts. -/
theorem bar2Store_lands (all : ∀ x, a ≤ x → x < a + bs.length → bar2Byte s x = 0) :
    bar2Store req a bs s = putMem a bs (healBar2 a bs.length s) := by
  have bad : partBad s a bs.length = [] := by simp [partBad, sound]
  have land : bar2Land s a bs = (upFrom a bs.length).zip bs := by
    rw [bar2Land, bad, List.filter_eq_self]
    intro x hx
    obtain ⟨lo, hi⟩ := mem_upFrom.1 (List.of_mem_zip hx).1
    simp [all x.1 lo hi]
  rw [bar2Store, free, bad, land, debugRefused_none all (by decide)]
  exact foldl_putMem bs a _

/-- A write that no byte accepts and none refuses. -/
theorem bar2Store_drops (all : ∀ x, a ≤ x → x < a + bs.length → bar2Byte s x = 1) : bar2Store req a bs s = healBar2 a bs.length s := by
  have bad : partBad s a bs.length = [] := by simp [partBad, sound]
  have land : bar2Land s a bs = [] := by
    rw [bar2Land, bad, List.filter_eq_nil_iff]
    intro x hx
    obtain ⟨lo, hi⟩ := mem_upFrom.1 (List.of_mem_zip hx).1
    simp [all x.1 lo hi]
  rw [bar2Store, free, bad, land, debugRefused_none all (by decide)]
  rfl

end

/-! ### Reads -/

section
variable {s : State} {a n : Nat} (req : Nat) (hn : 0 < n)
include hn

theorem bar2Load_good (all : ∀ x, a ≤ x → x < a + n → bar2Byte s x = 0) (sound : s.ecc.badLines = []) : bar2Load req a n s =
    completeRead { data := memRead s.mem a n, poisoned := false, unsupported := false } (countSoft a n s) := by
  have bad : readBad s a n = [] := by simp [readBad, sound]
  have data : (upFrom a n).map (bar2Get s) = memRead s.mem a n := by
    rw [← map_memGet]
    refine List.map_congr_left fun x hx => ?_
    obtain ⟨lo, hi⟩ := mem_upFrom.1 hx
    rw [bar2Get, if_pos (all x lo hi)]
  rw [bar2Load, bad, debugRefused_none all (by decide), if_pos (all a (Nat.le_refl a) (by omega)), data]

theorem bar2Load_absent (all : ∀ x, a ≤ x → x < a + n → bar2Byte s x = 1) : bar2Load req a n s =
    completeRead { data := List.replicate n 0, poisoned := false, unsupported := false } s := by
  have bad : readBad s a n = [] := by
    rw [readBad, List.filter_eq_nil_iff]
    intro l _
    rw [Bool.and_eq_true, not_and, Bool.not_eq_true, List.any_eq_false]
    intro _ x hx
    obtain ⟨lo, hi⟩ := mem_upFrom.1 hx
    simp [all x lo hi]
  have data : (upFrom a n).map (bar2Get s) = List.replicate n 0 := by
    rw [List.eq_replicate_iff]
    refine ⟨by rw [List.length_map, upFrom_eq_range, List.length_range'], fun b hb => ?_⟩
    obtain ⟨x, hx, rfl⟩ := List.mem_map.1 hb
    obtain ⟨lo, hi⟩ := mem_upFrom.1 hx
    rw [bar2Get, if_neg (by rw [all x lo hi]; decide)]
  rw [bar2Load, bad, debugRefused_none all (by decide), if_neg (by rw [all a (Nat.le_refl a) (by omega)]; decide), data]

/-- The bad lines of a read that meets one. -/
theorem readBad_cons (all : ∀ x, a ≤ x → x < a + n → bar2Byte s x = 0) (bad : a / 64 ∈ s.ecc.badLines) : ∃ l ls, readBad s a n = l :: ls := by
  refine List.exists_cons_of_ne_nil (List.ne_nil_of_mem (a := a / 64) (List.mem_filter.2 ⟨bad, ?_⟩))
  have here : a ∈ upFrom a n := mem_upFrom.2 ⟨Nat.le_refl a, by omega⟩
  rw [Bool.and_eq_true, List.any_eq_true]
  refine ⟨?_, a, here, by simp [all a (Nat.le_refl a) (by omega)]⟩
  simp [overlap, hn]
  omega

end

/-- Uncorrectable lines are counted, and nothing else but events. -/
theorem foldl_eccEvent (sev reader : Nat) (ls : List Nat) (s : State) :
    let t := ls.foldl (fun t l => eccEvent sev (64 * l) reader t) s
    t.mem = s.mem ∧ t.pcie = s.pcie ∧ t.flt.eccUnc = s.flt.eccUnc + ls.length ∧ t.freeCtr = s.freeCtr := by
  induction ls generalizing s with
  | nil => exact ⟨rfl, rfl, rfl, rfl⟩
  | cons l ls ih =>
    obtain ⟨mem, pcie, unc, free⟩ := ih (eccEvent sev (64 * l) reader s)
    refine ⟨mem, pcie, unc.trans ?_, free⟩
    rw [List.length_cons]
    show s.flt.eccUnc + 1 + ls.length = _
    omega

/-- A read that meets a bad line is poisoned (R364). -/
theorem bar2Load_poisoned {s : State} {a n : Nat} (req : Nat) (hn : 0 < n) (all : ∀ x, a ≤ x → x < a + n → bar2Byte s x = 0)
    (bad : a / 64 ∈ s.ecc.badLines) :
    let t := bar2Load req a n s
    t.mem = s.mem ∧ t.pcie.last = some { data := freeBytes s n, poisoned := true, unsupported := false } ∧
      t.pcie.poison = s.pcie.poison + 1 ∧ s.flt.eccUnc < t.flt.eccUnc := by
  obtain ⟨l, ls, met⟩ := readBad_cons hn all bad
  let s3 := completeRead { data := freeBytes s n, poisoned := true, unsupported := false }
    (skipFree n ((l :: ls).foldl (fun t l => eccEvent 1 (64 * l) 5 t) (countSoft a n s)))
  have load : bar2Load req a n s = { s3 with pcie.poison := s3.pcie.poison + 1, pcie.aerUnc := s3.pcie.aerUnc + 1 } := by
    rw [bar2Load, met, debugRefused_none all (by decide), if_pos (all a (Nat.le_refl a) (by omega))]
  obtain ⟨mem, pcie, unc, -⟩ := foldl_eccEvent 1 5 (l :: ls) (countSoft a n s)
  rw [load]
  refine ⟨mem, rfl, congrArg (·.poison + 1) pcie, Nat.lt_of_lt_of_eq ?_ unc.symm⟩
  rw [List.length_cons]
  show s.flt.eccUnc < s.flt.eccUnc + (ls.length + 1)
  omega

/-! ### Register space -/

theorem isRegister_iff (a : Nat) : isRegister a = true ↔ 0xF_C000_0000 ≤ a ∧ a < 0xF_C400_0000 := by
  simp [isRegister]; omega

/-- In register space an access of another size or alignment is none that is served (R393). -/
theorem register_misfit {a n : Nat} (hr : isRegister a = true) (h : ¬((n = 4 ∧ a % 4 = 0) ∨ (n = 8 ∧ a % 8 = 0))) :
    ((decide (n = 4) || decide (n = 8)) && aligned (a - 0xF_C000_0000) (n == 8)) = false := by
  obtain ⟨lo, -⟩ := (isRegister_iff a).1 hr
  rw [Bool.eq_false_iff]
  intro fits
  simp only [Bool.and_eq_true, Bool.or_eq_true, decide_eq_true_eq, aligned, beq_iff_eq] at fits
  obtain ⟨size, at_⟩ := fits
  rcases size with rfl | rfl
  · simp at at_; omega
  · simp at at_; omega

/-- Settles O51, by what BAR2 does with the bytes that it touches. -/
theorem hostMemory : Obligations.HostMemory := by
  intro req addr data len off n wr s a u refused all good
  have bytes : bar2Byte u = bar2Byte s := bar2Byte_serveAll s
  have touched : ∀ n, jobTouched u a n = jobTouched s a n := jobTouched_serveAll s a
  have sound : s.ecc.badLines = [] → u.ecc.badLines = [] := serveAll_badLines s
  have pcie : u.pcie = s.pcie := by
    show (serveAll s).pcie = _
    rw [serveAll_rest]
  have write (outside : isRegister a = false) {P : State → Prop} {t : State} (ht : bar2Store req.toNat a data u = t)
      (hp : P { collect t with pending := s.pending }) : ∃ s', exec (.bar2Write req addr data) s = .next s' ∧ P s' := by
    refine exists_answer (i := .bar2Write req addr data) _ (execBar2Write.eq_1 req addr data s) ?_
    show P { collect (if isRegister a = true then _ else bar2Store req.toNat a data u) with pending := s.pending }
    rw [if_neg (by simp [outside]), ht]
    exact hp
  have read (outside : isRegister a = false) {P : State → Prop} {t : State} (ht : bar2Load req.toNat a len u = t)
      (hp : P { collect t with pending := s.pending }) : ∃ s', exec (.bar2Read req addr len) s = .next s' ∧ P s' := by
    refine exists_answer (i := .bar2Read req addr len) _ (execBar2Read.eq_1 req addr len s) ?_
    show P { collect (if isRegister a = true then _ else bar2Load req.toNat a len u) with pending := s.pending }
    rw [if_neg (by simp [outside]), ht]
    exact hp
  refine ⟨fun outside => ⟨fun lands free ecc => ?_, fun drops free ecc => ?_, fun j busy => ?_, fun pos lands ecc => ?_, fun pos absent => ?_,
    fun pos lands bad => ?_⟩, fun inside misfit => ?_, fun inside misfit => ?_, isRegister_iff a, ?_⟩
  · refine write outside (bar2Store_lands _ ((touched _).trans free) (sound ecc) (by rw [bytes]; exact lands)) ?_
    simp [healBar2, putMem, pcie]
  · refine write outside (bar2Store_drops _ ((touched _).trans free) (sound ecc) (by rw [bytes]; exact drops)) ?_
    simp [healBar2, pcie]
  · have given := gives_run (i := .bar2Write req addr data) _ (post 0x0F 3 1 (leBytes 2 req.toNat ++ leBytes 8 a ++ leBytes 1 j) u)
      (execBar2Write.eq_1 req addr data s)
    refine given ?_
    have store : bar2Store req.toNat a data u = post 0x0F 3 1 (leBytes 2 req.toNat ++ leBytes 8 a ++ leBytes 1 j) u := by
      rw [bar2Store, touched, busy]
      rfl
    exact (if_neg (by simp [a] at outside; simp [outside])).trans store
  · refine read outside (bar2Load_good _ pos (by rw [bytes]; exact lands) (sound ecc)) ?_
    simp [completeRead, countSoft, good]
  · refine read outside (bar2Load_absent _ pos (by rw [bytes]; exact absent)) ?_
    simp [completeRead, good]
  · obtain ⟨mem, last, poison, unc⟩ := bar2Load_poisoned req.toNat pos (by rw [bytes]; exact lands) bad
    obtain ⟨s', answer, seen⟩ := read outside (P := fun s' => s'.mem = u.mem ∧
      s'.pcie.last = some { data := freeBytes u len, poisoned := true, unsupported := false } ∧ s'.pcie.poison = u.pcie.poison + 1 ∧
      u.flt.eccUnc < s'.flt.eccUnc) rfl (by simp [mem, last, poison, unc])
    obtain ⟨mem, last, poison, unc⟩ := seen
    refine ⟨s', _, answer, mem, last, ?_, poison.trans (by rw [pcie]), lt_of_eq_of_lt ?_ unc⟩
    · rw [freeBytes, List.length_map, upFrom_eq_range, List.length_range']
    · show s.flt.eccUnc = (serveAll s).flt.eccUnc
      rw [serveAll_rest]
  · exact gives_run _ _ (execBar2Write.eq_1 req addr data s) ((if_pos inside).trans (if_neg (Bool.eq_false_iff.1 (register_misfit inside misfit))))
  · exact gives_run _ _ (execBar2Read.eq_1 req addr len s) ((if_pos inside).trans (if_neg (Bool.eq_false_iff.1 (register_misfit inside misfit))))
  · exact gives_run _ _ (execBar0UnsupportedAccess.eq_1 req off n wr s) rfl

end Sys2Proof.Machine
end

section
/-! PROOFS. What the credits' operations leave (R285 to R290): links, the net's tables and postings change, and of the Regulator the
credits alone. -/

namespace Sys2Proof.Machine

/-- Of the machine only links, the net's tables and the Regulator's credits have changed, and postings have been made. -/
def CreditsOnly (s t : State) : Prop :=
  t = { s with
    links := t.links, net := t.net, ev.queue := t.ev.queue
    rgl := { s.rgl with
      leases := t.rgl.leases, pool := t.rgl.pool, reqRise := t.rgl.reqRise, reqDesc := t.rgl.reqDesc, nextLease := t.rgl.nextLease
      freeRise := t.rgl.freeRise, freeDesc := t.rgl.freeDesc } }

theorem CreditsOnly.refl (s : State) : CreditsOnly s s := rfl

theorem CreditsOnly.trans {s t u : State} (h : CreditsOnly s t) (h' : CreditsOnly t u) : CreditsOnly s u := by
  rw [CreditsOnly] at *
  rw [h', h]

theorem SendsOnly.credits {s t : State} (h : SendsOnly s t) : CreditsOnly s t := by
  rw [SendsOnly] at h
  rw [h]; rfl

theorem CreditsOnly.ite {c : Prop} [Decidable c] {s t u : State} (ht : CreditsOnly s t) (hu : CreditsOnly s u) :
    CreditsOnly s (if c then t else u) := by
  split
  · exact ht
  · exact hu

theorem CreditsOnly.foldl {β : Type} (g : State → β → State) (hg : ∀ s x, CreditsOnly s (g s x)) (xs : List β) (s : State) :
    CreditsOnly s (xs.foldl g s) := by
  induction xs generalizing s with
  | nil => exact .refl s
  | cons x xs ih => exact (hg s x).trans (ih _)

/-- What is read of neither links, the net's tables, postings nor credits is as before. -/
theorem CreditsOnly.keeps {s t : State} (h : CreditsOnly s t) {α : Type} (g : State → α)
    (hg : ∀ (x : State) l n q a b c d e f k, g { x with links := l, net := n, ev.queue := q, rgl := { x.rgl with
      leases := a, pool := b, reqRise := c, reqDesc := d, nextLease := e, freeRise := f, freeDesc := k } } = g x) : g t = g s := by
  rw [CreditsOnly] at h
  rw [h, hg]

theorem CreditsOnly.mem {s t : State} (h : CreditsOnly s t) : t.mem = s.mem := h.keeps _ fun _ _ _ _ _ _ _ _ _ _ _ => rfl
theorem CreditsOnly.tps {s t : State} (h : CreditsOnly s t) : t.tps = s.tps := h.keeps _ fun _ _ _ _ _ _ _ _ _ _ _ => rfl

theorem creditsOnly_sendRamp (chip op epoch : Nat) (d : Dir) (id watts : Nat) (s : State) :
    CreditsOnly s (sendRamp chip op epoch d id watts s) := (sendsOnly_sendU ..).credits

theorem creditsOnly_setReq (d : Dir) (r : Option RampReq) (s : State) : CreditsOnly s (setReq d r s) := by cases d <;> rfl

theorem creditsOnly_takeLease (d : Dir) (id watts g pool epoch : Nat) (s : State) : CreditsOnly s (takeLease d id watts g pool epoch s) := by
  let s1 : State := { s with rgl.leases :=
    s.rgl.leases ++ [{ dir := d, id := id, watts := watts, spent := 0, due := g + windowNs s, pool := pool, epoch := epoch }] }
  have taken : CreditsOnly s s1 := rfl
  unfold takeLease
  split
  · exact .refl s
  · dsimp only
    split
    · exact .ite (taken.trans (creditsOnly_setReq ..)) taken
    · exact taken

theorem creditsOnly_grantOne (q : PoolReq) (w : Nat) (s : State) : CreditsOnly s (grantOne q w s) := by
  let s1 : State := { s with rgl.pool := { s.rgl.pool with
    queue := s.rgl.pool.queue.erase q
    leases := s.rgl.pool.leases ++
      [{ dir := q.dir, chip := q.chip, id := q.id, watts := w, due := s.clk.fleet / 1000 * 1000 + windowNs s }] } }
  have granted : CreditsOnly s s1 := rfl
  exact .ite (granted.trans (creditsOnly_takeLease ..)) (granted.trans (creditsOnly_sendRamp ..))

theorem creditsOnly_grantQueue (k : Nat) (d : Dir) (s : State) : CreditsOnly s (grantQueue k d s) := by
  induction k generalizing s with
  | zero => exact .refl s
  | succ k ih =>
    rw [grantQueue]
    split
    · exact .refl s
    · exact .ite ((creditsOnly_grantOne ..).trans (ih _)) (.refl s)

theorem creditsOnly_tellOne (s : State) (q : PoolReq) : CreditsOnly s (tellOne s q) := by
  unfold tellOne
  split
  · split
    · exact creditsOnly_setReq ..
    · exact .refl s
  · exact creditsOnly_sendRamp ..

theorem creditsOnly_servePool (d : Dir) (s : State) : CreditsOnly s (servePool d s) := by
  let t := grantQueue s.rgl.pool.queue.length d s
  have told : CreditsOnly t { t with rgl.pool.queue := t.rgl.pool.queue.map fun q => { q with told := true } } := rfl
  exact ((creditsOnly_grantQueue ..).trans told).trans (.foldl _ creditsOnly_tellOne _ _)

theorem creditsOnly_joinQueue (d : Dir) (chip id watts : Nat) (s : State) : CreditsOnly s (joinQueue d chip id watts s) := by
  let t : State := { s with rgl.pool := { s.rgl.pool with
    queue := s.rgl.pool.queue ++ [{ dir := d, chip := chip, id := id, watts := watts, told := false }] } }
  have joined : CreditsOnly s t := rfl
  exact .ite (.refl s) (joined.trans (creditsOnly_servePool ..))

theorem creditsOnly_sendRequest (d : Dir) (r : RampReq) (s : State) : CreditsOnly s (sendRequest d r s) :=
  .ite ((creditsOnly_setReq ..).trans (creditsOnly_joinQueue ..)) ((creditsOnly_setReq ..).trans (creditsOnly_sendRamp ..))

theorem creditsOnly_askCredits (d : Dir) (x : Nat) (s : State) : CreditsOnly s (askCredits d x s) := by
  have numbered : CreditsOnly s { s with rgl.nextLease := (s.rgl.nextLease + 1) % 4096 } := rfl
  unfold askCredits
  split
  · exact .refl s
  · exact .ite (.refl s) (numbered.trans (creditsOnly_sendRequest ..))

theorem creditsOnly_returnLease (d : Dir) (chip id : Nat) (s : State) : CreditsOnly s (returnLease d chip id s) := by
  unfold returnLease
  split
  · exact .refl s
  · next l _ =>
    have erased : CreditsOnly s { s with rgl.pool.leases := s.rgl.pool.leases.erase l } := rfl
    exact erased.trans (creditsOnly_servePool ..)

theorem creditsOnly_spend (d : Dir) (x : Nat) (s : State) : CreditsOnly s (spend d x s) := by
  unfold spend
  split
  · exact .refl s
  · cases d <;> rfl

theorem creditsOnly_spendChange (old new : Nat) (s : State) : CreditsOnly s (spendChange old new s) :=
  .ite (creditsOnly_spend ..) (.ite (creditsOnly_spend ..) (.refl s))

theorem creditsOnly_askFor (w : Nat) (s : State) : CreditsOnly s (askFor w s) :=
  .ite (creditsOnly_askCredits ..) (.ite (creditsOnly_askCredits ..) (.refl s))

end Sys2Proof.Machine
end

section
/-! PROOFS. The estimator's samples (R276, R291, R293, R294, R330). -/

namespace Sys2Proof.Machine

/-! ### What the law of a sample leaves -/

/-- What a sample has counted and leaves to the end of its command: memory, the jobs, and the draw and energy of the Regulator. -/
def counted (s : State) : Table Byte × Table Job × Nat × Nat × Nat × Nat :=
  (s.mem, s.jobs, s.rgl.cal, s.rgl.energy, s.rgl.energyPj, s.rgl.shedOver)

theorem CreditsOnly.counted {s t : State} (h : CreditsOnly s t) : counted t = counted s := h.keeps _ fun _ _ _ _ _ _ _ _ _ _ _ => rfl

theorem SendsOnly.counted {s t : State} (h : SendsOnly s t) : counted t = counted s := h.credits.counted

/-- A shortfall changes its own account and postings alone. -/
theorem checkShortfall_rest (x : Sample) (s : State) : checkShortfall x s = { s with
    ev.queue := (checkShortfall x s).ev.queue
    rgl.shortfall := (checkShortfall x s).rgl.shortfall, rgl.slopeBrk := (checkShortfall x s).rgl.slopeBrk } := by
  have ends : endShortfall s = { s with ev.queue := (endShortfall s).ev.queue, rgl.shortfall := (endShortfall s).rgl.shortfall } := by
    unfold endShortfall
    split <;> rfl
  unfold checkShortfall
  dsimp only
  split
  · rw [ends]
  · split
    · rfl
    · split <;> rfl

/-- The state in which the law sets its outputs: the want asked for, the change spent, and p within its limits. -/
def lawTarget (x : Sample) (s : State) : State :=
  let s1 := askFor (wanted s x.d) s
  { spendChange s1.rgl.p (limited s1 (wanted s x.d)) s1 with rgl.p := limited s1 (wanted s x.d) }

theorem controlLaw_eq (x : Sample) (s : State) : controlLaw x s = checkShortfall x (setOutputs x (lawTarget x s)) := rfl

theorem lawTarget_counted (x : Sample) (s : State) : counted (lawTarget x s) = counted s :=
  ((creditsOnly_askFor (wanted s x.d) s).trans (creditsOnly_spendChange ..)).counted

theorem setOutputs_counted (x : Sample) (s : State) : counted (setOutputs x s) = counted s := by
  unfold setOutputs
  dsimp only
  split
  · rfl
  · split <;> rfl

theorem controlLaw_counted (x : Sample) (s : State) : counted (controlLaw x s) = counted s := by
  rw [controlLaw_eq, checkShortfall_rest]
  exact (setOutputs_counted x _).trans (lawTarget_counted x s)

/-! ### The limits of p (R276) -/

theorem limited_within (s : State) (w : Nat) :
    limited s w ≤ s.rgl.p + slopeLimit s 0x0902 ∧ s.rgl.p ≤ limited s w + slopeLimit s 0x0903 := by
  have lift (p U D lo m : Nat) (hm : m ≤ p + U) (hlo : lo ≤ p) (hd : p ≤ m + D) : max m lo ≤ p + U ∧ p ≤ max m lo + D := by omega
  have slopes (p U D m : Nat) (hm : m ≤ p + U) : max m (p - D) ≤ p + U ∧ p ≤ max m (p - D) + D := by omega
  unfold limited
  dsimp only
  cases budget s .rise <;> cases budget s .descent <;> dsimp only
  · exact slopes _ _ _ _ (Nat.min_le_right ..)
  · obtain ⟨up, down⟩ := slopes _ _ (slopeLimit s 0x0903) _ (Nat.min_le_right w (s.rgl.p + slopeLimit s 0x0902))
    exact lift _ _ _ _ _ up (Nat.sub_le ..) down
  · exact slopes _ _ _ _ (Nat.le_trans (Nat.min_le_left ..) (Nat.min_le_right ..))
  · next b c =>
    obtain ⟨up, down⟩ := slopes _ _ (slopeLimit s 0x0903) _
      (Nat.le_trans (Nat.min_le_left _ (s.rgl.p + b)) (Nat.min_le_right w (s.rgl.p + slopeLimit s 0x0902)))
    exact lift _ _ _ _ _ up (Nat.sub_le ..) down

/-- The law moves p within its slopes. -/
theorem lawTarget_slopes (x : Sample) (s : State) : (lawTarget x s).rgl.p ≤ s.rgl.p + 100 * cfgVal s 0x0902 ∧
    s.rgl.p ≤ (lawTarget x s).rgl.p + 100 * cfgVal s 0x0903 := by
  have asked := creditsOnly_askFor (wanted s x.d) s
  have p : (askFor (wanted s x.d) s).rgl.p = s.rgl.p := asked.keeps (·.rgl.p) fun _ _ _ _ _ _ _ _ _ _ _ => rfl
  have cfg : (askFor (wanted s x.d) s).cfg = s.cfg := asked.keeps (·.cfg) fun _ _ _ _ _ _ _ _ _ _ _ => rfl
  have within := limited_within (askFor (wanted s x.d) s) (wanted s x.d)
  rw [p] at within
  simp only [slopeLimit, cfgVal, cfg] at within
  exact within

/-- Duty and ballast follow the target: below the draw the duty is cut, above it the ballast runs (R276). -/
theorem setOutputs_outputs (x : Sample) (s : State) :
    let t := (setOutputs x s).rgl
    t.p = s.rgl.p ∧
    (s.rgl.p < x.d → t.duty = max 8 (64 * (s.rgl.p - x.stat) / (x.d - x.stat)) ∧ t.ballast = false) ∧
    (x.d ≤ s.rgl.p → t.duty = 64 ∧ t.ballast = decide (x.d < s.rgl.p)) := by
  unfold setOutputs
  dsimp only
  split
  · next low => exact ⟨rfl, fun _ => ⟨rfl, rfl⟩, fun high => absurd low (Nat.not_lt.2 high)⟩
  · next notLow =>
    split
    · next above => exact ⟨rfl, fun low => absurd low notLow, fun _ => ⟨rfl, (decide_eq_true above).symm⟩⟩
    · next level => exact ⟨rfl, fun low => absurd low notLow, fun _ => ⟨rfl, (decide_eq_false level).symm⟩⟩

/-- What the law gives. -/
theorem controlLaw_law (x : Sample) (s : State) :
    let t := (controlLaw x s).rgl
    t.p ≤ s.rgl.p + 100 * cfgVal s 0x0902 ∧ s.rgl.p ≤ t.p + 100 * cfgVal s 0x0903 ∧
    (t.p < x.d → t.duty = max 8 (64 * (t.p - x.stat) / (x.d - x.stat)) ∧ t.ballast = false) ∧
    (x.d ≤ t.p → t.duty = 64 ∧ t.ballast = decide (x.d < t.p)) := by
  intro t
  obtain ⟨up, down⟩ := lawTarget_slopes x s
  obtain ⟨p, low, high⟩ := setOutputs_outputs x (lawTarget x s)
  have duty : t.duty = (setOutputs x (lawTarget x s)).rgl.duty := by
    show (controlLaw x s).rgl.duty = _
    rw [controlLaw_eq, checkShortfall_rest]
  have ballast : t.ballast = (setOutputs x (lawTarget x s)).rgl.ballast := by
    show (controlLaw x s).rgl.ballast = _
    rw [controlLaw_eq, checkShortfall_rest]
  have target : t.p = (lawTarget x s).rgl.p := by
    refine Eq.trans ?_ p
    show (controlLaw x s).rgl.p = _
    rw [controlLaw_eq, checkShortfall_rest]
  rw [duty, ballast, target]
  exact ⟨up, down, low, high⟩

theorem controlLaw_clk (x : Sample) (s : State) : (controlLaw x s).clk = s.clk := by
  have out : (setOutputs x (lawTarget x s)).clk = (lawTarget x s).clk := by
    unfold setOutputs
    split_ifs <;> rfl
  rw [controlLaw_eq, checkShortfall_rest]
  exact out.trans (((creditsOnly_askFor (wanted s x.d) s).trans (creditsOnly_spendChange ..)).keeps (·.clk) fun _ _ _ _ _ _ _ _ _ _ _ => rfl)

/-! ### The descent leaves what is counted (R417) -/

theorem linksOnly_oweCredits (n : Nat) (f : Frame) (s : State) : LinksOnly s (oweCredits n f s) := linksOnly_modLink ..

theorem linksOnly_freeFrames (ts : List TxFrame) (s : State) : LinksOnly s (freeFrames ts s) := by
  refine linksOnly_foldl _ (fun t x => ?_) ts s
  split
  · exact linksOnly_oweCredits ..
  · exact .refl t

theorem sendsOnly_noteDropped (fs : List Frame) (s : State) : SendsOnly s (noteDropped fs s) := rfl

theorem sendsOnly_linkOff (n : Nat) (s : State) : SendsOnly s (linkOff n s) :=
  (((linksOnly_freeFrames ..).sends.trans (sendsOnly_noteDropped ..)).trans (linksOnly_modLink ..).sends).trans
    (linksOnly_setLinkState ..).sends

theorem SendsOnly.foldl {β : Type} (g : State → β → State) (hg : ∀ s x, SendsOnly s (g s x)) (xs : List β) (s : State) :
    SendsOnly s (xs.foldl g s) := by
  induction xs generalizing s with
  | nil => exact .refl s
  | cons x xs ih => exact (hg s x).trans (ih _)

theorem takeLoads_counted (k : Nat) (s : State) : counted (takeLoads k s) = counted s := by
  let s1 := if s.pwr.loadsOff < 1 && 1 ≤ k then (upFrom 0 4).foldl (fun t n => linkOff n t) s else s
  have first : SendsOnly s s1 := .ite (.foldl _ (fun t n => sendsOnly_linkOff n t) _ _) (.refl s)
  let s2 := if s.pwr.loadsOff < 2 && 2 ≤ k then (upFrom 4 4).foldl (fun t n => linkOff n t) s1 else s1
  have second : SendsOnly s1 s2 := .ite (.foldl _ (fun t n => sendsOnly_linkOff n t) _ _) (.refl s1)
  refine Eq.trans ?_ (first.trans second).counted
  unfold takeLoads
  dsimp only
  split <;> rfl

theorem enterDormant_counted (s : State) : counted (enterDormant s) = counted s := takeLoads_counted 12 s

theorem descend_counted (x : Sample) (s : State) : counted (descend x s) = counted s := by
  unfold descend
  split
  · dsimp only
    split
    · exact controlLaw_counted x s
    · exact controlLaw_counted x s
  · dsimp only
    split
    · exact enterDormant_counted _
    · exact takeLoads_counted _ _

theorem noteDuty_rest (s : State) : noteDuty s = { s with parts := (noteDuty s).parts } := by
  unfold noteDuty
  split <;> rfl

/-! ### Energy (R294) -/

/-- A partition's part of the energy goes to a step or an account. -/
theorem shareEnergy_rest (nj total : Nat) (s : State) (x : Nat × Nat) :
    shareEnergy nj total s x = { s with jobs := (shareEnergy nj total s x).jobs, accts := (shareEnergy nj total s x).accts } := by
  unfold shareEnergy
  dsimp only
  split <;> rfl

/-- Of the jobs only the energy of their steps differs. -/
def EnergyOnly (s t : State) : Prop := ∀ j, getJob t j = { getJob s j with run := { (getJob s j).run with energy := (getJob t j).run.energy } }

theorem EnergyOnly.trans {s t u : State} (h : EnergyOnly s t) (h' : EnergyOnly t u) : EnergyOnly s u := by
  intro j
  rw [h' j, h j]

theorem energyOnly_shareEnergy (nj total : Nat) (s : State) (x : Nat × Nat) : EnergyOnly s (shareEnergy nj total s x) := by
  intro k
  unfold shareEnergy
  dsimp only
  split
  · next j _ =>
    by_cases h : k = j
    · subst h
      rw [getJob_modRun_self]
    · rw [getJob_modRun_ne _ _ _ _ h]
  · rfl

theorem shareAll (nj total : Nat) (xs : List (Nat × Nat)) (s : State) :
    let t := xs.foldl (shareEnergy nj total) s
    t = { s with jobs := t.jobs, accts := t.accts } ∧ EnergyOnly s t := by
  induction xs generalizing s with
  | nil => exact ⟨rfl, fun _ => rfl⟩
  | cons x xs ih =>
    obtain ⟨rest, only⟩ := ih (shareEnergy nj total s x)
    refine ⟨?_, (energyOnly_shareEnergy nj total s x).trans only⟩
    rw [List.foldl_cons, rest, shareEnergy_rest]

/-- The Regulator's part of a sample's energy: whole nJ counted, the rest carried. -/
def energyTaken (x : Sample) (g : Rgl) : Rgl :=
  let all := (g.energyPj + x.cal) / 1000
  let balUw := if g.ballast then min x.cal (x.bfull * g.density / 64) else 0
  let bal := min all ((g.ballastPj + balUw) / 1000)
  { g with
    energy := g.energy + all, energyPj := (g.energyPj + x.cal) % 1000
    ballastE := g.ballastE + bal, ballastPj := g.ballastPj + balUw - 1000 * bal }

theorem chargeEnergy_rest (x : Sample) (s : State) :
    chargeEnergy x s = { s with rgl := energyTaken x s.rgl, jobs := (chargeEnergy x s).jobs, accts := (chargeEnergy x s).accts } ∧
      EnergyOnly s (chargeEnergy x s) := by
  obtain ⟨rest, only⟩ := shareAll ((s.rgl.energyPj + x.cal) / 1000 - min ((s.rgl.energyPj + x.cal) / 1000) ((s.rgl.ballastPj +
    if s.rgl.ballast then min x.cal (x.bfull * s.rgl.density / 64) else 0) / 1000))
    (sumNat ((((upFrom 0 8).map fun p => (p, x.busy.getD p 0)).filter fun y => y.2 != 0).map (·.2)))
    (((upFrom 0 8).map fun p => (p, x.busy.getD p 0)).filter fun y => y.2 != 0) { s with rgl := energyTaken x s.rgl }
  refine ⟨?_, only⟩
  exact congrArg (modAcct 0 _) rest

/-! ### The sample -/

/-- The state of a sample whose draw and energy are counted and whose p has begun. -/
def sampled (x : Sample) (s : State) : State := firstTarget x (chargeEnergy x (takeDraw x.cal (advanceTo (s.rgl.sampleAt + 1000) s)))

/-- What the sample has taken of the Regulator. -/
def rglTaken (x : Sample) (at_ : Nat) (g : Rgl) (fall : Nat) : Rgl :=
  { energyTaken x { g with sampleAt := at_, cal := x.cal, shedOver := g.shedOver + (if g.shedding then fall else 0) } with
    p := if g.p = 0 then x.cal else g.p }

theorem firstTarget_eq (x : Sample) (s : State) : firstTarget x s = { s with rgl.p := if s.rgl.p = 0 then x.cal else s.rgl.p } := by
  unfold firstTarget
  split <;> rfl

theorem sampled_rest (x : Sample) (s : State) :
    sampled x s = { advanceTo (s.rgl.sampleAt + 1000) s with
      rgl := rglTaken x (advanceTo (s.rgl.sampleAt + 1000) s).clk.fleet s.rgl (s.rgl.cal - x.cal - 100 * cfgVal s 0x0903)
      jobs := (sampled x s).jobs, accts := (sampled x s).accts } ∧ EnergyOnly s (sampled x s) := by
  obtain ⟨rest, only⟩ := chargeEnergy_rest x (takeDraw x.cal (advanceTo (s.rgl.sampleAt + 1000) s))
  have jobs : (advanceTo (s.rgl.sampleAt + 1000) s).jobs = s.jobs := by simp
  have rgl : (advanceTo (s.rgl.sampleAt + 1000) s).rgl = s.rgl := by simp
  have cfg (k : Nat) : cfgVal (advanceTo (s.rgl.sampleAt + 1000) s) k = cfgVal s k := by simp [cfgVal]
  constructor
  · rw [sampled, firstTarget_eq, rest]
    simp only [takeDraw, shedFall, slopeLimit, cfg, rgl]
    rfl
  · intro j
    have same : getJob (takeDraw x.cal (advanceTo (s.rgl.sampleAt + 1000) s)) j = getJob s j := congrArg (fun y : Table Job => tget ({} : Job) y j) jobs
    have first (t : State) : getJob (firstTarget x t) j = getJob t j := by
      rw [firstTarget_eq]
      rfl
    rw [sampled, first, only j, same]

/-- Settles O26: a shed and Holding leave what the sample took; the law moves p; the descent leaves what is counted. -/
theorem estimatorSamples : Obligations.EstimatorSamples := by
  intro x s p0 runs sound
  let u := sampled x s
  let v := if u.rgl.shedding || u.pwr.state == .holding then u else if u.pwr.entering then descend x u else controlLaw x u
  have given : Gives (.estimatorSample x) s (noteDuty v) := by
    refine gives_run _ _ (execEstimatorSample.eq_1 x s) ?_
    rw [onTable, if_neg (by simp [sound]), if_pos runs]
    rfl
  obtain ⟨rest, only⟩ := sampled_rest x s
  have counts : counted v = counted u := by
    show counted (ite _ _ _) = _
    split
    · rfl
    · split
      · exact descend_counted x u
      · exact controlLaw_counted x u
  have duty : noteDuty v = { v with parts := (noteDuty v).parts } := noteDuty_rest v
  have rgl : (noteDuty v).rgl = v.rgl := by rw [duty]
  simp only [counted, Prod.mk.injEq] at counts
  obtain ⟨mem, jobs, cal, energy, pj, fall⟩ := counts
  have taken : u.rgl = rglTaken x (advanceTo (s.rgl.sampleAt + 1000) s).clk.fleet s.rgl (s.rgl.cal - x.cal - 100 * cfgVal s 0x0903) := by
    rw [show u = _ from rest]
  have pwr : u.pwr = s.pwr := by
    rw [show u = _ from rest]
    exact advanceTo_pwr ..
  have cfg (k : Nat) : cfgVal u k = cfgVal s k := by
    rw [show u = _ from rest]
    exact congrArg (tget (fieldDefault k) · k) (advanceTo_cfg ..)
  have clk : u.clk = (advanceTo (s.rgl.sampleAt + 1000) s).clk := by
    rw [show u = _ from rest]
  have mem0 : u.mem = s.mem := by
    rw [show u = _ from rest]
    exact advanceTo_mem ..
  have shed : u.rgl.shedding = s.rgl.shedding := by rw [taken]; rfl
  have p : u.rgl.p = p0 := by rw [taken]; rfl
  have rgl' : ({ collect (noteDuty v) with pending := s.pending } : State).rgl = v.rgl := (collect_rgl _).trans rgl
  refine ⟨_, given, ?_, fun j => ?_, fun awake => ?_, ?_, fun inShed => ?_, ?_, fun still => ?_, fun out hold awake => ?_⟩
  · refine (collect_mem _).trans ?_
    rw [duty]
    exact mem.trans mem0
  · have same : getJob { collect (noteDuty v) with pending := s.pending } j = getJob u j := by
      refine congrArg (tget {} · j) ((collect_jobs _).trans ?_)
      rw [duty]
      exact jobs
    rw [same]
    exact only j
  · refine Nat.le_trans (le_clk_advanceTo (s.rgl.sampleAt + 1000) s) (Nat.le_of_eq ?_)
    rw [← clk]
    refine congrArg Clock.fleet (Eq.symm ((collect_clk _).trans ?_))
    rw [duty]
    show (ite _ _ _ : State).clk = _
    rw [pwr, awake]
    split
    · rfl
    · exact controlLaw_clk x u
  · rw [rgl', cal, taken]; rfl
  · rw [rgl', fall, taken]
    simp [rglTaken, energyTaken, inShed]
  · rw [rgl', energy, pj, taken]
    simp only [rglTaken, energyTaken]
    omega
  · have stays : v = u := if_pos (by rw [shed, pwr]; simpa using still)
    rw [rgl', stays, p]
    exact ⟨rfl, by rw [taken]; rfl⟩
  · have law : v = controlLaw x u := by
      refine (if_neg ?_).trans (if_neg ?_)
      · rw [shed, pwr]; simp [out, hold]
      · rw [pwr, awake]; exact Bool.false_ne_true
    rw [rgl', law]
    have limits := controlLaw_law x u
    rw [p, cfg, cfg] at limits
    exact limits

end Sys2Proof.Machine
end

section
/-! PROOFS. The passing of time as a change of the clock alone. -/

namespace Sys2Proof.Machine

/-- Fleet time brought up to an instant is one later clock, whatever else the state holds. -/
theorem advanceTo_clock (t : Nat) (s : State) : ∃ (c : Clock) (up : Nat), t ≤ c.fleet ∧ s.clk.fleet ≤ c.fleet ∧
    (s.clk.fleet ≤ t → c.fleet = t) ∧
    ∀ x : State, x.clk = s.clk → x.upNs = s.upNs → advanceTo t x = { x with clk := c, upNs := up } := by
  by_cases h : t ≤ s.clk.fleet
  · refine ⟨s.clk, s.upNs, h, Nat.le_refl _, fun h' => Nat.le_antisymm h' h, fun x hc hu => ?_⟩
    rw [advanceTo, hc, if_pos h, ← hc, ← hu]
  · refine ⟨{ s.clk with fleet := t, frac := 0 }, s.upNs + (t - s.clk.fleet), Nat.le_refl t, Nat.le_of_lt (Nat.lt_of_not_le h),
      fun _ => rfl, fun x hc hu => ?_⟩
    rw [advanceTo, hc, if_neg h, hu]

end Sys2Proof.Machine
end

section
/-! PROOFS. The Ramp Unit in time (R285, R287 to R290). -/

namespace Sys2Proof.Machine

/-- A pool without waiting requests serves none. -/
theorem servePool_idle (d : Dir) {s : State} (h : s.rgl.pool.queue = []) : servePool d s = s := by
  have still : { s.rgl.pool with queue := [] } = s.rgl.pool := by rw [← h]
  simp only [servePool, h, List.length_nil, grantQueue, tellQueued, List.map_nil, List.filter_nil, List.foldl_nil, still]

theorem windowNs_pos_ne {s : State} (h : 0 < windowNs s) : windowNs s ≠ 0 := Nat.pos_iff_ne_zero.1 h

/-- A handover announces itself: of the machine links and the net's tables change. -/
theorem sendsOnly_announceAll (s : State) : SendsOnly s (announceAll s) :=
  .foldl _ (fun _ _ => sendsOnly_sendU ..) _ _

section
variable {d : Dir} {s : State}

theorem gives_rampWindow (on : 0 < windowNs s) : Gives .rampWindow s { advanceTo (nextMultiple (windowNs s) s.clk.fleet) s with
    rgl.freeRise := freeAllowance s, rgl.freeDesc := freeAllowance s } := by
  obtain ⟨c, up, -, -, -, later⟩ := advanceTo_clock (nextMultiple (windowNs s) s.clk.fleet) s
  refine gives_runCtl _ _ (execRampWindow.eq_1 s) (if_neg (windowNs_pos_ne on)) ?_ ?_ <;> rw [later s rfl rfl]

theorem gives_leaseEnd_far {id : BitVec 12} {l : RampLease} (held : (s.rgl.leases.find? fun l => l.dir == d && l.id == id.toNat) = some l)
    (far : l.pool ≠ chipId s) : Gives (.leaseEnd d id) s
      (sendRamp l.pool 4 l.epoch d l.id l.watts { advanceTo l.due s with rgl.leases := s.rgl.leases.erase l }) := by
  obtain ⟨c, up, -, -, -, later⟩ := advanceTo_clock l.due s
  rw [later s rfl rfl]
  refine gives_runCtl _ _ (execLeaseEnd.eq_1 d id s) ?_ (creditsOnly_sendRamp ..).mem (creditsOnly_sendRamp ..).tps
  simp only [held, if_neg far, later]

theorem gives_leaseEnd_own {id : BitVec 12} {l : RampLease} {q : PoolLease}
    (held : (s.rgl.leases.find? fun l => l.dir == d && l.id == id.toNat) = some l) (own : l.pool = chipId s) (idle : s.rgl.pool.queue = [])
    (lent : (s.rgl.pool.leases.find? fun q => q.dir == d && q.chip == chipId s && q.id == l.id) = some q) : Gives (.leaseEnd d id) s
      { advanceTo l.due s with rgl.leases := s.rgl.leases.erase l, rgl.pool.leases := s.rgl.pool.leases.erase q } := by
  obtain ⟨c, up, -, -, -, later⟩ := advanceTo_clock l.due s
  rw [later s rfl rfl]
  refine gives_runCtl _ _ (execLeaseEnd.eq_1 d id s) ?_ rfl rfl
  simp only [held, if_pos own, later, returnLease, lent]
  exact servePool_idle _ idle

theorem gives_reclaim {chip id : BitVec 12} {q : PoolLease} (idle : s.rgl.pool.queue = [])
    (lent : (s.rgl.pool.leases.find? fun q => q.dir == d && q.chip == chip.toNat && q.id == id.toNat) = some q) :
    Gives (.reclaim d chip id) s (post 0x03 4 1 (leBytes 2 q.chip ++ leBytes 1 (dirNum d) ++ leBytes 4 q.watts)
      { advanceTo (q.due + 1000000000) s with
        rgl.reclaimed := s.rgl.reclaimed + q.watts, rgl.pool.leases := s.rgl.pool.leases.erase q }) := by
  obtain ⟨c, up, -, -, -, later⟩ := advanceTo_clock (q.due + 1000000000) s
  rw [later s rfl rfl]
  refine gives_runCtl _ _ (execReclaim.eq_1 d chip id s) ?_ rfl rfl
  simp only [lent, later]
  exact servePool_idle _ idle

theorem gives_requestResend {r : RampReq} (asked : reqOf s d = some r) (open_ : r.queued = false) (far : poolOf s ≠ chipId s) :
    let t := advanceTo (r.sentNs + 10000000) s
    Gives (.requestResend d) s (sendRamp (poolOf s) 1 s.rgl.epoch d r.id r.watts (setReq d (some { r with sentNs := t.clk.fleet }) t)) := by
  obtain ⟨c, up, -, -, -, later⟩ := advanceTo_clock (r.sentNs + 10000000) s
  have again (n : Nat) : ({ r with sentNs := n, queued := false } : RampReq) = { r with sentNs := n } := by rw [← open_]
  dsimp only
  rw [later s rfl rfl]
  refine gives_runCtl _ _ (execRequestResend.eq_1 d s) ?_ ((creditsOnly_setReq ..).trans (creditsOnly_sendRamp ..)).mem
    ((creditsOnly_setReq ..).trans (creditsOnly_sendRamp ..)).tps
  simp only [asked, open_, Bool.false_eq_true, if_false]
  rw [later s rfl rfl]
  simp only [sendRequest, again]
  exact if_neg far

theorem gives_beaconSend (pool : isPool s = true) (backup : cfgVal s 0x0A03 ≠ 0xFFF) : Gives .beaconSend s
    (sendRamp (cfgVal s 0x0A03) 7 s.rgl.epoch .rise 0 0 (advanceTo (nextMultiple 1000000 s.clk.fleet) s)) := by
  refine gives_runCtl _ _ (execBeaconSend.eq_1 s) (if_pos (by simp [pool, backup])) ?_ ?_
  · exact (creditsOnly_sendRamp ..).mem.trans (advanceTo_mem ..)
  · exact (creditsOnly_sendRamp ..).tps.trans (advanceTo_tps ..)

theorem gives_poolFreezeEnd (active : s.rgl.pool.active = true) (frozen : s.rgl.pool.frozen = true) (idle : s.rgl.pool.queue = []) :
    Gives .poolFreezeEnd s (post 0x03 5 0 (leBytes 2 s.rgl.epoch ++ leBytes 2 s.rgl.pool.reported.length ++ leBytes 4 s.rgl.pool.reportW)
      { advanceTo s.rgl.pool.freezeEnd s with rgl.pool.frozen := false }) := by
  obtain ⟨c, up, -, -, -, later⟩ := advanceTo_clock s.rgl.pool.freezeEnd s
  rw [later s rfl rfl]
  refine gives_runCtl _ _ (execPoolFreezeEnd.eq_1 s) ((if_pos (by simp [active, frozen])).trans ?_) rfl rfl
  simp only [later]
  refine (congrArg (servePool .descent) (servePool_idle .rise ?_)).trans (servePool_idle .descent ?_) <;> exact idle

/-- What an answer shows of sending: the clock and the Regulator's own changes, links and the net's tables. -/
theorem answer_sends {s u v : State} {up : Nat} {c : Clock} {g : Rgl} {q : List Ev}
    (hv : v = { s with upNs := up, clk := c, rgl := g, ev.queue := q }) (sent : SendsOnly v u) :
    let s' : State := { collect u with pending := s.pending }
    s'.clk = c ∧ s'.rgl = g ∧ s' = { reported s s' with upNs := s'.upNs, clk := s'.clk, links := s'.links, net := s'.net, rgl := s'.rgl } := by
  intro s'
  have own : s' = { reported u s' with pending := s.pending } := answer_reported s.pending u
  have clk : s'.clk = c := (collect_clk u).trans ((sent.keeps (·.clk) fun _ _ _ _ => rfl).trans (by rw [hv]))
  have rgl : s'.rgl = g := (collect_rgl u).trans ((sent.keeps (·.rgl) fun _ _ _ _ => rfl).trans (by rw [hv]))
  have up' : s'.upNs = up := (collect_upNs u).trans ((sent.keeps (·.upNs) fun _ _ _ _ => rfl).trans (by rw [hv]))
  have links : s'.links = u.links := collect_links u
  have net : s'.net = u.net := collect_net u
  clear_value s'
  subst hv
  refine ⟨clk, rgl, ?_⟩
  rw [SendsOnly] at sent
  rw [clk, rgl, up', links, net]
  exact own.trans (congrArg (fun y : State => { reported y s' with pending := s.pending }) sent)

/-- The backup's takeover: a new epoch and a freeze, announced (R289). -/
theorem backupTakeover_answer (member : inDomain s = true) (backup : cfgVal s 0x0A03 = chipId s) (notPool : isPool s = false)
    (on : s.pwr.handedOver = true) : ∃ s', exec .backupTakeover s = .next s' ∧ s.rgl.beaconAt + 16000000 ≤ s'.clk.fleet ∧
      s'.rgl = { s.rgl with epoch := (s.rgl.epoch + 1) % 2 ^ 16, poolChip := some (chipId s),
                            pool := { active := true, frozen := true, queue := s.rgl.pool.queue
                                      freezeEnd := s'.clk.fleet + windowNs s + 1000000000 } } ∧
      s' = { reported s s' with upNs := s'.upNs, clk := s'.clk, links := s'.links, net := s'.net, rgl := s'.rgl } := by
  obtain ⟨c, up, due, -, -, later⟩ := advanceTo_clock (s.rgl.beaconAt + 16000000) s
  let v : State := { post 0x03 7 1 (pl2 (poolOf s) ++ pl2 ((s.rgl.epoch + 1) % 65536)) { s with clk := c, upNs := up } with
    rgl := { s.rgl with
      epoch := (s.rgl.epoch + 1) % 65536, poolChip := some (chipId s)
      pool := { active := true, frozen := true, freezeEnd := c.fleet + windowNs s + 1000000000, queue := s.rgl.pool.queue } } }
  have sent : SendsOnly v (announceAll v) := sendsOnly_announceAll v
  have given : Gives .backupTakeover s (announceAll v) := by
    refine gives_runCtl _ _ (execBackupTakeover.eq_1 s) ((if_pos (by simp [member, backup, notPool, on])).trans ?_) sent.mem sent.tps
    rw [later s rfl rfl]
    rfl
  obtain ⟨clk, rgl, rest⟩ := answer_sends (s := s) rfl sent
  refine ⟨_, given, ?_, ?_, rest⟩
  · rw [clk]
    exact due
  · rw [clk]
    exact rgl

end

/-- Settles O28, timer by timer. -/
theorem rampTimers : Obligations.RampTimers := by
  intro d id chip s
  refine ⟨fun on => ?_, fun l held => ⟨gives_leaseEnd_far held, fun q own idle lent => gives_leaseEnd_own held own idle lent⟩,
    fun q => gives_reclaim, fun r => gives_requestResend, gives_beaconSend, backupTakeover_answer, gives_poolFreezeEnd⟩
  have watts : freeAllowance s = 1000000 * cfgVal s 0x0A07 := Nat.mul_comm ..
  have given := gives_rampWindow on
  rw [watts] at given
  exact given

end Sys2Proof.Machine
end

section
/-! PROOFS. What the receiver leaves (R172, R174, R178): a frame that is taken changes links, the net's tables, the restore's state and
postings; one that a link accepts is handed on. -/

namespace Sys2Proof.Machine

/-- Of the machine only links, the net's tables and the restore's state have changed, and postings have been made. -/
def TakesOnly (s t : State) : Prop := t = { s with links := t.links, net := t.net, ev.queue := t.ev.queue, flt.remap := t.flt.remap }

theorem TakesOnly.refl (s : State) : TakesOnly s s := rfl

theorem TakesOnly.trans {s t u : State} (h : TakesOnly s t) (h' : TakesOnly t u) : TakesOnly s u := by
  rw [TakesOnly] at *
  rw [h', h]

theorem SendsOnly.takes {s t : State} (h : SendsOnly s t) : TakesOnly s t := by
  rw [SendsOnly] at h
  rw [h]; rfl

theorem LinksOnly.takes {s t : State} (h : LinksOnly s t) : TakesOnly s t := h.sends.takes

theorem TakesOnly.ite {c : Prop} [Decidable c] {s t u : State} (ht : TakesOnly s t) (hu : TakesOnly s u) :
    TakesOnly s (if c then t else u) := by
  split
  · exact ht
  · exact hu

theorem TakesOnly.keeps {s t : State} (h : TakesOnly s t) {α : Type} (g : State → α)
    (hg : ∀ (x : State) l n q r, g { x with links := l, net := n, ev.queue := q, flt.remap := r } = g x) : g t = g s := by
  rw [TakesOnly] at h
  rw [h, hg]

theorem TakesOnly.mem {s t : State} (h : TakesOnly s t) : t.mem = s.mem := h.keeps _ fun _ _ _ _ _ => rfl
theorem TakesOnly.tps {s t : State} (h : TakesOnly s t) : t.tps = s.tps := h.keeps _ fun _ _ _ _ _ => rfl
theorem TakesOnly.jobs {s t : State} (h : TakesOnly s t) : t.jobs = s.jobs := h.keeps _ fun _ _ _ _ _ => rfl
theorem TakesOnly.clk {s t : State} (h : TakesOnly s t) : t.clk = s.clk := h.keeps _ fun _ _ _ _ _ => rfl
theorem TakesOnly.cfg {s t : State} (h : TakesOnly s t) : t.cfg = s.cfg := h.keeps _ fun _ _ _ _ _ => rfl
theorem TakesOnly.rgl {s t : State} (h : TakesOnly s t) : t.rgl = s.rgl := h.keeps _ fun _ _ _ _ _ => rfl
theorem TakesOnly.esc {s t : State} (h : TakesOnly s t) : t.esc = s.esc := h.keeps _ fun _ _ _ _ _ => rfl
theorem TakesOnly.cfgVal {s t : State} (h : TakesOnly s t) (k : Nat) : Machine.cfgVal t k = Machine.cfgVal s k :=
  h.keeps (Machine.cfgVal · k) fun _ _ _ _ _ => rfl

/-! ### Acknowledgement and credits -/

theorem takesOnly_checkRemap (s : State) : TakesOnly s (checkRemap s) := by
  unfold checkRemap
  dsimp only
  split
  · exact .trans (t := post 0x10 0x16 0 (pl2 s.flt.remap.peer ++ pl8 s.flt.remap.bytes) { s with flt.remap.state := 2 }) rfl
      (sendsOnly_sendU ..).takes
  · exact .refl s

theorem takesOnly_takeAck (n ack : Nat) (s : State) : TakesOnly s (takeAck n ack s) :=
  (linksOnly_modLink ..).takes.trans (takesOnly_checkRemap _)

theorem linksOnly_trailerCredits (n : Nat) (f : Frame) (s : State) : LinksOnly s (trailerCredits n f s) := by
  unfold trailerCredits
  dsimp only
  split_ifs
  · exact linksOnly_modLink ..
  · exact linksOnly_modLink ..
  · exact linksOnly_modLink ..
  · exact .refl s

theorem takesOnly_acceptSeq (n : Nat) (f : Frame) (s : State) : TakesOnly s (acceptSeq n f s) :=
  ((linksOnly_modLink ..).takes.trans (takesOnly_takeAck ..)).trans (linksOnly_trailerCredits ..).takes

theorem linksOnly_countSymbols (n k : Nat) (s : State) : LinksOnly s (countSymbols n k s) := linksOnly_modLink ..

/-- What the link's own part of an accepted frame changes. -/
theorem takesOnly_taken (l : Fin 8) (f : Frame) (s : State) : TakesOnly s (taken l f s) :=
  ((linksOnly_countSymbols ..).takes.trans (takesOnly_acceptSeq ..)).trans (linksOnly_oweCredits ..).takes

/-! ### Delivery -/

/-- A frame that a link accepts is delivered after the link's own part. -/
theorem receive_accepted {s : State} {l : Fin 8} {f : Frame} {k : Nat} (d : State → State) (h : Accepts s l f k) :
    receive l f k d s = d (taken l f s) := by
  obtain ⟨up, seq, form, kind, here, fresh⟩ := h
  have part : TakesOnly s (acceptSeq l.val f (countSymbols l.val f.corrected s)) :=
    (linksOnly_countSymbols ..).takes.trans (takesOnly_acceptSeq ..)
  have stamp : beatStamp (acceptSeq l.val f (countSymbols l.val f.corrected s)) = beatStamp s := by rw [beatStamp, part.clk]; rfl
  rw [receive]
  simp only [up, bne_self_eq_false, Bool.false_eq_true, if_false, seq, if_true, form, kind, Bool.not_true, Bool.or_self, here]
  rw [deliver]
  simp only [stamp]
  by_cases u : f.cls = 0
  · obtain ⟨first, young⟩ := fresh u
    have notStale : (decide (1000 < (beatStamp s + 2 ^ 32 - f.stamp.toNat) % 2 ^ 32) &&
        decide ((beatStamp s + 2 ^ 32 - f.stamp.toNat) % 2 ^ 32 < 2 ^ 31)) = false := by
      rw [Bool.and_eq_false_iff, decide_eq_false_iff_not, decide_eq_false_iff_not]
      omega
    rw [if_neg (by simp [u]), if_neg (Bool.eq_false_iff.1 notStale), if_pos (by simp [first])]
    rfl
  · rw [if_pos (bne_iff_ne.2 u)]
    rfl

/-- What a command over the receiver gives where the link accepts its frame. -/
theorem gives_received {i : Instr} {l : Fin 8} {f : Frame} {k : Nat} {d : State → State} {s u : State} (h : Accepts s l f k)
    (hi : exec i s = runCtl (receive l f k d) s) (hu : d (taken l f s) = u) (mem : u.mem = s.mem) (tps : u.tps = s.tps) : Gives i s u :=
  gives_runCtl _ _ hi ((receive_accepted d h).trans hu) mem tps

end Sys2Proof.Machine
end

section
/-! PROOFS. Ramp messages (R285 to R289). -/

namespace Sys2Proof.Machine

/-! ### What a message does -/

/-- A ramp message that is not stale acts, of an epoch that is the chip's. -/
theorem rampIn_acts {op : Nat} {f : Frame} {act : Nat → Dir → Nat → Nat → State → State} {t : State} (hop : bits f.arg.toNat 44 4 = op)
    (dom : bits f.arg.toNat 32 8 = cfgVal t 0x0A01) (ep : bits f.arg.toNat 48 16 = t.rgl.epoch) :
    rampIn op f act t = act t.rgl.epoch (dirOf (bits f.arg.toNat 43 1)) (bits f.arg.toNat 20 12) (bits f.arg.toNat 0 20) t := by
  have same : newer 16 t.rgl.epoch t.rgl.epoch = false := by
    simp only [newer, Bool.and_eq_false_iff, decide_eq_false_iff_not]
    omega
  simp [rampIn, hop, dom, ep, same, hearEpoch]

/-- An epoch cannot be older than one that it is newer than. -/
theorem newer_asymm {a b : Nat} (h : newer 16 a b = true) (ha : a < 2 ^ 16) : newer 16 b a = false := by
  simp only [newer, Bool.and_eq_true, decide_eq_true_eq, Bool.and_eq_false_iff, decide_eq_false_iff_not] at *
  omega

theorem rampIn_stale {op : Nat} {f : Frame} {act : Nat → Dir → Nat → Nat → State → State} {t : State} (hop : bits f.arg.toNat 44 4 = op)
    (old : bits f.arg.toNat 32 8 ≠ cfgVal t 0x0A01 ∨ newer 16 t.rgl.epoch (bits f.arg.toNat 48 16) = true) :
    rampIn op f act t = { t with rgl.stale := t.rgl.stale + 1 } := by
  have old' : (bits f.arg.toNat 32 8 != cfgVal t 0x0A01 || newer 16 t.rgl.epoch (bits f.arg.toNat 48 16)) = true := by simpa using old
  simp [rampIn, hop, old']

/-- Each ramp message is received and then acts by its operation. -/
theorem exec_ramp {i : Instr} {l : Fin 8} {fr : Frame} {op : Nat} (h : rampForm i = some (l, fr, op)) :
    ∃ act, ∀ s, exec i s = runCtl (receive l fr 0x13 (rampIn op fr act)) s := by
  cases i <;> simp only [rampForm, Option.some.injEq, Prod.mk.injEq, reduceCtorEq] at h <;>
    (obtain ⟨rfl, rfl, rfl⟩ := h; exact ⟨_, fun _ => rfl⟩)

/-! ### The pool -/

section
variable {d : Dir} {src id watts : Nat} {t : State} (pool : isPool t = true) (idle : t.rgl.pool.queue = []) (far : src ≠ chipId t)
include pool idle far

/-- A request that the pool can meet in full is granted (R287). -/
theorem joinQueue_grants (thawed : t.rgl.pool.frozen = false) (fits : min watts (poolSize t d) ≤ available t d) :
    joinQueue d src id watts t = sendRamp src 2 t.rgl.epoch d id (min watts (poolSize t d)) { t with
      rgl.pool.leases := t.rgl.pool.leases ++ [⟨d, src, id, min watts (poolSize t d), t.clk.fleet / 1000 * 1000 + windowNs t⟩] } := by
  let q : PoolReq := { dir := d, chip := src, id := id, watts := watts, told := false }
  let v : State := { t with rgl.pool.queue := [q] }
  have granting : (poolGrants v && decide (min q.watts (poolSize v d) ≤ available v d)) = true := by
    rw [Bool.and_eq_true, decide_eq_true_eq]
    refine ⟨?_, fits⟩
    show (isPool t && !t.rgl.pool.frozen) = true
    rw [pool, thawed]; rfl
  have joined : joinQueue d src id watts t = servePool d v := by
    rw [joinQueue, if_neg (by simp [pool, idle])]
    simp only [idle, List.nil_append]
    rfl
  have found : v.rgl.pool.queue.find? (fun q => q.dir == d) = some q := by simp [v, q]
  have first : grantQueue v.rgl.pool.queue.length d v = grantOne q (min q.watts (poolSize v d)) v := by
    show grantQueue 1 d v = _
    rw [grantQueue, found]
    dsimp only
    rw [if_pos granting, grantQueue]
  have one : grantOne q (min q.watts (poolSize v d)) v = sendRamp src 2 t.rgl.epoch d id (min watts (poolSize t d)) { t with
      rgl.pool.leases := t.rgl.pool.leases ++ [⟨d, src, id, min watts (poolSize t d), t.clk.fleet / 1000 * 1000 + windowNs t⟩] } := by
    rw [grantOne]
    dsimp only
    refine (if_neg far).trans ?_
    have none_ : [q].erase q = t.rgl.pool.queue := by rw [idle, List.erase_cons_head]
    simp only [v, none_]
    rfl
  rw [joined, servePool, first, one]
  have queue : (sendRamp src 2 t.rgl.epoch d id (min watts (poolSize t d)) { t with rgl.pool.leases := t.rgl.pool.leases ++
      [⟨d, src, id, min watts (poolSize t d), t.clk.fleet / 1000 * 1000 + windowNs t⟩] }).rgl.pool.queue = [] :=
    ((sendsOnly_sendU ..).keeps (fun y => y.rgl.pool.queue) fun _ _ _ _ => rfl).trans idle
  have still := servePool_idle d queue
  rw [servePool, queue] at still
  exact still

/-- Another one is held, and answered QUEUED (R287). -/
theorem joinQueue_holds (short : t.rgl.pool.frozen = true ∨ available t d < min watts (poolSize t d)) :
    joinQueue d src id watts t = sendRamp src 3 t.rgl.epoch d id watts { t with rgl.pool.queue := [⟨d, src, id, watts, true⟩] } := by
  let q : PoolReq := { dir := d, chip := src, id := id, watts := watts, told := false }
  let v : State := { t with rgl.pool.queue := [q] }
  have refusing : ¬(poolGrants v && decide (min q.watts (poolSize v d) ≤ available v d)) = true := by
    rw [Bool.and_eq_true, decide_eq_true_eq]
    rintro ⟨grants, fits⟩
    rcases short with frozen | short
    · have thawed : (isPool t && !t.rgl.pool.frozen) = true := grants
      rw [frozen] at thawed
      simp at thawed
    · exact absurd fits (Nat.not_le.2 short)
  have joined : joinQueue d src id watts t = servePool d v := by
    rw [joinQueue, if_neg (by simp [pool, idle])]
    simp only [idle, List.nil_append]
    rfl
  have found : v.rgl.pool.queue.find? (fun q => q.dir == d) = some q := by simp [v, q]
  have held : grantQueue v.rgl.pool.queue.length d v = v := by
    show grantQueue 1 d v = _
    rw [grantQueue, found]
    dsimp only
    rw [if_neg refusing]
  rw [joined, servePool, held]
  exact if_neg far

end

/-- A lease that the chip does not hold yet is a new one (R285). -/
theorem lease_absent {d : Dir} {id : Nat} {ls : List RampLease} (new : ∀ x ∈ ls, x.dir = d → x.id ≠ id) :
    ¬(ls.any fun l => l.dir == d && l.id == id) = true := by
  rw [List.any_eq_true]
  rintro ⟨x, hx, same⟩
  rw [Bool.and_eq_true, beq_iff_eq, beq_iff_eq] at same
  exact new x hx same.1 same.2

/-- A newer ANNOUNCE is answered by two REPORTs; its chip is the pool from then on, and the chip is frozen (R289). -/
theorem takeAnnounce_newer {src e at_ : Nat} {t : State} (h : newer 16 e t.rgl.epoch = true) :
    let again := fun r : RampReq => { r with queued := false }
    takeAnnounce src e at_ t = sendRamp src 6 e .descent 0 (heldWatts t .descent) (sendRamp src 6 e .rise 0 (heldWatts t .rise)
      { t with rgl.epoch := e, rgl.poolChip := some src, rgl.freezeUntil := at_ + windowNs t + 1000000000
               rgl.reqRise := t.rgl.reqRise.map again, rgl.reqDesc := t.rgl.reqDesc.map again }) := by
  intro again
  exact if_pos h

theorem takeLease_local (d : Dir) (id watts g pool epoch : Nat) (t : State) :
    (takeLease d id watts g pool epoch t).mem = t.mem ∧ (takeLease d id watts g pool epoch t).tps = t.tps :=
  ⟨(creditsOnly_takeLease ..).mem, (creditsOnly_takeLease ..).tps⟩


/-- Settles O29, message by message. -/
theorem rampMessages : Obligations.RampMessages := by
  refine ⟨fun i l fr op s form acc hop old => ?_, ?_⟩
  · obtain ⟨act, he⟩ := exec_ramp form
    have part := takesOnly_taken l fr s
    rw [← part.rgl, ← part.cfgVal] at old
    refine gives_received acc (he s) ?_ part.mem part.tps
    rw [rampIn_stale hop old, ← part.rgl]
  intro l fr s a src d id w g t now acc dom
  have part : TakesOnly s t := takesOnly_taken l fr s
  have recv {i : Instr} {op : Nat} {act : Nat → Dir → Nat → Nat → State → State} {u : State}
      (hi : exec i s = runCtl (receive l fr 0x13 (rampIn op fr act)) s) (hu : rampIn op fr act t = u) (loc : u.mem = t.mem ∧ u.tps = t.tps) :
      Gives i s u := gives_received acc hi hu (loc.1.trans part.mem) (loc.2.trans part.tps)
  have size : poolSize t d = poolSize s d := part.keeps (poolSize · d) fun _ _ _ _ _ => rfl
  have left : available t d = available s d := part.keeps (available · d) fun _ _ _ _ _ => rfl
  have span : windowNs t = windowNs s := part.keeps windowNs fun _ _ _ _ _ => rfl
  have stamp : stampNs t fr.stamp.toNat = stampNs s fr.stamp.toNat := part.keeps (stampNs · fr.stamp.toNat) fun _ _ _ _ _ => rfl
  have asked : reqOf t d = reqOf s d := part.keeps (reqOf · d) fun _ _ _ _ _ => rfl
  have own : isPool t = isPool s := part.keeps isPool fun _ _ _ _ _ => rfl
  have held (x : Dir) : heldWatts t x = heldWatts s x := part.keeps (heldWatts · x) fun _ _ _ _ _ => rfl
  have chip : chipId t = chipId s := part.cfgVal _
  have now_ : now = t.clk.fleet / 1000 * 1000 := by rw [part.clk]
  have w_ : w = min (bits a 0 20) (poolSize t d) := by rw [size]
  have g_ : g = t.rgl := part.rgl.symm
  replace dom : bits fr.arg.toNat 32 8 = cfgVal t 0x0A01 := dom.trans (part.cfgVal _).symm
  simp only [← left, ← span, ← stamp, ← asked, ← own, ← chip, ← held, ← part.clk]
  clear_value t w g now
  subst w_ g_ now_
  refine ⟨fun ep => ⟨fun hop pool thawed idle far fits => ?_, fun hop pool idle far short => ?_, fun hop notPool => ?_, fun hop new => ?_,
    fun r hop req mine => ?_, fun q hop idle lent => ?_, fun hop active frozen => ?_, fun hop => ?_⟩, fun hop later idle => ?_⟩
  · exact recv (execRequest.eq_1 l fr s) ((rampIn_acts hop dom ep).trans (joinQueue_grants pool idle far thawed fits))
      ⟨(creditsOnly_sendRamp ..).mem, (creditsOnly_sendRamp ..).tps⟩
  · exact recv (execRequest.eq_1 l fr s) ((rampIn_acts hop dom ep).trans (joinQueue_holds pool idle far short))
      ⟨(creditsOnly_sendRamp ..).mem, (creditsOnly_sendRamp ..).tps⟩
  · exact recv (execRequest.eq_1 l fr s) ((rampIn_acts hop dom ep).trans (if_pos (by simp [notPool]))) ⟨rfl, rfl⟩
  · have loc := takeLease_local d id (bits a 0 20) (stampNs t fr.stamp.toNat) src t.rgl.epoch t
    rw [takeLease, if_neg (lease_absent new)] at loc
    exact recv (execGrant.eq_1 l fr s) ((rampIn_acts hop dom ep).trans (if_neg (lease_absent new))) loc
  · refine recv (execQueued.eq_1 l fr s) ((rampIn_acts hop dom ep).trans ?_) ⟨(creditsOnly_setReq ..).mem, (creditsOnly_setReq ..).tps⟩
    simp only [show reqOf t (dirOf (bits fr.arg.toNat 43 1)) = some r from req]
    exact if_pos mine
  · refine recv (execReturnCredits.eq_1 l fr s) ((rampIn_acts hop dom ep).trans ?_) ⟨rfl, rfl⟩
    rw [returnLease, show (t.rgl.pool.leases.find? _) = _ from lent]
    exact servePool_idle _ idle
  · refine recv (execReport.eq_1 l fr s) ((rampIn_acts hop dom ep).trans ?_) ⟨rfl, rfl⟩
    refine (if_pos (by simp [active, frozen])).trans ?_
    simp only [List.contains_iff_mem]
    rfl
  · exact recv (execBeacon.eq_1 l fr s) ((rampIn_acts hop dom ep).trans rfl) ⟨rfl, rfl⟩
  · have old : newer 16 t.rgl.epoch (bits fr.arg.toNat 48 16) = false := newer_asymm later (by unfold bits; omega)
    have hear : hearEpoch (bits fr.arg.toNat 48 16) t = t := if_neg (by simp [idle])
    refine recv (execAnnounce.eq_1 l fr s) ?_ ⟨((creditsOnly_sendRamp ..).trans (creditsOnly_sendRamp ..)).mem,
      ((creditsOnly_sendRamp ..).trans (creditsOnly_sendRamp ..)).tps⟩
    rw [rampIn, hop]
    simp only [bne_self_eq_false, Bool.false_eq_true, if_false, dom, old, Bool.or_self, hear]
    exact takeAnnounce_newer later

end Sys2Proof.Machine
end

section
/-! PROOFS. Time exchanges (R303, R304, R307). -/

namespace Sys2Proof.Machine

/-- Of the machine only the discipline of fleet time has changed: the clock, and of the Escapement nothing of its links; postings have
been made. -/
def SteersOnly (s t : State) : Prop := t = { s with
  clk := t.clk, ev.queue := t.ev.queue
  esc := { t.esc with pending := s.esc.pending, delays := s.esc.delays, offset := s.esc.offset, delay := s.esc.delay } }

theorem SteersOnly.trans {s t u : State} (h : SteersOnly s t) (h' : SteersOnly t u) : SteersOnly s u := by
  rw [SteersOnly] at *
  rw [h', h]

theorem SteersOnly.after {s t u : State} (h : SteersOnly t u) (h' : SteersOnly s t) : SteersOnly s u := h'.trans h

theorem SteersOnly.ite {c : Prop} [Decidable c] {s t u : State} (ht : SteersOnly s t) (hu : SteersOnly s u) :
    SteersOnly s (if c then t else u) := by
  split
  · exact ht
  · exact hu

theorem SteersOnly.keeps {s t : State} (h : SteersOnly s t) {α : Type} (g : State → α)
    (hg : ∀ (x : State) c q (e : Esc), g { x with clk := c, ev.queue := q, esc := { e with
      pending := x.esc.pending, delays := x.esc.delays, offset := x.esc.offset, delay := x.esc.delay } } = g x) : g t = g s := by
  rw [SteersOnly] at h
  rw [h, hg]

theorem steersOnly_setEsc (x : EscState) (s : State) : SteersOnly s (setEsc x s) := .ite rfl rfl

theorem steersOnly_lockNow (s : State) : SteersOnly s (lockNow s) :=
  .ite ((steersOnly_setEsc .locked s).trans rfl) (steersOnly_setEsc .locked s)

theorem steersOnly_parentResult (o : Int) (s : State) : SteersOnly s (parentResult o s) := by
  unfold parentResult
  dsimp only
  cases s.esc.state with
  | free => exact rfl
  | acquire => exact .ite (.ite rfl rfl) (.ite ((steersOnly_lockNow _).after rfl) rfl)
  | locked => exact .ite ((steersOnly_setEsc ..).after rfl) rfl
  | holdover => exact .ite ((steersOnly_setEsc ..).after rfl) rfl

/-! ### A response -/

/-- A result joins the delays of its link. -/
def noteDelay (n : Nat) (d : Int) (t : State) : State :=
  let old := tget [] t.esc.delays n
  { t with esc.delays := tput t.esc.delays n ((if 16 ≤ old.length then old.drop 1 else old) ++ [d]) }

/-- A result that is used becomes its link's offset and delay. -/
def useResult (n : Nat) (o d : Int) (t : State) : State :=
  { t with esc := { t.esc with offset := tput t.esc.offset n (some o), delay := tput t.esc.delay n d } }

section
variable {n : Nat} {o d : Int} {t : State}

/-- A result that waited in a queue is not used (R304). -/
theorem takeResult_queued (h : ∃ y ∈ tget [] t.esc.delays n, y + 20 < d) : takeResult n o d t = noteDelay n d t :=
  if_pos (by simpa [queuedResult] using h)

/-- Another one is the link's, and steers where the link leads to the parent (R304, R307). -/
theorem takeResult_used (h : ∀ y ∈ tget [] t.esc.delays n, d ≤ y + 20) : takeResult n o d t =
    if t.esc.parent = some n then parentResult o (useResult n o d (noteDelay n d t)) else useResult n o d (noteDelay n d t) :=
  if_neg (by simpa [queuedResult] using h)

theorem steersOnly_takeResult_used (h : ∀ y ∈ tget [] t.esc.delays n, d ≤ y + 20) :
    SteersOnly (useResult n o d (noteDelay n d t)) (takeResult n o d t) := by
  rw [takeResult_used h]
  exact .ite (steersOnly_parentResult ..) rfl

/-- Of the exchange's own tables a result changes those of its link. -/
theorem takeResult_keeps : (takeResult n o d t).mem = t.mem ∧ (takeResult n o d t).tps = t.tps ∧ (takeResult n o d t).jobs = t.jobs ∧
    (takeResult n o d t).esc.pending = t.esc.pending ∧ (takeResult n o d t).esc.delays = (noteDelay n d t).esc.delays := by
  by_cases h : ∃ y ∈ tget [] t.esc.delays n, y + 20 < d
  · rw [takeResult_queued h]
    exact ⟨rfl, rfl, rfl, rfl, rfl⟩
  · have part := steersOnly_takeResult_used (t := t) (n := n) (o := o) (d := d) (by simpa using h)
    exact ⟨part.keeps (·.mem) fun _ _ _ _ => rfl, part.keeps (·.tps) fun _ _ _ _ => rfl, part.keeps (·.jobs) fun _ _ _ _ => rfl,
      part.keeps (·.esc.pending) fun _ _ _ _ => rfl, part.keeps (·.esc.delays) fun _ _ _ _ => rfl⟩

/-- In Locked one result over 10 µs after none is noted, and no more (R307). -/
theorem parentResult_locked (locked : t.esc.state = .locked) (none_ : t.esc.big = 0) : parentResult o t = { t with esc := { t.esc with
    lastUse := t.clk.fleet, parentOff := some (1000 * o), big := if o < -10000 ∨ 10000 < o then 1 else 0 } } := by
  have few : ¬16 ≤ if farOff o then 0 + 1 else 0 := by split <;> decide
  simp only [parentResult, locked, none_, if_neg few]
  simp [farOff]

/-- The 16th result within 10 ns locks a chip that is not the root (R307). -/
theorem parentResult_locks (acquiring : t.esc.state = .acquire) (stepped : t.esc.stepped = true) (good : 15 ≤ t.esc.good)
    (follower : isRoot t = false) (low : -10 ≤ o) (high : o ≤ 10) : (parentResult o t).clk = t.clk ∧
      (parentResult o t).esc.state = .locked ∧ (parentResult o t).esc.parent = t.esc.parent := by
  have near : closeBy o = true := by simp [closeBy, low, high]
  have full : 16 ≤ t.esc.good + 1 := by omega
  let v : State := { t with esc := { t.esc with lastUse := t.clk.fleet, parentOff := some (1000 * o), good := t.esc.good + 1 } }
  have locks : parentResult o t = setEsc .locked v := by
    have follows : isRoot v = false := follower
    unfold parentResult
    dsimp only
    split
    case h_2 =>
      rw [if_neg (by simp [stepped]), if_pos near, if_pos full]
      exact if_neg (Bool.eq_false_iff.1 follows)
    all_goals next h => simp [acquiring] at h
  have other : v.esc.state ≠ .locked := by rw [show v.esc.state = .acquire from acquiring]; decide
  rw [locks, setEsc, if_neg other]
  exact ⟨rfl, rfl, rfl⟩

end

/-! ### The exchange -/

theorem escPoll_started {s : State} (h : s.esc.state ≠ .free) : escPoll s = s := if_pos (by simp [h])

theorem exchangeArg_request (id now : Nat) : exchangeArg 0 0 id now = id % 256 * 2 ^ 32 + now % 2 ^ 32 := by simp [exchangeArg]

theorem exchangeArg_response (a delta : Nat) : exchangeArg 1 0 (bits a 32 8) (delta % 2 ^ 32) =
    2 ^ 61 + bits a 32 8 * 2 ^ 32 + delta % 2 ^ 32 := by
  have low : bits a 32 8 % 256 = bits a 32 8 := Nat.mod_eq_of_lt (bits_lt a 32 8)
  rw [exchangeArg, Nat.mod_mod, low, Nat.one_mul, Nat.zero_mod, Nat.zero_mul, Nat.add_zero]

section
variable {l : Fin 8} {fr : Frame} {since : Nat} {id : BitVec 8} {s : State}

theorem gives_timeExchangeStart (started : s.esc.state ≠ .free) (up : (getLink s l.val).state = .up) (role : (getLink s l.val).role ≠ 0) :
    Gives (.timeExchangeStart l) s (sendUOn l.val 0x12 (s.esc.nextEx % 256 * 2 ^ 32 + s.clk.fleet % 2 ^ 32) { s with
      esc.nextEx := (s.esc.nextEx + 1) % 256
      esc.pending := tput s.esc.pending l.val (tget [] s.esc.pending l.val ++ [(s.esc.nextEx, s.clk.fleet)]) }) := by
  refine gives_runCtl _ _ (execTimeExchangeStart.eq_1 l s) ?_ rfl rfl
  simp only [escPoll_started started, exchangeArg_request]
  exact if_pos (by simp [linkUp, up, role])

theorem gives_timeExchangeStart_idle (started : s.esc.state ≠ .free)
    (down : (getLink s l.val).state ≠ .up ∨ (getLink s l.val).role = 0) : Gives (.timeExchangeStart l) s s := by
  refine gives_runCtl _ _ (execTimeExchangeStart.eq_1 l s) ?_ rfl rfl
  simp only [escPoll_started started]
  refine if_neg ?_
  rcases down with down | down <;> simp [linkUp, down]

theorem gives_timeExchangeRequest (acc : Accepts s l fr 0x12) (op : bits fr.arg.toNat 61 3 = 0) (fresh : bitAt fr.arg.toNat 60 = false) :
    Gives (.timeExchangeRequest l fr since) s (answerOn l.val 0x12 (2 ^ 61 + bits fr.arg.toNat 32 8 * 2 ^ 32 +
      (s.clk.fleet - since + 2 ^ 32 - bits fr.arg.toNat 0 32) % 2 ^ 32) (s.clk.fleet - since) (taken l fr s)) := by
  have part := takesOnly_taken l fr s
  rw [← exchangeArg_response, ← part.clk]
  exact gives_received acc (execTimeExchangeRequest.eq_1 l fr since s) (if_neg (by simp [op, fresh])) part.mem part.tps

theorem gives_timeExchange_replayed (acc : Accepts s l fr 0x12) (again : bitAt fr.arg.toNat 60 = true) :
    Gives (.timeExchangeRequest l fr since) s (taken l fr s) ∧ Gives (.timeExchangeResponse l ⟨fr, since⟩) s (taken l fr s) := by
  have part := takesOnly_taken l fr s
  exact ⟨gives_received acc (execTimeExchangeRequest.eq_1 l fr since s) (if_pos (by simp [again])) part.mem part.tps,
    gives_received acc (execTimeExchangeResponse.eq_1 l ⟨fr, since⟩ s) (if_pos (by simp [again])) part.mem part.tps⟩

theorem gives_timeExchangeAbandon {x : Nat × Nat} (sent : (tget [] s.esc.pending l.val).find? (fun x => x.1 == id.toNat) = some x) :
    Gives (.timeExchangeAbandon l id) s { advanceTo (x.2 + 2000000) s with
      esc.pending := tput s.esc.pending l.val ((tget [] s.esc.pending l.val).erase x) } := by
  obtain ⟨c, up, -, -, -, later⟩ := advanceTo_clock (x.2 + 2000000) s
  rw [later s rfl rfl]
  refine gives_runCtl _ _ (execTimeExchangeAbandon.eq_1 l id s) ?_ rfl rfl
  simp only [sent, later]
  rfl

end

/-- Settles O30: requests, replays and what is given up frame by frame; a response through what its result does. -/
theorem timeExchanges : Obligations.TimeExchanges := by
  refine ⟨fun l fr since id s => ⟨gives_timeExchangeStart, gives_timeExchangeStart_idle, gives_timeExchangeRequest,
    gives_timeExchange_replayed, fun x => gives_timeExchangeAbandon⟩, ?_⟩
  intro l fr since s x n a fwd bwd o delay old acc op fresh sent
  have part := takesOnly_taken l fr s
  let v : State := { taken l fr s with esc.pending := tmod [] (taken l fr s).esc.pending n (fun xs => xs.erase x) }
  have esc : v.esc = { s.esc with pending := tmod [] s.esc.pending n (fun xs => xs.erase x) } := by rw [← part.esc]
  have clk : v.clk = s.clk := part.clk
  have root : isRoot v = isRoot s := part.keeps isRoot fun _ _ _ _ _ => rfl
  have mem : v.mem = s.mem := part.mem
  have tps : v.tps = s.tps := part.tps
  have jobs : v.jobs = s.jobs := part.jobs
  have given : Gives (.timeExchangeResponse l ⟨fr, since⟩) s (takeResult n o delay v) := by
    refine gives_received acc (execTimeExchangeResponse.eq_1 l ⟨fr, since⟩ s) ?_ (takeResult_keeps.1.trans mem)
      (takeResult_keeps.2.1.trans tps)
    have sent' : (tget [] (taken l fr s).esc.pending l.val).find? (fun x => x.1 == bits fr.arg.toNat 32 8) = some x := by
      rw [part.esc]; exact sent
    have op' : bits fr.arg.toNat 61 3 = 1 := op
    have fresh' : bitAt fr.arg.toNat 60 = false := fresh
    refine (if_neg (by simp [op', fresh'])).trans ?_
    simp only [sent', v, n, o, delay, fwd, bwd, a, part.clk]
  clear_value v
  obtain ⟨kMem, -, kJobs, kPending, kDelays⟩ := takeResult_keeps (n := n) (o := o) (d := delay) (t := v)
  have old_ : tget [] v.esc.delays n = old := by rw [esc]
  refine ⟨_, given, ?_, ?_, ?_, ?_, fun near => ?_, fun late => ?_, fun near parent locked none_ => ?_,
    fun near parent acquiring stepped good follower low high => ?_⟩
  · simp [kMem, mem]
  · simp [kJobs, jobs]
  · simp [kPending, esc]
  · simp only [collect_esc, kDelays, noteDelay, tget_tput_self, old_]
  · have used := steersOnly_takeResult_used (t := v) (n := n) (o := o) (d := delay) (by rwa [old_])
    have offset := used.keeps (·.esc.offset) fun _ _ _ _ => rfl
    have delay_ := used.keeps (·.esc.delay) fun _ _ _ _ => rfl
    simp [offset, delay_, useResult]
  · simp [takeResult_queued (t := v) (n := n) (o := o) (d := delay) (by rwa [old_]), noteDelay, esc, clk]
  · have steers : takeResult n o delay v = parentResult o (useResult n o delay (noteDelay n delay v)) :=
      (takeResult_used (by rwa [old_])).trans (if_pos (by rwa [esc]))
    rw [steers, parentResult_locked (by rwa [useResult, noteDelay, esc]) (by rwa [useResult, noteDelay, esc])]
    simp [useResult, noteDelay, esc, clk, locked]
  · have steers : takeResult n o delay v = parentResult o (useResult n o delay (noteDelay n delay v)) :=
      (takeResult_used (by rwa [old_])).trans (if_pos (by rwa [esc]))
    have vesc := parentResult_locks (o := o) (t := useResult n o delay (noteDelay n delay v)) (by rwa [useResult, noteDelay, esc])
      (by rwa [useResult, noteDelay, esc]) (by rwa [useResult, noteDelay, esc]) (root.trans follower) low high
    obtain ⟨sameClk, locked, sameParent⟩ := vesc
    rw [steers, collect_clk, collect_esc, sameClk, locked, sameParent]
    exact ⟨clk, rfl, by rwa [useResult, noteDelay, esc]⟩

end Sys2Proof.Machine
end

section
/-! PROOFS. The Escapement in time, and beat_in (R299, R307, R310, R311, R318). -/

namespace Sys2Proof.Machine

/-! ### Answers -/

/-- What an answer shows of a change of the clock, the Escapement and the package alone. -/
theorem answer_esc {s u : State} {up : Nat} {c : Clock} {e : Esc} {w : Power} {q : List Ev}
    (hu : u = { s with upNs := up, clk := c, esc := e, pwr := w, ev.queue := q }) :
    let s' : State := { collect u with pending := s.pending }
    s'.upNs = up ∧ s'.clk = c ∧ s'.esc = e ∧ s'.pwr = w ∧
      s' = { reported s s' with upNs := s'.upNs, clk := s'.clk, esc := s'.esc, pwr := s'.pwr } := by
  intro s'
  have own : s' = { reported u s' with pending := s.pending } := answer_reported s.pending u
  have up' : s'.upNs = up := (collect_upNs u).trans (by rw [hu])
  have clk : s'.clk = c := (collect_clk u).trans (by rw [hu])
  have esc : s'.esc = e := (collect_esc u).trans (by rw [hu])
  have pwr : s'.pwr = w := (collect_pwr u).trans (by rw [hu])
  clear_value s'
  subst hu
  refine ⟨up', clk, esc, pwr, ?_⟩
  rw [up', clk, esc, pwr]
  exact own

/-- A length of time that passes moves the clock, and the time since por_n with it. -/
theorem passNs_clock (d : Nat) (s : State) : ∃ (c : Clock) (up : Nat), s.upNs + d ≤ up ∧ passNs d s = { s with clk := c, upNs := up } := by
  by_cases h : s.clk.fleet + d ≤ s.clk.fleet
  · refine ⟨s.clk, s.upNs, by omega, ?_⟩
    rw [passNs, advanceTo, if_pos h]
  · refine ⟨{ s.clk with fleet := s.clk.fleet + d, frac := 0 }, s.upNs + (s.clk.fleet + d - s.clk.fleet), by omega, ?_⟩
    rw [passNs, advanceTo, if_neg h]

section
variable {s : State}

/-- In Dormant an act of the ESC domain does nothing (R299). -/
theorem gives_onEsc_dormant {i : Instr} (f : State → State) (hi : exec i s = runCtl (onEsc f) s) (dormant : s.pwr.state = .dormant) :
    Gives i s s :=
  gives_runCtl _ _ hi (if_pos (by simp [dormant])) rfl rfl

/-- An act of the ESC domain elsewhere. -/
theorem gives_onEsc {i : Instr} {u : State} (f : State → State) (hi : exec i s = runCtl (onEsc f) s) (awake : s.pwr.state ≠ .dormant)
    (hu : f s = u) (mem : u.mem = s.mem) (tps : u.tps = s.tps) : Gives i s u :=
  gives_runCtl _ _ hi ((if_neg (by simp [awake])).trans hu) mem tps

/-! ### The rate (R307, R311) -/

theorem gives_rateUpdate {u : State} (awake : s.pwr.state ≠ .dormant) (sound : s.ecc.badTables = []) (f : State → State)
    (hf : execRateUpdate s = run (onEsc (onTable 5 f)) s) (hu : f s = u) : Gives .rateUpdate s u :=
  gives_run _ _ hf (by rw [onEsc, if_neg (by simp [awake]), onTable, if_neg (by simp [sound]), hu])

theorem gives_rateUpdate_steers {o : Int} (awake : s.pwr.state ≠ .dormant) (sound : s.ecc.badTables = [])
    (steering : s.esc.state = .locked ∨ (s.esc.state = .acquire ∧ s.esc.stepped = true)) (off : s.esc.parentOff = some o) :
    Gives .rateUpdate s { advanceTo ((s.clk.fleet / 1000000 + 1) * 1000000) s with
      clk.ratePpb := max (-100000) (min 100000 (o / 8)), esc.parentOff := some (o - max (-100000) (min 100000 (o / 8))) } := by
  obtain ⟨c, up, -, -, -, later⟩ := advanceTo_clock (nextMultiple 1000000 s.clk.fleet) s
  refine gives_rateUpdate awake sound _ (execRateUpdate.eq_1 s) ?_
  rw [← nextMultiple, later s rfl rfl]
  split
  · next o' _ off' =>
    rw [Option.some.inj (off'.symm.trans off)]
    rfl
  · next o' acquiring off' =>
    have stepped : s.esc.stepped = true := by simpa [acquiring] using steering
    rw [if_pos stepped, Option.some.inj (off'.symm.trans off)]
    rfl
  · next notLocked notAcquire =>
    exact absurd off (steering.elim (fun h => notLocked o h) fun h => notAcquire o h.1)

theorem gives_rateUpdate_still (awake : s.pwr.state ≠ .dormant) (sound : s.ecc.badTables = [])
    (idle : s.esc.parentOff = none ∨ s.esc.state = .free ∨ s.esc.state = .holdover ∨ (s.esc.state = .acquire ∧ s.esc.stepped = false)) :
    Gives .rateUpdate s (advanceTo ((s.clk.fleet / 1000000 + 1) * 1000000) s) := by
  obtain ⟨c, up, -, -, -, later⟩ := advanceTo_clock (nextMultiple 1000000 s.clk.fleet) s
  refine gives_rateUpdate awake sound _ (execRateUpdate.eq_1 s) ?_
  rw [← nextMultiple, later s rfl rfl]
  rcases idle with none_ | free | holding | ⟨acquiring, unstepped⟩
  · simp only [none_]
    cases s.esc.state <;> rfl
  · simp only [free]
  · simp only [holding]
  · simp only [acquiring, unstepped]
    cases s.esc.parentOff <;> rfl

/-! ### Holdover, the parent, the root (R307, R310) -/

theorem gives_holdoverEntry {n : Nat} (awake : s.pwr.state ≠ .dormant) (locked : s.esc.state = .locked) (parent : s.esc.parent = some n) :
    let t := advanceTo (s.esc.lastUse + 16000000) s
    Gives .holdoverEntry s (post 0x02 1 0 (leBytes 1 2 ++ leBytes 1 3 ++ leBytes 2 (getLink s n).partner) { t with
      esc.state := .holdover, esc.results := [], esc.good := 0, esc.big := 0, esc.holdAt := t.clk.fleet, esc.root := false
      esc.holdovers := s.esc.holdovers + 1 }) := by
  obtain ⟨c, up, -, -, -, later⟩ := advanceTo_clock (s.esc.lastUse + 16000000) s
  dsimp only
  rw [later s rfl rfl]
  have other : ¬({ s with clk := c, upNs := up } : State).esc.state = .holdover := by
    rw [show ({ s with clk := c, upNs := up } : State).esc.state = .locked from locked]
    decide
  refine gives_onEsc _ (execHoldoverEntry.eq_1 s) awake ((if_pos (by simp [locked, parent])).trans ?_) rfl rfl
  rw [later s rfl rfl, setEsc, if_neg other]
  simp only [parentChip, parent, locked]
  rfl

theorem parentChange_answer {n : Nat} (awake : s.pwr.state ≠ .dormant) (holding : s.esc.state = .holdover) (next : chooseAgain s = some n)
    (new : s.esc.parent ≠ some n) : ∃ s', exec .parentChange s = .next s' ∧ max s.esc.holdAt s.esc.lastUse + 16000000 ≤ s'.clk.fleet ∧
      s'.esc = { s.esc with parent := some n, good := 0, parentOff := none } ∧
      s' = { reported s s' with upNs := s'.upNs, clk := s'.clk, esc := s'.esc } := by
  obtain ⟨c, up, due, -, -, later⟩ := advanceTo_clock (max s.esc.holdAt s.esc.lastUse + 16000000) s
  let u : State := post 0x02 4 0 (plOpt 2 (parentChip s) ++ pl2 (getLink s n).partner ++ pl1 1)
    { s with clk := c, upNs := up, esc := { s.esc with parent := some n, good := 0, parentOff := none } }
  have given : Gives .parentChange s u := by
    refine gives_onEsc _ (execParentChange.eq_1 s) awake ((if_neg (by simp [holding])).trans ?_) rfl rfl
    simp only [next, if_neg new, later]
    rfl
  obtain ⟨-, clk, esc, pwr, rest⟩ := answer_esc (s := s) (u := u) rfl
  refine ⟨_, given, ?_, esc, ?_⟩
  · rwa [clk]
  · rwa [pwr] at rest

theorem gives_parentChange_still (awake : s.pwr.state ≠ .dormant) (holding : s.esc.state = .holdover)
    (same : chooseAgain s = none ∨ chooseAgain s = s.esc.parent) :
    Gives .parentChange s (advanceTo (max s.esc.holdAt s.esc.lastUse + 16000000) s) := by
  refine gives_onEsc _ (execParentChange.eq_1 s) awake ((if_neg (by simp [holding])).trans ?_) (advanceTo_mem ..) (advanceTo_tps ..)
  rcases same with none_ | same
  · simp only [none_]
  · cases parent : chooseAgain s with
    | none => rfl
    | some n => exact if_pos (same.symm.trans parent)

theorem rootFreeTimeout_answer (awake : s.pwr.state ≠ .dormant) (root : isRoot s = true) (free : s.esc.state = .free)
    (handed : s.pwr.handedOver = true) (going : s.pwr.state ≠ .holding) :
    ∃ s', exec .rootFreeTimeout s = .next s' ∧ s.esc.freeAt + 3000000000 ≤ s'.clk.fleet ∧
      s'.esc = { s.esc with state := .locked, results := [], good := 0, big := 0, root := true } ∧
      s' = { reported s s' with upNs := s'.upNs, clk := s'.clk, esc := s'.esc } := by
  obtain ⟨c, up, due, -, -, later⟩ := advanceTo_clock (s.esc.freeAt + 3000000000) s
  let u : State := post 0x02 1 0 (pl1 (escNum s.esc.state) ++ pl1 (escNum .locked) ++ plOpt 2 (parentChip s))
    { s with clk := c, upNs := up, esc := { s.esc with state := .locked, results := [], good := 0, big := 0, root := true } }
  have given : Gives .rootFreeTimeout s u := by
    refine gives_onEsc _ (execRootFreeTimeout.eq_1 s) awake ((if_pos (by simp [root, free, handed, going])).trans ?_) rfl rfl
    have other : ¬({ s with clk := c, upNs := up } : State).esc.state = .locked := by
      rw [show ({ s with clk := c, upNs := up } : State).esc.state = .free from free]
      decide
    have root' : isRoot ({ s with clk := c, upNs := up } : State) = true := root
    rw [later s rfl rfl, setEsc, if_neg other, root']
    rfl
  obtain ⟨-, clk, esc, pwr, rest⟩ := answer_esc (s := s) (u := u) rfl
  refine ⟨_, given, ?_, esc, ?_⟩
  · rwa [clk]
  · rwa [pwr] at rest

theorem lockTimeout_answer {due : Nat} (lock : s.pwr.lockDue = some due) (starting : s.pwr.state = .starting)
    (seeking : s.esc.state ≠ .locked) (first : s.pwr.lockPassed = false) :
    ∃ s', exec .lockTimeout s = .next s' ∧ due ≤ s'.upNs ∧ s'.pwr = { s.pwr with lockPassed := true } ∧
      s' = { reported s s' with upNs := s'.upNs, clk := s'.clk, pwr := s'.pwr } := by
  obtain ⟨c, up, long, passed⟩ := passNs_clock (due - s.upNs) s
  let u : State := post 0x02 5 1 (pl1 (escNum s.esc.state) ++ plOpt 2 (parentChip s))
    { s with clk := c, upNs := up, pwr := { s.pwr with lockPassed := true } }
  have given : Gives .lockTimeout s u := by
    refine gives_runCtl _ _ (execLockTimeout.eq_1 s) ?_ rfl rfl
    simp only [lock]
    refine (if_pos (by simp [starting, seeking, first])).trans ?_
    rw [passed]
  obtain ⟨ups, -, esc, pwr, rest⟩ := answer_esc (s := s) (u := u) rfl
  refine ⟨_, given, ?_, pwr, ?_⟩
  · exact (show due ≤ up by omega).trans_eq ups.symm
  · rwa [esc] at rest

/-! ### beat_in (R311) -/

theorem beatInLost_answer (awake : s.pwr.state ≠ .dormant) (root : isRoot s = true) (on : cfgVal s 0x0B02 ≠ 0) (first : s.esc.lost = false) :
    ∃ s', exec .beatInLost s = .next s' ∧ s.esc.lastValid.getD s.esc.freeAt + 3000000000 ≤ s'.clk.fleet ∧
      s'.esc = { s.esc with lost := true, edge := none, edgeValid := false, parentOff := none } ∧
      s' = { reported s s' with upNs := s'.upNs, clk := s'.clk, esc := s'.esc } := by
  obtain ⟨c, up, due, -, -, later⟩ := advanceTo_clock (s.esc.lastValid.getD s.esc.freeAt + 3000000000) s
  let u : State := post 0x02 3 1 (plOpt 8 s.esc.lastValid)
    { s with clk := c, upNs := up, esc := { s.esc with lost := true, edge := none, edgeValid := false, parentOff := none } }
  have given : Gives .beatInLost s u := by
    refine gives_onEsc _ (execBeatInLost.eq_1 s) awake ((if_neg (by simp [root, on, first])).trans ?_) rfl rfl
    rw [later s rfl rfl]
  obtain ⟨-, clk, esc, pwr, rest⟩ := answer_esc (s := s) (u := u) rfl
  refine ⟨_, given, ?_, esc, ?_⟩
  · rwa [clk]
  · rwa [pwr] at rest

theorem gives_beatInEdge_stamped (awake : s.pwr.state ≠ .dormant) (other : isRoot s = false ∨ cfgVal s 0x0B02 = 0) :
    Gives .beatInEdge s { s with esc.edgeOff := edgeOffset s.clk.fleet } :=
  gives_onEsc _ (execBeatInEdge.eq_1 s) awake (if_pos (by simpa using other)) rfl rfl

section
variable (awake : s.pwr.state ≠ .dormant) (root : isRoot s = true) (on : cfgVal s 0x0B02 ≠ 0)
include awake root on

/-- What an edge at the root gives, by the edge before it. -/
theorem gives_beatInEdge_root {u : State} (mem : u.mem = s.mem) (tps : u.tps = s.tps)
    (hu : (match s.esc.edge with
      | none => { s with esc.edgeOff := edgeOffset s.clk.fleet, esc.edge := some s.clk.fleet }
      | some p => if edgeFits p s.clk.fleet then validEdge s else { s with
          esc.edgeOff := edgeOffset s.clk.fleet, esc.edge := some s.clk.fleet, esc.edgeValid := false
          esc.invalid := s.esc.invalid + 1 }) = u) : Gives .beatInEdge s u :=
  gives_onEsc _ (execBeatInEdge.eq_1 s) awake ((if_neg (by simp [root, on])).trans hu) mem tps

theorem gives_beatInEdge_valid {p : Nat} (edge : s.esc.edge = some p)
    (fits : p + 999900000 ≤ s.clk.fleet ∧ s.clk.fleet ≤ p + 1000100000) (mem : (validEdge s).mem = s.mem) (tps : (validEdge s).tps = s.tps) :
    Gives .beatInEdge s (validEdge s) := by
  refine gives_beatInEdge_root awake root on mem tps ?_
  simp only [edge]
  exact if_pos (by simpa [edgeFits] using fits)

theorem gives_beatInEdge_invalid {p : Nat} (edge : s.esc.edge = some p)
    (off : ¬(p + 999900000 ≤ s.clk.fleet ∧ s.clk.fleet ≤ p + 1000100000)) : Gives .beatInEdge s { s with
      esc.edgeOff := edgeOffset s.clk.fleet, esc.edge := some s.clk.fleet, esc.edgeValid := false, esc.invalid := s.esc.invalid + 1 } := by
  refine gives_beatInEdge_root awake root on rfl rfl ?_
  simp only [edge]
  exact if_neg (by simpa [edgeFits] using off)

/-- A valid edge in Free aligns fleet time and locks the chip. -/
theorem beatInEdge_aligns {p : Nat} (edge : s.esc.edge = some p) (fits : p + 999900000 ≤ s.clk.fleet ∧ s.clk.fleet ≤ p + 1000100000)
    (free : s.esc.state = .free) : ∃ s', exec .beatInEdge s = .next s' ∧ s'.esc.state = .locked ∧ s'.esc.edgeValid = true ∧
      s'.clk.fleet % 1000000000 = 0 ∧ s.clk.fleet < s'.clk.fleet ∧ s'.clk.fleet ≤ s.clk.fleet + 1000000000 := by
  let m := nextMultiple 1000000000 s.clk.fleet
  let v : State := { s with
    clk := { s.clk with fleet := m, frac := 0 }
    esc := { s.esc with edge := some m, edgeOff := 0, edgeValid := true, lastValid := some m, lost := false } }
  have other : ¬v.esc.state = .locked := by
    rw [show v.esc.state = .free from free]
    decide
  have aligns : validEdge s = setEsc .locked v := if_pos (by simp [free])
  have part := steersOnly_setEsc .locked v
  have locked : (setEsc .locked v).esc.state = .locked ∧ (setEsc .locked v).esc.edgeValid = true ∧ (setEsc .locked v).clk.fleet = m := by
    rw [setEsc, if_neg other]
    exact ⟨rfl, rfl, rfl⟩
  have given := gives_beatInEdge_valid awake root on edge fits (by rw [aligns]; exact part.keeps (·.mem) fun _ _ _ _ => rfl)
    (by rw [aligns]; exact part.keeps (·.tps) fun _ _ _ _ => rfl)
  rw [aligns] at given
  obtain ⟨state, valid, fleet⟩ := locked
  refine ⟨_, given, by simp [state], by simp [valid], ?_, ?_, ?_⟩ <;> simp only [collect_clk, fleet, m, nextMultiple] <;> omega

end

end

/-- Settles O31, timer by timer and edge by edge. -/
theorem escapementTimersAndEdges : Obligations.EscapementTimersAndEdges := by
  refine ⟨fun s => ⟨fun dormant => ⟨?_, gives_onEsc_dormant _ (execHoldoverEntry.eq_1 s) dormant,
    gives_onEsc_dormant _ (execParentChange.eq_1 s) dormant, gives_onEsc_dormant _ (execRootFreeTimeout.eq_1 s) dormant,
    gives_onEsc_dormant _ (execBeatInLost.eq_1 s) dormant⟩, fun due => lockTimeout_answer, fun awake =>
    ⟨fun o => gives_rateUpdate_steers awake, gives_rateUpdate_still awake, fun n => gives_holdoverEntry awake,
      fun n => parentChange_answer awake, gives_parentChange_still awake, rootFreeTimeout_answer awake, beatInLost_answer awake⟩⟩,
    fun s => ⟨gives_onEsc_dormant _ (execBeatInEdge.eq_1 s), fun awake => ⟨gives_beatInEdge_stamped awake, fun root on first => ?_,
      fun p root on edge => ⟨gives_beatInEdge_invalid awake root on edge, beatInEdge_aligns awake root on edge,
        fun fits steering orphan => ?_⟩⟩⟩⟩
  · exact gives_run _ _ (execRateUpdate.eq_1 s) (if_pos (by simp [dormant]))
  · refine gives_beatInEdge_root awake root on rfl rfl ?_
    simp only [first]
  · have given := gives_beatInEdge_valid awake root on edge fits
    have steers : validEdge s = { s with esc.edgeOff := edgeOffset s.clk.fleet, esc.edge := some s.clk.fleet, esc.edgeValid := true
                                         esc.lastValid := some s.clk.fleet, esc.lost := false
                                         esc.parentOff := some (1000 * edgeOffset s.clk.fleet) } := by
      refine (if_neg (by simp [steering])).trans ?_
      simp only [orphan]
      rfl
    rw [steers] at given
    exact given rfl rfl

end Sys2Proof.Machine
end

section
/-! PROOFS. What a link does with a frame (R172, R174, R178 to R180, R189). -/

namespace Sys2Proof.Machine

/-! ### The frame commands -/

/-- Where the tables are sound, the table that routes transit frames is read as it is. -/
theorem routed_sound {l : Fin 8} {f : Frame} {k : Nat} {d : State → State} {s : State} (sound : s.ecc.badTables = []) :
    routed l f k d s = receive l f k d s := by
  unfold routed
  split
  · exact if_neg (by simp [sound])
  · rfl

/-- A command over the receiver, of either answer, gives what the link does with the frame. -/
def Receives (i : Instr) (l : Fin 8) (f : Frame) (k : Nat) (s : State) : Prop :=
  ∃ d, ∀ u, receive l f k d s = u → u.mem = s.mem → u.tps = s.tps → Gives i s u

theorem receives_ctl {i : Instr} {l : Fin 8} {f : Frame} {k : Nat} {d : State → State} {s : State}
    (h : exec i s = runCtl (receive l f k d) s) : Receives i l f k s := ⟨d, fun _ hu mem tps => gives_runCtl _ _ h hu mem tps⟩

theorem receives_routed {i : Instr} {l : Fin 8} {f : Frame} {k : Nat} {d : State → State} {s : State} (sound : s.ecc.badTables = [])
    (h : exec i s = run (routed l f k d) s) : Receives i l f k s :=
  ⟨d, fun _ hu _ _ => gives_run _ _ h ((routed_sound sound).trans hu)⟩

theorem receives_frameForm {i : Instr} {l : Fin 8} {fr : Frame} {k : Nat} {s : State} (sound : s.ecc.badTables = [])
    (h : frameForm i = some (l, fr, k)) : Receives i l fr k s := by
  cases i <;> simp only [frameForm, Option.some.injEq, Prod.mk.injEq, reduceCtorEq] at h <;> obtain ⟨rfl, rfl, rfl⟩ := h
  case collectiveData | remoteWrite | remoteReadRequest | remoteReadResponse | remoteRefusal | heartbeat | fenceNotice | bulkCopy => exact receives_routed sound rfl
  all_goals exact receives_ctl rfl

/-! ### An accepted frame at its link -/

/-- The credits that a frame's trailer returns, added (R170). -/
def creditLink (f : Frame) (l : Link) : Link :=
  { l with
    crU := if f.creditClass = 0 then l.crU + f.creditUnits.toNat else l.crU
    crS := if f.creditClass = 1 then l.crS + f.creditUnits.toNat else l.crS
    crB := if f.creditClass = 2 then l.crB + f.creditUnits.toNat else l.crB }

/-- A link as an expected frame leaves it, where no restore waits for an acknowledgement (R174, R178). -/
def acceptLink (f : Frame) (now : Nat) (l : Link) : Link :=
  creditLink f (acked now f.ackSeq.toNat { l with
    rxSeq := (l.rxSeq + 1) % 65536, ackOwed := true, gap := false, corrSym := l.corrSym + f.corrected
    rxU := if f.cls = 0 then l.rxU + frameBytes f else l.rxU
    rxS := if f.cls = 1 then l.rxS + frameBytes f else l.rxS
    rxB := if f.cls = 2 then l.rxB + frameBytes f else l.rxB
    inU := if f.cls = 0 then l.inU + frameCredits f else l.inU
    inS := if f.cls = 1 then l.inS + frameCredits f else l.inS
    inB := if f.cls = 2 then l.inB + frameCredits f else l.inB })

theorem twoBits_cases (c : BitVec 2) : c = 0 ∨ c = 1 ∨ c = 2 ∨ c = 3 := by
  revert c
  decide

theorem trailerCredits_modLink (n : Nat) (f : Frame) (g : Link → Link) (s : State) :
    trailerCredits n f (modLink n g s) = modLink n (fun l => creditLink f (g l)) s := by
  rcases twoBits_cases f.creditClass with h | h | h | h <;> simp [trailerCredits, h, addCredits, creditLink]

theorem acceptSeq_eq {n : Nat} {f : Frame} {s : State} (idle : s.flt.remap.source = false) :
    acceptSeq n f (countSymbols n f.corrected s) = modLink n (acceptLink f s.clk.fleet) s := by
  rw [acceptSeq, takeAck_eq _ _ (by exact idle)]
  simp only [countSymbols, modLink_modLink, trailerCredits_modLink]
  rfl

/-- What the link's own part of an expected frame does to the link. -/
theorem acceptLink_counts (f : Frame) (now : Nat) (x : Link) :
    let z := acceptLink f now x
    z.rxSeq = (x.rxSeq + 1) % 65536 ∧ z.ackOwed = true ∧ z.gap = false ∧ (∀ g ∈ z.unacked, g ∈ x.unacked) ∧
    z.crU + z.crS + z.crB = x.crU + x.crS + x.crB + (if f.creditClass = 3 then 0 else f.creditUnits.toNat) ∧
    z.inU + z.inS + z.inB = x.inU + x.inS + x.inB + (if f.cls = 3 then 0 else frameCredits f) ∧
    z.rxU + z.rxS + z.rxB = x.rxU + x.rxS + x.rxB + (if f.cls = 3 then 0 else frameBytes f) := by
  refine ⟨rfl, rfl, rfl, fun g hg => (List.dropWhile_suffix _).subset hg, ?_, ?_, ?_⟩
  · rcases twoBits_cases f.creditClass with h | h | h | h <;> simp [acceptLink, creditLink, acked, h] <;> omega
  · rcases twoBits_cases f.cls with h | h | h | h <;> simp [acceptLink, creditLink, acked, h] <;> omega
  · rcases twoBits_cases f.cls with h | h | h | h <;> simp [acceptLink, creditLink, acked, h] <;> omega

theorem linksOnly_sendVia (rt : Table Nat) (f : Frame) (s : State) : LinksOnly s (sendVia rt f s) := by
  unfold sendVia
  split
  · exact linksOnly_enqueue ..
  · exact (linksOnly_modLink ..).trans (linksOnly_post ..)

theorem LinksOnly.net {s t : State} (h : LinksOnly s t) : t.net = s.net := congrArg (·.net) h

theorem checkRemap_net (s : State) : (checkRemap s).net = { s.net with useq := (checkRemap s).net.useq } := by
  unfold checkRemap
  dsimp only
  split
  · rw [show (sendU ..).net = _ from (linksOnly_sendVia ..).net]
    rfl
  · rfl

/-- Of the net's tables an expected frame changes at most the numbers of class U. -/
theorem acceptSeq_net (n : Nat) (f : Frame) (s : State) : (acceptSeq n f s).net = { s.net with useq := (acceptSeq n f s).net.useq } := by
  rw [show (acceptSeq n f s).net = _ from (linksOnly_trailerCredits ..).net]
  exact checkRemap_net _

theorem taken_net (l : Fin 8) (f : Frame) (s : State) : (taken l f s).net = { s.net with useq := (taken l f s).net.useq } :=
  acceptSeq_net ..

/-! ### What a link does with a frame -/

section
variable {l : Fin 8} {f : Frame} {k : Nat} {d : State → State} {s : State}

theorem receive_down (down : (getLink s l.val).state ≠ .up) : receive l f k d s = s := if_pos (by simpa using down)

/-- A link as a frame ahead of its turn leaves it: a gap is one link error, however many frames follow (R178, R181). -/
def gapLink (f : Frame) (now : Nat) (l : Link) : Link :=
  owesNak now { l with gap := true, corrSym := l.corrSym + f.corrected, errs := l.errs + if l.gap then 0 else 1 }

theorem oweNak_openGap (n : Nat) (f : Frame) (s : State) :
    oweNak n (openGap n (countSymbols n f.corrected s)) = modLink n (gapLink f s.clk.fleet) s := by
  have opened : openGap n (countSymbols n f.corrected s) = modLink n (fun l => { l with gap := true }) (modLink n (fun l =>
      { l with corrSym := l.corrSym + f.corrected, errs := l.errs + if l.gap then 0 else 1 }) s) := by
    rw [openGap, countSymbols, getLink_modLink_self, linkError, modLink_modLink, modLink_modLink, modLink_modLink]
    split
    · next h =>
      refine modLink_congr ?_
      dsimp only at h ⊢
      rw [if_pos h, Nat.add_zero, ← h]
    · next h =>
      refine modLink_congr ?_
      dsimp only at h ⊢
      rw [if_neg h]
  rw [opened]
  refine (discardOn_eq n _).trans ?_
  rw [modLink_modLink]
  rfl

theorem owesNak_eq (now : Nat) (y : Link) : ∃ b t, owesNak now y = { y with nakOwed := b, nakAt := t } := by
  by_cases h : (match y.nakAt with | none => true | some t => decide (t + 2000 ≤ now)) = true
  · exact ⟨_, _, if_pos h⟩
  · exact ⟨y.nakOwed, y.nakAt, if_neg h⟩

theorem gapLink_eq (f : Frame) (now : Nat) (x : Link) : ∃ b t, gapLink f now x = { x with
    gap := true, corrSym := x.corrSym + f.corrected, errs := x.errs + (if x.gap then 0 else 1), nakOwed := b, nakAt := t } :=
  owesNak_eq ..

theorem gapLink_asks {f : Frame} {now : Nat} {x : Link} (first : x.nakAt = none) :
    (gapLink f now x).nakOwed = true ∧ (gapLink f now x).nakAt = some now := by
  have asks : gapLink f now x = _ := if_pos (by simp only [first])
  rw [asks]
  exact ⟨rfl, rfl⟩

/-- A frame ahead of its turn opens a gap (R178). -/
theorem receive_ahead (up : (getLink s l.val).state = .up) (other : f.seq.toNat ≠ (getLink s l.val).rxSeq)
    (ahead : newer 16 f.seq.toNat (getLink s l.val).rxSeq = true) :
    receive l f k d s = modLink l.val (gapLink f s.clk.fleet) s := by
  rw [receive]
  simp only [up, bne_self_eq_false, Bool.false_eq_true, if_false, if_neg other, if_pos ahead, oweNak_openGap]

/-- A frame behind its turn is acknowledged again (R178). -/
theorem receive_behind (up : (getLink s l.val).state = .up) (other : f.seq.toNat ≠ (getLink s l.val).rxSeq)
    (behind : newer 16 f.seq.toNat (getLink s l.val).rxSeq = false) :
    receive l f k d s = modLink l.val (fun y => { y with ackOwed := true, corrSym := (getLink s l.val).corrSym + f.corrected }) s := by
  rw [receive]
  simp only [up, bne_self_eq_false, Bool.false_eq_true, if_false, if_neg other, behind, countSymbols, modLink_modLink]
  exact modLink_congr rfl

section
variable (up : (getLink s l.val).state = .up) (turn : f.seq.toNat = (getLink s l.val).rxSeq)
include up turn

/-- An expected frame of another form is discarded (R172). -/
theorem receive_malformed (bad : frameKindOk f = false ∨ f.kind.toNat ≠ k) : receive l f k d s =
    frameDiscard l.val 1 f (oweCredits l.val f (modLink l.val (fun y => { y with badKind := y.badKind + 1 })
      (acceptSeq l.val f (countSymbols l.val f.corrected s)))) := by
  have bad' : (!frameKindOk f || f.kind.toNat != k) = true := by simpa using bad
  rw [receive]
  simp only [up, bne_self_eq_false, Bool.false_eq_true, if_false, if_pos turn, if_pos bad']

variable (form : frameKindOk f = true) (kind : f.kind.toNat = k)
include form kind

/-- A frame for another chip goes on or is discarded (R189). -/
theorem receive_transit (other : f.dst.toNat ≠ chipId s) :
    receive l f k d s = forward l.val f (acceptSeq l.val f (countSymbols l.val f.corrected s)) := by
  rw [receive]
  simp only [up, bne_self_eq_false, Bool.false_eq_true, if_false, if_pos turn, form, kind, Bool.not_true, Bool.or_self, if_neg other]

/-- A frame for this chip is delivered. -/
theorem receive_here (here : f.dst.toNat = chipId s) :
    receive l f k d s = deliver l.val f d (acceptSeq l.val f (countSymbols l.val f.corrected s)) := by
  rw [receive]
  simp only [up, bne_self_eq_false, Bool.false_eq_true, if_false, if_pos turn, form, kind, Bool.not_true, Bool.or_self, if_pos here]

end

/-! ### Transit (R189) -/

section
variable {n : Nat} {f : Frame} {t : State} (young : f.ttl ≠ 0)
include young

/-- A frame that no route takes on is discarded. -/
theorem forward_unrouted (stuck : f.cls = 1 ∨ f.kind = 0x12 ∨ routeLink t f.dst.toNat = none) : forward n f t =
    frameDiscard n 3 f (oweCredits n f (modLink n (fun y => { y with staleDrop := y.staleDrop + 1 }) t)) := by
  refine (if_neg young).trans ?_
  by_cases stays : f.cls = 1 ∨ f.kind = 0x12
  · exact if_pos (by simpa [staysOn] using stays)
  · have none_ : routeLink t f.dst.toNat = none := by tauto
    rw [if_neg (by simpa [staysOn] using stays), none_]

theorem forward_routed {m : Nat} (cls : f.cls ≠ 1) (exchange : f.kind ≠ 0x12) (route : routeLink t f.dst.toNat = some m) :
    forward n f t = enqueue m { fr := { f with ttl := f.ttl - 1 }, from_ := some n } t := by
  have stays : ¬(f.cls = 1 || staysOn f) = true := by
    rw [Bool.or_eq_true, decide_eq_true_eq, staysOn, beq_iff_eq]
    exact not_or.2 ⟨cls, exchange⟩
  refine (if_neg young).trans ?_
  rw [if_neg stays, route]

end

/-! ### Delivery (R180) -/

theorem beatStamp_eq {s t : State} (h : t.clk = s.clk) : beatStamp t = beatStamp s := by rw [beatStamp, h, beatStamp]

section
variable {n : Nat} {f : Frame} {d : State → State} {t : State} (low : f.cls = 0)
include low

/-- A frame of class U older than 1 ms is discarded. -/
theorem deliver_stale (old : 1000 < (beatStamp t + 2 ^ 32 - f.stamp.toNat) % 2 ^ 32)
    (past : (beatStamp t + 2 ^ 32 - f.stamp.toNat) % 2 ^ 32 < 2 ^ 31) :
    deliver n f d t = modLink n (fun y => { y with staleDrop := y.staleDrop + 1 }) (oweCredits n f t) := by
  rw [deliver]
  simp only
  rw [if_neg (by simp [low]), if_pos (Bool.and_eq_true_iff.2 ⟨decide_eq_true old, decide_eq_true past⟩)]

/-- A duplicate already seen is discarded. -/
theorem deliver_seen (young : (beatStamp t + 2 ^ 32 - f.stamp.toNat) % 2 ^ 32 ≤ 1000 ∨
      2 ^ 31 ≤ (beatStamp t + 2 ^ 32 - f.stamp.toNat) % 2 ^ 32) (dup : f.dup = true)
    (seen : ∃ e ∈ t.net.filter, e.1 = f.src.toNat ∧ e.2.1 = f.tag.toNat ∧ t.clk.fleet ≤ e.2.2 + 1000000) :
    deliver n f d t = modLink n (fun y => { y with dupDrop := y.dupDrop + 1 }) (oweCredits n f t) := by
  obtain ⟨e, he, src, tag, live⟩ := seen
  have kept : e ∈ liveFilter t := List.mem_filter.2 ⟨he, decide_eq_true live⟩
  rw [deliver]
  simp only
  rw [if_neg (by simp [low]), if_neg, if_neg (by simp [dup]), if_pos]
  · exact List.any_eq_true.2 ⟨e, kept, by simp [src, tag]⟩
  · rw [Bool.and_eq_true, decide_eq_true_eq, decide_eq_true_eq]
    omega

end

end

/-- What an answer shows of a change of links alone. -/
theorem answer_links {s u : State} (only : LinksOnly s u) :
    let s' : State := { collect u with pending := s.pending }
    (∀ k, getLink s' k = getLink u k) ∧ s' = { reported s s' with links := s'.links } := by
  intro s'
  have links : s'.links = u.links := collect_links u
  have own : s' = { reported u s' with pending := s.pending } := answer_reported s.pending u
  clear_value s'
  refine ⟨fun k => congrArg (fun t : Table Link => tget ({} : Link) t k) links, ?_⟩
  rw [links]
  exact own.trans (congrArg (fun y : State => { reported y s' with pending := s.pending }) only)

/-- Settles O33, by what the link does with the frame, whatever its delivery. -/
theorem frameReception : Obligations.FrameReception := by
  intro i l fr k s form sound n x expected t age seen discard
  obtain ⟨d, gives⟩ : Receives i l fr k s := by
    rcases form with form | ⟨rfl, rfl, malformed⟩
    · exact receives_frameForm sound form
    · exact ⟨id, fun u hu mem tps => gives_runCtl _ _ (execFrameDiscard.eq_1 l fr s) ((if_neg (by simp [malformed])).trans hu) mem tps⟩
  have part : TakesOnly s t := (linksOnly_countSymbols ..).takes.trans (takesOnly_acceptSeq ..)
  have stamp : beatStamp t = beatStamp s := beatStamp_eq part.clk
  have filter : t.net.filter = s.net.filter :=
    (congrArg Net.filter (acceptSeq_net n fr (countSymbols n fr.corrected s)) :)
  have given {u : State} (hu : receive l fr k d s = u) (h : TakesOnly t u) : Gives i s u :=
    gives u hu (h.mem.trans part.mem) (h.tps.trans part.tps)
  have drops (g : Link → Link) : TakesOnly t (modLink n g (oweCredits n fr t)) :=
    ((linksOnly_oweCredits ..).trans (linksOnly_modLink ..)).takes
  have discards (r : Nat) (g : Link → Link) : TakesOnly t (frameDiscard n r fr (oweCredits n fr (modLink n g t))) :=
    (((linksOnly_modLink ..).trans (linksOnly_oweCredits ..)).trans (linksOnly_post ..)).takes
  refine ⟨fun down => ?_, fun up other ahead => ?_, fun up other behind => ?_, ?_, ?_, ?_, ?_⟩
  · exact gives _ (receive_down down) rfl rfl
  · have gap := gives _ (receive_ahead up other ahead) rfl rfl
    obtain ⟨links, only⟩ := answer_links (s := s) (linksOnly_modLink n (gapLink fr s.clk.fleet) s)
    have link := (links n).trans (getLink_modLink_self ..)
    obtain ⟨b, at_, eq⟩ := gapLink_eq fr s.clk.fleet x
    refine ⟨_, gap, ?_, ?_, ?_, ?_, fun first => ?_, fun m hm => (links m).trans (getLink_modLink_ne _ _ _ _ hm), only⟩
    · rw [link, eq]
    · rw [link, eq]
    · rw [link, eq]
    · rw [link, eq]
    · rw [link]
      exact gapLink_asks first
  · exact gives _ (receive_behind up other behind) rfl rfl
  · rintro - idle z
    have eq : t = modLink n (acceptLink fr s.clk.fleet) s := acceptSeq_eq idle
    have link : z = acceptLink fr s.clk.fleet x := (congrArg (getLink · n) eq).trans (getLink_modLink_self ..)
    have counts := acceptLink_counts fr s.clk.fleet x
    rw [← link] at counts
    obtain ⟨a, b, c, e, f, g, h⟩ := counts
    refine ⟨a, b, c, e, f, g, h, by rw [eq]; rfl, fun m hm => ?_⟩
    rw [eq, getLink_modLink_ne _ _ _ _ hm]
  · rintro ⟨up, turn⟩ bad
    exact given (receive_malformed up turn bad) (discards ..)
  · rintro ⟨up, turn⟩ form kind other gone
    have goes := receive_transit (d := d) up turn form kind other
    refine ⟨fun old => given (goes.trans (if_pos old)) (discards ..), fun young stuck => ?_, fun m young cls exchange route => ?_⟩
    · exact given (goes.trans (forward_unrouted young stuck)) (discards 3 _)
    · exact given (goes.trans (forward_routed young cls exchange route)) (linksOnly_enqueue ..).takes
  · rintro ⟨up, turn⟩ form kind here low own
    refine ⟨fun old past => ?_, fun young dup again => ?_⟩
    · refine given ((receive_here up turn form kind here).trans (deliver_stale low ?_ ?_)) (drops ..)
      · rw [stamp]; exact old
      · rw [stamp]; exact past
    · refine given ((receive_here up turn form kind here).trans (deliver_seen low ?_ dup ?_)) (drops ..)
      · rw [stamp]; exact young
      · rw [filter, part.clk]; exact again

end Sys2Proof.Machine
end

section
/-! PROOFS. What accepted frames do (R71, R72, R172, R190, R196 to R198, R203). -/

namespace Sys2Proof.Machine

/-! ### A frame and what a link keeps -/

/-- What a command over the receiver of routed frames gives where the link accepts its frame. -/
theorem gives_routed {i : Instr} {l : Fin 8} {f : Frame} {k : Nat} {d : State → State} {s u : State} (h : Accepts s l f k)
    (hi : exec i s = run (routed l f k d) s) (hu : d (taken l f s) = u) : Gives i s u := by
  refine gives_run _ _ hi ((if_neg ?_).trans ((receive_accepted d h).trans hu))
  simp [h.here]

/-- Every link has the role that it had. -/
def RolesOf (s t : State) : Prop := ∀ k, (getLink t k).role = (getLink s k).role

theorem RolesOf.trans {s t u : State} (h : RolesOf s t) (h' : RolesOf t u) : RolesOf s u := fun k => (h' k).trans (h k)

theorem RolesOf.after {s t u : State} (h : RolesOf t u) (h' : RolesOf s t) : RolesOf s u := h'.trans h

theorem rolesOf_post (src code sev : Nat) (p : List Byte) (s : State) : RolesOf s (post src code sev p s) := fun _ => rfl

theorem rolesOf_modLink {n : Nat} {f : Link → Link} {s : State} (h : ∀ l, (f l).role = l.role) : RolesOf s (modLink n f s) := by
  intro k
  by_cases hk : k = n
  · rw [hk, getLink_modLink_self, h]
  · rw [getLink_modLink_ne _ _ _ _ hk]

theorem rolesOf_enqueue (n : Nat) (x : TxFrame) (s : State) : RolesOf s (enqueue n x s) := rolesOf_modLink fun l => by
  split
  · rfl
  · split <;> rfl

theorem rolesOf_oweCredits (n : Nat) (f : Frame) (s : State) : RolesOf s (oweCredits n f s) := rolesOf_modLink fun l => by
  split
  · rfl
  · split <;> rfl

theorem rolesOf_trailerCredits (n : Nat) (f : Frame) (s : State) : RolesOf s (trailerCredits n f s) := by
  unfold trailerCredits
  dsimp only
  split_ifs
  · exact rolesOf_modLink fun _ => rfl
  · exact rolesOf_modLink fun _ => rfl
  · exact rolesOf_modLink fun _ => rfl
  · exact fun _ => rfl

theorem rolesOf_sendVia (rt : Table Nat) (f : Frame) (s : State) : RolesOf s (sendVia rt f s) := by
  unfold sendVia
  split
  · exact rolesOf_enqueue _ _ _
  · exact (rolesOf_post _ _ _ _ _).after (rolesOf_modLink fun _ => rfl)

theorem rolesOf_checkRemap (s : State) : RolesOf s (checkRemap s) := by
  unfold checkRemap
  dsimp only
  split
  · exact (rolesOf_sendVia _ _ _ :)
  · exact fun _ => rfl

theorem rolesOf_takeAck (n ack : Nat) (s : State) : RolesOf s (takeAck n ack s) :=
  (rolesOf_checkRemap _).after (rolesOf_modLink fun _ => rfl)

theorem rolesOf_acceptSeq (n : Nat) (f : Frame) (s : State) : RolesOf s (acceptSeq n f s) :=
  (rolesOf_trailerCredits _ _ _).after ((rolesOf_takeAck _ _ _).after (rolesOf_modLink fun _ => rfl))

/-- What an expected frame leaves of the links' roles. -/
theorem rolesOf_taken (l : Fin 8) (f : Frame) (s : State) : RolesOf s (taken l f s) :=
  (rolesOf_oweCredits _ _ _).after ((rolesOf_acceptSeq _ _ _).after (rolesOf_modLink fun _ => rfl))

/-- What is read of neither memory, its check bits nor the accesses in flight is as before. -/
theorem serveAll_keeps (s : State) {α : Type} (g : State → α) (hg : ∀ (x : State) m e v, g { x with mem := m, ecc := e, vat := v } = g x) :
    g (serveAll s) = g s := (congrArg g (serveAll_rest s)).trans (hg ..)

/-! ### Remote accesses (R71, R72) -/

/-- A store where no line is bad. -/
theorem storeMem_sound {w : State} (a : Nat) (bs : List Byte) (sound : w.ecc.badLines = []) : storeMem a bs w = { w with
    mem := memWrite w.mem a bs
    ecc := { w.ecc with softLines := w.ecc.softLines.filter fun k => !(decide (a ≤ 64 * k) && decide (64 * k + 64 ≤ a + bs.length)) } } := by
  simp only [storeMem, putMem, healLines, sound, List.filter_nil]

section
variable {l : Fin 8} {fr : Frame} {s : State}

theorem remoteOk_taken (src a n : Nat) : remoteOk (serveAll (taken l fr s)) src a n = remoteOk s src a n :=
  (serveAll_keeps _ (remoteOk · src a n) fun _ _ _ _ => rfl).trans
    ((takesOnly_taken l fr s).keeps (remoteOk · src a n) fun _ _ _ _ _ => rfl)

theorem gives_remoteWrite (acc : Accepts s l fr 0x08) (sound : (serveAll (taken l fr s)).ecc.badLines = [])
    (ok : remoteOk s fr.src.toNat (globalLocal fr.arg.toNat) (writeLen fr) = true) :
    Gives (.remoteWrite l fr) s
      (storeMem (globalLocal fr.arg.toNat) (fr.payload.take (writeLen fr)) (serveAll (taken l fr s))) := by
  refine gives_routed acc (execRemoteWrite.eq_1 l fr s) ((if_neg ?_).trans (if_neg ?_))
  · rw [remoteOk_taken, ok]; decide
  · simp [mergesBad, sound]

theorem gives_remoteWrite_refused (acc : Accepts s l fr 0x08)
    (no : remoteOk s fr.src.toNat (globalLocal fr.arg.toNat) (writeLen fr) = false) :
    Gives (.remoteWrite l fr) s (sendB 0x0B fr.src.toNat 6 fr.tag.toNat [] (serveAll (taken l fr s))) :=
  gives_routed acc (execRemoteWrite.eq_1 l fr s) (if_pos (by rw [remoteOk_taken, no]; rfl))

theorem gives_remoteRead {n : Nat} (acc : Accepts s l fr 0x09) (hn : n = 64 * (bits fr.arg.toNat 59 5 + 1))
    (ok : remoteOk s fr.src.toNat (globalLocal fr.arg.toNat) n = true)
    (good : lineBad (serveAll (taken l fr s)) (globalLocal fr.arg.toNat) n = false) :
    let w := serveAll (taken l fr s)
    let a := globalLocal fr.arg.toNat
    Gives (.remoteReadRequest l fr) s (sendB 0x0A fr.src.toNat fr.arg.toNat fr.tag.toNat (memRead w.mem a n)
      { w with flt.eccCor := w.flt.eccCor + softCount w a n }) := by
  subst hn
  refine gives_routed acc (execRemoteReadRequest.eq_1 l fr s) ((if_neg ?_).trans (if_neg ?_))
  · rw [remoteOk_taken, ok]; decide
  · rw [good]; decide

theorem gives_remoteRead_refused (acc : Accepts s l fr 0x09)
    (no : remoteOk s fr.src.toNat (globalLocal fr.arg.toNat) (64 * (bits fr.arg.toNat 59 5 + 1)) = false) :
    Gives (.remoteReadRequest l fr) s (sendB 0x0B fr.src.toNat 6 fr.tag.toNat [] (serveAll (taken l fr s))) :=
  gives_routed acc (execRemoteReadRequest.eq_1 l fr s) (if_pos (by rw [remoteOk_taken, no]; rfl))

theorem remotes_taken : (taken l fr s).net.remotes = s.net.remotes := (congrArg Net.remotes (taken_net l fr s) :)

theorem remoteOf_taken : remoteOf (taken l fr s) fr = remoteOf s fr := by
  rw [remoteOf, remotes_taken, remoteOf]

/-- Results noted at one cycle are usable then. -/
theorem ready_foldl_noteReady {k cy : Nat} {ks : List Nat} (tp : Tp) (h : k ∈ ks ∨ tget 0 tp.ready k = cy) :
    tget 0 (ks.foldl (fun tp k => noteReady k cy tp) tp).ready k = cy := by
  induction ks generalizing tp with
  | nil => simpa using h
  | cons x ks ih =>
    refine ih _ ?_
    by_cases hx : k = x
    · exact .inr (by simp [noteReady, hx])
    · exact h.imp (fun h => (List.mem_cons.1 h).resolve_left hx) fun h => by simp [noteReady, tget_tput, hx, h]

theorem arriving_foldl_noteReady (cy : Nat) (ks : List Nat) (tp : Tp) :
    (ks.foldl (fun tp k => noteReady k cy tp) tp).arriving = tp.arriving := by
  induction ks generalizing tp with
  | nil => rfl
  | cons x ks ih => exact ih _

/-- A read response arrives (R72). -/
theorem remoteReadResponse_answer {r : Remote} {at_ : Nat} (acc : Accepts s l fr 0x0A) (of : remoteOf s fr = some r) (into : r.into = some at_) :
    ∃ s', exec (.remoteReadResponse l fr) s = .next s' ∧ s'.mem = memWrite s.mem at_ ((fr.payload.drop (r.addr % 64)).take r.size) ∧
      s'.net.remotes = s.net.remotes.filter (fun x => x.tag != r.tag) ∧
      (∀ k ∈ r.keys, k ∉ (getTp s' r.tp).arriving ∧ tget 0 (getTp s' r.tp).ready k = cycleAt s r.slot) ∧
      (∀ k, k ≠ r.tp → getTp s' k = getTp s k) ∧ s'.jobs = s.jobs := by
  have part := takesOnly_taken l fr s
  have cycle : cycleAt (taken l fr s) r.slot = cycleAt s r.slot := part.keeps (cycleAt · r.slot) fun _ _ _ _ _ => rfl
  have tp (k : Nat) : getTp (taken l fr s) k = getTp s k := part.keeps (getTp · k) fun _ _ _ _ _ => rfl
  have given : Gives (.remoteReadResponse l fr) s (responseIn fr (taken l fr s)) :=
    gives_routed acc (execRemoteReadResponse.eq_1 l fr s) rfl
  have effect : responseIn fr (taken l fr s) = modTp r.tp (fun tp => r.keys.foldl (fun tp k => noteReady k (cycleAt s r.slot) tp)
      { tp with arriving := tp.arriving.filter fun k => !r.keys.contains k })
      (putMem at_ ((fr.payload.drop (r.addr % 64)).take r.size)
        { taken l fr s with net.remotes := (taken l fr s).net.remotes.filter fun x => x.tag != r.tag }) := by
    rw [responseIn, remoteOf_taken, of]
    simp only [into, cycle]
  rw [effect] at given
  refine ⟨_, given, ?_, ?_, fun k hk => ⟨?_, ?_⟩, fun k hk => ?_, ?_⟩
  · simp [putMem, part.mem]
  · simp [putMem, remotes_taken]
  · rw [getTp_answer, getTp_modTp_self, arriving_foldl_noteReady]
    simp [hk]
  · rw [getTp_answer, getTp_modTp_self]
    exact ready_foldl_noteReady _ (.inl hk)
  · rw [getTp_answer, getTp_modTp_ne _ _ _ _ hk]
    exact tp k
  · simp [putMem, part.jobs]

theorem gives_remoteRefusal {r : Remote} (acc : Accepts s l fr 0x0B) (of : remoteOf s fr = some r) : Gives (.remoteRefusal l fr) s
    (faultJob r.slot (accessFaultEvent r.tp r.thr r.addr 6
      { taken l fr s with net.remotes := (taken l fr s).net.remotes.filter fun x => x.tag != r.tag })) := by
  refine gives_routed acc (execRemoteRefusal.eq_1 l fr s) ?_
  simp only [remoteOf_taken, of]
  rfl

theorem gives_remote_unknown (none_ : remoteOf s fr = none) :
    (Accepts s l fr 0x0A → Gives (.remoteReadResponse l fr) s (taken l fr s)) ∧
    (Accepts s l fr 0x0B → Gives (.remoteRefusal l fr) s (taken l fr s)) := by
  refine ⟨fun acc => gives_routed acc (execRemoteReadResponse.eq_1 l fr s) ?_, fun acc => gives_routed acc (execRemoteRefusal.eq_1 l fr s) ?_⟩
  · rw [responseIn, remoteOf_taken, none_]
  · simp only [remoteOf_taken, none_]

/-! ### Collectives (R196 to R198) -/

theorem linksOnly_sendColl (p prog dir stage off : Nat) (data : List Byte) (s : State) :
    LinksOnly s (sendColl p prog dir stage off data s) := by
  unfold sendColl
  split
  · exact linksOnly_enqueue ..
  · exact .refl s

/-- Where the rows of a data frame are received (R196, R197). -/
def landing (s : State) (j : Nat) (c : Coll) (f : Frame) : Nat :=
  let m := jobMov (getJob s j)
  let p := jobPart (getJob s j)
  let n := viewAt s p 0
  let dir := bits f.arg.toNat 63 1
  let stage := bits f.arg.toNat 48 15
  let off := bits f.arg.toNat 0 48
  if c.kind = 0 then halfAddr m c n (recvBlock c n (viewAt s p 1) dir stage) dir c.dst + off
  else c.recv + (2 * dir + stage % 2) * halfBytes m c n + off

theorem landColl_mem (j prog : Nat) (c : Coll) (f : Frame) (s : State) :
    (landColl j prog (jobMov (getJob s j)) c f s).mem = memWrite s.mem (landing s j c f) f.payload := rfl

theorem landColl_held (j prog : Nat) (m : Movement) (c : Coll) (f : Frame) (s : State) :
    (tget {} (getJob (landColl j prog m c f s) j).run.colls prog).held = (tget {} (getJob s j).run.colls prog).held := by
  rw [landColl]
  simp only [getJob_modRun_self, tget_tmod_self]
  split <;> rfl

theorem landColl_part (j prog : Nat) (m : Movement) (c : Coll) (f : Frame) (s : State) :
    jobPart (getJob (landColl j prog m c f s) j) = jobPart (getJob s j) := by
  rw [landColl]
  simp only [getJob_modRun_self]
  rfl

/-- What goes on with a data frame that has landed writes its sum, in a reduction (R197). -/
theorem passColl_mem (j prog : Nat) (m : Movement) (c : Coll) (f : Frame) (s : State) :
    let p := jobPart (getJob s j)
    let n := viewAt s p 0
    let dir := bits f.arg.toNat 63 1
    let stage := bits f.arg.toNat 48 15
    let off := bits f.arg.toNat 0 48
    let b := recvBlock c n (viewAt s p 1) dir stage
    let own := halfAddr m c n b dir c.src + off
    let sum := addRows f.payload (memRead s.mem own f.payload.length)
    (passColl j prog m c s f).tps = s.tps ∧ (passColl j prog m c s f).mem =
      if c.kind = 0 then s.mem
      else if n - 2 ≤ stage then memWrite s.mem (c.dst + halfFirst m n b dir * c.rowBytes + off) sum
      else memWrite s.mem own sum := by
  intro p n dir stage off b own sum
  rw [passColl]
  dsimp only [collPlace]
  split_ifs
  · exact ⟨rfl, rfl⟩
  · exact ⟨(linksOnly_sendColl ..).tps, (linksOnly_sendColl ..).mem⟩
  · exact ⟨rfl, rfl⟩
  · exact ⟨(linksOnly_sendColl ..).tps, (linksOnly_sendColl ..).mem⟩

theorem landColl_keeps (j prog : Nat) (m : Movement) (c : Coll) (f : Frame) (s : State) :
    (landColl j prog m c f s).tps = s.tps ∧ ∀ p i, viewAt (landColl j prog m c f s) p i = viewAt s p i := ⟨rfl, fun _ _ => rfl⟩

/-- A data frame whose RDV runs goes on; the rows of another are held. -/
theorem takeColl_running {j prog : Nat} {c : Coll} {f : Frame} {s : State} (h : (tget {} (getJob s j).run.colls prog).running = true) :
    let m := jobMov (getJob s j)
    let landed := memWrite s.mem (landing s j c f) f.payload
    let p := jobPart (getJob s j)
    let n := viewAt s p 0
    let dir := bits f.arg.toNat 63 1
    let stage := bits f.arg.toNat 48 15
    let off := bits f.arg.toNat 0 48
    let b := recvBlock c n (viewAt s p 1) dir stage
    let own := halfAddr m c n b dir c.src + off
    let sum := addRows f.payload (memRead landed own f.payload.length)
    (takeColl j prog m c f s).tps = s.tps ∧ (takeColl j prog m c f s).mem =
      if c.kind = 0 then landed
      else if n - 2 ≤ stage then memWrite landed (c.dst + halfFirst m n b dir * c.rowBytes + off) sum
      else memWrite landed own sum := by
  intro m landed p n dir stage off b own sum
  obtain ⟨tps, view⟩ := landColl_keeps j prog m c f s
  obtain ⟨pTps, pMem⟩ := passColl_mem j prog m c f (landColl j prog m c f s)
  rw [landColl_part, view, view, landColl_mem] at pMem
  rw [takeColl, h]
  exact ⟨pTps.trans tps, pMem⟩

theorem takeColl_held {j prog : Nat} {c : Coll} {f : Frame} {s : State} (h : (tget {} (getJob s j).run.colls prog).running = false) :
    let x := takeColl j prog (jobMov (getJob s j)) c f s
    x.tps = s.tps ∧ x.mem = memWrite s.mem (landing s j c f) f.payload ∧
      (tget {} (getJob x j).run.colls prog).held = (tget {} (getJob s j).run.colls prog).held ++ [f] := by
  intro x
  have holds : x = modRun j (fun r => { r with colls := tmod {} r.colls prog fun y => { y with held := y.held ++ [f] } })
      (landColl j prog (jobMov (getJob s j)) c f s) := by
    simp only [x, takeColl, h, Bool.false_eq_true, if_false]
  refine ⟨(congrArg State.tps holds).trans (landColl_keeps j prog (jobMov (getJob s j)) c f s).1,
    (congrArg State.mem holds).trans (landColl_mem j prog c f s), ?_⟩
  rw [holds, getJob_modRun_self]
  simp only [tget_tmod_self]
  rw [landColl_held]

/-- Data that no ring job has armed are dropped and counted. -/
theorem gives_collective_dropped (acc : Accepts s l fr 0x01) (free : isFenced s fr.src.toNat = false) (none_ : runningRing s = none) :
    Gives (.collectiveData l fr) s { taken l fr s with ring.collDrop := (taken l fr s).ring.collDrop + 1 } := by
  have part := takesOnly_taken l fr s
  have free' : isFenced (taken l fr s) fr.src.toNat = false := (part.keeps (isFenced · fr.src.toNat) fun _ _ _ _ _ => rfl).trans free
  have none' : runningRing (taken l fr s) = none := (part.keeps runningRing fun _ _ _ _ _ => rfl).trans none_
  refine gives_routed acc (execCollectiveData.eq_1 l fr s) ?_
  simp only [collIn, free', Bool.false_eq_true, if_false, none']
  rfl

theorem gives_collectiveData {j : Nat} {c : Coll} (acc : Accepts s l fr 0x01) (free : isFenced s fr.src.toNat = false)
    (job : runningRing s = some j) (coll : (jobMov (getJob s j)).colls[fr.tag.toNat]? = some c)
    (armed : (tget {} (getJob s j).run.colls fr.tag.toNat).armed = true)
    (fits : collFits s j (jobMov (getJob s j)) c fr = true) :
    Gives (.collectiveData l fr) s (takeColl j fr.tag.toNat (jobMov (getJob s j)) c fr (taken l fr s)) := by
  have part := takesOnly_taken l fr s
  have free' : isFenced (taken l fr s) fr.src.toNat = false := (part.keeps (isFenced · fr.src.toNat) fun _ _ _ _ _ => rfl).trans free
  have ring : runningRing (taken l fr s) = some j := (part.keeps runningRing fun _ _ _ _ _ => rfl).trans job
  have sameJob : getJob (taken l fr s) j = getJob s j := part.keeps (getJob · j) fun _ _ _ _ _ => rfl
  have fits' : collFits (taken l fr s) j (jobMov (getJob s j)) c fr = true :=
    (part.keeps (collFits · j (jobMov (getJob s j)) c fr) fun _ _ _ _ _ => rfl).trans fits
  refine gives_routed acc (execCollectiveData.eq_1 l fr s) ?_
  simp only [collIn, free', Bool.false_eq_true, if_false, ring, sameJob, coll]
  exact if_pos (by rw [armed]; exact fits')

/-! ### Heartbeats and digests (R190, R203) -/

theorem heartbeat_answer (acc : Accepts s l fr 0x10) (fwd : sideChip s .fwd = fr.src.toNat) (bwd : sideChip s .bwd ≠ fr.src.toNat)
    (ring : cfgVal s 0x0601 ≠ 0) (unfenced : bitAt fr.arg.toNat 5 = false) :
    ∃ s', exec (.heartbeat l fr) s = .next s' ∧ s'.ring = { s.ring with fwd := { s.ring.fwd with
      misses := 0, seen := true, arg := fr.arg.toNat, suspect := false
      verdict := if bitAt fr.arg.toNat 0 then some (bits fr.arg.toNat 0 3) else none } } ∧ s'.jobs = s.jobs ∧ s'.mem = s.mem := by
  have part := takesOnly_taken l fr s
  have sameRing : (taken l fr s).ring = s.ring := part.keeps (·.ring) fun _ _ _ _ _ => rfl
  let u : State := postIf (taken l fr s).ring.fwd.suspect (0x10 + sideLink (taken l fr s) .fwd) 8 0 (pl2 fr.src.toNat) (taken l fr s)
  let v : State := modSide .fwd (beatIn fr.arg.toNat) u
  have far : cfgVal s 0x0604 ≠ fr.src.toNat := bwd
  have near : cfgVal s 0x0603 = fr.src.toNat := fwd
  have cfg (k : Nat) : cfgVal v k = cfgVal s k := (show cfgVal v k = cfgVal (taken l fr s) k by simp [v, u, modSide, cfgVal]).trans (part.cfgVal k)
  have first : takeBeat .fwd fr.src.toNat fr.arg.toNat (taken l fr s) = v := by
    refine if_neg ?_
    simp [sideChip, part.cfgVal, near, ring]
  have second : takeBeat .bwd fr.src.toNat fr.arg.toNat v = v := if_pos (by simp [sideChip, cfg, far])
  have given : Gives (.heartbeat l fr) s v := by
    refine gives_routed acc (execHeartbeat.eq_1 l fr s) ?_
    have two : (cfgVal (taken l fr s) 0x0603 == cfgVal (taken l fr s) 0x0604) = false := by
      rw [part.cfgVal, part.cfgVal, near]
      exact beq_false_of_ne far.symm
    simp only [first, two, second, unfenced, Bool.false_eq_true, if_false]
  have rest : u.ring = s.ring ∧ u.jobs = s.jobs ∧ u.mem = s.mem := by simp [u, sameRing, part.jobs, part.mem]
  obtain ⟨ring_, jobs, mem⟩ := rest
  refine ⟨_, given, ?_, ?_, ?_⟩
  · simp [v, modSide, ring_, beatIn]
  · simp [v, modSide, jobs]
  · simp [v, modSide, mem]

theorem routingDigest_answer {x : Side} (acc : Accepts s l fr 0x11) (side : digestSide s l fr.src.toNat = some x) :
    ∃ s', exec (.routingDigest l fr) s = .next s' ∧ sideOf s' x = { sideOf s x with digest := some fr.arg.toNat } ∧ s'.jobs = s.jobs := by
  have part := takesOnly_taken l fr s
  have role := rolesOf_taken l fr s
  have sameRing : (taken l fr s).ring = s.ring := part.keeps (·.ring) fun _ _ _ _ _ => rfl
  have side' : digestSide (taken l fr s) l fr.src.toNat = some x := by
    rw [← side, digestSide, digestSide, part.cfgVal, part.cfgVal, part.cfgVal, sameRing, role]
  have given : Gives (.routingDigest l fr) s (modSide x (fun y => { y with digest := some fr.arg.toNat }) (taken l fr s)) := by
    refine gives_received acc (execRoutingDigest.eq_1 l fr s) (by simp only [side']) ?_ ?_ <;> cases x
    · exact part.mem
    · exact part.mem
    · exact part.tps
    · exact part.tps
  refine ⟨_, given, ?_, ?_⟩ <;> cases x <;> simp [modSide, sideOf, sameRing, part.jobs]

end

/-- Settles O34, frame by frame. -/
theorem frameContents : Obligations.FrameContents := by
  intro l fr s a src t w
  refine ⟨fun acc sound n hn ok => ?_, gives_remoteWrite_refused, fun acc n hn ok good => gives_remoteRead acc hn ok good,
    gives_remoteRead_refused, fun r at_ => remoteReadResponse_answer, fun r => gives_remoteRefusal, gives_remote_unknown,
    fun j c acc free job coll armed fits => ?_, gives_collective_dropped, heartbeat_answer, fun x => routingDigest_answer, fun form => ?_⟩
  · subst hn
    have given := gives_remoteWrite acc sound ok
    rw [storeMem_sound _ _ sound] at given
    exact given
  · have given := gives_collectiveData acc free job coll armed fits
    have part : TakesOnly s t := takesOnly_taken l fr s
    have sameJob : getJob t j = getJob s j := part.keeps (getJob · j) fun _ _ _ _ _ => rfl
    have view (p i : Nat) : viewAt t p i = viewAt s p i := part.keeps (viewAt · p i) fun _ _ _ _ _ => rfl
    have place : landing t j c fr = landing s j c fr := part.keeps (landing · j c fr) fun _ _ _ _ _ => rfl
    intro m k p n dir stage off b own landed sum
    cases run : k.running with
    | false =>
      have holds := takeColl_held (j := j) (prog := fr.tag.toNat) (c := c) (f := fr) (s := t) (by rw [sameJob]; exact run)
      rw [sameJob, place, part.mem, part.tps] at holds
      obtain ⟨tps, mem, held⟩ := holds
      refine ⟨_, given, ?_, fun _ => ⟨?_, ?_⟩, fun h => by cases h⟩
      · rw [collect_tps]; exact tps
      · rw [collect_mem]; exact mem
      · rw [getJob_answer]; exact held
    | true =>
      have goes := takeColl_running (j := j) (prog := fr.tag.toNat) (c := c) (f := fr) (s := t) (by rw [sameJob]; exact run)
      rw [sameJob, place, part.mem, part.tps] at goes
      simp only [view] at goes
      obtain ⟨tps, mem⟩ := goes
      refine ⟨_, given, ?_, fun h => (by cases h), fun _ => ?_⟩
      · rw [collect_tps]; exact tps
      · rw [collect_mem]; exact mem
  · exact gives_runCtl _ _ (execFrameDiscard.eq_1 l fr s) (if_pos form) rfl rfl

end Sys2Proof.Machine
end

section
/-! PROOFS. What an Up link sends at a frame boundary, and the replay (R168 to R179). -/

namespace Sys2Proof.Machine

/-! ### A frame's bytes (R169, R170) -/

/-- The fields of a frame's header. -/
theorem headerNum_fields (f : Frame) :
    let h := headerNum f
    bits h 0 2 = f.cls.toNat ∧ bits h 2 6 = f.kind.toNat ∧ bits h 8 6 = f.units.toNat ∧ bitAt h 15 = f.dup ∧
    bits h 16 16 = f.seq.toNat ∧ bits h 32 16 = f.ackSeq.toNat ∧ bits h 48 12 = f.src.toNat ∧ bits h 60 12 = f.dst.toNat ∧
    bits h 72 4 = f.ttl.toNat ∧ bits h 80 16 = f.tag.toNat ∧ bits h 96 32 = f.stamp.toNat ∧ bits h 128 64 = f.arg.toNat := by
  have := f.cls.isLt; have := f.kind.isLt; have := f.units.isLt; have := f.rsvA.isLt; have := f.seq.isLt; have := f.ackSeq.isLt
  have := f.src.isLt; have := f.dst.isLt; have := f.ttl.isLt; have := f.rsvB.isLt; have := f.tag.isLt; have := f.stamp.isLt
  have := f.arg.isLt
  have dup : b2n f.dup < 2 := by cases f.dup <;> decide
  intro h
  simp only [h, bits, headerNum]
  refine ⟨?_, ?_, ?_, ?_, ?_, ?_, ?_, ?_, ?_, ?_, ?_, ?_⟩
  · omega
  · omega
  · omega
  · have bit : headerNum f / 2 ^ 15 % 2 = b2n f.dup := by
      simp only [headerNum]
      omega
    rw [bitAt, Nat.testBit_eq_decide_div_mod_eq]
    simp only [headerNum] at bit
    rw [bit]
    cases f.dup <;> rfl
  all_goals omega

theorem trailerNum_comm (f : Frame) : trailerNum f = f.creditClass.toNat * 2 ^ 30 + f.creditUnits.toNat * 2 ^ 20 := Nat.add_comm ..

/-! ### A new frame on the wire -/

/-- What a link that sends a new frame of this chip's puts on the wire, and holds. -/
def SendsFresh (t : TxFrame) (x y : Link) : Prop := ∃ f, y.wire = [.frame f (frameWire f)] ∧ f.seq = BitVec.ofNat 16 x.txSeq ∧
  f.ackSeq = BitVec.ofNat 16 (x.rxSeq + 65535) ∧ f.cls = t.fr.cls ∧ f.kind = t.fr.kind ∧ f.dst = t.fr.dst ∧
  f.payload = t.fr.payload ∧ y.unacked = x.unacked ++ [f] ∧ y.txSeq = (x.txSeq + 1) % 65536 ∧ y.ackOwed = false ∧
  y.blocks = x.blocks + frameBytes f / 32

/-- A sent frame leaves its link's queues, and takes its credits and its share of the beat in its class. -/
def Uses (t : TxFrame) (y z : Link) : Prop :=
  (z.qU = y.qU ∧ z.qS = y.qS ∧ z.qB = y.qB) ∧
  (t.fr.cls = 0 → z.crU = y.crU - frameCredits t.fr ∧ z.uBeat = y.uBeat + frameBytes t.fr) ∧
  (t.fr.cls = 1 → z.crS = y.crS - frameCredits t.fr ∧ z.sBeat = y.sBeat + 64 * t.fr.units.toNat) ∧
  (t.fr.cls = 2 → z.crB = y.crB - frameCredits t.fr)

section
variable {n : Nat} {t : TxFrame} {v : State}

theorem sentFrame_fields : (sentFrame n t v).cls = t.fr.cls ∧ (sentFrame n t v).units = t.fr.units ∧
    frameCredits (sentFrame n t v) = frameCredits t.fr ∧ frameBytes (sentFrame n t v) = frameBytes t.fr := by
  obtain ⟨-, -, cls, units, -⟩ := stampFrame_kind v t
  refine ⟨cls, units, ?_, ?_⟩
  · rw [frameCredits, frameCredits, ← units]; rfl
  · rw [frameBytes, frameBytes, ← units]; rfl

theorem transmit_fresh (own : t.from_ = none) (quiet_ : (getLink v n).wire = []) : SendsFresh t (getLink v n) (getLink (transmit n t v) n) := by
  obtain ⟨kind, dst, cls, -, payload⟩ := stampFrame_kind v t
  rw [transmit_own own]
  exact ⟨sentFrame n t v, by rw [sentLink, quiet_]; rfl, rfl, rfl, cls, kind, dst, payload, rfl, rfl, rfl, rfl⟩

theorem transmit_uses (own : t.from_ = none) : Uses t (getLink v n) (getLink (transmit n t v) n) := by
  obtain ⟨cls, units, credits, bytes⟩ := sentFrame_fields (n := n) (t := t) (v := v)
  rw [transmit_own own]
  refine ⟨⟨rfl, rfl, rfl⟩, ?_⟩
  simp only [sentLink, cls, units, credits, bytes]
  exact ⟨fun h => ⟨if_pos h, if_pos h⟩, fun h => ⟨if_pos h, if_pos h⟩, fun h => if_pos h⟩

end

/-! ### The order of a frame boundary (R173) -/

section
variable {n : Nat} {u : State} {t : TxFrame} {rest : List TxFrame}

theorem takeU_none (h : (getLink u n).qU = []) : takeU n u = none := by simp [takeU, h]
theorem holdU_none (h : (getLink u n).qU = []) : holdU n u = u := by simp [holdU, h]
theorem takeS_none (h : (getLink u n).qS = []) : takeS n u = none := by simp [takeS, h]
theorem sOver_none (h : (getLink u n).qS = []) : sOver u n = false := by simp [sOver, h]
theorem takeB_none (h : (getLink u n).qB = []) : takeB n u = none := by simp [takeB, h]

theorem takeU_some (h : (getLink u n).qU = t :: rest) (share : (getLink u n).uBeat + frameBytes t.fr ≤ 250 * (getLink u n).width)
    (fits : replayFits (getLink u n) t.fr = true) (credits : frameCredits t.fr ≤ (getLink u n).crU) :
    takeU n u = some (transmit n t (modLink n (fun l => { l with qU := rest }) u)) := by
  simp only [takeU, h]
  exact if_pos (by simp [share, fits, credits])

theorem takeB_some (h : (getLink u n).qB = t :: rest) (fits : replayFits (getLink u n) t.fr = true)
    (credits : frameCredits t.fr ≤ (getLink u n).crB) :
    takeB n u = some (transmit n t (modLink n (fun l => { l with qB := rest }) u)) := by
  simp only [takeB, h]
  exact if_pos (by simp [fits, credits])

/-- A data frame of whole units is its own first part. -/
theorem splitColl_whole {f : Frame} (whole : f.payload.length = 64 * f.units.toNat) : (splitColl f f.units.toNat).1 = f := by
  have units : BitVec.ofNat 6 f.units.toNat = f.units := BitVec.ofNat_toNat ..
  rw [splitColl, units, ← whole, List.take_length]

theorem takeS_some (h : (getLink u n).qS = t :: rest) (some_ : 0 < t.fr.units.toNat)
    (share : 64 * t.fr.units.toNat + (getLink u n).sBeat ≤ sClaim u n) (fits : replayFits (getLink u n) t.fr = true)
    (credits : frameCredits t.fr ≤ (getLink u n).crS) (whole : t.fr.payload.length = 64 * t.fr.units.toNat) :
    takeS n u = some (transmit n t (modLink n (fun l => { l with qS := rest }) u)) := by
  have room : min ((sClaim u n - (getLink u n).sBeat) / 64) t.fr.units.toNat = t.fr.units.toNat := by omega
  have first := splitColl_whole whole
  simp only [takeS, h, room, if_neg (Nat.pos_iff_ne_zero.1 some_), if_true, first]
  exact if_pos (by simp [fits, credits])

theorem feedB_idle (h : u.flt.remap.left = []) : feedB n u = u := by
  rw [feedB]
  split
  · rw [feedRemap, h]
  · rfl

theorem feedB_queued (h : (getLink u n).qB = t :: rest) : feedB n u = u := if_neg (by simp [h])

/-- A link after a replayed frame (R179). -/
def replayLink (f : Frame) (rest : List Frame) (l : Link) : Link :=
  let b := frameBytes f
  { l with
    replayQ := rest, wire := l.wire ++ [.frame (replayed f) (frameWire (replayed f))], blocks := l.blocks + frameBlocks f
    txU := if f.cls = 0 then l.txU + b else l.txU, txS := if f.cls = 1 then l.txS + b else l.txS
    txB := if f.cls = 2 then l.txB + b else l.txB }

theorem sendNext_replay {f : Frame} {fs : List Frame} (quiet_ : (getLink u n).nakOwed = false) (held : (getLink u n).replayQ = f :: fs) :
    sendNext n u = modLink n (replayLink f fs) u := by
  simp only [sendNext, quiet_, Bool.false_eq_true, if_false, held]
  rfl

variable (quiet_ : (getLink u n).nakOwed = false) (fresh : (getLink u n).replayQ = [])
include quiet_ fresh

theorem sendNext_U {w : State} (h : takeU n u = some w) : sendNext n u = w := by
  simp only [sendNext, quiet_, Bool.false_eq_true, if_false, fresh, h]

theorem sendNext_S {w : State} (none_ : (getLink u n).qU = []) (h : takeS n u = some w) : sendNext n u = w := by
  simp only [sendNext, quiet_, Bool.false_eq_true, if_false, fresh, takeU_none none_, holdU_none none_, h]

theorem sendNext_rest (noneU : (getLink u n).qU = []) (noneS : (getLink u n).qS = []) : sendNext n u = sendRest n u := by
  simp only [sendNext, quiet_, Bool.false_eq_true, if_false, fresh, takeU_none noneU, holdU_none noneU, takeS_none noneS, sOver_none noneS]

end

/-! ### The commands -/

section
variable {l : Fin 8} {s : State}

theorem getLink_quiet (n : Nat) (s : State) : getLink (quiet n s) n = { getLink s n with wire := [] } := getLink_modLink_self ..

variable (up : (getLink s l.val).state = .up)
include up

/-- What a frame boundary of an Up link does. -/
theorem frameBoundary_effect {u : State} (h : sendNext l.val (quiet l.val s) = u) :
    ∃ f, exec (.frameBoundary l) s = runCtl f s ∧ f s = u := ⟨_, execFrameBoundary.eq_1 l s, (ifUp_up up _).trans h⟩

/-- A control block at a frame boundary. -/
theorem gives_frameBoundary {g : Link → Link} (h : sendNext l.val (quiet l.val s) = modLink l.val g (quiet l.val s)) :
    Gives (.frameBoundary l) s (modLink l.val (fun y => g { y with wire := [] }) s) := by
  obtain ⟨f, he, hf⟩ := frameBoundary_effect up (h.trans (modLink_modLink ..))
  exact gives_runCtl f _ he hf rfl rfl

/-- A new frame at a frame boundary. -/
theorem frameBoundary_fresh {t : TxFrame} {g : Link → Link} (own : t.from_ = none)
    (h : sendNext l.val (quiet l.val s) = transmit l.val t (modLink l.val g (quiet l.val s)))
    (wire : ∀ y, (g y).wire = y.wire) :
    ∃ s', exec (.frameBoundary l) s = .next s' ∧
      SendsFresh t (g { getLink s l.val with wire := [] }) (getLink s' l.val) ∧
      Uses t (g { getLink s l.val with wire := [] }) (getLink s' l.val) := by
  obtain ⟨f, he, hf⟩ := frameBoundary_effect up h
  obtain ⟨s', given, links⟩ := ctl_links he hf
  have link : getLink (modLink l.val g (quiet l.val s)) l.val = g { getLink s l.val with wire := [] } := by
    rw [getLink_modLink_self, getLink_quiet]
  have sends := transmit_fresh (n := l.val) (t := t) (v := modLink l.val g (quiet l.val s)) own (by rw [link, wire])
  have uses := transmit_uses (n := l.val) (t := t) (v := modLink l.val g (quiet l.val s)) own
  rw [link, ← links] at sends uses
  exact ⟨s', given, sends, uses⟩

/-- Frames that no Ack frees within 2 µs are replayed, as a link error (R179, R181). -/
theorem gives_replayTimeout (some_ : (getLink s l.val).unacked ≠ []) :
    let x := getLink s l.val
    let t := advanceTo (x.ackAt + 2000) s
    Gives (.replayTimeout l) s (modLink l.val (fun y => { y with
      replayQ := x.unacked, replays := x.replays + 1, ackAt := t.clk.fleet, errs := x.errs + 1 }) t) := by
  intro x t
  obtain ⟨c, at_, -, -, -, later⟩ := advanceTo_clock (x.ackAt + 2000) s
  have held : ¬(getLink s l.val).unacked.isEmpty = true := by simpa using some_
  have eq : t = { s with clk := c, upNs := at_ } := later s rfl rfl
  rw [eq]
  refine gives_runCtl _ _ (execReplayTimeout.eq_1 l s) ((ifUp_up up _).trans ((if_neg held).trans ?_)) rfl rfl
  rw [show advanceTo ((getLink s l.val).ackAt + 2000) s = _ from eq, beginReplay, linkError]
  refine (congrArg (modLink l.val _) (if_neg held)).trans ?_
  rw [modLink_modLink]
  exact modLink_congr rfl

end

/-- Settles O35, by the order of a frame boundary. -/
theorem transmitter : Obligations.Transmitter := by
  intro l s n x idle fresh
  have calm : getLink (quiet n s) n = { x with wire := [] } := getLink_quiet n s
  have rest_ (nak : x.nakOwed = false) (replay : x.replayQ = []) (noneU : x.qU = []) (noneS : x.qS = []) :
      sendNext n (quiet n s) = sendRest n (quiet n s) :=
    sendNext_rest (by rw [calm]; exact nak) (by rw [calm]; exact replay) (by rw [calm]; exact noneU) (by rw [calm]; exact noneS)
  have block_ (noneB : x.qB = []) (due : markerDue x = false) (none_ : s.flt.remap.left = []) :
      sendRest n (quiet n s) = sendBlock n (quiet n s) := by
    have due' : ¬markerDue (getLink (quiet n s) n) = true := by
      rw [calm]
      exact Bool.eq_false_iff.1 due
    refine (if_neg due').trans ?_
    rw [feedB_idle (u := quiet n s) none_, takeB_none (by rw [calm]; exact noneB)]
  refine ⟨fun f => ?_, fun down => ?_, fun up nak => ?_, fun f rest up nak replay => ?_,
    fun t rest idle queue own cls share fits credits => ?_, fun t rest idle noneU queue own cls some_ share fits credits whole => ?_,
    fun idle noneU noneS due none_ => ?_, fun t rest idle noneU noneS due queue own cls fits credits => ?_,
    fun idle noneU noneS noneB due none_ => ⟨fun owes => ?_, fun ack owes => ?_⟩, fun up none_ => ?_, fun up some_ => ?_⟩
  · obtain ⟨a, b, c, d, e, g, h, i, j, k, l, m⟩ := headerNum_fields f
    refine ⟨a, b, c, d, e, g, h, i, j, k, l, m, ?_⟩
    rw [frameWire, crcBytes, trailerNum_comm]
  · exact ⟨gives_ifUp_down down _ (execFrameBoundary.eq_1 l s), gives_ifUp_down down _ (execReplayTimeout.eq_1 l s)⟩
  · have nak' : (getLink (quiet n s) n).nakOwed = true := by rw [calm]; exact nak
    have given := gives_frameBoundary (g := fun l => { sayBlock (.nak l.rxSeq) l with nakOwed := false }) up (by
      rw [sendNext, nak']; rfl)
    rw [modLink_congr (g := fun y => { y with nakOwed := false, wire := [.nak x.rxSeq], blocks := x.blocks + 1 }) rfl] at given
    exact given
  · obtain ⟨e, he, hf⟩ := frameBoundary_effect up (sendNext_replay (n := n) (u := quiet n s) (by rw [calm]; exact nak) (by rw [calm]; exact replay))
    obtain ⟨s', given, links, only⟩ := links_answer e he hf ((linksOnly_modLink ..).trans (linksOnly_modLink ..))
    have link := (links n).trans (getLink_modLink_self ..)
    rw [calm] at link
    refine ⟨s', given, ?_, ?_, ?_, ?_, fun m hm => ?_, only⟩
    · rw [link]; rfl
    · rw [link]; rfl
    · rw [link]; rfl
    · rw [link]; rfl
    · rw [links, getLink_modLink_ne _ _ _ _ hm, quiet, getLink_modLink_ne _ _ _ _ hm]
  · obtain ⟨up, nak, replay⟩ := idle
    have goes := takeU_some (n := n) (u := quiet n s) (t := t) (rest := rest) (by rw [calm]; exact queue) (by rw [calm]; exact share)
      (by rw [calm]; exact fits) (by rw [calm]; exact credits)
    obtain ⟨s', given, sends, ⟨qU, qS, qB⟩, uses, -⟩ := frameBoundary_fresh up own
      (sendNext_U (by rw [calm]; exact nak) (by rw [calm]; exact replay) goes) fun _ => rfl
    obtain ⟨crU, uBeat⟩ := uses cls
    exact ⟨s', given, sends, qU, qS, qB, crU, uBeat⟩
  · obtain ⟨up, nak, replay⟩ := idle
    have goes := takeS_some (n := n) (u := quiet n s) (t := t) (rest := rest) (by rw [calm]; exact queue) some_
      (by rw [calm]; exact share) (by rw [calm]; exact fits) (by rw [calm]; exact credits) whole
    obtain ⟨s', given, sends, ⟨-, qS, -⟩, -, uses, -⟩ := frameBoundary_fresh up own
      (sendNext_S (by rw [calm]; exact nak) (by rw [calm]; exact replay) (by rw [calm]; exact noneU) goes) fun _ => rfl
    obtain ⟨crS, sBeat⟩ := uses cls
    exact ⟨s', given, sends, qS, crS, sBeat⟩
  · obtain ⟨up, nak, replay⟩ := idle
    have due' : markerDue (getLink (quiet n s) n) = true := by rw [calm]; exact due
    have given := gives_frameBoundary up ((rest_ nak replay noneU noneS).trans (if_pos due'))
    rw [modLink_congr (g := fun y => { y with wire := [.marker x.lanes (x.blocks / 20)], blocks := x.blocks + 1, marks := x.marks + 1 })
      rfl] at given
    exact given
  · obtain ⟨up, nak, replay⟩ := idle
    have due' : ¬markerDue (getLink (quiet n s) n) = true := by
      rw [calm]
      exact Bool.eq_false_iff.1 due
    have queue' : (getLink (quiet n s) n).qB = t :: rest := by rw [calm]; exact queue
    have goes := takeB_some (n := n) (u := quiet n s) (t := t) (rest := rest) queue' (by rw [calm]; exact fits)
      (by rw [calm]; exact credits)
    obtain ⟨s', given, sends, ⟨-, -, qB⟩, -, -, uses⟩ := frameBoundary_fresh (t := t) (g := fun l => { l with qB := rest }) up own
      ((rest_ nak replay noneU noneS).trans ((if_neg due').trans (by rw [feedB_queued queue', goes]))) fun _ => rfl
    exact ⟨s', given, sends, qB, uses cls⟩
  · obtain ⟨up, nak, replay⟩ := idle
    have owes' : (x.ackOwed || x.owedU + x.owedS + x.owedB != 0) = true := by
      rcases owes with ack | credits
      · rw [ack, Bool.true_or]
      · rw [Bool.or_eq_true, bne_iff_ne]
        exact .inr (Nat.pos_iff_ne_zero.1 credits)
    have given := gives_frameBoundary up ((rest_ nak replay noneU noneS).trans
      ((block_ noneB due none_).trans (if_pos (by rw [calm]; exact owes'))))
    rw [modLink_congr (g := fun y => { y with
      ackOwed := false, owedU := 0, owedS := 0, owedB := 0, blocks := x.blocks + 1
      wire := [.ack ((x.rxSeq + 65535) % 65536) x.owedU x.owedS x.owedB] }) rfl] at given
    exact given
  · obtain ⟨up, nak, replay⟩ := idle
    have given := gives_frameBoundary up ((rest_ nak replay noneU noneS).trans
      ((block_ noneB due none_).trans (if_neg (by rw [calm]; simp [show x.ackOwed = false from ack, show x.owedU + x.owedS + x.owedB = 0 from owes]))))
    rw [modLink_congr (g := fun y => { y with wire := [.idle], blocks := x.blocks + 1 }) rfl] at given
    exact given
  · exact gives_runCtl _ _ (execReplayTimeout.eq_1 l s) ((ifUp_up up _).trans (if_pos (by simpa using none_))) rfl rfl
  · exact gives_replayTimeout up some_

end Sys2Proof.Machine
end

section
/-! PROOFS. The states of a link (R175, R181 to R187, R191), and the width that a training gives (R167, R183). -/

namespace Sys2Proof.Machine

/-! ### A link that fails -/

/-- Of the machine only what the failure of a link changes has changed: links, the frames that were lost with them, the Fault Unit's
flags, the Escapement's look for a parent; postings have been made. -/
def DropsOnly (s t : State) : Prop := t = { s with
  links := t.links, net := { s.net with dropped := t.net.dropped }, ev.queue := t.ev.queue, flt := { s.flt with flags := t.flt.flags }
  esc := t.esc, freeCtr := t.freeCtr }

theorem DropsOnly.trans {s t u : State} (h : DropsOnly s t) (h' : DropsOnly t u) : DropsOnly s u := by
  rw [DropsOnly] at *
  rw [h', h]

theorem DropsOnly.keeps {s t : State} (h : DropsOnly s t) {α : Type} (g : State → α)
    (hg : ∀ (x : State) (l : Table Link) (d : List (Nat × Nat)) (q : List Ev) (f : Nat) (e : Esc) (c : Nat), g { x with
      links := l, net := { x.net with dropped := d }, ev.queue := q, flt := { x.flt with flags := f }, esc := e, freeCtr := c } = g x) :
    g t = g s := by
  rw [DropsOnly] at h
  rw [h, hg]

theorem DropsOnly.mem {s t : State} (h : DropsOnly s t) : t.mem = s.mem := h.keeps _ fun _ _ _ _ _ _ _ => rfl
theorem DropsOnly.tps {s t : State} (h : DropsOnly s t) : t.tps = s.tps := h.keeps _ fun _ _ _ _ _ _ _ => rfl

theorem LinksOnly.drops {s t : State} (h : LinksOnly s t) : DropsOnly s t := by
  rw [LinksOnly] at h
  rw [h]; rfl

/-- Of the machine only the Escapement has changed. -/
def EscOnly (s t : State) : Prop := t = { s with esc := t.esc, freeCtr := t.freeCtr, ev.queue := t.ev.queue }

theorem EscOnly.drops {s t : State} (h : EscOnly s t) : DropsOnly s t := by
  rw [EscOnly] at h
  rw [h]; rfl

theorem EscOnly.link {s t : State} (h : EscOnly s t) (k : Nat) : getLink t k = getLink s k := by
  rw [EscOnly] at h
  rw [h]; rfl

theorem EscOnly.flags {s t : State} (h : EscOnly s t) : t.flt = s.flt := congrArg (·.flt) h

theorem escOnly_setEsc {s t : State} (x : EscState) (h : EscOnly s t) : EscOnly s (setEsc x t) := by
  unfold setEsc
  split
  · exact h
  · rw [EscOnly] at *
    rw [h]; rfl

theorem EscOnly.ite {c : Prop} [Decidable c] {s t u : State} (ht : EscOnly s t) (hu : EscOnly s u) : EscOnly s (if c then t else u) := by
  split
  · exact ht
  · exact hu

theorem escOnly_escPoll (s : State) : EscOnly s (escPoll s) := by
  refine .ite rfl (.ite ?_ ?_)
  · dsimp only
    split
    · exact escOnly_setEsc _ rfl
    · exact .ite (escOnly_setEsc _ rfl) rfl
  · split
    · exact escOnly_setEsc _ rfl
    · rfl

/-- A link that fails (R186): what it held is gone, and it is reported. -/
theorem dropsOnly_linkFailed (n stepNo : Nat) (s : State) : DropsOnly s (linkFailed n stepNo s) := by
  have moved (us : List Frame) : LinksOnly s (us.foldl (fun s f => match altLink s f.dst.toNat n with
      | some m => enqueue m { fr := f } s
      | none => s) s) := by
    refine linksOnly_foldl _ (fun t f => ?_) _ _
    split
    · exact linksOnly_enqueue ..
    · exact .refl t
  have noted (fs : List Frame) (t : State) : DropsOnly t (noteDropped fs t) := rfl
  have flagged (t : State) : DropsOnly t (post (0x10 + n) 4 2 (pl1 stepNo) { t with flt.flags := t.flt.flags ||| 256 }) := rfl
  exact (((((moved _).trans (linksOnly_freeFrames ..)).drops.trans (noted ..)).trans (linksOnly_modLink ..).drops).trans (flagged _)).trans
    (linksOnly_setLinkState ..).drops

theorem getLink_modLink_flt (n : Nat) (g : Link → Link) (s : State) (f : Flt) :
    getLink { modLink n g s with flt := f } n = g (getLink s n) := getLink_modLink_self n g s

theorem linkFailed_link (n stepNo : Nat) (s : State) : (getLink (linkFailed n stepNo s) n).state = .failed ∧
    (getLink (linkFailed n stepNo s) n).unacked = [] ∧ (getLink (linkFailed n stepNo s) n).qS = [] ∧
    (getLink (linkFailed n stepNo s) n).qB = [] ∧ (linkFailed n stepNo s).flt.flags &&& 256 = 256 := by
  rw [linkFailed]
  dsimp only
  refine ⟨?_, ?_, ?_, ?_, ?_⟩
  · rw [setLinkState_self (by decide)]
  · rw [setLinkState_self (by decide), getLink_post, getLink_modLink_flt]
  · rw [setLinkState_self (by decide), getLink_post, getLink_modLink_flt]
  · rw [setLinkState_self (by decide), getLink_post, getLink_modLink_flt]
  · rw [show (setLinkState n .failed _).flt = _ from congrArg State.flt (linksOnly_setLinkState ..)]
    exact or_and_self _ _

/-- What an answer shows of a link's failure. -/
theorem linkFails_answer {s v u : State} {n stepNo : Nat} (before : DropsOnly s v) (esc : EscOnly (linkFailed n stepNo v) u) :
    LinkFails s { collect u with pending := s.pending } n := by
  obtain ⟨state, unacked, qS, qB, flag⟩ := linkFailed_link n stepNo v
  have drops := (before.trans (dropsOnly_linkFailed n stepNo v)).trans esc.drops
  have own := answer_reported s.pending u
  have link (k : Nat) : getLink { collect u with pending := s.pending } k = getLink (linkFailed n stepNo v) k :=
    (congrArg (fun t : Table Link => tget ({} : Link) t k) (collect_links u)).trans (esc.link k)
  refine ⟨by rw [link, state], by rw [link, unacked], ?_, ?_, ?_⟩
  · rw [link, qS, qB]
    exact ⟨rfl, rfl⟩
  · exact collect_flags u (by rw [esc.flags]; exact flag)
  · have links : ({ collect u with pending := s.pending } : State).links = u.links := collect_links u
    have net : ({ collect u with pending := s.pending } : State).net = u.net := collect_net u
    have esc_ : ({ collect u with pending := s.pending } : State).esc = u.esc := collect_esc u
    have ctr : ({ collect u with pending := s.pending } : State).freeCtr = u.freeCtr := collect_freeCtr u
    generalize ({ collect u with pending := s.pending } : State) = s' at own links net esc_ ctr ⊢
    rw [links, net, esc_, ctr]
    refine own.trans ?_
    rw [DropsOnly] at drops
    exact congrArg (fun y : State => { reported y s' with pending := s.pending }) drops

/-! ### The commands that fail a link -/

section
variable {l : Fin 8} {s : State}

theorem trainingFailed_answer (k : BitVec 8) (training : (getLink s l.val).state = .train) :
    ∃ s', exec (.trainingFailed l k) s = .next s' ∧ LinkFails s s' l.val := by
  have fails := linkFails_answer (s := s) (v := s) rfl (escOnly_escPoll (linkFailed l.val k.toNat s))
  have drops := (dropsOnly_linkFailed l.val k.toNat s).trans (escOnly_escPoll _).drops
  exact ⟨_, gives_runCtl _ _ (execTrainingFailed.eq_1 l k s) (if_pos (by simp [training])) drops.mem drops.tps, fails⟩

theorem linksOnly_postIf (c : Bool) (src code sev : Nat) (p : List Byte) (s : State) : LinksOnly s (postIf c src code sev p s) :=
  linksOnly_ite (linksOnly_post ..) (.refl s)

/-- A partner that R187 does not permit fails the link. -/
theorem meetPartner_bad {n : Nat} {p : LinkParams} (bad : partnerOk s (getLink s n).role p.chip.toNat p.role.toNat = false) :
    ∃ v, LinksOnly s v ∧ meetPartner n p s = linkFailed n 5 v := by
  refine ⟨_, ?_, if_pos (by rw [bad]; rfl)⟩
  exact .trans (t := modLink n (fun y => { y with mismatch := true, partner := p.chip.toNat }) s) rfl (linksOnly_postIf ..)

theorem trainingComplete_fails {lanes : BitVec 4} {p : LinkParams} (training : (getLink s l.val).state = .train)
    (free : boundary s = false) (bad : (widthOf (cfgVal s 0x0401) lanes.toNat).1 = 0 ∨
      partnerOk s (getLink s l.val).role p.chip.toNat p.role.toNat = false) :
    ∃ s', exec (.trainingComplete l lanes p) s = .next s' ∧ LinkFails s s' l.val := by
  have going : ¬((getLink s l.val).state != .train || boundary s) = true := by simp [training, free]
  by_cases none_ : (widthOf (cfgVal s 0x0401) lanes.toNat).1 = 0
  · have drops := (dropsOnly_linkFailed l.val 3 s).trans (escOnly_escPoll _).drops
    exact ⟨_, gives_runCtl _ _ (execTrainingComplete.eq_1 l lanes p s) ((if_neg going).trans (if_pos none_)) drops.mem drops.tps,
      linkFails_answer (v := s) rfl (escOnly_escPoll _)⟩
  · have other := bad.resolve_left none_
    obtain ⟨v, links, fails⟩ := meetPartner_bad other
    have drops := (links.drops.trans (dropsOnly_linkFailed l.val 5 v)).trans (escOnly_escPoll _).drops
    refine ⟨_, gives_runCtl _ _ (execTrainingComplete.eq_1 l lanes p s) ((if_neg going).trans ((if_neg none_).trans
      ((if_pos (by rw [other]; rfl)).trans (congrArg escPoll fails)))) drops.mem drops.tps, linkFails_answer links.drops (escOnly_escPoll _)⟩

theorem fastRetrainComplete_fails {p : LinkParams} (retraining : (getLink s l.val).state = .fastRetrain)
    (bad : partnerOk s (getLink s l.val).role p.chip.toNat p.role.toNat = false) :
    ∃ s', exec (.fastRetrainComplete l p) s = .next s' ∧ LinkFails s s' l.val := by
  have bad' : partnerOk (modLink l.val (fun x => { x with lastFast := some s.clk.fleet }) s)
      (getLink (modLink l.val (fun x => { x with lastFast := some s.clk.fleet }) s) l.val).role p.chip.toNat p.role.toNat = false := by
    rw [getLink_modLink_self]
    exact bad
  obtain ⟨v, links, fails⟩ := meetPartner_bad bad'
  have before := (linksOnly_modLink l.val (fun x => { x with lastFast := some s.clk.fleet }) s).trans links
  have drops := before.drops.trans (dropsOnly_linkFailed l.val 5 v)
  exact ⟨_, gives_runCtl _ _ (execFastRetrainComplete.eq_1 l p s) ((if_pos (by simp [retraining])).trans fails) drops.mem drops.tps,
    linkFails_answer before.drops rfl⟩

end

/-! ### A link that comes Up -/

/-- A link but for what waits on it and for the frames that found no route at it. -/
def Link.body (l : Link) : Link := { l.core with staleDrop := 0 }

theorem body_core (l : Link) : l.core.body = l.body := rfl

/-- Links that differ in what waits on them, and in what found no route, alone. -/
def BodiesOf (s t : State) : Prop := ∀ k, (getLink t k).body = (getLink s k).body

theorem CoresOf.bodies {s t : State} (h : CoresOf s t) : BodiesOf s t := fun k => by rw [← body_core, h k, body_core]

theorem bodiesOf_sendVia (rt : Table Nat) (f : Frame) (s : State) : BodiesOf s (sendVia rt f s) := by
  unfold sendVia
  split
  · exact (coresOf_enqueue _ _ _).bodies
  · intro k
    rw [frameDiscard, getLink_post]
    by_cases hk : k = 0
    · rw [hk, getLink_modLink_self]
      rfl
    · rw [getLink_modLink_ne _ _ _ _ hk]

theorem bodiesOf_checkRemap (s : State) : BodiesOf s (checkRemap s) := by
  unfold checkRemap
  dsimp only
  split
  · exact (bodiesOf_sendVia _ _ _ :)
  · exact fun _ => rfl

/-- What waits on link m goes to link n: no link changes in anything else. -/
theorem coresOf_moveTo (m n : Nat) (s : State) : CoresOf s (moveTo m n s) :=
  CoresOf.trans (coresOf_modLink rfl) (coresOf_foldl _ (fun _ _ => coresOf_enqueue _ _ _) _ _)

theorem coresOf_drainTo (n : Nat) (s : State) : CoresOf s (drainTo n s) := by
  refine coresOf_foldl _ (fun t m => ?_) _ _
  split
  · exact fun _ => rfl
  · exact coresOf_moveTo m n t

/-- A link other than `n` loses at most waiting U and B frames, and none where it is Up. -/
def Drained (n : Nat) (s t : State) : Prop := ∀ m, m ≠ n →
  getLink t m = { getLink s m with qU := (getLink t m).qU, qB := (getLink t m).qB, uExcess := (getLink t m).uExcess } ∧
  ((getLink s m).state = .up → getLink t m = getLink s m)

theorem Drained.trans {n : Nat} {s t u : State} (h : Drained n s t) (h' : Drained n t u) : Drained n s u := by
  intro m hm
  obtain ⟨a, b⟩ := h m hm
  obtain ⟨c, d⟩ := h' m hm
  refine ⟨?_, fun up => (d (by rw [b up]; exact up)).trans (b up)⟩
  rw [c, a]

theorem drained_foldl {β : Type} {n : Nat} (g : State → β → State) (hg : ∀ s x, Drained n s (g s x)) (xs : List β) (s : State) :
    Drained n s (xs.foldl g s) := by
  induction xs generalizing s with
  | nil => exact fun _ _ => ⟨rfl, fun _ => rfl⟩
  | cons x xs ih => exact (hg s x).trans (ih _)

/-- Links other than `n` are as before. -/
theorem drained_of_same {n : Nat} {s t : State} (h : ∀ m, m ≠ n → getLink t m = getLink s m) : Drained n s t := by
  intro m hm
  rw [h m hm]
  exact ⟨rfl, fun _ => rfl⟩

theorem drained_drainTo (n : Nat) (s : State) : Drained n s (drainTo n s) := by
  refine drained_foldl _ (fun t m => ?_) _ _
  split
  · exact drained_of_same fun _ _ => rfl
  · next waits =>
    have down : ¬linkUp t m = true := fun up => waits (by rw [up, Bool.or_true])
    refine Drained.trans (t := modLink m _ t) ?_ (drained_foldl _ (fun _ _ => drained_of_same fun k hk => getLink_modLink_ne _ _ _ _ hk) _ _)
    intro k hk
    by_cases same : k = m
    · rw [same, getLink_modLink_self]
      exact ⟨rfl, fun up => absurd ((linkUp_iff t m).2 up) down⟩
    · rw [getLink_modLink_ne _ _ _ _ same]
      exact ⟨rfl, fun _ => rfl⟩

/-- What of a link the parameter exchange settles (R175, R184). -/
theorem exchange_link {n : Nat} {p : LinkParams} {s : State} :
    let x := getLink s n
    let z := getLink (exchange n p s) n
    z.state = x.state ∧ z.gap = false ∧ z.partner = p.chip.toNat ∧ z.heard = some p ∧ z.replayQ = z.unacked ∧ z.width = x.width ∧
    z.lanes = x.lanes ∧ (x.unacked = [] → z.crU = min p.freeU 16 ∧ z.crS = min p.freeS 512 ∧ z.crB = min p.freeB 256) := by
  intro x z
  have body : (getLink (takeAck n (p.nextSeq.toNat + 65535) s) n).body = _ := bodiesOf_checkRemap _ n
  rw [getLink_modLink_self] at body
  have state := congrArg Link.state body
  have width := congrArg Link.width body
  have lanes := congrArg Link.lanes body
  have unacked := congrArg Link.unacked body
  have link : z = _ := getLink_modLink_self ..
  clear_value z
  subst link
  refine ⟨state, rfl, rfl, rfl, rfl, width, lanes, fun none_ => ?_⟩
  have held : (getLink (takeAck n (p.nextSeq.toNat + 65535) s) n).unacked = [] := by
    refine Eq.trans unacked ?_
    show List.dropWhile _ x.unacked = []
    rw [none_, List.dropWhile_nil]
  simp [replayCredits, held, sumNat, bufferUnits]

theorem setLinkState_up {n : Nat} {s : State} (down : (getLink s n).state ≠ .up) :
    getLink (setLinkState n .up s) n = { getLink s n with state := .up, errs := 0 } := by
  rw [setLinkState, if_neg down, getLink_post, getLink_modLink_self]
  rfl

/-- A link brought Up with its partner's parameters, with the frames that waited for it. -/
def bringUp (n : Nat) (p : LinkParams) (s : State) : State := drainTo n (setLinkState n .up (exchange n p s))

theorem takesOnly_bringUp (n : Nat) (p : LinkParams) (s : State) : TakesOnly s (bringUp n p s) := by
  have moved (m : Nat) (t : State) : LinksOnly t (moveTo m n t) :=
    (linksOnly_modLink ..).trans (linksOnly_foldl _ (fun _ _ => linksOnly_enqueue ..) _ _)
  have drained (t : State) : LinksOnly t (drainTo n t) := linksOnly_foldl _ (fun t m => linksOnly_ite (.refl t) (moved m t)) _ _
  exact (((takesOnly_takeAck ..).trans (linksOnly_modLink ..).takes).trans (linksOnly_setLinkState ..).takes).trans (drained _).takes

theorem drained_bringUp {n : Nat} {p : LinkParams} {s : State} (idle : s.flt.remap.source = false) : Drained n s (bringUp n p s) := by
  refine Drained.trans (drained_of_same fun m hm => ?_) (drained_drainTo _ _)
  rw [setLinkState_ne _ _ hm, exchange, getLink_modLink_ne _ _ _ _ hm, takeAck_eq _ _ idle, getLink_modLink_ne _ _ _ _ hm]

/-- The link after it has come Up. -/
theorem bringUp_link {n : Nat} {p : LinkParams} {s : State} (down : (getLink s n).state ≠ .up) :
    let x := getLink s n
    let z := getLink (bringUp n p s) n
    (z.state = .up ∧ z.errs = 0 ∧ z.gap = false) ∧ (z.partner = p.chip.toNat ∧ z.heard = some p) ∧
    (x.unacked = [] → z.crU = min p.freeU 16 ∧ z.crS = min p.freeS 512 ∧ z.crB = min p.freeB 256) ∧
    z.replayQ = z.unacked ∧ z.width = x.width ∧ z.lanes = x.lanes := by
  intro x z
  obtain ⟨state, gap, partner, heard, replay, width, lanes, credits⟩ := exchange_link (n := n) (p := p) (s := s)
  have core : z.core = (getLink (setLinkState n .up (exchange n p s)) n).core := coresOf_drainTo _ _ n
  rw [setLinkState_up (by rw [state]; exact down)] at core
  generalize getLink (exchange n p s) n = y at *
  have read {α : Type} (f : Link → α) (hf : ∀ l : Link, f l.core = f l) : f z = f { y with state := .up, errs := 0 } := by
    rw [← hf, core, hf]
  have crU := read Link.crU fun _ => rfl
  have crS := read Link.crS fun _ => rfl
  have crB := read Link.crB fun _ => rfl
  refine ⟨⟨read Link.state fun _ => rfl, read Link.errs fun _ => rfl, (read Link.gap fun _ => rfl).trans gap⟩,
    ⟨(read Link.partner fun _ => rfl).trans partner, (read Link.heard fun _ => rfl).trans heard⟩, fun none_ => ?_, ?_,
    (read Link.width fun _ => rfl).trans width, (read Link.lanes fun _ => rfl).trans lanes⟩
  · rw [crU, crS, crB]
    exact credits none_
  · rw [read Link.replayQ fun _ => rfl, read Link.unacked fun _ => rfl]
    exact replay

theorem meetPartner_good {n : Nat} {p : LinkParams} {s : State} (ok : partnerOk s (getLink s n).role p.chip.toNat p.role.toNat = true) :
    meetPartner n p s = escPoll (bringUp n p (modLink n (fun y => { y with everUp := true, mismatch := false }) s)) :=
  if_neg (by rw [ok]; decide)

/-- The command that lets a link meet its partner: `v` is the state with the link's own change made, `g`. -/
theorem comesUp_answer {i : Instr} {n : Nat} {p : LinkParams} {s v : State} {g : Link → Link} {f : State → State}
    (hi : exec i s = runCtl f s) (hf : f s = meetPartner n p v) (own : LinksOnly s v) (link : ∀ k, getLink v k = getLink (modLink n g s) k)
    (down : (getLink s n).state ≠ .up) (ok : partnerOk s (getLink s n).role p.chip.toNat p.role.toNat = true)
    (keeps : ∀ y, (g y).state = y.state ∧ (g y).role = y.role ∧ (g y).unacked = y.unacked) :
    ∃ s', exec i s = .next s' ∧ LinkComesUp s s' n p ∧ (getLink s' n).width = (g (getLink s n)).width ∧
      (getLink s' n).lanes = (g (getLink s n)).lanes := by
  let w := modLink n (fun y => { y with everUp := true, mismatch := false }) v
  have linkN : getLink v n = g (getLink s n) := (link n).trans (getLink_modLink_self ..)
  have linkW : getLink w n = { g (getLink s n) with everUp := true, mismatch := false } := by
    rw [getLink_modLink_self, linkN]
  obtain ⟨state, role, unacked⟩ := keeps (getLink s n)
  have ok' : partnerOk v (getLink v n).role p.chip.toNat p.role.toNat = true := by
    rw [linkN, role]
    exact (own.takes.keeps (partnerOk · (getLink s n).role p.chip.toNat p.role.toNat) fun _ _ _ _ _ => rfl).trans ok
  obtain ⟨up, partner, credits, replay, width, lanes⟩ := bringUp_link (n := n) (p := p) (s := w) (by rw [linkW]; exact state.trans_ne down)
  have part := (own.trans (linksOnly_modLink n (fun y => { y with everUp := true, mismatch := false }) v)).takes.trans (takesOnly_bringUp n p w)
  have esc := escOnly_escPoll (bringUp n p w)
  have same : (escPoll (bringUp n p w)).mem = s.mem ∧ (escPoll (bringUp n p w)).tps = s.tps ∧ (escPoll (bringUp n p w)).jobs = s.jobs :=
    ⟨esc.drops.mem.trans part.mem, esc.drops.tps.trans part.tps, (esc.drops.keeps (·.jobs) fun _ _ _ _ _ _ _ => rfl).trans part.jobs⟩
  obtain ⟨mem, tps, jobs⟩ := same
  have given := gives_runCtl f _ hi (hf.trans (meetPartner_good ok')) mem tps
  have shown (k : Nat) : getLink { collect (escPoll (bringUp n p w)) with pending := s.pending } k = getLink (bringUp n p w) k :=
    (congrArg (fun t : Table Link => tget ({} : Link) t k) (collect_links _)).trans (esc.link k)
  rw [linkW] at credits width lanes
  refine ⟨_, given, ⟨?_, ?_, fun none_ => ?_, ?_, fun m hm idle => ?_, ?_⟩, ?_, ?_⟩
  · rw [shown]; exact up
  · rw [shown]; exact partner
  · rw [shown]; exact credits (unacked.trans none_)
  · rw [shown]; exact replay
  · have before : getLink w m = getLink s m := by
      rw [getLink_modLink_ne _ _ _ _ hm, link, getLink_modLink_ne _ _ _ _ hm]
    have drained := drained_bringUp (n := n) (p := p) (s := w) ((congrArg (·.flt.remap.source) own).trans idle) m hm
    rw [before] at drained
    rw [shown]
    exact drained
  · exact ⟨(collect_mem _).trans mem, (collect_jobs _).trans jobs⟩
  · rw [shown]; exact width
  · rw [shown]; exact lanes

section
variable {l : Fin 8} {s : State}

theorem getLink_postIf (c : Bool) (src code sev : Nat) (p : List Byte) (s : State) (k : Nat) :
    getLink (postIf c src code sev p s) k = getLink s k := by
  unfold postIf
  split <;> rfl

theorem trainingComplete_up {lanes : BitVec 4} {p : LinkParams} (training : (getLink s l.val).state = .train) (free : boundary s = false)
    (wide : (widthOf (cfgVal s 0x0401) lanes.toNat).1 ≠ 0) (ok : partnerOk s (getLink s l.val).role p.chip.toNat p.role.toNat = true) :
    ∃ s', exec (.trainingComplete l lanes p) s = .next s' ∧ LinkComesUp s s' l.val p ∧
      (getLink s' l.val).width = (widthOf (cfgVal s 0x0401) lanes.toNat).1 ∧
      (getLink s' l.val).lanes = (widthOf (cfgVal s 0x0401) lanes.toNat).2 := by
  have going : ¬((getLink s l.val).state != .train || boundary s) = true := by simp [training, free]
  exact comesUp_answer
    (g := fun y => { y with width := (widthOf (cfgVal s 0x0401) lanes.toNat).1, lanes := (widthOf (cfgVal s 0x0401) lanes.toNat).2 })
    (execTrainingComplete.eq_1 l lanes p s) ((if_neg going).trans ((if_neg wide).trans (if_neg (by rw [ok]; decide))))
    (.trans (t := modLink l.val _ s) rfl (linksOnly_postIf ..)) (fun k => getLink_postIf ..) (by rw [training]; decide) ok
    fun _ => ⟨rfl, rfl, rfl⟩

theorem fastRetrainComplete_up {p : LinkParams} (retraining : (getLink s l.val).state = .fastRetrain)
    (ok : partnerOk s (getLink s l.val).role p.chip.toNat p.role.toNat = true) :
    ∃ s', exec (.fastRetrainComplete l p) s = .next s' ∧ LinkComesUp s s' l.val p := by
  obtain ⟨s', given, up, -⟩ := comesUp_answer (i := .fastRetrainComplete l p) (n := l.val) (g := fun x => { x with lastFast := some s.clk.fleet })
    (execFastRetrainComplete.eq_1 l p s) (if_pos (by simp [retraining])) rfl (fun k => rfl) (by rw [retraining]; decide) ok
    fun _ => ⟨rfl, rfl, rfl⟩
  exact ⟨s', given, up⟩

/-! ### Retrains (R182, R191) -/

theorem Link.core_state (l : Link) : l.core.state = l.state := rfl

theorem beginTrain_state (n : Nat) (own : Bool) (s : State) : (getLink (beginTrain n own s) n).state = .train := by
  rw [← Link.core_state, beginTrain_core]

theorem beginFast_state (n : Nat) (own : Bool) (s : State) : (getLink (beginFast n own s) n).state = .fastRetrain := by
  rw [← Link.core_state, beginFast_core]

/-- A command whose effect on links alone takes a link to a state. -/
theorem linkGoes_answer {i : Instr} {n : Nat} {u : State} {st : LinkState} (f : State → State) (hi : exec i s = runCtl f s) (hf : f s = u)
    (only : LinksOnly s u) (state : (getLink u n).state = st) : ∃ s', exec i s = .next s' ∧ LinkGoes s s' n st := by
  obtain ⟨s', given, links, rest⟩ := links_answer f hi hf only
  exact ⟨s', given, by rw [links, state], rest⟩

theorem linksOnly_quiet (n : Nat) (s : State) : LinksOnly s (quiet n s) := rfl

theorem writeLkCmd_failed {n v : Nat} (hv : v % 4 ≠ 0) (failed : (getLink s n).state = .failed) : writeLkCmd n v s = beginTrain n true s := by
  rw [writeLkCmd]
  simp only [if_neg hv, failed, beq_self_eq_true, if_true]

theorem writeLkCmd_up {n v : Nat} (hv : v % 4 ≠ 0) (up : (getLink s n).state = .up) :
    writeLkCmd n v s = if bitAt v 1 then beginTrain n true (quiet n s) else beginFast n true (quiet n s) := by
  rw [writeLkCmd]
  simp only [if_neg hv, up]
  rfl

theorem writeLkCmd_other {n v : Nat} (other : (getLink s n).state = .off ∨ (getLink s n).state = .train ∨ (getLink s n).state = .fastRetrain) :
    writeLkCmd n v s = s := by
  rw [writeLkCmd]
  rcases other with h | h | h <;> simp [h]

end

/-! ### The width of a training (R167, R183) -/

/-- A configured maximum of four lanes or more is one of four. -/
theorem widthOf_min (mx n : Nat) : widthOf mx n = widthOf (min mx 4) n := by
  have two : 2 ≤ min mx 4 ↔ 2 ≤ mx := by omega
  have four : 4 ≤ min mx 4 ↔ 4 ≤ mx := by omega
  simp only [widthOf, two, four]

section
variable (mx : Fin 5) (lanes : BitVec 4)

/-- The width is within the maximum, and none without a lane that passes. -/
theorem widthOf_within : mx.val = 1 ∨ mx.val = 2 ∨ mx.val = 4 →
    (widthOf mx.val lanes.toNat).1 ≤ mx.val ∧ ((widthOf mx.val lanes.toNat).1 = 0 ↔ lanes = 0) := by
  revert mx lanes
  decide

theorem widthOf_passing : (widthOf mx.val lanes.toNat).2 &&& lanes.toNat = (widthOf mx.val lanes.toNat).2 := by
  revert mx lanes
  decide

theorem widthOf_four : 4 ≤ mx.val → lanes.getLsbD 0 = true → lanes.getLsbD 1 = true → lanes.getLsbD 2 = true → lanes.getLsbD 3 = true →
    widthOf mx.val lanes.toNat = (4, 15) := by
  revert mx lanes
  decide

theorem widthOf_low : 2 ≤ mx.val → lanes.getLsbD 0 = true → lanes.getLsbD 1 = true →
    mx.val < 4 ∨ ¬lanes.getLsbD 2 = true ∨ ¬lanes.getLsbD 3 = true → widthOf mx.val lanes.toNat = (2, 3) := by
  revert mx lanes
  decide

theorem widthOf_high : 2 ≤ mx.val → lanes.getLsbD 2 = true → lanes.getLsbD 3 = true →
    ¬lanes.getLsbD 0 = true ∨ ¬lanes.getLsbD 1 = true → widthOf mx.val lanes.toNat = (2, 12) := by
  revert mx lanes
  decide

theorem widthOf_one (k : Fin 4) : lanes.getLsbD k.val = true → (∀ j : Fin 4, j < k → ¬lanes.getLsbD j.val = true) →
    mx.val < 2 ∨ ((¬lanes.getLsbD 0 = true ∨ ¬lanes.getLsbD 1 = true) ∧ (¬lanes.getLsbD 2 = true ∨ ¬lanes.getLsbD 3 = true)) →
    widthOf mx.val lanes.toNat = (1, 2 ^ k.val) := by
  revert mx lanes k
  decide

end

/-- The width of a training, from its lanes. -/
theorem widthOf_lanes (mx : Nat) (lanes : BitVec 4) :
    let w := widthOf mx lanes.toNat
    let has := fun k : Nat => lanes.getLsbD k = true
    (mx = 1 ∨ mx = 2 ∨ mx = 4 → w.1 ≤ mx ∧ (w.1 = 0 ↔ lanes = 0) ∧ ∀ k, bitAt w.2 k = true → has k) ∧
    (4 ≤ mx → has 0 → has 1 → has 2 → has 3 → w = (4, 15)) ∧
    (2 ≤ mx → has 0 → has 1 → mx < 4 ∨ ¬has 2 ∨ ¬has 3 → w = (2, 3)) ∧
    (2 ≤ mx → has 2 → has 3 → ¬has 0 ∨ ¬has 1 → w = (2, 12)) ∧
    (∀ k, has k → (∀ j, j < k → ¬has j) → mx < 2 ∨ ((¬has 0 ∨ ¬has 1) ∧ (¬has 2 ∨ ¬has 3)) → w = (1, 2 ^ k)) := by
  intro w has
  have capped : w = widthOf (min mx 4) lanes.toNat := widthOf_min ..
  have small : min mx 4 < 5 := by omega
  clear_value w
  subst capped
  refine ⟨fun hm => ?_, fun h => widthOf_four ⟨_, small⟩ lanes (Nat.le_min.2 ⟨h, Nat.le_refl 4⟩),
    fun h h0 h1 h2 => widthOf_low ⟨_, small⟩ lanes (Nat.le_min.2 ⟨h, by decide⟩) h0 h1 (h2.imp_left fun h => by dsimp only; omega),
    fun h => widthOf_high ⟨_, small⟩ lanes (Nat.le_min.2 ⟨h, by decide⟩), fun k hk first h => ?_⟩
  · have same : min mx 4 = mx := by omega
    obtain ⟨most, none_⟩ := widthOf_within ⟨_, small⟩ lanes (by dsimp only; omega)
    refine ⟨most.trans_eq same, none_, fun k hk => ?_⟩
    rw [bitAt, ← widthOf_passing ⟨_, small⟩, Nat.testBit_and, Bool.and_eq_true] at hk
    exact hk.2
  · exact widthOf_one ⟨_, small⟩ lanes ⟨k, BitVec.lt_of_getLsbD hk⟩ hk (fun j hj => first j.val hj)
      (h.imp_left fun h => by dsimp only; omega)

/-- Settles O36, state by state. -/
theorem linkStates : Obligations.LinkStates := by
  refine ⟨fun l lanes lane p k s => ?_, widthOf_lanes⟩
  intro n x ok wd
  refine ⟨trainingComplete_fails, trainingComplete_up, trainingFailed_answer k, fastRetrainComplete_up, fastRetrainComplete_fails,
    fun retraining => ?_, fun failed => ?_, fun failed => ?_, fun failed => ?_, fun up => ?_, fun up => ?_, fun up => ?_,
    fun up active => ?_, fun up idle => ?_, fun other => ⟨?_, ?_⟩⟩
  · exact linkGoes_answer _ (execFastRetrainTimeout.eq_1 l s) (if_pos (by simp [show (getLink s l.val).state = _ from retraining]))
      (linksOnly_beginTrain ..) (beginTrain_state ..)
  · exact linkGoes_answer _ (execFailedRetry.eq_1 l s) (if_pos (by simp [show (getLink s l.val).state = _ from failed]))
      (linksOnly_beginTrain ..) (beginTrain_state ..)
  · exact linkGoes_answer _ (execFastRetrain.eq_1 l s) (writeLkCmd_failed (by decide) failed) (linksOnly_beginTrain ..) (beginTrain_state ..)
  · exact linkGoes_answer _ (execFullTraining.eq_1 l s) (writeLkCmd_failed (by decide) failed) (linksOnly_beginTrain ..) (beginTrain_state ..)
  · exact linkGoes_answer _ (execLossOfBlockLock.eq_1 l s) (ifUp_up up _)
      ((linksOnly_quiet ..).trans (linksOnly_beginFast ..)) (beginFast_state ..)
  · exact linkGoes_answer _ (execFastRetrain.eq_1 l s) (writeLkCmd_up (by decide) up)
      ((linksOnly_quiet ..).trans (linksOnly_beginFast ..)) (beginFast_state ..)
  · exact linkGoes_answer _ (execFullTraining.eq_1 l s) (writeLkCmd_up (by decide) up)
      ((linksOnly_quiet ..).trans (linksOnly_beginTrain ..)) (beginTrain_state ..)
  · exact linkGoes_answer _ (execLossOfSignal.eq_1 l lane s) ((ifUp_up up _).trans (if_pos active))
      ((linksOnly_quiet ..).trans (linksOnly_beginTrain ..)) (beginTrain_state ..)
  · exact gives_runCtl _ _ (execLossOfSignal.eq_1 l lane s) ((ifUp_up up _).trans (if_neg (Bool.eq_false_iff.1 idle))) rfl rfl
  · exact gives_runCtl _ _ (execFastRetrain.eq_1 l s) (writeLkCmd_other other) rfl rfl
  · exact gives_runCtl _ _ (execFullTraining.eq_1 l s) (writeLkCmd_other other) rfl rfl

end Sys2Proof.Machine
end

section
/-! PROOFS. What the work of jobs leaves (R53, R91, R240 to R253, R370): faults, charges, switches and grants change the jobs, their
partitions, accounts, streams and TPs, and what they have under way; the rest of the machine is as it was. -/

namespace Sys2Proof.Machine

/-- Of the machine only jobs and what belongs to them have changed, and postings have been made. -/
def WorkOnly (s t : State) : Prop := t = { s with
  freeCtr := t.freeCtr, mem := t.mem, ecc := t.ecc, hbm := { s.hbm with deferred := t.hbm.deferred }, vat := t.vat, ev.queue := t.ev.queue
  parts := t.parts, stms := t.stms, jobs := t.jobs, accts := t.accts, tps := t.tps, cls := t.cls
  blk := { s.blk with queues := t.blk.queues }, cul := { s.cul with prog := t.cul.prog }, streams := t.streams
  net := { s.net with remotes := t.net.remotes }, ring := t.ring, tel := t.tel }

theorem WorkOnly.refl (s : State) : WorkOnly s s := rfl

theorem WorkOnly.trans {s t u : State} (h : WorkOnly s t) (h' : WorkOnly t u) : WorkOnly s u := by
  rw [WorkOnly] at *
  rw [h', h]

theorem WorkOnly.after {s t u : State} (h : WorkOnly t u) (h' : WorkOnly s t) : WorkOnly s u := h'.trans h

theorem WorkOnly.ite {c : Prop} [Decidable c] {s t u : State} (ht : WorkOnly s t) (hu : WorkOnly s u) : WorkOnly s (if c then t else u) := by
  split
  · exact ht
  · exact hu

theorem WorkOnly.foldl {β : Type} (g : State → β → State) (hg : ∀ s x, WorkOnly s (g s x)) (xs : List β) (s : State) :
    WorkOnly s (xs.foldl g s) := by
  induction xs generalizing s with
  | nil => exact .refl s
  | cons x xs ih => exact (hg s x).trans (ih _)

/-- What is read of nothing that belongs to jobs is as before. -/
theorem WorkOnly.keeps {s t : State} (h : WorkOnly s t) {α : Type} (g : State → α)
    (hg : ∀ (x : State) a m e d v q p st j ac tp cl bq cp sm rm r te, g { x with
      freeCtr := a, mem := m, ecc := e, hbm := { x.hbm with deferred := d }, vat := v, ev.queue := q, parts := p, stms := st
      jobs := j, accts := ac, tps := tp, cls := cl, blk := { x.blk with queues := bq }, cul := { x.cul with prog := cp }, streams := sm
      net := { x.net with remotes := rm }, ring := r, tel := te } = g x) : g t = g s := by
  rw [WorkOnly] at h
  rw [h, hg]

theorem WorkOnly.flt {s t : State} (h : WorkOnly s t) : t.flt = s.flt := congrArg (·.flt) h
theorem WorkOnly.clk {s t : State} (h : WorkOnly s t) : t.clk = s.clk := congrArg (·.clk) h
theorem WorkOnly.cfg {s t : State} (h : WorkOnly s t) : t.cfg = s.cfg := congrArg (·.cfg) h
theorem WorkOnly.links {s t : State} (h : WorkOnly s t) : t.links = s.links := congrArg (·.links) h

theorem workOnly_modAcct (a : Nat) (f : Account → Account) (s : State) : WorkOnly s (modAcct a f s) := rfl
theorem workOnly_modJob (j : Nat) (f : Job → Job) (s : State) : WorkOnly s (modJob j f s) := rfl
theorem workOnly_modPart (p : Nat) (f : Part → Part) (s : State) : WorkOnly s (modPart p f s) := rfl
theorem workOnly_modStm (p : Nat) (f : Stm → Stm) (s : State) : WorkOnly s (modStm p f s) := rfl
theorem workOnly_post (src code sev : Nat) (p : List Byte) (s : State) : WorkOnly s (post src code sev p s) := rfl

/-- Of the machine only what a job's step has under way and is charged for has changed. -/
def StepOnly (s t : State) : Prop := t = { s with
  freeCtr := t.freeCtr, mem := t.mem, ecc := t.ecc, hbm := { s.hbm with deferred := t.hbm.deferred }, vat := t.vat
  jobs := t.jobs, accts := t.accts, tps := t.tps, cls := t.cls, blk := { s.blk with queues := t.blk.queues }
  cul := { s.cul with prog := t.cul.prog }, net := { s.net with remotes := t.net.remotes } }

theorem StepOnly.refl (s : State) : StepOnly s s := rfl

theorem StepOnly.trans {s t u : State} (h : StepOnly s t) (h' : StepOnly t u) : StepOnly s u := by
  rw [StepOnly] at *
  rw [h', h]

theorem StepOnly.after {s t u : State} (h : StepOnly t u) (h' : StepOnly s t) : StepOnly s u := h'.trans h

theorem StepOnly.ite {c : Prop} [Decidable c] {s t u : State} (ht : StepOnly s t) (hu : StepOnly s u) : StepOnly s (if c then t else u) := by
  split
  · exact ht
  · exact hu

theorem StepOnly.foldl {β : Type} (g : State → β → State) (hg : ∀ s x, StepOnly s (g s x)) (xs : List β) (s : State) :
    StepOnly s (xs.foldl g s) := by
  induction xs generalizing s with
  | nil => exact .refl s
  | cons x xs ih => exact (hg s x).trans (ih _)

theorem StepOnly.work {s t : State} (h : StepOnly s t) : WorkOnly s t := by
  rw [StepOnly] at h
  rw [h]; rfl

theorem StepOnly.stms {s t : State} (h : StepOnly s t) : t.stms = s.stms := congrArg (·.stms) h
theorem StepOnly.streams {s t : State} (h : StepOnly s t) : t.streams = s.streams := congrArg (·.streams) h
theorem StepOnly.parts {s t : State} (h : StepOnly s t) : t.parts = s.parts := congrArg (·.parts) h
theorem StepOnly.ring {s t : State} (h : StepOnly s t) : t.ring = s.ring := congrArg (·.ring) h

theorem stepOnly_modAcct (a : Nat) (f : Account → Account) (s : State) : StepOnly s (modAcct a f s) := rfl
theorem stepOnly_modJob (j : Nat) (f : Job → Job) (s : State) : StepOnly s (modJob j f s) := rfl

/-! ### Accounting (R240, R252, R253) -/

theorem stepOnly_chargeQty (j q : Nat) (add : Nat → Account → Account) (s : State) : StepOnly s (chargeQty j q add s) :=
  .foldl _ (fun _ _ => workOnly_modAcct ..) _ _

theorem stepOnly_chargeEngine (j x : Nat) (s : State) : StepOnly s (chargeEngine j x s) := rfl

theorem stepOnly_chargeStep (j : Nat) (committed : Bool) (s : State) : StepOnly s (chargeStep j committed s) := by
  have engine := stepOnly_chargeQty j (getJob s j).run.engine (fun q a => { a with engine := a.engine + q }) s
  have waited := StepOnly.foldl (fun t a => modAcct a (addPre (getJob s j).prePend) t) (fun _ _ => stepOnly_modAcct ..) (preAccounts s j) _
    |>.after ((stepOnly_chargeQty j (getJob s j).waitNs (fun q a => { a with wait := a.wait + q }) _).after engine)
  refine (stepOnly_modJob ..).after (.ite ?_ ((stepOnly_modAcct ..).after ?_))
  · exact (stepOnly_chargeQty ..).after ((stepOnly_chargeQty ..).after ((stepOnly_chargeQty ..).after ((stepOnly_chargeQty ..).after engine)))
  · exact .ite (.ite (.after (.foldl _ (fun _ _ => .ite (.refl _) (stepOnly_modAcct ..)) _ _) waited) ((stepOnly_modAcct ..).after waited)) waited

theorem workOnly_telBound (p : Nat) (s : State) : WorkOnly s (telBound p s) := rfl

/-! ### The choice, grants and runs (R241 to R249) -/

theorem workOnly_makeReady (j : Nat) (raise : Bool) (s : State) : WorkOnly s (makeReady j raise s) := workOnly_modJob ..
theorem workOnly_makeRunning (j : Nat) (s : State) : WorkOnly s (makeRunning j s) := workOnly_modJob ..

theorem workOnly_grantUnits (k : Nat) (s : State) : WorkOnly s (grantUnits k s) := by
  induction k generalizing s with
  | zero => exact .refl s
  | succ k ih =>
    rw [grantUnits]
    dsimp only
    split
    · exact .ite ((ih _).after ((workOnly_modJob ..).after (workOnly_makeRunning ..))) (.refl s)
    · exact .refl s

theorem workOnly_askUnit (j : Nat) (s : State) : WorkOnly s (askUnit j s) := (workOnly_grantUnits ..).after (workOnly_modJob ..)

theorem workOnly_beginRun (p j : Nat) (s : State) : WorkOnly s (beginRun p j s) := (workOnly_modPart ..).after (workOnly_makeRunning ..)

theorem workOnly_zeroTps (mask : Nat) (s : State) : WorkOnly s (zeroTps mask s) := rfl

theorem workOnly_bringIn (p : Nat) (out inc : Option Nat) (lines : Nat) (due : Option Nat) (s : State) :
    WorkOnly s (bringIn p out inc lines due s) := by
  have begins (p j mask : Nat) : WorkOnly s (switchEvent p out inc lines 0 (beginRun p j (zeroTps mask s))) :=
    (workOnly_post ..).after ((workOnly_beginRun ..).after (workOnly_zeroTps ..))
  unfold bringIn
  split
  · exact (workOnly_post ..).after (workOnly_modPart ..)
  · split
    · exact .ite (begins ..) (workOnly_modPart ..)
    · exact begins ..

theorem workOnly_startNext (p : Nat) (out : Option Nat) (s : State) : WorkOnly s (startNext p out s) := by
  refine .ite (.refl s) ?_
  split
  · exact .ite (.refl s) (workOnly_bringIn ..)
  · exact .refl s

theorem stepOnly_chargeAttempt (j : Nat) (s : State) : StepOnly s (chargeAttempt j s) := .ite (stepOnly_chargeEngine ..) (.refl s)

theorem workOnly_ringNext (p j : Nat) (x : Job) (s : State) : WorkOnly s (ringNext p j x s) :=
  .ite ((workOnly_startNext ..).after (workOnly_modStm ..)) (workOnly_startNext ..)

/-! ### The end of a job's work (R53, R91) -/

theorem stepOnly_serveVat (ok : VatAcc → Bool) (k : Nat) (s : State) : StepOnly s (serveVat ok k s) := by
  rw [serveVat_rest]
  rfl

theorem stepOnly_putMem (a : Nat) (bs : List Byte) (s : State) : StepOnly s (putMem a bs s) := rfl
theorem stepOnly_skipFree (n : Nat) (s : State) : StepOnly s (skipFree n s) := rfl

theorem stepOnly_freeMatrix (ts : List Nat) (s : State) : StepOnly s (freeMatrix ts s) :=
  .foldl _ (fun _ _ => (stepOnly_skipFree ..).after (stepOnly_putMem ..)) _ _

theorem stepOnly_haltJob (j : Nat) (s : State) : StepOnly s (haltJob j s) := rfl

theorem stepOnly_dropWork (j : Nat) (s : State) : StepOnly s (dropWork j s) := by
  let t := freeMatrix (walkedTps s j) (serveJob j s)
  have before : StepOnly s t := (stepOnly_freeMatrix ..).after (stepOnly_serveVat ..)
  have dropped : StepOnly t { t with
    blk.queues := t.blk.queues.map fun q => (q.1, q.2.filter fun o => o.slot != j || o.began.isSome)
    hbm.deferred := t.hbm.deferred.filter fun r => r.slot != j, net.remotes := t.net.remotes.filter fun r => r.slot != j } := rfl
  exact dropped.after before

theorem stepOnly_abandonCulture (j : Nat) (s : State) : StepOnly s (abandonCulture j s) := rfl

/-- The end of a step abandoned without a fault, from where it is charged (R240, R253). -/
theorem stepOnly_abandonEnd (j : Nat) (f : Job → Job) (s : State) : StepOnly s (modJob j f (abandonCulture j (dropWork j (haltJob j s)))) :=
  (stepOnly_modJob ..).after ((stepOnly_abandonCulture ..).after ((stepOnly_dropWork ..).after (stepOnly_haltJob ..)))

/-- What the charge of an abandoned step leaves: a partition keeps all but its resource report's counts. -/
theorem abandonCharge_rest (j : Nat) (s : State) (c : Bool) :
    let t := if c then telBound (jobPart (getJob s j)) (chargeStep j false (chargeAttempt j s)) else s
    t.stms = s.stms ∧ t.streams = s.streams ∧ ∀ p, (getPart t p).enabled = (getPart s p).enabled := by
  have charged : StepOnly s (chargeStep j false (chargeAttempt j s)) := (stepOnly_chargeStep ..).after (stepOnly_chargeAttempt ..)
  cases c
  · exact ⟨rfl, rfl, fun _ => rfl⟩
  · refine ⟨charged.stms, charged.streams, fun p => ?_⟩
    have kept : getPart (chargeStep j false (chargeAttempt j s)) p = getPart s p := by rw [getPart, getPart, charged.parts]
    rw [← kept]
    by_cases own : p = jobPart (getJob s j)
    · exact (congrArg Part.enabled ((tget_tput ..).trans (if_pos own)) :).trans (by rw [own]; rfl)
    · exact (congrArg Part.enabled ((tget_tput ..).trans (if_neg own)) :)

theorem abandonStep_rest (j : Nat) (s : State) : (abandonStep j s).stms = s.stms ∧ (abandonStep j s).streams = s.streams ∧
    ∀ p, (getPart (abandonStep j s) p).enabled = (getPart s p).enabled := by
  obtain ⟨stms, streams, parts⟩ := abandonCharge_rest j s (getJob s j).run.active
  have last := stepOnly_abandonEnd j (fun x => { x with run := {}, attempt := 0 })
    (if (getJob s j).run.active then telBound (jobPart (getJob s j)) (chargeStep j false (chargeAttempt j s)) else s)
  refine ⟨last.stms.trans stms, last.streams.trans streams, fun p => Eq.trans ?_ (parts p)⟩
  exact (congrArg (fun t => (tget ({} : Part) t p).enabled) last.parts :)

theorem workOnly_releaseLocks (p : Nat) (replay : Bool) (s : State) : WorkOnly s (releaseLocks p replay s) := rfl

theorem workOnly_overrunEvent (t tile len slip : Nat) (faulted : Bool) (s : State) : WorkOnly s (overrunEvent t tile len slip faulted s) := rfl
theorem workOnly_instrFaultEvent (t thr off reason : Nat) (s : State) : WorkOnly s (instrFaultEvent t thr off reason s) := rfl
theorem workOnly_accessFaultEvent (t thr g reason : Nat) (s : State) : WorkOnly s (accessFaultEvent t thr g reason s) := rfl

theorem workOnly_reportOverruns (j : Nat) (s : State) : WorkOnly s (reportOverruns j s) := by
  refine .foldl _ (fun t x => ?_) _ _
  split
  · refine .ite ?_ (.refl t)
    split
    · exact workOnly_overrunEvent ..
    · exact .refl t
  · exact .refl t

theorem workOnly_endAttempts (s : State) : WorkOnly s (endAttempts s) := rfl

theorem workOnly_faultJob (j : Nat) (s : State) : WorkOnly s (faultJob j s) := by
  have started (f : Job → Job) : WorkOnly s (reportOverruns j (modJob j f s)) := (workOnly_reportOverruns ..).after (workOnly_modJob ..)
  have ended {t u : State} (p : Nat) (h : WorkOnly s t) (h' : WorkOnly t u) : WorkOnly s
      (telBound p (abandonCulture j (dropWork j (haltJob j (chargeStep j false (chargeAttempt j u)))))) :=
    (workOnly_telBound ..).after (((stepOnly_abandonCulture ..).after ((stepOnly_dropWork ..).after ((stepOnly_haltJob ..).after
      ((stepOnly_chargeStep ..).after (stepOnly_chargeAttempt ..))))).work.after (h.trans h'))
  have faulted {u : State} (h : WorkOnly s u) (f : Job → Job) (p : Nat) (serving : Bool) :
      WorkOnly s (modJob j f (if serving then releaseLocks p true u else u)) :=
    (workOnly_modJob ..).after (.ite ((workOnly_releaseLocks ..).after h) h)
  refine .ite (.refl s) (.ite (.ite ?_ ?_) ?_)
  · refine (workOnly_ringNext ..).after ((workOnly_modPart ..).after (faulted (ended _ (started _) (.ite (workOnly_endAttempts _) (.refl _))) _ _ _))
  · refine (workOnly_startNext ..).after ((workOnly_modPart ..).after (faulted (ended _ (started _) (.ite (workOnly_endAttempts _) (.refl _))) _ _ _))
  · refine (workOnly_grantUnits ..).after (faulted (ended _ (started _) (.ite (workOnly_endAttempts _) (.refl _))) _ _ _)

theorem workOnly_holdRing (p : Nat) (s : State) : WorkOnly s (holdRing p s) := rfl
theorem workOnly_freeRing (p : Nat) (s : State) : WorkOnly s (freeRing p s) := rfl

theorem workOnly_failColl (j prog : Nat) (s : State) : WorkOnly s (failColl j prog s) := by
  have noted : WorkOnly s { s with ring.collFail := s.ring.collFail + 1, ring.fenceFail := false } := rfl
  exact (workOnly_faultJob ..).after ((workOnly_holdRing ..).after ((workOnly_post ..).after noted))

theorem workOnly_failAllColls (s : State) : WorkOnly s (failAllColls s) := by
  unfold failAllColls
  split
  · exact .refl s
  · split
    · exact workOnly_failColl ..
    · exact rfl

end Sys2Proof.Machine
end

section
/-! PROOFS. Fence notices, Keeper messages, bulk copies and the end of a restore (R369 to R379). -/

namespace Sys2Proof.Machine

/-! ### Fences (R370, R372) -/

theorem sendsOnly_sendNotice (chip arg : Nat) (s : State) : SendsOnly s (sendNotice chip arg s) := by
  unfold sendNotice
  split
  · exact sendsOnly_sendUOn ..
  · exact sendsOnly_sendU ..

/-- A chip that is fenced already, or is this one, is not fenced. -/
theorem fenceChip_self {x reason hops origin : Nat} {from_ : Option Nat} {s : State} (h : isFenced s x = true ∨ x = chipId s) :
    fenceChip x reason hops origin from_ s = s := if_pos (by simpa using h)

/-- What the fence of a chip does to the Fault Unit (R370). -/
theorem fenceChip_flt {x reason hops origin : Nat} {from_ : Option Nat} {s : State} (new : isFenced s x = false) (other : x ≠ chipId s) :
    (fenceChip x reason hops origin from_ s).flt = { s.flt with
      fences := (if 16 ≤ s.flt.fences.length then s.flt.fences.drop 1 else s.flt.fences) ++ [⟨x, reason⟩]
      flags := if (neighbours s).contains x then s.flt.flags ||| 64 else s.flt.flags } := by
  have sent (cs : List Nat) (g : Nat → Nat) (t : State) : SendsOnly t (cs.foldl (fun t c => sendNotice c (g c) t) t) :=
    .foldl _ (fun _ _ => sendsOnly_sendNotice ..) _ _
  have noted {t u : State} (h : u.flt = t.flt) {c : Prop} [Decidable c] {v : State} (hv : SendsOnly u v) : (if c then v else u).flt = t.flt := by
    split
    · exact (hv.keeps (·.flt) fun _ _ _ _ => rfl).trans h
    · exact h
  unfold fenceChip
  rw [if_neg (by simp [new, other])]
  exact noted (workOnly_failAllColls _).flt (sent _ _ _)

/-- An answer's fields of the Fault Unit that the collector leaves. -/
theorem answer_flt (p : List Instr) (s : State) :
    let f := ({ collect s with pending := p } : State).flt
    f.fences = s.flt.fences ∧ f.waiting = s.flt.waiting ∧ f.remap = s.flt.remap ∧ f.selfFence = s.flt.selfFence := by
  have own := congrArg State.flt (answer_reported p s)
  intro f
  exact ⟨(congrArg Flt.fences own :), (congrArg Flt.waiting own :), (congrArg Flt.remap own :), (congrArg Flt.selfFence own :)⟩

/-! ### The restore's state at a frame (R378) -/

theorem checkRemap_still {s : State} (h : s.flt.remap.source = false ∨ s.flt.remap.state ≠ 1) : checkRemap s = s :=
  if_neg (by rcases h with h | h <;> simp [h])

theorem checkRemap_remap (s : State) : (checkRemap s).flt.remap = { s.flt.remap with state := (checkRemap s).flt.remap.state } := by
  have sent (kind dst arg : Nat) (p : List Byte) (t : State) : (sendU kind dst arg p t).flt = t.flt :=
    (sendsOnly_sendU kind dst arg p t).keeps (·.flt) fun _ _ _ _ => rfl
  unfold checkRemap
  dsimp only
  split
  · rw [sent]
    rfl
  · rfl

theorem acceptSeq_flt (n : Nat) (f : Frame) (s : State) (h : ∀ x : State, x.flt = s.flt → (checkRemap x).flt = s.flt) :
    (acceptSeq n f s).flt = s.flt := by
  refine Eq.trans (congrArg (·.flt) (linksOnly_trailerCredits ..)) ?_
  exact h _ rfl

section
variable {l : Fin 8} {fr : Frame} {s : State}

/-- Where no restore of this chip's waits for an acknowledgement, a frame leaves the Fault Unit. -/
theorem taken_flt (h : s.flt.remap.source = false ∨ s.flt.remap.state ≠ 1) : (taken l fr s).flt = s.flt :=
  acceptSeq_flt l.val fr (countSymbols l.val fr.corrected s) fun x hx =>
    (congrArg State.flt (checkRemap_still (by rw [hx]; exact h))).trans hx

/-- A frame changes of the restore at most its state. -/
theorem taken_remap : (taken l fr s).flt.remap = { s.flt.remap with state := (taken l fr s).flt.remap.state } := by
  have own : (taken l fr s).flt = (takeAck l.val fr.ackSeq.toNat _).flt := congrArg (·.flt) (linksOnly_trailerCredits ..)
  rw [own]
  exact checkRemap_remap _

/-! ### Keeper messages (R374 to R376) -/

/-- What a frame leaves of what the checks of a Keeper message read. -/
theorem keeperReason_taken (dst : Nat) (u : List Byte) : keeperReason (taken l fr s) dst u = keeperReason s dst u := by
  have part := takesOnly_taken l fr s
  have roles : roleAfter (taken l fr s) = roleAfter s := by
    funext b n
    rw [roleAfter, rolesOf_taken l fr s n, roleAfter]
  have body (op : Nat) (b : List Byte) : bodyOk (taken l fr s) op b = bodyOk s op b := by
    unfold bodyOk
    rw [roles, show chipId (taken l fr s) = chipId s from part.cfgVal _]
  have pwr : (taken l fr s).pwr = s.pwr := part.keeps (·.pwr) fun _ _ _ _ _ => rfl
  have rev : keyRevision (taken l fr s) = keyRevision s := part.keeps keyRevision fun _ _ _ _ _ => rfl
  have mac : macOf (taken l fr s) dst u = macOf s dst u := part.keeps (macOf · dst u) fun _ _ _ _ _ => rfl
  have fresh (c : Nat) : counterFresh (taken l fr s) c = counterFresh s c := part.keeps (counterFresh · c) fun _ _ _ _ _ => rfl
  simp only [keeperReason, body, pwr, rev, mac, fresh, part.clk]

theorem gives_keeperMessage (acc : Accepts s l fr 0x14) (why : keeperReason s fr.dst.toNat fr.payload = 0) :
    Gives (.keeperMessage l fr) s { taken l fr s with
      flt.counters := (if 64 ≤ s.flt.counters.length then s.flt.counters.drop 1 else s.flt.counters) ++ [(kmsgOf fr.payload).counter]
      flt.waiting := s.flt.waiting ++ [⟨(kmsgOf fr.payload).counter, (kmsgOf fr.payload).swing, (kmsgOf fr.payload).op,
        (kmsgOf fr.payload).body⟩] } := by
  have part := takesOnly_taken l fr s
  have counters : (taken l fr s).flt.counters = s.flt.counters := part.keeps (·.flt.counters) fun _ _ _ _ _ => rfl
  have waiting : (taken l fr s).flt.waiting = s.flt.waiting := part.keeps (·.flt.waiting) fun _ _ _ _ _ => rfl
  rw [← counters, ← waiting]
  exact gives_received acc (execKeeperMessage.eq_1 l fr s) (if_pos ((keeperReason_taken ..).trans why)) part.mem part.tps

theorem gives_keeperMessage_refused (acc : Accepts s l fr 0x14) (why : keeperReason s fr.dst.toNat fr.payload ≠ 0) :
    Gives (.keeperMessage l fr) s (post 0x0B 4 1 (leBytes 1 (keeperReason s fr.dst.toNat fr.payload) ++
      leBytes 1 (kmsgOf fr.payload).op ++ leBytes 8 (kmsgOf fr.payload).counter) { taken l fr s with flt.krefused := s.flt.krefused + 1 }) := by
  have part := takesOnly_taken l fr s
  have refused : (taken l fr s).flt.krefused = s.flt.krefused := part.keeps (·.flt.krefused) fun _ _ _ _ _ => rfl
  have same := keeperReason_taken (l := l) (fr := fr) (s := s) fr.dst.toNat fr.payload
  rw [← refused, ← same]
  exact gives_received acc (execKeeperMessage.eq_1 l fr s) (if_neg (by rw [same]; exact why)) part.mem part.tps

/-! ### Fence notices (R372) -/

theorem fenceNotice_answer (acc : Accepts s l fr 0x15) (op : bits fr.arg.toNat 60 4 = 1) (new : isFenced s (bits fr.arg.toNat 0 12) = false)
    (other : bits fr.arg.toNat 0 12 ≠ chipId s) (room : s.flt.fences.length < 16) :
    ∃ s', exec (.fenceNotice l fr) s = .next s' ∧
      s'.flt.fences = s.flt.fences ++ [⟨bits fr.arg.toNat 0 12, bits fr.arg.toNat 56 4⟩] ∧
      (bits fr.arg.toNat 0 12 ∈ neighbours s → s'.flt.flags &&& 64 = 64) := by
  have part := takesOnly_taken l fr s
  have fences : (taken l fr s).flt.fences = s.flt.fences := part.keeps (·.flt.fences) fun _ _ _ _ _ => rfl
  have near : neighbours (taken l fr s) = neighbours s := part.keeps neighbours fun _ _ _ _ _ => rfl
  have given : Gives (.fenceNotice l fr) s (fenceChip (bits fr.arg.toNat 0 12) (bits fr.arg.toNat 56 4) (bits fr.arg.toNat 48 8 + 1)
      (bits fr.arg.toNat 36 12) (some (getLink (taken l fr s) l.val).partner) (taken l fr s)) :=
    gives_routed acc (execFenceNotice.eq_1 l fr s) (if_pos (by rw [op]; rfl))
  have flt := fenceChip_flt (x := bits fr.arg.toNat 0 12) (reason := bits fr.arg.toNat 56 4) (hops := bits fr.arg.toNat 48 8 + 1)
    (origin := bits fr.arg.toNat 36 12) (from_ := some (getLink (taken l fr s) l.val).partner) (s := taken l fr s)
    ((part.keeps (isFenced · _) fun _ _ _ _ _ => rfl).trans new) (fun h => other (h.trans (part.cfgVal _)))
  rw [fences, if_neg (Nat.not_le.2 room), near] at flt
  refine ⟨_, given, ?_, fun nb => ?_⟩
  · rw [(answer_flt ..).1, flt]
  · refine collect_flags _ ?_
    rw [flt, if_pos (by simpa using nb)]
    exact or_and_self _ _

theorem gives_fenceNotice_known (acc : Accepts s l fr 0x15)
    (known : isFenced s (bits fr.arg.toNat 0 12) = true ∨ bits fr.arg.toNat 0 12 = chipId s) : Gives (.fenceNotice l fr) s (taken l fr s) := by
  have part := takesOnly_taken l fr s
  refine gives_routed acc (execFenceNotice.eq_1 l fr s) ?_
  dsimp only
  split
  · refine fenceChip_self (known.imp (fun h => ?_) fun h => h.trans (part.cfgVal _).symm)
    exact (part.keeps (isFenced · _) fun _ _ _ _ _ => rfl).trans h
  · rfl

/-! ### Bulk copies and the end of a restore (R378, R379) -/

theorem gives_bulkCopy_discarded (acc : Accepts s l fr 0x0C) (closed : s.flt.remap.target = false ∨ s.flt.remap.state ≠ 1) :
    Gives (.bulkCopy l fr) s (modLink l.val (fun y => { y with badKind := y.badKind + 1 }) (taken l fr s)) := by
  have shut : (!((taken l fr s).flt.remap.target && (taken l fr s).flt.remap.state == 1)) = true := by
    rcases closed with h | h
    · rw [show (taken l fr s).flt.remap.target = false from (congrArg Remap.target taken_remap).trans h]
      rfl
    · rw [taken_flt (.inr h)]
      simp [h]
  refine gives_routed acc (execBulkCopy.eq_1 l fr s) ?_
  rw [bulkWrite]
  dsimp only
  rw [if_pos shut]

theorem bulkCopy_answer (acc : Accepts s l fr 0x0C) (target : s.flt.remap.target = true) (sink : s.flt.remap.source = false)
    (open_ : s.flt.remap.state = 1) (hbm : inHbm (bits fr.arg.toNat 0 48) fr.payload.length = true) :
    ∃ s', exec (.bulkCopy l fr) s = .next s' ∧ s'.mem = memWrite s.mem (bits fr.arg.toNat 0 48) fr.payload ∧
      s'.flt.remap = { s.flt.remap with bytes := s.flt.remap.bytes + fr.payload.length } ∧ s'.jobs = s.jobs ∧ s'.streams = s.streams := by
  have part := takesOnly_taken l fr s
  have flt := taken_flt (l := l) (fr := fr) (.inl sink)
  have streams : (taken l fr s).streams = s.streams := part.keeps (·.streams) fun _ _ _ _ _ => rfl
  let u := storeMem (bits fr.arg.toNat 0 48) fr.payload
    { taken l fr s with flt.remap.bytes := (taken l fr s).flt.remap.bytes + fr.payload.length }
  have given : Gives (.bulkCopy l fr) s u := by
    refine gives_routed acc (execBulkCopy.eq_1 l fr s) ?_
    rw [bulkWrite]
    dsimp only
    rw [if_neg (by rw [flt]; simp [target, open_]), if_pos hbm]
  refine ⟨_, given, ?_, ?_, ?_, ?_⟩
  · rw [collect_mem, ← part.mem]
    rfl
  · rw [(answer_flt ..).2.2.1, ← flt]
    rfl
  · rw [collect_jobs, ← part.jobs]
    rfl
  · rw [collect_streams, ← streams]
    rfl

/-- A target whose restore waits for more (R379). -/
theorem checkRestored_waits (h : s.flt.remap.op2 = false ∨ (s.flt.remap.needLd = true ∧ s.flt.remap.loaded = false)) : checkRestored s = s :=
  if_neg (by rcases h with h | ⟨h, h'⟩ <;> simp [*])

theorem checkRestored_done (target : s.flt.remap.target = true) (open_ : s.flt.remap.state = 1) (op2 : s.flt.remap.op2 = true)
    (loaded : s.flt.remap.needLd = false ∨ s.flt.remap.loaded = true) : checkRestored s =
      post 0x0B 6 0 (pl2 s.flt.remap.peer ++ pl8 s.flt.remap.bytes) { s with
        flt.remap.state := 2
        streams := s.streams.map fun x =>
          (x.1, if s.flt.remap.copied.contains x.1 && x.2.state != 0 then { x.2 with replay := true } else x.2) } :=
  if_pos (by rcases loaded with h | h <;> simp [target, open_, op2, h])

theorem restoreDone_effect (acc : Accepts s l fr 0x15) (op : bits fr.arg.toNat 60 4 = 2) (target : s.flt.remap.target = true)
    (sink : s.flt.remap.source = false) (open_ : s.flt.remap.state = 1) {u : State}
    (hu : checkRestored { taken l fr s with flt.remap.op2 := true } = u) (mem : u.mem = s.mem) (tps : u.tps = s.tps) :
    Gives (.restoreDoneNotice l fr) s u := by
  refine gives_received acc (execRestoreDoneNotice.eq_1 l fr s) ((if_pos ?_).trans hu) mem tps
  rw [taken_flt (.inl sink)]
  simp [op, target, open_]

theorem gives_restoreDone_waits (acc : Accepts s l fr 0x15) (op : bits fr.arg.toNat 60 4 = 2) (target : s.flt.remap.target = true)
    (sink : s.flt.remap.source = false) (open_ : s.flt.remap.state = 1) (need : s.flt.remap.needLd = true)
    (loaded : s.flt.remap.loaded = false) : Gives (.restoreDoneNotice l fr) s { taken l fr s with flt.remap.op2 := true } := by
  have part := takesOnly_taken l fr s
  have flt := taken_flt (l := l) (fr := fr) (.inl sink)
  refine restoreDone_effect acc op target sink open_ (checkRestored_waits (.inr ?_)) part.mem part.tps
  rw [← flt] at need loaded
  exact ⟨need, loaded⟩

theorem restoreDone_answer (acc : Accepts s l fr 0x15) (op : bits fr.arg.toNat 60 4 = 2) (target : s.flt.remap.target = true)
    (sink : s.flt.remap.source = false) (open_ : s.flt.remap.state = 1) (loaded : s.flt.remap.needLd = false ∨ s.flt.remap.loaded = true) :
    ∃ s', exec (.restoreDoneNotice l fr) s = .next s' ∧ s'.flt.remap = { s.flt.remap with op2 := true, state := 2 } ∧ s'.mem = s.mem ∧
      ∀ i y, (i, y) ∈ s.streams → i ∈ s.flt.remap.copied → y.state ≠ 0 → (i, { y with replay := true }) ∈ s'.streams := by
  have part := takesOnly_taken l fr s
  have flt := taken_flt (l := l) (fr := fr) (.inl sink)
  have streams : (taken l fr s).streams = s.streams := part.keeps (·.streams) fun _ _ _ _ _ => rfl
  have done := checkRestored_done (s := { taken l fr s with flt.remap.op2 := true })
    (show (taken l fr s).flt.remap.target = true by rw [flt]; exact target)
    (show (taken l fr s).flt.remap.state = 1 by rw [flt]; exact open_) rfl
    (show (taken l fr s).flt.remap.needLd = false ∨ (taken l fr s).flt.remap.loaded = true by rw [flt]; exact loaded)
  have given := restoreDone_effect acc op target sink open_ done part.mem part.tps
  refine ⟨_, given, ?_, ?_, fun i y listed copied live => ?_⟩
  · rw [(answer_flt ..).2.2.1, ← flt]
    rfl
  · rw [collect_mem, ← part.mem]
    rfl
  · rw [collect_streams]
    refine List.mem_map.2 ⟨(i, y), by rw [← streams] at listed; exact listed, ?_⟩
    simp [flt, copied, live]

theorem gives_loaded_waits {v : BitVec 32} (bit : bitAt v.toNat 0 = true) (target : s.flt.remap.target = true)
    (open_ : s.flt.remap.state = 1) (first : s.flt.remap.op2 = false) : Gives (.loaded v) s { s with flt.remap.loaded := true } :=
  gives_runCtl _ _ (execLoaded.eq_1 v s) ((if_pos (by simp [bit, target, open_])).trans (checkRestored_waits (.inl first))) rfl rfl

theorem loaded_answer {v : BitVec 32} (bit : bitAt v.toNat 0 = true) (target : s.flt.remap.target = true)
    (open_ : s.flt.remap.state = 1) (second : s.flt.remap.op2 = true) : ∃ s', exec (.loaded v) s = .next s' ∧
      s'.flt.remap = { s.flt.remap with loaded := true, state := 2 } := by
  have done := checkRestored_done (s := { s with flt.remap.loaded := true }) target open_ second (.inr rfl)
  have given := gives_runCtl (i := .loaded v) _ _ (execLoaded.eq_1 v s) ((if_pos (by simp [bit, target, open_])).trans done) rfl rfl
  exact ⟨_, given, (answer_flt ..).2.2.1⟩

end

/-- Settles O38, message by message. -/
theorem keeperMessages : Obligations.KeeperMessages := by
  refine ⟨fun l fr v s => ?_, fun v s => ⟨fun other => ?_, fun own why => ?_, fun own why => ?_⟩⟩
  · refine ⟨fun acc op => ⟨gives_fenceNotice_known acc, fenceNotice_answer acc op⟩, fun acc op => ?_, gives_keeperMessage,
      gives_keeperMessage_refused, gives_bulkCopy_discarded, bulkCopy_answer,
      fun acc op target sink open_ => ⟨gives_restoreDone_waits acc op target sink open_, restoreDone_answer acc op target sink open_⟩,
      gives_loaded_waits, loaded_answer, fun idle => ?_⟩
    · exact gives_routed acc (execFenceNotice.eq_1 l fr s) (if_neg (by simpa using op))
    · refine gives_runCtl _ _ (execLoaded.eq_1 v s) (if_neg ?_) rfl rfl
      rcases idle with h | h | h <;> simp [h]
  · have sent := sendsOnly_sendU 0x14 (v.toNat % 4096) 0 (ksendBytes s) s
    exact gives_runCtl _ _ (execKeeperSend.eq_1 v s) (if_neg other) sent.mem sent.tps
  · refine gives_runCtl _ _ (execKeeperSend.eq_1 v s) ((if_pos own).trans ?_) rfl rfl
    rw [own]
    exact if_neg why
  · have accepted : writeKdst v.toNat s = _ := (if_pos own).trans ((congrArg (keeperAccept · (ksendBytes s) s) own).trans (if_pos why))
    exact ⟨_, gives_runCtl _ _ (execKeeperSend.eq_1 v s) accepted rfl rfl, (answer_flt ..).2.1⟩

end Sys2Proof.Machine
end

section
/-! PROOFS. Each Keeper operation at its swing (R24, R377 to R379). -/

namespace Sys2Proof.Machine

/-- The state in which a message takes effect: it waits no more, and the device reports it. -/
def swung (s : State) (op : Nat) (k : Keeper) (c : Clock) (up : Nat) : State :=
  post 0x0B 5 0 (pl1 op ++ pl8 k.swing) { s with clk := c, upNs := up, flt.waiting := s.flt.waiting.erase k }

/-- The message that applies next takes effect at its swing. -/
theorem atSwing_some {s : State} {op : Nat} {k : Keeper} (act : List Byte → State → State) (next : nextKeeper s op = some k) :
    ∃ (c : Clock) (up : Nat), k.swing ≤ c.fleet ∧ atSwing op act s = act k.body (swung s op k c up) := by
  obtain ⟨c, up, due, -, -, later⟩ := advanceTo_clock k.swing s
  refine ⟨c, up, due, ?_⟩
  rw [atSwing, next]
  simp only [later]
  rfl

/-- The message's answer, for an effect that reaches neither the clocks, the waiting messages, memory nor the thread processors. -/
theorem keeper_answer {i : Instr} {s : State} {op : Nat} {k : Keeper} {act : List Byte → State → State}
    (exec_eq : exec i s = runCtl (atSwing op act) s) (next : nextKeeper s op = some k)
    (mem : ∀ t, (act k.body t).mem = t.mem) (tps : ∀ t, (act k.body t).tps = t.tps)
    (waiting : ∀ t, (act k.body t).flt.waiting = t.flt.waiting) (clk : ∀ t, (act k.body t).clk = t.clk) :
    ∃ (c : Clock) (up : Nat) (s' : State), exec i s = .next s' ∧
      s' = { collect (act k.body (swung s op k c up)) with pending := s.pending } ∧
      s'.flt.waiting = s.flt.waiting.erase k ∧ k.swing ≤ s'.clk.fleet ∧ s'.mem = s.mem := by
  obtain ⟨c, up, due, acts⟩ := atSwing_some act next
  refine ⟨c, up, _, gives_runCtl _ _ exec_eq acts (mem _) (tps _), rfl, (answer_flt ..).2.1.trans (waiting _), ?_,
    (collect_mem _).trans (mem _)⟩
  rw [collect_clk, clk]
  exact due

/-! ### ROUTE -/

/-- Entries written one after the other. -/
theorem tget_foldl_tput (e : Nat → Nat) (d a n x : Nat) (rt : Table Nat) :
    tget 0 ((upFrom a n).foldl (fun rt i => tput rt (d + i) (e i)) rt) x =
      if d + a ≤ x ∧ x < d + a + n then e (x - d) else tget 0 rt x := by
  induction n generalizing a rt with
  | zero => rw [upFrom, List.foldl_nil, if_neg (by omega)]
  | succ n ih =>
    rw [upFrom, List.foldl_cons, ih]
    by_cases first : x = d + a
    · rw [if_neg (by omega), if_pos (by omega), first, tget_tput_self, Nat.add_sub_cancel_left]
    · rw [tget_tput, if_neg first]
      congr 1
      rw [eq_iff_iff]
      omega

theorem foldl_routes (e : Nat → Nat) (d : Nat) (is : List Nat) (s : State) :
    is.foldl (fun s i => { s with routes := tput s.routes (d + i) (e i) }) s =
      { s with routes := is.foldl (fun rt i => tput rt (d + i) (e i)) s.routes } := by
  induction is generalizing s with
  | nil => rfl
  | cons i is ih => exact ih _

theorem routeAct_eq (b : List Byte) (s : State) : routeAct b s = { s with
    routes := (upFrom 0 (bodyNat b 2 1)).foldl (fun rt i => tput rt (bodyNat b 0 2 + i) (routeEntry (bodyNat b (3 + i) 1))) s.routes } :=
  foldl_routes ..

section
variable {s : State} {k : Keeper}

theorem routeSet_answer (next : nextKeeper s 1 = some k) :
    ∃ s', exec .routeSet s = .next s' ∧ s'.flt.waiting = s.flt.waiting.erase k ∧ k.swing ≤ s'.clk.fleet ∧
      s'.mem = s.mem ∧ s'.cfg = s.cfg ∧ s'.jobs = s.jobs ∧ s'.parts = s.parts ∧
      (∀ i, i < bodyNat k.body 2 1 → tget 0 s'.routes (bodyNat k.body 0 2 + i) = routeEntry (bodyNat k.body (3 + i) 1)) ∧
      ∀ d, d < bodyNat k.body 0 2 ∨ bodyNat k.body 0 2 + bodyNat k.body 2 1 ≤ d → tget 0 s'.routes d = tget 0 s.routes d := by
  have routes (t : State) := routeAct_eq k.body t
  obtain ⟨c, up, s', given, rfl, waiting, at_, mem⟩ := keeper_answer (i := .routeSet) (execRouteSet.eq_1 s) next
    (fun t => by rw [routes]) (fun t => by rw [routes]) (fun t => by rw [routes]) (fun t => by rw [routes])
  rw [routes] at given waiting at_ mem
  refine ⟨_, given, waiting, at_, mem, collect_cfg _, collect_jobs _, collect_parts _, fun i hi => ?_, fun d hd => ?_⟩
  · rw [collect_routes]
    refine (tget_foldl_tput ..).trans ((if_pos (by omega)).trans ?_)
    rw [Nat.add_sub_cancel_left]
  · rw [collect_routes]
    exact (tget_foldl_tput ..).trans (if_neg (by omega))

end

/-! ### RING -/

/-- Every link but one has the role that it had. -/
def RolesBut (n : Nat) (s t : State) : Prop := ∀ k, k ≠ n → (getLink t k).role = (getLink s k).role

theorem rolesOf_setLinkState (n : Nat) (x : LinkState) (s : State) : RolesOf s (setLinkState n x s) := by
  unfold setLinkState
  dsimp only
  split
  · exact fun _ => rfl
  · exact (rolesOf_post _ _ _ _ _).after (rolesOf_modLink fun _ => rfl)

theorem rolesOf_foldl {β : Type} (g : State → β → State) (hg : ∀ s x, RolesOf s (g s x)) (xs : List β) (s : State) :
    RolesOf s (xs.foldl g s) := by
  induction xs generalizing s with
  | nil => exact fun _ => rfl
  | cons x xs ih => exact (hg s x).trans (ih _)

theorem rolesOf_freeFrames (ts : List TxFrame) (s : State) : RolesOf s (freeFrames ts s) := by
  refine rolesOf_foldl _ (fun t x => ?_) _ _
  split
  · exact rolesOf_oweCredits _ _ _
  · exact fun _ => rfl

theorem RolesOf.modLink {s t : State} {n : Nat} {f : Link → Link} (h : RolesOf s t) (kept : ∀ l, (f l).role = l.role) :
    RolesOf s (modLink n f t) := h.trans (rolesOf_modLink kept)

theorem rolesOf_linkOff (n : Nat) (s : State) : RolesOf s (linkOff n s) := by
  have noted (fs : List Frame) (t : State) : RolesOf t (noteDropped fs t) := fun _ => rfl
  exact (rolesOf_setLinkState _ _ _).after (((noted _ _).after (rolesOf_freeFrames _ _)).modLink fun _ => rfl)

theorem CoresOf.roles {s t : State} (h : CoresOf s t) : RolesOf s t := h.read Link.role fun _ => rfl

theorem rolesOf_beginTrain (n : Nat) (own : Bool) (s : State) : RolesOf s (beginTrain n own s) :=
  (coresOf_moveToAlternates n _).roles.after ((rolesOf_setLinkState _ _ _).after
    (.modLink (.modLink (fun _ => rfl) fun _ => rfl) fun _ => rfl))

theorem rolesOf_quiet (n : Nat) (s : State) : RolesOf s (quiet n s) := rolesOf_modLink fun _ => rfl

/-- A link takes the role of the message, and no other link changes its own. -/
theorem roleAct_roles (b : List Byte) (n : Nat) (s : State) :
    (getLink (roleAct b s n) n).role = roleAfter s b n ∧ RolesBut n s (roleAct b s n) := by
  have changed : RolesBut n s (modLink n (fun l => { l with role := roleAfter s b n }) s) := fun k hk => by
    rw [getLink_modLink_ne _ _ _ _ hk]
  have own : (getLink (modLink n (fun l => { l with role := roleAfter s b n }) s) n).role = roleAfter s b n := by
    rw [getLink_modLink_self]
  have ends {t : State} (h : RolesOf (modLink n (fun l => { l with role := roleAfter s b n }) s) t) :
      (getLink t n).role = roleAfter s b n ∧ RolesBut n s t := ⟨(h n).trans own, fun k hk => (h k).trans (changed k hk)⟩
  unfold roleAct
  dsimp only
  split
  · next same => exact ⟨same.symm, fun _ _ => rfl⟩
  · split
    · exact ends (rolesOf_linkOff _ _)
    · exact ends ((rolesOf_beginTrain _ _ _).after (rolesOf_quiet _ _))

theorem roleAfter_congr {s t : State} {b : List Byte} {n : Nat} (h : (getLink t n).role = (getLink s n).role) :
    roleAfter t b n = roleAfter s b n := by rw [roleAfter, roleAfter, h]

/-- The links of a RING message, one after the other. -/
theorem foldl_roleAct (b : List Byte) (a m : Nat) (s : State) (n : Nat) : (getLink ((upFrom a m).foldl (roleAct b) s) n).role =
    if a ≤ n ∧ n < a + m then roleAfter s b n else (getLink s n).role := by
  induction m generalizing a s with
  | zero => rw [upFrom, List.foldl_nil, if_neg (by omega)]
  | succ m ih =>
    obtain ⟨own, others⟩ := roleAct_roles b a s
    rw [upFrom, List.foldl_cons, ih]
    by_cases first : n = a
    · rw [if_neg (by omega), if_pos (by omega), first, own]
    · rw [others n first, roleAfter_congr (others n first)]
      congr 1
      rw [eq_iff_iff]
      omega

theorem sendsOnly_roleAct (b : List Byte) (s : State) (n : Nat) : SendsOnly s (roleAct b s n) := by
  have changed (r : Nat) : SendsOnly s (modLink n (fun l => { l with role := r }) s) := (linksOnly_modLink ..).sends
  unfold roleAct
  exact .ite (.refl s) (.ite ((changed _).trans (sendsOnly_linkOff ..))
    ((changed (roleAfter s b n)).trans ((linksOnly_quiet ..).trans (linksOnly_beginTrain ..)).sends))

theorem SendsOnly.clk {s t : State} (h : SendsOnly s t) : t.clk = s.clk := h.keeps _ fun _ _ _ _ => rfl
theorem SendsOnly.flt {s t : State} (h : SendsOnly s t) : t.flt = s.flt := h.keeps _ fun _ _ _ _ => rfl
theorem SendsOnly.cfgVal {s t : State} (h : SendsOnly s t) (id : Nat) : Machine.cfgVal t id = Machine.cfgVal s id :=
  h.keeps (Machine.cfgVal · id) fun _ _ _ _ => rfl

theorem cfgVal_setCfg (id v x : Nat) (s : State) : cfgVal (setCfg id v s) x = if x = id then v else cfgVal s x :=
  tget_tput ..

theorem answer_cfgVal (p : List Instr) (s : State) (x : Nat) : cfgVal { collect s with pending := p } x = cfgVal s x :=
  congrArg (fun c => tget (fieldDefault x) c x) (collect_cfg s)

/-- Only configuration differs. -/
def CfgOnly (s t : State) : Prop := ∃ c, t = { s with cfg := c }

theorem cfgOnly_setCfg (id v : Nat) (s : State) : CfgOnly s (setCfg id v s) := ⟨_, rfl⟩

theorem CfgOnly.setCfg {s t : State} {id v : Nat} (h : CfgOnly s t) : CfgOnly s (setCfg id v t) := by
  obtain ⟨c, rfl⟩ := h
  exact ⟨_, rfl⟩

/-- The ring fields of a RING message, before its links' roles. -/
def ringFields (b : List Byte) (s : State) : State :=
  setCfg 0x0605 (bodyNat b 6 1) (setCfg 0x0604 (bodyNat b 4 2) (setCfg 0x0603 (bodyNat b 2 2)
    (setCfg 0x0602 (bodyNat b 1 1) (setCfg 0x0601 (bodyNat b 0 1) { s with ring := { s.ring with
      fwd := keepIf (bodyNat b 2 2 == cfgVal s 0x0603) s.ring.fwd, bwd := keepIf (bodyNat b 4 2 == cfgVal s 0x0604) s.ring.bwd } }))))

theorem ringFields_fields (b : List Byte) (s : State) : cfgVal (ringFields b s) 0x0601 = bodyNat b 0 1 ∧
    cfgVal (ringFields b s) 0x0602 = bodyNat b 1 1 ∧ cfgVal (ringFields b s) 0x0603 = bodyNat b 2 2 ∧
    cfgVal (ringFields b s) 0x0604 = bodyNat b 4 2 ∧ cfgVal (ringFields b s) 0x0605 = bodyNat b 6 1 := by
  simp [ringFields, cfgVal_setCfg]

theorem ringFields_others (b : List Byte) (s : State) {x : Nat} (h : x < 0x0601 ∨ 0x0605 < x) : cfgVal (ringFields b s) x = cfgVal s x := by
  rw [ringFields, cfgVal_setCfg, cfgVal_setCfg, cfgVal_setCfg, cfgVal_setCfg, cfgVal_setCfg, if_neg (by omega), if_neg (by omega),
    if_neg (by omega), if_neg (by omega), if_neg (by omega)]
  rfl

theorem ringFields_eq (b : List Byte) (s : State) : ∃ c r, ringFields b s = { s with cfg := c, ring := r } := by
  obtain ⟨c, fields⟩ := (cfgOnly_setCfg ..).setCfg.setCfg.setCfg.setCfg
  exact ⟨c, _, fields⟩

theorem sendsOnly_ringAct (b : List Byte) (s : State) : SendsOnly (ringFields b s) (ringAct b s) := .foldl _ (fun t n => sendsOnly_roleAct b t n) _ _

/-- A RING message changes configuration and ring, and sends. -/
theorem ringAct_keeps (b : List Byte) (s : State) {α : Type} (g : State → α)
    (hg : ∀ (x : State) c r l n q, g { x with cfg := c, ring := r, links := l, net := n, ev.queue := q } = g x) : g (ringAct b s) = g s := by
  obtain ⟨c, r, fields⟩ := ringFields_eq b s
  refine ((sendsOnly_ringAct b s).keeps g fun x l n q => hg x x.cfg x.ring l n q).trans ?_
  rw [fields]
  exact hg s c r s.links s.net s.ev.queue

theorem ringAct_roles (b : List Byte) (s : State) (n : Nat) (h : n < 8) : (getLink (ringAct b s) n).role = roleAfter s b n :=
  (foldl_roleAct b 0 8 (ringFields b s) n).trans (if_pos (by omega))

theorem ringSet_answer {s : State} {k : Keeper} (next : nextKeeper s 2 = some k) : ∃ s', exec .ringSet s = .next s' ∧
    s'.flt.waiting = s.flt.waiting.erase k ∧ k.swing ≤ s'.clk.fleet ∧
    s'.mem = s.mem ∧ cfgVal s' 0x0601 = bodyNat k.body 0 1 ∧ cfgVal s' 0x0602 = bodyNat k.body 1 1 ∧
    cfgVal s' 0x0603 = bodyNat k.body 2 2 ∧ cfgVal s' 0x0604 = bodyNat k.body 4 2 ∧ cfgVal s' 0x0605 = bodyNat k.body 6 1 ∧
    s'.jobs = s.jobs ∧ s'.parts = s.parts ∧ s'.routes = s.routes ∧
    (∀ id, id < 0x0601 ∨ 0x0605 < id → cfgVal s' id = cfgVal s id) ∧ ∀ n, n < 8 → (getLink s' n).role = roleAfter s k.body n := by
  obtain ⟨c, up, s', given, rfl, waiting, at_, mem⟩ := keeper_answer (i := .ringSet) (execRingSet.eq_1 s) next
    (fun t => ringAct_keeps _ t (·.mem) fun _ _ _ _ _ _ => rfl) (fun t => ringAct_keeps _ t (·.tps) fun _ _ _ _ _ _ => rfl)
    (fun t => ringAct_keeps _ t (·.flt.waiting) fun _ _ _ _ _ _ => rfl) (fun t => ringAct_keeps _ t (·.clk) fun _ _ _ _ _ _ => rfl)
  have cfg (x : Nat) := (answer_cfgVal s.pending (ringAct k.body (swung s 2 k c up)) x).trans ((sendsOnly_ringAct ..).cfgVal x)
  obtain ⟨size, pos, fwd, bwd, mirror⟩ := ringFields_fields k.body (swung s 2 k c up)
  refine ⟨_, given, waiting, at_, mem, (cfg _).trans size, (cfg _).trans pos, (cfg _).trans fwd, (cfg _).trans bwd, (cfg _).trans mirror,
    (collect_jobs _).trans (ringAct_keeps _ _ (·.jobs) fun _ _ _ _ _ _ => rfl), (collect_parts _).trans (ringAct_keeps _ _ (·.parts) fun _ _ _ _ _ _ => rfl),
    (collect_routes _).trans (ringAct_keeps _ _ (·.routes) fun _ _ _ _ _ _ => rfl), fun id other => (cfg id).trans (ringFields_others _ _ other), fun n hn => ?_⟩
  · exact (congrArg (fun ls => (tget ({} : Link) ls n).role) (collect_links _)).trans (ringAct_roles _ _ n hn)

/-! ### POOL -/

/-- The ramp fields of a POOL message. -/
def rampFields (b : List Byte) (s : State) : State :=
  setCfg 0x0A06 (bodyNat b 12 4) (setCfg 0x0A05 (bodyNat b 8 4) (setCfg 0x0A04 (bodyNat b 4 2) (setCfg 0x0A03 (bodyNat b 2 2)
    (setCfg 0x0A02 (bodyNat b 0 2) s))))

theorem chipId_rampFields (b : List Byte) (s : State) : chipId (rampFields b s) = chipId s := by
  rw [chipId, rampFields, cfgVal_setCfg, cfgVal_setCfg, cfgVal_setCfg, cfgVal_setCfg, cfgVal_setCfg]
  rfl

theorem rampFields_fields (b : List Byte) (s : State) : cfgVal (rampFields b s) 0x0A02 = bodyNat b 0 2 ∧
    cfgVal (rampFields b s) 0x0A03 = bodyNat b 2 2 ∧ cfgVal (rampFields b s) 0x0A04 = bodyNat b 4 2 ∧
    cfgVal (rampFields b s) 0x0A05 = bodyNat b 8 4 ∧ cfgVal (rampFields b s) 0x0A06 = bodyNat b 12 4 := by
  simp [rampFields, cfgVal_setCfg]

theorem rampFields_eq (b : List Byte) (s : State) : ∃ c, rampFields b s = { s with cfg := c } :=
  (cfgOnly_setCfg ..).setCfg.setCfg.setCfg.setCfg

/-- What the new pool chip's handover puts in place, before its ANNOUNCEs. -/
def poolBegun (s : State) : State := { s with
  rgl.epoch := (s.rgl.epoch + 1) % 65536
  rgl.poolChip := some (chipId s)
  rgl.pool := { active := true, frozen := true, freezeEnd := s.clk.fleet + windowNs s + 1000000000, queue := s.rgl.pool.queue } }

theorem poolAct_cases (b : List Byte) (s : State) :
    (bodyNat b 0 2 = chipId s ∧ SendsOnly (poolBegun (rampFields b s)) (poolAct b s)) ∨
    (bodyNat b 0 2 ≠ chipId s ∧ poolAct b s =
      { rampFields b s with rgl.poolChip := some (bodyNat b 0 2), rgl.pool.closed := s.rgl.pool.active }) := by
  unfold poolAct
  dsimp only
  split
  · next own => exact .inl ⟨own, sendsOnly_announceAll _⟩
  · next other => exact .inr ⟨other, rfl⟩

/-- A POOL message changes configuration and regulator, and sends. -/
theorem poolAct_keeps (b : List Byte) (s : State) {α : Type} (g : State → α)
    (hg : ∀ (x : State) r f l n q, g { x with cfg := f, rgl := r, links := l, net := n, ev.queue := q } = g x) : g (poolAct b s) = g s := by
  obtain ⟨c, fields⟩ := rampFields_eq b s
  rcases poolAct_cases b s with ⟨-, sent⟩ | ⟨-, acts⟩
  · refine (sent.keeps g fun x l n q => hg x x.rgl x.cfg l n q).trans ?_
    rw [fields]
    exact hg s _ c s.links s.net s.ev.queue
  · rw [acts, fields]
    exact hg s _ c s.links s.net s.ev.queue

theorem poolSet_answer {s : State} {k : Keeper} (next : nextKeeper s 3 = some k) : ∃ s', exec .poolSet s = .next s' ∧
    s'.flt.waiting = s.flt.waiting.erase k ∧ k.swing ≤ s'.clk.fleet ∧
    s'.mem = s.mem ∧ cfgVal s' 0x0A02 = bodyNat k.body 0 2 ∧ cfgVal s' 0x0A03 = bodyNat k.body 2 2 ∧
    cfgVal s' 0x0A04 = bodyNat k.body 4 2 ∧ cfgVal s' 0x0A05 = bodyNat k.body 8 4 ∧ cfgVal s' 0x0A06 = bodyNat k.body 12 4 ∧
    s'.rgl.poolChip = some (bodyNat k.body 0 2) ∧
    (bodyNat k.body 0 2 = chipId s → s'.rgl.epoch = (s.rgl.epoch + 1) % 65536 ∧ s'.rgl.pool.active = true ∧ s'.rgl.pool.frozen = true ∧
      s'.rgl.pool.leases = []) ∧
    (bodyNat k.body 0 2 ≠ chipId s → s'.rgl.epoch = s.rgl.epoch ∧ isPool s' = false) := by
  obtain ⟨c, up, s', given, rfl, waiting, at_, mem⟩ := keeper_answer (i := .poolSet) (execPoolSet.eq_1 s) next
    (fun t => poolAct_keeps _ t (·.mem) fun _ _ _ _ _ _ => rfl) (fun t => poolAct_keeps _ t (·.tps) fun _ _ _ _ _ _ => rfl)
    (fun t => poolAct_keeps _ t (·.flt.waiting) fun _ _ _ _ _ _ => rfl) (fun t => poolAct_keeps _ t (·.clk) fun _ _ _ _ _ _ => rfl)
  have kept (x : Nat) : cfgVal (poolAct k.body (swung s 3 k c up)) x = cfgVal (rampFields k.body (swung s 3 k c up)) x := by
    rcases poolAct_cases k.body (swung s 3 k c up) with ⟨-, sent⟩ | ⟨-, acts⟩
    · exact sent.cfgVal x
    · rw [acts]
      rfl
  have cfg (x : Nat) := (answer_cfgVal s.pending (poolAct k.body (swung s 3 k c up)) x).trans (kept x)
  obtain ⟨chip, backup, window, rise, fall⟩ := rampFields_fields k.body (swung s 3 k c up)
  refine ⟨_, given, waiting, at_, mem, (cfg _).trans chip, (cfg _).trans backup, (cfg _).trans window, (cfg _).trans rise, (cfg _).trans fall, ?_⟩
  have rgl : (collect (poolAct k.body (swung s 3 k c up))).rgl = (poolAct k.body (swung s 3 k c up)).rgl := collect_rgl _
  rcases poolAct_cases k.body (swung s 3 k c up) with ⟨own, sent⟩ | ⟨other, acts⟩
  · replace own : bodyNat k.body 0 2 = chipId s := own
    have begun := rgl.trans (sent.keeps (·.rgl) fun _ _ _ _ => rfl)
    refine ⟨?_, fun _ => ?_, fun other => absurd own other⟩
    · refine (congrArg Rgl.poolChip begun).trans (congrArg some ?_)
      exact (chipId_rampFields ..).trans own.symm
    · exact ⟨congrArg Rgl.epoch begun, congrArg (·.pool.active) begun, congrArg (·.pool.frozen) begun, congrArg (·.pool.leases) begun⟩
  · have closed := rgl.trans (congrArg State.rgl acts)
    refine ⟨congrArg Rgl.poolChip closed, fun own => absurd own other, fun _ => ⟨(congrArg Rgl.epoch closed :), ?_⟩⟩
    exact (congrArg (fun r : Rgl => r.pool.active && !r.pool.closed) closed :).trans (Bool.and_not_self _)

/-! ### REWARD -/

theorem buildBegun_congr {s t : State} (h : t.stms = s.stms) (p n : Nat) : buildBegun t p n = buildBegun s p n := by
  unfold buildBegun getStm
  rw [h]

theorem rewardAct_late {b : List Byte} {s : State}
    (h : buildBegun s (bodyNat b 0 1) (bodyNat b 4 4) = true ∨ 16 ≤ (tget [] s.cul.keeper (bodyNat b 0 1)).length) :
    ∃ r, rewardAct b s = post 0x09 3 1 (pl1 (bodyNat b 0 1) ++ pl4 (bodyNat b 4 4) ++ pl1 r) { s with cul.rewLate := s.cul.rewLate + 1 } := by
  unfold rewardAct
  dsimp only
  split
  · exact ⟨1, rfl⟩
  · next fresh => exact ⟨2, if_pos (h.resolve_left fresh)⟩

theorem rewardAct_held {b : List Byte} {s : State} (fresh : buildBegun s (bodyNat b 0 1) (bodyNat b 4 4) = false)
    (room : (tget [] s.cul.keeper (bodyNat b 0 1)).length < 16) : rewardAct b s = { s with
      cul.keeper := tmod [] s.cul.keeper (bodyNat b 0 1) fun l => l ++ [⟨bodyNat b 4 4, bodyNat b 1 1, bodyNat b 2 1, signed 32 (bodyNat b 8 4)⟩] } :=
  (if_neg (by simp [fresh])).trans (if_neg (Nat.not_le.2 room))

/-- A REWARD changes the Culture's rewards, and posts. -/
theorem rewardAct_keeps (b : List Byte) (s : State) {α : Type} (g : State → α)
    (hg : ∀ (x : State) u q, g { x with cul := u, ev.queue := q } = g x) : g (rewardAct b s) = g s := by
  by_cases late : buildBegun s (bodyNat b 0 1) (bodyNat b 4 4) = true ∨ 16 ≤ (tget [] s.cul.keeper (bodyNat b 0 1)).length
  · obtain ⟨r, acts⟩ := rewardAct_late late
    rw [acts]
    exact hg s { s.cul with rewLate := s.cul.rewLate + 1 } _
  · rw [not_or] at late
    rw [rewardAct_held (eq_false_of_ne_true late.1) (Nat.not_le.1 late.2)]
    exact hg _ _ s.ev.queue

theorem keeperReward_answer {s : State} {k : Keeper} (next : nextKeeper s 4 = some k) : ∃ s', exec .keeperReward s = .next s' ∧
    s'.flt.waiting = s.flt.waiting.erase k ∧ k.swing ≤ s'.clk.fleet ∧ s'.mem = s.mem ∧
    (buildBegun s (bodyNat k.body 0 1) (bodyNat k.body 4 4) = false → (tget [] s.cul.keeper (bodyNat k.body 0 1)).length < 16 →
      tget [] s'.cul.keeper (bodyNat k.body 0 1) = tget [] s.cul.keeper (bodyNat k.body 0 1) ++
        [⟨bodyNat k.body 4 4, bodyNat k.body 1 1, bodyNat k.body 2 1, signed 32 (bodyNat k.body 8 4)⟩] ∧ s'.cul.rewLate = s.cul.rewLate) ∧
    (buildBegun s (bodyNat k.body 0 1) (bodyNat k.body 4 4) = true ∨ 16 ≤ (tget [] s.cul.keeper (bodyNat k.body 0 1)).length →
      s'.cul = { s.cul with rewLate := s.cul.rewLate + 1 }) := by
  obtain ⟨c, up, s', given, rfl, waiting, at_, mem⟩ := keeper_answer (i := .keeperReward) (execKeeperReward.eq_1 s) next
    (fun t => rewardAct_keeps _ t (·.mem) fun _ _ _ => rfl) (fun t => rewardAct_keeps _ t (·.tps) fun _ _ _ => rfl)
    (fun t => rewardAct_keeps _ t (·.flt.waiting) fun _ _ _ => rfl) (fun t => rewardAct_keeps _ t (·.clk) fun _ _ _ => rfl)
  have cul : (collect (rewardAct k.body (swung s 4 k c up))).cul = (rewardAct k.body (swung s 4 k c up)).cul := collect_cul _
  refine ⟨_, given, waiting, at_, mem, fun fresh room => ?_, fun late => ?_⟩
  · replace cul := cul.trans (congrArg State.cul (rewardAct_held (s := swung s 4 k c up) fresh room))
    exact ⟨(congrArg (fun u : Cul => tget [] u.keeper (bodyNat k.body 0 1)) cul).trans (tget_tput_self ..), (congrArg Cul.rewLate cul :)⟩
  · obtain ⟨r, acts⟩ := rewardAct_late (b := k.body) (s := swung s 4 k c up) late
    exact cul.trans (congrArg State.cul acts)

/-! ### FENCE and UNFENCE -/

/-- What a fence leaves of the machine: its waiting messages and its clocks. -/
theorem fenceChip_waiting (x reason hops origin : Nat) (from_ : Option Nat) (s : State) :
    (fenceChip x reason hops origin from_ s).flt.waiting = s.flt.waiting ∧ (fenceChip x reason hops origin from_ s).clk = s.clk := by
  by_cases known : isFenced s x = true ∨ x = chipId s
  · rw [fenceChip_self known]
    exact ⟨rfl, rfl⟩
  · have sent (cs : List Nat) (g : Nat → Nat) (t : State) : SendsOnly t (cs.foldl (fun t c => sendNotice c (g c) t) t) :=
      .foldl _ (fun _ _ => sendsOnly_sendNotice ..) _ _
    rw [not_or] at known
    refine ⟨by rw [fenceChip_flt (eq_false_of_ne_true known.1) known.2], ?_⟩
    unfold fenceChip
    rw [if_neg (by simp [known])]
    dsimp only
    split
    · exact (sent _ _ _).clk.trans (workOnly_failAllColls _).clk
    · exact (workOnly_failAllColls _).clk

theorem fenceChip_answer {s : State} {k : Keeper} (next : nextKeeper s 5 = some k) : ∃ s', exec .fenceChip s = .next s' ∧
    s'.flt.waiting = s.flt.waiting.erase k ∧ k.swing ≤ s'.clk.fleet ∧
    (isFenced s (bodyNat k.body 0 2) = false → bodyNat k.body 0 2 ≠ chipId s → s.flt.fences.length < 16 →
      s'.flt.fences = s.flt.fences ++ [⟨bodyNat k.body 0 2, 4⟩]) := by
  obtain ⟨c, up, due, acts⟩ := atSwing_some (fun b s => fenceChip (bodyNat b 0 2) 4 1 (chipId s) none s) next
  obtain ⟨waiting, clk⟩ := fenceChip_waiting (bodyNat k.body 0 2) 4 1 (chipId (swung s 5 k c up)) none (swung s 5 k c up)
  refine ⟨_, gives_run (i := .fenceChip) _ _ (execFenceChip.eq_1 s) acts, (answer_flt ..).2.1.trans waiting, ?_, fun new other room => ?_⟩
  · rw [collect_clk, clk]
    exact due
  · rw [(answer_flt ..).1, fenceChip_flt (s := swung s 5 k c up) new other]
    dsimp only
    exact congrArg (· ++ _) (if_neg (Nat.not_le.2 room))

theorem unfenceChip_answer {s : State} {k : Keeper} (next : nextKeeper s 6 = some k) : ∃ s', exec .unfenceChip s = .next s' ∧
    s'.flt.waiting = s.flt.waiting.erase k ∧ k.swing ≤ s'.clk.fleet ∧
    s'.mem = s.mem ∧ s'.flt.fences = s.flt.fences.filter (fun x => x.chip != bodyNat k.body 0 2) ∧
    (bodyNat k.body 0 2 = chipId s → s'.flt.selfFence = false) ∧
    (bodyNat k.body 0 2 ≠ chipId s → s'.flt.selfFence = s.flt.selfFence) := by
  obtain ⟨c, up, s', given, rfl, waiting, at_, mem⟩ := keeper_answer (i := .unfenceChip) (execUnfenceChip.eq_1 s) next
    (fun _ => rfl) (fun _ => rfl) (fun _ => rfl) (fun _ => rfl)
  obtain ⟨fences, -, -, own⟩ := answer_flt s.pending (unfenceAct k.body (swung s 6 k c up))
  replace own := own.trans (show _ = (s.flt.selfFence && !(bodyNat k.body 0 2 == chipId s)) from rfl)
  refine ⟨_, given, waiting, at_, mem, fences, fun self => ?_, fun other => ?_⟩
  · rw [own, beq_iff_eq.2 self]
    exact Bool.and_false _
  · rw [own, beq_false_of_ne other]
    exact Bool.and_true _

/-! ### REMAP -/

theorem checkRemap_sends (s : State) : ∃ r, SendsOnly { s with flt.remap := r } (checkRemap s) := by
  unfold checkRemap
  dsimp only
  split
  · exact ⟨_, sendsOnly_sendU ..⟩
  · exact ⟨s.flt.remap, .refl _⟩

/-- A REMAP changes the restore's record, and may send. -/
theorem remapAct_sends (b : List Byte) (s : State) : ∃ r, SendsOnly { s with flt.remap := r } (remapAct b s) := by
  unfold remapAct
  dsimp only
  split
  · exact checkRemap_sends _
  · exact ⟨_, .refl _⟩

theorem remapSlice_answer {s : State} {k : Keeper} (next : nextKeeper s 7 = some k) : ∃ s', exec .remapSlice s = .next s' ∧
    s'.flt.waiting = s.flt.waiting.erase k ∧ k.swing ≤ s'.clk.fleet ∧
    s'.mem = s.mem ∧ s'.flt.remap.peer = bodyNat k.body 2 2 ∧
    (bodyNat k.body 0 1 ≠ 1 → s'.flt.remap =
      { state := 1, target := true, needLd := decide (bodyNat k.body 4 1 = 0), peer := bodyNat k.body 2 2 }) ∧
    (bodyNat k.body 0 1 = 1 → s'.flt.remap.source = true ∧ s'.flt.remap.target = false ∧ s'.flt.remap.left = restorePlan s k.body ∧
      (restorePlan s k.body ≠ [] → s'.flt.remap.state = 1)) := by
  have sent {α : Type} (g : State → α) (hg : ∀ (x : State) r l n q, g { x with flt.remap := r, links := l, net := n, ev.queue := q } = g x)
      (t : State) : g (remapAct k.body t) = g t := by
    obtain ⟨r, h⟩ := remapAct_sends k.body t
    exact (h.keeps g fun x l n q => hg x x.flt.remap l n q).trans (hg t r t.links t.net t.ev.queue)
  obtain ⟨c, up, s', given, rfl, waiting, at_, mem⟩ := keeper_answer (i := .remapSlice) (execRemapSlice.eq_1 s) next
    (sent (·.mem) fun _ _ _ _ _ => rfl) (sent (·.tps) fun _ _ _ _ _ => rfl) (sent (·.flt.waiting) fun _ _ _ _ _ => rfl)
    (sent (·.clk) fun _ _ _ _ _ => rfl)
  have remap := (answer_flt s.pending (remapAct k.body (swung s 7 k c up))).2.2.1
  refine ⟨_, given, waiting, at_, mem, ?_⟩
  rw [remap]
  by_cases source : bodyNat k.body 0 1 = 1
  · have begun : remapAct k.body (swung s 7 k c up) = checkRemap { swung s 7 k c up with
        flt.remap := { state := 1, source := true, peer := bodyNat k.body 2 2, left := restorePlan s k.body } } := if_pos source
    have kept := (congrArg (·.flt.remap) begun).trans (checkRemap_remap _)
    refine ⟨congrArg Remap.peer kept, fun h => absurd source h,
      fun _ => ⟨congrArg Remap.source kept, congrArg Remap.target kept, congrArg Remap.left kept, fun some_ => ?_⟩⟩
    rw [begun, checkRemap, if_neg (by simp [some_])]
  · have begun : remapAct k.body (swung s 7 k c up) = { swung s 7 k c up with
        flt.remap := { state := 1, target := true, needLd := bodyNat k.body 4 1 == 0, peer := bodyNat k.body 2 2 } } := if_neg source
    rw [begun]
    exact ⟨rfl, fun _ => rfl, fun h => absurd h source⟩

/-- Settles O39: the message that applies next is taken from the waiting ones, fleet time goes to its swing, and each body's effect is
its operation's own lemma above. -/
theorem keeperOperations : Obligations.KeeperOperations := by
  unfold Obligations.KeeperOperations
  exact fun s k => ⟨routeSet_answer, ringSet_answer, poolSet_answer, keeperReward_answer, fenceChip_answer, unfenceChip_answer, remapSlice_answer⟩

end Sys2Proof.Machine
end

section
/-! PROOFS. The UART's line: frames, what is received, breaks, and what is sent next (R340, R343 to R348). -/

namespace Sys2Proof.Machine

/-! ### A frame's bits (R340) -/

/-- The majority of three samples, counted. -/
theorem majority_eq (t : Bool × Bool × Bool) : majority t = decide (2 ≤ b2n t.1 + b2n t.2.1 + b2n t.2.2) := by
  obtain ⟨a, b, c⟩ := t
  revert a b c
  decide

theorem dataWidth_eq (ctrl : Nat) : 8 - ctrl % 2 = if bitAt ctrl 0 then 7 else 8 := by
  rcases Nat.mod_two_eq_zero_or_one ctrl with h | h <;> simp [bitAt, Nat.testBit_zero, h]

/-- Bits added up by their weights are the number's bits. -/
theorem sumNat_weights (f : Nat → Bool) (a n : Nat) : ∃ m, sumNat ((upFrom a n).map fun k => b2n (f k) * 2 ^ k) = 2 ^ a * m ∧
    m < 2 ^ n ∧ ∀ i, i < n → m.testBit i = f (a + i) := by
  induction n generalizing a with
  | zero => exact ⟨0, rfl, by decide, fun i hi => absurd hi (Nat.not_lt_zero i)⟩
  | succ n ih =>
    obtain ⟨m, sum, small, tests⟩ := ih (a + 1)
    have low : b2n (f a) < 2 := by cases f a <;> decide
    refine ⟨b2n (f a) + 2 * m, ?_, by rw [Nat.pow_succ]; omega, fun i hi => ?_⟩
    · rw [upFrom, List.map_cons, sumNat, sum, Nat.pow_succ]
      ring
    · cases i with
      | zero => cases h : f a <;> simp [b2n, Nat.testBit_zero, Nat.add_mod]
      | succ i =>
        rw [Nat.testBit_succ, Nat.add_mul_div_left _ _ (by decide), Nat.div_eq_of_lt low, Nat.zero_add, tests i (by omega)]
        congr 1
        omega

/-- The parity of a list of bits. -/
theorem foldl_xor (f : Nat → Bool) (ks : List Nat) (b : Bool) :
    (ks.map f).foldl xor b = xor b (decide ((ks.filter f).length % 2 = 1)) := by
  induction ks generalizing b with
  | nil => simp
  | cons k ks ih =>
    rw [List.map_cons, List.foldl_cons, ih, List.filter_cons]
    cases f k
    · simp
    · rw [if_pos rfl, List.length_cons, Bool.xor_assoc, Bool.true_xor, ← decide_not]
      congr 2
      rw [eq_iff_iff]
      omega

/-- How many of a character's data bits are ones. -/
def onesOf (ctrl c : Nat) : Nat := ((upFrom 0 (8 - ctrl % 2)).filter fun k => bitAt c k).length

theorem dataBits_odd (ctrl c : Nat) : (dataBits ctrl c).foldl xor false = decide (onesOf ctrl c % 2 = 1) :=
  (foldl_xor (bitAt c) _ false).trans (Bool.false_xor _)

section
variable {ctrl : Nat} (c : Nat)

theorem parityBit_even (h : bits ctrl 1 3 = 1) : parityBit ctrl c = decide (onesOf ctrl c % 2 = 1) := by
  rw [← dataBits_odd]
  simp only [parityBit, h]

theorem parityBit_odd (h : bits ctrl 1 3 = 2) : parityBit ctrl c = decide (onesOf ctrl c % 2 = 0) := by
  have flipped : decide (onesOf ctrl c % 2 = 0) = !decide (onesOf ctrl c % 2 = 1) := by
    rw [← decide_not, decide_eq_decide]
    omega
  rw [flipped, ← dataBits_odd]
  simp only [parityBit, h]

theorem parityBit_mark (h : bits ctrl 1 3 = 3) : parityBit ctrl c = true := by simp only [parityBit, h]
theorem parityBit_space (h : bits ctrl 1 3 = 4) : parityBit ctrl c = false := by simp only [parityBit, h]

end

theorem length_dataBits (ctrl c : Nat) : (dataBits ctrl c).length = 8 - ctrl % 2 := by simp [dataBits, upFrom_eq_range]

theorem getElem?_dataBits {ctrl c k : Nat} (h : k < 8 - ctrl % 2) : (dataBits ctrl c)[k]? = some (bitAt c k) := by
  simp [dataBits, upFrom_eq_range, h]

theorem length_lineBits (ctrl c : Nat) : (lineBits ctrl c).length = frameBits ctrl := by
  unfold lineBits frameBits
  split <;> simp [length_dataBits] <;> omega

theorem getElem?_lineBits_data {ctrl c k : Nat} (h : k < 8 - ctrl % 2) : (lineBits ctrl c)[k + 1]? = some (bitAt c k) := by
  rw [lineBits, List.append_assoc, List.cons_append, List.getElem?_cons_succ, List.getElem?_append_left (by rw [length_dataBits]; exact h),
    getElem?_dataBits h]

theorem getElem?_lineBits_parity {ctrl c : Nat} (h : bits ctrl 1 3 ≠ 0) :
    (lineBits ctrl c)[8 - ctrl % 2 + 1]? = some (parityBit ctrl c) := by
  rw [lineBits, List.append_assoc, List.cons_append, List.getElem?_cons_succ,
    List.getElem?_append_right (by rw [length_dataBits]), length_dataBits, Nat.sub_self, if_neg h]
  rfl

theorem getElem?_lineBits_stop {ctrl c k : Nat} (low : 8 - ctrl % 2 + 1 + (if bits ctrl 1 3 = 0 then 0 else 1) ≤ k) (high : k < frameBits ctrl) :
    (lineBits ctrl c)[k]? = some true := by
  have size : ((false :: dataBits ctrl c) ++ (if bits ctrl 1 3 = 0 then [] else [parityBit ctrl c])).length =
      8 - ctrl % 2 + 1 + (if bits ctrl 1 3 = 0 then 0 else 1) := by
    split <;> simp [length_dataBits]
  rw [lineBits, List.getElem?_append_right (by rw [size]; exact low), size, List.getElem?_replicate, if_pos]
  unfold frameBits at high
  omega

/-- The character of a frame: bit k is the majority of its samples. -/
theorem readFrame_ch (ctrl : Nat) (data : List (Bool × Bool × Bool)) (par stop : Bool × Bool × Bool) :
    (readFrame ctrl data par stop).ch < 2 ^ (8 - ctrl % 2) ∧
      ∀ k, k < 8 - ctrl % 2 → bitAt (readFrame ctrl data par stop).ch k = majority (data.getD k (false, false, false)) := by
  obtain ⟨m, sum, small, tests⟩ := sumNat_weights (fun k => majority (data.getD k (false, false, false))) 0 (8 - ctrl % 2)
  have own : (readFrame ctrl data par stop).ch = m := sum.trans (by simp)
  rw [own]
  exact ⟨small, fun k hk => (tests k hk).trans (by rw [Nat.zero_add])⟩

theorem readFrame_parity {ctrl : Nat} (data : List (Bool × Bool × Bool)) (par stop : Bool × Bool × Bool) (h : bits ctrl 1 3 ≠ 0) :
    (readFrame ctrl data par stop).parity = (majority par != parityBit ctrl (readFrame ctrl data par stop).ch) :=
  (congrArg (· && _) (bne_iff_ne.2 h)).trans (Bool.true_and _)

/-- A received bit of even parity is wrong where the ones with it are odd; of odd parity, where they are even. -/
theorem bne_parity (b : Bool) (n : Nat) : (b != decide (n % 2 = 1)) = decide ((n + b2n b) % 2 = 1) ∧
    (b != decide (n % 2 = 0)) = decide ((n + b2n b) % 2 = 0) := by
  rcases Nat.mod_two_eq_zero_or_one n with h | h <;> cases b <;> simp [b2n, h, Nat.add_mod]

/-! ### What the receiver does (R343, R344, R346, R347) -/

@[simp] theorem passUp_uart (t : Nat) (s : State) : (passUp t s).uart = s.uart := by
  unfold passUp passNs advanceTo; split_ifs <;> rfl

section
variable {s : State} {data : List (Bool × Bool × Bool)} {par stop : Bool × Bool × Bool}

theorem characterReceived_break (runs : uartRuns s = true) (idle : s.uart.inBreak = false) (broken : isBreak (rxFormat s).1 data par stop = true) :
    exec (.characterReceived data par stop) s = exec .breakDetect s := by
  have acts : (uartRuns s && !s.uart.inBreak) = true := by rw [runs, idle]; rfl
  have detects : isBreak (takeFormat s).uart.rxCtrl data par stop = true := broken
  rw [execCharacterReceived.eq_1 data par stop s |> fun h => (h : exec (.characterReceived data par stop) s = _),
    execBreakDetect.eq_1 s |> fun h => (h : exec .breakDetect s = _), runCtl, runCtl]
  simp only [acts, detects, if_true]

/-- A frame that is no break, as it is received. -/
theorem gives_characterReceived (runs : uartRuns s = true) (idle : s.uart.inBreak = false)
    (frame : isBreak (rxFormat s).1 data par stop = false) {u : State}
    (hu : pushRx (readFrame (rxFormat s).1 data par stop) (takeFormat s) = u) (mem : u.mem = s.mem) (tps : u.tps = s.tps) :
    Gives (.characterReceived data par stop) s { u with uart.rxHigh := true, uart.waitIdle := false } := by
  have acts : (uartRuns s && !s.uart.inBreak) = true := by rw [runs, idle]; rfl
  refine gives_runCtl _ _ (execCharacterReceived.eq_1 data par stop s) ?_ mem tps
  rw [if_pos acts]
  exact (if_neg (ne_true_of_eq_false frame)).trans (by rw [← hu]; rfl)

/-- A character lost to a full FIFO: its state but for the event (R343, R361). -/
theorem loseRx_uart (s : State) : ∃ n t q, loseRx s = { s with
    uart := { raiseFlags 4 s.uart with rxLost := sat32 (s.uart.rxLost + 1), lostEv := n, lostEvNs := t }, ev.queue := q } := by
  have posted (c : Bool) (t : State) (p : List Byte) : ∃ q, postIf c 0x0D 4 1 p t = { t with ev.queue := q } := by
    unfold postIf
    split
    · exact ⟨_, rfl⟩
    · exact ⟨t.ev.queue, rfl⟩
  obtain ⟨q, loses⟩ := posted _ _ _
  exact ⟨_, _, q, loses⟩

/-- What an effect on the UART and postings leaves of the rest, collected. -/
theorem answer_uart {i : Instr} {u : State} {x : Uart} {q : List Ev} (given : Gives i s u) (h : u = { s with uart := x, ev.queue := q }) :
    ∃ s', exec i s = .next s' ∧ s'.uart = x ∧ s' = { reported s s' with uart := s'.uart } := by
  generalize hs : ({ collect u with pending := s.pending } : State) = s'
  have own : s' = { reported u s' with pending := s.pending } := by
    rw [← hs]
    exact answer_reported s.pending u
  have uart : s'.uart = x := by
    rw [← hs]
    exact (collect_uart u).trans (congrArg State.uart h)
  refine ⟨s', Eq.trans given (by rw [hs]), uart, ?_⟩
  rw [uart]
  exact own.trans (congrArg (fun y : State => { reported y s' with pending := s.pending }) h)

theorem characterLost_answer (runs : uartRuns s = true) (idle : s.uart.inBreak = false)
    (frame : isBreak (rxFormat s).1 data par stop = false) (full : 16 ≤ s.uart.rx.length) :
    ∃ s', exec (.characterReceived data par stop) s = .next s' ∧ s'.uart.rx = s.uart.rx ∧
      s'.uart.rxLost = min (s.uart.rxLost + 1) (2 ^ 32 - 1) ∧ s'.uart.flags = s.uart.flags ||| 4 ∧
      s'.uart.rsq = s.uart.rsq - (s.uart.rsq &&& 4) ∧ s' = { reported s s' with uart := s'.uart } := by
  obtain ⟨n, t, q, lost⟩ := loseRx_uart (takeFormat s)
  have given := gives_characterReceived runs idle frame ((if_pos full).trans lost) rfl rfl
  obtain ⟨s', answers, uart, rest⟩ := answer_uart given rfl
  refine ⟨s', answers, ?_, ?_, ?_, ?_, rest⟩ <;> rw [uart]
  · rfl
  · rfl
  · rfl
  · rfl

theorem gives_breakDetect (runs : uartRuns s = true) (idle : s.uart.inBreak = false) (room : s.uart.rx.length < 16) :
    Gives .breakDetect s { s with uart := { s.uart with
      rxCtrl := (rxFormat s).1, rxBaud := (rxFormat s).2, rx := s.uart.rx ++ [⟨0, true, false, false⟩], flags := s.uart.flags ||| 8
      rsq := s.uart.rsq - (s.uart.rsq &&& 8), inBreak := true, rxHigh := false
      brkFrom := s.upNs - 5 * (rxFormat s).2 * (2 * (if bits (rxFormat s).1 1 3 = 0 then 9 - (rxFormat s).1 % 2 else 10 - (rxFormat s).1 % 2) + 1) / 2 } } := by
  have acts : (uartRuns s && !s.uart.inBreak) = true := by rw [runs, idle]; rfl
  have before : bitsBeforeStop (rxFormat s).1 = if bits (rxFormat s).1 1 3 = 0 then 9 - (rxFormat s).1 % 2 else 10 - (rxFormat s).1 % 2 := by
    unfold bitsBeforeStop
    split <;> omega
  refine gives_runCtl _ _ (execBreakDetect.eq_1 s) ?_ rfl rfl
  rw [if_pos acts, takeBreak, pushRx_room _ (takeFormat s) room, ← before]
  simp [raiseFlags, takeFormat, b2n]

/-- While a break lasts no frame is received. -/
theorem gives_inBreak (low : s.uart.inBreak = true) :
    Gives (.characterReceived data par stop) s s ∧ Gives .breakDetect s s := by
  have still : ¬(uartRuns s && !s.uart.inBreak) = true := by simp [low]
  exact ⟨gives_runCtl _ _ (execCharacterReceived.eq_1 data par stop s) (if_neg still) rfl rfl,
    gives_runCtl _ _ (execBreakDetect.eq_1 s) (if_neg still) rfl rfl⟩

/-! ### The end of a break (R346 to R348) -/

/-- The line at the end of a break: high, with the break's length held. -/
def breakRisen (cycles : Nat) (s : State) : State :=
  { passUp (s.uart.brkFrom + 5 * cycles) s with
    uart.inBreak := false, uart.rxHigh := true, uart.brkLen := min (cycles / s.uart.rxBaud) 0xFFFF, uart.waitIdle := true
    uart.rxCtrl := s.uart.ctrl, uart.rxBaud := s.uart.baud }

theorem breakRisen_eq (cycles : Nat) (s : State) : { passUp (s.uart.brkFrom + 5 * cycles) s with uart := { s.uart with
    inBreak := false, rxHigh := true, brkLen := min (cycles / s.uart.rxBaud) 0xFFFF, waitIdle := true, rxCtrl := s.uart.ctrl, rxBaud := s.uart.baud } } =
      breakRisen cycles s := by
  rw [breakRisen, passUp_uart]

theorem crownOwns_congr {s t : State} (h : t.uart.reported = s.uart.reported) (h' : t.cfg = s.cfg) : crownOwns t = crownOwns s := by
  rw [crownOwns, crownOwns, cfgVal, cfgVal, h, h']

variable {cycles : Nat}

theorem breakEnd_eq (runs : uartRuns s = true) (low : s.uart.inBreak = true) : exec (.breakEnd cycles) s = runCtl (fun _ =>
    if cycles / s.uart.rxBaud < 2 * frameBits s.uart.rxCtrl then breakRisen cycles s
    else if cycles < 50000000 then attention (min (cycles / s.uart.rxBaud) 0xFFFF) (breakRisen cycles s)
    else if cfgVal s 0x0C04 = 1 then breakRisen cycles s
    else post 0x0D 3 0 (pl4 (min (cycles / s.uart.rxBaud) 0xFFFF)) (breakRisen cycles s)) s := by
  have acts : (uartRuns s && s.uart.inBreak) = true := by rw [runs, low]; rfl
  refine (execBreakEnd.eq_1 cycles s).trans ?_
  rw [runCtl, runCtl, if_pos acts]
  dsimp only
  rw [breakRisen_eq]

theorem gives_breakEnd_short (runs : uartRuns s = true) (low : s.uart.inBreak = true) (short : cycles / s.uart.rxBaud < 2 * frameBits s.uart.rxCtrl) :
    Gives (.breakEnd cycles) s (breakRisen cycles s) :=
  gives_runCtl _ _ (breakEnd_eq runs low) (if_pos short) (passUp_mem _ _) (passUp_tps _ _)

theorem gives_breakEnd_attention (runs : uartRuns s = true) (host : crownOwns s = false) (low : s.uart.inBreak = true)
    (long : 2 * frameBits s.uart.rxCtrl ≤ cycles / s.uart.rxBaud) (brief : cycles < 50000000) :
    Gives (.breakEnd cycles) s { post 0x0D 1 0 (pl4 (min (cycles / s.uart.rxBaud) 0xFFFF)) (breakRisen cycles s) with uart.attn := true } := by
  refine gives_runCtl _ _ (breakEnd_eq runs low) ?_ (passUp_mem _ _) (passUp_tps _ _)
  rw [if_neg (Nat.not_lt.2 long), if_pos brief, attention]
  refine if_neg (ne_true_of_eq_false (Eq.trans (crownOwns_congr ?_ ?_) host))
  · rw [← passUp_uart (s.uart.brkFrom + 5 * cycles) s]
    rfl
  · exact passUp_cfg _ _

theorem gives_breakEnd_long (runs : uartRuns s = true) (low : s.uart.inBreak = true)
    (long : 2 * frameBits s.uart.rxCtrl ≤ cycles / s.uart.rxBaud) (late : 50000000 ≤ cycles) (no : cfgVal s 0x0C04 ≠ 1) :
    Gives (.breakEnd cycles) s (post 0x0D 3 0 (pl4 (min (cycles / s.uart.rxBaud) 0xFFFF)) (breakRisen cycles s)) := by
  refine gives_runCtl _ _ (breakEnd_eq runs low) ?_ (passUp_mem _ _) (passUp_tps _ _)
  rw [if_neg (Nat.not_lt.2 long), if_neg (Nat.not_lt.2 late), if_neg no]

theorem gives_managementReset (runs : uartRuns s = true) (low : s.uart.inBreak = true) (on : cfgVal s 0x0C04 = 1)
    (fresh : s.pwr.mgmtResetDue = none) : Gives .managementReset s (post 0x0D 2 1 [] { passUp (s.uart.brkFrom + 250000000) s with
      pwr.mgmtResetDue := some ((passUp (s.uart.brkFrom + 250000000) s).clk.fleet + 10000) }) := by
  refine gives_runCtl _ _ (execManagementReset.eq_1 s) (if_pos ?_) (passUp_mem _ _) (passUp_tps _ _)
  rw [runs, low, on, fresh]
  rfl

theorem gives_managementReset_none (h : s.uart.inBreak = false ∨ cfgVal s 0x0C04 ≠ 1 ∨ s.pwr.mgmtResetDue ≠ none) :
    Gives .managementReset s s := by
  refine gives_runCtl _ _ (execManagementReset.eq_1 s) (if_neg ?_) rfl rfl
  rcases h with h | h | h <;> simp [h, Option.isNone_iff_eq_none]

/-! ### Sending (R343, R345) -/

theorem crownFeed_host (h : crownOwns s = false) : crownFeed s = s := if_neg (ne_true_of_eq_false h)

/-- While the host owns the UART, TX alone moves on. -/
theorem pump_host (host : crownOwns s = false) (kept : crownOwns (txNext s) = false) : pump s = txNext s := by
  rw [pump, crownFeed_host host, crownFeed_host kept]

theorem endReport_reported (h : s.uart.reported = true) : endReport s = s := if_neg (by simp [h])

/-- What TX does after a character: nothing, the next character in the format of now, or a break. -/
theorem gives_characterSent (host : crownOwns s = false) (rep : s.uart.reported = true) {z : Nat} (busy : s.uart.sending = some z) {u : State}
    (next : txNext { s with uart.sending := none, uart.line := [] } = u) (rep' : u.uart.reported = true) (cfg : u.cfg = s.cfg)
    (mem : u.mem = s.mem) (tps : u.tps = s.tps) : Gives .characterSent s u := by
  refine gives_runCtl _ _ (execCharacterSent.eq_1 s) ?_ mem tps
  have pumped := pump_host (s := { s with uart.sending := none, uart.line := [] }) ((crownOwns_congr rfl rfl).trans host)
    (by rw [next]; exact (crownOwns_congr (rep'.trans rep.symm) cfg).trans host)
  rw [if_pos (by rw [busy]; rfl), pumped, next, endReport_reported rep']

theorem gives_breakTxEnd (host : crownOwns s = false) (now : s.uart.brkNow = true) {u : State}
    (next : txNext { s with uart.brkNow := false, uart.brkTx := none } = u) (rep : u.uart.reported = s.uart.reported) (cfg : u.cfg = s.cfg)
    (mem : u.mem = s.mem) (tps : u.tps = s.tps) : Gives .breakTxEnd s u := by
  refine gives_runCtl _ _ (execBreakTxEnd.eq_1 s) ?_ mem tps
  have pumped := pump_host (s := { s with uart.brkNow := false, uart.brkTx := none }) ((crownOwns_congr rfl rfl).trans host)
    (by rw [next]; exact (crownOwns_congr rep cfg).trans host)
  rw [if_pos now, pumped, next]

theorem txNext_empty (idle : s.uart.sending = none) (quiet : s.uart.brkNow = false) (none_ : s.uart.brkTx = none) (empty : s.uart.tx = []) :
    txNext s = s := by
  simp [txNext, idle, quiet, none_, empty]

theorem txNext_break (idle : s.uart.sending = none) (quiet : s.uart.brkNow = false) {k : Nat} (waits : s.uart.brkTx = some k) :
    txNext s = { s with uart.brkNow := true } := by
  simp [txNext, idle, quiet, waits]

end

/-- Settles O43: the frame's layout and reading from the bits' weights and parity, and for each command of the line its state's case. -/
theorem uartLine : Obligations.UartLine := by
  unfold Obligations.UartLine
  intro ctrl x data par stop cycles s
  simp only [← majority_eq, ← dataWidth_eq]
  refine ⟨?_, ⟨length_lineBits .., rfl, fun k hk => getElem?_lineBits_data hk, fun h => ?_, fun h => ?_, fun h => ?_, fun h => ?_,
    fun k low high => getElem?_lineBits_stop low high⟩, ⟨(readFrame_ch ..).1, (readFrame_ch ..).2, rfl, rfl, fun h => ?_, fun h => ?_, fun h => ?_,
    fun h => ?_, fun h => ?_⟩, fun runs host rep => ⟨characterReceived_break runs, fun idle frame room => ?_, characterLost_answer runs,
    gives_inBreak, gives_breakDetect runs, gives_breakEnd_short runs, gives_breakEnd_attention runs host, gives_breakEnd_long runs,
    gives_managementReset runs, gives_managementReset_none, fun z busy quiet => ⟨fun none_ empty => ?_, fun y ys none_ full => ?_, fun k waits => ?_⟩,
    fun now idle => ⟨fun empty => ?_, fun y ys full => ?_⟩⟩⟩
  · simp [isBreak, imp_iff_not_or, and_assoc, and_left_comm, and_comm]
  · rw [getElem?_lineBits_parity (by omega), parityBit_even x h]; rfl
  · rw [getElem?_lineBits_parity (by omega), parityBit_odd x h]; rfl
  · rw [getElem?_lineBits_parity (by omega), parityBit_mark x h]
  · rw [getElem?_lineBits_parity (by omega), parityBit_space x h]
  · exact congrArg (· && _) (bne_eq_false_iff_eq.2 h)
  · rw [readFrame_parity _ _ _ (by omega), parityBit_even _ h, (bne_parity ..).1]; rfl
  · rw [readFrame_parity _ _ _ (by omega), parityBit_odd _ h, (bne_parity ..).2]; rfl
  · rw [readFrame_parity _ _ _ (by omega), parityBit_mark _ h, Bool.bne_true]
  · rw [readFrame_parity _ _ _ (by omega), parityBit_space _ h, Bool.bne_false]
  · exact gives_characterReceived runs idle frame (pushRx_room _ _ room) rfl rfl
  · exact gives_characterSent host rep busy (txNext_empty rfl quiet none_ empty) rep rfl rfl rfl
  · exact gives_characterSent host rep busy (txNext_idle _ y ys rfl quiet none_ full) rep rfl rfl rfl
  · exact gives_characterSent host rep busy (txNext_break rfl quiet waits) rep rfl rfl rfl
  · exact gives_breakTxEnd host now (txNext_empty idle rfl rfl empty) rfl rfl rfl rfl
  · exact gives_breakTxEnd host now (txNext_idle _ y ys idle rfl rfl full) rfl rfl rfl rfl

end Sys2Proof.Machine
end

section
/-! PROOFS. The handover, and the range check of a configuration field (R23, R318, R327, R330 to R332, R335). -/

namespace Sys2Proof.Machine

/-! ### The range check (R327) -/

theorem maxNat_mem {xs : List Nat} (h : xs ≠ []) : maxNat xs ∈ xs := by
  induction xs with
  | nil => exact absurd rfl h
  | cons x xs ih =>
    rw [maxNat]
    by_cases empty : xs = []
    · subst empty
      simp [maxNat]
    · rcases max_choice x (maxNat xs) with e | e <;> rw [e]
      · exact List.mem_cons_self
      · exact List.mem_cons_of_mem _ (ih empty)

theorem le_maxNat {xs : List Nat} {x : Nat} (h : x ∈ xs) : x ≤ maxNat xs := by
  induction xs with
  | nil => exact absurd h List.not_mem_nil
  | cons y xs ih =>
    rcases List.mem_cons.1 h with rfl | h
    · exact Nat.le_max_left _ _
    · exact (ih h).trans (Nat.le_max_right _ _)

/-- What the catalogue gives of a field: a permitted default, bounds that are permitted values, and listed values within them. -/
structure Sound (f : Field) : Prop where
  default_ : f.rule = .d → fieldPermits f f.dflt = true
  bounds : f.rule = .c → f.lo ≤ f.hi
  steps : f.rule = .c → f.lo % f.step = 0 ∧ f.hi % f.step = 0
  listed : f.rule = .c → f.list ≠ [] → f.zero = false ∧ f.lo ∈ f.list ∧ f.hi ∈ f.list ∧ ∀ x ∈ f.list, f.lo ≤ x ∧ x ≤ f.hi

/-- The facts of `Sound`, as they are evaluated. -/
def soundCheck (f : Field) : Bool :=
  (f.rule != .d || fieldPermits f f.dflt) && (f.rule != .c || decide (f.lo ≤ f.hi) && f.lo % f.step == 0 && f.hi % f.step == 0 &&
    (f.list.isEmpty || !f.zero && f.list.contains f.lo && f.list.contains f.hi && f.list.all fun x => decide (f.lo ≤ x) && decide (x ≤ f.hi)))

theorem catalogue_soundCheck : catalogue.all soundCheck = true := by decide +kernel

theorem sound_of_soundCheck {f : Field} (h : soundCheck f = true) : Sound f := by
  simp only [soundCheck, Bool.and_eq_true, Bool.or_eq_true, bne_iff_ne, ne_eq, decide_eq_true_eq, beq_iff_eq, List.isEmpty_iff,
    Bool.not_eq_true', List.contains_iff_mem, List.all_eq_true] at h
  obtain ⟨dflt, range⟩ := h
  refine ⟨fun d => dflt.resolve_left (absurd d), fun c => ?_, fun c => ?_, fun c some_ => ?_⟩ <;>
    obtain ⟨⟨⟨bounds, lo⟩, hi⟩, listed⟩ := range.resolve_left (absurd c)
  · exact bounds
  · exact ⟨lo, hi⟩
  · obtain ⟨⟨⟨zero, low⟩, high⟩, within⟩ := listed.resolve_left some_
    exact ⟨zero, low, high, within⟩

theorem sound_of_mem {f : Field} (h : f ∈ catalogue) : Sound f := sound_of_soundCheck (List.all_eq_true.1 catalogue_soundCheck f h)

section
variable {f : Field} {v : Nat}

theorem permits_range (h : f.list = []) : fieldPermits f v = true ↔ (f.zero = true ∧ v = 0) ∨ (f.lo ≤ v ∧ v ≤ f.hi ∧ v % f.step = 0) := by
  simp [fieldPermits, h, and_assoc]

theorem permits_listed (h : f.list ≠ []) : fieldPermits f v = true ↔ v ∈ f.list := by simp [fieldPermits, h]

theorem floor_range (h : f.list = []) : fieldFloor f v = if v < f.lo then 0 else v / f.step * f.step := by simp [fieldFloor, h]

theorem floor_listed (h : f.list ≠ []) : fieldFloor f v = maxNat (f.list.filter (· ≤ v)) := by simp [fieldFloor, h]

/-- The value that clamping gives, by where the value lies. -/
theorem clamp_cases (c : f.rule = .c) : (v < fieldMin f ∧ (fieldClamp f v).1 = fieldMin f) ∨
    (fieldMin f ≤ v ∧ f.hi < v ∧ (fieldClamp f v).1 = f.hi) ∨ (fieldMin f ≤ v ∧ v ≤ f.hi ∧ (fieldClamp f v).1 = fieldFloor f v) := by
  have clamped : (fieldClamp f v).1 = if v < fieldMin f then fieldMin f else if f.hi < v then f.hi else fieldFloor f v := by
    simp only [fieldClamp, c]
  rw [clamped]
  split_ifs <;> simp <;> omega

theorem fieldMin_le (ok : Sound f) (c : f.rule = .c) : fieldMin f ≤ f.hi := by
  have := ok.bounds c
  unfold fieldMin
  split <;> omega

theorem permits_floor (ok : Sound f) (c : f.rule = .c) (low : fieldMin f ≤ v) (high : v ≤ f.hi) : fieldPermits f (fieldFloor f v) = true := by
  by_cases list : f.list = []
  · rw [permits_range list, floor_range list]
    unfold fieldMin at low
    split
    · next below =>
      refine .inl ⟨?_, rfl⟩
      by_contra zero
      rw [if_neg zero] at low
      omega
    · next above =>
      have whole := Nat.div_add_mod f.lo f.step
      have down := Nat.div_mul_le_self v f.step
      have keeps := Nat.mul_le_mul_right f.step (Nat.div_le_div_right (c := f.step) (Nat.not_lt.1 above))
      rw [(ok.steps c).1, Nat.add_zero, Nat.mul_comm] at whole
      exact .inr ⟨by omega, by omega, Nat.mul_mod_left _ _⟩
  · obtain ⟨zero, lo, -, -⟩ := ok.listed c list
    have least : f.lo ≤ v := by rwa [fieldMin, zero] at low
    rw [permits_listed list, floor_listed list]
    exact (List.mem_filter.1 (maxNat_mem (List.ne_nil_of_mem (List.mem_filter.2 ⟨lo, decide_eq_true least⟩)))).1

theorem permits_fieldMin (ok : Sound f) (c : f.rule = .c) : fieldPermits f (fieldMin f) = true := by
  by_cases list : f.list = []
  · rw [permits_range list]
    unfold fieldMin
    split
    · next zero => exact .inl ⟨zero, rfl⟩
    · exact .inr ⟨le_refl _, ok.bounds c, (ok.steps c).1⟩
  · obtain ⟨zero, lo, -, -⟩ := ok.listed c list
    rw [permits_listed list, fieldMin, zero]
    exact lo

theorem permits_hi (ok : Sound f) (c : f.rule = .c) : fieldPermits f f.hi = true := by
  by_cases list : f.list = []
  · rw [permits_range list]
    exact .inr ⟨ok.bounds c, le_refl _, (ok.steps c).2⟩
  · rw [permits_listed list]
    exact (ok.listed c list).2.2.1

/-- A permitted value lies in the range and is its own floor. -/
theorem floor_permitted (ok : Sound f) (c : f.rule = .c) (h : fieldPermits f v = true) : fieldMin f ≤ v ∧ v ≤ f.hi ∧ fieldFloor f v = v := by
  by_cases list : f.list = []
  · rw [floor_range list]
    unfold fieldMin
    rcases (permits_range list).1 h with ⟨zero, rfl⟩ | ⟨low, high, step⟩
    · rw [if_pos zero]
      refine ⟨le_refl _, Nat.zero_le _, ?_⟩
      split
      · rfl
      · rw [Nat.zero_div, Nat.zero_mul]
    · refine ⟨by split <;> omega, high, (if_neg (Nat.not_lt.2 low)).trans ?_⟩
      rw [Nat.div_mul_cancel (Nat.dvd_of_mod_eq_zero step)]
  · obtain ⟨zero, -, -, within⟩ := ok.listed c list
    rw [permits_listed list] at h
    rw [floor_listed list, fieldMin, zero]
    have own : v ∈ f.list.filter (· ≤ v) := by simp [h]
    refine ⟨(within v h).1, (within v h).2, le_antisymm ?_ (le_maxNat own)⟩
    exact of_decide_eq_true (List.mem_filter.1 (maxNat_mem (List.ne_nil_of_mem own))).2

/-- R327: clamping gives a permitted value, and leaves a permitted one. -/
theorem fieldClamp_sound (mem : f ∈ catalogue) (checked : f.rule ≠ .any) : fieldPermits f (fieldClamp f v).1 = true ∧
    (fieldPermits f v = true → fieldClamp f v = (v, false)) ∧ (f.rule = .d → fieldPermits f v = false → fieldClamp f v = (f.dflt, true)) ∧
    (f.rule = .c → f.hi < v → (fieldClamp f v).1 = f.hi) := by
  have ok := sound_of_mem mem
  match rule : f.rule with
  | .any => exact absurd rule checked
  | .d =>
    have clamped : fieldClamp f v = if fieldPermits f v then (v, false) else (f.dflt, true) := by simp only [fieldClamp, rule]
    rw [clamped]
    refine ⟨?_, fun ok' => if_pos ok', fun _ bad => if_neg (ne_true_of_eq_false bad), fun c => by cases c⟩
    split
    · next permitted => exact permitted
    · exact ok.default_ rule
  | .c =>
    have second : fieldClamp f v = ((fieldClamp f v).1, (fieldClamp f v).1 != v) := by simp only [fieldClamp, rule]
    have min := fieldMin_le ok rule
    rcases clamp_cases (v := v) rule with ⟨low, own⟩ | ⟨low, high, own⟩ | ⟨low, high, own⟩
    · exact ⟨own ▸ permits_fieldMin ok rule, fun h => absurd (floor_permitted ok rule h).1 (by omega), fun d => (by cases d), fun _ _ => by omega⟩
    · exact ⟨own ▸ permits_hi ok rule, fun h => absurd (floor_permitted ok rule h).2.1 (by omega), fun d => (by cases d), fun _ _ => own⟩
    · refine ⟨own ▸ permits_floor ok rule low high, fun h => ?_, fun d => (by cases d), fun _ _ => by omega⟩
      rw [second, own, (floor_permitted ok rule h).2.2, bne_self_eq_false]

end

/-! ### The links of a handover (R182, R187) -/

section
variable {s : State}

theorem Link.core_role (l : Link) : l.core.role = l.role := rfl

theorem enterTrain_core (n : Nat) (own : Bool) (s : State) : (getLink (enterTrain n own s) n).core.state = .train ∧
    (getLink (enterTrain n own s) n).core.role = (getLink s n).role := by
  rw [enterTrain, coresOf_moveToAlternates, setLinkState_self (by decide), getLink_modLink_self]
  exact ⟨rfl, rfl⟩

theorem enterTrain_self (n : Nat) (own : Bool) (s : State) :
    (getLink (enterTrain n own s) n).state = .train ∧ (getLink (enterTrain n own s) n).role = (getLink s n).role := enterTrain_core n own s

theorem enterTrain_ne {n k : Nat} (own : Bool) (s : State) (h : k ≠ n) :
    (getLink (enterTrain n own s) k).core = (getLink s k).core := by
  rw [enterTrain, coresOf_moveToAlternates, setLinkState_ne _ _ h, getLink_modLink_ne _ _ _ _ h]

/-- A link's first training at the handover. -/
def startLink (t : State) (n : Nat) : State := if (getLink t n).role = 0 then t else enterTrain n false t

theorem startLink_link (n k : Nat) (s : State) : (getLink (startLink s n) k).role = (getLink s k).role ∧
    (getLink (startLink s n) k).state = if k = n ∧ (getLink s k).role ≠ 0 then .train else (getLink s k).state := by
  unfold startLink
  by_cases same : k = n
  · subst same
    by_cases unused : (getLink s k).role = 0
    · rw [if_pos unused, if_neg (by simp [unused])]
      exact ⟨rfl, rfl⟩
    · rw [if_neg unused, if_pos ⟨rfl, unused⟩]
      exact ⟨(enterTrain_self k false s).2, (enterTrain_self k false s).1⟩
  · rw [if_neg (c := k = n ∧ _) fun h => same h.1]
    split
    · exact ⟨rfl, rfl⟩
    · have core := enterTrain_ne false s same
      exact ⟨(congrArg Link.role core :), (congrArg Link.state core :)⟩

theorem foldl_startLink (a m k : Nat) (s : State) : (getLink ((upFrom a m).foldl startLink s) k).role = (getLink s k).role ∧
    (getLink ((upFrom a m).foldl startLink s) k).state =
      if (a ≤ k ∧ k < a + m) ∧ (getLink s k).role ≠ 0 then .train else (getLink s k).state := by
  induction m generalizing a s with
  | zero => exact ⟨rfl, (if_neg (by omega)).symm⟩
  | succ m ih =>
    obtain ⟨role, state⟩ := startLink_link a k s
    obtain ⟨role', state'⟩ := ih (a + 1) (startLink s a)
    rw [upFrom, List.foldl_cons]
    refine ⟨role'.trans role, state'.trans ?_⟩
    rw [role, state]
    by_cases first : k = a
    · subst first
      rw [if_neg (by omega)]
      congr 1
      rw [eq_iff_iff]
      constructor <;> intro ⟨_, used⟩ <;> exact ⟨by omega, used⟩
    · rw [if_neg (c := k = a ∧ _) fun h => first h.1]
      congr 1
      rw [eq_iff_iff]
      constructor <;> intro ⟨_, used⟩ <;> exact ⟨by omega, used⟩

theorem linksOnly_enterTrain (n : Nat) (own : Bool) (s : State) : LinksOnly s (enterTrain n own s) :=
  ((linksOnly_modLink ..).trans (linksOnly_setLinkState ..)).trans (linksOnly_moveToAlternates ..)

theorem linksOnly_startLinks (s : State) : LinksOnly s (startLinks s) :=
  linksOnly_foldl _ (fun t n => linksOnly_ite (.refl t) (linksOnly_enterTrain n false t)) _ s

theorem linksOnly_giveRoles (s : State) : LinksOnly s (giveRoles s) := linksOnly_foldl _ (fun _ _ => linksOnly_modLink ..) _ s

/-- The role that the configuration gives a link. -/
def giveRole (t : State) (n : Nat) : State := modLink n (fun l => { l with role := cfgVal t (0x0410 + n) }) t

theorem foldl_giveRole (a m k : Nat) (s : State) : (getLink ((upFrom a m).foldl giveRole s) k).role =
    if a ≤ k ∧ k < a + m then cfgVal s (0x0410 + k) else (getLink s k).role := by
  induction m generalizing a s with
  | zero => rw [upFrom, List.foldl_nil, if_neg (by omega)]
  | succ m ih =>
    have cfg : cfgVal (giveRole s a) (0x0410 + k) = cfgVal s (0x0410 + k) := rfl
    rw [upFrom, List.foldl_cons, ih, cfg]
    by_cases first : k = a
    · subst first
      rw [if_neg (by omega), if_pos (by omega), giveRole, getLink_modLink_self]
    · rw [giveRole, getLink_modLink_ne _ _ _ _ first]
      congr 1
      rw [eq_iff_iff]
      omega

theorem giveRoles_role {n : Nat} (h : n < 8) (s : State) : (getLink (giveRoles s) n).role = cfgVal s (0x0410 + n) :=
  (foldl_giveRole 0 8 n s).trans (if_pos (by omega))

/-! ### The planes that start (R23, R318) -/

/-- Of the machine only the partitions, the links, the Escapement, its lock's time and postings have changed. -/
def StartsOnly (s t : State) : Prop := t = { s with
  pwr.lockDue := t.pwr.lockDue, parts := t.parts, links := t.links, esc := t.esc, clk := t.clk, freeCtr := t.freeCtr, ev.queue := t.ev.queue }

theorem StartsOnly.refl (s : State) : StartsOnly s s := rfl

theorem StartsOnly.trans {s t u : State} (h : StartsOnly s t) (h' : StartsOnly t u) : StartsOnly s u := by
  rw [StartsOnly] at *
  rw [h', h]

theorem StartsOnly.keeps {s t : State} (h : StartsOnly s t) {α : Type} (g : State → α)
    (hg : ∀ (x : State) d p l e c f q, g { x with
      pwr.lockDue := d, parts := p, links := l, esc := e, clk := c, freeCtr := f, ev.queue := q } = g x) : g t = g s := by
  rw [StartsOnly] at h
  rw [h, hg]

theorem LinksOnly.starts {s t : State} (h : LinksOnly s t) : StartsOnly s t := by
  rw [LinksOnly] at h
  rw [h]; rfl

theorem EscOnly.starts {s t : State} (h : EscOnly s t) : StartsOnly s t := by
  rw [EscOnly] at h
  rw [h]; rfl

theorem startsOnly_foldl {β : Type} (g : State → β → State) (hg : ∀ s x, StartsOnly s (g s x)) (xs : List β) (s : State) :
    StartsOnly s (xs.foldl g s) := by
  induction xs generalizing s with
  | nil => exact .refl s
  | cons x xs ih => exact (hg s x).trans (ih _)

theorem startsOnly_takeView (p : Nat) (s : State) : StartsOnly s (takeView p s) := rfl

theorem startsOnly_giveViews (s : State) : StartsOnly s (giveViews s) := startsOnly_foldl _ (fun t p => startsOnly_takeView p t) _ _

theorem EscOnly.refl (s : State) : EscOnly s s := rfl

theorem startsOnly_lockDue (s : State) (due : Option Nat) : StartsOnly s { s with pwr.lockDue := due } := rfl

theorem startsOnly_escStart (s : State) : StartsOnly s (escStart s) := by
  have fresh (t : State) (e : Esc) (h : t = { s with esc := e, clk.ratePpb := 0 }) : StartsOnly s (escPoll (setEsc .free t)) := by
    subst h
    exact .trans (t := { s with esc := e, clk.ratePpb := 0 }) rfl ((escOnly_setEsc .free (.refl _)).starts.trans (escOnly_escPoll _).starts)
  exact fresh _ _ rfl

/-- The links of a state that links' tables are read from. -/
theorem getLink_congr {s t : State} (h : t.links = s.links) (k : Nat) : getLink t k = getLink s k := by rw [getLink, getLink, h]

theorem giveViews_links (s : State) : (giveViews s).links = s.links := by
  have folded (ps : List Nat) (t : State) : (ps.foldl (fun t p => takeView p t) t).links = t.links := by
    induction ps generalizing t with
    | nil => rfl
    | cons p ps ih => exact (ih _).trans rfl
  exact folded _ _

theorem escStart_links (s : State) : (escStart s).links = s.links := by
  have esc (t : State) (x : EscState) : (escPoll (setEsc x t)).links = t.links :=
    (congrArg State.links (escOnly_escPoll _) :).trans (congrArg State.links (escOnly_setEsc x (.refl t)) :)
  exact (esc _ _).trans rfl

/-- The planes once the Regulator has started: where the device does not hold, every link in use trains. -/
def giveAll (s : State) : State :=
  let t := giveViews (giveRoles s)
  if t.pwr.state == .holding then t else escStart (startLinks { t with pwr.lockDue := some (t.upNs + cfgVal t 0x0B04 * 1000000) })

theorem startPlanes_eq (s : State) : startPlanes s = giveAll (updateShed (startRegulator (limitPcie { s with parts := partsOf s }))) := rfl

theorem startsOnly_giveAll (s : State) : StartsOnly s (giveAll s) := by
  have given := (linksOnly_giveRoles s).starts.trans (startsOnly_giveViews _)
  unfold giveAll
  dsimp only
  split
  · exact given
  · exact given.trans ((startsOnly_lockDue _ _).trans ((linksOnly_startLinks _).starts.trans (startsOnly_escStart _)))

theorem giveAll_links {n : Nat} (h : n < 8) (s : State) : (getLink (giveAll s) n).role = cfgVal s (0x0410 + n) ∧
    (s.pwr.state ≠ .holding → cfgVal s (0x0410 + n) ≠ 0 → (getLink (giveAll s) n).state = .train) := by
  have role : (getLink (giveViews (giveRoles s)) n).role = cfgVal s (0x0410 + n) :=
    (congrArg Link.role (getLink_congr (giveViews_links _) n)).trans (giveRoles_role h s)
  have state : (giveViews (giveRoles s)).pwr.state = s.pwr.state :=
    (congrArg (·.pwr.state) ((linksOnly_giveRoles s).starts.trans (startsOnly_giveViews _)) :)
  unfold giveAll
  dsimp only
  split
  · next holds => exact ⟨role, fun other => absurd (state.symm.trans (beq_iff_eq.1 holds)) other⟩
  · have started := foldl_startLink 0 8 n { giveViews (giveRoles s) with
      pwr.lockDue := some ((giveViews (giveRoles s)).upNs + cfgVal (giveViews (giveRoles s)) 0x0B04 * 1000000) }
    have links := getLink_congr (escStart_links (startLinks { giveViews (giveRoles s) with
      pwr.lockDue := some ((giveViews (giveRoles s)).upNs + cfgVal (giveViews (giveRoles s)) 0x0B04 * 1000000) })) n
    refine ⟨(congrArg Link.role links).trans (started.1.trans role), fun _ used => (congrArg Link.state links).trans (started.2.trans (if_pos ⟨by omega, ?_⟩))⟩
    exact fun none_ => used (role.symm.trans none_)

/-! ### The Regulator at the handover (R291, R293) -/

/-- What the shed changes: of the Regulator all but what follows here, alert_n, and postings. -/
theorem updateShed_only (s : State) : ∃ g a q, updateShed s = { s with rgl := g, smb.alertLow := a, ev.queue := q } := by
  have short (t : State) : ∃ g q, endShortfall t = { t with rgl := g, ev.queue := q } := by
    unfold endShortfall
    split
    · exact ⟨t.rgl, t.ev.queue, rfl⟩
    · exact ⟨_, _, rfl⟩
  unfold updateShed
  split
  · exact ⟨s.rgl, s.smb.alertLow, s.ev.queue, rfl⟩
  · split
    · obtain ⟨g, q, ends⟩ := short s
      unfold beginShed
      rw [ends]
      exact ⟨_, _, _, rfl⟩
    · split
      · exact ⟨_, s.smb.alertLow, _, rfl⟩
      · exact ⟨s.rgl, s.smb.alertLow, s.ev.queue, rfl⟩

/-- The duty and the shed after the shed followed its sources, in a device that works. -/
theorem updateShed_duty (works : s.pwr.state = .starting ∨ s.pwr.state = .holding) :
    (shedSources s = 0 → (updateShed s).rgl.duty = s.rgl.duty) ∧
    (shedSources s ≠ 0 → s.rgl.shedding = false → (updateShed s).rgl.shedding = true ∧ (updateShed s).rgl.duty = 8) ∧
    (s.rgl.duty = 8 → (updateShed s).rgl.duty = 8) := by
  have on : (s.pwr.state == .loading || s.pwr.state == .dormant) = false := by rcases works with h | h <;> rw [h] <;> rfl
  unfold updateShed
  rw [on]
  by_cases none_ : shedSources s = 0 <;> cases shed : s.rgl.shedding <;>
    simp [none_, shed, beginShed, endShed, post]

/-! ### The handover -/

theorem limitPcie_eq (s : State) : ∃ x, limitPcie s = { s with pcie := x } := by
  unfold limitPcie
  dsimp only
  split <;> exact ⟨_, rfl⟩

theorem pump_eq (s : State) : ∃ u c, pump s = { s with uart := u, con := c } := by
  have feeds (t : State) : ∃ u c, crownFeed t = { t with uart := u, con := c } := by
    unfold crownFeed
    split
    · exact ⟨_, _, rfl⟩
    · exact ⟨t.uart, t.con, rfl⟩
  have sends (t : State) : ∃ u, txNext t = { t with uart := u } := by
    unfold txNext
    dsimp only
    split
    · exact ⟨t.uart, rfl⟩
    · split
      · exact ⟨_, rfl⟩
      · split
        · exact ⟨_, rfl⟩
        · exact ⟨t.uart, rfl⟩
  unfold pump
  obtain ⟨u, c, fed⟩ := feeds s
  obtain ⟨v, sent⟩ := sends (crownFeed s)
  obtain ⟨w, d, last⟩ := feeds (txNext (crownFeed s))
  exact ⟨w, d, by rw [last, sent, fed]⟩

theorem crownSay_eq (bs : List Byte) (s : State) : ∃ u c, crownSay bs s = { s with uart := u, con := c } := by
  obtain ⟨u, c, pumped⟩ := pump_eq { s with con.out := s.con.out ++ bs }
  exact ⟨u, c, pumped⟩

/-- The report of a handover, and what is left. -/
theorem writeReport_eq (x : Loaded) (s : State) : ∃ u c, writeReport x s = { s with
    pwr.handoverUs := s.upNs / 1000 % 2 ^ 32, uart := u, con := c
    rep := {
      table := reportTable x (s.upNs / 1000 % 2 ^ 32) (cfgOtp s % 1024), source := x.source, primary := x.primary, golden := x.golden
      endStatus := x.ends, counts := outcomeCounts x.fields, extra := min x.extras.length 256
      lost := min (x.extras.length - 256) 65535, records := x.records, lines := reportLines x s.pwr.factoryOk s.pwr.keyValid } } := by
  obtain ⟨u, c, said⟩ := crownSay_eq ((reportLines x s.pwr.factoryOk s.pwr.keyValid).flatMap fun l => l ++ [0x0D, 0x0A]) _
  exact ⟨u, c, said⟩

theorem readVoutMode_eq (m : BitVec 8) (s : State) : ∃ p q, p.mode = m.toNat ∧ readVoutMode m s = { s with pmb := p, ev.queue := q } := by
  unfold readVoutMode postIf
  dsimp only
  split
  · exact ⟨_, _, rfl, rfl⟩
  · exact ⟨_, s.ev.queue, rfl, rfl⟩

/-- The state in which the planes start: the configuration handed over, and the partitions, PCIe and the Regulator on it. -/
def regulated (x : Loaded) (s : State) : State := startRegulator (limitPcie { handOver x s with parts := partsOf (handOver x s) })

theorem regulated_eq (x : Loaded) (s : State) : ∃ (p : Table Part) (y : Pcie) (g : Rgl),
    regulated x s = { handOver x s with parts := p, pcie := y, rgl := g } ∧
      g.duty = (if (handOver x s).pwr.state == .holding then 8 else 64) ∧ g.shedding = s.rgl.shedding ∧ g.shedReq = s.rgl.shedReq ∧
      g.thermal = s.rgl.thermal := by
  obtain ⟨y, limited⟩ := limitPcie_eq { handOver x s with parts := partsOf (handOver x s) }
  unfold regulated
  rw [limited]
  exact ⟨partsOf (handOver x s), y, _, rfl, rfl, rfl, rfl, rfl⟩

/-- What a handover leaves, and what it makes of the rest. -/
theorem handedOver_facts (x : Loaded) (m : BitVec 8) (s : State) :
    let t := readVoutMode m (writeReport x (startPlanes (handOver x s)))
    t.cfg = cfgOf x.fields ∧ t.routes = x.routes ∧ t.pwr.handedOver = true ∧ t.mem = s.mem ∧ t.otp = s.otp ∧ t.jobs = s.jobs ∧
      t.rep.source = x.source ∧ t.rep.primary = x.primary ∧ t.rep.golden = x.golden ∧ t.rep.endStatus = x.ends ∧
      t.rep.table = reportTable x (s.upNs / 1000 % 2 ^ 32) (cfgOtp s % 1024) ∧ t.pmb.mode = m.toNat ∧
      t.pwr.state = (handOver x s).pwr.state ∧ t.flt = (handOver x s).flt ∧ t.rgl = (updateShed (regulated x s)).rgl ∧
      t.links = (giveAll (updateShed (regulated x s))).links := by
  obtain ⟨p, y, g, before, -⟩ := regulated_eq x s
  obtain ⟨g', a, q, shed⟩ := updateShed_only (regulated x s)
  have starts := startsOnly_giveAll (updateShed (regulated x s))
  have planes : startPlanes (handOver x s) = giveAll (updateShed (regulated x s)) := startPlanes_eq _
  obtain ⟨u, c, report⟩ := writeReport_eq x (giveAll (updateShed (regulated x s)))
  obtain ⟨b, q', mode, volts⟩ := readVoutMode_eq m (writeReport x (giveAll (updateShed (regulated x s))))
  rw [planes, volts, report]
  generalize giveAll (updateShed (regulated x s)) = v at *
  rw [shed] at starts ⊢
  rw [before] at starts
  rw [starts]
  exact ⟨rfl, rfl, rfl, rfl, rfl, rfl, rfl, rfl, rfl, rfl, rfl, mode, rfl, rfl, rfl, rfl⟩

/-- The duty of a handover (R291, R330). -/
theorem handedOver_duty (x : Loaded) (s : State) : (x.holds = true → (updateShed (regulated x s)).rgl.duty = 8) ∧
    (x.holds = false → (shedSources s = 0 → (updateShed (regulated x s)).rgl.duty = 64) ∧
      (shedSources s ≠ 0 → s.rgl.shedding = false →
        (updateShed (regulated x s)).rgl.shedding = true ∧ (updateShed (regulated x s)).rgl.duty = 8)) := by
  obtain ⟨p, y, g, before, duty, shed, req, thermal⟩ := regulated_eq x s
  have sources : shedSources (regulated x s) = shedSources s := by
    rw [before, shedSources, shedSources, ← req, ← thermal]
    rfl
  have own : (regulated x s).rgl = g := by rw [before]
  have state : (regulated x s).pwr.state = if x.holds then .holding else .starting := by rw [before]; rfl
  have handed : (handOver x s).pwr.state = if x.holds then .holding else .starting := rfl
  rw [handed] at duty
  obtain ⟨quiet, begins, eight⟩ := updateShed_duty (s := regulated x s) (by rw [state]; cases x.holds <;> simp)
  rw [sources, own] at quiet begins
  rw [own] at eight
  refine ⟨fun holds => eight ?_, fun works => ⟨fun none_ => (quiet none_).trans ?_, fun some_ fresh => begins some_ (shed.trans fresh)⟩⟩
  · rw [duty, holds]; rfl
  · rw [duty, works]; rfl

theorem handover_answer (fl : Flash) (vm : BitVec 8) (runs : mgmtRuns s = true) (otp : s.pwr.otpLoaded = true) (first : s.pwr.handedOver = false) :
    Gives (.handover fl vm) s (readVoutMode vm (writeReport
      (loadImage (fl.sfdp && s.pwr.spiOk) fl s.pwr.factoryOk (jtagLock s) (bar2Lock s)) (startPlanes (handOver
        (loadImage (fl.sfdp && s.pwr.spiOk) fl s.pwr.factoryOk (jtagLock s) (bar2Lock s)) s)))) :=
  gives_run _ _ (execHandover.eq_1 fl vm s) (if_pos (by rw [runs, otp, first]; rfl))

end

/-- Settles O48: the handover's stages each leave what the others made, and the range check by the field's rule. -/
theorem handovers : Obligations.Handovers := by
  unfold Obligations.Handovers
  refine ⟨fun fl vm s => ?_, fun f v mem checked => fieldClamp_sound mem checked⟩
  dsimp only
  intro runs otp first
  have given := handover_answer fl vm runs otp first
  generalize loadImage (fl.sfdp && s.pwr.spiOk) fl s.pwr.factoryOk (jtagLock s) (bar2Lock s) = x at given ⊢
  obtain ⟨cfg, routes, handed, mem, fuses, jobs, source, primary, golden, ends, table, mode, state, flt, rgl, links⟩ := handedOver_facts x vm s
  obtain ⟨held, works⟩ := handedOver_duty x s
  generalize readVoutMode vm (writeReport x (startPlanes (handOver x s))) = t at *
  have duty : (collect t).rgl = (updateShed (regulated x s)).rgl := (collect_rgl t).trans rgl
  have rep := collect_rep t
  have pwr := collect_pwr t
  have linked (n : Nat) : getLink (collect t) n = getLink (giveAll (updateShed (regulated x s))) n := getLink_congr ((collect_links t).trans links) n
  have started : (collect t).pwr.state = if x.holds then .holding else .starting := (congrArg Power.state pwr).trans state
  refine ⟨_, given, (collect_cfg t).trans cfg, (collect_routes t).trans routes, (congrArg Power.handedOver pwr).trans handed,
    (collect_mem t).trans mem, (collect_otp t).trans fuses, (collect_jobs t).trans jobs, ?_⟩
  obtain ⟨g', a, q, shed⟩ := updateShed_only (regulated x s)
  obtain ⟨p, y, g, before, -⟩ := regulated_eq x s
  have field (id : Nat) : cfgVal (updateShed (regulated x s)) id = cfgVal { collect t with pending := s.pending } id := by
    rw [answer_cfgVal, cfgVal, cfgVal, cfg, shed, before]
    rfl
  have boot : (updateShed (regulated x s)).pwr.state = if x.holds then .holding else .starting := by
    rw [shed, before]
    rfl
  refine ⟨(congrArg CfgReport.source rep).trans source, (congrArg CfgReport.primary rep).trans primary, (congrArg CfgReport.golden rep).trans golden,
    (congrArg CfgReport.endStatus rep).trans ends, (congrArg CfgReport.table rep).trans table, (congrArg Pmb.mode (collect_pmb t)).trans mode,
    fun holds => ?_, fun starts => ?_, fun n hn => ?_⟩
  · refine ⟨started.trans (by rw [holds]; rfl), (congrArg Rgl.duty duty).trans (held holds), collect_flags t ?_⟩
    rw [flt]
    refine (congrArg (fun w => (s.flt.flags ||| w) &&& 6) (if_pos holds)).trans (or_and_self s.flt.flags 6)
  · obtain ⟨quiet, begins⟩ := works starts
    refine ⟨started.trans (by rw [starts]; rfl), fun none_ => (congrArg Rgl.duty duty).trans (quiet none_), fun some_ fresh => ?_, fun n hn used => ?_⟩
    · exact ⟨(congrArg Rgl.shedding duty).trans (begins some_ fresh).1, (congrArg Rgl.duty duty).trans (begins some_ fresh).2⟩
    · rw [← field] at used
      exact (congrArg Link.state (linked n)).trans ((giveAll_links hn _).2 (by rw [boot, starts]; decide) used)
  · rw [← field]
    exact (congrArg Link.role (linked n)).trans (giveAll_links hn _).1

end Sys2Proof.Machine
end

section
/-! PROOFS. PCIe's pins and messages, FLR, the end of Dormant, thermal trip and HBM temperatures (R230, R272, R413 to R422). -/

namespace Sys2Proof.Machine

/-! ### The reset of a partition (R230) -/

section
variable (p : Nat) (s : State)

/-- The state in which a partition's reset releases its locks: the step in flight of its serving job abandoned. -/
def abandoned : State :=
  match servingJob s p with
  | some j => abandonStep j s
  | none => s

theorem abandoned_none {p : Nat} {s : State} (h : servingJob s p = none) : abandoned p s = s := by rw [abandoned, h]

theorem abandoned_rest : (abandoned p s).stms = s.stms ∧ (abandoned p s).streams = s.streams ∧
    ∀ q, (getPart (abandoned p s) q).enabled = (getPart s q).enabled := by
  unfold abandoned
  split
  · exact abandonStep_rest ..
  · exact ⟨rfl, rfl, fun _ => rfl⟩

theorem resetPart_eq : resetPart p s = modStm p (fun x => { x with
    pepoch := (x.pepoch + 1) % 65536, pend := [], ends := [], sqHead := x.sqTail, idle := false }) (releaseLocks p true (abandoned p s)) := rfl

theorem workOnly_abandonStep (j : Nat) : WorkOnly s (abandonStep j s) :=
  (stepOnly_abandonEnd ..).work.after (.ite ((workOnly_telBound ..).after ((stepOnly_chargeStep ..).after (stepOnly_chargeAttempt ..)).work) (.refl s))

theorem workOnly_resetPart : WorkOnly s (resetPart p s) := by
  have before : WorkOnly s (abandoned p s) := by
    unfold abandoned
    split
    · exact workOnly_abandonStep ..
    · exact .refl s
  exact (workOnly_modStm ..).after ((workOnly_releaseLocks ..).after before)

/-- A partition after its reset. -/
def resetStm (x : Stm) : Stm := { x with
  built := none, building := false, pepoch := (x.pepoch + 1) % 65536, pend := [], ends := [], sqHead := x.sqTail, idle := false }

theorem resetPart_stm (q : Nat) : getStm (resetPart p s) q = if q = p then resetStm (getStm s p) else getStm s q := by
  have kept (k : Nat) : getStm (abandoned p s) k = getStm s k := by rw [getStm, getStm, (abandoned_rest p s).1]
  have released : getStm (releaseLocks p true (abandoned p s)) q =
      if q = p then { getStm (abandoned p s) p with built := none, building := false } else getStm (abandoned p s) q := tget_tput ..
  have own : getStm (releaseLocks p true (abandoned p s)) p = { getStm (abandoned p s) p with built := none, building := false } :=
    tget_tput_self ..
  rw [resetPart_eq]
  refine (tget_tput ..).trans ?_
  split
  · exact (congrArg (fun x : Stm => { x with
      pepoch := (x.pepoch + 1) % 65536, pend := [], ends := [], sqHead := x.sqTail, idle := false }) own).trans (by rw [kept])
  · next other => exact released.trans ((if_neg other).trans (kept q))

theorem resetPart_enabled (q : Nat) : (getPart (resetPart p s) q).enabled = (getPart s q).enabled := (abandoned_rest p s).2.2 q

/-- Where no serving job is resident, a reset reaches neither memory nor jobs nor TPs. -/
theorem resetPart_idle {p : Nat} {s : State} (h : servingJob s p = none) : (resetPart p s).mem = s.mem ∧ (resetPart p s).tps = s.tps ∧
    (resetPart p s).jobs = s.jobs := by
  rw [resetPart_eq, abandoned_none h]
  exact ⟨rfl, rfl, rfl⟩

end

/-! ### Function-level resets (R230, R272, R419) -/

section
variable {s : State}

theorem foldl_dropLease (ls : List SnapLease) (s : State) :
    ∃ w, ls.foldl (fun t l => dropLease l t) s = { s with cul.leases := s.cul.leases.diff ls, cul.snStat := w } := by
  induction ls generalizing s with
  | nil => exact ⟨s.cul.snStat, by rw [List.diff_nil]; rfl⟩
  | cons l ls ih =>
    obtain ⟨w', rest⟩ := ih (dropLease l s)
    refine ⟨w', rest.trans ?_⟩
    rw [dropLease_eq, List.diff_cons]

theorem releaseFn_eq (fn : Nat) (s : State) : ∃ w, releaseFn fn s =
    { s with cul.leases := s.cul.leases.diff (s.cul.leases.filter fun l => l.fn == fn), cul.snStat := w } := foldl_dropLease ..

/-- Does an FLR reset a partition. -/
def flrResets (fn : Nat) (s : State) (q : Nat) : Prop := fn = q + 1 ∧ (getPart s q).enabled = true

theorem flr_cases (fn : Nat) (s : State) : ∃ u w, u = { s with
      cul.leases := s.cul.leases.diff (s.cul.leases.filter fun l => l.fn == fn), cul.snStat := w } ∧
    ((flr fn s = u ∧ ∀ q, ¬flrResets fn s q) ∨ ∃ q, flr fn s = resetPart q u ∧ flrResets fn s q) := by
  obtain ⟨w, released⟩ := releaseFn_eq fn s
  refine ⟨releaseFn fn s, w, released, ?_⟩
  by_cases none_ : fn = 0 ∨ (getPart s (fn - 1)).enabled = false
  · refine .inl ⟨if_pos (by simpa using none_), fun q ⟨number, on⟩ => ?_⟩
    subst number
    exact absurd on (by simpa using none_)
  · rw [not_or] at none_
    refine .inr ⟨fn - 1, if_neg (by simp [none_]), by omega, by simpa using none_.2⟩

/-- What an FLR leaves of pins and PCIe, and of the partitions' being in use. -/
theorem flr_keeps (fn : Nat) (s : State) : (flr fn s).pwr = s.pwr ∧ (flr fn s).pcie = s.pcie ∧
    ∀ q, (getPart (flr fn s) q).enabled = (getPart s q).enabled := by
  obtain ⟨u, w, rfl, ⟨own, -⟩ | ⟨q, own, -⟩⟩ := flr_cases fn s <;> rw [own]
  · exact ⟨rfl, rfl, fun _ => rfl⟩
  · exact ⟨(congrArg State.pwr (workOnly_resetPart q _) :), (congrArg State.pcie (workOnly_resetPart q _) :), resetPart_enabled q _⟩

theorem flr_stm (fn : Nat) (s : State) (q : Nat) [Decidable (flrResets fn s q)] :
    getStm (flr fn s) q = if flrResets fn s q then resetStm (getStm s q) else getStm s q := by
  obtain ⟨u, w, rfl, ⟨own, none_⟩ | ⟨k, own, resets⟩⟩ := flr_cases fn s <;> rw [own]
  · rw [if_neg (none_ q)]
    rfl
  · rw [resetPart_stm]
    by_cases same : q = k
    · subst same
      rw [if_pos rfl, if_pos resets]
      rfl
    · rw [if_neg same, if_neg fun h => same (by have := h.1; have := resets.1; omega)]
      rfl

theorem flr_leases (fn : Nat) (s : State) : (flr fn s).cul.leases = s.cul.leases.diff (s.cul.leases.filter fun l => l.fn == fn) := by
  obtain ⟨u, w, rfl, ⟨own, -⟩ | ⟨q, own, -⟩⟩ := flr_cases fn s <;> rw [own]
  exact (congrArg (·.cul.leases) (workOnly_resetPart q _) :)

/-- The leases left are old ones, and none of them is the function's where none is listed twice. -/
theorem flr_released {fn : Nat} {s : State} {l : SnapLease} (h : l ∈ (flr fn s).cul.leases) :
    l ∈ s.cul.leases ∧ (s.cul.leases.Nodup → l.fn ≠ fn) := by
  rw [flr_leases] at h
  have mem := List.diff_subset _ _ h
  refine ⟨mem, fun once own => ?_⟩
  exact (once.mem_sdiff_iff.1 h).2 (List.mem_filter.2 ⟨mem, beq_iff_eq.2 own⟩)

/-- Where no serving job is resident, an FLR reaches neither memory nor jobs. -/
theorem flr_idle {fn : Nat} {s : State} (h : ∀ q, fn = q + 1 → servingJob s q = none) : (flr fn s).mem = s.mem ∧ (flr fn s).jobs = s.jobs := by
  obtain ⟨u, w, rfl, ⟨own, -⟩ | ⟨q, own, resets⟩⟩ := flr_cases fn s <;> rw [own]
  · exact ⟨rfl, rfl⟩
  · have idle := resetPart_idle (p := q) (s := { s with
      cul.leases := s.cul.leases.diff (s.cul.leases.filter fun l => l.fn == fn), cul.snStat := w }) (h q resets.1)
    exact ⟨idle.1, idle.2.2⟩

/-- Each function's FLR, one after the other. -/
def flrs (fs : List Nat) (s : State) : State := fs.foldl (fun t f => flr f t) s

theorem flrs_keeps (fs : List Nat) (s : State) : (flrs fs s).pwr = s.pwr ∧ (flrs fs s).pcie = s.pcie := by
  induction fs generalizing s with
  | nil => exact ⟨rfl, rfl⟩
  | cons f fs ih => exact ⟨(ih _).1.trans (flr_keeps f s).1, (ih _).2.trans (flr_keeps f s).2.1⟩

theorem flrs_idle (fs : List Nat) (s : State) (h : ∀ q, q + 1 ∈ fs → servingJob s q = none) : (flrs fs s).mem = s.mem := by
  induction fs generalizing s with
  | nil => rfl
  | cons f fs ih =>
    obtain ⟨mem, jobs⟩ := flr_idle (fn := f) (s := s) fun q e => h q (by simp [e])
    have serving (q : Nat) : servingJob (flr f s) q = servingJob s q := by
      simp only [servingJob, partJobs, residents, getJob, jobs]
    exact (ih _ fun q hq => (serving q).trans (h q (by simp [hq]))).trans mem

theorem flrs_epoch (a m q : Nat) (s : State) (on : (getPart s q).enabled = true) : (getStm (flrs (upFrom a m) s) q).pepoch =
    if a ≤ q + 1 ∧ q + 1 < a + m then ((getStm s q).pepoch + 1) % 65536 else (getStm s q).pepoch := by
  classical
  induction m generalizing a s with
  | zero => exact (if_neg (by omega)).symm
  | succ m ih =>
    have kept := (flr_keeps a s).2.2 q
    refine (ih (a + 1) (flr a s) (kept.trans on)).trans ?_
    rw [flr_stm]
    by_cases own : a = q + 1
    · rw [if_neg (by omega), if_pos ⟨own, on⟩, if_pos (by omega)]
      rfl
    · rw [if_neg (c := flrResets a s q) fun h => own h.1]
      congr 1
      rw [eq_iff_iff]
      omega

/-! ### perst_n and the link (R317, R416, R419) -/

/-- What an answer shows of PCIe. -/
theorem answer_pcie (p : List Instr) (s : State) : ∃ m, ({ collect s with pending := p } : State).pcie = { s.pcie with msix := m } :=
  ⟨_, (congrArg State.pcie (answer_reported p s) :)⟩

/-- The state in which perst_n has fallen. -/
def perstLow (s : State) : State := { s with pwr.perstN := false, pcie := { s.pcie with up := false, training := false, rrs := true } }

section
variable (fs : List Nat) (s : State)

/-- perst_n low where it is an FLR of functions. -/
def perstReset : State :=
  let t := flrs fs (perstLow s)
  { t with pcie := { t.pcie with aerUr := 0, aerUnc := 0 }, pwr := { t.pwr with d3hot := false, pmeAcked := false } }

/-- What perst_n low does. -/
def perstFall : State :=
  if s.pwr.state == .loading || s.pwr.state == .dormant then perstLow s
  else if dormantReady s then { perstLow s with pwr.entering := true } else perstReset fs s

theorem perstReset_pcie : (perstReset fs s).pcie = { s.pcie with up := false, training := false, rrs := true, aerUr := 0, aerUnc := 0 } :=
  (congrArg (fun x : Pcie => { x with aerUr := 0, aerUnc := 0 }) (flrs_keeps fs (perstLow s)).2).trans rfl

theorem perstReset_pwr : (perstReset fs s).pwr = { s.pwr with perstN := false, d3hot := false, pmeAcked := false } :=
  (congrArg (fun x : Power => { x with d3hot := false, pmeAcked := false }) (flrs_keeps fs (perstLow s)).1).trans rfl

theorem perstReset_mem (h : ∀ q, q + 1 ∈ fs → servingJob s q = none) : (perstReset fs s).mem = s.mem := flrs_idle fs (perstLow s) h

end

theorem perstFall_resets (fs : List Nat) (awake : s.pwr.state ≠ .loading) (awake' : s.pwr.state ≠ .dormant) (busy : dormantReady s = false) :
    perstFall fs s = perstReset fs s := by
  unfold perstFall
  rw [if_neg (by simp [awake, awake']), if_neg (ne_true_of_eq_false busy)]

theorem perstFall_enters (fs : List Nat) (awake : s.pwr.state ≠ .loading) (awake' : s.pwr.state ≠ .dormant) (ready : dormantReady s = true) :
    perstFall fs s = { perstLow s with pwr.entering := true } := by
  unfold perstFall
  rw [if_neg (by simp [awake, awake']), if_pos ready]

theorem perstFall_pins (fs : List Nat) (s : State) : (perstFall fs s).pwr.perstN = false ∧ (perstFall fs s).pcie.up = false ∧
    (perstFall fs s).pcie.training = false ∧ (perstFall fs s).pcie.rrs = true := by
  unfold perstFall
  split
  · exact ⟨rfl, rfl, rfl, rfl⟩
  · split
    · exact ⟨rfl, rfl, rfl, rfl⟩
    · rw [perstReset_pcie, perstReset_pwr]
      exact ⟨rfl, rfl, rfl, rfl⟩

theorem perstFall_mem (fs : List Nat) (s : State) (h : ∀ q, q + 1 ∈ fs → servingJob s q = none) : (perstFall fs s).mem = s.mem := by
  unfold perstFall
  split
  · rfl
  · split
    · rfl
    · exact perstReset_mem fs s h

theorem perstReset_epoch {p : Nat} (hp : p < 8) (on : (getPart s p).enabled = true) :
    (getStm (perstReset (upFrom 0 9) s) p).pepoch = ((getStm s p).pepoch + 1) % 65536 := by
  have same (fs : List Nat) : getStm (perstReset fs s) p = getStm (flrs fs (perstLow s)) p := rfl
  rw [same, flrs_epoch 0 9 p (perstLow s) on, if_pos (by omega)]
  rfl

theorem gives_perstNAssert (s : State) : Gives .perstNAssert s (perstFall (upFrom 0 9) s) := by
  refine gives_run _ _ (execPerstNAssert.eq_1 s) ?_
  generalize upFrom 0 9 = fs
  rfl

theorem perstNAssert_answer (s : State) : ∃ s', exec .perstNAssert s = .next s' ∧
    (s'.pwr.perstN = false ∧ s'.pcie.up = false ∧ s'.pcie.training = false ∧ s'.pcie.rrs = true) ∧
    ((∀ p, p < 8 → servingJob s p = none) → s'.mem = s.mem) ∧
    (s.pwr.state ≠ .loading → s.pwr.state ≠ .dormant → dormantReady s = true → s'.pwr.entering = true ∧ s'.stms = s.stms) ∧
    (s.pwr.state ≠ .loading → s.pwr.state ≠ .dormant → dormantReady s = false → s'.pcie.aerUr = 0 ∧ s'.pcie.aerUnc = 0 ∧
      s'.pwr.d3hot = false ∧ s'.pwr.pmeAcked = false ∧ s'.pwr.entering = s.pwr.entering ∧
      ∀ p, p < 8 → (getPart s p).enabled = true → (getStm s' p).pepoch = ((getStm s p).pepoch + 1) % 65536) := by
  have given := gives_perstNAssert s
  obtain ⟨pin, up, training, rrs⟩ := perstFall_pins (upFrom 0 9) s
  have mem := perstFall_mem (upFrom 0 9) s
  have resets := perstFall_resets (s := s) (upFrom 0 9)
  have enters := perstFall_enters (s := s) (upFrom 0 9)
  have pcieAfter := perstReset_pcie (upFrom 0 9) s
  have pwrAfter := perstReset_pwr (upFrom 0 9) s
  have epochs (p : Nat) := perstReset_epoch (s := s) (p := p)
  generalize perstReset (upFrom 0 9) s = r at *
  generalize perstFall (upFrom 0 9) s = t at *
  obtain ⟨m, pcie⟩ := answer_pcie s.pending t
  have pwr := collect_pwr t
  refine ⟨_, given, ⟨(congrArg Power.perstN pwr).trans pin, ?_, ?_, ?_⟩, fun h => (collect_mem t).trans (mem fun q hq => h q ?_),
    fun a b ready => ?_, fun a b busy => ?_⟩
  · rw [pcie]; exact up
  · rw [pcie]; exact training
  · rw [pcie]; exact rrs
  · have := (mem_upFrom.1 hq).2
    omega
  · have own := enters a b ready
    exact ⟨(congrArg Power.entering pwr).trans (by rw [own]), (collect_stms t).trans (by rw [own]; rfl)⟩
  · have own := resets a b busy
    subst own
    rw [pwrAfter] at pwr
    rw [pcieAfter] at pcie
    refine ⟨?_, ?_, congrArg Power.d3hot pwr, congrArg Power.pmeAcked pwr, (congrArg Power.entering pwr :), fun p hp on => ?_⟩
    · rw [pcie]
    · rw [pcie]
    · exact (congrArg (fun x => (tget ({} : Stm) x p).pepoch) (collect_stms t)).trans (epochs p hp on)

theorem gives_perstNRelease (awake : s.pwr.state ≠ .dormant) (idle : s.pwr.entering = false) (porN : s.pwr.porN = true) (down : s.pcie.up = false)
    (cool : s.pwr.thermtrip = false) :
    Gives .perstNRelease s { s with pwr.perstN := true, pcie.rrs := true, pcie.training := true } :=
  gives_run _ _ (execPerstNRelease.eq_1 s) (by simp [startWake, trainPcie, awake, idle, porN, down, cool])

/-- A wake in Dormant: the stagger's end is set (R418). -/
theorem startWake_dormant (dormant : s.pwr.state = .dormant) (first : s.pwr.wakeDue = none) (idle : s.pwr.entering = false) :
    startWake s = { s with pwr.wakeDue := some (wakeInstant s) } := by
  rw [startWake, if_neg (ne_true_of_eq_false idle), if_pos (by rw [dormant, first]; rfl)]

theorem gives_perstNRelease_dormant (dormant : s.pwr.state = .dormant) (first : s.pwr.wakeDue = none) (idle : s.pwr.entering = false) :
    Gives .perstNRelease s { s with pwr.perstN := true, pwr.wakeDue := some (wakeInstant s) } := by
  have woken : startWake { s with pwr.perstN := true } = { s with pwr.perstN := true, pwr.wakeDue := some (wakeInstant s) } :=
    startWake_dormant dormant first idle
  refine gives_run _ _ (execPerstNRelease.eq_1 s) ?_
  dsimp only
  rw [woken]
  exact if_pos (by simp [dormant])

theorem gives_pcieLinkUp (gen : BitVec 3) (width : BitVec 5) (training : s.pcie.training = true) : Gives (.pcieLinkUp gen width) s { s with
    pcie.up := true, pcie.training := false, pcie.rrs := !s.pwr.handedOver
    pcie.gen := if s.pwr.handedOver then min gen.toNat (cfgVal s 0x0D01) else gen.toNat
    pcie.width := if s.pwr.handedOver then min width.toNat (cfgVal s 0x0D02) else width.toNat } :=
  gives_run _ _ (execPcieLinkUp.eq_1 gen width s) (if_pos training)

/-! ### The end of Dormant (R417, R418) -/

/-- The rest of an exit from Dormant, once the loads are back. -/
def wakeEnd (s : State) : State := endReport (pump (escStart (trainLinks (updateShed s))))

theorem linksOnly_trainLinks (s : State) : LinksOnly s (trainLinks s) :=
  linksOnly_foldl _ (fun t n => linksOnly_ite (.refl t) (linksOnly_beginTrain n false t)) _ s

theorem wakeEnd_keeps (s : State) {α : Type} (g : State → α) (hg : ∀ (x : State) r a d p l e c f q u k, g { x with
    rgl := r, smb.alertLow := a, pwr.lockDue := d, parts := p, links := l, esc := e, clk := c, freeCtr := f, ev.queue := q, uart := u
    con := k } = g x) : g (wakeEnd s) = g s := by
  have ends (t : State) : ∃ u, endReport t = { t with uart := u } := by
    unfold endReport
    dsimp only
    split
    · exact ⟨_, rfl⟩
    · exact ⟨t.uart, rfl⟩
  obtain ⟨r, a, q, shed⟩ := updateShed_only s
  have starts := (linksOnly_trainLinks (updateShed s)).starts.trans (startsOnly_escStart _)
  obtain ⟨u, k, pumped⟩ := pump_eq (escStart (trainLinks (updateShed s)))
  obtain ⟨u', ended⟩ := ends (pump (escStart (trainLinks (updateShed s))))
  rw [wakeEnd, ended, pumped]
  generalize escStart (trainLinks (updateShed s)) = v at starts ⊢
  rw [shed, StartsOnly] at starts
  rw [starts]
  exact hg s r a _ _ _ _ _ _ _ u' k

/-- The state in which the loads of Dormant are back. -/
def loadsBack (d : Nat) (s : State) : State := { s with
  upNs := max s.upNs d + 1000 * cdiv (loadsDraw 12) (slopeLimit s 0x0902)
  rgl := { s.rgl with p := s.rgl.p + loadsDraw 12, sampleAt := s.clk.fleet }
  pwr := { s.pwr with
    state := .starting, loadsOff := 0, wakeDue := none, lockDue := none, rampSyncHeld := true, rampSyncNet := false, d3hot := false
    pmeAcked := false } }

theorem gives_dormantExit {d : Nat} (due : s.pwr.wakeDue = some d) :
    Gives .dormantExit s (wakeEnd (trainPcie { loadsBack d s with pcie.rrs := true })) := by
  refine gives_run _ _ (execDormantExit.eq_1 s) ?_
  rw [due]
  rfl

theorem dormantExit_answer {d : Nat} (due : s.pwr.wakeDue = some d) : ∃ s', exec .dormantExit s = .next s' ∧ s'.pwr.state = .starting ∧
    s'.pwr.loadsOff = 0 ∧ s'.pwr.wakeDue = none ∧ s'.pwr.rampSyncHeld = true ∧ d ≤ s'.upNs ∧ s'.mem = s.mem ∧ s'.jobs = s.jobs := by
  have trained {α : Type} (g : State → α) (hg : ∀ (x : State) y, g { x with pcie := y } = g x) (t : State) : g (trainPcie t) = g t := by
    unfold trainPcie
    split
    · exact hg ..
    · rfl
  have kept {α : Type} (g : State → α) (hg : ∀ (x : State) r a w p l e c f q u k y, g { x with
      rgl := r, smb.alertLow := a, pwr.lockDue := w, parts := p, links := l, esc := e, clk := c, freeCtr := f, ev.queue := q, uart := u
      con := k, pcie := y } = g x) : g (wakeEnd (trainPcie { loadsBack d s with pcie.rrs := true })) = g (loadsBack d s) := by
    refine (wakeEnd_keeps _ g fun x r a w p l e c f q u k => hg x r a w p l e c f q u k x.pcie).trans ?_
    refine (trained g (fun x y => hg x x.rgl x.smb.alertLow x.pwr.lockDue x.parts x.links x.esc x.clk x.freeCtr x.ev.queue x.uart x.con y) _).trans ?_
    exact hg (loadsBack d s) _ _ _ _ _ _ _ _ _ _ _ _
  have state := kept (·.pwr.state) fun _ _ _ _ _ _ _ _ _ _ _ _ _ => rfl
  have off := kept (·.pwr.loadsOff) fun _ _ _ _ _ _ _ _ _ _ _ _ _ => rfl
  have wake := kept (·.pwr.wakeDue) fun _ _ _ _ _ _ _ _ _ _ _ _ _ => rfl
  have held := kept (·.pwr.rampSyncHeld) fun _ _ _ _ _ _ _ _ _ _ _ _ _ => rfl
  have up := kept (·.upNs) fun _ _ _ _ _ _ _ _ _ _ _ _ _ => rfl
  have mem := kept (·.mem) fun _ _ _ _ _ _ _ _ _ _ _ _ _ => rfl
  have jobs := kept (·.jobs) fun _ _ _ _ _ _ _ _ _ _ _ _ _ => rfl
  have given := gives_dormantExit due
  generalize wakeEnd (trainPcie { loadsBack d s with pcie.rrs := true }) = t at *
  have pwr := collect_pwr t
  refine ⟨_, given, (congrArg Power.state pwr).trans state, (congrArg Power.loadsOff pwr).trans off, (congrArg Power.wakeDue pwr).trans wake,
    (congrArg Power.rampSyncHeld pwr).trans held, ?_, (collect_mem t).trans mem, (collect_jobs t).trans jobs⟩
  refine le_of_le_of_eq ?_ ((collect_upNs t).trans up).symm
  exact (Nat.le_max_right s.upNs d).trans (Nat.le_add_right _ _)

/-! ### FLR of one function (R230, R272) -/

theorem flr_answer {fn : Fin 9} (there : fn.val = 0 ∨ cfgVal s 0x0D03 = 1) : ∃ s', exec (.flr fn) s = .next s' ∧
    (∀ l ∈ s'.cul.leases, l ∈ s.cul.leases ∧ (s.cul.leases.Nodup → l.fn ≠ fn.val)) ∧
    (0 < fn.val → (getPart s (fn.val - 1)).enabled = true →
      (getStm s' (fn.val - 1)).pepoch = ((getStm s (fn.val - 1)).pepoch + 1) % 65536 ∧ (getStm s' (fn.val - 1)).pend = []) := by
  classical
  have given : Gives (.flr fn) s (flr fn.val s) := gives_run _ _ (execFlr.eq_1 fn s) (if_pos (by simpa using there))
  refine ⟨_, given, fun l hl => flr_released (s := s) (by rw [collect_cul] at hl; exact hl), fun virtual on => ?_⟩
  have stm : getStm { collect (flr fn.val s) with pending := s.pending } (fn.val - 1) = resetStm (getStm s (fn.val - 1)) :=
    (congrArg (fun x => tget ({} : Stm) x (fn.val - 1)) (collect_stms _)).trans ((flr_stm fn.val s (fn.val - 1)).trans (if_pos ⟨by omega, on⟩))
  rw [stm]
  exact ⟨rfl, rfl⟩

/-! ### HBM temperatures (R422) -/

/-- Is a stack hot after a reading, in 1/8 °C. -/
def hotAfter (x : Stack) (t : BitVec 16) : Bool := if 680 ≤ t.toInt then true else if t.toInt < 640 then false else x.hot

/-- A stack's reading changes whether it is hot, and may be reported. -/
theorem heatStack_eq (i : Nat) (t : BitVec 16) (s : State) : ∃ q, heatStack i t s =
    { modStack i (fun y => { y with hot := hotAfter (if i = 0 then s.hbm.stack0 else s.hbm.stack1) t }) s with ev.queue := q } := by
  have still : modStack i (fun y => { y with hot := (if i = 0 then s.hbm.stack0 else s.hbm.stack1).hot }) s = s := by
    rw [modStack]
    split <;> rfl
  unfold heatStack
  dsimp only
  generalize (if i = 0 then s.hbm.stack0 else s.hbm.stack1) = x at still ⊢
  by_cases rises : x.hot = false ∧ 680 ≤ t.toInt
  · have after : hotAfter x t = true := if_pos rises.2
    rw [if_pos (by simp [rises]), after]
    exact ⟨_, rfl⟩
  · by_cases falls : x.hot = true ∧ t.toInt < 640
    · have after : hotAfter x t = false := (if_neg (by omega)).trans (if_pos falls.2)
      rw [if_neg (by simp [falls.1]), if_pos (by simp [falls]), after]
      exact ⟨_, rfl⟩
    · have after : hotAfter x t = x.hot := by
        unfold hotAfter
        cases hot : x.hot <;> simp_all
      rw [if_neg (by simpa using rises), if_neg (by simpa using falls), after]
      exact ⟨s.ev.queue, by rw [still]⟩

/-- Both stacks after their readings. -/
def heated (t0 t1 : BitVec 16) (h : Hbm) : Hbm :=
  { h with stack0.hot := hotAfter h.stack0 t0, stack1.hot := hotAfter h.stack1 t1 }

theorem heatStacks_eq (t0 t1 : BitVec 16) (s : State) :
    ∃ q, heatStack 1 t1 (heatStack 0 t0 s) = { s with hbm := heated t0 t1 s.hbm, ev.queue := q } := by
  obtain ⟨q, first⟩ := heatStack_eq 0 t0 s
  obtain ⟨q', second⟩ := heatStack_eq 1 t1 (heatStack 0 t0 s)
  refine ⟨q', second.trans ?_⟩
  rw [first]
  rfl

theorem hbmTemperatureRead_answer (t0 t1 : BitVec 16) (on : samples s = true) : ∃ s', exec (.hbmTemperatureRead t0 t1) s = .next s' ∧
    s'.clk.fleet % 1000000 = 0 ∧ s.clk.fleet < s'.clk.fleet ∧ s'.clk.fleet ≤ s.clk.fleet + 1000000 ∧ s'.hbm = heated t0 t1 s.hbm ∧
    s' = { reported s s' with upNs := s'.upNs, clk := s'.clk, hbm := s'.hbm } := by
  obtain ⟨whole, later, near⟩ := nextMultiple_spec (m := 1000000) s.clk.fleet (by decide)
  obtain ⟨c, up, -, -, exact_, moved⟩ := advanceTo_clock (nextMultiple 1000000 s.clk.fleet) s
  have fleet := exact_ (le_of_lt later)
  obtain ⟨q, read⟩ := heatStacks_eq t0 t1 { s with clk := c, upNs := up }
  have given : Gives (.hbmTemperatureRead t0 t1) s { s with clk := c, upNs := up, hbm := heated t0 t1 s.hbm, ev.queue := q } := by
    refine gives_run _ _ (execHbmTemperatureRead.eq_1 t0 t1 s) ((if_pos on).trans ?_)
    rw [moved s rfl rfl]
    exact read
  rw [← fleet] at whole later near
  generalize hu : ({ s with clk := c, upNs := up, hbm := heated t0 t1 s.hbm, ev.queue := q } : State) = u at given
  have clk : (collect u).clk = c := (collect_clk u).trans (by rw [← hu])
  have hbm : (collect u).hbm = heated t0 t1 s.hbm := (collect_hbm u).trans (by rw [← hu])
  have ups : (collect u).upNs = up := (collect_upNs u).trans (by rw [← hu])
  have own := answer_reported s.pending u
  refine ⟨_, given, ?_, ?_, ?_, hbm, own.trans ?_⟩
  · exact (congrArg (·.fleet % 1000000) clk).trans whole
  · exact lt_of_lt_of_eq later (congrArg Clock.fleet clk).symm
  · exact le_of_eq_of_le (congrArg Clock.fleet clk) near
  · rw [clk, hbm, ups, ← hu]
    rfl

end

/-- Settles O50: perst_n and FLR by the functions' resets in turn, the exit from Dormant by what its stages leave, the rest by the
command's condition. -/
theorem pinsAndThermalEvents : Obligations.PinsAndThermalEvents := by
  unfold Obligations.PinsAndThermalEvents
  refine ⟨fun fn gen width s => ⟨perstNAssert_answer s, gives_perstNRelease, fun dormant first idle =>
      ⟨gives_perstNRelease_dormant dormant first idle, gives_run _ _ (execWake.eq_1 s) (startWake_dormant dormant first idle)⟩,
      fun entering => ?_, fun up => ⟨?_, ?_⟩, fun down => ⟨?_, ?_⟩, gives_pcieLinkUp gen width, fun idle => ?_,
      fun d due => dormantExit_answer due, fun virtual off => ?_, flr_answer⟩,
    fun t0 t1 s => ⟨fun on => ?_, fun on => ?_, hbmTemperatureRead_answer t0 t1, fun off => ?_⟩⟩
  · exact gives_run _ _ (execWake.eq_1 s) (if_pos entering)
  · exact gives_run _ _ (execPmeTurnOff.eq_1 s) (if_pos up)
  · exact gives_run _ _ (execD3hot.eq_1 s) (if_pos up)
  · exact gives_run _ _ (execPmeTurnOff.eq_1 s) (if_neg (ne_true_of_eq_false down))
  · exact gives_run _ _ (execD3hot.eq_1 s) (if_neg (ne_true_of_eq_false down))
  · exact gives_run _ _ (execPcieLinkUp.eq_1 gen width s) (if_neg (ne_true_of_eq_false idle))
  · exact gives_run _ _ (execFlr.eq_1 fn s) (if_neg (by simp [virtual, off]))
  · exact gives_run _ _ (execThermtrip.eq_1 s) (if_pos on)
  · exact gives_run _ _ (execRefclkLoss.eq_1 s) (if_pos on)
  · exact gives_run _ _ (execHbmTemperatureRead.eq_1 t0 t1 s) (if_neg (ne_true_of_eq_false off))

end Sys2Proof.Machine
end

section
/-! PROOFS. The submission commands as they are applied, and their completion entries (R212, R216, R219, R220). -/

namespace Sys2Proof.Machine

/-! ### The Completion Ring (R214, R219, R220) -/

theorem length_complBytes (p : Nat) (c : Compl) (seq : Nat) (phase : Bool) : (complBytes p c seq phase).length = 32 := by
  simp [complBytes]

/-- A Completion Ring after one more entry. -/
def ringMoved (x : Stm) : Stm := { x with
  cqTail := (x.cqTail + 1) % ringLen x.cqSize, cqSeq := inc32 x.cqSeq
  cqPhase := if (x.cqTail + 1) % ringLen x.cqSize = 0 then !x.cqPhase else x.cqPhase }

/-- The fields of a partition that its Completion Ring has. -/
def ringOf (x : Stm) : Nat × Nat × Nat × Nat × Nat × Bool := (x.cqTail, x.cqHead, x.cqSize, x.cqBase, x.cqSeq, x.cqPhase)

/-- A ring with room for one more entry. -/
def HasRoom (x : Stm) : Prop := (x.cqTail + 1) % ringLen x.cqSize ≠ x.cqHead

theorem hasRoom_of_cqRoom {s : State} {p : Fin 8} (h : cqRoom s p 1) : HasRoom (getStm s p) := h.2 1 le_rfl le_rfl

theorem complete_room {p : Nat} {c : Compl} {s : State} (room : HasRoom (getStm s p)) : complete p c s = modStm p ringMoved
    { s with hostMem := memWrite s.hostMem ((getStm s p).cqBase + 32 * (getStm s p).cqTail)
                          (complBytes p c (getStm s p).cqSeq (getStm s p).cqPhase) } := by
  unfold complete
  dsimp only
  rw [if_neg room]
  generalize memWrite s.hostMem ((getStm s p).cqBase + 32 * (getStm s p).cqTail) (complBytes p c (getStm s p).cqSeq (getStm s p).cqPhase) = m
  rfl

/-- What a state is whose ring alone has moved, beside the host's memory. -/
theorem moved_rest {p : Nat} {s t : State} {m : Table Byte} (h : t = modStm p ringMoved { s with hostMem := m }) : t.hostMem = m ∧
    t.mem = s.mem ∧ t.streams = s.streams ∧ t.cul = s.cul ∧ t.ev = s.ev ∧ getStm t p = ringMoved (getStm s p) := by
  have same : getStm { s with hostMem := m } p = getStm s p := rfl
  rw [h, getStm_modStm_self, same]
  exact ⟨rfl, rfl, rfl, rfl, rfl, rfl⟩

theorem complete_rest {p : Nat} {c : Compl} {s : State} (room : HasRoom (getStm s p)) : (complete p c s).hostMem =
      memWrite s.hostMem ((getStm s p).cqBase + 32 * (getStm s p).cqTail) (complBytes p c (getStm s p).cqSeq (getStm s p).cqPhase) ∧
    (complete p c s).mem = s.mem ∧ (complete p c s).streams = s.streams ∧ (complete p c s).cul = s.cul ∧ (complete p c s).ev = s.ev ∧
    getStm (complete p c s) p = ringMoved (getStm s p) :=
  moved_rest (complete_room room)

/-- An entry as the host reads it, where the ring was as `x` has it. -/
theorem complete_entry {p : Nat} {c : Compl} {u : State} {x : Stm} (ring : ringOf (getStm u p) = ringOf x) (room : HasRoom x) :
    memRead (complete p c u).hostMem (x.cqBase + 32 * x.cqTail) 32 = complBytes p c x.cqSeq x.cqPhase ∧
      ringOf (getStm (complete p c u) p) = ringOf (ringMoved x) := by
  simp only [ringOf, Prod.mk.injEq] at ring
  obtain ⟨tail, head, size, base, seq, phase⟩ := ring
  have free : HasRoom (getStm u p) := by rw [HasRoom, tail, size, head]; exact room
  constructor
  · rw [(complete_rest free).1, tail, base, seq, phase]
    have read := memRead_memWrite (complBytes p c x.cqSeq x.cqPhase) u.hostMem (x.cqBase + 32 * x.cqTail)
    rw [length_complBytes] at read
    exact read
  · rw [(complete_rest free).2.2.2.2.2]
    simp only [ringOf, ringMoved, tail, head, size, base, seq, phase]

theorem complIrq_eq (p : Nat) (b s : State) : ∃ x, complIrq p b s = { s with pcie := x } := by
  unfold complIrq
  dsimp only
  split
  · exact ⟨_, rfl⟩
  · exact ⟨s.pcie, rfl⟩

/-! ### A command applied (R216) -/

section
variable {s u : State} {p : Fin 8} {op : Nat} {c : SubCmd} {toks : List (BitVec 32)} {st : Nat} {y : Stream}

/-- The entry of a command that is applied. -/
def subEntry (op : Nat) (c : SubCmd) (toks : List (BitVec 32)) : SubEntry := { op := BitVec.ofNat 8 op, cmd := c, tokens := toks }

/-- The state in which a submission's completion is made: its effect, or its refusal counted. -/
def effected (p : Nat) (s : State) (e : SubEntry) : State :=
  if subStatus s p false e = 0 then subEffect p e s else modStm p (fun x => { x with sqErr := x.sqErr + 1 }) s

/-- A command other than a CANCEL that takes effect: its completion follows. -/
theorem applySub_eq (e : SubEntry) (owns : ownsStream (getStm s p) e.cmd.stream.toNat = true) (other : e.op ≠ 5 ∨ subStatus s p false e ≠ 0) :
    applySub p s (e, false) = complete p (subCompletion s p e.op.toNat e.cmd (subStatus s p false e)
      (getStream (effected p s e) e.cmd.stream.toNat)) (effected p s e) := by
  have last : ¬(decide (subStatus s p false e = 0) && e.op == 5) = true := by
    rw [Bool.and_eq_true, decide_eq_true_eq, beq_iff_eq, not_and]
    exact fun ok five => other.elim (absurd five) (absurd ok)
  unfold applySub
  dsimp only
  rw [if_pos owns]
  exact if_neg last

theorem applySub_cancel (e : SubEntry) (owns : ownsStream (getStm s p) e.cmd.stream.toNat = true) (cancel : e.op = 5)
    (ok : subStatus s p false e = 0) : applySub p s (e, false) = modStm p (fun x => { x with ends := x.ends ++
      [(e.cmd.stream.toNat, (getStream s e.cmd.stream.toNat).pos, (getStream s e.cmd.stream.toNat).replay, (getStream s e.cmd.stream.toNat).client)] })
      (complete p (subCompletion s p e.op.toNat e.cmd (subStatus s p false e) (getStream (effected p s e) e.cmd.stream.toNat)) (effected p s e)) := by
  have last : (decide (subStatus s p false e = 0) && e.op == 5) = true := by rw [ok, cancel]; decide
  unfold applySub
  dsimp only
  rw [if_pos owns]
  exact if_pos last

/-- What a state holds that a completion leaves: an `Applied` from the effect and its entry. -/
theorem applied_of {t : State} (ring : ringOf (getStm u p) = ringOf (getStm s p)) (room : HasRoom (getStm s p))
    (own : getStream u c.stream.toNat = y) (others : ∀ k, k ≠ c.stream.toNat → getStream u k = getStream s k)
    (streams : t.streams = u.streams) (stm : ringOf (getStm t p) = ringOf (getStm (complete p (subCompletion s p op c st y) u) p))
    (host : t.hostMem = (complete p (subCompletion s p op c st y) u).hostMem) : Applied s t p op c st y := by
  obtain ⟨entry, moved⟩ := complete_entry (c := subCompletion s p op c st y) ring room
  rw [moved] at stm
  simp only [ringOf, Prod.mk.injEq] at stm
  obtain ⟨tail, -, -, -, seq, -⟩ := stm
  have same (k : Nat) : getStream t k = getStream u k := by rw [getStream, getStream, streams]
  exact ⟨(same _).trans own, fun k hk => (same k).trans (others k hk), tail, seq, by rw [host]; exact entry⟩

/-- The answer of a command that the Step Builder applies. -/
theorem gives_applyNow {i : Instr} (exec_eq : exec i s = run (applyNow p op c toks) s) (free : (getStm s p).built = none) :
    Gives i s (complIrq p s (applySub p s (subEntry op c toks, false))) := by
  refine gives_run _ _ exec_eq (if_neg ?_)
  rw [free]
  decide

/-- A command that takes effect or is refused, but for a CANCEL that does. -/
theorem submission_answer {i : Instr} (exec_eq : exec i s = run (applyNow p op c toks) s) (small : op < 256) (free : (getStm s p).built = none)
    (room : cqRoom s p 1) (quiet : Collected s) (owns : ownsStream (getStm s p) c.stream.toNat = true)
    (status : subStatus s p false (subEntry op c toks) = st) (other : op ≠ 5 ∨ st ≠ 0) (effect : effected p s (subEntry op c toks) = u)
    (ring : ringOf (getStm u p) = ringOf (getStm s p)) (queue : u.ev.queue = s.ev.queue)
    (own : getStream u c.stream.toNat = y) (others : ∀ k, k ≠ c.stream.toNat → getStream u k = getStream s k) :
    ∃ s', exec i s = .next s' ∧ s'.mem = u.mem ∧ Applied s s' p op c st y ∧ s'.cul = u.cul ∧ getStm s' p = ringMoved (getStm u p) := by
  have given := gives_applyNow exec_eq free
  have number : (subEntry op c toks).op.toNat = op := Nat.mod_eq_of_lt small
  have codes : (subEntry op c toks).op ≠ 5 ∨ subStatus s p false (subEntry op c toks) ≠ 0 := by
    rw [status]
    refine other.imp_left fun h five => h ?_
    rw [← number, five]
    rfl
  have made := applySub_eq (subEntry op c toks) owns codes
  rw [number, status, effect] at made
  have cmd : (subEntry op c toks).cmd = c := rfl
  rw [cmd, own] at made
  obtain ⟨x, irq⟩ := complIrq_eq p s (applySub p s (subEntry op c toks, false))
  have before : HasRoom (getStm u p) := by
    simp only [ringOf, Prod.mk.injEq] at ring
    obtain ⟨tail, head, size, -⟩ := ring
    rw [HasRoom, tail, head, size]
    exact hasRoom_of_cqRoom room
  obtain ⟨-, mem, streams, cul, ev, moved⟩ := complete_rest (c := subCompletion s p op c st y) before
  rw [irq, made] at given
  generalize hv : complete p (subCompletion s p op c st y) u = v at *
  have none_ : ({ v with pcie := x } : State).ev.queue = [] := by
    show v.ev.queue = []
    rw [ev]
    exact queue.trans quiet
  have stm : (collect { v with pcie := x }).stms = v.stms := collect_stms _
  have row : getStm { collect { v with pcie := x } with pending := s.pending } p = getStm v p := by
    rw [getStm, getStm, stm]
  refine ⟨_, given, (collect_mem _).trans mem, applied_of ring (hasRoom_of_cqRoom room) own others ((collect_streams _).trans streams) ?_ ?_,
    (collect_cul _).trans cul, ?_⟩
  · rw [hv, row]
  · rw [hv]
    exact collect_hostMem_of_none _ none_
  · rw [row, moved]

/-! ### The effects (R212, R216, R268) -/

theorem effected_ok {e : SubEntry} (ok : subStatus s p false e = 0) : effected p s e = subEffect p e s := if_pos ok

/-- A command whose effect is on its own stream. -/
theorem streamCommand_answer {i : Instr} {f : Stream → Stream} (exec_eq : exec i s = run (applyNow p op c []) s) (small : op < 256)
    (free : (getStm s p).built = none) (room : cqRoom s p 1) (quiet : Collected s) (owns : ownsStream (getStm s p) c.stream.toNat = true)
    (ok : subStatus s p false (subEntry op c []) = 0) (other : op ≠ 5)
    (effect : subEffect p (subEntry op c []) s = modStream c.stream.toNat f s) :
    ∃ s', exec i s = .next s' ∧ s'.mem = s.mem ∧ Applied s s' p op c 0 (f (getStream s c.stream.toNat)) := by
  obtain ⟨s', answers, mem, applied, -, -⟩ := submission_answer exec_eq small free room quiet owns ok (.inl other)
    ((effected_ok ok).trans effect) rfl rfl (getStream_modStream_self ..) fun k hk => getStream_modStream_ne _ k _ _ hk
  exact ⟨s', answers, mem, applied⟩

/-- The tokens that an APPEND copies, as bytes. -/
def tokenBytes (n : Nat) (toks : List (BitVec 32)) : List Byte := (upFrom 0 n).flatMap fun k => leBytes 4 ((toks[k]?).getD 0).toNat

theorem length_tokenBytes (n : Nat) (toks : List (BitVec 32)) : (tokenBytes n toks).length = 4 * n := by
  simp [tokenBytes, List.length_flatMap, upFrom_eq_range, Nat.mul_comm]

/-- The prompt of a stream grown by `n` tokens, its first ones admitting it. -/
def grown (p : Nat) (s : State) (n : Nat) (y : Stream) : Stream := { y with
  state := if y.state = 1 then 2 else y.state, prompt := y.prompt + n
  admitSeq := if y.prompt = 0 then (getStm s p).admits else y.admitSeq }

/-- An APPEND's effect: its tokens, its stream, and perhaps the count of admitted streams. -/
theorem subEffect_append (c : SubCmd) (toks : List (BitVec 32)) : ∃ t,
    subEffect p (subEntry 2 c toks) s = modStream c.stream.toNat (grown p s (bits c.arg1.toNat 0 17)) t ∧
    t.mem = memWrite s.mem ((getStream s c.stream.toNat).prBase + 4 * (getStream s c.stream.toNat).prompt)
      (tokenBytes (bits c.arg1.toNat 0 17) toks) ∧
    t.streams = s.streams ∧ t.ev = s.ev ∧ ringOf (getStm t p) = ringOf (getStm s p) := by
  let stored := storeMem ((getStream s c.stream.toNat).prBase + 4 * (getStream s c.stream.toNat).prompt)
    (tokenBytes (bits c.arg1.toNat 0 17) toks) s
  refine ⟨if (getStream s c.stream.toNat).prompt = 0 then modStm p (fun x => { x with admits := inc32 x.admits }) stored else stored, rfl, ?_⟩
  split
  · refine ⟨rfl, rfl, rfl, ?_⟩
    rw [getStm_modStm_self]
    rfl
  · exact ⟨rfl, rfl, rfl, rfl⟩

theorem appendTokens_answer {toks : List (BitVec 32)} (free : (getStm s p).built = none) (room : cqRoom s p 1) (quiet : Collected s)
    (owns : ownsStream (getStm s p) c.stream.toNat = true) (ok : subStatus s p false (subEntry 2 c toks) = 0) :
    let y := getStream s c.stream.toNat
    let n := bits c.arg1.toNat 0 17
    ∃ s', exec (.appendTokens p c toks) s = .next s' ∧ memRead s'.mem (y.prBase + 4 * y.prompt) (4 * n) = tokenBytes n toks ∧
      MemoryBut s s' (y.prBase + 4 * y.prompt) (4 * n) ∧ Applied s s' p 2 c 0 (grown p s n y) := by
  intro y n
  obtain ⟨t, effect, mem, streams, ev, ring⟩ := subEffect_append (s := s) (p := p) c toks
  have same (k : Nat) : getStream t k = getStream s k := by rw [getStream, getStream, streams]
  obtain ⟨s', answers, stands, applied, -, -⟩ := submission_answer (i := .appendTokens p c toks) (execAppendTokens.eq_1 p c toks s) (by decide) free room
    quiet owns ok (.inl (by decide)) ((effected_ok ok).trans effect) ring (congrArg EvSt.queue ev)
    (y := grown p s n y) ((getStream_modStream_self ..).trans (by rw [same])) fun k hk => (getStream_modStream_ne _ k _ _ hk).trans (same k)
  replace stands : s'.mem = memWrite s.mem (y.prBase + 4 * y.prompt) (tokenBytes n toks) := stands.trans mem
  refine ⟨s', answers, ?_, fun x out => ?_, applied⟩
  · rw [stands, ← length_tokenBytes n toks]
    exact memRead_memWrite ..
  · rw [stands]
    exact memGet_memWrite_outside _ _ _ _ (by rw [length_tokenBytes]; exact out)

theorem rewardStream_answer (free : (getStm s p).built = none) (room : cqRoom s p 1) (quiet : Collected s)
    (owns : ownsStream (getStm s p) c.stream.toNat = true) (ok : subStatus s p false (subEntry 6 c []) = 0) :
    ∃ s', exec (.rewardStream p c) s = .next s' ∧ s'.mem = s.mem ∧ Applied s s' p 6 c 0 (getStream s c.stream.toNat) ∧
      (tget [] s'.cul.applied p).getLast? = some { step := (getStm s p).step, first := bits c.arg1.toNat 0 8, last := bits c.arg1.toNat 8 8,
                                                   value := signed 32 (bits c.arg0.toNat 0 32) } := by
  obtain ⟨s', answers, mem, applied, cul, -⟩ := submission_answer (i := .rewardStream p c) (execRewardStream.eq_1 p c s) (by decide) free room quiet owns ok
    (.inl (by decide)) (effected_ok ok) rfl rfl rfl fun _ _ => rfl
  refine ⟨s', answers, mem, applied, ?_⟩
  rw [cul]
  refine (congrArg List.getLast? (tget_tput_self ..)).trans ?_
  exact List.getLast?_concat

/-- A command with a failing check (R216). -/
theorem pauseStream_refused (free : (getStm s p).built = none) (room : cqRoom s p 1) (quiet : Collected s)
    (owns : ownsStream (getStm s p) c.stream.toNat = true) (bad : st ≠ 0) (status : subStatus s p false (subEntry 3 c []) = st) :
    ∃ s', exec (.pauseStream p c) s = .next s' ∧ s'.mem = s.mem ∧ Applied s s' p 3 c st (getStream s c.stream.toNat) ∧
      (getStm s' p).sqErr = (getStm s p).sqErr + 1 := by
  have refused : effected p s (subEntry 3 c []) = modStm p (fun x => { x with sqErr := x.sqErr + 1 }) s := if_neg (by rw [status]; exact bad)
  have ring : ringOf (getStm (modStm p (fun x => { x with sqErr := x.sqErr + 1 }) s) p) = ringOf (getStm s p) := by
    rw [getStm_modStm_self]
    rfl
  obtain ⟨s', answers, mem, applied, -, stm⟩ := submission_answer (i := .pauseStream p c) (execPauseStream.eq_1 p c s) (by decide) free room quiet owns status
    (.inl (by decide)) refused ring rfl rfl fun _ _ => rfl
  refine ⟨s', answers, mem, applied, ?_⟩
  rw [stm, getStm_modStm_self]
  rfl

/-! ### CANCEL (R219, R220) -/

theorem owns_of_ok {e : SubEntry} (ok : subStatus s p false e = 0) (other : e.op.toNat ≠ 6) : ownsStream (getStm s p) e.cmd.stream.toNat = true := by
  by_contra foreign
  unfold subStatus at ok
  dsimp only at ok
  split at ok
  · exact absurd ok (by decide)
  · rw [if_pos (by simp [other, eq_false_of_ne_true foreign])] at ok
    exact absurd ok (by decide)

theorem cancelStream_answer (free : (getStm s p).built = none) (room : cqRoom s p 1) (quiet : Collected s)
    (ok : subStatus s p false (subEntry 5 c []) = 0) :
    let y := getStream s c.stream.toNat
    let x := getStm s p
    ∃ s', exec (.cancelStream p c) s = .next s' ∧ s'.mem = s.mem ∧ getStream s' c.stream.toNat = { y with state := 0, endReason := 4 } ∧
      (∀ k, k ≠ c.stream.toNat → getStream s' k = getStream s k) ∧
      memRead s'.hostMem (x.cqBase + 32 * x.cqTail) 32 =
        complBytes p (subCompletion s p 5 c 0 { y with state := 0, endReason := 4 }) x.cqSeq x.cqPhase ∧
      (getStm s' p).ends = x.ends ++ [(c.stream.toNat, y.pos, y.replay, y.client)] := by
  intro y x
  have given := gives_applyNow (i := .cancelStream p c) (execCancelStream.eq_1 p c s) free
  have effect : effected p s (subEntry 5 c []) = modStream c.stream.toNat (fun y => { y with state := 0, endReason := 4 }) s := effected_ok ok
  have number : (subEntry 5 c []).op.toNat = 5 := rfl
  have cmd : (subEntry 5 c []).cmd = c := rfl
  have made := applySub_cancel (subEntry 5 c []) (owns_of_ok ok (by rw [number]; decide)) rfl ok
  rw [number, cmd, ok, effect, getStream_modStream_self] at made
  obtain ⟨entry, -⟩ := complete_entry (p := p) (c := subCompletion s p 5 c 0 { y with state := 0, endReason := 4 })
    (u := modStream c.stream.toNat (fun y => { y with state := 0, endReason := 4 }) s) (x := x) rfl (hasRoom_of_cqRoom room)
  obtain ⟨-, mem, streams, -, ev, moved⟩ := complete_rest (c := subCompletion s p 5 c 0 { y with state := 0, endReason := 4 })
    (s := modStream c.stream.toNat (fun y => { y with state := 0, endReason := 4 }) s) (p := p) (hasRoom_of_cqRoom room)
  obtain ⟨z, irq⟩ := complIrq_eq p s (applySub p s (subEntry 5 c [], false))
  rw [irq, made] at given
  generalize complete p (subCompletion s p 5 c 0 { y with state := 0, endReason := 4 })
    (modStream c.stream.toNat (fun y => { y with state := 0, endReason := 4 }) s) = v at *
  have ended := getStm_modStm_self p (fun x => { x with ends := x.ends ++ [(c.stream.toNat, y.pos, y.replay, y.client)] }) v
  replace moved := congrArg Stm.ends moved
  replace mem : (modStm p (fun x => { x with ends := x.ends ++ [(c.stream.toNat, y.pos, y.replay, y.client)] }) v).mem = s.mem := mem
  replace streams : (modStm p (fun x => { x with ends := x.ends ++ [(c.stream.toNat, y.pos, y.replay, y.client)] }) v).streams =
    (modStream c.stream.toNat (fun y => { y with state := 0, endReason := 4 }) s).streams := streams
  replace entry : memRead (modStm p (fun x => { x with ends := x.ends ++ [(c.stream.toNat, y.pos, y.replay, y.client)] }) v).hostMem
    (x.cqBase + 32 * x.cqTail) 32 = _ := entry
  replace ev : (modStm p (fun x => { x with ends := x.ends ++ [(c.stream.toNat, y.pos, y.replay, y.client)] }) v).ev.queue = [] :=
    (congrArg EvSt.queue ev).trans quiet
  change Gives _ s { modStm p (fun x => { x with ends := x.ends ++ [(c.stream.toNat, y.pos, y.replay, y.client)] }) v with pcie := z } at given
  generalize modStm p (fun x => { x with ends := x.ends ++ [(c.stream.toNat, y.pos, y.replay, y.client)] }) v = w at *
  have same (k : Nat) : getStream { collect { w with pcie := z } with pending := s.pending } k =
      getStream (modStream c.stream.toNat (fun y => { y with state := 0, endReason := 4 }) s) k :=
    congrArg (fun ss => tget ({} : Stream) ss k) ((collect_streams _).trans streams)
  have row : getStm { collect { w with pcie := z } with pending := s.pending } p = getStm w p :=
    congrArg (fun ss => tget ({} : Stm) ss p) (collect_stms _)
  refine ⟨_, given, (collect_mem _).trans mem, (same _).trans (getStream_modStream_self ..),
    fun k hk => (same k).trans (getStream_modStream_ne _ k _ _ hk), ?_, ?_⟩
  · exact Eq.trans (congrArg (memRead · (x.cqBase + 32 * x.cqTail) 32) (collect_hostMem_of_none { w with pcie := z } ev)) entry
  · rw [row, ended]
    exact congrArg (· ++ _) moved

/-- The end entry of a cancelled stream (R220). -/
def endCompl (n i pos : Nat) (replay : Bool) (client : Nat) : Compl :=
  { kind := 3, status := 0, stream := i, step := n, pos := pos, replay := replay, value := 4, cookie := 0, client := client }

/-- The commit of a step without rows of its own makes the end entry of the one stream that was cancelled (R220). -/
theorem commitStreams_end {b : Built} {budget i pos client : Nat} {replay : Bool} (room : cqRoom s p 1) (built : (getStm s p).built = some b)
    (none_ : b.rows = []) (ends : (getStm s p).ends = [(i, pos, replay, client)]) :
    memRead (commitStreams p budget s).hostMem ((getStm s p).cqBase + 32 * (getStm s p).cqTail) 32 =
      complBytes p (endCompl (getStm s p).step i pos replay client) (getStm s p).cqSeq (getStm s p).cqPhase ∧
    (getStm (commitStreams p budget s) p).ends = [] := by
  obtain ⟨entry, -⟩ := complete_entry (p := p) (c := endCompl (getStm s p).step i pos replay client) (u := s) (x := getStm s p) rfl
    (hasRoom_of_cqRoom room)
  have ended : endCancelled p (getStm s p).step i s = complete p (endCompl (getStm s p).step i pos replay client) s := by
    unfold endCancelled
    rw [ends, List.filter_cons_of_pos (by simp)]
    rfl
  have ids : sortBy (fun a b : Nat => decide (a < b)) (b.rows.map (·.stream) ++ (getStm s p).ends.map (·.1)).eraseDups = [i] := by
    rw [none_, ends]
    rfl
  have one : commitOne p (getStm s p).step budget b.rows.zipIdx s i = complete p (endCompl (getStm s p).step i pos replay client) s := by
    unfold commitOne
    rw [ended, none_]
    exact if_neg (by simp)
  have committed : commitStreams p budget s = complIrq p s (modStm p (fun y => { y with built := none, building := false, ends := [] })
      (complete p (endCompl (getStm s p).step i pos replay client) s)) := by
    unfold commitStreams
    dsimp only
    rw [built]
    dsimp only
    rw [ids, List.foldl_cons, List.foldl_nil, one]
  obtain ⟨z, irq⟩ := complIrq_eq p s (modStm p (fun y => { y with built := none, building := false, ends := [] })
    (complete p (endCompl (getStm s p).step i pos replay client) s))
  rw [committed, irq]
  generalize complete p (endCompl (getStm s p).step i pos replay client) s = v at *
  refine ⟨entry, ?_⟩
  exact (congrArg Stm.ends (getStm_modStm_self p (fun y => { y with built := none, building := false, ends := [] }) v) :)

end

/-- Settles O15: a command's effect, then its completion, which reaches the host's memory and the ring alone. -/
theorem submissionCommands : Obligations.SubmissionCommands := by
  unfold Obligations.SubmissionCommands
  refine ⟨fun p c toks s => ?_, fun p c s => ?_⟩
  · intro i y sub n free room quiet owns
    refine ⟨fun ok => ?_, fun ok => appendTokens_answer free room quiet owns ok, fun ok => ?_, fun ok => ?_,
      fun ok => rewardStream_answer free room quiet owns ok, fun ok => ?_⟩
    · exact streamCommand_answer (i := .openStream p c) (execOpenStream.eq_1 p c s) (by decide) free room quiet owns ok (by decide) rfl
    · exact streamCommand_answer (i := .pauseStream p c) (execPauseStream.eq_1 p c s) (by decide) free room quiet owns ok (by decide) rfl
    · exact streamCommand_answer (i := .resumeStream p c) (execResumeStream.eq_1 p c s) (by decide) free room quiet owns ok (by decide) rfl
    · obtain ⟨s', answers, mem, applied, -, -⟩ := submission_answer (i := .nopCommand p c) (execNopCommand.eq_1 p c s) (by decide) free room quiet
        owns ok (.inl (by decide)) (effected_ok ok) rfl rfl rfl fun _ _ => rfl
      exact ⟨s', answers, mem, applied⟩
  · intro i y x room
    exact ⟨fun free quiet ok => cancelStream_answer free room quiet ok, fun b budget pos replay client built none_ ends =>
      commitStreams_end room built none_ ends, fun st free quiet owns bad status => pauseStream_refused free room quiet owns bad status⟩

end Sys2Proof.Machine
end

section
/-! PROOFS. The step build, the step start, the reset of a partition and the expiry of a lock (R12, R17, R221 to R231). -/

namespace Sys2Proof.Machine

/-- A table whose values are changed by key, at a key that it lists. -/
theorem tget_map_of_mem {α : Type} (d : α) (f : Nat → α → α) (t : Table α) (k : Nat) (h : k ∈ t.map (·.1)) :
    tget d (t.map fun e => (e.1, f e.1 e.2)) k = f k (tget d t k) := by
  induction t with
  | nil => exact absurd h List.not_mem_nil
  | cons e t ih =>
    obtain ⟨a, v⟩ := e
    simp only [List.map_cons, tget]
    split
    · next same => rw [same]
    · next other => exact ih ((List.mem_cons.1 h).resolve_left fun e => other e.symm)

/-! ### What the due commands leave (R216, R217) -/

/-- Of the machine only what submissions reach has changed, and no start swing. -/
def SubsOnly (s t : State) : Prop := t = { s with
    mem := t.mem, ecc := t.ecc, hostMem := t.hostMem, stms := t.stms, streams := t.streams, cul := { s.cul with applied := t.cul.applied } } ∧
  ∀ q, (getStm t q).nextSw = (getStm s q).nextSw

theorem SubsOnly.refl (s : State) : SubsOnly s s := ⟨rfl, fun _ => rfl⟩

theorem SubsOnly.trans {s t u : State} (h : SubsOnly s t) (h' : SubsOnly t u) : SubsOnly s u := by
  obtain ⟨only, swings⟩ := h
  obtain ⟨only', swings'⟩ := h'
  refine ⟨?_, fun q => (swings' q).trans (swings q)⟩
  rw [only', only]

theorem SubsOnly.ite {c : Prop} [Decidable c] {s t u : State} (ht : SubsOnly s t) (hu : SubsOnly s u) : SubsOnly s (if c then t else u) := by
  split
  · exact ht
  · exact hu

theorem subsOnly_foldl {β : Type} (g : State → β → State) (hg : ∀ s x, SubsOnly s (g s x)) (xs : List β) (s : State) :
    SubsOnly s (xs.foldl g s) := by
  induction xs generalizing s with
  | nil => exact .refl s
  | cons x xs ih => exact (hg s x).trans (ih _)

theorem SubsOnly.modStm {s t : State} {p : Nat} {f : Stm → Stm} (h : SubsOnly s t) (kept : ∀ x, (f x).nextSw = x.nextSw) :
    SubsOnly s (modStm p f t) := by
  refine h.trans ⟨rfl, fun q => ?_⟩
  by_cases own : q = p
  · rw [own, getStm_modStm_self, kept]
  · rw [getStm_modStm_ne _ _ _ _ own]

theorem subsOnly_modStream (i : Nat) (f : Stream → Stream) (s : State) : SubsOnly s (modStream i f s) := ⟨rfl, fun _ => rfl⟩
theorem SubsOnly.modStream {s t : State} {i : Nat} {f : Stream → Stream} (h : SubsOnly s t) : SubsOnly s (modStream i f t) :=
  h.trans (subsOnly_modStream ..)

theorem subsOnly_storeMem (a : Nat) (bs : List Byte) (s : State) : SubsOnly s (storeMem a bs s) := ⟨rfl, fun _ => rfl⟩
theorem subsOnly_hostMem (m : Table Byte) (s : State) : SubsOnly s { s with hostMem := m } := ⟨rfl, fun _ => rfl⟩

theorem subsOnly_complete (p : Nat) (c : Compl) (s : State) : SubsOnly s (complete p c s) := by
  unfold complete
  dsimp only
  split
  · exact .ite (SubsOnly.modStream (.modStm (.refl s) fun _ => rfl)) (SubsOnly.modStm (.refl s) fun _ => rfl)
  · exact SubsOnly.modStm (subsOnly_hostMem ..) fun _ => rfl

theorem subsOnly_subEffect (p : Nat) (e : SubEntry) (s : State) : SubsOnly s (subEffect p e s) := by
  unfold subEffect
  dsimp only
  split
  · exact subsOnly_modStream ..
  · exact SubsOnly.modStream (.ite (.modStm (subsOnly_storeMem ..) fun _ => rfl) (subsOnly_storeMem ..))
  · exact subsOnly_modStream ..
  · exact subsOnly_modStream ..
  · exact subsOnly_modStream ..
  · exact ⟨rfl, fun _ => rfl⟩
  · exact .refl s

theorem subsOnly_applySub (p : Nat) (s : State) (z : SubEntry × Bool) : SubsOnly s (applySub p s z) := by
  have effect : SubsOnly s (if subStatus s p z.2 z.1 = 0 then subEffect p z.1 s else modStm p (fun x => { x with sqErr := x.sqErr + 1 }) s) :=
    .ite (subsOnly_subEffect ..) (SubsOnly.modStm (.refl s) fun _ => rfl)
  have told (c : Compl) := effect.trans (subsOnly_complete p c _)
  exact .ite (SubsOnly.modStm (told _) fun _ => rfl) (told _)

theorem subsOnly_applyDue (p : Nat) (s : State) : SubsOnly s (applyDue p s) := by
  have taken : SubsOnly s (modStm p (fun y => { y with pend := y.pend.filter fun z => !subDue (getStm s p).step z }) s) :=
    .modStm (.refl s) fun _ => rfl
  exact taken.trans (subsOnly_foldl _ (subsOnly_applySub p) _ _)

/-- The due commands change neither the jobs nor how they start. -/
theorem onSwings_applyDue (p j : Nat) (s : State) : (applyDue p s).jobs = s.jobs ∧ onSwings (applyDue p s) j = onSwings s j := by
  obtain ⟨only, swings⟩ := subsOnly_applyDue p s
  have jobs : (applyDue p s).jobs = s.jobs := (congrArg State.jobs only :)
  refine ⟨jobs, ?_⟩
  simp only [onSwings, ringPart, partJobs, residents, getJob, jobs, swings]

/-! ### The step build (R222, R224, R229) -/

section
variable {s : State}

theorem onTable_sound {k : Nat} {f : State → State} (h : s.ecc.badTables = []) : onTable k f s = f s := by
  rw [onTable, h]
  rfl

/-- The step that a build composes, before its record is written. -/
def builtState (p : Nat) (rows : List Row) (t : State) : State := lockRows p rows (modStm p (fun y => { y with
  built := some { rows := rows, stepNo := y.step, lockNs := t.clk.fleet, startNs := t.clk.fleet }, building := true }) t)

theorem buildStep_eq {p j : Nat} {rows : List Row} {t : State} (own : onSwings t j = false)
    (fits : inVat (getStm t p).srBase (stepRecord p (getStm t p).step (jobMov (getJob t j)).stepBudget t.clk.fleet rows).length = true) :
    buildStep p j rows t = storeMem (getStm t p).srBase (stepRecord p (getStm t p).step (jobMov (getJob t j)).stepBudget t.clk.fleet rows)
      (builtState p rows t) := by
  unfold buildStep
  dsimp only
  rw [own]
  exact if_pos fits

theorem builtState_stm (p : Nat) (rows : List Row) (t : State) : (getStm (builtState p rows t) p).built =
    some { rows := rows, stepNo := (getStm t p).step, lockNs := t.clk.fleet, startNs := t.clk.fleet } :=
  (congrArg Stm.built (getStm_modStm_self p (fun y => { y with
    built := some { rows := rows, stepNo := y.step, lockNs := t.clk.fleet, startNs := t.clk.fleet }, building := true }) t) :)

/-- The streams of the rows of a step are locked. -/
theorem lockRows_locked (p : Nat) (rows : List Row) (u : State) {r : Row} (mem : r ∈ rows) (listed : r.stream ∈ u.streams.map (·.1)) :
    (getStream (lockRows p rows u) r.stream).locked = true := by
  have found := tget_map_of_mem ({} : Stream) (fun k y => if ((rows.map (·.stream)).eraseDups).contains k then
    { y with locked := true, lockEpoch := (getStm u p).pepoch } else y) u.streams r.stream listed
  have held : ((rows.map (·.stream)).eraseDups).contains r.stream = true := by
    rw [List.contains_iff_mem, List.mem_eraseDups]
    exact List.mem_map_of_mem mem
  rw [if_pos held] at found
  exact congrArg Stream.locked found

/-- What an answer shows of a state whose last act is a store. -/
theorem stored_answer {i : Instr} {w : State} {a : Nat} {bs : List Byte} {x : Pcie} (given : Gives i s { storeMem a bs w with pcie := x }) :
    ∃ s', exec i s = .next s' ∧ s'.mem = memWrite w.mem a bs ∧ s'.stms = w.stms ∧ s'.streams = w.streams ∧ s'.jobs = w.jobs ∧ s'.tps = w.tps :=
  ⟨_, given, collect_mem _, collect_stms _, collect_streams _, collect_jobs _, collect_tps _⟩

theorem gives_stepBuild {p : Fin 8} {j : Nat} {t : State} {rows : List Row} {record : List Byte} (who : builder s p = some j)
    (own : onSwings s j = false) (sound : s.ecc.badTables = []) (due : applyDue p s = t)
    (composed : composeStep t p (jobMov (getJob s j)).stepBudget = rows) (work : rows ≠ [])
    (wrote : buildStep p j rows t = storeMem (getStm t p).srBase record (builtState p rows t)) :
    ∃ x, Gives (.stepBuild p) s { storeMem (getStm t p).srBase record (builtState p rows t) with pcie := x } := by
  obtain ⟨x, irq⟩ := complIrq_eq p s (buildStep p j rows t)
  refine ⟨x, gives_run _ _ (execStepBuild.eq_1 p s) ?_⟩
  rw [onTable_sound sound, who]
  dsimp only
  rw [own, if_neg Bool.false_ne_true, due, composed, if_neg (by rw [List.isEmpty_iff]; exact work), irq, wrote]

theorem stepBuild_answer {p : Fin 8} {j : Nat} (who : builder s p = some j) (own : onSwings s j = false) (sound : s.ecc.badTables = [])
    (work : composeStep (applyDue p s) p (jobMov (getJob s j)).stepBudget ≠ []) (clk : (applyDue p s).clk = s.clk)
    (fits : inVat (getStm (applyDue p s) p).srBase (stepRecord p (getStm (applyDue p s) p).step (jobMov (getJob s j)).stepBudget s.clk.fleet
      (composeStep (applyDue p s) p (jobMov (getJob s j)).stepBudget)).length = true) :
    let s1 := applyDue p s
    let budget := (jobMov (getJob s j)).stepBudget
    let rows := composeStep s1 p budget
    let record := stepRecord p (getStm s1 p).step budget s.clk.fleet rows
    ∃ s', exec (.stepBuild p) s = .next s' ∧ memRead s'.mem (getStm s1 p).srBase record.length = record ∧
      (∀ a, a < (getStm s1 p).srBase ∨ (getStm s1 p).srBase + record.length ≤ a → memGet s'.mem a = memGet s1.mem a) ∧
      (∃ b, (getStm s' p).built = some b ∧ b.rows = rows ∧ b.stepNo = (getStm s1 p).step ∧ b.lockNs = s.clk.fleet) ∧
      (∀ r ∈ rows, r.stream ∈ s1.streams.map (·.1) → (getStream s' r.stream).locked = true) ∧ s'.jobs = s1.jobs ∧ s'.tps = s1.tps := by
  intro s1 budget rows record
  obtain ⟨jobs, swings⟩ := onSwings_applyDue p j s
  have same : getJob s1 j = getJob s j := by rw [getJob, getJob, jobs]
  have wrote : buildStep p j rows s1 = storeMem (getStm s1 p).srBase record (builtState p rows s1) := by
    have eq := buildStep_eq (p := p) (j := j) (rows := rows) (t := s1) (swings.trans own) (by rw [clk, same]; exact fits)
    rw [clk, same] at eq
    exact eq
  obtain ⟨x, given⟩ := gives_stepBuild who own sound rfl rfl work wrote
  obtain ⟨s', answers, mem, stms, streams, jobs', tps⟩ := stored_answer given
  have built := builtState_stm p rows s1
  rw [clk] at built
  have kept : (builtState p rows s1).mem = s1.mem := rfl
  have row : (getStm s' p).built = _ := (congrArg (fun ss => (tget ({} : Stm) ss p).built) stms).trans built
  refine ⟨s', answers, ?_, fun a out => ?_, ⟨_, row, rfl, rfl, rfl⟩, fun r hr listed => ?_, jobs', tps⟩
  · rw [mem]
    exact memRead_memWrite ..
  · rw [mem, memGet_memWrite_outside _ _ _ _ out, kept]
  · rw [getStream, streams]
    exact lockRows_locked p rows _ hr listed

/-! ### The step start (R12, R17, R221) -/

/-- Arming a job's programs changes its collectives alone. -/
theorem armColls_only (j : Nat) (t : State) : armColls j t = { t with jobs := (armColls j t).jobs } ∧
    (∀ k, k ≠ j → getJob (armColls j t) k = getJob t k) ∧
    ∃ cs, getJob (armColls j t) j = { getJob t j with run := { (getJob t j).run with colls := cs } } := by
  unfold armColls
  dsimp only
  split
  · exact ⟨rfl, fun _ _ => rfl, _, rfl⟩
  · exact ⟨rfl, fun k hk => getJob_modJob_ne j k _ _ hk, _, getJob_modJob_self ..⟩

/-- The TPs of a job begin afresh where they ran it last; the others stay. -/
theorem getTp_freshTps (j t : Nat) (s : State) :
    getTp (freshTps j s) t = if (getTp s t).lastJob == some j && (getTp s t).tile.isNone then freshTp (getTp s t) else getTp s t :=
  tget_map ({} : Tp) (fun x => if x.lastJob == some j && x.tile.isNone then freshTp x else x) rfl s.tps t

/-- The run with which a job's step starts (R17, R221). -/
def startedRun (live now : Nat) (r : Run) : Run :=
  { active := true, startNs := now, origin := now, live := live, hbmBytes := r.hbmBytes, linkBytes := r.linkBytes, engine := r.engine
    energy := r.energy, colls := r.colls }

/-- The state of a step that starts at no swing, before its programs are armed. -/
def startedState (p j live : Nat) (s : State) : State :=
  modPart p (fun y => { y with beatCy := 0 }) (takeView p (modRun j (startedRun live s.clk.fleet) (freshTps j s)))

theorem startStep_eq {p j : Nat} (own : onSwings s j = false) : startStep p s j = armColls j (startedState p j
    (if jobServing (getJob s j) then (builtRows s p).length else (jobMov (getJob s j)).stepBudget) s) := by
  unfold startStep
  dsimp only
  rw [own]
  rfl

theorem startedState_job (p j live : Nat) (s : State) :
    getJob (startedState p j live s) j = { getJob s j with run := startedRun live s.clk.fleet (getJob s j).run } := by
  show getJob (modRun j (startedRun live s.clk.fleet) (freshTps j s)) j = _
  rw [modRun, getJob_modJob_self]
  rfl

theorem startedState_others (p j live : Nat) (s : State) {k : Nat} (other : k ≠ j) : getJob (startedState p j live s) k = getJob s k := by
  show getJob (modRun j (startedRun live s.clk.fleet) (freshTps j s)) k = _
  rw [modRun, getJob_modJob_ne _ _ _ _ other]
  rfl

theorem startedState_part (p j live : Nat) (s : State) : (getPart (startedState p j live s) p).view = ringNow s ∧
    (getPart (startedState p j live s) p).routes = s.routes := by
  have outer : getPart (startedState p j live s) p =
      { getPart (takeView p (modRun j (startedRun live s.clk.fleet) (freshTps j s))) p with beatCy := 0 } := tget_tput_self ..
  have inner : getPart (takeView p (modRun j (startedRun live s.clk.fleet) (freshTps j s))) p = { getPart s p with
      view := ringNow s, routes := s.routes, roles := (upFrom 0 8).map fun n => (getLink s n).role } := tget_tput_self ..
  rw [outer, inner]
  exact ⟨rfl, rfl⟩

theorem stepStart_answer {p : Fin 8} {j : Nat} (one : starters s p = [j]) (own : onSwings s j = false) :
    ∃ s', exec (.stepStart p) s = .next s' ∧ s'.mem = s.mem ∧ s'.clk = s.clk ∧
      (getJob s' j).run.active = true ∧ (getJob s' j).run.startNs = s.clk.fleet ∧ (getJob s' j).run.cycle = 0 ∧
      (getJob s' j).run.slip = 0 ∧ (getJob s' j).run.stopIx = 0 ∧ (getJob s' j).run.cursor = [] ∧
      (getJob s' j).run.live = (if jobServing (getJob s j) then (builtRows s p).length else (jobMov (getJob s j)).stepBudget) ∧
      (∀ k, k ≠ j → getJob s' k = getJob s k) ∧
      (getPart s' p).view = [cfgVal s 0x0601, cfgVal s 0x0602, cfgVal s 0x0603, cfgVal s 0x0604] ∧ (getPart s' p).routes = s.routes ∧
      (∀ t, (getTp s t).lastJob = some j → (getTp s t).tile = none → (getTp s' t).next = 0 ∧ (getTp s' t).ready = []) ∧
      (∀ t, (getTp s t).lastJob ≠ some j → getTp s' t = getTp s t) := by
  generalize hl : (if jobServing (getJob s j) then (builtRows s p).length else (jobMov (getJob s j)).stepBudget) = live
  have begun := startStep_eq (p := p) own
  rw [hl] at begun
  obtain ⟨only, others, cs, job⟩ := armColls_only j (startedState p j live s)
  have given : Gives (.stepStart p) s (armColls j (startedState p j live s)) := by
    refine gives_run _ _ (execStepStart.eq_1 p s) ?_
    rw [one]
    exact begun
  obtain ⟨view, routes⟩ := startedState_part p j live s
  rw [startedState_job] at job
  have tp (t : Nat) : getTp (startedState p j live s) t = getTp (freshTps j s) t := rfl
  have kept (k : Nat) (hk : k ≠ j) : getJob (startedState p j live s) k = getJob s k := startedState_others p j live s hk
  have mem : (startedState p j live s).mem = s.mem := rfl
  have clk : (startedState p j live s).clk = s.clk := rfl
  generalize startedState p j live s = v at *
  generalize armColls j v = u at *
  have jobOf (k : Nat) : getJob { collect u with pending := s.pending } k = getJob u k := getJob_answer _ u k
  have tpOf (t : Nat) : getTp { collect u with pending := s.pending } t = getTp (freshTps j s) t :=
    (getTp_answer _ u t).trans ((congrArg (fun ts => tget ({} : Tp) ts t) (congrArg State.tps only :)).trans (tp t))
  have partOf : getPart { collect u with pending := s.pending } p = getPart v p :=
    (congrArg (fun ps => tget ({} : Part) ps p) ((collect_parts u).trans (congrArg State.parts only :)))
  refine ⟨_, given, (collect_mem u).trans ((congrArg State.mem only :).trans mem), (collect_clk u).trans ((congrArg State.clk only :).trans clk),
    ?_, ?_, ?_, ?_, ?_, ?_, ?_, fun k hk => (jobOf k).trans ((others k hk).trans (kept k hk)), (congrArg Part.view partOf).trans view,
    (congrArg Part.routes partOf).trans routes, fun t last idle => ?_, fun t other => ?_⟩
  · rw [jobOf, job]; rfl
  · rw [jobOf, job]; rfl
  · rw [jobOf, job]; rfl
  · rw [jobOf, job]; rfl
  · rw [jobOf, job]; rfl
  · rw [jobOf, job]; rfl
  · rw [jobOf, job]; rfl
  · rw [tpOf, getTp_freshTps, if_pos (by rw [last, idle]; simp)]
    exact ⟨rfl, rfl⟩
  · rw [tpOf, getTp_freshTps, if_neg (by simp [other])]

/-! ### The reset of a partition (R230, R231) -/

/-- Of the machine only the accounts have changed. -/
def AcctsOnly (s t : State) : Prop := t = { s with accts := t.accts }

theorem AcctsOnly.refl (s : State) : AcctsOnly s s := rfl

theorem AcctsOnly.trans {s t u : State} (h : AcctsOnly s t) (h' : AcctsOnly t u) : AcctsOnly s u := by
  rw [AcctsOnly] at *
  rw [h', h]

theorem AcctsOnly.ite {c : Prop} [Decidable c] {s t u : State} (ht : AcctsOnly s t) (hu : AcctsOnly s u) : AcctsOnly s (if c then t else u) := by
  split
  · exact ht
  · exact hu

theorem AcctsOnly.foldl {β : Type} {s t : State} (h : AcctsOnly s t) (g : State → β → State) (hg : ∀ s x, AcctsOnly s (g s x)) (xs : List β) :
    AcctsOnly s (xs.foldl g t) := by
  induction xs generalizing t with
  | nil => exact h
  | cons x xs ih => exact ih (h.trans (hg _ x))

theorem AcctsOnly.modAcct {s t : State} (h : AcctsOnly s t) (a : Nat) (f : Account → Account) : AcctsOnly s (modAcct a f t) :=
  h.trans rfl

theorem AcctsOnly.chargeQty {s t : State} (h : AcctsOnly s t) (j q : Nat) (add : Nat → Account → Account) : AcctsOnly s (chargeQty j q add t) := by
  unfold Machine.chargeQty
  exact h.foldl _ (fun u x => (AcctsOnly.refl u).modAcct ..) _

/-- A job whose step's quantities have been charged to the accounts (R252). -/
def settledJob (x : Job) : Job := { x with
  waitNs := 0, prePend := 0, run := { x.run with engine := 0, energy := 0, hbmBytes := 0, linkBytes := 0 } }

theorem chargeStep_eq (j : Nat) (committed : Bool) (s : State) : ∃ t, AcctsOnly s t ∧ chargeStep j committed s = modJob j settledJob t := by
  refine ⟨_, ?_, rfl⟩
  have engine := (AcctsOnly.refl s).chargeQty j (getJob s j).run.engine fun q a => { a with engine := a.engine + q }
  have waited := (engine.chargeQty j (getJob s j).waitNs fun q a => { a with wait := a.wait + q }).foldl
    (fun t a => modAcct a (addPre (getJob s j).prePend) t) (fun t a => (AcctsOnly.refl t).modAcct a _) (preAccounts s j)
  refine .ite ((((engine.chargeQty ..).chargeQty ..).chargeQty ..).chargeQty ..) (AcctsOnly.modAcct (.ite (.ite ?_ (waited.modAcct ..)) waited) ..)
  exact waited.foldl _ (fun t c => .ite (.refl t) ((AcctsOnly.refl t).modAcct ..)) _

theorem foldl_jobs {β : Type} {g : State → β → State} (hg : ∀ s x, (g s x).jobs = s.jobs) (xs : List β) (s : State) :
    (xs.foldl g s).jobs = s.jobs := by
  induction xs generalizing s with
  | nil => rfl
  | cons x xs ih => exact (ih _).trans (hg s x)

theorem getJob_chargeStep (j k : Nat) (committed : Bool) (s : State) :
    getJob (chargeStep j committed s) k = if k = j then settledJob (getJob s j) else getJob s k := by
  obtain ⟨t, only, charged⟩ := chargeStep_eq j committed s
  have same (k : Nat) : getJob t k = getJob s k := by rw [only]; rfl
  rw [charged]
  split
  · next own => rw [own, getJob_modJob_self, same]
  · next other => rw [getJob_modJob_ne _ _ _ _ other, same]

theorem skipPut_jobs (n a : Nat) (bs : List Byte) (s : State) : (skipFree n (putMem a bs s)).jobs = s.jobs := rfl

theorem dropWork_jobs (j : Nat) (s : State) : (dropWork j s).jobs = s.jobs := by
  have freed : (freeMatrix (walkedTps s j) (serveJob j s)).jobs = (serveJob j s).jobs := foldl_jobs (fun _ _ => skipPut_jobs ..) _ _
  have served : (serveJob j s).jobs = s.jobs := by rw [serveJob, serveVat_rest]
  exact Eq.trans (by rfl) (freed.trans served)

/-- An attempt's charge keeps a job's state and step number (R240). -/
theorem chargeAttempt_job (j k : Nat) (s : State) : (getJob (chargeAttempt j s) k).state = (getJob s k).state ∧
    (getJob (chargeAttempt j s) k).stepNo = (getJob s k).stepNo := by
  unfold chargeAttempt
  split
  · by_cases own : k = j
    · rw [own, chargeEngine, getJob_modJob_self]
      exact ⟨rfl, rfl⟩
    · rw [chargeEngine, getJob_modJob_ne _ _ _ _ own]
      exact ⟨rfl, rfl⟩
  · exact ⟨rfl, rfl⟩

theorem getJob_telBound (p k : Nat) (s : State) : getJob (telBound p s) k = getJob s k := rfl
theorem abandonCulture_tps (j : Nat) (s : State) : (abandonCulture j s).tps = s.tps := rfl
theorem getJob_abandonCulture (j k : Nat) (s : State) : getJob (abandonCulture j s) k = getJob s k := rfl
theorem getJob_haltJob (j k : Nat) (s : State) : getJob (haltJob j s) k = getJob s k := rfl
theorem getTp_modJob (j u : Nat) (f : Job → Job) (s : State) : getTp (modJob j f s) u = getTp s u := rfl

theorem getJob_dropWork (j k : Nat) (s : State) : getJob (dropWork j s) k = getJob s k := by
  rw [getJob, getJob, dropWork_jobs]

/-- What an abandoned step makes of its job and of the TPs that ran it (R240, R253). -/
theorem abandonStep_job (j : Nat) (s : State) : (getJob (abandonStep j s) j).run = {} ∧ (getJob (abandonStep j s) j).state = (getJob s j).state ∧
    (getJob (abandonStep j s) j).stepNo = (getJob s j).stepNo ∧ ∀ u, tpRuns j (getTp (abandonStep j s) u) = false := by
  rw [abandonStep]
  generalize before : (if (getJob s j).run.active = true then telBound (jobPart (getJob s j)) (chargeStep j false (chargeAttempt j s)) else s) = t
  have kept : (getJob t j).state = (getJob s j).state ∧ (getJob t j).stepNo = (getJob s j).stepNo := by
    rw [← before]
    split
    · rw [getJob_telBound, getJob_chargeStep, if_pos rfl]
      exact chargeAttempt_job j j s
    · exact ⟨rfl, rfl⟩
  have dropped : getJob (abandonCulture j (dropWork j (haltJob j t))) j = getJob t j := by
    rw [getJob_abandonCulture, getJob_dropWork, getJob_haltJob]
  refine ⟨?_, ?_, ?_, fun u => ?_⟩
  · rw [getJob_modJob_self]
  · rw [getJob_modJob_self, dropped]
    exact kept.1
  · rw [getJob_modJob_self, dropped]
    exact kept.2
  · rw [getTp_modJob, getTp, abandonCulture_tps, dropWork_tps]
    exact haltJob_runs j u t

/-- The reset of a partition with a serving job abandons that job's step. -/
theorem resetPart_serving {p j : Nat} (serving : servingJob s p = some j) : (getJob (resetPart p s) j).run = {} ∧
    (getJob (resetPart p s) j).state = (getJob s j).state ∧ (getJob (resetPart p s) j).stepNo = (getJob s j).stepNo ∧
    ∀ u, tpRuns j (getTp (resetPart p s) u) = false := by
  have same : (resetPart p s).jobs = (abandonStep j s).jobs ∧ (resetPart p s).tps = (abandonStep j s).tps := by
    rw [resetPart_eq, abandoned, serving]
    dsimp only
    generalize abandonStep j s = t
    exact ⟨rfl, rfl⟩
  have job : getJob (resetPart p s) j = getJob (abandonStep j s) j := by rw [getJob, getJob, same.1]
  have tp (u : Nat) : getTp (resetPart p s) u = getTp (abandonStep j s) u := by rw [getTp, getTp, same.2]
  rw [job]
  obtain ⟨run, state, stepNo, tps⟩ := abandonStep_job j s
  exact ⟨run, state, stepNo, fun u => by rw [tp]; exact tps u⟩

/-- A reset releases the streams of the built step, marked Replay (R230). -/
theorem resetPart_released {p : Nat} {b : Built} {r : Row} (built : (getStm s p).built = some b) (row : r ∈ b.rows)
    (listed : r.stream ∈ s.streams.map (·.1)) :
    (getStream (resetPart p s) r.stream).locked = false ∧ (getStream (resetPart p s) r.stream).replay = true := by
  obtain ⟨stms, streams, -⟩ := abandoned_rest p s
  have held : (getStm (abandoned p s) p).built = some b := by rw [getStm, stms]; exact built
  rw [resetPart_eq]
  generalize abandoned p s = t at *
  rw [← streams] at listed
  have found := tget_map_of_mem ({} : Stream) (fun k y => if ((((getStm t p).built.map fun b => b.rows.map (·.stream)).getD []).contains k) then
    { y with locked := false, lockEpoch := 0, replay := y.replay || true } else y) t.streams r.stream listed
  have inRows : (((getStm t p).built.map fun b => b.rows.map (·.stream)).getD []).contains r.stream = true := by
    rw [held, List.contains_iff_mem]
    exact List.mem_map_of_mem row
  rw [if_pos inRows] at found
  exact ⟨(congrArg Stream.locked found :), (congrArg Stream.replay found :).trans (Bool.or_true _)⟩

theorem partitionReset_answer {p : Fin 8} : ∃ s', exec (.partitionReset p) s = .next s' ∧
    (servingJob s p = none → s'.mem = s.mem ∧ s'.tps = s.tps ∧ s'.jobs = s.jobs) ∧
    (∀ j, servingJob s p = some j → (getJob s' j).run = {} ∧ (getJob s' j).state = (getJob s j).state ∧
      (getJob s' j).stepNo = (getJob s j).stepNo ∧ ∀ u, tpRuns j (getTp s' u) = false) ∧ (getStm s' p).step = (getStm s p).step ∧
    (getStm s' p).pepoch = ((getStm s p).pepoch + 1) % 65536 ∧ (getStm s' p).pend = [] ∧ (getStm s' p).ends = [] ∧
    (getStm s' p).sqHead = (getStm s p).sqTail ∧
    (getStm s' p).built = none ∧ (∀ q, q ≠ p.val → getStm s' q = getStm s q) ∧
    (∀ b, (getStm s p).built = some b → ∀ r ∈ b.rows, r.stream ∈ s.streams.map (·.1) →
      (getStream s' r.stream).locked = false ∧ (getStream s' r.stream).replay = true) := by
  have given : Gives (.partitionReset p) s (resetPart p s) := gives_run _ _ (execPartitionReset.eq_1 p s) rfl
  have stms := resetPart_stm p s
  have idle := resetPart_idle (p := p) (s := s)
  have serving (j : Nat) := resetPart_serving (s := s) (p := p) (j := j)
  have released (b : Built) (r : Row) := resetPart_released (s := s) (p := p) (b := b) (r := r)
  generalize resetPart p s = u at *
  have stm (q : Nat) : getStm { collect u with pending := s.pending } q = getStm u q := by
    rw [getStm, getStm]
    exact congrArg (fun t => tget ({} : Stm) t q) (collect_stms u)
  have stream (i : Nat) : getStream { collect u with pending := s.pending } i = getStream u i := by
    rw [getStream, getStream]
    exact congrArg (fun t => tget ({} : Stream) t i) (collect_streams u)
  have own : getStm u p = resetStm (getStm s p) := (stms p).trans (if_pos rfl)
  refine ⟨_, given, fun none => ?_, fun j some => ?_, ?_, ?_, ?_, ?_, ?_, ?_, fun q other => ?_, fun b built r row listed => ?_⟩
  · obtain ⟨mem, tps, jobs⟩ := idle none
    exact ⟨(collect_mem u).trans mem, (collect_tps u).trans tps, (collect_jobs u).trans jobs⟩
  · obtain ⟨run, state, stepNo, tps⟩ := serving j some
    have job : getJob { collect u with pending := s.pending } j = getJob u j := getJob_answer _ u j
    rw [job]
    exact ⟨run, state, stepNo, fun k => (congrArg (tpRuns j) (getTp_answer _ u k)).trans (tps k)⟩
  · rw [stm, own]; rfl
  · rw [stm, own]; rfl
  · rw [stm, own]; rfl
  · rw [stm, own]; rfl
  · rw [stm, own]; rfl
  · rw [stm, own]; rfl
  · exact (stm q).trans ((stms q).trans (if_neg other))
  · rw [stream]
    exact released b r built row listed

theorem lockLeaseExpiry_answer {p : Fin 8} {i : BitVec 12} {b : Built} (built : (getStm s p).built = some b)
    (locked : (getStream s i.toNat).locked = true) (own : (getStream s i.toNat).part = p.val) :
    ∃ s', exec (.lockLeaseExpiry p i) s = .next s' ∧ (servingJob s p = none → s'.mem = s.mem) ∧
      b.lockNs + 1000000 * cfgVal s 0x0803 ≤ s'.clk.fleet ∧ (getStm s' p).pepoch = ((getStm s p).pepoch + 1) % 65536 ∧
      (getStm s' p).pend = [] ∧ (getStm s' p).built = none := by
  obtain ⟨c, up, reached, -, -, moved⟩ := advanceTo_clock (b.lockNs + 1000000 * cfgVal s 0x0803) s
  have came := moved s rfl rfl
  generalize hp : pl1 p ++ pl2 i.toNat ++ pl2 (getStream s i.toNat).lockEpoch = told at *
  have given : Gives (.lockLeaseExpiry p i) s (resetPart p (post 0x06 3 2 told { s with clk := c, upNs := up })) := by
    refine gives_run _ _ (execLockLeaseExpiry.eq_1 p i s) ?_
    rw [built]
    dsimp only
    rw [locked, own, beq_self_eq_true, Bool.and_self, if_pos rfl, came, hp]
  generalize hw : post 0x06 3 2 told { s with clk := c, upNs := up } = w at given
  have clk : w.clk = c := by rw [← hw]; rfl
  have mem : w.mem = s.mem := by rw [← hw]; rfl
  have stm : getStm w p = getStm s p := by rw [← hw]; rfl
  have serve : servingJob w p = servingJob s p := by rw [← hw]; rfl
  have stms := (resetPart_stm p w p).trans (if_pos rfl)
  rw [stm] at stms
  have time := (workOnly_resetPart p w).clk
  have idle := resetPart_idle (p := p) (s := w)
  generalize resetPart p w = u at *
  have row : getStm { collect u with pending := s.pending } p = getStm u p := by
    rw [getStm, getStm]
    exact congrArg (fun t => tget ({} : Stm) t p) (collect_stms u)
  refine ⟨_, given, fun none => ?_, ?_, ?_, ?_, ?_⟩
  · exact (collect_mem u).trans ((idle (serve.trans none)).1.trans mem)
  · have at' : ({ collect u with pending := s.pending } : State).clk = c := (collect_clk u).trans (time.trans clk)
    rw [at']
    exact reached
  · rw [row, stms]; rfl
  · rw [row, stms]; rfl
  · rw [row, stms]; rfl

end

/-- Settles O16, by a build, a start, a reset of a partition and an expired lock, each through its own answer. -/
theorem stepsAndPartitionResets : Obligations.StepsAndPartitionResets :=
  ⟨fun _ _ _ who own sound work clk fits => stepBuild_answer who own sound work clk fits,
   fun _ _ _ one own => stepStart_answer one own,
   fun _ _ => ⟨partitionReset_answer, fun _ _ built locked own => lockLeaseExpiry_answer built locked own⟩⟩

end Sys2Proof.Machine
end

section
/-! PROOFS. The commands of a job slot: INSTALL, REMOVE, START, PREEMPT and RESTART (R234 to R236, R239 to R252). -/

namespace Sys2Proof.Machine

section
variable {s : State}

/-- What an answer shows of jobs, memory, partitions and Culture. -/
theorem jobs_answer {i : Instr} {w : State} (given : Gives i s w) : ∃ s', exec i s = .next s' ∧ s'.mem = w.mem ∧ s'.parts = w.parts ∧
    s'.cul = w.cul ∧ ∀ k, getJob s' k = getJob w k :=
  ⟨_, given, collect_mem w, collect_parts w, collect_cul w, fun k => getJob_answer _ w k⟩

/-! ### A command's outcome (R235, R330) -/

/-- A job whose last command had a status. -/
def withStatus (n : Nat) (x : Job) : Job := { x with status := n }

theorem jobCommand_done {j cmd : Nat} {st : State → Nat} {act : State → State} (awake : s.pwr.state ≠ .holding) (ok : st s = 0) :
    jobCommand j cmd st act s = modJob j (withStatus 0) (act s) := by
  rw [jobCommand, if_neg (by simpa using awake), if_pos ok]
  rfl

theorem jobCommand_refused {j cmd : Nat} {st : State → Nat} {act : State → State} (awake : s.pwr.state ≠ .holding) (bad : st s ≠ 0) :
    jobCommand j cmd st act s = post 0x04 1 1 (pl1 j ++ pl1 cmd ++ pl1 (st s)) (modJob j (withStatus (st s)) s) := by
  rw [jobCommand, if_neg (by simpa using awake), if_neg bad, jobStatus, postIf, if_pos (by simpa using bad)]
  rfl

/-- What the command of an effect that reaches one job and no memory shows. -/
theorem ownJob_answer {i : Instr} {j n : Nat} {w : State} {x : Job} (given : Gives i s (modJob j (withStatus n) w)) (mem : w.mem = s.mem)
    (own : getJob w j = x) (others : ∀ k, k ≠ j → getJob w k = getJob s k) : ∃ s', exec i s = .next s' ∧ s'.mem = s.mem ∧ s'.parts = w.parts ∧
    s'.cul = w.cul ∧ getJob s' j = { x with status := n } ∧ ∀ k, k ≠ j → getJob s' k = getJob s k := by
  obtain ⟨s', answers, mem', parts, cul, jobs⟩ := jobs_answer given
  refine ⟨s', answers, mem'.trans mem, parts, cul, ?_, fun k other => ?_⟩
  · rw [jobs, getJob_modJob_self, own]
    rfl
  · rw [jobs, getJob_modJob_ne _ _ _ _ other, others k other]

/-- A refused command changes its job's status alone. -/
theorem refused_answer {i : Instr} {j n c : Nat} {p : List Byte} (given : Gives i s (post 0x04 c 1 p (modJob j (withStatus n) s))) :
    ∃ s', exec i s = .next s' ∧ s'.mem = s.mem ∧ s'.parts = s.parts ∧ getJob s' j = { getJob s j with status := n } ∧
    ∀ k, k ≠ j → getJob s' k = getJob s k := by
  obtain ⟨s', answers, mem, parts, -, jobs⟩ := jobs_answer given
  have job (k : Nat) : getJob (post 0x04 c 1 p (modJob j (withStatus n) s)) k = getJob (modJob j (withStatus n) s) k := rfl
  refine ⟨s', answers, mem, parts, ?_, fun k other => ?_⟩
  · rw [jobs, job, getJob_modJob_self]
    rfl
  · rw [jobs, job, getJob_modJob_ne _ _ _ _ other]

/-! ### INSTALL (R234, R236, R239) -/

/-- The slot's registers as written, of a job. -/
def jobRegs (x : Job) : Job := { ctl := x.ctl, mov := x.mov, save := x.save, arg := x.arg, thr := x.thr, ranges := x.ranges }

theorem install_answer {slot : Fin 64} (awake : s.pwr.state ≠ .holding) (ok : installStatus slot s = 0) : ∃ s', exec (.install slot) s = .next s' ∧
    s'.mem = s.mem ∧ s'.parts = s.parts ∧
    getJob s' slot = { jobRegs (getJob s slot) with state := 1, movement := some (movementOf (readImg s.mem (getJob s slot).mov)) } ∧
    ∀ k, k ≠ slot.val → getJob s' k = getJob s k := by
  have silent : rejectEvent slot s = s := if_neg (by simp [ok])
  have given : Gives (.install slot) s (modJob slot (withStatus 0) (installJob slot s)) := by
    refine gives_run _ _ (execInstall.eq_1 slot s) ?_
    rw [cmdInstall, silent, jobCommand_done awake ok]
  obtain ⟨s', answers, mem, parts, -, job, others⟩ := ownJob_answer given rfl (getJob_modJob_self ..) fun k => getJob_modJob_ne _ k _ s
  exact ⟨s', answers, mem, parts, job, others⟩

theorem installRefused_answer {slot : Fin 64} (awake : s.pwr.state ≠ .holding) (bad : installStatus slot s ≠ 0) :
    ∃ s', exec (.install slot) s = .next s' ∧ s'.mem = s.mem ∧ s'.parts = s.parts ∧
    getJob s' slot = { getJob s slot with status := installStatus slot s } ∧ ∀ k, k ≠ slot.val → getJob s' k = getJob s k := by
  obtain ⟨told, same⟩ : (∃ q, rejectEvent slot s = { s with ev.queue := q }) ∧ installStatus slot (rejectEvent slot s) = installStatus slot s := by
    unfold rejectEvent
    split
    · exact ⟨⟨_, rfl⟩, rfl⟩
    · exact ⟨⟨_, rfl⟩, rfl⟩
  generalize hw : rejectEvent slot s = w at *
  have pwr : w.pwr = s.pwr := by obtain ⟨q, rfl⟩ := told; rfl
  have kept : w.mem = s.mem ∧ w.parts = s.parts ∧ ∀ k, getJob w k = getJob s k := by obtain ⟨q, rfl⟩ := told; exact ⟨rfl, rfl, fun _ => rfl⟩
  obtain ⟨memW, partsW, jobW⟩ := kept
  have given : Gives (.install slot) s (post 0x04 1 1 (pl1 slot ++ pl1 1 ++ pl1 (installStatus slot s))
      (modJob slot (withStatus (installStatus slot s)) w)) := by
    refine gives_run _ _ (execInstall.eq_1 slot s) ?_
    rw [cmdInstall, hw, jobCommand_refused (by rw [pwr]; exact awake) (by rw [same]; exact bad), same]
  obtain ⟨s', answers, mem, parts, -, jobs⟩ := jobs_answer given
  have job (n k : Nat) (p : List Byte) : getJob (post 0x04 1 1 p (modJob slot (withStatus n) w)) k = getJob (modJob slot (withStatus n) w) k := rfl
  refine ⟨s', answers, mem.trans memW, parts.trans partsW, ?_, fun k other => ?_⟩
  · rw [jobs, job, getJob_modJob_self, jobW]
    rfl
  · rw [jobs, job, getJob_modJob_ne _ _ _ _ other, jobW]

/-! ### REMOVE (R235, R253) -/

/-- The state in which a REMOVE gives up the start swings of its partition. -/
def removedState (j : Nat) (s : State) : State :=
  let s1 := chargeStep j false (if (getJob s j).run.active then telBound (jobPart (getJob s j)) s else s)
  modJob j jobRegs { s1 with cul.prog := s1.cul.prog.filter fun x => x.2.slot != j }

theorem endSwings_eq (p : Nat) (s : State) : ∃ t, endSwings p s = { s with stms := t } := by
  unfold endSwings
  split
  · exact ⟨_, rfl⟩
  · exact ⟨_, rfl⟩

theorem cmdRemove_eq {j : Nat} (awake : s.pwr.state ≠ .holding) (ok : removeStatus j s = 0) :
    cmdRemove j s = modJob j (withStatus 0) (endSwings (jobPart (getJob s j)) (removedState j s)) := jobCommand_done awake ok

theorem removedState_rest (j : Nat) (s : State) : (removedState j s).mem = s.mem ∧ ((getJob s j).run.active = false → (removedState j s).parts = s.parts) ∧
    getJob (removedState j s) j = jobRegs (getJob s j) ∧ (∀ k, k ≠ j → getJob (removedState j s) k = getJob s k) ∧
    ∀ a q, (a, q) ∈ (removedState j s).cul.prog → q.slot ≠ j := by
  rw [removedState]
  generalize before : (if (getJob s j).run.active = true then telBound (jobPart (getJob s j)) s else s) = t
  have told : t.mem = s.mem ∧ ((getJob s j).run.active = false → t.parts = s.parts) ∧ t.jobs = s.jobs := by
    rw [← before]
    split
    · next on => exact ⟨rfl, fun off => absurd (on.symm.trans off) (by decide), rfl⟩
    · exact ⟨rfl, fun _ => rfl, rfl⟩
  obtain ⟨mem, parts, jobs⟩ := told
  obtain ⟨u, only, charged⟩ := chargeStep_eq j false t
  have job (k : Nat) : getJob u k = getJob s k := by rw [getJob, getJob, ← jobs, only]
  rw [charged]
  refine ⟨?_, fun off => ?_, ?_, fun k other => ?_, fun a q listed => ?_⟩
  · exact (congrArg State.mem only :).trans mem
  · exact (congrArg State.parts only :).trans (parts off)
  · rw [getJob_modJob_self]
    show jobRegs (getJob (modJob j settledJob u) j) = _
    rw [getJob_modJob_self, job]
    rfl
  · rw [getJob_modJob_ne _ _ _ _ other]
    show getJob (modJob j settledJob u) k = _
    rw [getJob_modJob_ne _ _ _ _ other, job]
  · have kept := (List.mem_filter.1 listed).2
    simpa using kept

theorem remove_answer {slot : Fin 64} (awake : s.pwr.state ≠ .holding) (held : (getJob s slot).state = 1 ∨ (getJob s slot).state = 4) :
    ∃ s', exec (.remove slot) s = .next s' ∧ s'.mem = s.mem ∧ ((getJob s slot).run.active = false → s'.parts = s.parts) ∧
    getJob s' slot = jobRegs (getJob s slot) ∧ (∀ k, k ≠ slot.val → getJob s' k = getJob s k) ∧ ∀ a q, (a, q) ∈ s'.cul.prog → q.slot ≠ slot.val := by
  have ok : removeStatus slot s = 0 := by
    rcases held with at' | at' <;> simp [removeStatus, at']
  obtain ⟨st, ended⟩ := endSwings_eq (jobPart (getJob s slot)) (removedState slot s)
  obtain ⟨mem, parts, own, others, prog⟩ := removedState_rest slot s
  have given : Gives (.remove slot) s (modJob slot (withStatus 0) { removedState slot s with stms := st }) := by
    refine gives_run _ _ (execRemove.eq_1 slot s) ?_
    rw [cmdRemove_eq awake ok, ended]
  generalize removedState slot s = w at *
  obtain ⟨s', answers, mem', parts', cul, job, rest⟩ := ownJob_answer given mem own others
  exact ⟨s', answers, mem', fun off => parts'.trans (parts off), job, rest, by rw [cul]; exact prog⟩

theorem removeRefused_answer {slot : Fin 64} (awake : s.pwr.state ≠ .holding) (h1 : (getJob s slot).state ≠ 1) (h4 : (getJob s slot).state ≠ 4) :
    ∃ s', exec (.remove slot) s = .next s' ∧ s'.mem = s.mem ∧ s'.parts = s.parts ∧
    getJob s' slot = { getJob s slot with status := 1 } ∧ ∀ k, k ≠ slot.val → getJob s' k = getJob s k := by
  have bad : removeStatus slot s = 1 := by simp [removeStatus, h1, h4]
  refine refused_answer (c := 1) (p := pl1 slot ++ pl1 4 ++ pl1 1) (gives_run _ _ (execRemove.eq_1 slot s) ?_)
  rw [cmdRemove, jobCommand_refused awake (by rw [bad]; decide), bad]

/-! ### START, PREEMPT and RESTART (R235, R241, R247, R249, R252) -/

/-- Where its partition runs another job, a Ready job only waits (R241). -/
theorem offerJob_waits {j : Nat} (mode : partitioned s = true) (runs : (getPart s (jobPart (getJob s j))).running.isSome = true) :
    offerJob j s = s := by
  rw [offerJob, if_pos mode, startNext, if_pos (by rw [runs]; rfl)]

/-- A job made Ready (R241). -/
theorem makeReady_job (j : Nat) (raise : Bool) (s : State) : ∃ vt, makeReady j raise s = modJob j (fun x => { x with
    state := 2, vt := if raise then max x.vt vt else x.vt, readyAt := s.clk.fleet, startSw := none, blocked := false
    preempt := false, preStep := none }) s := ⟨_, rfl⟩

theorem makeReady_waits {j : Nat} {raise : Bool} (mode : partitioned s = true) (runs : (getPart s (jobPart (getJob s j))).running.isSome = true) :
    offerJob j (makeReady j raise s) = makeReady j raise s := by
  obtain ⟨vt, ready⟩ := makeReady_job j raise s
  rw [ready]
  refine offerJob_waits mode ?_
  rw [getJob_modJob_self]
  exact runs

theorem start_answer {slot : Fin 64} (awake : s.pwr.state ≠ .holding) (mode : partitioned s = true)
    (runs : (getPart s (jobPart (getJob s slot))).running.isSome = true) (installed : (getJob s slot).state = 1) (plain : jobRing (getJob s slot) = false) :
    ∃ s', exec (.start slot) s = .next s' ∧ s'.mem = s.mem ∧ (getJob s' slot).state = 2 ∧ (getJob s' slot).status = 0 ∧
    (getJob s slot).vt ≤ (getJob s' slot).vt ∧ (getJob s' slot).readyAt = s.clk.fleet ∧ s'.parts = s.parts ∧
    ∀ k, k ≠ slot.val → getJob s' k = getJob s k := by
  have ok : startStatus slot s = 0 := by simp [startStatus, installed, plain]
  have given : Gives (.start slot) s (modJob slot (withStatus 0) (makeReady slot true s)) := by
    refine gives_run _ _ (execStart.eq_1 slot s) ?_
    rw [cmdStart, jobCommand_done awake ok]
    dsimp only
    rw [plain, if_neg Bool.false_ne_true, makeReady_waits mode runs]
  obtain ⟨vt, ready⟩ := makeReady_job slot true s
  rw [ready] at given
  obtain ⟨s', answers, mem, parts, -, job, others⟩ := ownJob_answer given rfl (getJob_modJob_self ..) fun k => getJob_modJob_ne _ k _ s
  refine ⟨s', answers, mem, ?_, ?_, ?_, ?_, parts, others⟩
  · rw [job]
  · rw [job]
  · rw [job]; exact le_max_left ..
  · rw [job]

theorem startRing_answer {slot : Fin 64} (awake : s.pwr.state ≠ .holding) (installed : (getJob s slot).state = 1) (ring : jobRing (getJob s slot) = true)
    (swing : (getJob s slot).arg % 16000 = 0) (later : s.clk.fleet + 32000 ≤ (getJob s slot).arg) :
    ∃ s', exec (.start slot) s = .next s' ∧ getJob s' slot = { getJob s slot with status := 0, startSw := some (getJob s slot).arg } ∧
    ∀ k, k ≠ slot.val → getJob s' k = getJob s k := by
  have ok : startStatus slot s = 0 := by simp [startStatus, installed, ring, swingStatus, swing, later]
  have given : Gives (.start slot) s (modJob slot (withStatus 0) (modJob slot (fun x => { x with startSw := some x.arg }) s)) := by
    refine gives_run _ _ (execStart.eq_1 slot s) ?_
    rw [cmdStart, jobCommand_done awake ok]
    dsimp only
    rw [ring, if_pos rfl]
  obtain ⟨s', answers, -, -, -, job, others⟩ := ownJob_answer given rfl (getJob_modJob_self ..) fun k => getJob_modJob_ne _ k _ s
  exact ⟨s', answers, job, others⟩

/-- What a PREEMPT makes of its job (R235, R252). -/
def preempted (s : State) (j : Nat) (x : Job) : Job :=
  if x.state = 2 && !restoring s j then
    { x with state := 1, asking := false, granted := false, startSw := none, waitNs := x.waitNs + (s.clk.fleet - x.readyAt) }
  else { x with preempt := true, preStep := if jobRing x then some (bits x.arg 0 32) else none }

theorem preempt_answer {slot : Fin 64} (awake : s.pwr.state ≠ .holding) (ok : preemptStatus slot s = 0) : ∃ s', exec (.preempt slot) s = .next s' ∧
    s'.parts = s.parts ∧ getJob s' slot = { preempted s slot (getJob s slot) with status := 0 } := by
  have given : Gives (.preempt slot) s (modJob slot (withStatus 0) (modJob slot (preempted s slot) s)) :=
    gives_run _ _ (execPreempt.eq_1 slot s) (jobCommand_done awake ok)
  obtain ⟨s', answers, -, parts, -, job, -⟩ := ownJob_answer given rfl (getJob_modJob_self ..) fun k => getJob_modJob_ne _ k _ s
  exact ⟨s', answers, parts, job⟩

theorem preemptReady_answer {slot : Fin 64} (awake : s.pwr.state ≠ .holding) (ready : (getJob s slot).state = 2) (idle : restoring s slot = false)
    (ok : preemptStatus slot s = 0) : ∃ s', exec (.preempt slot) s = .next s' ∧ s'.parts = s.parts ∧
    getJob s' slot = { getJob s slot with state := 1, status := 0, asking := false, granted := false, startSw := none
                                          waitNs := (getJob s slot).waitNs + (s.clk.fleet - (getJob s slot).readyAt) } := by
  obtain ⟨s', answers, parts, job⟩ := preempt_answer awake ok
  refine ⟨s', answers, parts, ?_⟩
  rw [job, preempted, if_pos (by simp [ready, idle])]

theorem preemptRunning_answer {slot : Fin 64} (awake : s.pwr.state ≠ .holding)
    (runs : (getJob s slot).state = 3 ∨ (getJob s slot).state = 2 ∧ restoring s slot = true) (plain : jobRing (getJob s slot) = false) :
    ∃ s', exec (.preempt slot) s = .next s' ∧ s'.parts = s.parts ∧
    getJob s' slot = { getJob s slot with status := 0, preempt := true, preStep := none } := by
  have ok : preemptStatus slot s = 0 := by
    rcases runs with at' | ⟨at', -⟩ <;> simp [preemptStatus, at', plain]
  obtain ⟨s', answers, parts, job⟩ := preempt_answer awake ok
  refine ⟨s', answers, parts, ?_⟩
  have marked : ¬((decide ((getJob s slot).state = 2) && !restoring s slot) = true) := by
    rcases runs with at' | ⟨-, on⟩
    · simp [at']
    · simp [on]
  rw [job, preempted, if_neg marked, plain, if_neg Bool.false_ne_true]

theorem restart_answer {slot : Fin 64} (awake : s.pwr.state ≠ .holding) (mode : partitioned s = true)
    (runs : (getPart s (jobPart (getJob s slot))).running.isSome = true) (faulted : (getJob s slot).state = 4) (plain : jobRing (getJob s slot) = false)
    (own : jobServing (getJob s slot) = false) : ∃ s', exec (.restart slot) s = .next s' ∧ s'.mem = s.mem ∧
    (getJob s' slot).state = 2 ∧ (getJob s' slot).status = 0 ∧ (getJob s' slot).run = {} ∧ (getJob s' slot).vt = (getJob s slot).vt ∧
    (getJob s' slot).stepNo = (getJob s slot).stepNo ∧ ∀ k, k ≠ slot.val → getJob s' k = getJob s k := by
  have ok : restartStatus slot s = 0 := by simp [restartStatus, faulted, plain]
  generalize anew : modJob slot (fun y => { y with saved := none, run := {} }) s = w
  have job : getJob w slot = { getJob s slot with saved := none, run := {} } := by rw [← anew]; exact getJob_modJob_self ..
  have given : Gives (.restart slot) s (modJob slot (withStatus 0) (makeReady slot false w)) := by
    refine gives_run _ _ (execRestart.eq_1 slot s) ?_
    rw [cmdRestart, jobCommand_done awake ok]
    dsimp only
    rw [own, if_neg Bool.false_ne_true, mode, if_pos rfl, plain, if_neg Bool.false_ne_true, anew]
    refine congrArg _ (makeReady_waits (by rw [← anew]; exact mode) ?_)
    rw [job, ← anew]
    exact runs
  have mem : w.mem = s.mem := by rw [← anew]; rfl
  have others (k : Nat) (other : k ≠ slot.val) : getJob w k = getJob s k := by rw [← anew]; exact getJob_modJob_ne _ k _ s other
  obtain ⟨vt, ready⟩ := makeReady_job slot false w
  rw [ready] at given
  obtain ⟨s', answers, mem', -, -, job', rest⟩ := ownJob_answer given (Eq.trans (by rfl) mem) (getJob_modJob_self ..)
    fun k other => (getJob_modJob_ne _ k _ w other).trans (others k other)
  rw [job] at job'
  refine ⟨s', answers, mem', ?_, ?_, ?_, ?_, ?_, rest⟩
  · rw [job']
  · rw [job']
  · rw [job']
  · rw [job']; rfl
  · rw [job']

end

/-- Settles O17, command by command: what `jobCommand_done` gives where the checks pass, and `jobCommand_refused` where one fails. -/
theorem jobCommands : Obligations.JobCommands := by
  refine ⟨fun slot s awake => ⟨fun ok => ?_, fun bad => ?_, fun held => ?_, fun h1 h4 => ?_⟩, fun slot s awake mode runs => ⟨?_, ?_, ?_, ?_, ?_⟩⟩
  · obtain ⟨s', answers, mem, parts, job, others⟩ := install_answer awake ok
    exact ⟨s', answers, ⟨others, mem, fun _ => parts⟩, job⟩
  · obtain ⟨s', answers, mem, parts, job, others⟩ := installRefused_answer awake bad
    exact ⟨s', answers, ⟨others, mem, fun _ => parts⟩, job⟩
  · obtain ⟨s', answers, mem, parts, job, others, prog⟩ := remove_answer awake held
    exact ⟨s', answers, ⟨others, mem, parts⟩, job, prog⟩
  · obtain ⟨s', answers, mem, parts, job, others⟩ := removeRefused_answer awake h1 h4
    exact ⟨s', answers, ⟨others, mem, fun _ => parts⟩, job⟩
  · exact start_answer awake mode runs
  · exact startRing_answer awake
  · exact preemptReady_answer awake
  · exact preemptRunning_answer awake
  · exact restart_answer awake mode runs

end Sys2Proof.Machine
end

section
/-! PROOFS. The StartSwing of a ring job, and the stages of a switch: what a save and a restore move (R221, R235, R245, R249). -/

namespace Sys2Proof.Machine

section
variable {s : State}

/-! ### StartSwing (R221, R235) -/

/-- The only candidate is chosen. -/
theorem chooseJob_only {p j : Nat} (mem : j ∈ candidates s p) (only : ∀ k ∈ candidates s p, k = j) : chooseJob s p = some j := by
  rw [chooseJob]
  cases found : sortBy (vtLess s) (candidates s p) with
  | nil =>
    have held := (mem_sortBy (vtLess s) j _).2 mem
    rw [found] at held
    exact absurd held List.not_mem_nil
  | cons k ks =>
    have listed := (mem_sortBy (vtLess s) k _).1 (by rw [found]; exact List.mem_cons_self)
    rw [only k listed]
    rfl

theorem mem_tput {α : Type} (t : Table α) (k : Nat) (v : α) : (k, v) ∈ tput t k v := by
  rw [tput]
  induction tdel t k with
  | nil => exact List.mem_cons_self
  | cons e t ih =>
    rw [tins]
    split
    · exact List.mem_cons_self
    · exact List.mem_cons_of_mem _ ih

/-- A job that an act leaves in its slot is resident. -/
theorem resident_modJob {j : Nat} {f : Job → Job} (held : (f (getJob s j)).state ≠ 0) : j ∈ residents (modJob j f s) := by
  have listed : (j, f (getJob s j)) ∈ (modJob j f s).jobs := mem_tput ..
  exact List.mem_map.2 ⟨_, List.mem_filter.2 ⟨listed, by simpa using held⟩, rfl⟩

/-- A job whose partition's hold has ended (R251). -/
def freedJob (p : Nat) (x : Job) : Job := if jobPart x == p then { x with blocked := false } else x

theorem getJob_freeRing (p k : Nat) (s : State) : getJob (freeRing p s) k = freedJob p (getJob s k) :=
  tget_map ({} : Job) (freedJob p) (by unfold freedJob; split <;> rfl) s.jobs k

theorem freedJob_eq (p : Nat) (x : Job) : ∃ b, freedJob p x = { x with blocked := b } := by
  unfold freedJob
  split
  · exact ⟨_, rfl⟩
  · exact ⟨_, rfl⟩

/-- A ring job that is Ready at its StartSwing. -/
def swungReady (j p : Nat) (raise : Bool) (c : Clock) (up : Nat) (s : State) : State := makeReady j raise (freeRing p { s with clk := c, upNs := up })

theorem swungReady_rest (j p : Nat) (raise : Bool) (c : Clock) (up : Nat) (s : State) :
    (∃ vt, getJob (swungReady j p raise c up s) j =
      { getJob s j with state := 2, vt := vt, readyAt := c.fleet, startSw := none, blocked := false, preempt := false, preStep := none }) ∧
    (∀ k, k ≠ j → (getJob (swungReady j p raise c up s) k).state = (getJob s k).state ∧
      jobPart (getJob (swungReady j p raise c up s) k) = jobPart (getJob s k)) ∧
    j ∈ residents (swungReady j p raise c up s) ∧ (swungReady j p raise c up s).mem = s.mem ∧ (swungReady j p raise c up s).clk = c ∧
    (swungReady j p raise c up s).parts = s.parts ∧ (swungReady j p raise c up s).flt = s.flt := by
  obtain ⟨vt, ready⟩ := makeReady_job j raise (freeRing p { s with clk := c, upNs := up })
  rw [swungReady, ready]
  have freed (k : Nat) : getJob (freeRing p { s with clk := c, upNs := up }) k = freedJob p (getJob s k) := getJob_freeRing ..
  refine ⟨⟨if raise then max (getJob s j).vt vt else (getJob s j).vt, ?_⟩, fun k other => ?_, resident_modJob (by simp), rfl, rfl, rfl, rfl⟩
  · obtain ⟨b, same⟩ := freedJob_eq p (getJob s j)
    rw [getJob_modJob_self, freed, same]
    rfl
  · obtain ⟨b, same⟩ := freedJob_eq p (getJob s k)
    rw [getJob_modJob_ne _ _ _ _ other, freed, same]
    exact ⟨rfl, rfl⟩

theorem ringHeld_flt (h : ringHeld s = false) : s.flt.chipClass = false ∧ s.flt.selfFence = false := by
  simp only [ringHeld, Bool.or_eq_false_iff] at h
  exact ⟨h.1.1.2, h.1.1.1⟩

/-- At a StartSwing, where the partition is free, its start swing is set (R221). -/
def swungStart (p t : Nat) (w : State) : State :=
  startNext p none (if (getPart w p).running.isNone && (getPart w p).sw.isNone then modStm p (fun y => { y with nextSw := t }) w else w)

theorem gives_jobReady {slot : Fin 64} {t up : Nat} {c : Clock} (swing : (getJob s slot).startSw = some t) (installed : (getJob s slot).state = 1)
    (free : ringHeld s = false) (moved : advanceTo t s = { s with clk := c, upNs := up }) :
    Gives (.jobReady slot) s (swungStart (jobPart (getJob s slot)) t (swungReady slot (jobPart (getJob s slot)) true c up s)) := by
  refine gives_run _ _ (execJobReady.eq_1 slot s) ?_
  dsimp only
  rw [swing]
  dsimp only
  rw [installed, free, moved]
  rfl

theorem jobReadyWaits_answer {slot : Fin 64} {t : Nat} (swing : (getJob s slot).startSw = some t) (installed : (getJob s slot).state = 1)
    (free : ringHeld s = false) (runs : (getPart s (jobPart (getJob s slot))).running.isSome = true) :
    ∃ s', exec (.jobReady slot) s = .next s' ∧ s'.mem = s.mem ∧ t ≤ s'.clk.fleet ∧
      (getJob s' slot).state = 2 ∧ (getJob s' slot).startSw = none ∧ s'.parts = s.parts := by
  obtain ⟨c, up, reached, -, -, moved⟩ := advanceTo_clock t s
  have given := gives_jobReady swing installed free (moved s rfl rfl)
  obtain ⟨⟨vt, job⟩, -, -, mem, clk, parts, -⟩ := swungReady_rest slot (jobPart (getJob s slot)) true c up s
  generalize swungReady slot (jobPart (getJob s slot)) true c up s = w at *
  generalize jobPart (getJob s slot) = p at *
  have same : getPart w p = getPart s p := by rw [getPart, getPart, parts]
  have waits : swungStart p t w = w := by
    have busy : (getPart w p).running.isNone = false := by rw [same, ← Option.not_isSome, runs]; rfl
    rw [swungStart, busy, Bool.false_and, if_neg Bool.false_ne_true, startNext, if_pos (by rw [same, runs]; rfl)]
  rw [waits] at given
  refine ⟨_, given, (collect_mem w).trans mem, ?_, ?_, ?_, (collect_parts w).trans parts⟩
  · have time : ({ collect w with pending := s.pending } : State).clk = c := (collect_clk w).trans clk
    rw [time]
    exact reached
  · rw [getJob_answer, job]
  · rw [getJob_answer, job]

/-- A run begun in a partition (R245). -/
theorem beginRun_own (p j : Nat) (s : State) : (getJob (beginRun p j s) j).state = 3 ∧ (getPart (beginRun p j s) p).running = some j ∧
    (getPart (beginRun p j s) p).sw = none := by
  have job : getJob (beginRun p j s) j = getJob (makeRunning j s) j := rfl
  rw [job, makeRunning, getJob_modJob_self, beginRun, getPart_modPart_self]
  exact ⟨rfl, rfl, rfl⟩

theorem jobReadyBegins_answer {slot : Fin 64} {t : Nat} (swing : (getJob s slot).startSw = some t) (installed : (getJob s slot).state = 1)
    (free : ringHeld s = false) (idle : (getPart s (jobPart (getJob s slot))).running = none) (still : (getPart s (jobPart (getJob s slot))).sw = none)
    (ring : jobRing (getJob s slot) = true) (fresh : (getJob s slot).saved = none) (later : t ≠ 0)
    (alone : ∀ k, k ≠ slot.val → jobPart (getJob s k) = jobPart (getJob s slot) → (getJob s k).state ≠ 2 ∧ (getJob s k).state ≠ 3) :
    ∃ s', exec (.jobReady slot) s = .next s' ∧ t ≤ s'.clk.fleet ∧ (getJob s' slot).state = 3 ∧
      (getPart s' (jobPart (getJob s slot))).running = some slot.val ∧ (getStm s' (jobPart (getJob s slot))).nextSw = t := by
  obtain ⟨c, up, reached, -, -, moved⟩ := advanceTo_clock t s
  have given := gives_jobReady swing installed free (moved s rfl rfl)
  obtain ⟨chip, self⟩ := ringHeld_flt free
  obtain ⟨⟨vt, job⟩, others, resident, -, clk, parts, flt⟩ := swungReady_rest slot (jobPart (getJob s slot)) true c up s
  generalize swungReady slot (jobPart (getJob s slot)) true c up s = w at *
  generalize hp : jobPart (getJob s slot) = p at *
  have ownPart : jobPart (getJob w slot) = p := by rw [job]; exact hp
  have ownRing : jobRing (getJob w slot) = true := by rw [job]; exact ring
  have saved : (getJob w slot).saved = none := by rw [job]; exact fresh
  have ready : (getJob w slot).state = 2 ∧ (getJob w slot).blocked = false := by rw [job]; exact ⟨rfl, rfl⟩
  have same : getPart w p = getPart s p := by rw [getPart, getPart, parts]
  rw [← same] at idle still
  rw [← flt] at chip self
  generalize hw : modStm p (fun y => { y with nextSw := t }) w = v
  have chosen : chooseJob v p = some slot.val := by
    rw [← hw]
    refine chooseJob_only (List.mem_filter.2 ⟨List.mem_filter.2 ⟨resident, ?_⟩, ?_⟩) fun k listed => ?_
    · exact beq_iff_eq.2 ownPart
    · show ((getJob w slot).state == 2 && !(getJob w slot).blocked && !(jobRing (getJob w slot) && w.flt.selfFence) || (getJob w slot).state == 3) = true
      rw [ready.1, ready.2, self, Bool.and_false]
      rfl
    · obtain ⟨inPart, runnable⟩ := List.mem_filter.1 listed
      have partK : jobPart (getJob w k) = p := beq_iff_eq.1 (List.mem_filter.1 inPart).2
      have stateK : (getJob w k).state = 2 ∨ (getJob w k).state = 3 := by
        simp only [Bool.or_eq_true, Bool.and_eq_true, beq_iff_eq] at runnable
        exact runnable.imp_left fun h => h.1.1
      by_contra other
      obtain ⟨state, part⟩ := others k other
      rw [state] at stateK
      rw [part] at partK
      obtain ⟨not2, not3⟩ := alone k other partK
      exact stateK.elim not2 not3
  have nextSw : (getStm v p).nextSw = t := by rw [← hw, getStm_modStm_self]
  have kept : getJob v slot = getJob w slot ∧ getPart v p = getPart w p ∧ v.flt = w.flt ∧ v.clk = w.clk := by rw [← hw]; exact ⟨rfl, rfl, rfl, rfl⟩
  obtain ⟨jobV, partV, fltV, clkV⟩ := kept
  rw [← jobV] at saved ownRing
  rw [← partV] at idle still
  generalize hz : zeroTps (getPart v p).mask v = z
  have begun : swungStart p t w = switchEvent p none (some slot.val) 0 0 (beginRun p slot.val z) := by
    rw [swungStart, ← partV, idle, still]
    show startNext p none (modStm p (fun y => { y with nextSw := t }) w) = _
    rw [hw, startNext, if_neg (by rw [idle, still, fltV, chip]; decide), chosen]
    dsimp only
    rw [nextSw, if_neg (by simp [later]), bringIn, saved]
    dsimp only
    rw [hz]
  have zKept : z.clk = v.clk ∧ getStm z p = getStm v p := by rw [← hz]; exact ⟨rfl, rfl⟩
  rw [begun] at given
  obtain ⟨runs, running, -⟩ := beginRun_own p slot.val z
  have rest : (beginRun p slot.val z).clk = z.clk ∧ getStm (beginRun p slot.val z) p = getStm z p := ⟨rfl, rfl⟩
  generalize beginRun p slot.val z = b at *
  obtain ⟨q, told⟩ : ∃ q, switchEvent p none (some slot.val) 0 0 b = { b with ev.queue := q } := ⟨_, rfl⟩
  rw [told] at given
  have time := collect_clk { b with ev.queue := q }
  have stms := collect_stms { b with ev.queue := q }
  have parts' := collect_parts { b with ev.queue := q }
  have jobs := getJob_answer s.pending { b with ev.queue := q } slot.val
  refine ⟨_, given, ?_, ?_, ?_, ?_⟩
  · refine le_of_le_of_eq reached (congrArg Clock.fleet ?_)
    exact (time.trans (rest.1.trans (zKept.1.trans (clkV.trans clk)))).symm
  · rw [jobs]
    exact runs
  · rw [getPart]
    exact (congrArg (fun ps => (tget ({} : Part) ps p).running) parts').trans running
  · rw [getStm]
    refine (congrArg (fun ss => (tget ({} : Stm) ss p).nextSw) stms).trans ?_
    have row : getStm b p = getStm v p := rest.2.trans zKept.2
    exact (congrArg Stm.nextSw row).trans nextSw

/-! ### Switches (R245, R249) -/

theorem ringSwitch_answer {p : Fin 8} {w : Switch} (sw : (getPart s p).sw = some w) (stage : w.stage = 0) :
    ∃ s', exec (.ringSwitch p) s = .next s' ∧ (getPart s' p).sw = some { w with stage := 1 } ∧ s'.mem = s.mem ∧
      s'.jobs = s.jobs ∧ ∀ d, w.due = some d → d ≤ s'.clk.fleet := by
  obtain ⟨c, up, moved, reached⟩ : ∃ (c : Clock) (up : Nat), advanceOpt w.due s = { s with clk := c, upNs := up } ∧ ∀ d, w.due = some d → d ≤ c.fleet := by
    cases w.due with
    | none => exact ⟨s.clk, s.upNs, rfl, fun d h => by cases h⟩
    | some t =>
      obtain ⟨c, up, reached, -, -, moved⟩ := advanceTo_clock t s
      exact ⟨c, up, moved s rfl rfl, fun d h => by cases h; exact reached⟩
  have given : Gives (.ringSwitch p) s (modPart p (fun x => { x with sw := some { w with stage := 1 } }) { s with clk := c, upNs := up }) := by
    refine gives_run _ _ (execRingSwitch.eq_1 p s) ?_
    rw [sw]
    dsimp only
    rw [if_pos stage, moved]
  generalize hu : modPart p (fun x => { x with sw := some { w with stage := 1 } }) { s with clk := c, upNs := up } = u at given
  have part : (getPart u p).sw = some { w with stage := 1 } := by rw [← hu, getPart_modPart_self]
  have kept : u.mem = s.mem ∧ u.jobs = s.jobs ∧ u.clk = c := by rw [← hu]; exact ⟨rfl, rfl, rfl⟩
  obtain ⟨mem, jobs, clk⟩ := kept
  refine ⟨_, given, ?_, (collect_mem u).trans mem, (collect_jobs u).trans jobs, fun d due => ?_⟩
  · rw [← part]
    exact congrArg (fun ps => (tget ({} : Part) ps p).sw) (collect_parts u)
  · have time : ({ collect u with pending := s.pending } : State).clk = c := (collect_clk u).trans clk
    rw [time]
    exact reached d due

theorem rangeBytes_length (mem : Table Byte) (rs : List (Nat × Nat)) : (rangeBytes mem rs).length = 64 * rangeLines rs := by
  induction rs with
  | nil => rfl
  | cons r rs ih =>
    have lines : rangeLines (r :: rs) = r.2 + rangeLines rs := rfl
    have bytes : rangeBytes mem (r :: rs) = memRead mem r.1 (64 * r.2) ++ rangeBytes mem rs := rfl
    rw [bytes, lines, List.length_append, ih, memRead_length]
    ring

theorem countSwitch_rest (j lines : Nat) (s : State) : (countSwitch j lines s).mem = s.mem ∧ (countSwitch j lines s).parts = s.parts ∧
    (getJob (countSwitch j lines s) j).preempt = (getJob s j).preempt ∧ ∀ k, k ≠ j → getJob (countSwitch j lines s) k = getJob s k := by
  obtain ⟨c, up, -, -, -, moved⟩ := advanceTo_clock (s.clk.fleet + nsOfCore s (switchCost s j lines)) s
  have came : passNs (nsOfCore s (switchCost s j lines)) s = { s with clk := c, upNs := up } := moved s rfl rfl
  rw [countSwitch, came]
  refine ⟨rfl, rfl, ?_, fun k other => getJob_modJob_ne _ k _ _ other⟩
  rw [getJob_modJob_self]
  rfl

theorem saveDone_eq {p j : Nat} {w : Switch} {rs : List (Nat × Nat)} (last : w.inSlot = none) (saved : (getJob s j).saved = some rs)
    (lines : rangeLines rs ≠ 0) (sound : switchCause s j rs (rs.map fun r => (r.1, 64 * r.2)) = 0) : saveDone p w j s =
    switchEvent p (some j) none (rangeLines rs) 0 (modPart p (fun x => { x with running := none, sw := none }) (modPart p (fun x => { x with running := none })
      (jobLeaves j (storeMem (getJob s j).save (rangeBytes s.mem rs) (countSwitch j (rangeLines rs) s))))) := by
  have listed : ((getJob s j).saved).getD [] = rs := by rw [saved]; rfl
  unfold saveDone
  rw [listed]
  dsimp only
  rw [last, sound, if_neg lines, if_neg (by decide)]
  rfl

theorem saveComplete_answer {p : Fin 8} {w : Switch} {j : Nat} {rs : List (Nat × Nat)} (sw : (getPart s p).sw = some w) (stage : w.stage = 1)
    (out : w.outSlot = some j) (last : w.inSlot = none) (idle : jobBusy s j = false) (runs : coreRuns s = true) (saved : (getJob s j).saved = some rs)
    (lines : rangeLines rs ≠ 0) (sound : switchCause s j rs (rs.map fun r => (r.1, 64 * r.2)) = 0) :
    ∃ s', exec (.saveComplete p) s = .next s' ∧ memRead s'.mem (getJob s j).save (64 * rangeLines rs) = rangeBytes s.mem rs ∧
      MemoryBut s s' (getJob s j).save (64 * rangeLines rs) ∧ (getPart s' p).running = none ∧ (getPart s' p).sw = none ∧
      (getJob s' j).state = (if (getJob s j).preempt then 1 else 2) ∧ ∀ k, k ≠ j → getJob s' k = getJob s k := by
  obtain ⟨mem, -, preempt, others⟩ := countSwitch_rest j (rangeLines rs) s
  have made := saveDone_eq (p := p) last saved lines sound
  rw [← rangeBytes_length s.mem rs]
  generalize (getJob s j).save = a at *
  generalize rangeBytes s.mem rs = bs at *
  generalize countSwitch j (rangeLines rs) s = t at *
  generalize hv : modPart p (fun x => { x with running := none, sw := none }) (modPart p (fun x => { x with running := none }) (jobLeaves j (storeMem a bs t))) = v at made
  have given : Gives (.saveComplete p) s (switchEvent p (some j) none (rangeLines rs) 0 v) := by
    refine gives_run _ _ (execSaveComplete.eq_1 p s) ?_
    rw [sw]
    dsimp only
    rw [out]
    dsimp only
    rw [stage, idle, runs]
    exact made
  have part : (getPart v p).running = none ∧ (getPart v p).sw = none := by rw [← hv, getPart_modPart_self]; exact ⟨rfl, rfl⟩
  have memV : v.mem = memWrite t.mem a bs := by rw [← hv]; rfl
  have jobV (k : Nat) : getJob v k = getJob (jobLeaves j (storeMem a bs t)) k := by rw [← hv]; rfl
  have stored (k : Nat) : getJob (storeMem a bs t) k = getJob t k := rfl
  obtain ⟨q, told⟩ : ∃ q, switchEvent p (some j) none (rangeLines rs) 0 v = { v with ev.queue := q } := ⟨_, rfl⟩
  rw [told] at given
  obtain ⟨s', answers, mem', parts', -, jobs⟩ := jobs_answer given
  have memS : s'.mem = memWrite s.mem a bs := mem'.trans (memV.trans (by rw [mem]))
  have partS : getPart s' p = getPart v p := by rw [getPart, parts']; rfl
  have jobS (k : Nat) : getJob s' k = getJob (jobLeaves j (storeMem a bs t)) k := (jobs k).trans (jobV k)
  refine ⟨s', answers, ?_, fun x outside => ?_, ?_, ?_, ?_, fun k other => ?_⟩
  · rw [memS]
    exact memRead_memWrite ..
  · rw [memS]
    exact memGet_memWrite_outside _ _ _ _ outside
  · rw [partS]; exact part.1
  · rw [partS]; exact part.2
  · rw [jobS, jobLeaves, getJob_modJob_self, stored]
    show (if (getJob t j).preempt = true then 1 else 2) = _
    rw [preempt]
  · rw [jobS, jobLeaves, getJob_modJob_ne _ _ _ _ other, stored, others k other]

theorem restoreDone_eq {p j : Nat} {w : Switch} {r : Nat × Nat} (saved : (getJob s j).saved = some [r])
    (sound : switchCause s j [r] [((getJob s j).save, 64 * r.2)] = 0) : restoreDone p w j s =
    switchEvent p w.outSlot (some j) w.lines r.2 (beginRun p j (storeMem r.1 (memRead s.mem (getJob s j).save (64 * r.2))
      (zeroTps (getPart s p).mask (countSwitch j r.2 s)))) := by
  have listed : ((getJob s j).saved).getD [] = [r] := by rw [saved]; rfl
  have lines : rangeLines [r] = r.2 := rfl
  unfold restoreDone
  dsimp only
  have all : (memRead s.mem (getJob s j).save (64 * r.2)).take (64 * r.2) = memRead s.mem (getJob s j).save (64 * r.2) :=
    List.take_of_length_le (by rw [memRead_length])
  rw [listed, lines, sound, if_neg (by decide), spread, spread, all]

theorem restoreComplete_answer {p : Fin 8} {w : Switch} {j : Nat} {r : Nat × Nat} (sw : (getPart s p).sw = some w) (stage : w.stage = 2)
    (inc : w.inSlot = some j) (runs : coreRuns s = true) (chip : s.flt.chipClass = false) (saved : (getJob s j).saved = some [r])
    (sound : switchCause s j [r] [((getJob s j).save, 64 * r.2)] = 0) :
    ∃ s', exec (.restoreComplete p) s = .next s' ∧ memRead s'.mem r.1 (64 * r.2) = memRead s.mem (getJob s j).save (64 * r.2) ∧
      (getPart s' p).running = some j ∧ (getPart s' p).sw = none ∧ (getJob s' j).state = 3 ∧ ∀ k, k ≠ j → getJob s' k = getJob s k := by
  obtain ⟨-, -, -, others⟩ := countSwitch_rest j r.2 s
  have made := restoreDone_eq (p := p) (w := w) saved sound
  have length : (memRead s.mem (getJob s j).save (64 * r.2)).length = 64 * r.2 := memRead_length ..
  generalize memRead s.mem (getJob s j).save (64 * r.2) = bs at *
  generalize countSwitch j r.2 s = t at *
  generalize hz : storeMem r.1 bs (zeroTps (getPart s p).mask t) = z at made
  have memZ : z.mem = memWrite (zeroTps (getPart s p).mask t).mem r.1 bs := by rw [← hz]; rfl
  have jobZ (k : Nat) : getJob z k = getJob t k := by rw [← hz]; rfl
  have given : Gives (.restoreComplete p) s (switchEvent p w.outSlot (some j) w.lines r.2 (beginRun p j z)) := by
    refine gives_run _ _ (execRestoreComplete.eq_1 p s) ?_
    rw [sw]
    dsimp only
    rw [inc]
    dsimp only
    rw [stage, runs, chip]
    exact made
  obtain ⟨state, running, still⟩ := beginRun_own p j z
  have rest (k : Nat) (other : k ≠ j) := beginRun_other p j k z other
  have memB : (beginRun p j z).mem = z.mem := rfl
  generalize beginRun p j z = b at *
  obtain ⟨q, told⟩ : ∃ q, switchEvent p w.outSlot (some j) w.lines r.2 b = { b with ev.queue := q } := ⟨_, rfl⟩
  rw [told] at given
  obtain ⟨s', answers, mem', parts', -, jobs⟩ := jobs_answer given
  have memS : s'.mem = memWrite (zeroTps (getPart s p).mask t).mem r.1 bs := mem'.trans (memB.trans memZ)
  have partS : getPart s' p = getPart b p := by rw [getPart, parts']; rfl
  have jobS (k : Nat) : getJob s' k = getJob b k := jobs k
  refine ⟨s', answers, ?_, ?_, ?_, ?_, fun k other => ?_⟩
  · rw [memS, ← length]
    exact memRead_memWrite ..
  · rw [partS]; exact running
  · rw [partS]; exact still
  · rw [jobS]; exact state
  · rw [jobS, rest k other, jobZ, others k other]

end

/-- Settles O18, by the readiness of a ring job, and by the stages of a switch one by one. -/
theorem jobSwitches : Obligations.JobSwitches :=
  ⟨fun _ _ _ swing installed free => ⟨jobReadyWaits_answer swing installed free,
      fun idle still ring fresh later alone _ => jobReadyBegins_answer swing installed free idle still ring fresh later alone⟩,
   fun _ _ _ _ sw => ⟨ringSwitch_answer sw, fun _ stage out last idle runs saved lines sound =>
      saveComplete_answer sw stage out last idle runs saved lines sound, fun _ stage inc runs chip saved sound =>
      restoreComplete_answer sw stage inc runs chip saved sound⟩⟩

end Sys2Proof.Machine
end

section
/-! PROOFS. The start of a queued block operation and the Balance Log's ring (R90, R91, R144, R257). -/

namespace Sys2Proof.Machine

section
variable {s : State}

theorem queueOf_setQueue (k x : Nat) (q : List BlockOp) (s : State) : queueOf (setQueue k q s) x = if x = k then q else queueOf s x := tget_tput ..

/-- A queued operation as it starts (R91, R257). -/
def startedOp (s : State) (k : Nat) (o : BlockOp) : BlockOp := { o with
  began := some (max o.issued (tget 0 s.blk.freeAt k - runBase s o.slot)), bias := startBias s k (jobMov (getJob s o.slot)) o.layer }

theorem blockQueueStart_answer {b : BlockId} {o : BlockOp} {rest : List BlockOp} (queued : queueOf s (blockKey b) = o :: rest)
    (waits : o.began = none) (runs : coreRuns s = true) : ∃ s', exec (.blockQueueStart b) s = .next s' ∧
    queueOf s' (blockKey b) = startedOp s (blockKey b) o :: rest ∧ (∀ k, k ≠ blockKey b → queueOf s' k = queueOf s k) ∧
    s' = { reported s s' with blk := { s.blk with queues := s'.blk.queues } } := by
  have given : Gives (.blockQueueStart b) s (setQueue (blockKey b) (startedOp s (blockKey b) o :: rest) s) := by
    refine gives_run _ _ (execBlockQueueStart.eq_1 b s) ?_
    rw [queued]
    dsimp only
    rw [waits, runs]
    rfl
  generalize blockKey b = k at *
  generalize startedOp s k o :: rest = q at *
  have only : setQueue k q s = { s with blk := { s.blk with queues := (setQueue k q s).blk.queues } } := rfl
  have queues := fun x => queueOf_setQueue k x q s
  generalize setQueue k q s = w at *
  have blk : ({ collect w with pending := s.pending } : State).blk = w.blk := collect_blk w
  have queue (x : Nat) : queueOf { collect w with pending := s.pending } x = queueOf w x := by rw [queueOf, queueOf, blk]
  refine ⟨_, given, ?_, fun x other => ?_, ?_⟩
  · rw [queue, queues, if_pos rfl]
  · rw [queue, queues, if_neg other]
  · have own := answer_reported s.pending w
    generalize ({ collect w with pending := s.pending } : State) = s' at *
    rw [blk]
    exact own.trans (congrArg (fun y : State => { reported y s' with pending := s.pending }) only)

/-! ### The Balance Log (R144) -/

theorem memWrite_append (xs : List Byte) : ∀ (m : Table Byte) (a : Nat) (ys : List Byte),
    memWrite m a (xs ++ ys) = memWrite (memWrite m a xs) (a + xs.length) ys := by
  induction xs with
  | nil => intros; rfl
  | cons x xs ih =>
    intro m a ys
    rw [List.cons_append, memWrite, ih, memWrite, List.length_cons, Nat.add_assoc, Nat.add_comm 1]

theorem storeMem_eq (a : Nat) (bs : List Byte) (s : State) : ∃ e, storeMem a bs s = { s with mem := memWrite s.mem a bs, ecc := e } := ⟨_, rfl⟩

/-- Whole lines that do not wrap stand in the ring behind each other. -/
theorem logLines_eq (base n k : Nat) : ∀ (at_ : Nat) (bs : List Byte) (s : State), bs.length = 64 * k → at_ + k ≤ n →
    ∃ e, logLines base n k at_ bs s = { s with mem := memWrite s.mem (base + 64 * at_) bs, ecc := e } := by
  induction k with
  | zero =>
    intro at_ bs s whole _
    rw [List.eq_nil_of_length_eq_zero whole]
    exact ⟨s.ecc, rfl⟩
  | succ k ih =>
    intro at_ bs s whole fits
    obtain ⟨e, stored⟩ := storeMem_eq (base + 64 * at_) (bs.take 64) s
    have next : k = 0 ∨ (at_ + 1) % n = at_ + 1 := by
      rcases Nat.eq_zero_or_pos k with last | more
      · exact .inl last
      · exact .inr (Nat.mod_eq_of_lt (by omega))
    have left : (bs.drop 64).length = 64 * k := by rw [List.length_drop, whole]; omega
    have line : (bs.take 64).length = 64 := by rw [List.length_take, whole]; omega
    rw [logLines, stored]
    rcases next with rfl | here
    · have all : bs.take 64 = bs := List.take_of_length_le (by omega)
      rw [all]
      exact ⟨e, rfl⟩
    · obtain ⟨e', rest⟩ := ih (at_ + 1) (bs.drop 64) { s with mem := memWrite s.mem (base + 64 * at_) (bs.take 64), ecc := e } left (by omega)
      refine ⟨e', ?_⟩
      rw [here, rest, ← List.take_append_drop 64 bs, memWrite_append, List.take_append_drop, line, Nat.mul_add, Nat.mul_one, Nat.add_assoc]

theorem balanceLogWrite_answer {e : List Byte} {rest : List (List Byte)} {lines : Nat} (queued : s.blk.blogQ = e :: rest)
    (whole : e.length = 64 * lines) (fits : s.blk.blogWr % cfgVal s 0x0805 + lines ≤ cfgVal s 0x0805) (ring : 0 < cfgVal s 0x0805) :
    let a := cfgVal s 0x0804 + 64 * (s.blk.blogWr % cfgVal s 0x0805)
    ∃ s', exec .balanceLogWrite s = .next s' ∧ memRead s'.mem a (64 * lines) = e ∧ MemoryBut s s' a (64 * lines) ∧
      s'.blk.blogQ = rest ∧ s'.blk.blogWr = (s.blk.blogWr + lines) % cfgVal s 0x0805 ∧ s'.jobs = s.jobs ∧ s'.tps = s.tps := by
  have count : e.length / 64 = lines := by omega
  obtain ⟨ecc, wrote⟩ := logLines_eq (cfgVal s 0x0804) (cfgVal s 0x0805) lines (s.blk.blogWr % cfgVal s 0x0805) e
    { s with blk := { s.blk with blogQ := rest, blogWr := (s.blk.blogWr + lines) % cfgVal s 0x0805 } } whole fits
  intro a
  have given : Gives .balanceLogWrite s { s with
      blk := { s.blk with blogQ := rest, blogWr := (s.blk.blogWr + lines) % cfgVal s 0x0805 }
      mem := memWrite s.mem a e, ecc := ecc } := by
    refine gives_run _ _ (execBalanceLogWrite.eq_1 s) ?_
    rw [queued]
    dsimp only
    rw [if_neg (Nat.ne_of_gt ring), count]
    exact wrote
  generalize cfgVal s 0x0805 = n at *
  generalize hw : ({ s with
      blk := { s.blk with blogQ := rest, blogWr := (s.blk.blogWr + lines) % n }
      mem := memWrite s.mem a e, ecc := ecc } : State) = w at given
  have kept : w.mem = memWrite s.mem a e ∧ w.blk.blogQ = rest ∧ w.blk.blogWr = (s.blk.blogWr + lines) % n ∧ w.jobs = s.jobs ∧ w.tps = s.tps := by
    rw [← hw]
    exact ⟨rfl, rfl, rfl, rfl, rfl⟩
  obtain ⟨mem, blogQ, blogWr, jobs, tps⟩ := kept
  have memS : ({ collect w with pending := s.pending } : State).mem = memWrite s.mem a e := (collect_mem w).trans mem
  have blk : ({ collect w with pending := s.pending } : State).blk = w.blk := collect_blk w
  refine ⟨_, given, ?_, fun x outside => ?_, ?_, ?_, (collect_jobs w).trans jobs, (collect_tps w).trans tps⟩
  · rw [memS, ← whole]
    exact memRead_memWrite ..
  · rw [memS]
    exact memGet_memWrite_outside _ _ _ _ (by rw [whole]; exact outside)
  · rw [blk, blogQ]
  · rw [blk, blogWr]

end

/-- Settles O21, by the head of a queue that starts, and by the lines of an entry as one write. -/
theorem blockQueuesAndBalanceLog : Obligations.BlockQueuesAndBalanceLog :=
  ⟨fun _ _ _ _ queued waits runs => blockQueueStart_answer queued waits runs,
   fun _ _ _ _ queued whole fits ring => balanceLogWrite_answer queued whole fits ring⟩

end Sys2Proof.Machine
end

section
/-! PROOFS. How a block's operation ends (R66, R68, R75, R90, R91, R364): it leaves its block, reads sound memory, and lands its status. -/

namespace Sys2Proof.Machine

section
variable {s : State}

/-! ### Vat accesses on their way (R66) -/

/-- Serving lines neither reads nor changes what the blocks and HBM have under way. -/
theorem serveVat_blocks (ok : VatAcc → Bool) (n : Nat) (b : Blocks) (h : Hbm) (s : State) :
    serveVat ok n { s with blk := b, hbm := h } = { serveVat ok n s with blk := b, hbm := h } := by
  induction n generalizing s with
  | zero => rfl
  | succ n ih =>
    have line (a : VatAcc) (t : State) : serveLine a { t with blk := b, hbm := h } = { serveLine a t with blk := b, hbm := h } := by
      cases into : a.into <;> simp only [serveLine, into] <;> rfl
    simp only [serveVat]
    split
    · rfl
    · rw [← ih, ← line]

theorem serveTo_blocks (cy : Nat) (b : Blocks) (h : Hbm) (s : State) :
    serveTo cy { s with blk := b, hbm := h } = { serveTo cy s with blk := b, hbm := h } := serveVat_blocks ..

theorem serveTo_badLines (cy : Nat) (h : s.ecc.badLines = []) : (serveTo cy s).ecc.badLines = [] := serveVat_badLines _ _ s h

/-- What is read of neither memory, its check bits nor the accesses in flight is as before. -/
theorem serveTo_keeps (cy : Nat) (s : State) {α : Type} (g : State → α) (hg : ∀ (x : State) m e v, g { x with mem := m, ecc := e, vat := v } = g x) :
    g (serveTo cy s) = g s := (congrArg g (serveTo_rest cy s)).trans (hg ..)

theorem serveTo_blk (cy : Nat) (b : Blocks) (s : State) : serveTo cy { s with blk := b } = { serveTo cy s with blk := b } :=
  have hbm : s.hbm = (serveTo cy s).hbm := (serveTo_keeps cy s State.hbm fun _ _ _ _ => rfl).symm
  (serveTo_blocks cy b s.hbm s).trans (congrArg (fun h => { serveTo cy s with blk := b, hbm := h }) hbm)

/-! ### Check bits (R364) -/

/-- Reads of sound lines count corrected errors alone. -/
theorem lineReads_sound {slot reader : Nat} {reads : Nat → Bool} {act : State → State} (sound : s.ecc.badLines = []) :
    lineReads slot reader reads act s = act { s with flt.eccCor := s.flt.eccCor + (s.ecc.softLines.filter reads).length } := by
  rw [lineReads, sound]
  rfl

/-! ### Status words (R75, R90) -/

/-- The run of a job when a block's status has landed. -/
def landedRun (tp tile cy : Nat) (r : Run) : Run := { r with cycle := max r.cycle cy, blockEnds := r.blockEnds ++ [(tp, tile, cy)] }

/-- A TP whose status register is usable from a cycle on. -/
def landedTp (a cy : Nat) (t : Tp) : Tp := noteReady a cy { t with statuses := t.statuses.erase a }

/-- What a status word that lands leaves of a state. -/
def LandsOnly (s t : State) : Prop := t = { s with mem := t.mem, jobs := t.jobs, tps := t.tps }

/-- A run whose block's status has landed, before the word stands in its register. -/
def landedState (slot tp tile cy : Nat) (s : State) : State :=
  modRun slot (fun r => { r with blockEnds := r.blockEnds ++ [(tp, tile, cy)] }) (noteCycle slot cy s)

/-- A number that lands in a TP's register. -/
def landWord (tp a cy v : Nat) (s : State) : State := modTp tp (landedTp a cy) (putMemNat a 8 v s)

theorem landStatus_none (slot tp tile count code cy : Nat) (s : State) :
    landStatus slot tp tile none count code cy s = landedState slot tp tile cy s := rfl

theorem landStatus_some (slot tp tile a count code cy : Nat) (s : State) :
    landStatus slot tp tile (some a) count code cy s = landWord tp a cy (statusWord count code) (landedState slot tp tile cy s) := rfl

theorem landsOnly_landWord (tp a cy v : Nat) (s : State) : LandsOnly s (landWord tp a cy v s) := rfl

theorem LandsOnly.trans {s t u : State} (h : LandsOnly s t) (h' : LandsOnly t u) : LandsOnly s u := by
  rw [LandsOnly] at *
  rw [h', h]

theorem landsOnly_landStatus (slot tp tile : Nat) (dst : Option Nat) (count code cy : Nat) (s : State) :
    LandsOnly s (landStatus slot tp tile dst count code cy s) := by
  have noted : LandsOnly s (landedState slot tp tile cy s) := rfl
  cases dst with
  | none => exact noted
  | some a =>
    rw [landStatus_some]
    exact noted.trans (landsOnly_landWord ..)

theorem getJob_landWord (tp a cy v j : Nat) (s : State) : getJob (landWord tp a cy v s) j = getJob s j := rfl

theorem landStatus_job (slot tp tile : Nat) (dst : Option Nat) (count code cy j : Nat) (s : State) :
    getJob (landStatus slot tp tile dst count code cy s) j = getJob (landedState slot tp tile cy s) j := by
  cases dst with
  | none => rfl
  | some a =>
    rw [landStatus_some, getJob_landWord]

theorem landStatus_run (slot tp tile : Nat) (dst : Option Nat) (count code cy : Nat) (s : State) :
    getJob (landStatus slot tp tile dst count code cy s) slot = { getJob s slot with run := landedRun tp tile cy (getJob s slot).run } := by
  rw [landStatus_job, landedState, getJob_modRun_self, noteCycle, getJob_modRun_self]
  rfl

theorem statusWord_eq (count code : Nat) : statusWord count code = min count (2 ^ 32 - 1) * 2 ^ 32 + code := by
  rw [statusWord, sat32]

/-- The status word stands in its register, usable from its cycle on. -/
theorem landStatus_word {a : Nat} (slot tp tile count code cy : Nat) (s : State) :
    memNat (landStatus slot tp tile (some a) count code cy s).mem a 8 = (min count (2 ^ 32 - 1) * 2 ^ 32 + code) % 2 ^ 64 ∧
    tget 0 (getTp (landStatus slot tp tile (some a) count code cy s) tp).ready a = cy := by
  rw [landStatus_some, ← statusWord_eq]
  generalize statusWord count code = v
  generalize landedState slot tp tile cy s = w
  refine ⟨memNat_memWrite w.mem a 8 v, ?_⟩
  have tp' : getTp (landWord tp a cy v w) tp = landedTp a cy (getTp (putMemNat a 8 v w) tp) := getTp_modTp_self ..
  rw [tp']
  exact tget_tput_self ..

theorem landStatus_outside {dst : Option Nat} {x : Nat} (slot tp tile count code cy : Nat) (s : State) (out : ∀ a, dst = some a → x < a ∨ a + 8 ≤ x) :
    memGet (landStatus slot tp tile dst count code cy s).mem x = memGet s.mem x := by
  cases dst with
  | none => rfl
  | some a =>
    have outside : x < a ∨ a + (leBytes 8 (statusWord count code)).length ≤ x := by
      rw [leBytes_length]
      exact out a rfl
    rw [landStatus_some]
    generalize statusWord count code = v at *
    exact memGet_memWrite_outside _ s.mem a x outside

/-! ### An operation's end (R91) -/

/-- The state in which a block's running operation has its effect. -/
def opPopped (s : State) (k : Nat) (o : BlockOp) : State := { atEnd s o with
  blk := { s.blk with freeAt := tput s.blk.freeAt k (opEndAt s o), queues := tput s.blk.queues k (queueOf s k).tail } }

theorem completeOp_live {k : Nat} {o : BlockOp} {act : BlockOp → State → State} (head : headOp s k = some o) (live : opLive s o = true) :
    completeOp k act s = act o (opPopped s k o) := by
  rw [completeOp, head]
  dsimp only
  rw [live, if_pos rfl]
  have popped : popOp k { s with blk.freeAt := tput s.blk.freeAt k (opEndAt s o) } = { s with
    blk := { s.blk with freeAt := tput s.blk.freeAt k (opEndAt s o), queues := tput s.blk.queues k (queueOf s k).tail } } := rfl
  rw [popped, serveTo_blk]
  rfl

theorem completeOp_none {k : Nat} {act : BlockOp → State → State} (head : headOp s k = none) : completeOp k act s = s := by
  rw [completeOp, head]

theorem opPopped_queue (k x : Nat) (o : BlockOp) : queueOf (opPopped s k o) x = if x = k then (queueOf s k).tail else queueOf s x := tget_tput ..

theorem opPopped_sound (k : Nat) (o : BlockOp) (sound : s.ecc.badLines = []) : (opPopped s k o).ecc.badLines = [] :=
  serveTo_badLines _ sound

/-- What is read of neither memory nor the blocks is as it was when the operation ends. -/
theorem opPopped_keeps (k : Nat) (o : BlockOp) {α : Type} (g : State → α) (hg : ∀ (x : State) m e v b, g { x with
    mem := m, ecc := e, vat := v, blk := b } = g x) : g (opPopped s k o) = g s := by
  have served := serveTo_rest (opEndAt s o) s
  have eq : opPopped s k o = { s with
      mem := (atEnd s o).mem, ecc := (atEnd s o).ecc, vat := (atEnd s o).vat, blk := (opPopped s k o).blk } := by
    rw [opPopped, atEnd, served]
  rw [eq, hg]

/-- Of the machine only postings have been made. -/
def PostsOnly (s t : State) : Prop := t = { s with ev.queue := t.ev.queue }

theorem PostsOnly.refl (s : State) : PostsOnly s s := rfl

theorem postsOnly_postIf (c : Bool) (src code sev : Nat) (p : List Byte) (s : State) : PostsOnly s (postIf c src code sev p s) := by
  cases c <;> rfl

/-- What the answer shows of an operation whose last act, but for postings, lands its status. -/
theorem landed_answer {i : Instr} {slot tp tile count code cy : Nat} {dst : Option Nat} {w z : State}
    (told : PostsOnly (landStatus slot tp tile dst count code cy w) z) (given : Gives i s z) :
    ∃ s', exec i s = .next s' ∧ (∀ k, queueOf s' k = queueOf w k) ∧
      (∀ a, dst = some a → memNat s'.mem a 8 = (min count (2 ^ 32 - 1) * 2 ^ 32 + code) % 2 ^ 64 ∧ tget 0 (getTp s' tp).ready a = cy) ∧
      getJob s' slot = { getJob w slot with run := landedRun tp tile cy (getJob w slot).run } ∧ s'.blk = w.blk ∧ s'.cul = w.cul ∧
      ∀ x, (∀ a, dst = some a → x < a ∨ a + 8 ≤ x) → memGet s'.mem x = memGet w.mem x := by
  have lands := landsOnly_landStatus slot tp tile dst count code cy w
  have run := landStatus_run slot tp tile dst count code cy w
  have word (a : Nat) := landStatus_word (a := a) slot tp tile count code cy w
  have outside (x : Nat) := landStatus_outside (x := x) (dst := dst) slot tp tile count code cy w
  have stands (a : Nat) (at' : dst = some a) : memNat (landStatus slot tp tile dst count code cy w).mem a 8 =
      (min count (2 ^ 32 - 1) * 2 ^ 32 + code) % 2 ^ 64 ∧ tget 0 (getTp (landStatus slot tp tile dst count code cy w) tp).ready a = cy := by
    rw [at']
    exact word a
  generalize landStatus slot tp tile dst count code cy w = l at *
  have memZ : z.mem = l.mem := (congrArg State.mem told :)
  have tpZ : getTp z tp = getTp l tp := (congrArg (getTp · tp) told :)
  have jobZ : getJob z slot = getJob l slot := (congrArg (getJob · slot) told :)
  have blkZ : z.blk = w.blk := (congrArg State.blk told :).trans (congrArg State.blk lands :)
  have culZ : z.cul = w.cul := (congrArg State.cul told :).trans (congrArg State.cul lands :)
  have mem : ({ collect z with pending := s.pending } : State).mem = l.mem := (collect_mem z).trans memZ
  have blk : ({ collect z with pending := s.pending } : State).blk = w.blk := (collect_blk z).trans blkZ
  refine ⟨_, given, fun k => ?_, fun a at' => ?_, ?_, blk, (collect_cul z).trans culZ, fun x out => ?_⟩
  · rw [queueOf, queueOf, blk]
  · rw [mem, getTp_answer, tpZ]
    exact stands a at'
  · rw [getJob_answer, jobZ, run]
  · rw [mem]
    exact outside x out

/-- An operation has completed where its status has landed and its block is without it. -/
theorem opDone_of_landed {k count cy : Nat} {o : BlockOp} {x : Job} {s' : State} (queue : ∀ y, queueOf s' y = queueOf (opPopped s k o) y)
    (word : ∀ a, o.dst = some a → memNat s'.mem a 8 = (min count (2 ^ 32 - 1) * 2 ^ 32 + 0) % 2 ^ 64 ∧ tget 0 (getTp s' o.tp).ready a = cy)
    (job : getJob s' o.slot = { x with run := landedRun o.tp o.tile cy x.run }) : OpDone s s' k o count 0 cy := by
  refine ⟨?_, fun y other => ?_, fun a dst => ?_, ?_⟩
  · rw [queue, opPopped_queue, if_pos rfl]
  · rw [queue, opPopped_queue, if_neg other]
  · obtain ⟨stands, ready⟩ := word a dst
    exact ⟨stands.trans (by omega), ready⟩
  · rw [job]
    simp [landedRun]

end

end Sys2Proof.Machine
end

section
/-! PROOFS. What a completed GRW, CMB and CUL make known: their status words, walked entries, counts and faults (R148, R149, R155 to R162, R260). -/

namespace Sys2Proof.Machine

/-! ### What block operations write (R148, R154) -/

/-- Of the machine only bytes, their check bits and free values have changed, and corrected errors counted. -/
def BytesOnly (s t : State) : Prop := t = { s with
  freeCtr := t.freeCtr, mem := t.mem, ecc := t.ecc, flt := { s.flt with eccCor := t.flt.eccCor } }

theorem BytesOnly.refl (s : State) : BytesOnly s s := rfl

theorem BytesOnly.trans {s t u : State} (h : BytesOnly s t) (h' : BytesOnly t u) : BytesOnly s u := by
  rw [BytesOnly] at *
  rw [h', h]

theorem BytesOnly.after {s t u : State} (h : BytesOnly t u) (h' : BytesOnly s t) : BytesOnly s u := h'.trans h

theorem BytesOnly.ite {c : Prop} [Decidable c] {s t u : State} (ht : BytesOnly s t) (hu : BytesOnly s u) : BytesOnly s (if c then t else u) := by
  split
  · exact ht
  · exact hu

theorem BytesOnly.foldl {β : Type} (g : State → β → State) (hg : ∀ s x, BytesOnly s (g s x)) (xs : List β) (s : State) :
    BytesOnly s (xs.foldl g s) := by
  induction xs generalizing s with
  | nil => exact .refl s
  | cons x xs ih => exact (hg s x).trans (ih _)

theorem BytesOnly.job {s t : State} (h : BytesOnly s t) (j : Nat) : getJob t j = getJob s j := (congrArg (getJob · j) h :)
theorem BytesOnly.blk {s t : State} (h : BytesOnly s t) : t.blk = s.blk := (congrArg State.blk h :)
theorem BytesOnly.cul {s t : State} (h : BytesOnly s t) : t.cul = s.cul := (congrArg State.cul h :)

theorem bytesOnly_corrected (n : Nat) (s : State) : BytesOnly s { s with flt.eccCor := n } := rfl
theorem bytesOnly_storeMem (a : Nat) (bs : List Byte) (s : State) : BytesOnly s (storeMem a bs s) := rfl
theorem bytesOnly_putMem (a : Nat) (bs : List Byte) (s : State) : BytesOnly s (putMem a bs s) := rfl
theorem bytesOnly_skipFree (n : Nat) (s : State) : BytesOnly s (skipFree n s) := rfl

theorem bytesOnly_storeAll (ws : List (Nat × List Byte)) (s : State) : BytesOnly s (storeAll ws s) := .foldl _ (fun _ _ => bytesOnly_storeMem ..) _ _

theorem bytesOnly_freeMatrix (ts : List Nat) (s : State) : BytesOnly s (freeMatrix ts s) :=
  .foldl _ (fun _ _ => (bytesOnly_skipFree ..).after (bytesOnly_putMem ..)) _ _

theorem bytesOnly_writeRows (out : Lay) (rows : List (List Nat)) (s : State) : BytesOnly s (writeRows out rows s) :=
  .foldl _ (fun _ _ => .foldl _ (fun _ _ => bytesOnly_storeMem ..) _ _) _ _

section
variable {s : State}

theorem getJob_opPopped (k j : Nat) (o : BlockOp) : getJob (opPopped s k o) j = getJob s j := opPopped_keeps k o (getJob · j) fun _ _ _ _ _ => rfl

/-! ### The Group Walker (R148, R149) -/

/-- A walk ends: its entries are held as walked, and its status lands with a free count. -/
theorem grwDone_eq {c : Nat} {o : BlockOp} {es : List (GroupEntry × Nat)} (sound : s.ecc.badLines = [])
    (entries : ((jobMov (getJob s o.slot)).entries.zipIdx.drop o.first).take o.count = es) : ∃ v n, BytesOnly s v ∧ grwDone c o s =
      landOp o n 0 (skipFree 4 (modRun o.slot (fun y => { y with grwDone := y.grwDone ++ es.map fun x => (opEnd o, 4096 * c + x.2) }) v)) := by
  unfold grwDone blockReads
  dsimp only
  rw [entries, lineReads_sound sound]
  refine ⟨_, _, ?_, rfl⟩
  refine (bytesOnly_freeMatrix ..).after (BytesOnly.after (.foldl _ (fun t x => ?_) _ _) (bytesOnly_corrected ..))
  split
  · exact bytesOnly_storeAll ..
  · exact .refl t

theorem groupWalkerComplete_answer {c : Fin 8} {o : BlockOp} {es : List (GroupEntry × Nat)} (head : headOp s (4 + c.val) = some o)
    (live : opLive s o = true) (sound : s.ecc.badLines = [])
    (entries : ((jobMov (getJob s o.slot)).entries.zipIdx.drop o.first).take o.count = es) :
    ∃ s', exec (.groupWalkerComplete c) s = .next s' ∧ queueOf s' (4 + c.val) = (queueOf s (4 + c.val)).tail ∧
      (∀ a, o.dst = some a → memNat s'.mem a 8 % 2 ^ 32 = 0 ∧ tget 0 (getTp s' o.tp).ready a = opEnd o) ∧
      (getJob s' o.slot).run.grwDone = (getJob s o.slot).run.grwDone ++ es.map fun x => (opEnd o, 4096 * c.val + x.2) := by
  have job := getJob_opPopped (s := s) (4 + c.val) o.slot o
  obtain ⟨v, n, only, done⟩ := grwDone_eq (c := c.val) (es := es) (opPopped_sound (4 + c.val) o sound) (by rw [job]; exact entries)
  generalize hw : skipFree 4 (modRun o.slot (fun y => { y with grwDone := y.grwDone ++ es.map fun x => (opEnd o, 4096 * c.val + x.2) }) v) = w at done
  have blk : w.blk = (opPopped s (4 + c.val) o).blk := by
    rw [← hw]
    exact only.blk
  have run : (getJob w o.slot).run.grwDone = (getJob s o.slot).run.grwDone ++ es.map fun x => (opEnd o, 4096 * c.val + x.2) := by
    have own := getJob_modRun_self o.slot (fun y => { y with grwDone := y.grwDone ++ es.map fun x => (opEnd o, 4096 * c.val + x.2) }) v
    rw [only.job o.slot, job] at own
    rw [← hw]
    exact congrArg (fun x : Job => x.run.grwDone) own
  have given : Gives (.groupWalkerComplete c) s (landOp o n 0 w) := by
    refine gives_run _ _ (execGroupWalkerComplete.eq_1 c s) ?_
    rw [completeOp_live head live, done]
  obtain ⟨s', answers, queue, word, landed, -⟩ := landed_answer (PostsOnly.refl _) given
  refine ⟨s', answers, ?_, fun a dst => ?_, ?_⟩
  · rw [queue, queueOf, blk, ← queueOf, opPopped_queue, if_pos rfl]
  · obtain ⟨stands, ready⟩ := word a dst
    rw [stands]
    exact ⟨by omega, ready⟩
  · rw [landed, ← run]
    rfl

/-! ### The Churn (R155 to R162) -/

theorem churnEnd_fixed {m : Movement} {d : LayerDesc} {r : Run} {o : BlockOp} (fixed : arrival d = false) : churnEnd m d r o = opEnd o := by
  rw [churnEnd, fixed, if_neg Bool.false_ne_true]
  exact Nat.max_zero _

/-- The counts of a combine whose conservation check found `n` errors (R161, R162). -/
def combinedBlk (n odd : Nat) (b : Blocks) : Blocks :=
  { b with nonFinite := b.nonFinite + odd, consErr := b.consErr + n, combines := if n = 0 then b.combines + 1 else b.combines }

/-- A combine whose reads are sound: its rows are written, the conservation check's errors counted, and its status lands; with errors its
job is faulted. -/
theorem cmbDone_eq {o : BlockOp} {k : Combine} {h : SepHdr} (sound : s.ecc.badLines = [])
    (combine : combineOf (jobMov (getJob s o.slot)) o.layer = some k) (sep : sepOf (jobMov (getJob s o.slot)) o.layer = some h) :
    let m := jobMov (getJob s o.slot)
    let d := layerAt m o.layer
    let cs := contribs s.mem m d h o.layer (getJob s o.slot).run.live
    let bad := conserve s.mem m d h cs (getJob s o.slot).run.live
    let n := bad.1.length + bad.2
    ∃ v odd told cause, BytesOnly s v ∧
      let done := landStatus o.slot o.tp o.tile o.dst cs.length (if n = 0 then 0 else 4) (churnEnd m d (getJob s o.slot).run o)
        { v with blk := combinedBlk n odd v.blk }
      cmbDone o s = if n = 0 then postIf (odd != 0) 0x08 3 1 told done
        else faultJob o.slot (post 0x08 2 2 cause (postIf (odd != 0) 0x08 3 1 told done)) := by
  unfold cmbDone
  dsimp only
  rw [combine, sep]
  dsimp only
  rw [lineReads_sound sound]
  exact ⟨_, _, _, _, (bytesOnly_writeRows ..).after ((BytesOnly.ite (.refl _) (bytesOnly_skipFree ..)).after (bytesOnly_corrected ..)), rfl⟩

/-- What the end of a combine with `n` conservation errors makes of the machine. -/
structure CombineEnd (s : State) (o : BlockOp) (cs : List Contrib) (n : Nat) (u : State) : Prop where
  ends : ∃ v odd told cause, BytesOnly (opPopped s 2 o) v ∧
    let done := landStatus o.slot o.tp o.tile o.dst cs.length (if n = 0 then 0 else 4)
      (churnEnd (jobMov (getJob s o.slot)) (layerAt (jobMov (getJob s o.slot)) o.layer) (getJob s o.slot).run o) { v with blk := combinedBlk n odd v.blk }
    u = if n = 0 then postIf (odd != 0) 0x08 3 1 told done
      else faultJob o.slot (post 0x08 2 2 cause (postIf (odd != 0) 0x08 3 1 told done))

section
variable {o : BlockOp} {k : Combine} {h : SepHdr} (head : headOp s 2 = some o) (live : opLive s o = true) (sound : s.ecc.badLines = [])
  (ready : churnReady s = true) (combine : combineOf (jobMov (getJob s o.slot)) o.layer = some k)
  (sep : sepOf (jobMov (getJob s o.slot)) o.layer = some h)
include head live sound ready combine sep

theorem gives_churnComplete : let u := atEnd s o
    let m := jobMov (getJob s o.slot)
    let d := layerAt m o.layer
    let cs := contribs u.mem m d h o.layer (getJob s o.slot).run.live
    let bad := conserve u.mem m d h cs (getJob s o.slot).run.live
    ∃ z, Gives .churnComplete s z ∧ CombineEnd s o cs (bad.1.length + bad.2) z := by
  intro u m d cs bad
  have job := getJob_opPopped (s := s) 2 o.slot o
  have ends := cmbDone_eq (k := k) (h := h) (opPopped_sound 2 o sound) (by rw [job]; exact combine) (by rw [job]; exact sep)
  rw [job] at ends
  refine ⟨cmbDone o (opPopped s 2 o), ?_, ⟨ends⟩⟩
  refine gives_run _ _ (execChurnComplete.eq_1 s) ?_
  rw [if_pos ready, completeOp_live head live]

end

/-- A combine without errors is done (R161). -/
theorem CombineEnd.passes {i : Instr} {o : BlockOp} {cs : List Contrib} {z : State} (ends : CombineEnd s o cs 0 z) (given : Gives i s z) :
    ∃ s', exec i s = .next s' ∧
      OpDone s s' 2 o cs.length 0 (churnEnd (jobMov (getJob s o.slot)) (layerAt (jobMov (getJob s o.slot)) o.layer) (getJob s o.slot).run o) ∧
      s'.blk.combines = s.blk.combines + 1 ∧ s'.blk.consErr = s.blk.consErr ∧ (getJob s' o.slot).state = (getJob s o.slot).state := by
  obtain ⟨v, odd, told, cause, only, done⟩ := ends
  dsimp only at done
  rw [if_pos rfl, if_pos rfl] at done
  rw [done] at given
  obtain ⟨s', answers, queue, word, job, blk, -⟩ := landed_answer (postsOnly_postIf ..) given
  have blkV : v.blk = (opPopped s 2 o).blk := only.blk
  have jobV : getJob v o.slot = getJob s o.slot := (only.job o.slot).trans (getJob_opPopped ..)
  refine ⟨s', answers, opDone_of_landed (fun y => ?_) word job, ?_, ?_, ?_⟩
  · rw [queue, queueOf, queueOf, ← blkV]
    rfl
  · rw [blk, blkV]
    rfl
  · rw [blk, blkV]
    rfl
  · rw [job]
    show (getJob v o.slot).state = _
    rw [jobV]

/-- A combine with errors counts them, and its job is faulted (R162). -/
theorem CombineEnd.fails {i : Instr} {o : BlockOp} {cs : List Contrib} {n : Nat} {z : State} (ends : CombineEnd s o cs n z) (live : opLive s o = true)
    (bad : n ≠ 0) (given : Gives i s z) : ∃ s', exec i s = .next s' ∧ s'.blk.combines = s.blk.combines ∧
      s'.blk.consErr = s.blk.consErr + n ∧ (getJob s' o.slot).state = 4 := by
  obtain ⟨v, odd, told, cause, only, done⟩ := ends
  dsimp only at done
  rw [if_neg bad, if_neg bad] at done
  generalize churnEnd (jobMov (getJob s o.slot)) (layerAt (jobMov (getJob s o.slot)) o.layer) (getJob s o.slot).run o = cy at done
  have lands := landsOnly_landStatus o.slot o.tp o.tile o.dst cs.length 4 cy { v with blk := combinedBlk n odd v.blk }
  have run := landStatus_run o.slot o.tp o.tile o.dst cs.length 4 cy { v with blk := combinedBlk n odd v.blk }
  generalize landStatus o.slot o.tp o.tile o.dst cs.length 4 cy { v with blk := combinedBlk n odd v.blk } = l at *
  have posts := postsOnly_postIf (odd != 0) 0x08 3 1 told l
  generalize postIf (odd != 0) 0x08 3 1 told l = y at *
  generalize ht : post 0x08 2 2 cause y = t at done
  have postsT : PostsOnly y t := by rw [← ht]; rfl
  have jobV : getJob v o.slot = getJob s o.slot := (only.job o.slot).trans (getJob_opPopped ..)
  have jobT : getJob t o.slot = { getJob s o.slot with run := landedRun o.tp o.tile cy (getJob s o.slot).run } := by
    rw [← jobV]
    exact (congrArg (getJob · o.slot) postsT :).trans ((congrArg (getJob · o.slot) posts :).trans run)
  have mode : partitioned t = partitioned s := by
    have popped : partitioned (opPopped s 2 o) = partitioned s := opPopped_keeps 2 o partitioned fun _ _ _ _ _ => rfl
    rw [← popped]
    exact (congrArg partitioned postsT :).trans ((congrArg partitioned posts :).trans ((congrArg partitioned lands :).trans (congrArg partitioned only :)))
  have blkT : t.blk = combinedBlk n odd (opPopped s 2 o).blk := by
    rw [← only.blk]
    exact (congrArg State.blk postsT :).trans ((congrArg State.blk posts :).trans (congrArg State.blk lands :))
  have lives : stepLives t o.slot = true := by
    have before : stepLives s o.slot = true := by
      simp only [opLive, Bool.and_eq_true] at live
      exact live.1.1.1
    rw [stepLives, jobT, mode]
    exact before
  obtain ⟨faulted, -⟩ := faultJob_stops o.slot t lives
  have rest : (faultJob o.slot t).blk = { t.blk with queues := (faultJob o.slot t).blk.queues } := (congrArg State.blk (workOnly_faultJob o.slot t) :)
  rw [blkT] at rest
  rw [done] at given
  generalize faultJob o.slot t = u at *
  have blk : ({ collect u with pending := s.pending } : State).blk = u.blk := collect_blk u
  refine ⟨_, given, ?_, ?_, ?_⟩
  · rw [blk, rest]
    exact if_neg bad
  · rw [blk, rest]
    rfl
  · rw [getJob_answer, faulted]

/-! ### The Culture (R260, R270) -/

/-- A state and the parameter updates counted in it, from a state on: no block, run or job has changed. -/
def Updates (s : State) (r : State × Nat) : Prop := r.1.cul.updates = s.cul.updates + r.2 ∧ r.1.blk = s.blk ∧ r.1.jobs = s.jobs

theorem culUpdate_updates (slot layer n attempt : Nat) (d : LayerDesc) (h : SepHdr) (s : State) :
    Updates s (culUpdate slot layer n attempt d h s) := by
  unfold culUpdate
  extract_lets a p part _ g0 put r first resume g1 s1 _ rew g2 steps rs total
  have posts : s1.cul = s.cul ∧ s1.blk = s.blk ∧ s1.jobs = s.jobs := by
    simp only [s1]
    split <;> exact ⟨rfl, rfl, rfl⟩
  obtain ⟨cul, blk, jobs⟩ := posts
  have kept (g : CulProg) {t : State} {k : Nat} (c : t.cul.updates = s.cul.updates + k) (b : t.blk = s.blk) (j : t.jobs = s.jobs) :
      Updates s (put g t, k) := ⟨c, b, j⟩
  have updates : s1.cul.updates = s.cul.updates := by rw [cul]
  have told (c : Bool) (code sev : Nat) (q : List Byte) (m : Table Byte) (k l sat : Nat) :
      let t := postIf c 0x09 code sev q s1
      Updates s ({ t with mem := m, cul.updates := t.cul.updates + k + l, cul.sat := sat }, k + l) := by
    cases c
    · exact ⟨(congrArg (· + k + l) updates).trans (Nat.add_assoc ..), blk, jobs⟩
    · exact ⟨(congrArg (· + k + l) updates).trans (Nat.add_assoc ..), blk, jobs⟩
  clear_value s1 g1 g2 rew steps rs total
  split
  · exact ⟨rfl, rfl, rfl⟩
  · split
    · exact kept _ updates blk jobs
    · split
      · exact kept _ updates blk jobs
      · generalize (if first = true then pairWork s1 p d h layer n else ({ mem := s1.mem, sat := 0 }, 0)) = paired
        dsimp only
        generalize snapRefresh _ _ _ _ _ _ _ _ = refreshed
        obtain ⟨c, b, j⟩ := told (decide (0 < refreshed.2.1.sat) && refreshed.1.satPosted != some n) 6 1
          (pl1 layer ++ pl4 n ++ pl4 refreshed.2.1.sat) refreshed.2.1.mem
          (paired.2 + ((if (g2.foldDone || steps.isEmpty) = true then g2.foldAt else min total (g2.foldAt + (p.budget - paired.2))) - g2.foldAt))
          refreshed.2.2 0
        exact kept _ c b j

theorem culDone_eq {o : BlockOp} {h : SepHdr} (sound : s.ecc.badLines = []) (sep : sepOf (jobMov (getJob s o.slot)) o.layer = some h) :
    ∃ v n, Updates s (v, n) ∧ culDone o s = landOp o n 0 v := by
  unfold culDone blockReads
  dsimp only
  rw [sep]
  dsimp only
  rw [lineReads_sound sound]
  generalize hz : ({ s with flt.eccCor := _ } : State) = z
  have kept : Updates z _ := culUpdate_updates o.slot o.layer o.stepNo o.attempt (layerAt (jobMov (getJob s o.slot)) o.layer) h z
  refine ⟨_, _, ?_, rfl⟩
  have same : z.cul = s.cul ∧ z.blk = s.blk ∧ z.jobs = s.jobs := by rw [← hz]; exact ⟨rfl, rfl, rfl⟩
  obtain ⟨cul, blk, jobs⟩ := same
  obtain ⟨c, b, j⟩ := kept
  rw [cul] at c
  exact ⟨c, b.trans blk, j.trans jobs⟩

theorem cultureComplete_answer {o : BlockOp} {h : SepHdr} (head : headOp s 3 = some o) (live : opLive s o = true) (sound : s.ecc.badLines = [])
    (sep : sepOf (jobMov (getJob s o.slot)) o.layer = some h) : ∃ s' n, exec .cultureComplete s = .next s' ∧
    OpDone s s' 3 o n 0 (opEnd o) ∧ s'.cul.updates = s.cul.updates + n := by
  have job := getJob_opPopped (s := s) 3 o.slot o
  have before : (opPopped s 3 o).cul = s.cul := opPopped_keeps 3 o State.cul fun _ _ _ _ _ => rfl
  obtain ⟨v, n, ⟨updates, blkV, -⟩, done⟩ := culDone_eq (h := h) (opPopped_sound 3 o sound) (by rw [job]; exact sep)
  have given : Gives .cultureComplete s (landOp o n 0 v) := by
    refine gives_run _ _ (execCultureComplete.eq_1 s) ?_
    rw [completeOp_live head live, done]
  obtain ⟨s', answers, queue, word, landed, -, cul, -⟩ := landed_answer (PostsOnly.refl _) given
  refine ⟨s', n, answers, opDone_of_landed (fun y => ?_) word landed, ?_⟩
  · rw [queue, queueOf, queueOf]
    exact congrArg (fun b : Blocks => tget [] b.queues y) blkV
  · rw [cul, updates, before]

/-! ### Blocks that run nothing -/

theorem groupWalkerComplete_none {c : Fin 8} (head : headOp s (4 + c.val) = none) : Gives (.groupWalkerComplete c) s s :=
  gives_run _ _ (execGroupWalkerComplete.eq_1 c s) (completeOp_none head)

theorem churnComplete_none (head : headOp s 2 = none) : Gives .churnComplete s s := by
  refine gives_run _ _ (execChurnComplete.eq_1 s) ?_
  have idle : churnReady s = false := by rw [churnReady, head]
  rw [idle, if_neg Bool.false_ne_true]

theorem cultureComplete_none (head : headOp s 3 = none) : Gives .cultureComplete s s :=
  gives_run _ _ (execCultureComplete.eq_1 s) (completeOp_none head)

end

/-- Settles O20, by what a completed operation lands; of a combine by `CombineEnd`, whether its sums hold or not. -/
theorem walkerChurnAndCulture : Obligations.WalkerChurnAndCulture := by
  refine ⟨fun c s => ⟨fun o head live sound => groupWalkerComplete_answer head live sound rfl, groupWalkerComplete_none⟩,
    fun s => ⟨fun o k h head live sound ready => ?_, churnComplete_none⟩,
    fun s => ⟨fun o h head live sound sep => cultureComplete_answer head live sound sep, cultureComplete_none⟩⟩
  intro u m d run cs bad combine sep
  obtain ⟨z, given, ends⟩ := gives_churnComplete head live sound ready combine sep
  change CombineEnd s o cs (bad.1.length + bad.2) z at ends
  refine ⟨churnEnd_fixed, fun sums => ?_, fun differs => ?_⟩
  · have zero : bad.1.length + bad.2 = 0 := by rw [sums]; rfl
    rw [zero] at ends
    exact ends.passes given
  · have errors : bad.1.length + bad.2 ≠ 0 := fun zero => differs (Prod.ext (List.eq_nil_of_length_eq_zero (by omega)) (by omega))
    obtain ⟨s', answers, combines, consErr, faulted⟩ := ends.fails live errors given
    exact ⟨s', answers, combines, consErr.trans (Nat.add_assoc ..).symm, faulted⟩

end Sys2Proof.Machine
end

section
/-! PROOFS. The end of a Loader descriptor on its channel (R101, R104, R105, R110). -/

namespace Sys2Proof.Machine

theorem storeAll_outside {x : Nat} (ws : List (Nat × List Byte)) (s : State) (out : ∀ w ∈ ws, x < w.1 ∨ w.1 + w.2.length ≤ x) :
    memGet (storeAll ws s).mem x = memGet s.mem x := by
  induction ws generalizing s with
  | nil => rfl
  | cons w ws ih =>
    have first : memGet (storeMem w.1 w.2 s).mem x = memGet s.mem x := memGet_memWrite_outside _ _ _ _ (out w List.mem_cons_self)
    exact (ih (storeMem w.1 w.2 s) fun y hy => out y (List.mem_cons_of_mem _ hy)).trans first

section
variable {s : State} {ch : Fin 16} {o : LoadOp}

/-! ### When a descriptor ends (R35, R104, R105) -/

theorem noLines {c : Nat} (none : ∀ r ∈ s.hbm.deferred, r.chan ≠ some c) : (s.hbm.deferred.any fun r => r.chan == some c) = false := by
  rw [List.any_eq_false]
  intro r listed
  simpa using none r listed

theorem loadEnd_cost (held : o.held = none) (none : ∀ r ∈ s.hbm.deferred, r.chan ≠ some ch.val) : loadEnd s ch o = o.began + o.cost := by
  rw [loadEnd, noLines none, held]
  simp [maxNat]

theorem loadEnd_held {h : Nat} (held : o.held = some h) (none : ∀ r ∈ s.hbm.deferred, r.chan ≠ some ch.val) :
    loadEnd s ch o = max (o.began + o.cost) h := by
  rw [loadEnd, noLines none, held]
  simp [maxNat]

/-! ### What its end leaves (R91, R105) -/

/-- The state in which a descriptor of a running step has its effect. -/
def loadPopped (s : State) (ch cy : Nat) (o : LoadOp) : State := { serveTo (runBase s o.slot + cy) s with
  blk := { s.blk with channels := tput s.blk.channels ch none }
  hbm := { s.hbm with deferred := s.hbm.deferred.filter fun r => r.chan != some ch } }

theorem channelOp_loadPopped (cy c : Nat) : channelOp (loadPopped s ch cy o) c = if c = ch.val then none else channelOp s c := tget_tput ..

theorem completeLoad_waits {act : Nat → LoadOp → State → State} (on : channelOp s ch = some o) (waits : loadWaits s ch o = true) (code : o.code = 0) :
    completeLoad ch false act s = s := by
  have held : ((o.code != 0) != false || !coreRuns s || (!false && loadWaits s ch o)) = true := by rw [waits, code]; simp
  rw [completeLoad, on]
  exact if_pos held

theorem completeLoad_ends {reject : Bool} {act : Nat → LoadOp → State → State} (on : channelOp s ch = some o) (runs : coreRuns s = true)
    (state : (getJob s o.slot).state = 3) (active : (getJob s o.slot).run.active = true) (code : (o.code != 0) = reject)
    (room : reject = true ∨ loadWaits s ch o = false) :
    completeLoad ch reject act s = act (loadEnd s ch o) o (loadPopped s ch (loadEnd s ch o) o) := by
  have free : ((o.code != 0) != reject || !coreRuns s || (!reject && loadWaits s ch o)) = false := by
    rw [code, runs]
    rcases room with rfl | full
    · rfl
    · rw [full]; cases reject <;> rfl
  have lives : (stepLives s o.slot && (getJob s o.slot).run.active) = true := by
    rw [stepLives, state, active]
    rfl
  rw [completeLoad, on]
  dsimp only
  rw [free, lives, if_neg Bool.false_ne_true, if_pos rfl]
  have freed : setChannel ch none { s with hbm.deferred := s.hbm.deferred.filter fun r => r.chan != some ch.val } = { s with
    blk := { s.blk with channels := tput s.blk.channels ch none }
    hbm := { s.hbm with deferred := s.hbm.deferred.filter fun r => r.chan != some ch.val } } := rfl
  rw [freed, serveTo_blocks]
  rfl

/-- What the answer shows of a descriptor whose channel is free and whose status lands over some stores. -/
theorem load_answer {i : Instr} {n cy : Nat} {w : State} {ws : List (Nat × List Byte)} (given : Gives i s (landLoad o n cy w))
    (channels : w.blk.channels = (loadPopped s ch cy o).blk.channels)
    (mem : ∀ x, (∀ y ∈ ws, x < y.1 ∨ y.1 + y.2.length ≤ x) → memGet w.mem x = memGet (serveTo (runBase s o.slot + cy) s).mem x) :
    ∃ s', exec i s = .next s' ∧ (channelOp s' ch = none ∧ ∀ c, c ≠ ch.val → channelOp s' c = channelOp s c) ∧
      (∀ a, o.dst = some a → memNat s'.mem a 8 = (min n (2 ^ 32 - 1) * 2 ^ 32 + o.code) % 2 ^ 64 ∧ tget 0 (getTp s' o.tp).ready a = cy) ∧
      s'.blk = w.blk ∧ ∀ x, OutsideOf ws o.dst x → memGet s'.mem x = memGet (serveTo (runBase s o.slot + cy) s).mem x := by
  obtain ⟨s', answers, -, word, -, blk, -, rest⟩ := landed_answer (PostsOnly.refl _) given
  have channel (c : Nat) : channelOp s' c = if c = ch.val then none else channelOp s c := by
    rw [← channelOp_loadPopped (o := o) cy c, channelOp, channelOp, blk, channels]
  refine ⟨s', answers, ⟨?_, fun c other => ?_⟩, word, blk, fun x out => ?_⟩
  · rw [channel, if_pos rfl]
  · rw [channel, if_neg other]
  · obtain ⟨stores, register⟩ := out
    rw [rest x register, mem x stores]

theorem loadDone_eq {cy : Nat} (sound : s.ecc.badLines = []) (fixed : (localLd s (readLd s.mem o.desc)).oob < 2) :
    ∃ k, loadDone cy o s = landLoad o (ldCount (ldPoints s.mem (localLd s (readLd s.mem o.desc)))) cy
      (storeAll (ldStores s.mem (localLd s (readLd s.mem o.desc)) (o.mode == 2) (localLd s (readLd s.mem o.desc)).fill) { s with flt.eccCor := k }) := by
  unfold loadDone blockReads
  dsimp only
  rw [lineReads_sound sound, decide_eq_false (Nat.not_le_of_lt fixed)]
  exact ⟨_, rfl⟩

theorem loaderComplete_answer (on : channelOp s ch = some o) (runs : coreRuns s = true)
    (state : (getJob s o.slot).state = 3) (active : (getJob s o.slot).run.active = true) (code : o.code = 0) (room : loadWaits s ch o = false)
    (sound : s.ecc.badLines = []) :
    let cy := loadEnd s ch o
    let u := serveTo (runBase s o.slot + cy) s
    let d := localLd u (readLd u.mem o.desc)
    let ws := ldStores u.mem d (o.mode == 2) d.fill
    d.oob < 2 →
    ∃ s', exec (.loaderDescriptorComplete ch) s = .next s' ∧ (channelOp s' ch = none ∧ ∀ c, c ≠ ch.val → channelOp s' c = channelOp s c) ∧
      (∀ a, o.dst = some a → memNat s'.mem a 8 = (min (ldCount (ldPoints u.mem d)) (2 ^ 32 - 1) * 2 ^ 32 + o.code) % 2 ^ 64 ∧
        tget 0 (getTp s' o.tp).ready a = cy) ∧ ∀ x, OutsideOf ws o.dst x → memGet s'.mem x = memGet u.mem x := by
  intro cy u d ws fixed
  have same : localLd (loadPopped s ch cy o) (readLd (loadPopped s ch cy o).mem o.desc) = d := rfl
  obtain ⟨k, done⟩ := loadDone_eq (s := loadPopped s ch cy o) (cy := cy) (serveTo_badLines _ sound) fixed
  have given : Gives (.loaderDescriptorComplete ch) s (loadDone cy o (loadPopped s ch cy o)) :=
    gives_run _ _ (execLoaderDescriptorComplete.eq_1 ch s) (completeLoad_ends on runs state active (by rw [code]; rfl) (.inr room))
  rw [done] at given
  have stored := bytesOnly_storeAll ws { loadPopped s ch cy o with flt.eccCor := k }
  obtain ⟨s', answers, free, word, -, rest⟩ := load_answer (ch := ch) (ws := ws) given (congrArg Blocks.channels stored.blk)
    fun x out => storeAll_outside ws _ out
  exact ⟨s', answers, free, word, rest⟩

theorem loaderReject_answer (on : channelOp s ch = some o) (runs : coreRuns s = true)
    (state : (getJob s o.slot).state = 3) (active : (getJob s o.slot).run.active = true) (code : o.code ≠ 0) :
    let cy := loadEnd s ch o
    let u := serveTo (runBase s o.slot + cy) s
    ∃ s', exec (.loaderReject ch) s = .next s' ∧ (channelOp s' ch = none ∧ ∀ c, c ≠ ch.val → channelOp s' c = channelOp s c) ∧
      (∀ a, o.dst = some a → memNat s'.mem a 8 = (min 0 (2 ^ 32 - 1) * 2 ^ 32 + o.code) % 2 ^ 64 ∧ tget 0 (getTp s' o.tp).ready a = cy) ∧
      s'.blk.rejects = s.blk.rejects + 1 ∧ ∀ x, OutsideOf [] o.dst x → memGet s'.mem x = memGet u.mem x := by
  intro cy u
  generalize hp : pl1 o.tp ++ pl1 ch.val ++ pl1 o.code = told
  have given : Gives (.loaderReject ch) s (landLoad o 0 cy (post 0x0A 1 1 told
      { loadPopped s ch cy o with blk.rejects := (loadPopped s ch cy o).blk.rejects + 1 })) := by
    rw [← hp]
    exact gives_run _ _ (execLoaderReject.eq_1 ch s) (completeLoad_ends on runs state active (by simpa using code) (.inl rfl))
  obtain ⟨s', answers, free, word, blk, rest⟩ := load_answer (ch := ch) (ws := []) given rfl fun x _ => rfl
  exact ⟨s', answers, free, word, by rw [blk]; rfl, rest⟩

end

/-- Settles O22, by what waits on a channel, by `loaderComplete_answer` and by `loaderReject_answer`. -/
theorem loaderChannels : Obligations.LoaderChannels := by
  intro ch s o on runs state active cy u d ws free status
  refine ⟨loadEnd_cost, fun _ => loadEnd_held, fun code waits => ?_, fun code room sound => ?_, fun code => ?_⟩
  · exact gives_run _ _ (execLoaderDescriptorComplete.eq_1 ch s) (completeLoad_waits on waits code)
  · exact loaderComplete_answer on runs state active code room sound
  · exact loaderReject_answer on runs state active code

end Sys2Proof.Machine
end

section
/-! PROOFS. What a fault leaves of the ring's neighbours and of remote accesses (R53, R72, R190): no neighbour fails or recovers, and
accesses only end. -/

namespace Sys2Proof.Machine

/-- Neither the ring nor the net has changed. -/
def Still (s t : State) : Prop := t.ring = s.ring ∧ t.net = s.net

theorem Still.refl (s : State) : Still s s := ⟨rfl, rfl⟩

theorem Still.trans {s t u : State} (h : Still s t) (h' : Still t u) : Still s u := ⟨h'.1.trans h.1, h'.2.trans h.2⟩

theorem Still.after {s t u : State} (h : Still t u) (h' : Still s t) : Still s u := h'.trans h

theorem Still.ite {c : Prop} [Decidable c] {s t u : State} (ht : Still s t) (hu : Still s u) : Still s (if c then t else u) := by
  split
  · exact ht
  · exact hu

theorem Still.foldl {β : Type} (g : State → β → State) (hg : ∀ s x, Still s (g s x)) (xs : List β) (s : State) : Still s (xs.foldl g s) := by
  induction xs generalizing s with
  | nil => exact .refl s
  | cons x xs ih => exact (hg s x).trans (ih _)

theorem still_modJob (j : Nat) (f : Job → Job) (s : State) : Still s (modJob j f s) := ⟨rfl, rfl⟩
theorem still_modPart (p : Nat) (f : Part → Part) (s : State) : Still s (modPart p f s) := ⟨rfl, rfl⟩
theorem still_modStm (p : Nat) (f : Stm → Stm) (s : State) : Still s (modStm p f s) := ⟨rfl, rfl⟩
theorem still_post (src code sev : Nat) (p : List Byte) (s : State) : Still s (post src code sev p s) := ⟨rfl, rfl⟩
theorem still_zeroTps (mask : Nat) (s : State) : Still s (zeroTps mask s) := ⟨rfl, rfl⟩
theorem still_makeRunning (j : Nat) (s : State) : Still s (makeRunning j s) := ⟨rfl, rfl⟩

theorem still_bringIn (p : Nat) (out inc : Option Nat) (lines : Nat) (due : Option Nat) (s : State) : Still s (bringIn p out inc lines due s) := by
  have begins (p j mask : Nat) : Still s (switchEvent p out inc lines 0 (beginRun p j (zeroTps mask s))) :=
    (still_post ..).after ((still_modPart ..).after ((still_makeRunning ..).after (still_zeroTps ..)))
  unfold bringIn
  split
  · exact (still_post ..).after (still_modPart ..)
  · split
    · exact .ite (begins ..) (still_modPart ..)
    · exact begins ..

theorem still_startNext (p : Nat) (out : Option Nat) (s : State) : Still s (startNext p out s) := by
  refine .ite (.refl s) ?_
  split
  · exact .ite (.refl s) (still_bringIn ..)
  · exact .refl s

theorem still_ringNext (p j : Nat) (x : Job) (s : State) : Still s (ringNext p j x s) :=
  .ite ((still_startNext ..).after (still_modStm ..)) (still_startNext ..)

theorem still_grantUnits (k : Nat) (s : State) : Still s (grantUnits k s) := by
  induction k generalizing s with
  | zero => exact .refl s
  | succ k ih =>
    rw [grantUnits]
    dsimp only
    split
    · exact .ite ((ih _).after ((still_modJob ..).after (still_makeRunning ..))) (.refl s)
    · exact .refl s

theorem still_overrunEvent (t tile len slip : Nat) (faulted : Bool) (s : State) : Still s (overrunEvent t tile len slip faulted s) := ⟨rfl, rfl⟩

theorem still_reportOverruns (j : Nat) (s : State) : Still s (reportOverruns j s) := by
  refine .foldl _ (fun t x => ?_) _ _
  split
  · refine .ite ?_ (.refl t)
    split
    · exact still_overrunEvent ..
    · exact .refl t
  · exact .refl t

theorem still_chargeStep (j : Nat) (committed : Bool) (s : State) : Still s (chargeStep j committed s) := by
  obtain ⟨t, only, charged⟩ := chargeStep_eq j committed s
  rw [charged]
  exact (still_modJob ..).after ⟨(congrArg State.ring only :), (congrArg State.net only :)⟩

theorem still_chargeAttempt (j : Nat) (s : State) : Still s (chargeAttempt j s) := .ite (still_modJob ..) (.refl s)
theorem still_haltJob (j : Nat) (s : State) : Still s (haltJob j s) := ⟨rfl, rfl⟩
theorem still_telBound (p : Nat) (s : State) : Still s (telBound p s) := ⟨rfl, rfl⟩
theorem still_abandonCulture (j : Nat) (s : State) : Still s (abandonCulture j s) := ⟨rfl, rfl⟩
theorem still_releaseLocks (p : Nat) (replay : Bool) (s : State) : Still s (releaseLocks p replay s) := ⟨rfl, rfl⟩
theorem still_skipPut (n a : Nat) (bs : List Byte) (s : State) : Still s (skipFree n (putMem a bs s)) := ⟨rfl, rfl⟩

/-- No neighbour has failed or recovered, and no remote access is new. -/
def Narrows (s t : State) : Prop := t.ring.fwd.failed = s.ring.fwd.failed ∧ t.ring.bwd.failed = s.ring.bwd.failed ∧
  ∀ x ∈ t.net.remotes, x ∈ s.net.remotes

theorem Narrows.refl (s : State) : Narrows s s := ⟨rfl, rfl, fun _ h => h⟩

theorem Narrows.trans {s t u : State} (h : Narrows s t) (h' : Narrows t u) : Narrows s u := by
  obtain ⟨fwd, bwd, fewer⟩ := h
  obtain ⟨fwd', bwd', fewer'⟩ := h'
  exact ⟨fwd'.trans fwd, bwd'.trans bwd, fun x hx => fewer x (fewer' x hx)⟩

theorem Narrows.after {s t u : State} (h : Narrows t u) (h' : Narrows s t) : Narrows s u := h'.trans h

theorem Narrows.ite {c : Prop} [Decidable c] {s t u : State} (ht : Narrows s t) (hu : Narrows s u) : Narrows s (if c then t else u) := by
  split
  · exact ht
  · exact hu

theorem Still.narrows {s t : State} (h : Still s t) : Narrows s t := by
  obtain ⟨ring, net⟩ := h
  rw [Narrows, ring, net]
  exact ⟨rfl, rfl, fun _ h => h⟩

theorem narrows_dropWork (j : Nat) (s : State) : Narrows s (dropWork j s) := by
  have served : Still s (serveJob j s) := by
    rw [serveJob, serveVat_rest]
    exact ⟨rfl, rfl⟩
  have freed : Still s (freeMatrix (walkedTps s j) (serveJob j s)) := (Still.foldl _ (fun _ _ => still_skipPut ..) _ _).after served
  unfold dropWork
  generalize freeMatrix (walkedTps s j) (serveJob j s) = t at freed
  have left (bs : List (Nat × List BlockOp)) (ds : List HbmReq) : Narrows t { t with
      blk.queues := bs, hbm.deferred := ds, net.remotes := t.net.remotes.filter fun r => r.slot != j } :=
    ⟨rfl, rfl, fun x hx => (List.mem_filter.1 hx).1⟩
  exact (left _ _).after freed.narrows

theorem narrows_endAttempts (s : State) : Narrows s (endAttempts s) := ⟨rfl, rfl, fun _ h => h⟩

/-- A fault fails no neighbour and begins no remote access. -/
theorem narrows_faultJob (j : Nat) (s : State) : Narrows s (faultJob j s) := by
  have started (f : Job → Job) : Narrows s (reportOverruns j (modJob j f s)) := ((still_reportOverruns ..).after (still_modJob ..)).narrows
  have ended {t u : State} (p : Nat) (h : Narrows s t) (h' : Narrows t u) : Narrows s
      (telBound p (abandonCulture j (dropWork j (haltJob j (chargeStep j false (chargeAttempt j u)))))) :=
    ((still_telBound ..).after (still_abandonCulture ..)).narrows.after ((narrows_dropWork ..).after
      (((still_haltJob ..).after ((still_chargeStep ..).after (still_chargeAttempt ..))).narrows.after (h.trans h')))
  have faulted {u : State} (h : Narrows s u) (f : Job → Job) (p : Nat) (serving : Bool) :
      Narrows s (modJob j f (if serving then releaseLocks p true u else u)) :=
    (still_modJob ..).narrows.after (.ite ((still_releaseLocks ..).narrows.after h) h)
  refine .ite (.refl s) (.ite (.ite ?_ ?_) ?_)
  · refine ((still_ringNext ..).after (still_modPart ..)).narrows.after (faulted (ended _ (started _) (.ite (narrows_endAttempts _) (.refl _))) _ _ _)
  · refine ((still_startNext ..).after (still_modPart ..)).narrows.after (faulted (ended _ (started _) (.ite (narrows_endAttempts _) (.refl _))) _ _ _)
  · refine (still_grantUnits ..).narrows.after (faulted (ended _ (started _) (.ite (narrows_endAttempts _) (.refl _))) _ _ _)

/-- The ring after a step's end: the digests are past, and the Culture is no longer frozen (R203, R206). -/
def endedRing (r : RingSt) : RingSt := { r with
  digStat := r.digStat % 2 ^ 19, fwd := { r.fwd with digest := none }, bwd := { r.bwd with digest := none } }

theorem dropWork_ring (j : Nat) (s : State) : (dropWork j s).ring = s.ring := (stepOnly_dropWork j s).ring

/-- What a fault makes of the ring: a ring job's step is over. -/
theorem faultJob_ring {j : Nat} {s : State} (lives : stepLives s j = true) :
    (faultJob j s).ring = if jobRing (getJob s j) then endedRing s.ring else s.ring := by
  unfold faultJob
  rw [lives]
  simp only [Bool.not_true, Bool.false_eq_true, if_false]
  generalize hs0 : reportOverruns j _ = s0
  have r0 : s0.ring = s.ring := by rw [← hs0]; exact ((still_reportOverruns ..).after (still_modJob ..)).1
  generalize hs1 : chargeStep j false _ = s1
  have r1 : s1.ring = if jobRing (getJob s j) then endedRing s.ring else s.ring := by
    rw [← hs1, ((still_chargeStep ..).after (still_chargeAttempt ..)).1, ← r0]
    split <;> rfl
  rw [← r1]
  generalize hs2 : telBound _ _ = s2
  have r2 : s2.ring = s1.ring := by
    rw [← hs2, ((still_telBound ..).after (still_abandonCulture ..)).1, dropWork_ring]
    rfl
  generalize hs4 : modJob j _ _ = s4
  have r4 : s4.ring = s1.ring := by
    rw [← hs4, ← r2]
    exact ((still_modJob ..).after (.ite (still_releaseLocks ..) (.refl _))).1
  rw [← r4]
  split
  · split
    · exact ((still_ringNext ..).after (still_modPart ..)).1
    · exact ((still_startNext ..).after (still_modPart ..)).1
  · exact (still_grantUnits ..).1

theorem narrows_holdRing (p : Nat) (s : State) : Narrows s (holdRing p s) := Still.narrows ⟨rfl, rfl⟩

theorem narrows_failColl (j prog : Nat) (s : State) : Narrows s (failColl j prog s) := by
  have noted : Narrows s { s with ring.collFail := s.ring.collFail + 1, ring.fenceFail := false } := ⟨rfl, rfl, fun _ h => h⟩
  exact (narrows_faultJob ..).after ((narrows_holdRing ..).after ((still_post ..).narrows.after noted))

theorem narrows_failAllColls (s : State) : Narrows s (failAllColls s) := by
  unfold failAllColls
  split
  · exact .refl s
  · split
    · exact narrows_failColl ..
    · exact ⟨rfl, rfl, fun _ h => h⟩

/-- The fence of a chip fails no neighbour by itself. -/
theorem fenceChip_failed (x reason hops origin : Nat) (from_ : Option Nat) (s : State) :
    (fenceChip x reason hops origin from_ s).ring.fwd.failed = s.ring.fwd.failed ∧
    (fenceChip x reason hops origin from_ s).ring.bwd.failed = s.ring.bwd.failed := by
  have sent (cs : List Nat) (g : Nat → Nat) (t : State) : SendsOnly t (cs.foldl (fun t c => sendNotice c (g c) t) t) :=
    .foldl _ (fun _ _ => sendsOnly_sendNotice ..) _ _
  unfold fenceChip
  split
  · exact ⟨rfl, rfl⟩
  · dsimp only
    generalize ht : (post 0x0B 3 1 (pl2 x ++ pl1 reason ++ pl1 hops) _ : State) = t
    have ring : t.ring = s.ring := by rw [← ht]; rfl
    have failed := narrows_failAllColls t
    rw [Narrows, ring] at failed
    obtain ⟨fwd, bwd, -⟩ := failed
    split
    · have ring' := (sent ((neighbours s).eraseDups.filter fun c => c != x && some c != from_) (fun _ => fenceArg 1 reason hops origin x) (failAllColls t)).keeps
        State.ring fun _ _ _ _ => rfl
      rw [ring']
      exact ⟨fwd, bwd⟩
    · exact ⟨fwd, bwd⟩

end Sys2Proof.Machine
end

section
/-! PROOFS. Beats and swings, refresh windows, heartbeats missed, deferred HBM lines and lost remote accesses (R14, R33 to R37, R72, R190, R301). -/

namespace Sys2Proof.Machine

/-- What every step of a fold leaves is left by the fold. -/
theorem foldl_keeps {α β : Type} (k : State → α) {g : State → β → State} (hg : ∀ s x, k (g s x) = k s) (xs : List β) (s : State) :
    k (xs.foldl g s) = k s := by
  induction xs generalizing s with
  | nil => rfl
  | cons x xs ih => exact (ih _).trans (hg s x)

/-- A table whose values are changed by key, read through what the change leaves. -/
theorem tget_map_keeps {α β : Type} (d : α) (f : Nat → α → α) (k : α → β) (hk : ∀ n x, k (f n x) = k x) (t : Table α) (n : Nat) :
    k (tget d (t.map fun e => (e.1, f e.1 e.2)) n) = k (tget d t n) := by
  induction t with
  | nil => rfl
  | cons e t ih =>
    simp only [List.map_cons, tget]
    split
    · exact hk ..
    · exact ih

/-- What the default and every changed value have, every value of the table has. -/
theorem tget_map_all {α : Type} (d : α) (f : Nat → α → α) (P : α → Prop) (hd : P d) (hf : ∀ n x, P (f n x)) (t : Table α) (n : Nat) :
    P (tget d (t.map fun e => (e.1, f e.1 e.2)) n) := by
  induction t with
  | nil => exact hd
  | cons e t ih =>
    simp only [List.map_cons, tget]
    split
    · exact hf ..
    · exact ih

section
variable {s : State}

/-! ### Boundaries (R14, R301) -/

/-- Fleet time comes to a boundary, or has passed it. -/
theorem advanceTo_boundary (m last : Nat) (pos : 0 < m) (s : State) : ∃ (c : Clock) (up : Nat),
    advanceTo (nextBoundary m last s.clk.fleet) s = { s with clk := c, upNs := up } ∧ c.beats = s.clk.beats ∧ c.swings = s.clk.swings ∧
    c.fleet = if last < s.clk.fleet / m * m then s.clk.fleet else (s.clk.fleet / m + 1) * m := by
  rw [nextBoundary]
  split
  · rw [advanceTo, if_pos (Nat.div_mul_le_self ..)]
    exact ⟨s.clk, s.upNs, rfl, rfl, rfl, rfl⟩
  · rw [advanceTo, if_neg (Nat.not_le_of_lt (nextMultiple_spec s.clk.fleet pos).2.1)]
    exact ⟨_, _, rfl, rfl, rfl, rfl⟩

/-! ### Beats (R34, R37) -/

/-- The machine at a beat boundary, before the deferred lines and the claims of the new beat are served. -/
def beatState (c : Clock) (up : Nat) (s : State) : State :=
  let s1 := countBeat { s with clk := c, upNs := up }
  { s1 with
    clk := { s1.clk with beats := s1.clk.beats + 1, beatAt := s1.clk.fleet }
    hbm := { s1.hbm with carry := carryLines s1, use := [], useAll := [] }
    links := s1.links.map fun x => (x.1, freshBeat x.2) }

/-- The new beat's lines served, and the waits that are late faulted. -/
def servedBeat (rs : List HbmReq) (b : State) : State :=
  lateWaits ((upFrom 0 8).foldl (fun s p => feedSwitch p s) ((upFrom 0 16).foldl (fun s ch => feedChannel ch s) (rs.foldl reServe b)))

theorem gives_beatTick {c : Clock} {up : Nat} (awake : s.pwr.state ≠ .dormant)
    (moved : advanceTo (nextBoundary 1000 s.clk.beatAt s.clk.fleet) s = { s with clk := c, upNs := up }) :
    Gives .beatTick s (servedBeat s.hbm.deferred (beatState c up s)) := by
  refine gives_run _ _ (execBeatTick.eq_1 s) ?_
  rw [onEsc, if_neg (by simpa using awake)]
  dsimp only
  rw [moved]
  rfl

theorem reServe_clk (s : State) (r : HbmReq) : (reServe s r).clk = s.clk := by
  unfold reServe
  dsimp only
  split
  · rfl
  · split <;> rfl

theorem addDeferred_clk (r : HbmReq) (s : State) : (addDeferred r s).clk = s.clk := by
  unfold addDeferred deferLines
  exact foldl_keeps State.clk (fun _ _ => post_clk ..) _ _

theorem feedChannel_clk (ch : Nat) (s : State) : (feedChannel ch s).clk = s.clk := by
  unfold feedChannel
  split
  · rfl
  · dsimp only
    split
    · rfl
    · exact (addDeferred_clk ..).trans rfl

theorem feedSwitch_clk (p : Nat) (s : State) : (feedSwitch p s).clk = s.clk := by
  unfold feedSwitch
  split <;> rfl

theorem workOnly_lateWait (t : Nat) (s : State) : WorkOnly s (lateWait t s) := by
  unfold lateWait
  dsimp only
  split
  · exact .ite ((workOnly_faultJob ..).after (workOnly_instrFaultEvent ..)) (.refl s)
  · exact .refl s

theorem servedBeat_clk (rs : List HbmReq) (b : State) : (servedBeat rs b).clk = b.clk := by
  have waits (t : State) : WorkOnly t (lateWaits t) := .foldl _ (fun _ _ => workOnly_lateWait ..) _ _
  rw [servedBeat, (waits _).clk, foldl_keeps State.clk (fun _ _ => feedSwitch_clk ..), foldl_keeps State.clk (fun _ _ => feedChannel_clk ..),
    foldl_keeps State.clk reServe_clk]

theorem feedChannel_none {ch : Nat} (none : channelOp s ch = none) : feedChannel ch s = s := by rw [feedChannel, none]

theorem feedSwitch_none {p : Nat} (none : (getPart s p).sw = none) : feedSwitch p s = s := by
  unfold feedSwitch
  rw [none]
  split
  · next h => cases h
  · rfl

theorem lateWait_free {t : Nat} (free : (getTp s t).nest = []) : lateWait t s = s := by
  have open_ : deadline (getTp s t) = none := by rw [deadline, free]; rfl
  unfold lateWait
  dsimp only
  rw [open_]
  split
  · next h => cases h
  · rfl

/-- Where nothing of HBM is under way and no TP is inside an arm or body, a beat serves nothing. -/
theorem servedBeat_idle (channels : s.blk.channels = []) (still : ∀ p, (getPart s p).sw = none) (free : ∀ t, (getTp s t).nest = []) :
    servedBeat [] s = s := by
  have none_ (ch : Nat) : channelOp s ch = none := by rw [channelOp, channels]; rfl
  rw [servedBeat, List.foldl_nil, foldl_fixed _ _ s fun ch _ => feedChannel_none (none_ ch), foldl_fixed _ _ s fun p _ => feedSwitch_none (still p)]
  exact foldl_fixed _ _ s fun t _ => lateWait_free (free t)

theorem beatState_sw (c : Clock) (up p : Nat) (s : State) : (getPart (beatState c up s) p).sw = (getPart s p).sw :=
  tget_map_keeps ({} : Part) (fun n y => { y with
    full := if fullBeat { s with clk := c, upNs := up } n then y.full + 1 else y.full
    busy := if busyBeat { s with clk := c, upNs := up } n then y.busy + 1 else y.busy
    beatCy := partCycle { s with clk := c, upNs := up } n }) Part.sw (fun _ _ => rfl) s.parts p

theorem beatState_link (c : Clock) (up n : Nat) (s : State) : (getLink (beatState c up s) n).sBeat = 0 ∧ (getLink (beatState c up s) n).uBeat = 0 ∧
    (getLink (beatState c up s) n).qS = (getLink s n).qS :=
  ⟨tget_map_all ({} : Link) (fun _ => freshBeat) (·.sBeat = 0) rfl (fun _ _ => rfl) s.links n,
   tget_map_all ({} : Link) (fun _ => freshBeat) (·.uBeat = 0) rfl (fun _ _ => rfl) s.links n,
   tget_map_keeps ({} : Link) (fun _ => freshBeat) Link.qS (fun _ _ => rfl) s.links n⟩

theorem beatTick_answer (awake : s.pwr.state ≠ .dormant) : ∃ s', exec .beatTick s = .next s' ∧ s'.clk.beats = s.clk.beats + 1 ∧
    s'.clk.fleet = (if s.clk.beatAt < s.clk.fleet / 1000 * 1000 then s.clk.fleet else (s.clk.fleet / 1000 + 1) * 1000) ∧
    (s.hbm.deferred = [] → s.blk.channels = [] → (∀ p, (getPart s p).sw = none) → (∀ t, (getTp s t).nest = []) →
      s'.hbm.use = [] ∧ s'.hbm.useAll = [] ∧ s'.mem = s.mem ∧ s'.tps = s.tps ∧ s'.jobs = s.jobs ∧
      ∀ n, (getLink s' n).sBeat = 0 ∧ (getLink s' n).uBeat = 0 ∧ (getLink s' n).qS = (getLink s n).qS) := by
  obtain ⟨c, up, moved, beats, -, fleet⟩ := advanceTo_boundary 1000 s.clk.beatAt (by decide) s
  have given := gives_beatTick awake moved
  have clk := servedBeat_clk s.hbm.deferred (beatState c up s)
  have idle : s.hbm.deferred = [] → s.blk.channels = [] → (∀ p, (getPart s p).sw = none) → (∀ t, (getTp s t).nest = []) →
      servedBeat s.hbm.deferred (beatState c up s) = beatState c up s := by
    intro deferred channels still free
    rw [deferred]
    exact servedBeat_idle channels (fun p => (beatState_sw c up p s).trans (still p)) free
  have links := fun n => beatState_link c up n s
  have kept : (beatState c up s).hbm.use = [] ∧ (beatState c up s).hbm.useAll = [] ∧ (beatState c up s).mem = s.mem ∧
      (beatState c up s).tps = s.tps ∧ (beatState c up s).jobs = s.jobs ∧ (beatState c up s).clk.beats = c.beats + 1 ∧
      (beatState c up s).clk.fleet = c.fleet := ⟨rfl, rfl, rfl, rfl, rfl, rfl, rfl⟩
  obtain ⟨use, useAll, mem, tps, jobs, beatsB, fleetB⟩ := kept
  generalize beatState c up s = b at *
  generalize servedBeat s.hbm.deferred b = w at *
  have time : ({ collect w with pending := s.pending } : State).clk = b.clk := (collect_clk w).trans clk
  refine ⟨_, given, ?_, ?_, fun deferred channels still free => ?_⟩
  · rw [time, beatsB, beats]
  · rw [time, fleetB, fleet]
  · have same := idle deferred channels still free
    rw [same] at given ⊢
    have hbm : ({ collect b with pending := s.pending } : State).hbm = b.hbm := collect_hbm b
    have link (n : Nat) : getLink { collect b with pending := s.pending } n = getLink b n :=
      congrArg (fun ls => tget ({} : Link) ls n) (collect_links b)
    refine ⟨?_, ?_, (collect_mem b).trans mem, (collect_tps b).trans tps, (collect_jobs b).trans jobs, fun n => ?_⟩
    · rw [hbm, use]
    · rw [hbm, useAll]
    · rw [link]
      exact links n

/-! ### Refresh windows (R33) -/

/-- The next refresh window is one of its group's, and not before the present instant. -/
theorem nextRefresh_spec {t0 : Nat} (inited : s.hbm.refFrom = some t0) : ∃ t g k, nextRefresh s = some (t, g) ∧ g < 16 ∧
    t = t0 + 243 * g + 3900 * k ∧ s.upNs ≤ t := by
  rw [nextRefresh, inited]
  generalize (if s.hbm.refreshes = 0 then 0 else s.hbm.refAt + 1) = last
  dsimp only [Option.map_some]
  generalize hf : max (max s.upNs t0) last = from_
  have after : s.upNs ≤ from_ ∧ t0 ≤ from_ := by omega
  obtain ⟨now, started⟩ := after
  have split : 3900 * ((from_ - t0) / 3900) + (from_ - t0) % 3900 = from_ - t0 := Nat.div_add_mod ..
  have inside : (from_ - t0) % 3900 < 3900 := Nat.mod_lt _ (by decide)
  generalize (from_ - t0) / 3900 = k at *
  have rem : from_ - t0 - 3900 * k = (from_ - t0) % 3900 := by omega
  rw [rem]
  generalize (from_ - t0) % 3900 = r at *
  have covers : r ≤ 243 * cdiv r 243 := by rw [cdiv]; omega
  split
  · next small => exact ⟨_, _, k, rfl, small, by omega, by omega⟩
  · exact ⟨_, _, k + 1, rfl, by decide, by omega, by omega⟩

theorem hbmRefresh_answer {t0 : Nat} (inited : s.hbm.refFrom = some t0) : ∃ s' k, exec .hbmRefresh s = .next s' ∧
    s'.hbm.refreshes = s.hbm.refreshes + 1 ∧ s'.hbm.refGroup < 16 ∧ s'.hbm.refAt = t0 + 243 * s'.hbm.refGroup + 3900 * k ∧
    s.upNs ≤ s'.hbm.refAt ∧ s'.upNs = s'.hbm.refAt ∧ s'.mem = s.mem ∧ s'.tps = s.tps ∧ s'.jobs = s.jobs := by
  obtain ⟨t, g, k, next, group, window, later⟩ := nextRefresh_spec inited
  obtain ⟨c, moved⟩ : ∃ c, passNs (t - s.upNs) s = { s with clk := c, upNs := t } := by
    rw [passNs, advanceTo]
    split
    · have now : s.upNs = t := by omega
      exact ⟨s.clk, by rw [← now]⟩
    · have up : s.upNs + (s.clk.fleet + (t - s.upNs) - s.clk.fleet) = t := by omega
      exact ⟨_, by rw [up]⟩
  have given : Gives .hbmRefresh s { s with
      clk := c, upNs := t, hbm := { s.hbm with refreshes := s.hbm.refreshes + 1, refGroup := g, refAt := t } } := by
    refine gives_run _ _ (execHbmRefresh.eq_1 s) ?_
    rw [next]
    dsimp only
    rw [moved]
  generalize hw : ({ s with
      clk := c, upNs := t, hbm := { s.hbm with refreshes := s.hbm.refreshes + 1, refGroup := g, refAt := t } } : State) = w at given
  have hbm : ({ collect w with pending := s.pending } : State).hbm = w.hbm := collect_hbm w
  have up : ({ collect w with pending := s.pending } : State).upNs = w.upNs := collect_upNs w
  have kept : w.hbm = { s.hbm with refreshes := s.hbm.refreshes + 1, refGroup := g, refAt := t } ∧ w.upNs = t ∧ w.mem = s.mem ∧ w.tps = s.tps ∧
      w.jobs = s.jobs := by rw [← hw]; exact ⟨rfl, rfl, rfl, rfl, rfl⟩
  obtain ⟨hbmW, upW, mem, tps, jobs⟩ := kept
  rw [hbmW] at hbm
  refine ⟨_, k, given, ?_, ?_, ?_, ?_, ?_, (collect_mem w).trans mem, (collect_tps w).trans tps, (collect_jobs w).trans jobs⟩
  · rw [hbm]
  · rw [hbm]; exact group
  · rw [hbm]; exact window
  · rw [hbm]; exact later
  · rw [hbm, up]; exact upW

theorem hbmRefresh_none (off : s.hbm.refFrom = none) : Gives .hbmRefresh s s := by
  have none_ : nextRefresh s = none := by rw [nextRefresh, off]; rfl
  refine gives_run _ _ (execHbmRefresh.eq_1 s) ?_
  rw [none_]

/-! ### Swings (R190) -/

/-- The machine at a swing boundary. -/
def swingState (c : Clock) (up : Nat) (s : State) : State := { s with
  clk := { c with swings := c.swings + 1, swingAt := c.fleet }, upNs := up, stms := s.stms.map fun x => (x.1, { x.2 with idle := false }) }

/-- A swing boundary on a ring: the misses counted. -/
def missedState (w : State) : State := { w with ring := { w.ring with fwd := countMiss w.ring.fwd, bwd := countMiss w.ring.bwd } }

theorem gives_swingTick {c : Clock} {up : Nat} (awake : s.pwr.state ≠ .dormant) (sound : s.ecc.badTables = [])
    (moved : advanceTo (nextBoundary 16000 s.clk.swingAt s.clk.fleet) s = { s with clk := c, upNs := up }) :
    Gives .swingTick s (if cfgVal s 0x0601 = 0 || !s.pwr.handedOver then swingState c up s
      else sendHeartbeats (stepVerdict (missedState (swingState c up s)))) := by
  refine gives_run _ _ (execSwingTick.eq_1 s) ?_
  rw [onEsc, if_neg (by simpa using awake), onTable_sound sound]
  dsimp only
  rw [moved]
  rfl

/-- Where no decision waits, a swing's heartbeats are sent and the verdict was sent once. -/
theorem sendHeartbeats_only {w : State} (open_ : w.ring.deciding = none) :
    ∃ t, SendsOnly w t ∧ sendHeartbeats (stepVerdict w) = { t with ring.verdict := none } := by
  have waits : stepVerdict w = w := by
    rw [stepVerdict, open_]
  rw [waits, sendHeartbeats]
  generalize heartbeatArg w = arg
  have sent : SendsOnly w ((neighbours w).eraseDups.foldl (fun t c => sendU 0x10 c arg [] t) w) := .foldl _ (fun _ _ => sendsOnly_sendU ..) _ _
  generalize (neighbours w).eraseDups.foldl (fun t c => sendU 0x10 c arg [] t) w = t at *
  have still : t.ring.deciding = none := (sent.keeps (·.ring.deciding) fun _ _ _ _ => rfl).trans open_
  exact ⟨t, sent, by rw [sentVerdict, still]⟩

theorem swingTick_answer (awake : s.pwr.state ≠ .dormant) (sound : s.ecc.badTables = []) (open_ : s.ring.deciding = none) :
    ∃ s', exec .swingTick s = .next s' ∧ s'.clk.swings = s.clk.swings + 1 ∧
      s'.clk.fleet = (if s.clk.swingAt < s.clk.fleet / 16000 * 16000 then s.clk.fleet else (s.clk.fleet / 16000 + 1) * 16000) ∧
      s'.mem = s.mem ∧ s'.tps = s.tps ∧ s'.jobs = s.jobs ∧
      (cfgVal s 0x0601 ≠ 0 → s.pwr.handedOver = true →
        s'.ring.fwd.misses = (if s.ring.fwd.seen then 0 else s.ring.fwd.misses + 1) ∧
        s'.ring.bwd.misses = (if s.ring.bwd.seen then 0 else s.ring.bwd.misses + 1) ∧
        s'.ring.fwd.seen = false ∧ s'.ring.bwd.seen = false) := by
  obtain ⟨c, up, moved, -, swings, fleet⟩ := advanceTo_boundary 16000 s.clk.swingAt (by decide) s
  have given := gives_swingTick awake sound moved
  generalize hz : (if (cfgVal s 0x0601 = 0 || !s.pwr.handedOver) = true then swingState c up s
      else sendHeartbeats (stepVerdict (missedState (swingState c up s)))) = z at given
  have own : z.clk = { c with swings := c.swings + 1, swingAt := c.fleet } ∧ z.mem = s.mem ∧ z.tps = s.tps ∧ z.jobs = s.jobs ∧
      (cfgVal s 0x0601 ≠ 0 → s.pwr.handedOver = true → z.ring.fwd = countMiss s.ring.fwd ∧ z.ring.bwd = countMiss s.ring.bwd) := by
    rw [← hz]
    split
    · next alone =>
      refine ⟨rfl, rfl, rfl, rfl, fun ring booted => absurd alone ?_⟩
      simp [ring, booted]
    · obtain ⟨t, sent, done⟩ := sendHeartbeats_only (w := missedState (swingState c up s)) open_
      rw [done]
      exact ⟨(sent.keeps State.clk fun _ _ _ _ => rfl :), (sent.keeps State.mem fun _ _ _ _ => rfl :), (sent.keeps State.tps fun _ _ _ _ => rfl :),
        (sent.keeps State.jobs fun _ _ _ _ => rfl :), fun _ _ => ⟨(sent.keeps (·.ring.fwd) fun _ _ _ _ => rfl :),
        (sent.keeps (·.ring.bwd) fun _ _ _ _ => rfl :)⟩⟩
  obtain ⟨clk, mem, tps, jobs, missed⟩ := own
  have time : ({ collect z with pending := s.pending } : State).clk = z.clk := collect_clk z
  have ring : ({ collect z with pending := s.pending } : State).ring = z.ring := collect_ring z
  refine ⟨_, given, ?_, ?_, (collect_mem z).trans mem, (collect_tps z).trans tps, (collect_jobs z).trans jobs, fun size booted => ?_⟩
  · rw [time, clk, swings]
  · rw [time, clk, fleet]
  · obtain ⟨fwd, bwd⟩ := missed size booted
    rw [ring, fwd, bwd]
    exact ⟨rfl, rfl, rfl, rfl⟩

theorem sideOf_modSide (n : Side) (f : Neighbour → Neighbour) (s : State) : sideOf (modSide n f s) n = f (sideOf s n) := by
  cases n <;> rfl

theorem sideOf_answer (p : List Instr) (u : State) (n : Side) : sideOf { collect u with pending := p } n = sideOf u n := by
  cases n
  · exact (congrArg (·.fwd) (collect_ring u) :)
  · exact (congrArg (·.bwd) (collect_ring u) :)

theorem heartbeatSuspect_answer {n : Side} (ring : cfgVal s 0x0601 ≠ 0) (alive : (sideOf s n).failed = false) (missed : 4 ≤ (sideOf s n).misses)
    (new : (sideOf s n).suspect = false) : ∃ s', exec (.heartbeatSuspect n) s = .next s' ∧ (sideOf s' n).suspect = true ∧ s'.flt.fences = s.flt.fences := by
  generalize hp : post (0x10 + sideLink s n) 6 1 (pl2 (sideChip s n)) s = t
  have side : sideOf t n = sideOf s n := by rw [← hp]; cases n <;> rfl
  have fences : t.flt.fences = s.flt.fences := by rw [← hp]; rfl
  have given : Gives (.heartbeatSuspect n) s (modSide n (fun y => { y with suspect := true }) t) := by
    refine gives_run _ _ (execHeartbeatSuspect.eq_1 n s) ?_
    dsimp only
    rw [if_pos (by simp [ring, missed, new, alive]), hp]
  have own := sideOf_modSide n (fun y => { y with suspect := true }) t
  have kept : (modSide n (fun y => { y with suspect := true }) t).flt = t.flt := by cases n <;> rfl
  generalize modSide n (fun y => { y with suspect := true }) t = w at *
  refine ⟨_, given, ?_, ?_⟩
  · rw [sideOf_answer, own]
  · rw [(answer_flt ..).1, kept, fences]

theorem sideOf_failed {t u : State} (fwd : u.ring.fwd.failed = t.ring.fwd.failed) (bwd : u.ring.bwd.failed = t.ring.bwd.failed) (n : Side) :
    (sideOf u n).failed = (sideOf t n).failed := by
  cases n
  · exact fwd
  · exact bwd

theorem heartbeatFailed_answer {n : Side} (ring : cfgVal s 0x0601 ≠ 0) (alive : (sideOf s n).failed = false) (missed : 16 ≤ (sideOf s n).misses)
    (new : isFenced s (sideChip s n) = false) (other : sideChip s n ≠ chipId s) :
    ∃ s', exec (.heartbeatFailed n) s = .next s' ∧ (sideOf s' n).failed = true ∧ isFenced s' (sideChip s n) = true := by
  generalize hp : post (0x10 + sideLink s n) 7 2 (pl2 (sideChip s n)) s = t
  generalize hm : modSide n (fun y => { y with failed := true }) t = w
  have given : Gives (.heartbeatFailed n) s (fenceChip (sideChip s n) 1 1 (chipId s) none w) := by
    refine gives_run _ _ (execHeartbeatFailed.eq_1 n s) ?_
    dsimp only
    rw [if_pos (by simp [ring, missed, alive]), hp, hm]
  have failed : (sideOf w n).failed = true := by rw [← hm, sideOf_modSide]
  have same : isFenced w (sideChip s n) = false ∧ chipId w = chipId s := by
    rw [← hm, ← hp]
    cases n <;> exact ⟨new, rfl⟩
  obtain ⟨newW, chip⟩ := same
  have flt := fenceChip_flt (x := sideChip s n) (reason := 1) (hops := 1) (origin := chipId s) (from_ := none) newW (by rw [chip]; exact other)
  obtain ⟨fwd, bwd⟩ := fenceChip_failed (sideChip s n) 1 1 (chipId s) none w
  have stays := sideOf_failed fwd bwd n
  generalize fenceChip (sideChip s n) 1 1 (chipId s) none w = u at *
  refine ⟨_, given, ?_, ?_⟩
  · rw [sideOf_answer, stays, failed]
  · rw [isFenced, (answer_flt ..).1, flt]
    simp

/-! ### Deferred HBM lines (R35, R69, R75) -/

theorem noteReadys_arriving (cy : Nat) (ks : List Nat) (tp : Tp) : (ks.foldl (fun tp k => noteReady k cy tp) tp).arriving = tp.arriving := by
  induction ks generalizing tp with
  | nil => rfl
  | cons k ks ih => exact (ih _).trans rfl

theorem noteReadys_other {a : Nat} (cy : Nat) (ks : List Nat) (tp : Tp) (held : tget 0 tp.ready a = cy) :
    tget 0 (ks.foldl (fun tp k => noteReady k cy tp) tp).ready a = cy := by
  induction ks generalizing tp with
  | nil => exact held
  | cons k ks ih =>
    refine ih _ ((tget_tput ..).trans ?_)
    split
    · rfl
    · exact held

/-- Noted results are usable from their cycle. -/
theorem noteReadys_ready {a : Nat} (cy : Nat) (ks : List Nat) (tp : Tp) (mem : a ∈ ks) :
    tget 0 (ks.foldl (fun tp k => noteReady k cy tp) tp).ready a = cy := by
  induction ks generalizing tp with
  | nil => exact absurd mem List.not_mem_nil
  | cons k ks ih =>
    by_cases own : a = k
    · rw [own]
      exact noteReadys_other cy ks _ (tget_tput_self ..)
    · exact ih _ ((List.mem_cons.1 mem).resolve_left own)

/-- A TP for which a deferred request's results are usable. -/
def arrivedTp (cy : Nat) (ks : List Nat) (tp : Tp) : Tp :=
  ks.foldl (fun tp k => noteReady k cy tp) { tp with arriving := tp.arriving.filter fun k => !ks.contains k }

theorem hbmAccessComplete_answer {r : HbmReq} (found : s.hbm.deferred.find? (fun x => x.id == r.id && x.chan.isNone) = some r) (served : r.late = []) :
    let cy := r.due.getD (max r.least (cycleAt s r.slot))
    ∃ s', exec (.hbmAccessComplete r.id) s = .next s' ∧ s'.mem = s.mem ∧ (∀ x ∈ s'.hbm.deferred, x.id ≠ r.id) ∧
      (∀ a ∈ r.keys, a ∉ (getTp s' r.tp).arriving ∧ tget 0 (getTp s' r.tp).ready a = cy) ∧
      (r.store = true → (r.tp, r.hdr, cy) ∈ (getJob s' r.slot).run.stores) ∧ (∀ k, k ≠ r.tp → getTp s' k = getTp s k) := by
  intro cy
  generalize hw : modTp r.tp (arrivedTp cy r.keys) (dropLate r.id s) = w
  generalize hz : (if r.store then modRun r.slot (fun y => { y with stores := (r.tp, r.hdr, cy) :: y.stores }) w else w) = z
  have given : Gives (.hbmAccessComplete r.id) s z := by
    refine gives_run _ _ (execHbmAccessComplete.eq_1 r.id s) ?_
    rw [found]
    dsimp only
    rw [served, if_pos (by simp), ← hz, ← hw]
    rfl
  have kept : z.mem = s.mem ∧ z.hbm = (dropLate r.id s).hbm ∧ ∀ k, getTp z k = getTp w k := by
    rw [← hz, ← hw]
    split <;> exact ⟨rfl, rfl, fun _ => rfl⟩
  obtain ⟨mem, hbm, tps⟩ := kept
  have own : getTp w r.tp = arrivedTp cy r.keys (getTp s r.tp) := by rw [← hw, getTp_modTp_self]; rfl
  have others (k : Nat) (other : k ≠ r.tp) : getTp w k = getTp s k := by rw [← hw, getTp_modTp_ne _ _ _ _ other]; rfl
  have hbmS : ({ collect z with pending := s.pending } : State).hbm = (dropLate r.id s).hbm := (collect_hbm z).trans hbm
  have tpS (k : Nat) : getTp { collect z with pending := s.pending } k = getTp w k := (getTp_answer _ z k).trans (tps k)
  refine ⟨_, given, (collect_mem z).trans mem, fun x listed => ?_, fun a key => ?_, fun store => ?_, fun k other => (tpS k).trans (others k other)⟩
  · rw [hbmS] at listed
    simpa using (List.mem_filter.1 listed).2
  · rw [tpS, own]
    refine ⟨?_, noteReadys_ready cy r.keys _ key⟩
    rw [arrivedTp, noteReadys_arriving]
    intro waits
    have gone := (List.mem_filter.1 waits).2
    rw [List.contains_iff_mem.2 key] at gone
    exact absurd gone (by decide)
  · have run : getJob z r.slot = { getJob w r.slot with run := { (getJob w r.slot).run with stores := (r.tp, r.hdr, cy) :: (getJob w r.slot).run.stores } } := by
      rw [← hz, if_pos store]
      exact getJob_modRun_self ..
    rw [getJob_answer, run]
    exact List.mem_cons_self

/-! ### Remote accesses (R72) -/

section
variable {tag : BitVec 16} {r : Remote} (found : s.net.remotes.find? (fun x => x.tag == tag.toNat) = some r)
include found

theorem remoteTimeout_read (into : r.into ≠ none) (runs : (getJob s r.slot).state = 3) : ∃ s', exec (.remoteAccessTimeout tag) s = .next s' ∧
    r.from_ + 1000000 ≤ s'.clk.fleet ∧ (getJob s' r.slot).state = 4 ∧ (∀ x ∈ s'.net.remotes, x.tag ≠ r.tag) := by
  obtain ⟨c, up, reached, -, -, moved⟩ := advanceTo_clock (r.from_ + 1000000) s
  have came := moved s rfl rfl
  generalize hw : accessFaultEvent r.tp r.thr r.addr 7 { s with
      clk := c, upNs := up, net.remotes := s.net.remotes.filter fun x => x.tag != r.tag } = w
  have given : Gives (.remoteAccessTimeout tag) s (faultJob r.slot w) := by
    refine gives_run _ _ (execRemoteAccessTimeout.eq_1 tag s) ?_
    rw [found]
    dsimp only
    have read : (r.into.isNone && !writeOut s tag.toNat) = false := by
      cases at' : r.into with
      | none => exact absurd at' into
      | some a => rfl
    rw [read, came, if_neg Bool.false_ne_true, failRemote, ← hw]
  have kept : w.clk = c ∧ (getJob w r.slot).state = 3 ∧ w.net.remotes = s.net.remotes.filter fun x => x.tag != r.tag := by
    rw [← hw]; exact ⟨rfl, runs, rfl⟩
  obtain ⟨clk, state, remotes⟩ := kept
  obtain ⟨faulted, -⟩ := faultJob_stops r.slot w (by rw [stepLives, state]; rfl)
  have time := (workOnly_faultJob r.slot w).clk
  obtain ⟨-, -, fewer⟩ := narrows_faultJob r.slot w
  generalize faultJob r.slot w = u at *
  have timeS : ({ collect u with pending := s.pending } : State).clk = c := (collect_clk u).trans (time.trans clk)
  have netS : ({ collect u with pending := s.pending } : State).net = u.net := collect_net u
  refine ⟨_, given, ?_, ?_, fun x listed => ?_⟩
  · rw [timeS]
    exact reached
  · rw [getJob_answer, faulted]
  · rw [netS] at listed
    have left := fewer x listed
    rw [remotes] at left
    simpa using (List.mem_filter.1 left).2

theorem remoteTimeout_write (into : r.into = none) (acked : writeOut s tag.toNat = false) : ∃ s', exec (.remoteAccessTimeout tag) s = .next s' ∧
    r.from_ + 1000000 ≤ s'.clk.fleet ∧ s'.jobs = s.jobs ∧ (∀ x ∈ s'.net.remotes, x.tag ≠ r.tag) ∧ s'.mem = s.mem := by
  obtain ⟨c, up, reached, -, -, moved⟩ := advanceTo_clock (r.from_ + 1000000) s
  have came := moved s rfl rfl
  generalize hw : ({ s with clk := c, upNs := up, net.remotes := s.net.remotes.filter fun x => x.tag != r.tag } : State) = w
  have given : Gives (.remoteAccessTimeout tag) s w := by
    refine gives_run _ _ (execRemoteAccessTimeout.eq_1 tag s) ?_
    rw [found]
    dsimp only
    rw [into, acked, came, ← hw]
    rfl
  have kept : w.clk = c ∧ w.jobs = s.jobs ∧ w.mem = s.mem ∧ w.net.remotes = s.net.remotes.filter fun x => x.tag != r.tag := by
    rw [← hw]; exact ⟨rfl, rfl, rfl, rfl⟩
  obtain ⟨clk, jobs, mem, remotes⟩ := kept
  have timeS : ({ collect w with pending := s.pending } : State).clk = c := (collect_clk w).trans clk
  have netS : ({ collect w with pending := s.pending } : State).net = w.net := collect_net w
  refine ⟨_, given, ?_, (collect_jobs w).trans jobs, fun x listed => ?_, (collect_mem w).trans mem⟩
  · rw [timeS]
    exact reached
  · rw [netS, remotes] at listed
    simpa using (List.mem_filter.1 listed).2

end

end

/-- Settles O13, by the boundaries of beats and swings, and by the ends of deferred and of remote accesses. -/
theorem beatsAndSwings : Obligations.BeatsAndSwings := by
  refine ⟨fun s => ⟨beatTick_answer, fun dormant => ?_, fun t0 inited => hbmRefresh_answer inited, hbmRefresh_none⟩,
    fun s => ⟨swingTick_answer, fun n ring alive => ⟨fun missed new => heartbeatSuspect_answer ring alive missed new,
      fun missed new other => heartbeatFailed_answer ring alive missed new other⟩⟩,
    fun s => ⟨fun r found served => hbmAccessComplete_answer found served, fun tag r found => ⟨fun into runs => remoteTimeout_read found into runs,
      fun into acked => remoteTimeout_write found into acked⟩⟩⟩
  exact gives_run _ _ (execBeatTick.eq_1 s) (if_pos (by simpa using dormant))

end Sys2Proof.Machine
end

section
/-! PROOFS. The end of a collective, the release of a stop, and a step that waits for its neighbours' digests (R88, R199, R201 to R204). -/

namespace Sys2Proof.Machine

section
variable {s : State}

/-! ### Collectives (R88, R199, R201) -/

/-- What stands in a tile's context. -/
theorem tileAny_eq {t : Nat} {c : TileCtx} (h : tileAny s t = some c) : c.t = t ∧ c.tp = getTp s t ∧ c.job = getJob s c.slot ∧
    c.mov = jobMov c.job ∧ c.hdr = tileHdr c.mov c.tile.tile ∧ (getTp s t).tile = some c.tile ∧ c.slot = c.tile.slot := by
  unfold tileAny at h
  obtain ⟨r, tile, made⟩ := Option.bind_eq_some_iff.1 h
  dsimp only at made
  split at made
  · cases made
  · cases made
    exact ⟨rfl, rfl, rfl, rfl, rfl, tile, rfl⟩

/-- A TP whose RDV has ended: its ceiling counter gets back what the wait left of the window, less the slip. -/
def rdvEnded (back n : Int) (tp : Tp) : Tp := { tp with tile := tp.tile.map fun r => { r with ceilEnd := r.ceilEnd + back - n } }

/-- An RDV that ends within its window, outside arms and bodies (R48, R88). -/
theorem endRdv_within {c : TileCtx} {f cy thr : Nat} {base : Option Nat} (nest : (getTp s c.t).nest = [])
    (within : max 1 (coreOfNs s (s.clk.fleet - f)) ≤ c.hdr.rvWindow * beatCycles s) : ∃ back n, endRdv c f cy thr base s =
      modTp c.t (goOn (cy + max 1 (coreOfNs s (s.clk.fleet - f)))) (modTp c.t (rdvEnded back n) s) := by
  have none_ : max 1 (coreOfNs s (s.clk.fleet - f)) - c.hdr.rvWindow * beatCycles s = 0 := Nat.sub_eq_zero_of_le within
  unfold endRdv
  dsimp only
  rw [none_]
  simp only [bne_self_eq_false, Bool.false_and, Bool.false_eq_true, if_false, if_true]
  have on (back n : Int) := resume_outside (t := c.t) (thr := thr) (cy := cy + max 1 (coreOfNs s (s.clk.fleet - f)))
    (s := modTp c.t (rdvEnded back n) s) (by rw [getTp_modTp_self]; exact nest)
  refine ⟨(min (max 1 (coreOfNs s (s.clk.fleet - f))) (c.hdr.rvWindow * beatCycles s) + 0 : Nat),
    ((getJob (raiseSlip c.slot (base.getD (ctxSlip c)) 0 s) c.slot).run.slip - ctxSlip c : Nat), ?_⟩
  exact on _ _

theorem collectiveComplete_answer {slot : Fin 64} {prog : BitVec 16} {c : TileCtx} {f cy thr : Nat} {r : CollRun}
    (run : tget {} (getJob s slot).run.colls prog.toNat = r) (running : r.running = true) (open_ : r.done = false)
    (received : collReceived s slot prog.toNat = true) (acked : collAcked s prog.toNat = true) (tile : tileAny s r.tp = some c)
    (own : c.slot = slot.val) (waits : rdvWait c = some (prog.toNat, f, cy, thr)) (nest : c.tp.nest = [])
    (within : max 1 (coreOfNs s (s.clk.fleet - f)) ≤ c.hdr.rvWindow * beatCycles s) :
    ∃ s', exec (.collectiveComplete slot prog) s = .next s' ∧ s'.mem = s.mem ∧ (getTp s' r.tp).wait = none ∧
      (getTp s' r.tp).pc = c.tp.pc + 1 ∧ (getTp s' r.tp).next = cy + max 1 (coreOfNs s (s.clk.fleet - f)) ∧
      (tget {} (getJob s' slot).run.colls prog.toNat).done = true ∧ (getJob s' slot).run.slip = (getJob s slot).run.slip := by
  obtain ⟨ct, ctp, -⟩ := tileAny_eq tile
  generalize hw : modRun slot (fun y => { y with colls := tput y.colls prog.toNat { r with done := true, running := false, armed := false } }) s = w
  have job : getJob w slot = { getJob s slot with run := { (getJob s slot).run with
      colls := tput (getJob s slot).run.colls prog.toNat { r with done := true, running := false, armed := false } } } := by
    rw [← hw]
    exact getJob_modRun_self ..
  have same : w.mem = s.mem ∧ (∀ t, getTp w t = getTp s t) ∧ max 1 (coreOfNs w (w.clk.fleet - f)) = max 1 (coreOfNs s (s.clk.fleet - f)) ∧
      beatCycles w = beatCycles s := by rw [← hw]; exact ⟨rfl, fun _ => rfl, rfl, rfl⟩
  obtain ⟨mem, tps, wait, beats⟩ := same
  rw [ctp] at nest
  obtain ⟨back, n, ended⟩ := endRdv_within (s := w) (c := c) (f := f) (cy := cy) (thr := thr) (base := r.base) (by rw [ct, tps]; exact nest)
    (by rw [wait, beats]; exact within)
  rw [wait, ct] at ended
  generalize max 1 (coreOfNs s (s.clk.fleet - f)) = e at *
  have given : Gives (.collectiveComplete slot prog) s (modTp r.tp (goOn (cy + e)) (modTp r.tp (rdvEnded back n) w)) := by
    refine gives_run _ _ (execCollectiveComplete.eq_1 slot prog s) ?_
    dsimp only
    rw [run, if_neg (by simp [running, open_, received, acked]), tile]
    dsimp only
    rw [waits]
    dsimp only
    rw [if_pos (by simp [own]), hw, ended]
  have tp : getTp (modTp r.tp (goOn (cy + e)) (modTp r.tp (rdvEnded back n) w)) r.tp = goOn (cy + e) (rdvEnded back n (getTp s r.tp)) := by
    rw [getTp_modTp_self, getTp_modTp_self, tps]
  have kept : (modTp r.tp (goOn (cy + e)) (modTp r.tp (rdvEnded back n) w)).mem = w.mem ∧
      getJob (modTp r.tp (goOn (cy + e)) (modTp r.tp (rdvEnded back n) w)) slot = getJob w slot := ⟨rfl, rfl⟩
  obtain ⟨memZ, jobZ⟩ := kept
  generalize modTp r.tp (goOn (cy + e)) (modTp r.tp (rdvEnded back n) w) = z at *
  refine ⟨_, given, (collect_mem z).trans (memZ.trans mem), ?_, ?_, ?_, ?_, ?_⟩
  · rw [getTp_answer, tp]; rfl
  · rw [getTp_answer, tp, ctp]; rfl
  · rw [getTp_answer, tp]; rfl
  · rw [getJob_answer, jobZ, job]
    exact (congrArg CollRun.done (tget_tput_self ..) :)
  · rw [getJob_answer, jobZ, job]

theorem getJob_holdRing (p k : Nat) (s : State) : getJob (holdRing p s) k =
    if (getJob s k).state = 2 && jobRing (getJob s k) && jobPart (getJob s k) == p then { getJob s k with blocked := true } else getJob s k :=
  tget_map ({} : Job) (fun x => if x.state = 2 && jobRing x && jobPart x == p then { x with blocked := true } else x) rfl s.jobs k

theorem collectiveFailed_answer {slot : Fin 64} {prog : BitVec 16} {r : CollRun} (run : tget {} (getJob s slot).run.colls prog.toNat = r)
    (running : r.running = true) (open_ : r.done = false) (state : (getJob s slot).state = 3) :
    ∃ s', exec (.collectiveFailed slot prog) s = .next s' ∧ (getJob s' slot).state = 4 ∧
      s'.ring.collFail = s.ring.collFail + 1 ∧ r.from_ + 4000 * r.window ≤ s'.clk.fleet := by
  obtain ⟨c, up, reached, -, -, moved⟩ := advanceTo_clock (r.from_ + 4000 * r.window) s
  have came := moved s rfl rfl
  generalize hv : post 0x10 0x10 2 (pl4 prog.toNat ++ pl4 (jobStep { s with clk := c, upNs := up } slot.val))
    { s with clk := c, upNs := up, ring.collFail := s.ring.collFail + 1, ring.fenceFail := false } = v
  generalize hw : holdRing (jobPart (getJob s slot)) v = w
  have given : Gives (.collectiveFailed slot prog) s (faultJob slot w) := by
    refine gives_run _ _ (execCollectiveFailed.eq_1 slot prog s) ?_
    dsimp only
    rw [run, running, open_, came, ← hw, ← hv]
    rfl
  have jobV : getJob v slot = getJob s slot := by rw [← hv]; rfl
  have jobW : getJob w slot = getJob s slot := by
    rw [← hw, getJob_holdRing, jobV, state]
    rfl
  have kept : w.ring.collFail = s.ring.collFail + 1 ∧ w.clk = c := by rw [← hw, ← hv]; exact ⟨rfl, rfl⟩
  obtain ⟨count, clk⟩ := kept
  have lives : stepLives w slot = true := by rw [stepLives, jobW, state]; rfl
  obtain ⟨faulted, -⟩ := faultJob_stops slot w lives
  have ring := faultJob_ring lives
  have time := (workOnly_faultJob slot w).clk
  generalize faultJob slot w = u at *
  have ringS : ({ collect u with pending := s.pending } : State).ring = u.ring := collect_ring u
  have timeS : ({ collect u with pending := s.pending } : State).clk = c := (collect_clk u).trans (time.trans clk)
  refine ⟨_, given, ?_, ?_, ?_⟩
  · rw [getJob_answer, faulted]
  · rw [ringS, ring, ← count]
    split <;> rfl
  · rw [timeS]
    exact reached

/-! ### Stops (R43, R69) -/

/-- The release of a stop that waits for nothing, before its passing or the step's end. -/
def reachedStop (j cycle : Nat) (s : State) : State := chargeTo j cycle (noteCycle j cycle (reachCycle j cycle s))

theorem releaseStop_prompt {j : Nat} {st : StopRec} (prompt : lateEnds (getJob s j).run st.stepEnd (st.cycle + (getJob s j).run.slip) = [])
    (plain : st.swing = false) : releaseStop j st s =
      if !st.stepEnd then passStop j (reachedStop j (st.cycle + (getJob s j).run.slip) s)
      else if jobRing (getJob s j) then reachStepEnd j ((getJob s j).run.origin + nsOfCore s (st.cycle + (getJob s j).run.slip))
        (formDigest j (reachedStop j (st.cycle + (getJob s j).run.slip) s))
      else commitStep j (formDigest j (reachedStop j (st.cycle + (getJob s j).run.slip) s)) := by
  unfold releaseStop
  dsimp only
  rw [prompt]
  simp only [stopWaits, List.foldl_nil, List.any_nil, Bool.false_eq_true, if_false, Bool.not_true, plain]
  rfl

/-- Of the machine only the clock, partitions and jobs have changed. -/
def RunsOnly (s t : State) : Prop := t = { s with clk := t.clk, upNs := t.upNs, parts := t.parts, jobs := t.jobs }

/-- A job whose run has reached a cycle, charged its engine time (R240). -/
def ReachedJob (x y : Job) : Prop := ∃ vt rem e k n, y = { x with vt := vt, vtRem := rem, engine := e, run := { x.run with cycle := k, engine := n } }

theorem reachedStop_rest (j cycle : Nat) (s : State) : RunsOnly s (reachedStop j cycle s) ∧ ReachedJob (getJob s j) (getJob (reachedStop j cycle s) j) := by
  obtain ⟨c, up, -, -, -, moved⟩ := advanceTo_clock ((getJob s j).run.origin + nsOfCore s cycle) s
  have came : reachCycle j cycle s = { s with clk := c, upNs := up } := moved s rfl rfl
  have noted : getJob (noteCycle j cycle { s with clk := c, upNs := up }) j = { getJob s j with
      run := { (getJob s j).run with cycle := max (getJob s j).run.cycle cycle } } := by
    rw [noteCycle, getJob_modRun_self]
    rfl
  have only : RunsOnly s (noteCycle j cycle { s with clk := c, upNs := up }) := rfl
  rw [reachedStop, came]
  generalize noteCycle j cycle { s with clk := c, upNs := up } = w at *
  unfold chargeTo
  dsimp only
  split
  · exact ⟨only, _, _, _, _, _, noted⟩
  · generalize (partTps w (jobPart (getJob w j)) * _) = x
    have charged : getJob (chargeEngine j x w) j = { chargeVt x (getJob w j) with run := { (getJob w j).run with engine := (getJob w j).run.engine + x } } :=
      getJob_modJob_self ..
    have outer (q : Nat) (f : Part → Part) : getJob (modPart q f (chargeEngine j x w)) j = getJob (chargeEngine j x w) j := rfl
    refine ⟨?_, ?_⟩
    · rw [RunsOnly] at only
      rw [only]
      rfl
    · rw [outer, charged, noted]
      exact ⟨_, _, _, _, _, rfl⟩

/-- A stop that is not the step's end passes, for a ring job or a serving job (R12, R43). -/
theorem passStop_stays {j : Nat} {w : State} (mode : partitioned w = true) (stays : jobRing (getJob w j) = true ∨ jobServing (getJob w j) = true) :
    passStop j w = armColls j (modRun j (fun r => { r with stopIx := (getJob w j).run.stopIx + 1, stores := [] }) (takeView (jobPart (getJob w j)) w)) := by
  unfold passStop
  dsimp only
  rw [mode, if_neg (by decide), if_pos (by simpa using stays)]

theorem sendsOnly_sendDigest (d : Nat) (s : State) : SendsOnly s (sendDigest d s) := by
  refine .ite (.foldl _ (fun t role => ?_) _ _) (.foldl _ (fun _ _ => sendsOnly_sendU ..) _ _)
  split
  · exact sendsOnly_sendUOn ..
  · exact .refl t

section
variable {slot : Fin 64} {st : StopRec} (stop : (jobMov (getJob s slot)).stops[(getJob s slot).run.stopIx]? = some st)
  (runs : mayRun s slot = true) (active : (getJob s slot).run.active = true) (alone : s.ring.retryJob ≠ some slot.val)
include stop runs active alone

theorem gives_stopRelease {w : State} (between : (getJob s slot).run.atStop = false) (tiles : tilesDone s slot st.cycle = true)
    (stored : (s.hbm.deferred.any fun r => r.slot == slot.val && r.store) = false)
    (idle : ((st.stepEnd || ((getJob s slot).preempt && !partitioned s)) && jobBusy s slot) = false) (released : releaseStop slot st s = w) :
    Gives (.stopRelease slot) s w := by
  refine gives_run _ _ (execStopRelease.eq_1 slot s) ?_
  dsimp only
  rw [stop]
  dsimp only
  rw [if_neg (by simp [runs, active, alone]), between, if_neg Bool.false_ne_true, tiles, stored, idle]
  exact released

theorem stopPasses_answer (mode : partitioned s = true) (between : (getJob s slot).run.atStop = false) (tiles : tilesDone s slot st.cycle = true)
    (stored : (s.hbm.deferred.any fun r => r.slot == slot.val && r.store) = false)
    (prompt : lateEnds (getJob s slot).run st.stepEnd (st.cycle + (getJob s slot).run.slip) = []) (plain : st.swing = false) (inner : st.stepEnd = false)
    (stays : jobRing (getJob s slot) = true ∨ jobServing (getJob s slot) = true) :
    ∃ s', exec (.stopRelease slot) s = .next s' ∧ s'.mem = s.mem ∧ s'.tps = s.tps ∧
      (getJob s' slot).run.stopIx = (getJob s slot).run.stopIx + 1 ∧ (getJob s' slot).run.stores = [] ∧
      (getJob s' slot).run.slip = (getJob s slot).run.slip ∧ (getPart s' (jobPart (getJob s slot))).routes = s.routes ∧
      (getPart s' (jobPart (getJob s slot))).view = [cfgVal s 0x0601, cfgVal s 0x0602, cfgVal s 0x0603, cfgVal s 0x0604] := by
  obtain ⟨only, vt, rem, e, k, n, job⟩ := reachedStop_rest slot (st.cycle + (getJob s slot).run.slip) s
  have release := releaseStop_prompt (j := slot) (st := st) (s := s) prompt plain
  rw [inner, if_pos (by decide)] at release
  generalize reachedStop slot (st.cycle + (getJob s slot).run.slip) s = w at *
  have modeW : partitioned w = true := (congrArg partitioned only :).trans mode
  have view : ringNow w = ringNow s := (congrArg ringNow only :)
  have kept : w.mem = s.mem ∧ w.tps = s.tps ∧ w.routes = s.routes := ⟨(congrArg State.mem only :), (congrArg State.tps only :), (congrArg State.routes only :)⟩
  obtain ⟨mem, tps, routes⟩ := kept
  have kinds : jobRing (getJob w slot) = jobRing (getJob s slot) ∧ jobServing (getJob w slot) = jobServing (getJob s slot) ∧
      jobPart (getJob w slot) = jobPart (getJob s slot) ∧ (getJob w slot).run.stopIx = (getJob s slot).run.stopIx ∧
      (getJob w slot).run.slip = (getJob s slot).run.slip := by rw [job]; exact ⟨rfl, rfl, rfl, rfl, rfl⟩
  obtain ⟨ring, serving, part, stopIx, slip⟩ := kinds
  have passed := passStop_stays (j := slot) modeW (by rw [ring, serving]; exact stays)
  rw [part, stopIx] at passed
  generalize jobPart (getJob s slot) = p at *
  generalize hv : modRun slot (fun r => { r with stopIx := (getJob s slot).run.stopIx + 1, stores := [] }) (takeView p w) = v at passed
  have jobV : getJob v slot = { getJob w slot with run := { (getJob w slot).run with stopIx := (getJob s slot).run.stopIx + 1, stores := [] } } := by
    rw [← hv, getJob_modRun_self]
    rfl
  have partV : getPart v p = { getPart w p with view := ringNow w, routes := w.routes, roles := (upFrom 0 8).map fun n => (getLink w n).role } := by
    rw [← hv]
    exact (getPart_modPart_self p (fun y => { y with view := ringNow w, routes := w.routes, roles := (upFrom 0 8).map fun n => (getLink w n).role }) w :)
  have rest : v.mem = w.mem ∧ v.tps = w.tps := by rw [← hv]; exact ⟨rfl, rfl⟩
  obtain ⟨memV, tpsV⟩ := rest
  obtain ⟨armed, -, cs, jobU⟩ := armColls_only slot v
  have given := gives_stopRelease stop runs active alone between tiles stored (by rw [inner, mode]; simp) (release.trans passed)
  generalize armColls slot v = u at *
  have partS : getPart { collect u with pending := s.pending } p = getPart v p :=
    (congrArg (fun ps => tget ({} : Part) ps p) ((collect_parts u).trans (congrArg State.parts armed :)))
  refine ⟨_, given, (collect_mem u).trans ((congrArg State.mem armed :).trans (memV.trans mem)),
    (collect_tps u).trans ((congrArg State.tps armed :).trans (tpsV.trans tps)), ?_, ?_, ?_, ?_, ?_⟩
  · rw [getJob_answer, jobU, jobV]
  · rw [getJob_answer, jobU, jobV]
  · rw [getJob_answer, jobU, jobV]
    exact slip
  · rw [partS, partV, routes]
  · rw [partS, partV, view]
    rfl

/-- The StepEnd stop of a ring job whose forward neighbour's digest is missing (R203, R204). -/
theorem stepEndWaits_answer (between : (getJob s slot).run.atStop = false) (tiles : tilesDone s slot st.cycle = true)
    (stored : (s.hbm.deferred.any fun r => r.slot == slot.val && r.store) = false)
    (prompt : lateEnds (getJob s slot).run st.stepEnd (st.cycle + (getJob s slot).run.slip) = []) (plain : st.swing = false) (last : st.stepEnd = true)
    (idle : jobBusy s slot = false) (ring : jobRing (getJob s slot) = true) (missing : s.ring.fwd.digest = none) :
    ∃ s', exec (.stopRelease slot) s = .next s' ∧ s'.mem = s.mem ∧ s'.tps = s.tps ∧ (getJob s' slot).run.atStop = true ∧
      (getJob s' slot).run.digestDue = some ((getJob s slot).run.origin + nsOfCore s (st.cycle + (getJob s slot).run.slip) + 256000) ∧
      (getJob s' slot).state = (getJob s slot).state := by
  obtain ⟨only, vt, rem, e, k, n, job⟩ := reachedStop_rest slot (st.cycle + (getJob s slot).run.slip) s
  have release := releaseStop_prompt (j := slot) (st := st) (s := s) prompt plain
  rw [last, if_neg (by decide), if_pos ring] at release
  have given := gives_stopRelease stop runs active alone between tiles stored (by rw [idle, Bool.and_false]) release
  generalize reachedStop slot (st.cycle + (getJob s slot).run.slip) s = w at *
  generalize (getJob s slot).run.origin + nsOfCore s (st.cycle + (getJob s slot).run.slip) = at_ at *
  generalize hf : formDigest slot w = f at given
  have formed : f.mem = s.mem ∧ f.tps = s.tps ∧ getJob f slot = getJob w slot ∧ f.ring.fwd.digest = none := by
    rw [← hf]
    exact ⟨(congrArg State.mem only :), (congrArg State.tps only :), rfl, (congrArg (·.ring.fwd.digest) only :).trans missing⟩
  obtain ⟨mem, tps, jobF, digest⟩ := formed
  have sent : SendsOnly f (sendDigest f.ring.digest f) := sendsOnly_sendDigest ..
  generalize hd : sendDigest f.ring.digest f = d at *
  generalize hv : modRun slot (fun r => { r with atStop := true, digestDue := some (at_ + 16 * 16000) }) d = v
  have jobD : getJob d slot = getJob w slot := (sent.keeps (getJob · slot) fun _ _ _ _ => rfl).trans jobF
  have jobV : getJob v slot = { getJob w slot with run := { (getJob w slot).run with atStop := true, digestDue := some (at_ + 16 * 16000) } } := by
    rw [← hv, getJob_modRun_self, jobD]
  have rest : v.mem = d.mem ∧ v.tps = d.tps ∧ v.ring = d.ring := by rw [← hv]; exact ⟨rfl, rfl, rfl⟩
  obtain ⟨memV, tpsV, ringV⟩ := rest
  have open_ : v.ring.fwd.digest = none := by
    rw [ringV]
    exact (sent.keeps (·.ring.fwd.digest) fun _ _ _ _ => rfl).trans digest
  have waits : compareDigests slot v = v := by
    unfold compareDigests
    rw [open_]
  have released : reachStepEnd slot at_ f = v := by
    rw [reachStepEnd, hd, hv]
    exact waits
  rw [released] at given
  refine ⟨_, given, (collect_mem v).trans (memV.trans (sent.mem.trans mem)), (collect_tps v).trans (tpsV.trans (sent.tps.trans tps)), ?_, ?_, ?_⟩
  · rw [getJob_answer, jobV]
  · rw [getJob_answer, jobV]
  · rw [getJob_answer, jobV, job]

end

/-! ### A digest that does not come (R204) -/

theorem getJob_post (src code sev : Nat) (p : List (BitVec 8)) (j : Nat) (s : State) :
    getJob (post src code sev p s) j = getJob s j := rfl

theorem digestTimeout_answer {slot : Fin 64} {due : Nat} (at' : (getJob s slot).run.atStop = true) (state : (getJob s slot).state = 3)
    (waits : (getJob s slot).run.digestDue = some due) (ring : jobRing (getJob s slot) = true) (missing : s.ring.fwd.digest = none) :
    ∃ s', exec (.digestTimeout slot) s = .next s' ∧ (getJob s' slot).state = 4 ∧ due ≤ s'.clk.fleet ∧
      s'.ring.fwd.digest = none ∧ s'.ring.bwd.digest = none := by
  obtain ⟨c, up, reached, -, -, moved⟩ := advanceTo_clock due s
  have came := moved s rfl rfl
  have some_ : (missingDigests s).isEmpty = false := by
    rw [missingDigests, missing, List.isEmpty_eq_false_iff]
    exact fun none_ => by simpa using congrArg (fun l => (cfgVal s 0x0603) ∈ l) none_
  generalize hw : (missingDigests s).foldl (fun u chip => post 0x10 0x12 2 (pl4 (jobStep s slot) ++ pl1 (getJob s slot).attempt ++ pl2 chip) u)
    { s with clk := c, upNs := up } = w
  have given : Gives (.digestTimeout slot) s (faultJob slot w) := by
    refine gives_run _ _ (execDigestTimeout.eq_1 slot s) ?_
    dsimp only
    rw [waits]
    dsimp only
    rw [at', state, some_, came, hw]
    rfl
  have job : getJob w slot = getJob s slot := by rw [← hw]; exact foldl_keeps (getJob · slot) (fun _ _ => getJob_post ..) _ _
  have clk : w.clk = c := by rw [← hw]; exact foldl_keeps State.clk (fun _ _ => post_clk ..) _ _
  have lives : stepLives w slot = true := by rw [stepLives, job, state]; rfl
  obtain ⟨faulted, -⟩ := faultJob_stops slot w lives
  have ended := faultJob_ring lives
  rw [job, if_pos ring] at ended
  have time := (workOnly_faultJob slot w).clk
  generalize faultJob slot w = u at *
  have ringS : ({ collect u with pending := s.pending } : State).ring = endedRing w.ring := (collect_ring u).trans ended
  have timeS : ({ collect u with pending := s.pending } : State).clk = c := (collect_clk u).trans (time.trans clk)
  refine ⟨_, given, ?_, ?_, ?_, ?_⟩
  · rw [getJob_answer, faulted]
  · rw [timeS]
    exact reached
  · rw [ringS]; rfl
  · rw [ringS]; rfl

end

/-- Settles O12, by the end of an RDV, the release of a stop, and the two faults of a ring that does not answer. -/
theorem stopsAndCollectives : Obligations.StopsAndCollectives := by
  refine ⟨fun slot prog s => ?_, fun slot s st => ?_⟩
  · intro r running open_
    exact ⟨fun c f cy thr received acked tile own waits nest within =>
      collectiveComplete_answer rfl running open_ received acked tile own waits nest within, fun state => collectiveFailed_answer rfl running open_ state⟩
  · intro x p stop runs active alone mode
    refine ⟨fun between tiles stored prompt plain => ⟨fun inner stays => ?_, fun last idle ring missing => ?_⟩,
      fun due at' state waits ring missing => digestTimeout_answer at' state waits ring missing⟩
    · exact stopPasses_answer stop runs active alone mode between tiles stored prompt plain inner stays
    · exact stepEndWaits_answer stop runs active alone between tiles stored prompt plain last idle ring missing

end Sys2Proof.Machine
end

section
/-! PROOFS. Tiles begin and end; overruns of the ceiling, of the slip limit and of a rendezvous (R46, R48 to R53). -/

namespace Sys2Proof.Machine

section
variable {s : State}

/-! ### The begin of a tile (R46, R48) -/

/-- A TP where a tile begins in a cycle (R48). -/
def begunTp (j b : Nat) (r : TileRun) (tp : Tp) : Tp :=
  { (if tp.lastJob = some j then tp else freshTp tp) with
    tile := some r, pc := 0, nest := [], next := b + 8, wait := none, stalled := none, lastJob := some j }

/-- The next serial number of a tile is used. -/
def nextSerial (s : State) : State := { s with hbm.nextTile := s.hbm.nextTile + 1 }

/-- The tile that a track entry begins in a cycle, with its ceiling from then on (R48). -/
def begunTile (s : State) (j b : Nat) (e : TrackEntry) : TileRun :=
  { slot := j, tile := e.tile, id := 8 * (s.hbm.nextTile + 1) + jobPart (getJob s j), began := b
    ceilEnd := ((b + 64 * (tileHdr (jobMov (getJob s j)) e.tile).ceiling : Nat) : Int) - ((getJob s j).run.slip : Int) }

/-- The cycle in which a TP's tile of a track entry begins (R49). -/
def beginAt (s : State) (t j : Nat) (e : TrackEntry) : Nat :=
  max (e.start + (getJob s j).run.slip) (if (getTp s t).lastJob = some j then (getTp s t).next else 0)

/-- In partitioned mode no accumulator is freed where a tile begins. -/
theorem beginTile_eq (mode : partitioned s = true) (t j : Nat) (e : TrackEntry) : ∃ f, beginTile t j e s =
    noteCycle j (beginAt s t j e) (modPart (jobPart (getJob s j)) f (modRun j (fun r => { r with cursor := tmod 0 r.cursor t (· + 1) })
      (nextSerial (modTp t (begunTp j (beginAt s t j e) (begunTile s j (beginAt s t j e) e)) s)))) := by
  have kept : (if (((getTp s t).lastJob.isSome && (getTp s t).lastJob != some j) && !partitioned s) = true then freeMatrix [t] s else s) = s := by
    rw [mode]
    simp
  unfold beginTile
  dsimp only
  rw [kept]
  exact ⟨_, rfl⟩

theorem beginTile_begun (mode : partitioned s = true) (t j : Nat) (e : TrackEntry) :
    (beginTile t j e s).mem = s.mem ∧
      getTp (beginTile t j e s) t = begunTp j (beginAt s t j e) (begunTile s j (beginAt s t j e) e) (getTp s t) ∧
      (∀ k, k ≠ t → getTp (beginTile t j e s) k = getTp s k) ∧ (∀ k, k ≠ j → getJob (beginTile t j e s) k = getJob s k) ∧
      tget 0 (getJob (beginTile t j e s) j).run.cursor t = tget 0 (getJob s j).run.cursor t + 1 := by
  obtain ⟨f, begun⟩ := beginTile_eq mode t j e
  rw [begun]
  generalize begunTp j _ _ = g
  generalize beginAt s t j e = b
  have rows (k : Nat) : getJob (nextSerial (modTp t g s)) k = getJob s k := rfl
  have outer (p k : Nat) (v : State) : getJob (modPart p f v) k = getJob v k := rfl
  have tps (p k : Nat) (h : Run → Run) (v : State) : getTp (noteCycle j b (modPart p f (modRun j h (nextSerial v)))) k = getTp v k := rfl
  have mem (p : Nat) (h : Run → Run) (v : State) : (noteCycle j b (modPart p f (modRun j h (nextSerial v)))).mem = v.mem := rfl
  generalize jobPart (getJob s j) = p
  refine ⟨(mem ..).trans rfl, ?_, fun k hk => ?_, fun k hk => ?_, ?_⟩
  · rw [tps, getTp_modTp_self]
  · rw [tps, getTp_modTp_ne _ _ _ _ hk]
  · rw [noteCycle, getJob_modRun_ne _ _ _ _ hk, outer, getJob_modRun_ne _ _ _ _ hk, rows]
  · rw [noteCycle, getJob_modRun_self, outer, getJob_modRun_self, rows]
    exact tget_tmod_self ..

theorem tileBegin_answer {t : Fin 128} {slot : Fin 64} {waited : Nat} {e : TrackEntry} (entry : nextEntry s slot t = some e)
    (runs : mayRun s slot = true) (active : (getJob s slot).run.active = true) (between : (getJob s slot).run.atStop = false)
    (free : (getTp s t).tile = none) (mode : partitioned s = true) : Gives (.tileBegin t slot waited) s (beginTile t slot e s) := by
  refine gives_run _ _ (execTileBegin.eq_1 t slot waited s) ?_
  dsimp only
  rw [entry]
  dsimp only
  rw [stepOpen, runs, active, between, free, mode]
  rfl

/-! ### The end of a tile (R49, R51, R76, R240) -/

/-- A TP whose tile has ended in a cycle. -/
def tileEnded (e free : Nat) (tp : Tp) : Tp := { tp with tile := none, pc := 0, nest := [], next := e, freeAt := free }

/-- The overrun of a tile that ends: its slip, and its event (R51, R54). -/
def slipped (c : TileCtx) (len : Nat) (s : State) : State :=
  if len = 0 then s else
    overrunEvent c.t c.tile.tile len (getJob (raiseSlip c.slot (overBase c) len s) c.slot).run.slip false (raiseSlip c.slot (overBase c) len s)

/-- The engine time of a tile that ends, in interleaved mode (R240). -/
def tileCharged (c : TileCtx) (len : Nat) (s s1 : State) : State :=
  if partitioned s then s1 else chargeEngine c.slot (64 * c.hdr.ceiling + len) s1

/-- Of the machine only the clusters' counts, the postings, and of the jobs one have changed. -/
def JobOnly (j : Nat) (s t : State) : Prop :=
  t = { s with cls := t.cls, jobs := t.jobs, ev.queue := t.ev.queue } ∧ ∀ k, k ≠ j → getJob t k = getJob s k

theorem JobOnly.trans {j : Nat} {a b c : State} (h : JobOnly j a b) (g : JobOnly j b c) : JobOnly j a c :=
  ⟨g.1.trans (congrArg (fun y : State => { y with cls := c.cls, jobs := c.jobs, ev.queue := c.ev.queue }) h.1),
    fun k hk => (g.2 k hk).trans (h.2 k hk)⟩

theorem jobOnly_modJob (j : Nat) (f : Job → Job) (s : State) : JobOnly j s (modJob j f s) := ⟨rfl, fun k hk => getJob_modJob_ne j k f s hk⟩

theorem jobOnly_overrunEvent (j t tile len slip : Nat) (faulted : Bool) (s : State) : JobOnly j s (overrunEvent t tile len slip faulted s) :=
  ⟨rfl, fun _ _ => rfl⟩

theorem getJob_overrunEvent (t tile len slip : Nat) (faulted : Bool) (s : State) (j : Nat) :
    getJob (overrunEvent t tile len slip faulted s) j = getJob s j := rfl

theorem slipped_only (c : TileCtx) (len : Nat) (s : State) : JobOnly c.slot s (slipped c len s) := by
  unfold slipped
  split
  · exact ⟨rfl, fun _ _ => rfl⟩
  · exact (jobOnly_modJob ..).trans (jobOnly_overrunEvent ..)

theorem slipped_job (c : TileCtx) (len : Nat) (s : State) : ∃ n, (n = if len = 0 then (getJob s c.slot).run.slip
      else max (getJob s c.slot).run.slip (overBase c + alignUp len 64)) ∧
    getJob (slipped c len s) c.slot = { getJob s c.slot with run := { (getJob s c.slot).run with slip := n } } := by
  unfold slipped
  split
  · exact ⟨_, rfl, rfl⟩
  · refine ⟨_, rfl, ?_⟩
    rw [getJob_overrunEvent, raiseSlip, getJob_modRun_self]

theorem tileCharged_only (c : TileCtx) (len : Nat) (s s1 : State) : JobOnly c.slot s1 (tileCharged c len s s1) := by
  unfold tileCharged
  split
  · exact ⟨rfl, fun _ _ => rfl⟩
  · exact jobOnly_modJob ..

theorem tileCharged_job (c : TileCtx) (len : Nat) (s s1 : State) : (getJob (tileCharged c len s s1) c.slot).run.slip = (getJob s1 c.slot).run.slip ∧
    (getJob (tileCharged c len s s1) c.slot).engine = (getJob s1 c.slot).engine + (if partitioned s then 0 else 64 * c.hdr.ceiling + len) := by
  unfold tileCharged
  split
  · exact ⟨rfl, rfl⟩
  · rw [chargeEngine, getJob_modJob_self]
    exact ⟨rfl, rfl⟩

/-- A tile whose overrun, if it has one, is no fault ends (R49, R51). -/
theorem endTile_ends {c : TileCtx} {cy : Nat} (allowed : c.mov.faultPolicy = true ∨ ((cy + 1 : Nat) : Int) < haltCycle c) :
    endTile c cy s = noteCycle c.slot (cy + 1) (modTp c.t (tileEnded (cy + 1) (runBase s c.slot + (cy + 1)))
      (tileCharged c (overBy c (cy + 1)) s (slipped c (overBy c (cy + 1)) s))) := by
  have passes : (!c.mov.faultPolicy && decide (haltCycle c ≤ ((cy + 1 : Nat) : Int))) = false := by
    rcases allowed with fault | early
    · simp [fault]
    · rw [decide_eq_false (Int.not_le.2 early), Bool.and_false]
  unfold endTile
  dsimp only
  rw [passes]
  rfl

/-- The issue of an instruction changes of its job only the cycle reached. -/
theorem issued_job {o : OpSpec} {t : Fin 128} {f : TField} {u : State} {c : TileCtx} {cy : Nat} (h : Issues o t f s u c cy) :
    (getJob (issued c cy u) c.slot).run.slip = c.job.run.slip ∧ (getJob (issued c cy u) c.slot).engine = c.job.engine ∧
      ∀ j, j ≠ c.slot → getJob (issued c cy u) j = getJob s j := by
  obtain ⟨-, -, job⟩ := tileCtx_tp s t.val c h.tile
  have noted (j : Nat) : getJob (issued c cy u) j = getJob (noteCycle c.slot cy u) j := by rw [getJob, issued_rest]; rfl
  have same (j : Nat) : getJob u j = getJob s j := by rw [getJob, readied_rest h.at_]; rfl
  rw [noted, noteCycle, getJob_modRun_self, same, ← job]
  exact ⟨rfl, rfl, fun j hj => by rw [noted, noteCycle, getJob_modRun_ne _ _ _ _ hj, same]⟩

theorem tend_answer {t : Fin 128} {f : TField} {u : State} {c : TileCtx} {cy : Nat} (h : Issues { plainSpec with settle := 2 } t f s u c cy)
    (allowed : c.mov.faultPolicy = true ∨ ((cy + 1 : Nat) : Int) < haltCycle c) :
    let len := ((cy : Int) + 1 - movedEnd c).toNat
    ∃ s', exec (.tend t f) s = .next s' ∧ s'.mem = u.mem ∧
      (getTp s' c.t).tile = none ∧ (getTp s' c.t).nest = [] ∧ (getTp s' c.t).next = cy + 1 ∧
      (∀ k, k ≠ c.t → getTp s' k = getTp s k) ∧ (∀ j, j ≠ c.slot → getJob s' j = getJob s j) ∧
      (getJob s' c.slot).run.slip = (if len = 0 then c.job.run.slip else max c.job.run.slip (overBase c + alignUp len 64)) ∧
      (getJob s' c.slot).engine = c.job.engine + (if partitioned s then 0 else 64 * c.hdr.ceiling + len) ∧
      s' = { reported u s' with mem := s'.mem, tps := s'.tps, jobs := s'.jobs, cls := s'.cls } := by
  intro len
  obtain ⟨slip, engine, others⟩ := issued_job h
  have mode : partitioned (issued c cy u) = partitioned s := by
    rw [issued_rest, readied_rest h.at_]
    rfl
  have own : len = overBy c (cy + 1) := rfl
  have answer : exec (.tend t f) s = _ := run_issue h endTile
  rw [endTile_ends allowed, ← own] at answer
  generalize len = len at *
  generalize runBase (issued c cy u) c.slot + (cy + 1) = free at answer
  have sOnly := slipped_only c len (issued c cy u)
  obtain ⟨n, hn, sJob⟩ := slipped_job c len (issued c cy u)
  rw [slip] at hn
  have cOnly := tileCharged_only c len (issued c cy u) (slipped c len (issued c cy u))
  obtain ⟨cSlip, cEngine⟩ := tileCharged_job c len (issued c cy u) (slipped c len (issued c cy u))
  rw [sJob, mode, engine] at cEngine
  rw [sJob] at cSlip
  obtain ⟨only, jobs⟩ := sOnly.trans cOnly
  have tps (k : Nat) (hk : k ≠ c.t) : getTp (issued c cy u) k = getTp s k :=
    (issued_other c cy k u hk).trans (by rw [getTp, readied_rest h.at_]; rfl)
  have rest := issued_rest c cy u
  have memI := issued_mem c cy u
  generalize tileCharged c len (issued c cy u) (slipped c len (issued c cy u)) = v at *
  generalize issued c cy u = i at *
  have memV : v.mem = u.mem := (congrArg State.mem only :).trans memI
  have tpsV (k : Nat) : getTp v k = getTp i k := (congrArg (getTp · k) only :)
  have endJob : (getJob (noteCycle c.slot (cy + 1) (modTp c.t (tileEnded (cy + 1) free) v)) c.slot).run.slip = (getJob v c.slot).run.slip ∧
      (getJob (noteCycle c.slot (cy + 1) (modTp c.t (tileEnded (cy + 1) free) v)) c.slot).engine = (getJob v c.slot).engine := by
    rw [noteCycle, getJob_modRun_self]
    exact ⟨rfl, rfl⟩
  have endOther (j : Nat) (hj : j ≠ c.slot) : getJob (noteCycle c.slot (cy + 1) (modTp c.t (tileEnded (cy + 1) free) v)) j = getJob v j :=
    getJob_modRun_ne c.slot j _ (modTp c.t (tileEnded (cy + 1) free) v) hj
  have endTp : getTp (noteCycle c.slot (cy + 1) (modTp c.t (tileEnded (cy + 1) free) v)) c.t = tileEnded (cy + 1) free (getTp v c.t) :=
    getTp_modTp_self ..
  have endTps (k : Nat) (hk : k ≠ c.t) : getTp (noteCycle c.slot (cy + 1) (modTp c.t (tileEnded (cy + 1) free) v)) k = getTp v k :=
    getTp_modTp_ne c.t k _ v hk
  have endRest : noteCycle c.slot (cy + 1) (modTp c.t (tileEnded (cy + 1) free) v) =
      { v with tps := (noteCycle c.slot (cy + 1) (modTp c.t (tileEnded (cy + 1) free) v)).tps
               jobs := (noteCycle c.slot (cy + 1) (modTp c.t (tileEnded (cy + 1) free) v)).jobs } := rfl
  generalize noteCycle c.slot (cy + 1) (modTp c.t (tileEnded (cy + 1) free) v) = z at *
  have memZ : z.mem = u.mem := (congrArg State.mem endRest :).trans memV
  have whole : z = { u with mem := z.mem, tps := z.tps, jobs := z.jobs, cls := z.cls, ev.queue := z.ev.queue } := by
    rw [endRest, only, rest]
  refine ⟨_, answer, (collect_mem z).trans memZ, ?_, ?_, ?_, fun k hk => ?_, fun j hj => ?_, ?_, ?_, ?_⟩
  · rw [getTp_answer, endTp]; rfl
  · rw [getTp_answer, endTp]; rfl
  · rw [getTp_answer, endTp]; rfl
  · rw [getTp_answer, endTps k hk, tpsV, tps k hk]
  · rw [getJob_answer, endOther j hj, jobs j hj, others j hj]
  · rw [getJob_answer, endJob.1, cSlip, hn]
  · rw [getJob_answer, endJob.2, cEngine]
  · have all := answer_reported u.pending z
    have memA : ({ collect z with pending := u.pending } : State).mem = z.mem := collect_mem z
    have tpsA : ({ collect z with pending := u.pending } : State).tps = z.tps := collect_tps z
    have jobsA : ({ collect z with pending := u.pending } : State).jobs = z.jobs := collect_jobs z
    have clsA : ({ collect z with pending := u.pending } : State).cls = z.cls := (congrArg State.cls all :)
    rw [memA, tpsA, jobsA, clsA]
    generalize ({ collect z with pending := u.pending } : State) = a at *
    exact all.trans (congrArg (fun y : State => { reported y a with pending := u.pending }) whole)

/-! ### Overruns (R48 to R53) -/

/-- A TP whose tile has passed its ceiling, and runs on (R51). -/
def overNoted (c : TileCtx) (tp : Tp) : Tp :=
  { tp with
    tile := tp.tile.map fun r => { r with overAt := some (ctxSlip c) }
    next := if tp.wait.isSome then tp.next else max tp.next (movedEnd c).toNat }

/-- A program whose rendezvous has waited beyond its window, from a slip (R51). -/
def baseNoted (c : TileCtx) (k : CollRun) : CollRun := { k with base := if k.base.isSome then k.base else some (ctxSlip c) }

section
variable {t : Fin 128} {c : TileCtx} (tile : tileAny s t = some c)
include tile

/-- A fault of a running job's tile, after a change that leaves the job as it is. -/
theorem faulted_answer {i : Instr} {w : State} (running : c.job.state = 3) (same : getJob w c.slot = getJob s c.slot)
    (given : Gives i s (faultJob c.slot w)) :
    ∃ s', exec i s = .next s' ∧ (getJob s' c.slot).state = 4 ∧ ∀ k, tpRuns c.slot (getTp s' k) = false := by
  obtain ⟨-, -, job, -⟩ := tileAny_eq tile
  have lives : stepLives w c.slot = true := by rw [stepLives, same, ← job, running]; rfl
  obtain ⟨state, halted⟩ := faultJob_stops c.slot w lives
  exact ⟨_, given, by rw [getJob_answer, state], fun k => by rw [getTp_answer, halted]⟩

/-- An overrun that is handled as a fault faults the job (R53). -/
theorem faultOverrun_answer {i : Instr} (running : c.job.state = 3) (given : Gives i s (faultOverrun c s)) :
    ∃ s', exec i s = .next s' ∧ (getJob s' c.slot).state = 4 ∧ ∀ k, tpRuns c.slot (getTp s' k) = false := by
  refine faulted_answer (w := overrunEvent c.t c.tile.tile (haltCycle c - movedEnd c).toNat (ctxSlip c) true
    (modTp c.t (fun tp => { tp with tile := tp.tile.map fun r => { r with overAt := none } }) s)) tile running ?_ given
  rw [getJob_overrunEvent]
  rfl

theorem ceilingOverrun_noted (policy : c.mov.faultPolicy = false) (first : c.tile.overAt = none) :
    ∃ s', exec (.ceilingOverrun t) s = .next s' ∧ s'.mem = s.mem ∧ (getTp s' t).tile = some { c.tile with overAt := some c.job.run.slip } ∧
      s'.jobs = s.jobs ∧ ∀ k, k ≠ t.val → getTp s' k = getTp s k := by
  obtain ⟨ct, -, -, -, -, own, -⟩ := tileAny_eq tile
  have given : Gives (.ceilingOverrun t) s (modTp t (overNoted c) s) := by
    refine gives_run _ _ (execCeilingOverrun.eq_1 t s) ?_
    rw [tile]
    dsimp only
    rw [policy, first]
    rfl
  refine ⟨_, given, collect_mem _, ?_, collect_jobs _, fun k hk => ?_⟩
  · rw [getTp_answer, getTp_modTp_self, overNoted, own]
    rfl
  · rw [getTp_answer, getTp_modTp_ne _ _ _ _ hk]

theorem ceilingOverrun_faults (policy : c.mov.faultPolicy = true) (running : c.job.state = 3) :
    ∃ s', exec (.ceilingOverrun t) s = .next s' ∧ (getJob s' c.slot).state = 4 ∧ ∀ k, tpRuns c.slot (getTp s' k) = false := by
  refine faultOverrun_answer tile running (gives_run _ _ (execCeilingOverrun.eq_1 t s) ?_)
  rw [tile]
  dsimp only
  rw [policy]
  rfl

theorem slipLimitCrossed_faults (policy : c.mov.faultPolicy = false) (running : c.job.state = 3)
    (over_ : c.tile.overAt.isSome = true ∨ (rdvWait c).isSome = true) :
    ∃ s', exec (.slipLimitCrossed t) s = .next s' ∧ (getJob s' c.slot).state = 4 ∧ ∀ k, tpRuns c.slot (getTp s' k) = false := by
  cases wait : rdvWait c with
  | none =>
    have noted : c.tile.overAt.isSome = true := by simpa [wait] using over_
    refine faultOverrun_answer tile running (gives_run _ _ (execSlipLimitCrossed.eq_1 t s) ?_)
    dsimp only
    rw [tile]
    dsimp only
    rw [policy, if_neg (by decide), wait]
    dsimp only
    rw [noted]
    rfl
  | some r =>
    obtain ⟨prog, f, cy, thr⟩ := r
    generalize hn : limitLen c.mov ((tget {} c.job.run.colls prog).base.getD (ctxSlip c)) = n
    obtain ⟨k, up, -, -, -, all⟩ := advanceTo_clock (f + 1000 * c.hdr.rvWindow + nsOfCore s n) s
    have moved := all s rfl rfl
    generalize hv : ({ s with clk := k, upNs := up } : State) = v at moved
    refine faulted_answer (w := overrunEvent t c.tile.tile n (ctxSlip c) true v) tile running ?_
      (gives_run _ _ (execSlipLimitCrossed.eq_1 t s) ?_)
    · rw [getJob_overrunEvent, ← hv]
      rfl
    dsimp only
    rw [tile]
    dsimp only
    rw [policy, if_neg (by decide), wait]
    dsimp only
    rw [hn, moved]

theorem rendezvousOverrun_faults (policy : c.mov.faultPolicy = true) (running : c.job.state = 3) (waits : (rdvWait c).isSome = true) :
    ∃ s', exec (.rendezvousOverrun t) s = .next s' ∧ (getJob s' c.slot).state = 4 ∧ ∀ k, tpRuns c.slot (getTp s' k) = false := by
  obtain ⟨⟨prog, f, cy, thr⟩, wait⟩ := Option.isSome_iff_exists.1 waits
  obtain ⟨k, up, -, -, -, all⟩ := advanceTo_clock (f + 1000 * c.hdr.rvWindow) s
  have moved := all s rfl rfl
  generalize hv : ({ s with clk := k, upNs := up } : State) = v at moved
  refine faulted_answer (w := overrunEvent t c.tile.tile 0 (ctxSlip c) true v) tile running ?_
    (gives_run _ _ (execRendezvousOverrun.eq_1 t s) ?_)
  · rw [getJob_overrunEvent, ← hv]
    rfl
  dsimp only
  rw [tile]
  dsimp only
  rw [wait]
  dsimp only
  rw [policy, moved]
  rfl

theorem rendezvousOverrun_noted {prog f cy thr : Nat} (policy : c.mov.faultPolicy = false) (wait : rdvWait c = some (prog, f, cy, thr)) :
    ∃ s', exec (.rendezvousOverrun t) s = .next s' ∧ f + 1000 * c.hdr.rvWindow ≤ s'.clk.fleet ∧ s.clk.fleet ≤ s'.clk.fleet ∧
      s'.tps = s.tps ∧ s'.mem = s.mem ∧ ((tget {} c.job.run.colls prog).base = none →
        (tget {} (getJob s' c.slot).run.colls prog).base = some c.job.run.slip) := by
  obtain ⟨-, -, job, -⟩ := tileAny_eq tile
  obtain ⟨k, up, reached, later, -, moved⟩ := advanceTo_clock (f + 1000 * c.hdr.rvWindow) s
  have given : Gives (.rendezvousOverrun t) s (modRun c.slot (fun r => { r with colls := tmod {} r.colls prog (baseNoted c) }) { s with clk := k, upNs := up }) := by
    refine gives_run _ _ (execRendezvousOverrun.eq_1 t s) ?_
    dsimp only
    rw [tile]
    dsimp only
    rw [wait]
    dsimp only
    rw [policy, moved s rfl rfl]
    rfl
  have jobW : getJob (modRun c.slot (fun r => { r with colls := tmod {} r.colls prog (baseNoted c) }) { s with clk := k, upNs := up }) c.slot =
      { c.job with run := { c.job.run with colls := tmod {} c.job.run.colls prog (baseNoted c) } } := by
    rw [job]
    exact getJob_modRun_self ..
  have rest : (modRun c.slot (fun r => { r with colls := tmod {} r.colls prog (baseNoted c) }) { s with clk := k, upNs := up }).clk = k ∧
      (modRun c.slot (fun r => { r with colls := tmod {} r.colls prog (baseNoted c) }) { s with clk := k, upNs := up }).tps = s.tps ∧
      (modRun c.slot (fun r => { r with colls := tmod {} r.colls prog (baseNoted c) }) { s with clk := k, upNs := up }).mem = s.mem := ⟨rfl, rfl, rfl⟩
  obtain ⟨clk, tps, mem⟩ := rest
  generalize modRun c.slot _ _ = w at *
  have clkS : ({ collect w with pending := s.pending } : State).clk = k := (collect_clk w).trans clk
  refine ⟨_, given, ?_, ?_, (collect_tps w).trans tps, (collect_mem w).trans mem, fun fresh => ?_⟩
  · rw [clkS]
    exact reached
  · rw [clkS]
    exact later
  · rw [getJob_answer, jobW]
    dsimp only
    rw [tget_tmod_self, baseNoted, fresh]
    rfl

end
end

/-- Settles O11, by `beginTile_begun`, `endTile_ends` and the overruns one by one. -/
theorem tilesBeginAndEnd : Obligations.TilesBeginAndEnd := by
  refine ⟨fun t slot waited s e => ?_, fun t f s u c cy h allowed => tend_answer h allowed, fun t s c tile => ?_⟩
  · intro x old b entry runs active between free mode
    obtain ⟨mem, tp, tps, jobs, cursor⟩ := beginTile_begun mode t slot e
    have given := tileBegin_answer (waited := waited) entry runs active between free mode
    generalize beginTile t slot e s = u at *
    refine ⟨_, given, (collect_mem u).trans mem, ?_, ?_, ?_, ?_, ?_, fun k hk => ?_, fun j hj => ?_, ?_⟩
    · rw [getTp_answer, tp]
      rfl
    · rw [getTp_answer, tp]
      rfl
    · rw [getTp_answer, tp]
      rfl
    · rw [getTp_answer, tp]
      rfl
    · rw [getTp_answer, tp]
      rfl
    · rw [getTp_answer, tps k hk]
    · rw [getJob_answer, jobs j hj]
    · rw [getJob_answer, cursor]
  · intro faults
    exact ⟨ceilingOverrun_noted tile, slipLimitCrossed_faults tile,
      fun prog fl cy thr policy wait => rendezvousOverrun_noted tile policy wait,
      fun policy running => ⟨ceilingOverrun_faults tile policy running, rendezvousOverrun_faults tile policy running⟩⟩

end Sys2Proof.Machine
end

section
/-! PROOFS. A thread instruction that fails a check faults the job of its tile, and its cluster counts each fault (R53, R65, R95, R96). -/

namespace Sys2Proof.Machine

/-! ### What a fault leaves of the clusters' counts (R53) -/

/-- No cluster has counted an instruction or access fault. -/
structure Uncounted (s t : State) : Prop where
  faults : ∀ k, (tget {} t.cls k).faults = (tget {} s.cls k).faults

theorem Uncounted.refl (s : State) : Uncounted s s := ⟨fun _ => rfl⟩

theorem Uncounted.of_cls {s t : State} (h : t.cls = s.cls) : Uncounted s t := ⟨fun k => by rw [h]⟩

theorem Uncounted.trans {s t u : State} (h : Uncounted s t) (h' : Uncounted t u) : Uncounted s u := ⟨fun k => (h'.faults k).trans (h.faults k)⟩

theorem Uncounted.after {s t u : State} (h : Uncounted t u) (h' : Uncounted s t) : Uncounted s u := h'.trans h

theorem Uncounted.ite {c : Prop} [Decidable c] {s t u : State} (ht : Uncounted s t) (hu : Uncounted s u) : Uncounted s (if c then t else u) := by
  split
  · exact ht
  · exact hu

theorem Uncounted.foldl {β : Type} (g : State → β → State) (hg : ∀ s x, Uncounted s (g s x)) (xs : List β) (s : State) :
    Uncounted s (xs.foldl g s) := by
  induction xs generalizing s with
  | nil => exact .refl s
  | cons x xs ih => exact (hg s x).trans (ih _)

theorem uncounted_modJob (j : Nat) (f : Job → Job) (s : State) : Uncounted s (modJob j f s) := .of_cls rfl
theorem uncounted_modPart (p : Nat) (f : Part → Part) (s : State) : Uncounted s (modPart p f s) := .of_cls rfl
theorem uncounted_modStm (p : Nat) (f : Stm → Stm) (s : State) : Uncounted s (modStm p f s) := .of_cls rfl
theorem uncounted_modTp (t : Nat) (f : Tp → Tp) (s : State) : Uncounted s (modTp t f s) := .of_cls rfl
theorem uncounted_post (src code sev : Nat) (p : List Byte) (s : State) : Uncounted s (post src code sev p s) := .of_cls rfl
theorem uncounted_zeroTps (mask : Nat) (s : State) : Uncounted s (zeroTps mask s) := .of_cls rfl
theorem uncounted_makeRunning (j : Nat) (s : State) : Uncounted s (makeRunning j s) := .of_cls rfl

theorem uncounted_bringIn (p : Nat) (out inc : Option Nat) (lines : Nat) (due : Option Nat) (s : State) :
    Uncounted s (bringIn p out inc lines due s) := by
  have begins (p j mask : Nat) : Uncounted s (switchEvent p out inc lines 0 (beginRun p j (zeroTps mask s))) :=
    (uncounted_post ..).after ((uncounted_modPart ..).after ((uncounted_makeRunning ..).after (uncounted_zeroTps ..)))
  unfold bringIn
  split
  · exact (uncounted_post ..).after (uncounted_modPart ..)
  · split
    · exact .ite (begins ..) (uncounted_modPart ..)
    · exact begins ..

theorem uncounted_startNext (p : Nat) (out : Option Nat) (s : State) : Uncounted s (startNext p out s) := by
  refine .ite (.refl s) ?_
  split
  · exact .ite (.refl s) (uncounted_bringIn ..)
  · exact .refl s

theorem uncounted_ringNext (p j : Nat) (x : Job) (s : State) : Uncounted s (ringNext p j x s) :=
  .ite ((uncounted_startNext ..).after (uncounted_modStm ..)) (uncounted_startNext ..)

theorem uncounted_grantUnits (k : Nat) (s : State) : Uncounted s (grantUnits k s) := by
  induction k generalizing s with
  | zero => exact .refl s
  | succ k ih =>
    rw [grantUnits]
    dsimp only
    split
    · exact .ite ((ih _).after ((uncounted_modJob ..).after (uncounted_makeRunning ..))) (.refl s)
    · exact .refl s

/-- An overrun is another count than a fault. -/
theorem uncounted_overrunEvent (t tile len slip : Nat) (faulted : Bool) (s : State) : Uncounted s (overrunEvent t tile len slip faulted s) := by
  refine ⟨fun k => ?_⟩
  have counted : tget {} (overrunEvent t tile len slip faulted s).cls k =
      tget {} (tmod {} s.cls (clusterOf t) fun c => { c with overruns := c.overruns + 1 }) k := rfl
  rw [counted, tget_tmod]
  split
  · next own => rw [own]
  · rfl

theorem uncounted_reportOverruns (j : Nat) (s : State) : Uncounted s (reportOverruns j s) := by
  refine .foldl _ (fun t x => ?_) _ _
  split
  · refine .ite ?_ (.refl t)
    split
    · exact uncounted_overrunEvent ..
    · exact .refl t
  · exact .refl t

theorem uncounted_chargeStep (j : Nat) (committed : Bool) (s : State) : Uncounted s (chargeStep j committed s) := by
  obtain ⟨t, only, charged⟩ := chargeStep_eq j committed s
  rw [charged]
  exact (uncounted_modJob ..).after (.of_cls (congrArg State.cls only :))

theorem uncounted_chargeAttempt (j : Nat) (s : State) : Uncounted s (chargeAttempt j s) := .ite (uncounted_modJob ..) (.refl s)
theorem uncounted_haltJob (j : Nat) (s : State) : Uncounted s (haltJob j s) := .of_cls rfl
theorem uncounted_telBound (p : Nat) (s : State) : Uncounted s (telBound p s) := .of_cls rfl
theorem uncounted_abandonCulture (j : Nat) (s : State) : Uncounted s (abandonCulture j s) := .of_cls rfl
theorem uncounted_releaseLocks (p : Nat) (replay : Bool) (s : State) : Uncounted s (releaseLocks p replay s) := .of_cls rfl
theorem uncounted_skipPut (n a : Nat) (bs : List Byte) (s : State) : Uncounted s (skipFree n (putMem a bs s)) := .of_cls rfl
theorem uncounted_endAttempts (s : State) : Uncounted s (endAttempts s) := .of_cls rfl

theorem uncounted_dropWork (j : Nat) (s : State) : Uncounted s (dropWork j s) := by
  have served : Uncounted s (serveJob j s) := by
    rw [serveJob, serveVat_rest]
    exact .of_cls rfl
  have freed : Uncounted s (freeMatrix (walkedTps s j) (serveJob j s)) := (Uncounted.foldl _ (fun _ _ => uncounted_skipPut ..) _ _).after served
  have dropped : Uncounted (freeMatrix (walkedTps s j) (serveJob j s)) (dropWork j s) := .of_cls rfl
  exact dropped.after freed

/-- A fault is counted by the event that tells it, not by what it stops. -/
theorem uncounted_faultJob (j : Nat) (s : State) : Uncounted s (faultJob j s) := by
  have started (f : Job → Job) : Uncounted s (reportOverruns j (modJob j f s)) := (uncounted_reportOverruns ..).after (uncounted_modJob ..)
  have ended {t u : State} (p : Nat) (h : Uncounted s t) (h' : Uncounted t u) : Uncounted s
      (telBound p (abandonCulture j (dropWork j (haltJob j (chargeStep j false (chargeAttempt j u)))))) :=
    ((uncounted_telBound ..).after (uncounted_abandonCulture ..)).after ((uncounted_dropWork ..).after
      (((uncounted_haltJob ..).after ((uncounted_chargeStep ..).after (uncounted_chargeAttempt ..))).after (h.trans h')))
  have faulted {u : State} (h : Uncounted s u) (f : Job → Job) (p : Nat) (serving : Bool) :
      Uncounted s (modJob j f (if serving then releaseLocks p true u else u)) :=
    (uncounted_modJob ..).after (.ite ((uncounted_releaseLocks ..).after h) h)
  refine .ite (.refl s) (.ite (.ite ?_ ?_) ?_)
  · refine ((uncounted_ringNext ..).after (uncounted_modPart ..)).after (faulted (ended _ (started _) (.ite (uncounted_endAttempts _) (.refl _))) _ _ _)
  · refine ((uncounted_startNext ..).after (uncounted_modPart ..)).after (faulted (ended _ (started _) (.ite (uncounted_endAttempts _) (.refl _))) _ _ _)
  · refine (uncounted_grantUnits ..).after (faulted (ended _ (started _) (.ite (uncounted_endAttempts _) (.refl _))) _ _ _)

/-! ### The issue of a thread instruction (R83, R95, R96) -/

/-- A thread instruction is an issue of what it accepts. -/
theorem threadForm_issue {i : Instr} {o : OpSpec} {t : Fin 128} {f : TField} (form : threadForm i = some (o, t, f)) :
    ∃ act, ∀ s, exec i s = run (issue o t f act) s := by
  unfold threadForm at form
  split at form
  all_goals cases form
  all_goals exact ⟨_, fun _ => rfl⟩

/-- The events of an instruction that fails its checks: the instruction fault, then the access fault (R95, R96). -/
def tellFaults (c : TileCtx) (f : TField) (r : Nat) (acc : Nat × Nat) (s : State) : State :=
  let s1 := if r = 0 then s else instrFaultEvent c.t f.thr.toNat (codeOffset c) r s
  if acc.2 = 0 then s1 else accessFaultEvent c.t f.thr.toNat acc.1 acc.2 s1

/-- Outside an overrun a failing instruction faults its job (R53). -/
theorem failIssue_eq (c : TileCtx) (f : TField) (r : Nat) (acc : Nat × Nat) (s : State) :
    failIssue c f r acc false s = faultJob c.slot (tellFaults c f r acc s) := rfl

/-- A cluster after one of its faults. -/
def faultCounted (c : Cluster) : Cluster := { c with faults := c.faults + 1 }

theorem instrFaultEvent_tells (t thr off reason : Nat) (s : State) : (instrFaultEvent t thr off reason s).cls =
    tmod {} s.cls (clusterOf t) faultCounted ∧ ∀ j, getJob (instrFaultEvent t thr off reason s) j = getJob s j := ⟨rfl, fun _ => rfl⟩

theorem accessFaultEvent_tells (t thr g reason : Nat) (s : State) : (accessFaultEvent t thr g reason s).cls =
    tmod {} s.cls (clusterOf t) faultCounted ∧ ∀ j, getJob (accessFaultEvent t thr g reason s) j = getJob s j := ⟨rfl, fun _ => rfl⟩

/-- The events of a failing instruction count its faults, and leave the jobs as they are. -/
theorem tellFaults_counts (c : TileCtx) (f : TField) (r : Nat) (acc : Nat × Nat) (s : State) :
    (tget {} (tellFaults c f r acc s).cls (clusterOf c.t)).faults =
      (tget {} s.cls (clusterOf c.t)).faults + ((if r = 0 then 0 else 1) + if acc.2 = 0 then 0 else 1) ∧
    ∀ j, getJob (tellFaults c f r acc s) j = getJob s j := by
  unfold tellFaults
  dsimp only
  split <;> split
  · exact ⟨rfl, fun _ => rfl⟩
  · obtain ⟨cls, jobs⟩ := instrFaultEvent_tells c.t f.thr.toNat (codeOffset c) r s
    rw [cls, tget_tmod_self]
    exact ⟨rfl, jobs⟩
  · obtain ⟨cls, jobs⟩ := accessFaultEvent_tells c.t f.thr.toNat acc.1 acc.2 s
    rw [cls, tget_tmod_self]
    exact ⟨rfl, jobs⟩
  · obtain ⟨cls, jobs⟩ := instrFaultEvent_tells c.t f.thr.toNat (codeOffset c) r s
    obtain ⟨cls', jobs'⟩ := accessFaultEvent_tells c.t f.thr.toNat acc.1 acc.2 (instrFaultEvent c.t f.thr.toNat (codeOffset c) r s)
    rw [cls', tget_tmod_self, cls, tget_tmod_self]
    exact ⟨rfl, fun j => (jobs' j).trans (jobs j)⟩

section
variable {s : State} {i : Instr} {o : OpSpec} {t : Fin 128} {f : TField} {c : TileCtx}

/-- A running job that faults stops, and the count of its TP's cluster is what the events before it have made it. -/
theorem fault_counted {w : State} {n : Nat} (given : Gives i s (faultJob c.slot w)) (running : (getJob w c.slot).state = 3)
    (counted : (tget {} w.cls (clusterOf t)).faults = (tget {} s.cls (clusterOf t)).faults + n) :
    ∃ s', exec i s = .next s' ∧ (getJob s' c.slot).state = 4 ∧ (∀ k, tpRuns c.slot (getTp s' k) = false) ∧
      (tget {} s'.cls (t.val / 16)).faults = (tget {} s.cls (t.val / 16)).faults + n := by
  have lives : stepLives w c.slot = true := by rw [stepLives, running]; rfl
  obtain ⟨state, halted⟩ := faultJob_stops c.slot w lives
  have kept := (uncounted_faultJob c.slot w).faults (clusterOf t)
  generalize faultJob c.slot w = u at *
  have cls : ({ collect u with pending := s.pending } : State).cls = u.cls := collect_cls u
  refine ⟨_, given, by rw [getJob_answer, state], fun k => by rw [getTp_answer, halted], ?_⟩
  rw [cls]
  exact kept.trans counted

theorem noteCycle_faults (j cy : Nat) (u : State) : (getJob (noteCycle j cy u) j).state = (getJob u j).state ∧ (noteCycle j cy u).cls = u.cls := by
  rw [noteCycle, getJob_modRun_self]
  exact ⟨rfl, rfl⟩

/-- An instruction that fails as it would issue faults its job, each fault counted (R95, R96). -/
theorem failed_counted {u : State} {cy r : Nat} {acc : Nat × Nat} (own : c.t = t.val) (running : (getJob u c.slot).state = 3) (same : u.cls = s.cls)
    (given : Gives i s (failIssue c f r acc false (noteCycle c.slot cy u))) :
    ∃ s', exec i s = .next s' ∧ (getJob s' c.slot).state = 4 ∧ (∀ k, tpRuns c.slot (getTp s' k) = false) ∧
      (tget {} s'.cls (t.val / 16)).faults = (tget {} s.cls (t.val / 16)).faults + ((if r = 0 then 0 else 1) + if acc.2 = 0 then 0 else 1) := by
  obtain ⟨counts, jobs⟩ := tellFaults_counts c f r acc (noteCycle c.slot cy u)
  obtain ⟨state, cls⟩ := noteCycle_faults c.slot cy u
  rw [cls, same, own] at counts
  exact fault_counted (w := tellFaults c f r acc (noteCycle c.slot cy u)) given (by rw [jobs, state, running]) counts

/-- Past its code a TP faults its job, where no overrun is handled as a fault by then (R95). -/
theorem runOff_eq (early : (c.tp.next : Int) < haltCycle c) :
    runOff c s = faultJob c.slot (instrFaultEvent c.t 0xFF (codeOffset c) 5 (noteCycle c.slot c.tp.next s)) := by
  unfold runOff
  rw [if_neg (by omega)]
  dsimp only
  rw [if_neg (by omega)]

section
variable (form : threadForm i = some (o, t, f)) (tile : tileCtx s t.val = some c) (running : c.job.state = 3)
include form tile running

theorem noInstruction_faults (none_ : c.hdr.codeLen ≤ c.tp.pc ∨ opUndefined c = true) (early : (c.tp.next : Int) < haltCycle c) :
    ∃ s', exec i s = .next s' ∧ (getJob s' c.slot).state = 4 ∧ (∀ k, tpRuns c.slot (getTp s' k) = false) ∧
      (tget {} s'.cls (t.val / 16)).faults = (tget {} s.cls (t.val / 16)).faults + 1 := by
  obtain ⟨act, issues⟩ := threadForm_issue form
  obtain ⟨own, -, job⟩ := tileCtx_tp s t.val c tile
  rw [job] at running
  by_cases past : c.hdr.codeLen ≤ c.tp.pc
  · have given : Gives i s (faultJob c.slot (instrFaultEvent c.t 0xFF (codeOffset c) 5 (noteCycle c.slot c.tp.next s))) := by
      refine gives_run _ _ (issues s) ?_
      unfold issue
      rw [tile]
      dsimp only
      rw [if_pos past, runOff_eq early]
    obtain ⟨cls, jobs⟩ := instrFaultEvent_tells c.t 0xFF (codeOffset c) 5 (noteCycle c.slot c.tp.next s)
    obtain ⟨state, clsN⟩ := noteCycle_faults c.slot c.tp.next s
    refine fault_counted given (by rw [jobs, state, running]) ?_
    rw [cls, clsN, own, tget_tmod_self]
    rfl
  · have undefined_ : opUndefined c = true := none_.resolve_left past
    refine failed_counted (u := s) (cy := c.tp.next) (r := 1) (acc := (0, 0)) (f := f) own running rfl (gives_run _ _ (issues s) ?_)
    unfold issue
    rw [tile]
    dsimp only
    have apart : (haltCycle c == (c.tp.next : Int)) = false := by simp; omega
    rw [if_neg past, undefined_, if_pos rfl, if_neg (by omega), apart]

theorem failedChecks_fault {u : State} {cy : Nat} (nest : c.tp.nest = []) (inCode : c.tp.pc < c.hdr.codeLen) (defined_ : opUndefined c = false)
    (ready : readied o c f s = some (cy, u)) (early : (cy : Int) < haltCycle c) :
    let r := if staticReason o u c f = 0 then laterReason o u c f else staticReason o u c f
    let acc := (accessCheck o u c f).2
    r ≠ 0 ∨ acc ≠ 0 → ∃ s', exec i s = .next s' ∧ (getJob s' c.slot).state = 4 ∧ (∀ k, tpRuns c.slot (getTp s' k) = false) ∧
      (tget {} s'.cls (t.val / 16)).faults = (tget {} s.cls (t.val / 16)).faults + ((if r = 0 then 0 else 1) + if acc = 0 then 0 else 1) := by
  intro r acc fails
  obtain ⟨act, issues⟩ := threadForm_issue form
  obtain ⟨own, -, job⟩ := tileCtx_tp s t.val c tile
  rw [job] at running
  have only := readied_rest ready
  have state : (getJob u c.slot).state = 3 := (congrArg (fun x => (getJob x c.slot).state) only :).trans running
  have event : issueEvent o c f cy u = { cycle := cy, reason := r, access := accessCheck o u c f } := by
    have open_ : deadline c.tp = none := by rw [deadline, nest]; rfl
    unfold issueEvent
    rw [open_]
    simp [r]
  refine failed_counted (u := u) (cy := cy) (r := r) (acc := accessCheck o u c f) (f := f) own state (congrArg State.cls only :)
    (gives_run _ _ (issues s) ?_)
  have apart : (haltCycle c == (cy : Int)) = false := by simp; omega
  have failing : (r != 0 || acc != 0 || false) = true := by simpa using fails
  unfold issue
  rw [tile]
  dsimp only
  rw [if_neg (by omega), defined_, if_neg Bool.false_ne_true, ready]
  dsimp only
  rw [event]
  dsimp only
  rw [if_neg (by omega), apart, if_pos failing]

end
end

/-- Settles O10, by `noInstruction_faults` and `failedChecks_fault`. -/
theorem threadFaults : Obligations.ThreadFaults := by
  intro i o t f s c form tile nest running faults
  exact ⟨noInstruction_faults form tile running, fun u cy => failedChecks_fault form tile running nest⟩

end Sys2Proof.Machine
end

section
/-! PROOFS. What an instruction leaves that has acted on more than its TP, and retires (R73 to R76). -/

namespace Sys2Proof.Machine

/-- The effect of an instruction before it retires: its TP stands where it stood, and no other TP and no other job changes. -/
structure Works (c : TileCtx) (cy : Nat) (u s2 : State) : Prop where
  tps  : ∀ k, k ≠ c.t → getTp s2 k = getTp (issued c cy u) k
  nest : (getTp s2 c.t).nest = (getTp (issued c cy u) c.t).nest
  pc   : (getTp s2 c.t).pc = (getTp (issued c cy u) c.t).pc
  jobs : ∀ j, j ≠ c.slot → getJob s2 j = getJob (issued c cy u) j

/-- What a working instruction leaves once it has retired: its TP is as its effect left it, but for where it stands and the indexes
of loops that end a round. -/
structure Retired (c : TileCtx) (nx : Nat) (u s2 s' : State) : Prop where
  leaves : Leaves u s' c
  steps  : Steps s' c nx
  bytes  : ∀ x, (∀ d ∈ loopIndexes c.tp, x < d ∨ d + 8 ≤ x) → memGet s'.mem x = memGet s2.mem x
  ready  : ∀ a, a ∉ loopIndexes c.tp → tget 0 (getTp s' c.t).ready a = tget 0 (getTp s2 c.t).ready a
  own    : getTp s' c.t = { getTp s2 c.t with pc := (getTp s' c.t).pc, nest := (getTp s' c.t).nest, next := (getTp s' c.t).next
                                              ready := (getTp s' c.t).ready, settled := (getTp s' c.t).settled }
  rest   : s' = { reported s2 s' with mem := s'.mem, tps := s'.tps, pending := u.pending }

section
variable {o : OpSpec} {t : Fin 128} {f : TField} {s u s2 : State} {c : TileCtx} {cy nx : Nat}

theorem issued_jobs_ne {j : Nat} (hj : j ≠ c.slot) : getJob (issued c cy u) j = getJob u j := by
  have noted : getJob (issued c cy u) j = getJob (noteCycle c.slot cy u) j := by rw [getJob, issued_rest]; rfl
  rw [noted, noteCycle, getJob_modRun_ne _ _ _ _ hj]

theorem works_retired (h : Issues o t f s u c cy) (works : Works c cy u s2) :
    Retired c nx u s2 { collect (retire c.t nx s2) with pending := u.pending } := by
  obtain ⟨-, htp⟩ := h.tp
  have nest : (getTp s2 c.t).nest = c.tp.nest := works.nest.trans h.nest_issued
  have indexes : loopIndexes (getTp s2 c.t) = loopIndexes c.tp := by rw [loopIndexes, nest]; rfl
  obtain ⟨tps, own, ready, bytes, outside, rest⟩ := retire_answer c.t nx u s2 (loopIndexes c.tp) indexes _ rfl
  refine ⟨⟨fun k hk => ?_, fun j hj => ?_⟩, fun none_ => ?_, bytes, ready, own, rest⟩
  · rw [tps k hk, works.tps k hk, issued_other c cy k u hk]
  · refine Eq.trans (congrArg (getJob · j) rest :) ((works.jobs j hj).trans (issued_jobs_ne hj))
  · obtain ⟨tp, -⟩ := outside (nest.trans none_)
    rw [tp, works.pc, h.pc_issued]
    exact ⟨rfl, rfl, nest.trans none_⟩

end

end Sys2Proof.Machine
end

section
/-! PROOFS. Block instructions queue their operation, at the cost of the timing contract, or take their Loader channel (R83, R90, R91, R104). -/

namespace Sys2Proof.Machine

section
variable {o : OpSpec} {t : Fin 128} {f : TField} {s u : State} {c : TileCtx} {cy : Nat}

/-! ### Block operations (R90, R91) -/

/-- The issue of an instruction changes TPs and jobs alone. -/
theorem issued_same (c : TileCtx) (cy : Nat) (u : State) : (issued c cy u).blk = u.blk ∧ (issued c cy u).stms = u.stms ∧
    (issued c cy u).mem = u.mem ∧ chipId (issued c cy u) = chipId u := by
  rw [issued_rest]
  exact ⟨rfl, rfl, rfl, rfl⟩

theorem jobStep_issued (c : TileCtx) (cy : Nat) (u : State) : jobStep (issued c cy u) c.slot = jobStep u c.slot := by
  have step : jobStep (issued c cy u) c.slot = jobStep (noteCycle c.slot cy (passCeiling c cy u)) c.slot := rfl
  rw [step, jobStep_noteCycle, passCeiling_rest]
  rfl

/-- A TP that waits for a status word, if the instruction names a register for it. -/
def awaits (dst : Option Nat) (tp : Tp) : Tp := { tp with statuses := dst.toList ++ tp.statuses }

theorem works_modTp {g : Tp → Tp} {w : State} (works : Works c cy u w) (nest : ∀ x, (g x).nest = x.nest) (pc : ∀ x, (g x).pc = x.pc) :
    Works c cy u (modTp c.t g w) :=
  ⟨fun k hk => (getTp_modTp_ne _ _ _ _ hk).trans (works.tps k hk), by rw [getTp_modTp_self, nest, works.nest],
    by rw [getTp_modTp_self, pc, works.pc], works.jobs⟩

theorem works_modRun {g : Run → Run} {w : State} (works : Works c cy u w) : Works c cy u (modRun c.slot g w) :=
  ⟨works.tps, works.nest, works.pc, fun j hj => (getJob_modRun_ne _ _ _ _ hj).trans (works.jobs j hj)⟩

/-- An effect that keeps TPs and jobs. -/
theorem works_of_rows {w : State} (tps : w.tps = (issued c cy u).tps) (jobs : w.jobs = (issued c cy u).jobs) : Works c cy u w := by
  have tp (k : Nat) : getTp w k = getTp (issued c cy u) k := by rw [getTp, getTp, tps]
  exact ⟨fun k _ => tp k, by rw [tp], by rw [tp], fun j _ => by rw [getJob, getJob, jobs]⟩

/-- The operation that a block instruction queues (R90, R91). -/
def queuedOp (u : State) (c : TileCtx) (cy : Nat) (f : TField) (k layer first count cost : Nat) (tps : List Nat) : BlockOp :=
  { slot := c.slot, tp := c.t, thr := f.thr.toNat, tile := c.tile.tile, issued := cy, tps := tps
    dst := statusAddr c f, layer := layer, first := first, count := count, bias := startBias u k c.mov layer
    stepNo := jobStep u c.slot, attempt := c.job.attempt, cost := cost
    began := if queueOf u k = [] then some cy else none }

theorem issueOp_queues (k layer first count cost : Nat) (tps : List Nat) : issueOp k layer first count cost tps f c cy (issued c cy u) =
    retire c.t (cy + 1) (modTp c.t (awaits (statusAddr c f))
      (setQueue k (queueOf u k ++ [queuedOp u c cy f k layer first count cost tps]) (issued c cy u))) := by
  obtain ⟨blk, -, mem, -⟩ := issued_same c cy u
  have queue : queueOf (issued c cy u) k = queueOf u k := by rw [queueOf, blk]; rfl
  have bias : startBias (issued c cy u) k c.mov layer = startBias u k c.mov layer := by
    unfold startBias biasAddr
    rw [mem]
  unfold issueOp
  dsimp only
  rw [queue, bias, jobStep_issued]
  simp only [List.isEmpty_iff]
  rfl

/-- A block operation issues (R90, R91). -/
theorem issueOp_answer (h : Issues o t f s u c cy) (k layer first count cost : Nat) (tps : List Nat) :
    OpIssued u { collect (issueOp k layer first count cost tps f c cy (issued c cy u)) with pending := u.pending } c cy f k layer first count cost tps := by
  rw [issueOp_queues]
  generalize hop : queuedOp u c cy f k layer first count cost tps = op
  generalize hq : setQueue k (queueOf u k ++ [op]) (issued c cy u) = w
  have queue (x : Nat) : queueOf w x = if x = k then queueOf u k ++ [op] else queueOf u x := by
    rw [← hq, queueOf_setQueue]
    exact if_congr Iff.rfl rfl (congrArg (fun b : Blocks => tget [] b.queues x) (issued_same c cy u).1 :)
  have works : Works c cy u w := works_of_rows (by rw [← hq]; rfl) (by rw [← hq]; rfl)
  have only : w = { u with tps := w.tps, jobs := w.jobs, blk := { u.blk with queues := w.blk.queues } } := by
    have same : issued c cy u = { u with tps := (issued c cy u).tps, jobs := (issued c cy u).jobs } := by rw [issued_rest]
    rw [← hq]
    generalize issued c cy u = i at same
    rw [same]
    rfl
  have retired := works_retired (nx := cy + 1) h (works_modTp (g := awaits (statusAddr c f)) works (fun _ => rfl) (fun _ => rfl))
  have kept : (modTp c.t (awaits (statusAddr c f)) w).mem = u.mem := (congrArg State.mem only :)
  have tp : (getTp (modTp c.t (awaits (statusAddr c f)) w) c.t).statuses = (statusAddr c f).toList ++ (getTp w c.t).statuses := by
    rw [getTp_modTp_self]
    rfl
  have outer : modTp c.t (awaits (statusAddr c f)) w = { w with tps := (modTp c.t (awaits (statusAddr c f)) w).tps } := rfl
  generalize modTp c.t (awaits (statusAddr c f)) w = v at *
  obtain ⟨leaves, steps, bytes, -, own, rest⟩ := retired
  generalize ({ collect (retire c.t (cy + 1) v) with pending := u.pending } : State) = s' at *
  have blkS : s'.blk = w.blk := (congrArg State.blk rest :).trans (congrArg State.blk outer :)
  have queues (x : Nat) : queueOf s' x = queueOf w x := congrArg (fun b : Blocks => tget [] b.queues x) blkS
  refine ⟨?_, fun x hx => ?_, fun a ha => ?_, fun x _ hx => ?_, steps, leaves, ?_⟩
  · rw [queues, queue, if_pos rfl, ← hop]
    rfl
  · rw [queues, queue, if_neg hx]
  · rw [own]
    dsimp only
    rw [tp, ha]
    exact List.mem_append_left _ (by simp)
  · rw [bytes x hx, kept]
  · have jobsS : s'.jobs = v.jobs := (congrArg State.jobs rest :)
    rw [jobsS, blkS]
    refine rest.trans ?_
    rw [outer]
    refine (congrArg (fun y : State => { reported y s' with mem := s'.mem, tps := s'.tps, pending := u.pending }) only).trans ?_
    rfl

/-- A block instruction that passes its checks issues its operation (R90). -/
theorem blockIssue_answer {i : Instr} {act : TileCtx → Nat → State → State} (h : Issues o t f s u c cy)
    (hi : exec i s = run (issue o t f act) s) {k layer first count cost : Nat} {tps : List Nat}
    (acts : act c cy (issued c cy u) = issueOp k layer first count cost tps f c cy (issued c cy u)) :
    ∃ s', exec i s = .next s' ∧ OpIssued u s' c cy f k layer first count cost tps := by
  rw [hi, run_issue h, acts]
  exact ⟨_, rfl, issueOp_answer h ..⟩

/-! ### Each block's checks (R127, R142, R149, R163, R270) -/

theorem selStatus_issued (d : LayerDesc) : selStatus (issued c cy u) c d = selStatus u c d := by
  obtain ⟨-, -, mem, -⟩ := issued_same c cy u
  unfold selStatus readLay biasAddr
  rw [mem]

theorem dspStatus_issued (i : Nat) : dspStatus (issued c cy u) c i = dspStatus u c i := by
  obtain ⟨-, -, mem, -⟩ := issued_same c cy u
  unfold dspStatus readLay
  rw [mem, jobStep_issued]

theorem cmbStatus_issued (i : Nat) : cmbStatus (issued c cy u) c i = cmbStatus u c i := by
  obtain ⟨-, -, mem, -⟩ := issued_same c cy u
  unfold cmbStatus readLay
  rw [mem]

theorem culStatus_issued (i : Nat) : culStatus (issued c cy u) c i = culStatus u c i := by
  obtain ⟨-, -, mem, -⟩ := issued_same c cy u
  unfold culStatus readLay
  rw [mem]

theorem sel_answer (h : Issues selSpec t f s u c cy) (passes : selStatus u c (layerAt c.mov (immLayer f)) = 0) :
    ∃ s', exec (.sel t f) s = .next s' ∧ OpIssued u s' c cy f 0 (immLayer f) 0 0
      (2 * cdiv (c.mov.stepBudget * (layerAt c.mov (immLayer f)).experts) 512 + 400) [] := by
  refine blockIssue_answer h rfl ?_
  dsimp only
  rw [selStatus_issued, passes]
  rfl

theorem dsp_answer (h : Issues dspSpec t f s u c cy) (passes : dspStatus u c (immLayer f) = 0) :
    ∃ s', exec (.dsp t f) s = .next s' ∧ OpIssued u s' c cy f 1 (immLayer f) 0 0 (2 * cdiv (layerAt c.mov (immLayer f)).reserved 64 + 600) [] := by
  refine blockIssue_answer h rfl ?_
  dsimp only
  rw [dspStatus_issued, passes]
  rfl

theorem cmb_answer (h : Issues cmbSpec t f s u c cy) (passes : cmbStatus u c (immLayer f) = 0) :
    ∃ s', exec (.cmb t f) s = .next s' ∧ OpIssued u s' c cy f 2 (immLayer f) 0 0
      (cdiv (churnA c.mov (layerAt c.mov (immLayer f)) * dModel (layerAt c.mov (immLayer f))) 2048 + 500) [] := by
  refine blockIssue_answer h rfl ?_
  dsimp only
  rw [cmbStatus_issued, passes]
  rfl

theorem cul_answer (h : Issues culSpec t f s u c cy) (passes : culStatus u c (immLayer f) = 0) :
    ∃ s', exec (.cul t f) s = .next s' ∧ OpIssued u s' c cy f 3 (immLayer f) 0 0
      (cdiv (readPar u.mem (layerAt c.mov (immLayer f)).cultureBase).budget 256 + 300) [] := by
  refine blockIssue_answer h rfl ?_
  dsimp only
  rw [culStatus_issued, passes, issued_mem]
  rfl

theorem grw_answer {e n : Nat} (h : Issues grwSpec t f s u c cy) (range : grwRange f = (e, n)) (passes : (grwStatus c e n).1 = 0) :
    ∃ s', exec (.grw t f) s = .next s' ∧ OpIssued u s' c cy f (4 + c.t / 16) 0 e n (sumNat (((c.mov.entries.drop e).take n).map entryCost))
      (walkTps (c.t / 16) ((c.mov.entries.drop e).take n)) := by
  refine blockIssue_answer h rfl ?_
  dsimp only
  rw [range]
  dsimp only
  rw [passes]
  rfl

/-! ### LDX (R103 to R110) -/

/-- Lines that are deferred are queued, counted and reported (R34). -/
theorem addDeferred_rest (r : HbmReq) (s : State) : addDeferred r s = { s with hbm := (addDeferred r s).hbm, ev.queue := (addDeferred r s).ev.queue } := by
  have posts (xs : List (Nat × Nat)) (slot : Nat) : ∀ w : State, ∃ q,
      xs.foldl (fun s x => post (0x18 + x.1 / 32) 3 1 (pl1 x.1 ++ pl1 slot ++ pl4 x.2) s) w = { w with ev.queue := q } := by
    induction xs with
    | nil => exact fun w => ⟨w.ev.queue, rfl⟩
    | cons x xs ih =>
      intro w
      obtain ⟨q, posted⟩ := ih (post (0x18 + x.1 / 32) 3 1 (pl1 x.1 ++ pl1 slot ++ pl4 x.2) w)
      exact ⟨q, posted⟩
  unfold addDeferred deferLines
  dsimp only
  obtain ⟨q, posted⟩ := posts r.late r.slot { s with hbm := { s.hbm with
        deferred := s.hbm.deferred ++ [{ r with id := s.hbm.nextReq }], nextReq := s.hbm.nextReq + 1
        stack0 := { s.hbm.stack0 with deferred := s.hbm.stack0.deferred + sumNat ((r.late.filter fun x => decide (0 ≤ x.1) && decide (x.1 < 0 + 32)).map (·.2)) }
        stack1 := { s.hbm.stack1 with deferred := s.hbm.stack1.deferred + sumNat ((r.late.filter fun x => decide (32 ≤ x.1) && decide (x.1 < 32 + 32)).map (·.2)) } } }
  rw [posted]

/-- A channel's first lines are asked for: its descriptor is as before but for the lines still to come. -/
theorem feedChannel_some {ch : Nat} {w : State} {x : LoadOp} (holds : channelOp w ch = some x) : ∃ ls, channelOp (feedChannel ch w) ch = some { x with lines := ls } ∧
    (∀ k, k ≠ ch → channelOp (feedChannel ch w) k = channelOp w k) ∧
    feedChannel ch w = { w with hbm := (feedChannel ch w).hbm, blk := (feedChannel ch w).blk, ev.queue := (feedChannel ch w).ev.queue } := by
  have put (op : Option LoadOp) (v : State) (k : Nat) : channelOp (setChannel ch op v) k = if k = ch then op else channelOp v k := tget_tput ..
  unfold feedChannel
  rw [holds]
  dsimp only
  generalize (splitLines x.q x.lines).2 = ls
  generalize (splitLines x.q x.lines).1.foldl _ _ = v
  generalize hz : ({ w with hbm := { w.hbm with use := v.use, useAll := v.useAll } } : State) = z
  have chans (k : Nat) : channelOp z k = channelOp w k := by rw [← hz]; rfl
  have rest : z = { w with hbm := z.hbm } := by rw [← hz]
  refine ⟨ls, ?_⟩
  have set_ : channelOp (setChannel ch (some { x with lines := ls }) z) ch = some { x with lines := ls } ∧
      (∀ k, k ≠ ch → channelOp (setChannel ch (some { x with lines := ls }) z) k = channelOp w k) ∧
      setChannel ch (some { x with lines := ls }) z = { w with hbm := (setChannel ch (some { x with lines := ls }) z).hbm,
                                                                              blk := (setChannel ch (some { x with lines := ls }) z).blk } := by
    refine ⟨by rw [put, if_pos rfl], fun k hk => by rw [put, if_neg hk, chans], ?_⟩
    rw [rest]
    rfl
  generalize setChannel ch (some { x with lines := ls }) z = y at *
  obtain ⟨own, others, only⟩ := set_
  split
  · refine ⟨own, others, ?_⟩
    rw [only]
  · generalize hr : HbmReq.mk _ _ _ _ _ _ _ _ _ _ _ _ _ = r
    have added := addDeferred_rest r y
    generalize addDeferred r y = a at *
    have blk : a.blk = y.blk := (congrArg State.blk added :)
    have chan (k : Nat) : channelOp a k = channelOp y k := congrArg (fun b : Blocks => tget none b.channels k) blk
    refine ⟨by rw [chan, own], fun k hk => by rw [chan, others k hk], ?_⟩
    rw [added, only]

theorem ldxGlobal_issued : ldxGlobal (issued c cy u) c f = ldxGlobal u c f := by rw [ldxGlobal, readScalar_issued]; rfl

theorem isRemote_issued (g : Nat) : isRemote (issued c cy u) g = isRemote u g := by rw [issued_rest]; rfl

/-- The effect of LDX: its descriptor takes its channel, with its code and cost (R104, R110). -/
theorem ldx_issue (h : Issues ldxSpec t f s u c cy) : ∃ (op : LoadOp) (g : Run → Run), exec (.ldx t f) s =
      .next { collect (retire c.t (cy + 1) (modRun c.slot g (modTp c.t (awaits (statusAddr c f))
        (feedChannel (ldxChannel f) (setChannel (ldxChannel f) (some op) (issued c cy u)))))) with pending := u.pending } ∧
    op.slot = c.slot ∧ op.tp = c.t ∧ op.desc = ldxAddr u c f ∧ op.began = cy ∧ op.dst = statusAddr c f ∧
    (op.code ≠ 0 → op.cost = 48) ∧ (isRemote u (ldxGlobal u c f) = true → op.code = 7) := by
  refine ⟨_, _, run_issue h _, rfl, rfl, ?_, rfl, rfl, fun code => if_neg code, fun remote => if_pos ?_⟩
  · exact congrArg globalLocal ldxGlobal_issued
  · rw [ldxGlobal_issued, isRemote_issued, remote]

theorem ldx_answer (h : Issues ldxSpec t f s u c cy) :
    ∃ s' o, exec (.ldx t f) s = .next s' ∧ channelOp s' (ldxChannel f) = some o ∧
      o.slot = c.slot ∧ o.tp = c.t ∧ o.desc = ldxAddr u c f ∧ o.began = cy ∧ o.dst = statusAddr c f ∧
      (o.code ≠ 0 → o.cost = 48) ∧ (isRemote u (ldxGlobal u c f) = true → o.code = 7) ∧
      (∀ a, statusAddr c f = some a → a ∈ (getTp s' c.t).statuses) ∧
      (∀ ch, ch ≠ ldxChannel f → channelOp s' ch = channelOp s ch) ∧
      BytesBut u s' c 0 0 ∧ Steps s' c (cy + 1) ∧ Leaves u s' c := by
  obtain ⟨op, g, answer, slot, tp, desc, began, dst, cost, code⟩ := ldx_issue h
  have put (k : Nat) : channelOp (setChannel (ldxChannel f) (some op) (issued c cy u)) k = if k = ldxChannel f then some op else channelOp u k :=
    (tget_tput ..).trans (if_congr Iff.rfl rfl (congrArg (fun b : Blocks => tget none b.channels k) (issued_same c cy u).1))
  have same : u.blk = s.blk := (congrArg State.blk (readied_rest h.at_) :)
  have setRows : (setChannel (ldxChannel f) (some op) (issued c cy u)).tps = (issued c cy u).tps ∧
      (setChannel (ldxChannel f) (some op) (issued c cy u)).jobs = (issued c cy u).jobs ∧
      (setChannel (ldxChannel f) (some op) (issued c cy u)).mem = u.mem := ⟨rfl, rfl, issued_mem c cy u⟩
  generalize setChannel (ldxChannel f) (some op) (issued c cy u) = w at *
  obtain ⟨tps, jobs, mem⟩ := setRows
  obtain ⟨ls, fed, others, only⟩ := feedChannel_some (w := w) ((put (ldxChannel f)).trans (if_pos rfl))
  generalize feedChannel (ldxChannel f) w = y at *
  have works : Works c cy u y := works_of_rows ((congrArg State.tps only :).trans tps) ((congrArg State.jobs only :).trans jobs)
  have retired := works_retired (nx := cy + 1) h (works_modRun (g := g) (works_modTp (g := awaits (statusAddr c f)) works (fun _ => rfl) (fun _ => rfl)))
  have kept : (modRun c.slot g (modTp c.t (awaits (statusAddr c f)) y)).mem = y.mem ∧ (modRun c.slot g (modTp c.t (awaits (statusAddr c f)) y)).blk = y.blk ∧
      getTp (modRun c.slot g (modTp c.t (awaits (statusAddr c f)) y)) c.t = awaits (statusAddr c f) (getTp y c.t) := ⟨rfl, rfl, getTp_modTp_self ..⟩
  obtain ⟨memV, blkV, tpV⟩ := kept
  generalize modRun c.slot g (modTp c.t (awaits (statusAddr c f)) y) = v at *
  obtain ⟨leaves, steps, bytes, -, own, rest⟩ := retired
  generalize ({ collect (retire c.t (cy + 1) v) with pending := u.pending } : State) = s' at *
  have blkS : s'.blk = y.blk := (congrArg State.blk rest :).trans blkV
  have chan (k : Nat) : channelOp s' k = channelOp y k := congrArg (fun b : Blocks => tget none b.channels k) blkS
  refine ⟨s', { op with lines := ls }, answer, (chan _).trans fed, slot, tp, desc, began, dst, cost, code, fun a ha => ?_, fun k hk => ?_,
    fun x _ hx => ?_, steps, leaves⟩
  · rw [own]
    dsimp only
    rw [tpV, ha]
    exact List.mem_append_left _ (by simp)
  · rw [chan, others k hk, put, if_neg hk, channelOp, same]
    rfl
  · rw [bytes x hx, memV]
    exact congrArg (memGet · x) ((congrArg State.mem only :).trans mem)

end

/-- Settles O9, by `issueOp_answer` for the blocks and `ldx_answer`. -/
theorem blockInstructions : Obligations.BlockInstructions := by
  intro t f s u c cy i d e n es
  exact ⟨sel_answer, dsp_answer, cmb_answer, cul_answer, fun h => grw_answer h rfl, ldx_answer⟩

end Sys2Proof.Machine
end

section
/-! PROOFS. MMA, and the INT8 block product (R81, R83). -/

namespace Sys2Proof.Machine

/-! ### The INT8 block (R81) -/

theorem signed_wrapInt_add (v w : Int) : wrapInt 32 (signed 32 (wrapInt 32 v) + w) = wrapInt 32 (v + w) := by
  rw [wrapInt_eq_ofInt, wrapInt_eq_ofInt, wrapInt_eq_ofInt, signed_eq_toInt (by decide), BitVec.ofInt_add, BitVec.ofInt_toInt, ← BitVec.ofInt_add]

theorem wrapInt_signed {x : Nat} (h : x < 2 ^ 32) : wrapInt 32 (signed 32 x) = x := by
  have same : x = (BitVec.ofNat 32 x).toNat := by rw [BitVec.toNat_ofNat, Nat.mod_eq_of_lt h]
  rw [same, signed_eq_toInt (by decide), wrapInt_eq_ofInt, BitVec.ofInt_toInt]

/-- A sum of products that wraps at each step is the wrapped sum. -/
theorem dotInt_sum {c : Nat} (h : c < 2 ^ 32) (xs ys : List Nat) :
    dotInt c xs ys = wrapInt 32 (signed 32 c + (List.zipWith (fun a b => signed 8 a * signed 8 b) xs ys).foldr (· + ·) 0) := by
  induction xs generalizing c ys with
  | nil => simp [dotInt, wrapInt_signed h]
  | cons x xs ih =>
    cases ys with
    | nil => simp [dotInt, wrapInt_signed h]
    | cons y ys =>
      rw [dotInt, ih (wrapInt_lt _ _), signed_wrapInt_add, List.zipWith_cons_cons, List.foldr_cons, Int.add_assoc]

/-- An element of equal rows, row by row. -/
theorem getD_flatten {n : Nat} (rows : List (List Nat)) (width : ∀ r ∈ rows, r.length = n) (i j : Nat) (hi : i < rows.length) (hj : j < n) :
    rows.flatten.getD (n * i + j) 0 = (rows.getD i []).getD j 0 := by
  induction rows generalizing i with
  | nil => exact absurd hi (Nat.not_lt_zero _)
  | cons r rows ih =>
    have len : r.length = n := width r (by simp)
    cases i with
    | zero => rw [List.flatten_cons, Nat.mul_zero, Nat.zero_add, List.getD_append _ _ _ _ (by omega)]; rfl
    | succ i =>
      have later : r.length ≤ n * (i + 1) + j := by rw [len, Nat.mul_succ]; omega
      have shift : n * (i + 1) + j - r.length = n * i + j := by rw [len, Nat.mul_succ]; omega
      rw [List.flatten_cons, List.getD_append_right _ _ _ _ later, shift, ih (fun x hx => width x (by simp [hx])) i (by simpa using hi)]
      rfl

theorem length_blockElems (t : ElTy) (v : Nat) : (blockElems t v).length = 1024 := by simp [blockElems, lanesOf, upFrom_eq_range]

/-- Row i of a block, element by element. -/
theorem blockRow_eq {xs : List Nat} (len : xs.length = 1024) {i : Nat} (hi : i < 32) :
    blockRow xs i = (upFrom 0 32).map fun k => xs.getD (32 * i + k) 0 := by
  refine List.ext_getElem (by simp [blockRow, upFrom_eq_range, len]; omega) fun k hk _ => ?_
  have small : k < 32 := by simp [blockRow] at hk; omega
  have inside : 32 * i + k < xs.length := by omega
  simp [blockRow, upFrom_eq_range, inside]

/-- Element (i, j) of an INT8 block product (R81). -/
theorem mmaBlock_int8 (a b c i j : Nat) (hi : i < 32) (hj : j < 32) :
    bits (mmaBlock .i8 .i8 a b c) (32 * (32 * i + j)) 32 =
      wrapInt 32 (signed 32 (bits c (32 * (32 * i + j)) 32) +
        ((upFrom 0 32).map fun k => signed 8 (bits a (8 * (32 * i + k)) 8) * signed 8 (bits b (8 * (32 * k + j)) 8)).foldr (· + ·) 0) := by
  have elem (v n : Nat) (hn : n < 1024) : (blockElems .i8 v).getD n 0 = bits v (8 * n) 8 := getD_lanesOf hn
  have row (k : Nat) (hk : k < 32) : blockRow (lanesOf 32 1024 c) k = (upFrom 0 32).map fun n => bits c (32 * (32 * k + n)) 32 := by
    rw [blockRow_eq (by simp [lanesOf, upFrom_eq_range]) hk]
    refine List.map_congr_left fun n hn => ?_
    have small : n < 32 := by simpa [upFrom_eq_range] using hn
    exact getD_lanesOf (by omega)
  rw [mmaBlock, bits_ofLanes]
  rw [getD_flatten (n := 32) _ (fun r hr => ?_) i j (by simp [upFrom_eq_range, hi]) hj]
  · have dot : dotInt (bits c (32 * (32 * i + j)) 32) (blockRow (blockElems .i8 a) i) (blockCol (blockElems .i8 b) j) =
        wrapInt 32 (signed 32 (bits c (32 * (32 * i + j)) 32) +
          ((upFrom 0 32).map fun k => signed 8 (bits a (8 * (32 * i + k)) 8) * signed 8 (bits b (8 * (32 * k + j)) 8)).foldr (· + ·) 0) := by
      rw [dotInt_sum (bits_lt _ _ _), blockRow_eq (length_blockElems _ _) hi, blockCol, List.zipWith_map, List.zipWith_self]
      congr 3
      refine List.map_congr_left fun k hk => ?_
      have small : k < 32 := by simpa [upFrom_eq_range] using hk
      have second : ((blockElems .i8 b)[32 * k + j]?).getD 0 = bits b (8 * (32 * k + j)) 8 := by
        rw [← List.getD_eq_getElem?_getD, elem _ _ (by omega)]
      rw [elem _ _ (by omega), second]
    have entry : (((upFrom 0 32).map fun i => List.zipWith (fun c0 col =>
          if elIsInt .i8 then dotInt c0 (blockRow (blockElems .i8 a) i) col else dotFp .i8 .i8 c0 (blockRow (blockElems .i8 a) i) col)
        (blockRow (lanesOf 32 1024 c) i) ((upFrom 0 32).map (blockCol (blockElems .i8 b)))).getD i []).getD j 0 =
        dotInt (bits c (32 * (32 * i + j)) 32) (blockRow (blockElems .i8 a) i) (blockCol (blockElems .i8 b) j) := by
      simp [upFrom_eq_range, hi, hj, row, elIsInt]
    rw [entry, dot, Nat.mod_eq_of_lt (wrapInt_lt _ _)]
  · obtain ⟨k, hk, rfl⟩ := List.mem_map.1 hr
    have small : k < 32 := by simpa [upFrom_eq_range] using hk
    simp [row k small, upFrom_eq_range]

/-! ### MMA (R80, R81) -/

/-- A TP whose engine has taken a block, done with its accumulator at a cycle. -/
def engineTakes (ms : List MmaRun) (acc stop : Nat) (tp : Tp) : Tp :=
  { tp with mmas := ms, accReady := tput tp.accReady acc stop, settled := max tp.settled stop }

/-- The block product that an MMA leaves in its accumulator (R81). -/
def mmaOut (c : TileCtx) (f : TField) (u : State) : Nat :=
  mmaBlock (tyOf f) (mmaTyB f) (memNat u.mem (bufferLine c.t (bits f.imm.toNat 0 9)) (1024 * elSize (tyOf f)))
    (memNat u.mem (bufferLine c.t (bits f.imm.toNat 16 9)) (1024 * elSize (mmaTyB f)))
    (if bitAt f.mod.toNat 0 then 0 else memNat u.mem (accLine c.t (opIndex f.dst)) 4096)

/-- The cycle in which the engine is done with an MMA of a cycle. -/
def mmaStop (c : TileCtx) (f : TField) (cy : Nat) : Nat :=
  max cy (maxNat (c.tp.mmas.map (·.done))) + (if elSize (tyOf f) = 1 then 32 else 64)

theorem blockLines_bytes (ty : ElTy) : 64 * blockLines ty = 1024 * elSize ty := by
  rw [blockLines, ← Nat.mul_assoc]

section
variable {t : Fin 128} {f : TField} {s u : State} {c : TileCtx} {cy : Nat} (h : Issues mmaSpec t f s u c cy)
include h

theorem mma_issue : ∃ ms, exec (.mma t f) s = .next { collect (retire c.t (cy + 1) (modTp c.t (engineTakes ms (opIndex f.dst / 64) (mmaStop c f cy))
    (putMemNat (accLine c.t (opIndex f.dst)) 4096 (mmaOut c f u) (issued c cy u)))) with pending := u.pending } := by
  have answer : exec (.mma t f) s = _ := run_issue h _
  dsimp only at answer
  rw [blockLines_bytes, blockLines_bytes, issued_mem] at answer
  exact ⟨_, answer⟩

theorem mma_answer : ∃ s', exec (.mma t f) s = .next s' ∧
    (OffIndexes c (accLine c.t (opIndex f.dst)) 4096 → memRead s'.mem (accLine c.t (opIndex f.dst)) 4096 = leBytes 4096 (mmaOut c f u)) ∧
    BytesBut u s' c (accLine c.t (opIndex f.dst)) 4096 ∧ Steps s' c (cy + 1) ∧ Stays u s' c cy ∧
    tget 0 (getTp s' c.t).accReady (opIndex f.dst / 64) = mmaStop c f cy := by
  obtain ⟨ms, answer⟩ := mma_issue h
  have length : (leBytes 4096 (mmaOut c f u)).length = 4096 := leBytes_length ..
  generalize hv : leBytes 4096 (mmaOut c f u) = v at length
  generalize accLine c.t (opIndex f.dst) = a at *
  generalize mmaStop c f cy = stop at *
  generalize opIndex f.dst / 64 = k at *
  rw [putMemNat, hv] at answer
  obtain ⟨-, htp⟩ := h.tp
  have acts : Acts c (issued c cy u) (modTp c.t (engineTakes ms k stop) (putMem a v (issued c cy u))) :=
    ⟨fun x hu => getTp_modTp_ne _ _ _ _ hu, by rw [getTp_modTp_self]; rfl, by rw [getTp_modTp_self]; rfl, rfl⟩
  have works : Works c cy u (modTp c.t (engineTakes ms k stop) (putMem a v (issued c cy u))) :=
    ⟨acts.tps, acts.nest, acts.pc, fun _ _ => rfl⟩
  have written : (modTp c.t (engineTakes ms k stop) (putMem a v (issued c cy u))).mem = memWrite u.mem a v := by
    rw [← issued_mem c cy u]
    rfl
  have tp : (getTp (modTp c.t (engineTakes ms k stop) (putMem a v (issued c cy u))) c.t).accReady =
      tput (getTp (putMem a v (issued c cy u)) c.t).accReady k stop := by
    rw [getTp_modTp_self]
    rfl
  have retired := works_retired (nx := cy + 1) h works
  obtain ⟨stays, steps, bytes, -⟩ := retired_stays u _ c cy (cy + 1) htp acts _ rfl
  generalize modTp c.t (engineTakes ms k stop) (putMem a v (issued c cy u)) = w at *
  rw [written] at bytes
  refine ⟨_, answer, fun off => ?_, fun x hx hd => ?_, steps, stays, ?_⟩
  · rw [memRead_congr _ (memWrite u.mem a v) _ _ fun x hx1 hx2 => bytes x fun d hd => ?_, ← length]
    · exact memRead_memWrite v u.mem a
    · have := off d hd
      unfold Apart at this
      omega
  · rw [bytes x hd]
    exact memGet_memWrite_outside _ _ _ _ (by rw [length]; exact hx)
  · rw [retired.own]
    dsimp only
    rw [tp, tget_tput_self]

end

/-- Settles O8, by `mma_answer` and `mmaBlock_int8`. -/
theorem matrixMultiply : Obligations.MatrixMultiply := by
  refine ⟨fun t f s u c cy h => ?_, mmaBlock_int8⟩
  exact mma_answer h

end Sys2Proof.Machine
end

section
/-! PROOFS. LD and ST at another chip (R12, R71, R72, R83). -/

namespace Sys2Proof.Machine

/-- A class B frame of this chip waits on the link of its route (R189). -/
theorem sendVia_queued {rt : Table Nat} {f : Frame} {w : State} {n : Nat} (way : routeVia rt w f.dst.toNat = some n) (cls : f.cls = 2) :
    (getLink (sendVia rt f w) n).qB = (getLink w n).qB ++ [{ fr := f }] := by
  unfold sendVia
  rw [way]
  dsimp only
  rw [enqueue, getLink_modLink_self, cls]
  rfl

/-- A remote access under its tag, as it is remembered (R72). -/
def askedOf (s : State) (c : TileCtx) (f : TField) (g : Nat) (keys : List Nat) (into : Option Nat) (size : Nat) : Remote :=
  { tag := s.net.nextTag, slot := c.slot, tp := c.t, thr := f.thr.toNat, chip := globalChip g, addr := g, keys := keys, into := into,
    size := size, from_ := s.clk.fleet }

/-- A remote access is remembered, and the tag used (R72). -/
def remembered (r : Remote) (kind : Nat) (s : State) : State := { s with net := { s.net with
  nextTag := (s.net.nextTag + 1) % 65536, remotes := s.net.remotes ++ [r], dropped := s.net.dropped.erase (kind, s.net.nextTag) } }

theorem works_of_sends {c : TileCtx} {cy : Nat} {u w : State} (sends : SendsOnly (issued c cy u) w) : Works c cy u w :=
  works_of_rows sends.tps (sends.keeps State.jobs fun _ _ _ _ => rfl)

theorem sendRemote_eq (c : TileCtx) (f : TField) (kind arg g : Nat) (keys : List Nat) (into : Option Nat) (size : Nat) (payload : List Byte)
    (s : State) : sendRemote c f kind arg g keys into size payload s =
      sendVia (getPart s (jobPart c.job)).routes (mkFrame s 2 kind (globalChip g) arg s.net.nextTag payload)
        (remembered (askedOf s c f g keys into size) kind s) := rfl

section
variable {o : OpSpec} {t : Fin 128} {f : TField} {s u : State} {c : TileCtx} {cy : Nat} (h : Issues o t f s u c cy)
include h

/-- An instruction's issue changes memory, Vat accesses, TPs and jobs alone. -/
theorem Issues.only : issued c cy u = { s with mem := u.mem, ecc := u.ecc, vat := u.vat, tps := (issued c cy u).tps, jobs := (issued c cy u).jobs } := by
  rw [issued_rest, readied_rest h.at_]

/-- A remote access goes out: it is remembered under its tag, and its frame waits on its route (R12, R71, R72). -/
theorem sendRemote_issued (kind arg g : Nat) (keys : List Nat) (into : Option Nat) (size : Nat) (payload : List Byte) :
    let w := sendRemote c f kind arg g keys into size payload (issued c cy u)
    SendsOnly (issued c cy u) w ∧ w.net.remotes = s.net.remotes ++ [askedOf s c f g keys into size] ∧
    w.net.nextTag = (s.net.nextTag + 1) % 65536 ∧
    ∀ n, routeVia (getPart s (jobPart c.job)).routes s (globalChip g) = some n →
      (getLink w n).qB = (getLink s n).qB ++ [{ fr := mkFrame s 2 kind (globalChip g) arg s.net.nextTag payload }] := by
  have only := h.only
  rw [sendRemote_eq]
  generalize issued c cy u = i at only
  have same : i.net = s.net ∧ getPart i (jobPart c.job) = getPart s (jobPart c.job) ∧ (∀ rt d, routeVia rt i d = routeVia rt s d) ∧
      (∀ a p, mkFrame i 2 kind a arg p payload = mkFrame s 2 kind a arg p payload) ∧ (∀ n, getLink i n = getLink s n) ∧
      askedOf i c f g keys into size = askedOf s c f g keys into size := by
    rw [only]
    exact ⟨rfl, rfl, fun _ _ => rfl, fun _ _ => rfl, fun _ => rfl, rfl⟩
  obtain ⟨net, part, ways, frames, links, asks⟩ := same
  rw [net, part, frames, asks]
  generalize hv : remembered (askedOf s c f g keys into size) kind i = v
  have sends : SendsOnly i v := by rw [← hv]; rfl
  have noted : v.net.remotes = s.net.remotes ++ [askedOf s c f g keys into size] ∧ v.net.nextTag = (s.net.nextTag + 1) % 65536 := by
    rw [← hv, ← net]
    exact ⟨rfl, rfl⟩
  have waysV (rt : Table Nat) (d : Nat) : routeVia rt v d = routeVia rt s d := by rw [← ways, ← hv]; rfl
  have linksV (n : Nat) : getLink v n = getLink s n := by rw [← links, ← hv]; rfl
  obtain ⟨remotes, tag⟩ := noted
  have queued := linksOnly_sendVia (getPart s (jobPart c.job)).routes (mkFrame s 2 kind (globalChip g) arg s.net.nextTag payload) v
  have netW := (congrArg State.net queued :)
  refine ⟨sends.trans queued.sends, ?_, ?_, fun n way => ?_⟩
  · rw [← remotes]
    exact congrArg Net.remotes netW
  · rw [← tag]
    exact congrArg Net.nextTag netW
  · have dst : (mkFrame s 2 kind (globalChip g) arg s.net.nextTag payload).dst.toNat = globalChip g := by
      have small : globalChip g < 2 ^ 12 := bits_lt _ _ _
      exact (BitVec.toNat_ofNat ..).trans (Nat.mod_eq_of_lt small)
    rw [← linksV]
    exact sendVia_queued (by rw [dst, waysV, way]) rfl

/-- A remote access has gone out, its TP has noted it, and the instruction retires. -/
theorem remote_retired {g : Tp → Tp} {nx : Nat} {w : State} (sends : SendsOnly (issued c cy u) w) (nest : ∀ x, (g x).nest = x.nest)
    (pc : ∀ x, (g x).pc = x.pc) :
    let s' : State := { collect (retire c.t nx (modTp c.t g w)) with pending := u.pending }
    BytesBut u s' c 0 0 ∧ Steps s' c nx ∧ Leaves u s' c ∧ (getTp s' c.t).arriving = (g (getTp w c.t)).arriving ∧ s'.net = w.net ∧ s'.links = w.links := by
  obtain ⟨leaves, steps, bytes, -, own, rest⟩ := works_retired (nx := nx) h (works_modTp (works_of_sends sends) nest pc)
  have kept : (modTp c.t g w).mem = u.mem ∧ (modTp c.t g w).net = w.net ∧ (modTp c.t g w).links = w.links :=
    ⟨sends.mem.trans (issued_mem c cy u), rfl, rfl⟩
  have tp : getTp (modTp c.t g w) c.t = g (getTp w c.t) := getTp_modTp_self ..
  generalize modTp c.t g w = v at *
  obtain ⟨mem, net, links⟩ := kept
  intro s'
  refine ⟨fun x _ hx => ?_, steps, leaves, ?_, (congrArg State.net rest :).trans net, (congrArg State.links rest :).trans links⟩
  · rw [bytes x hx, mem]
  · rw [own]
    dsimp only
    rw [tp]

end

section
variable {t : Fin 128} {f : TField} {s u : State} {c : TileCtx} {cy : Nat}

theorem globalAddr_issued : globalAddr (issued c cy u) c.t f = globalAddr u c.t f := by rw [globalAddr, readScalar_issued]; rfl

/-- A TP that waits for the data of a load. -/
def expects (key : Nat) (tp : Tp) : Tp := { tp with arriving := key :: tp.arriving }

theorem ld_remote (h : Issues ldSpec t f s u c cy) (remote : isRemote u (globalAddr u c.t f) = true) :
    exec (.ld t f) s = .next { collect (retire c.t (cy + 1 + frameCycles ldSpec f) (modTp c.t (expects (opAddr c.t f.thr.toNat f.dst))
      (sendRemote c f 0x09 (globalAddr u c.t f / 64 * 64) (globalAddr u c.t f) [opAddr c.t f.thr.toNat f.dst] (some (opAddr c.t f.thr.toNat f.dst))
        (opSize f.dst) [] (issued c cy u)))) with pending := u.pending } := by
  have answer : exec (.ld t f) s = _ := run_issue h _
  dsimp only at answer
  rw [globalAddr_issued, isRemote_issued, remote, if_pos rfl] at answer
  exact answer

theorem st_remote (h : Issues stSpec t f s u c cy) (remote : isRemote u (globalAddr u c.t f) = true) :
    exec (.st t f) s = .next { collect (retire c.t (cy + 1 + frameCycles stSpec f) (sendRemote c f 0x08
      (writeArg (globalAddr u c.t f) (readOp u c.t f.thr.toNat f.srcB).length) (globalAddr u c.t f) [] none (readOp u c.t f.thr.toNat f.srcB).length
        (readOp u c.t f.thr.toNat f.srcB) (issued c cy u))) with pending := u.pending } := by
  have answer : exec (.st t f) s = _ := run_issue h _
  dsimp only at answer
  rw [globalAddr_issued, isRemote_issued, remote, if_pos rfl, readOp_issued] at answer
  exact answer

theorem ld_remote_answer (h : Issues ldSpec t f s u c cy) (remote : isRemote u (globalAddr u c.t f) = true) :
    ∃ s', exec (.ld t f) s = .next s' ∧ BytesBut u s' c 0 0 ∧ Steps s' c (cy + 1 + frameCycles ldSpec f) ∧ Leaves u s' c ∧
      opAddr c.t f.thr.toNat f.dst ∈ (getTp s' c.t).arriving ∧
      s'.net.remotes = s.net.remotes ++ [askedOf s c f (globalAddr u c.t f) [opAddr c.t f.thr.toNat f.dst] (some (opAddr c.t f.thr.toNat f.dst)) (opSize f.dst)] ∧
      s'.net.nextTag = (s.net.nextTag + 1) % 65536 ∧
      ∀ n, routeVia (getPart s (jobPart c.job)).routes s (globalChip (globalAddr u c.t f)) = some n → (getLink s' n).qB = (getLink s n).qB ++
        [{ fr := mkFrame s 2 0x09 (globalChip (globalAddr u c.t f)) (globalAddr u c.t f / 64 * 64) s.net.nextTag [] }] := by
  have answer := ld_remote h remote
  generalize opAddr c.t f.thr.toNat f.dst = d at *
  generalize globalAddr u c.t f = g at *
  obtain ⟨sends, remotes, tag, queued⟩ := sendRemote_issued h 0x09 (g / 64 * 64) g [d] (some d) (opSize f.dst) []
  generalize sendRemote c f 0x09 (g / 64 * 64) g [d] (some d) (opSize f.dst) [] (issued c cy u) = w at *
  obtain ⟨bytes, steps, leaves, arriving, net, links⟩ := remote_retired (nx := cy + 1 + frameCycles ldSpec f) (g := expects d) h sends (fun _ => rfl) (fun _ => rfl)
  generalize ({ collect (retire c.t (cy + 1 + frameCycles ldSpec f) (modTp c.t (expects d) w)) with pending := u.pending } : State) = s' at *
  refine ⟨s', answer, bytes, steps, leaves, ?_, ?_, ?_, fun n way => ?_⟩
  · rw [arriving]
    exact List.mem_cons_self
  · rw [net, remotes]
  · rw [net, tag]
  · rw [← queued n way, getLink, links]
    rfl

theorem st_remote_answer (h : Issues stSpec t f s u c cy) (remote : isRemote u (globalAddr u c.t f) = true) :
    ∃ s', exec (.st t f) s = .next s' ∧ BytesBut u s' c 0 0 ∧ Steps s' c (cy + 1 + frameCycles stSpec f) ∧ Leaves u s' c ∧
      s'.net.remotes = s.net.remotes ++ [askedOf s c f (globalAddr u c.t f) [] none (readOp u c.t f.thr.toNat f.srcB).length] ∧
      ∀ n, routeVia (getPart s (jobPart c.job)).routes s (globalChip (globalAddr u c.t f)) = some n → (getLink s' n).qB = (getLink s n).qB ++
        [{ fr := mkFrame s 2 0x08 (globalChip (globalAddr u c.t f)) (writeArg (globalAddr u c.t f) (readOp u c.t f.thr.toNat f.srcB).length) s.net.nextTag
                   (readOp u c.t f.thr.toNat f.srcB) }] := by
  have answer := st_remote h remote
  generalize readOp u c.t f.thr.toNat f.srcB = bs at *
  generalize globalAddr u c.t f = g at *
  obtain ⟨sends, remotes, -, queued⟩ := sendRemote_issued h 0x08 (writeArg g bs.length) g [] none bs.length bs
  generalize sendRemote c f 0x08 (writeArg g bs.length) g [] none bs.length bs (issued c cy u) = w at *
  obtain ⟨leaves, steps, bytes, -, -, rest⟩ := works_retired (nx := cy + 1 + frameCycles stSpec f) h (works_of_sends sends)
  have mem : w.mem = u.mem := sends.mem.trans (issued_mem c cy u)
  generalize ({ collect (retire c.t (cy + 1 + frameCycles stSpec f) w) with pending := u.pending } : State) = s' at *
  have net : s'.net = w.net := (congrArg State.net rest :)
  have links : s'.links = w.links := (congrArg State.links rest :)
  refine ⟨s', answer, fun x _ hx => ?_, steps, leaves, ?_, fun n way => ?_⟩
  · rw [bytes x hx, mem]
  · rw [net, remotes]
  · rw [← queued n way, getLink, links]
    rfl

end

/-- Settles O7, by `ld_remote_answer` and `st_remote_answer`. -/
theorem remoteAccesses : Obligations.RemoteAccesses := by
  intro t f s u c cy g d x bs way remote
  exact ⟨fun h => ld_remote_answer h remote, fun h => st_remote_answer h remote⟩

end Sys2Proof.Machine
end

section
/-! PROOFS. A load from a Vat in the body of a loop whose index is kept at the loaded address (R63, R66, R93). -/

namespace Sys2Proof.Machine

/-! ### A state in which the statement about Vat loads fails

A Vat load takes its bytes when its banks serve its lines, behind what its issue changes; the retirement of the last instruction of a
loop's body writes the loop's index. Where a loop's index stands at the loaded address, the load brings the index. LOOP names a scalar
register, so no run comes here; the statement is about every state. -/

/-- A Movement of one tile of eight instructions on TP 0. -/
def oneTile : Movement :=
  { slipLimit := 10
    tiles := [{ codeOff := 0, codeLen := 8, ceiling := 1000, claim := 0, layer := 0xFF, rvWindow := 4, cost := 0, mask := 1 }] }

/-- A running job of that tile, with 64 KiB of the first Vat. -/
def vatJob : Job := { state := 3, movement := some oneTile, ranges := [(0, (0xC_0000_0000, 0x10000))], run := { active := true } }

/-- The tile, as it runs on a TP. -/
def runningTile : TileRun := { slot := 0, tile := 0, id := 8, began := 0, ceilEnd := 64000 }

/-- A loop in its first of two rounds, at the last instruction of its body, with its index in the first bytes of the first Vat. -/
def vatLoop : Nest :=
  { isLoop := true, issue := 0, start := 0, stop := 1, after := 1, bound := 1000, nMax := 2, iter := 0, iterStart := 0, counted := true
    dst := some 0xC_0000_0000, thr := 0, codeAt := 0 }

/-- The TP in that loop. -/
def loopTp : Tp := { tile := some runningTile, next := 8, lastJob := some 0, nest := [vatLoop] }

/-- The device with TP 0 in that loop; thread 0's s1 holds the address of the first Vat. -/
def loopState : State :=
  { State.reset with
    pwr := { porN := true, state := .running }
    jobs := [(0, vatJob)], tps := [(0, loopTp)], mem := [(0xD_0000_080C, 0x0C)] }

/-- The tile's context. -/
def loopCtx : TileCtx :=
  { t := 0, slot := 0, tile := runningTile, job := vatJob, mov := oneTile, hdr := tileHdr oneTile 0, tp := loopTp }

/-- LD of 8 B from the address in s1 into s5. -/
def vatLoad : TField := { thr := 0, ty := 8, mod := 0, dst := 5, srcA := 1, srcB := 0, srcC := 0, imm := 0 }

/-- The number that a load has brought to an address, once all lines in flight are served. -/
def broughtTo (d : Nat) (out : Host.Outcome State Fault Refusal) : Nat :=
  match out with
  | .next s => memNat (serveAll s).mem d 8
  | _ => 0

theorem loopCtx_tile : tileCtx loopState 0 = some loopCtx := rfl

theorem vatLoad_ready : readied ldSpec loopCtx vatLoad loopState = some (8, loopState) := by
  have cycle : operandCycle ldSpec loopCtx vatLoad = some 8 := by decide +kernel
  have issue : issueCycle ldSpec loopState loopCtx vatLoad = some 8 := by decide +kernel
  unfold readied
  rw [cycle]
  dsimp only
  rw [serveTo_none _ _ rfl, issue]
  dsimp only
  rw [serveTo_none _ _ rfl]

theorem vatLoad_issues : Issues ldSpec 0 vatLoad loopState loopState loopCtx 8 where
  tile := loopCtx_tile
  inCode := by decide +kernel
  defined_ := by decide +kernel
  at_ := vatLoad_ready
  accepted := by decide +kernel
  passes := by decide +kernel
  inTime := by
    intro d due
    have bound : some d = some 1000 := due.symm.trans (by decide +kernel)
    cases bound
    decide +kernel
  running := by decide +kernel
  access := by
    intro g n al asked
    have address : ldSpec.access loopState loopCtx vatLoad = some (0xC_0000_0000, 8, 8) := by decide +kernel
    rw [address] at asked
    cases asked
    decide +kernel

/-- The load brings the index of the loop's second round. -/
theorem vatLoad_brings : broughtTo 0xD_0000_0828 (exec (.ld 0 vatLoad) loopState) = 1 := by decide +kernel

/-- Refutes O6: a load from a Vat reads, at its banks, the index that the end of its loop's body wrote at its address. -/
theorem not_localLoadsAndStores : ¬ Obligations.LocalLoadsAndStores := by
  intro holds
  obtain ⟨loads, -⟩ := holds
  have own : isRemote loopState (globalAddr loopState loopCtx.t vatLoad) = false := by decide +kernel
  obtain ⟨ld, -⟩ := loads 0 vatLoad loopState loopState loopCtx 8 own
  obtain ⟨s', answer, issued⟩ := ld vatLoad_issues (by decide +kernel)
  have address : globalLocal (globalAddr loopState loopCtx.t vatLoad) = 0xC_0000_0000 := by decide +kernel
  have register : opAddr loopCtx.t vatLoad.thr.toNat vatLoad.dst = 0xD_0000_0828 := by decide +kernel
  have size : opSize vatLoad.dst = 8 := by decide +kernel
  rw [address, register, size] at issued
  have apart : OffIndexes loopCtx 0xD_0000_0828 8 := by
    intro d index
    have only : loopIndexes loopCtx.tp = [0xC_0000_0000] := rfl
    rw [only, List.mem_singleton] at index
    rw [index, Apart]
    decide
  obtain ⟨came, -⟩ := issued.lands (Nat.le_refl _) rfl apart
  have zero : memNat loopState.mem 0xC_0000_0000 8 = 0 := by decide +kernel
  have brought := vatLoad_brings
  rw [answer] at brought
  have read : memNat (serveAll s').mem 0xD_0000_0828 8 = memNat loopState.mem 0xC_0000_0000 8 := congrArg leNat came
  rw [zero] at read
  exact absurd (brought.symm.trans read) (by decide)

end Sys2Proof.Machine
end
